-- ==== Sys2Proof/Word.lean ====
section
/-! DEFINITION. The word types of the VK-1640 (00_scope.md R1 to R3). -/

namespace Sys2Proof

/-- A 64-bit scalar register, address or syllable. -/
abbrev Word := BitVec 64
/-- One byte of memory. -/
abbrev Byte := BitVec 8
/-- A 512-byte vector row (R3, R62), byte 0 in bits 7:0. -/
abbrev Row := BitVec 4096
/-- A predicate register: bit i governs lane i (R3, R61). -/
abbrev Pred := BitVec 512

end Sys2Proof
end

