-- ==== Sys2Proof/Syntax.lean ====
section
/-! DEFINITION. The instructions of Afsel and the other steps of the part: one constructor of `Instr` for each
row of spec/opcode_table.json. Operand fields are typed by the kinds their field class accepts (05_encoding
R64, R66, R90, R91), so that a term of `Instr` holds no designator of a wrong kind. -/

namespace Sys2Proof

/-- The four clusters of a role (R48), in the order of R53. -/
inductive Cluster where
  | l | m | v | w
  deriving DecidableEq, Repr

/-- A role slot: logical core and slot number (R10, R45). -/
structure Slot where
  core : BitVec 8
  slot : BitVec 2
  deriving DecidableEq, Repr

/-- The common fields of every syllable (R82) but the major: sync bit, guard, guard negate. -/
structure Hdr where
  s  : Bool
  g  : BitVec 7
  gn : Bool
  deriving DecidableEq, Repr

/-- Element types (R22), in the order of their codes in MOD 2:0. -/
inductive ETy where
  | fp32 | bf16 | fp16 | f8a | f8b | i32 | i16 | i8
  deriving DecidableEq, Repr

/-- Format codes 0 to 10 (R96). -/
inductive Fmt where
  | el (t : ETy) | sx2 | sx4 | sx7
  deriving DecidableEq, Repr

/-- Rounding modes (R33), in the order of MOD 4:3. -/
inductive RM where
  | rne | rtz | rdn | rup
  deriving DecidableEq, Repr

/-- Condition codes (R101). -/
inductive Cond where
  | eq | ne | lt | le | gt | ge | ltu | leu | gtu | geu
  deriving DecidableEq, Repr

/-- Scopes (R88). -/
inductive Scope where
  | role | core | die | device | group | system
  deriving DecidableEq, Repr

/-- Memory orderings (R88): relaxed, acquire, release, acquire-release. -/
inductive Ord where
  | relaxed | acq | rel | acqRel
  deriving DecidableEq, Repr

/-- Access sizes (R88): 1, 2, 4, 8, 64 and 512 bytes. -/
inductive Size where
  | b1 | b2 | b4 | b8 | b64 | b512
  deriving DecidableEq, Repr

/-- Scalar specials (R64). -/
inductive Special where
  | zero | core | ncores | role | dtime | iter
  deriving DecidableEq, Repr

/-- What a scalar source field accepts (R66): X0 to X31, Q0 to Q7, a small constant, a scalar special. -/
inductive SSrc where
  | x (n : BitVec 5) | q (n : BitVec 3) | k (c : BitVec 5) | sp (s : Special)
  deriving DecidableEq, Repr

/-- What a scalar destination accepts (R119): X0 to X31 or Q0 to Q7. -/
inductive SDst where
  | x (n : BitVec 5) | q (n : BitVec 3)
  deriving DecidableEq, Repr

/-- What a row source field accepts (R66): every kind of designator. -/
inductive RSrc where
  | v (n : BitVec 7) | s (n : BitVec 4) | qw (n : BitVec 3) | lane | sc (a : SSrc)
  deriving DecidableEq, Repr

/-- What a row destination accepts (R145): a V row, a 512-byte queue Q8 to Q15, a stream. -/
inductive RDst where
  | v (n : BitVec 7) | qw (n : BitVec 3) | s (n : BitVec 4)
  deriving DecidableEq, Repr

/-- The T field of LDT: a scalar destination or a 512-byte queue Q8 + n (R233). -/
inductive TDst where
  | s (d : SDst) | qw (n : BitVec 3)
  deriving DecidableEq, Repr

/-- The T field of STT: a scalar source or a 512-byte queue Q8 + n (R233). -/
inductive TSrc where
  | s (a : SSrc) | qw (n : BitVec 3)
  deriving DecidableEq, Repr

/-- A scalar source with its last-read mark and, in the R format, its reuse bit (R84). -/
structure MS where
  src : SSrc
  mark : Bool
  reuse : Bool
  deriving DecidableEq, Repr

/-- A row source with its last-read mark and its reuse bit. -/
structure MR where
  src : RSrc
  mark : Bool
  reuse : Bool
  deriving DecidableEq, Repr

/-- A third source C: it has a last-read mark and no reuse bit (R84). -/
structure CS where
  src : SSrc
  mark : Bool
  deriving DecidableEq, Repr

/-- A third row source C. -/
structure CR where
  src : RSrc
  mark : Bool
  deriving DecidableEq, Repr

/-- A constant field holding a small-constant designator (R145), its mark and its reuse bit. -/
structure KF where
  k : BitVec 5
  mark : Bool
  reuse : Bool
  deriving DecidableEq, Repr

/-- Scalar operations of one, two and three sources (R136). -/
structure S1 where
  d : SDst
  a : MS
  deriving DecidableEq, Repr
structure S2 where
  d : SDst
  a : MS
  b : MS
  deriving DecidableEq, Repr
structure S3 where
  d : SDst
  a : MS
  b : MS
  c : CS
  deriving DecidableEq, Repr

/-- Sources only: A, and A with B. -/
structure A2 where
  a : MS
  b : MS
  deriving DecidableEq, Repr

/-- A predicate destination with scalar sources A and B (CMP, PSETX, WNEXT, WLATE). -/
structure P2 where
  p : BitVec 7
  a : MS
  b : MS
  deriving DecidableEq, Repr

/-- The I format with a source (R85). -/
structure I1 where
  d : SDst
  a : SSrc
  la : Bool
  imm : BitVec 25
  deriving DecidableEq, Repr

/-- Vector operations of one, two and three row sources (R145, R146). -/
structure V1 where
  d : RDst
  a : MR
  ty : ETy
  rm : RM
  deriving DecidableEq, Repr
structure V2 where
  d : RDst
  a : MR
  b : MR
  ty : ETy
  rm : RM
  deriving DecidableEq, Repr
structure V3 where
  d : RDst
  a : MR
  b : MR
  c : CR
  ty : ETy
  rm : RM
  deriving DecidableEq, Repr

/-- A compare of rows (R155). -/
structure VC where
  p : BitVec 7
  a : MR
  b : MR
  ty : ETy
  deriving DecidableEq, Repr

/-- VSEL (R156): rows A and B, predicate C. -/
structure VSelF where
  d : RDst
  a : MR
  b : MR
  p : BitVec 7
  ty : ETy
  deriving DecidableEq, Repr

/-- A row source and a scalar source (VBCAST, VROT). -/
structure VRS where
  d : RDst
  a : MR
  b : MS
  ty : ETy
  deriving DecidableEq, Repr

/-- VLANE (R156). -/
structure VLaneF where
  d : SDst
  a : MR
  b : MS
  ty : ETy
  deriving DecidableEq, Repr

/-- VINS (R156): the destination is a V row. -/
structure VInsF where
  d : BitVec 7
  a : MS
  b : MS
  ty : ETy
  deriving DecidableEq, Repr

/-- VCVT (R157). -/
structure VCvtF where
  d : RDst
  a : MR
  part : KF
  src : ETy
  dst : ETy
  rm : RM
  deriving DecidableEq, Repr

/-- A reduction to a scalar destination (R161). -/
structure VRedF where
  d : SDst
  a : MR
  ty : ETy
  rm : RM
  deriving DecidableEq, Repr

/-- VZIP and VUNZIP (R164): C is a constant field. -/
structure VZipF where
  d : RDst
  a : MR
  b : MR
  h : BitVec 5
  lc : Bool
  ty : ETy
  deriving DecidableEq, Repr

/-- VRNG (R165): scalar key and base; the type is INT32. -/
structure VRngF where
  d : RDst
  a : MS
  b : MS
  deriving DecidableEq, Repr

/-- VRNGP (R166). -/
structure VRngPF where
  p : BitVec 7
  a : MS
  b : MS
  c : CS
  ty : ETy
  deriving DecidableEq, Repr

/-- VQUANT and VDEQ (R168, R169): C is a constant field holding m. -/
structure VSxF where
  d : RDst
  a : MR
  m : BitVec 5
  lc : Bool
  ty : ETy
  rm : RM
  deriving DecidableEq, Repr

/-- VSCALE (R170). -/
structure VScaleF where
  d : RDst
  a : MR
  b : MS
  m : BitVec 5
  lc : Bool
  ty : ETy
  deriving DecidableEq, Repr

/-- Four 16-bit fields of a nest record word, level 0 innermost (R95). -/
structure Quad where
  n0 : BitVec 16
  n1 : BitVec 16
  n2 : BitVec 16
  n3 : BitVec 16
  deriving DecidableEq, Repr

/-- The fields an MMA record reads (R94, R95, R97). -/
structure MmaF where
  prof : BitVec 8
  aring : BitVec 8
  bring : BitVec 8
  acc : BitVec 8
  za : Bool
  as : Bool
  bs : Bool
  bt : Bool
  trip : Quad
  sa : Quad
  sb : Quad
  sc : Quad
  ss : Quad
  scen : Bool
  scs : BitVec 4
  acq : Bool
  rel : Bool
  scp : Scope
  afmt : Fmt
  bfmt : Fmt
  deriving DecidableEq, Repr

/-- The fields a row operation reads (R97): MHAD, MZERO, MTRANS use part of them. -/
structure RowF where
  acc : BitVec 8
  rows : BitVec 8
  hsel : BitVec 4
  hk : BitVec 3
  deriving DecidableEq, Repr

/-- MDRAIN (R97). -/
structure DrainF where
  acc : BitVec 8
  rows : BitVec 8
  hsel : BitVec 4
  hk : BitVec 3
  fmt : Fmt
  rnd : RM
  kind : BitVec 2
  val : BitVec 13
  acq : Bool
  rel : Bool
  scp : Scope
  deriving DecidableEq, Repr

/-- MLOADA (R97). -/
structure LoadAF where
  acc : BitVec 8
  rows : BitVec 8
  fmt : Fmt
  kind : BitVec 2
  val : BitVec 13
  acq : Bool
  scp : Scope
  deriving DecidableEq, Repr

/-- The M format but its T field (R88). -/
structure MF where
  base : SSrc
  idx : SSrc
  scope : Scope
  ord : Ord
  sz : Size
  lbase : Bool
  lidx : Bool
  disp : BitVec 8
  deriving DecidableEq, Repr

/-- ATOMF.D (R241): IDX is a constant field holding the level. -/
structure AtomDF where
  base : SSrc
  lvl : BitVec 5
  scope : Scope
  lbase : Bool
  lidx : Bool
  disp : BitVec 8
  deriving DecidableEq, Repr

/-- COPY and COPYS (R247). -/
structure CopyF where
  d : BitVec 5
  a : MS
  b : MS
  acq : Bool
  rel : Bool
  scope : Scope
  deriving DecidableEq, Repr

/-- MSG and SPAWN (R262): D, A and B are scalar sources. -/
structure SendF where
  d : SSrc
  a : MS
  b : MS
  rel : Bool
  scope : Scope
  deriving DecidableEq, Repr

/-- An STRM syllable with sources (R253). -/
structure Str1 where
  d : BitVec 4
  a : MS
  deriving DecidableEq, Repr
structure Str2 where
  d : BitVec 4
  a : MS
  b : MS
  deriving DecidableEq, Repr

/-- An arrival as it reaches a core (R72 to R75): address space, handler address, payload bytes, the value
X3 takes, the value X4 takes. -/
structure Arrival where
  asid : BitVec 16
  handler : Word
  payload : List Byte
  sender : Word
  x4 : Word
  deriving DecidableEq, Repr

/-- A bind record (R302) but KIND, PART in `part`. -/
structure BindRec where
  part : BitVec 8
  asid : BitVec 16
  lid : BitVec 32
  entL : Word
  entM : Word
  entV : Word
  entW : Word
  hwStart : Word
  hwLen : Word
  twBase : BitVec 32
  twSize : BitVec 32
  save : Word
  arg : Word
  recAddr : Word
  deriving DecidableEq, Repr

/-- What the root monitor sets for a HOST port of a partition: the physical base and length of the window that host offsets
reach (R389), and the offset and address space of its doorbell page (R390). -/
structure PortWin where
  port : Nat
  base : Nat
  len : Nat
  dbOff : Nat
  dbAsid : BitVec 16
  deriving DecidableEq, Repr

/-- A token budget of a partition (R316): what it limits (0 HBM requests, 1 crossbar requests, 2 + p requests over optical port p),
its tokens, and the cycles after which the root monitor fills it again (log 44). -/
structure Budget where
  kind : Nat
  size : Nat
  period : Nat
  deriving DecidableEq, Repr

/-- A partition's properties (R378). -/
structure Partition where
  /-- Token budgets (R316). -/
  budgets : List Budget
  svcs : List Nat
  asids : List Nat
  hbm : List Nat
  /-- Units of the slices, with those that act as memory-side cache. -/
  slice : List Nat
  cache : List Nat
  cores : List Nat
  streams : List Nat
  ports : List (Nat × Nat)
  /-- I/O queue pairs of the drives, each as 256 times its drive plus its number, and namespaces as (drive, number) (R383). -/
  nvme : List Nat
  namespaces : List (Nat × Nat)
  weight : Nat
  /-- The kernel image: whether its signature is good, its number, its security version (R379, R440). -/
  imageOk : Bool
  image : Nat
  version : Nat
  wins : List PortWin
  deriving DecidableEq, Repr

/-- A signed image: its number, its security version, and whether its signature is good (R379, R440). -/
structure Img where
  num : Nat
  version : Nat
  sigOk : Bool
  deriving DecidableEq, Repr

/-- A spare replacement: the logical unit, and the security version of the repair-map record that it writes (R432, R440). -/
structure Spare where
  logical : Nat
  version : Nat
  deriving DecidableEq, Repr

/-- What a drive serves: its number and the queue pair, and the namespace of the command, or none for the queue itself (R383). -/
structure DriveCmd where
  drive : Nat
  queue : Nat
  ns : Option Nat
  deriving DecidableEq, Repr

/-- What a bring-up finds (R438): the images of the root monitor and of the scheduler, and the step that fails for a reason that the model
does not show. -/
structure Firmware where
  mon : Img
  sch : Img
  fail : Option Nat
  deriving DecidableEq, Repr

/-- Who writes a control register: the scheduler core, a service core, or the root monitor. -/
inductive Master where
  | sched | svc (n : Nat) | monitor
  deriving DecidableEq, Repr

/-- What an ACCESS_SERVED step serves: a pending access, or the next granule of a copy (R231, R248). -/
inductive Pend where
  | acc (k : Nat) | copy (k : Nat)
  deriving DecidableEq, Repr

/-- The kinds of unit a place table maps (R381) and a spare replaces (R432). -/
inductive UnitKind where
  | channel | slice | core
  deriving DecidableEq, Repr

/-- Where an uncorrectable error falls (R428). -/
inductive ErrSite where
  | mem (pa : Nat) | tile (core : Nat) (off : Nat) | regs (r : Slot) (cl : Cluster)
  deriving DecidableEq, Repr

/-- The fields of a launch level or other index: launch key. -/
structure LKey where
  part : Nat
  lid : Nat
  deriving DecidableEq, Repr

/-- One constructor for each row of spec/opcode_table.json. A syllable carries its header and its operands;
the other steps carry the agent's operands. -/
inductive Instr where
  | nop (h : Hdr)
  | hint (h : Hdr) (payload : BitVec 48)
  | hint7F (h : Hdr) (payload : BitVec 48)
  | br (h : Hdr) (off : BitVec 28)
  | brpAny (h : Hdr) (p : BitVec 7) (ty : ETy) (off : BitVec 28)
  | brpAll (h : Hdr) (p : BitVec 7) (ty : ETy) (off : BitVec 28)
  | brpNone (h : Hdr) (p : BitVec 7) (ty : ETy) (off : BitVec 28)
  | brx (h : Hdr) (cc : Cond) (a b : SSrc) (off : BitVec 28)
  | call (h : Hdr) (x : BitVec 5) (off : BitVec 28)
  | ret (h : Hdr) (a : SSrc)
  | jmpx (h : Hdr) (a : SSrc) (off : BitVec 28)
  | loop (h : Hdr) (a : SSrc) (off : BitVec 28)
  | loopi (h : Hdr) (n : BitVec 16) (off : BitVec 28)
  | lrec (h : Hdr) (a b : SSrc) (off : BitVec 28)
  | halt (h : Hdr)
  | yield (h : Hdr)
  | trap (h : Hdr) (n : BitVec 8)
  | tfence (h : Hdr)
  | seqdef (h : Hdr) (a : MS)
  | seqnext (h : Hdr) (d : SDst) (x : BitVec 5)
  | add (h : Hdr) (o : S2)
  | sub (h : Hdr) (o : S2)
  | mul (h : Hdr) (o : S2)
  | mulh (h : Hdr) (o : S2)
  | mulhu (h : Hdr) (o : S2)
  | madd (h : Hdr) (o : S3)
  | div (h : Hdr) (o : S2)
  | divu (h : Hdr) (o : S2)
  | rem (h : Hdr) (o : S2)
  | remu (h : Hdr) (o : S2)
  | and (h : Hdr) (o : S2)
  | or (h : Hdr) (o : S2)
  | xor (h : Hdr) (o : S2)
  | andn (h : Hdr) (o : S2)
  | shl (h : Hdr) (o : S2)
  | shr (h : Hdr) (o : S2)
  | sar (h : Hdr) (o : S2)
  | rol (h : Hdr) (o : S2)
  | ror (h : Hdr) (o : S2)
  | min (h : Hdr) (o : S2)
  | max (h : Hdr) (o : S2)
  | minu (h : Hdr) (o : S2)
  | maxu (h : Hdr) (o : S2)
  | clz (h : Hdr) (o : S1)
  | ctz (h : Hdr) (o : S1)
  | popc (h : Hdr) (o : S1)
  | sel (h : Hdr) (o : S3)
  | sext (h : Hdr) (o : S2)
  | zext (h : Hdr) (o : S2)
  | adds (h : Hdr) (o : S2)
  | subs (h : Hdr) (o : S2)
  | msub (h : Hdr) (o : S3)
  | aluiAdd (h : Hdr) (o : I1)
  | aluiMul (h : Hdr) (o : I1)
  | aluiAnd (h : Hdr) (o : I1)
  | aluiOr (h : Hdr) (o : I1)
  | aluiXor (h : Hdr) (o : I1)
  | aluiShl (h : Hdr) (o : I1)
  | aluiShr (h : Hdr) (o : I1)
  | aluiSar (h : Hdr) (o : I1)
  | aluiRol (h : Hdr) (o : I1)
  | aluiRor (h : Hdr) (o : I1)
  | aluiMin (h : Hdr) (o : I1)
  | aluiMax (h : Hdr) (o : I1)
  | aluiMinu (h : Hdr) (o : I1)
  | aluiMaxu (h : Hdr) (o : I1)
  | aluiAdds (h : Hdr) (o : I1)
  | movk (h : Hdr) (x : BitVec 5) (imm : BitVec 40)
  | movkh (h : Hdr) (x : BitVec 5) (imm : BitVec 24)
  | lea (h : Hdr) (o : I1)
  | cmp (h : Hdr) (cc : Cond) (o : P2)
  | pand (h : Hdr) (d a b : BitVec 7)
  | por (h : Hdr) (d a b : BitVec 7)
  | pxor (h : Hdr) (d a b : BitVec 7)
  | pandn (h : Hdr) (d a b : BitVec 7)
  | pnot (h : Hdr) (d a : BitVec 7)
  | pmov (h : Hdr) (d a : BitVec 7)
  | psetx (h : Hdr) (o : P2)
  | pgetx (h : Hdr) (d : SDst) (a : BitVec 7) (b : MS)
  | pcnt (h : Hdr) (d : SDst) (a : BitVec 7) (ty : ETy)
  | pfirst (h : Hdr) (d : SDst) (a : BitVec 7) (ty : ETy)
  | plast (h : Hdr) (d : SDst) (a : BitVec 7) (ty : ETy)
  | qlen (h : Hdr) (d : SDst) (q : BitVec 4) (ua : Bool)
  | vadd (h : Hdr) (o : V2)
  | vsub (h : Hdr) (o : V2)
  | vmul (h : Hdr) (o : V2)
  | vfma (h : Hdr) (o : V3)
  | vfnma (h : Hdr) (o : V3)
  | vdiv (h : Hdr) (o : V2)
  | vmin (h : Hdr) (o : V2)
  | vmax (h : Hdr) (o : V2)
  | vabs (h : Hdr) (o : V1)
  | vneg (h : Hdr) (o : V1)
  | vadds (h : Hdr) (o : V2)
  | vsubs (h : Hdr) (o : V2)
  | vmulhi (h : Hdr) (o : V2)
  | vand (h : Hdr) (o : V2)
  | vor (h : Hdr) (o : V2)
  | vxor (h : Hdr) (o : V2)
  | vandn (h : Hdr) (o : V2)
  | vnot (h : Hdr) (o : V1)
  | vshl (h : Hdr) (o : V2)
  | vshr (h : Hdr) (o : V2)
  | vsar (h : Hdr) (o : V2)
  | vcmp (h : Hdr) (cc : Cond) (o : VC)
  | vsel (h : Hdr) (o : VSelF)
  | vmov (h : Hdr) (o : V1)
  | vbcast (h : Hdr) (o : VRS)
  | vlane (h : Hdr) (o : VLaneF)
  | vins (h : Hdr) (o : VInsF)
  | vcvt (h : Hdr) (o : VCvtF)
  | vrecip (h : Hdr) (o : V1)
  | vrsqrt (h : Hdr) (o : V1)
  | vsqrt (h : Hdr) (o : V1)
  | vexp2 (h : Hdr) (o : V1)
  | vlog2 (h : Hdr) (o : V1)
  | vtanh (h : Hdr) (o : V1)
  | vsigm (h : Hdr) (o : V1)
  | vredsum (h : Hdr) (o : VRedF)
  | vredmax (h : Hdr) (o : VRedF)
  | vredmin (h : Hdr) (o : VRedF)
  | vscansum (h : Hdr) (o : V1)
  | vperm (h : Hdr) (o : V2)
  | vrot (h : Hdr) (o : VRS)
  | vzip (h : Hdr) (o : VZipF)
  | vunzip (h : Hdr) (o : VZipF)
  | vrng (h : Hdr) (o : VRngF)
  | vrngp (h : Hdr) (o : VRngPF)
  | vquant (h : Hdr) (o : VSxF)
  | vdeq (h : Hdr) (o : VSxF)
  | vscale (h : Hdr) (o : VScaleF)
  | mma (s : Bool) (f : MmaF)
  | mmas (s : Bool) (f : MmaF) (bmoff spidx : BitVec 16)
  | mhad (s : Bool) (f : RowF)
  | mdrain (s : Bool) (f : DrainF)
  | mzero (s : Bool) (acc rows : BitVec 8)
  | mloada (s : Bool) (f : LoadAF)
  | mtrans (s : Bool) (acc rows : BitVec 8)
  | nestStepCommit (r : Slot)
  | nestRetire (r : Slot)
  | mwait (h : Hdr)
  | mstat (h : Hdr) (d : SDst)
  | ld (h : Hdr) (t : SDst) (m : MF)
  | st (h : Hdr) (t : SSrc) (m : MF)
  | ldt (h : Hdr) (t : TDst) (m : MF)
  | stt (h : Hdr) (t : TSrc) (m : MF)
  | ldv (h : Hdr) (q : BitVec 3) (m : MF)
  | stv (h : Hdr) (q : BitVec 3) (m : MF)
  | gather (h : Hdr) (q : BitVec 3) (m : MF)
  | scatter (h : Hdr) (q : BitVec 3) (m : MF)
  | atomAdd (h : Hdr) (x : BitVec 5) (m : MF)
  | atomAnd (h : Hdr) (x : BitVec 5) (m : MF)
  | atomOr (h : Hdr) (x : BitVec 5) (m : MF)
  | atomXor (h : Hdr) (x : BitVec 5) (m : MF)
  | atomMin (h : Hdr) (x : BitVec 5) (m : MF)
  | atomMax (h : Hdr) (x : BitVec 5) (m : MF)
  | atomMinu (h : Hdr) (x : BitVec 5) (m : MF)
  | atomMaxu (h : Hdr) (x : BitVec 5) (m : MF)
  | atomSwap (h : Hdr) (x : BitVec 5) (m : MF)
  | atomCas (h : Hdr) (x : BitVec 5) (m : MF)
  | atomf (h : Hdr) (x : BitVec 5) (m : MF)
  | atomfD (h : Hdr) (x : BitVec 5) (m : AtomDF)
  | barrierGenerationComplete (l : LKey) (level inst : Nat)
  | fence (h : Hdr) (scope : Scope) (ord : Ord)
  | pref (h : Hdr) (t : BitVec 5) (m : MF)
  | copy (h : Hdr) (o : CopyF)
  | copyComplete (r : Slot) (k : Nat)
  | copyw (h : Hdr)
  | copys (h : Hdr) (o : CopyF) (c : CS)
  | sdef (h : Hdr) (o : Str1)
  | snest (h : Hdr) (o : Str2)
  | sbind (h : Hdr) (o : Str1)
  | spos (h : Hdr) (o : Str1)
  | scommit (h : Hdr) (d : BitVec 4)
  | sreset (h : Hdr) (d : BitVec 4)
  | linkVectorArrive (core : BitVec 8) (dir : Nat) (slot : BitVec 2)
  | rdef (h : Hdr) (r : BitVec 5) (b : MS)
  | racq (h : Hdr) (d : SDst) (r : BitVec 5)
  | rpub (h : Hdr) (r : BitVec 5)
  | rrel (h : Hdr) (r : BitVec 5)
  | rpoison (h : Hdr) (r : BitVec 5)
  | rstat (h : Hdr) (d : SDst) (r : BitVec 5)
  | barArrive (h : Hdr) (lvl : BitVec 5) (ua : Bool)
  | barWait (h : Hdr) (lvl : BitVec 5) (ua : Bool)
  | msg (h : Hdr) (o : SendF) (c : CS)
  | msgDelivery (core : BitVec 8) (k : Nat)
  | spawn (h : Hdr) (o : SendF)
  | spawnBind (part : Nat)
  | pclaim (h : Hdr) (o : S1)
  | ppub (h : Hdr) (o : A2)
  | pabort (h : Hdr) (o : A2)
  | pgrab (h : Hdr) (p : BitVec 7) (x : BitVec 5) (b : MS)
  | prel (h : Hdr) (o : A2)
  | pstat (h : Hdr) (o : S2)
  | poolRetire (by_ : Master) (pa : Nat)
  | replyCommit (r : Slot) (k : Nat)
  | cuemk (h : Hdr) (o : A2)
  | cueres (h : Hdr) (o : A2)
  | cueresV (h : Hdr) (a : MS) (q : BitVec 3) (lb ub : Bool)
  | cuefail (h : Hdr) (o : A2)
  | cuepeek (h : Hdr) (o : S1)
  | cuestat (h : Hdr) (o : S2)
  | accessServed (r : Slot) (p : Pend)
  | cueLoadResend (r : Slot) (k : Nat)
  | pendingTouchTake (slice : Nat)
  | prompterQueueDispatch (slice : Nat)
  | deepwait (r : Slot) (k : Nat)
  | launch (h : Hdr) (o : S2)
  | lwait (h : Hdr) (o : S1)
  | rdcsr (h : Hdr) (d : SDst) (csr : BitVec 12)
  | wrcsr (h : Hdr) (a : SSrc) (la : Bool) (csr : BitVec 12)
  | rdtime (h : Hdr) (d : SDst)
  | recapp (h : Hdr) (o : S2)
  | wmark (h : Hdr) (o : A2)
  | sidle (h : Hdr) (a : MS)
  | wnext (h : Hdr) (o : P2)
  | wpub (h : Hdr) (o : A2)
  | wlate (h : Hdr) (o : P2)
  | idleTimerTest
  | curtainArrivalDispatch
  | streamOpen (by_ : Master) (n : Nat)
  | streamClose (by_ : Master) (n : Nat)
  | bundleIssue (r : Slot)
  | watchdog (r : Slot)
  | bindRunning (r : Slot) (b : BindRec)
  | bindDormant (r : Slot) (b : BindRec)
  | freeSlot (r : Slot)
  | arrivalAccept (core : BitVec 8) (a : Arrival)
  | arrivalStart (core : BitVec 8)
  | bindRequest (core : BitVec 8)
  | retirement (r : Slot)
  | stopRecord (r : Slot)
  | stopReportPost (r : Slot)
  | stopQueueRead (svc : Nat)
  | restart (by_ : Master) (r : Slot)
  | switchout (by_ : Master) (r : Slot)
  | restore (by_ : Master) (r : Slot)
  | kill (by_ : Master) (r : Slot)
  | winfree (by_ : Master) (r : Slot)
  | winready (by_ : Master) (r : Slot)
  | launchBind (part : Nat)
  | quantumExpiry (l : LKey)
  | cleanStop (r : Slot)
  | hardStop (r : Slot)
  | yieldReport (r : Slot)
  | preemptedRebind (l : LKey)
  | launchComplete (l : LKey)
  | launchKill (l : LKey)
  | overflowRegisterWrite (by_ : Master) (part : Nat) (v : Word)
  | bump (by_ : Master) (asid : Nat)
  | bumpComplete (asid : Nat)
  | tagWindowSelect (by_ : Master) (pa : Nat)
  | tagWindowWrite (by_ : Master) (off : Nat) (v : Byte)
  | registerWrite (by_ : Master) (addr : Nat) (v : Word)
  | placeTableChange (k : UnitKind) (logical physical : Nat)
  | uncorrectableError (e : ErrSite)
  | spareReplace (k : UnitKind) (spare : Spare)
  | scrub
  | partitionChange (part : Nat) (p : Option Partition)
  | kernelImageSwitch (svc : Nat) (image version : Nat) (sigOk : Bool)
  | hostWrite (port off : Nat) (data : List Byte)
  | hostRead (port off len : Nat)
  | hostDoorbell (port off : Nat) (data : List Byte)
  | linkDown (port : Nat)
  | hostHotReset (port : Nat)
  | flitResend (port : Nat)
  | nvmeDma (cmd : DriveCmd) (pa len : Nat) (data : Option (List Byte))
  | mgmtClaim (m : Nat)
  | mgmtHandover (m next : Nat)
  | mgmtOwnerTimeout (claimant : Nat)
  | heaterRetune
  | throttleBegin
  | throttleEnd
  | emergencyStop
  | powerReset
  | resetRelease (fw : Firmware) (peers : List Nat)
  | quote (by_ : Master) (nonce : List Byte)
  | linkTrained (port : Nat)
  | serviceCoreRestart (svc : Nat)
  | portReenable (port : Nat)
  | conditionCleared
  deriving DecidableEq, Repr

/-- R46: the states of a role. -/
inductive RoleState where
  | free | dormant | running | stopped
  deriving DecidableEq, Repr

end Sys2Proof
end

