-- ==== Sys2Proof/WellFormed.lean ====
section
/-! DEFINITION. What a term of `Instr` must satisfy beyond its operand types to be an instruction: the checks of
05_encoding R90, R91, R94, R101 and the per-instruction checks of 06 to 21. A syllable that breaks one raises
ILLEGAL_SYLLABLE at decode (R105 step 3), a nest record's profile ILLEGAL_NEST (R94). -/

namespace Sys2Proof

/-- R22, R150: the floating types. -/
def ETy.isFloat : ETy → Bool
  | .fp32 | .bf16 | .fp16 | .f8a | .f8b => true
  | .i32 | .i16 | .i8 => false

/-- Element width in bytes (R22). -/
def ETy.bytes : ETy → Nat
  | .fp32 | .i32 => 4
  | .bf16 | .fp16 | .i16 => 2
  | .f8a | .f8b | .i8 => 1

/-- Lanes of a 512-byte row (R62). -/
def ETy.lanes : ETy → Nat
  | .fp32 | .i32 => 128
  | .bf16 | .fp16 | .i16 => 256
  | .f8a | .f8b | .i8 => 512

/-- R146: MOD 4:3 is read only where a floating result is rounded. -/
def rmOk (ty : ETy) (rm : RM) : Bool := ty.isFloat || rm == .rne

/-- R159, R171: FP32, BF16 and FP16 only. -/
def ETy.wideFloat : ETy → Bool
  | .fp32 | .bf16 | .fp16 => true
  | _ => false

/-- R159: FP32 special functions other than VSQRT accept only RNE. -/
def sfuOk (o : V1) : Bool := o.ty.wideFloat && (o.ty != .fp32 || o.rm == .rne)

/-- R101: the unsigned conditions. -/
def Cond.unsigned : Cond → Bool
  | .ltu | .leu | .gtu | .geu => true
  | _ => false

/-- Access size in bytes (R88). -/
def Size.bytes : Size → Nat
  | .b1 => 1 | .b2 => 2 | .b4 => 4 | .b8 => 8 | .b64 => 64 | .b512 => 512

/-- R229: a load takes no release ordering. -/
def Ord.loadOk : Ord → Bool
  | .relaxed | .acq => true
  | _ => false

/-- R229: a store takes no acquire ordering. -/
def Ord.storeOk : Ord → Bool
  | .relaxed | .rel => true
  | _ => false

/-- R157, R158: the part index of a VCVT. -/
def VCvtF.ok (o : VCvtF) : Bool :=
  o.src != o.dst &&
  0 ≤ o.part.k.toInt && o.part.k.toInt < (Nat.max o.src.lanes o.dst.lanes / Nat.min o.src.lanes o.dst.lanes : Nat)

/-- R171: the constant fields C2, C4 and C7. -/
def sxConst (m : BitVec 5) : Bool := m == 2 || m == 4 || m == 7

/-- R367: the CSR numbers. -/
def csrOk (n : BitVec 12) : Bool := n.toNat ≤ 9 || (16 ≤ n.toNat && n.toNat ≤ 23)

/-- R233: a scalar T goes with 1 to 8 bytes, a queue T with 64 or 512. -/
def Size.scalar (z : Size) : Bool := z.bytes ≤ 8

/-- The checks of a term of `Instr` (R105 step 3, and R94 for a nest record's profile). -/
def Instr.wf : Instr → Bool
  | .halt h => !h.s && h.g == 0 && !h.gn
  | .yield h => h.s
  | .loop _ _ off | .loopi _ _ off => 1 ≤ off.toInt
  | .cmp _ _ o | .psetx _ o | .wnext _ o | .wlate _ o => o.p != 0
  | .pand _ d _ _ | .por _ d _ _ | .pxor _ d _ _ | .pandn _ d _ _ | .pnot _ d _ | .pmov _ d _ => d != 0
  | .vadd _ o | .vsub _ o | .vmul _ o | .vdiv _ o => rmOk o.ty o.rm
  | .vfma _ o | .vfnma _ o => o.ty.isFloat
  | .vmin _ o | .vmax _ o | .vand _ o | .vor _ o | .vxor _ o | .vandn _ o | .vperm _ o => o.rm == .rne
  | .vabs _ o | .vneg _ o | .vnot _ o | .vmov _ o => o.rm == .rne
  | .vadds _ o | .vsubs _ o | .vmulhi _ o | .vshl _ o | .vshr _ o | .vsar _ o => !o.ty.isFloat && o.rm == .rne
  | .vcmp _ cc o => o.p != 0 && !(cc.unsigned && o.ty.isFloat)
  | .vcvt _ o => o.ok
  | .vrecip _ o | .vrsqrt _ o | .vexp2 _ o | .vlog2 _ o | .vtanh _ o | .vsigm _ o => sfuOk o
  | .vsqrt _ o => o.ty.wideFloat
  | .vredsum _ o => rmOk o.ty o.rm
  | .vredmax _ o | .vredmin _ o => o.rm == .rne
  | .vscansum _ o => rmOk o.ty o.rm
  | .vzip _ o | .vunzip _ o => o.h == 0 || o.h == 1
  | .vrngp _ o => o.p != 0
  | .vquant _ o | .vdeq _ o => sxConst o.m && o.ty.wideFloat
  | .vscale _ o => sxConst o.m && o.ty.wideFloat
  | .mma _ f | .mmas _ f _ _ => f.prof.toNat ≤ 6
  | .ld _ _ m => m.sz.scalar && m.ord.loadOk
  | .st _ _ m => m.sz.scalar && m.ord.storeOk
  | .ldt _ t m => m.ord.loadOk && (match t with | .s _ => m.sz.scalar | .qw _ => !m.sz.scalar)
  | .stt _ t m => m.ord.storeOk && (match t with | .s _ => m.sz.scalar | .qw _ => !m.sz.scalar)
  | .ldv _ _ m => m.ord.loadOk && !m.sz.scalar
  | .stv _ _ m => m.ord.storeOk && !m.sz.scalar
  | .gather _ _ m => m.ord.loadOk && m.sz != .b512
  | .scatter _ _ m => m.ord.storeOk && m.sz != .b512
  | .atomAdd _ _ m | .atomAnd _ _ m | .atomOr _ _ m | .atomXor _ _ m | .atomMin _ _ m | .atomMax _ _ m
  | .atomMinu _ _ m | .atomMaxu _ _ m | .atomSwap _ _ m | .atomCas _ _ m => m.sz == .b4 || m.sz == .b8
  | .atomf _ _ m => m.sz == .b4
  | .atomfD _ _ m => m.lvl.toNat < 8
  | .pref _ t m => t.toNat ≤ 1 && !m.sz.scalar && m.ord == .relaxed && m.scope == .role
  | .barArrive _ l _ | .barWait _ l _ => l.toNat < 8
  | .pgrab _ p x _ => p != 0 && x.toNat ≤ 29
  | .cueresV _ _ q _ _ => q == 1 || q == 2 || q == 7
  | .rdcsr _ _ n | .wrcsr _ _ _ n => csrOk n
  | _ => true

/-- The header of a syllable; a nest record has a sync bit and no guard (R93). -/
def guardless (s : Bool) : Hdr := { s := s, g := 0, gn := false }

end Sys2Proof
end

