-- ==== Sys2Proof/Decode.lean ====
section
/-! DEFINITION. Decoding and encoding of syllables and nest records (05_encoding R82 to R105), from the spec's
own field tables; then `encode`, `decodeTableWord`, the cluster checks of R100, R55 and R67, and the rewriting of
designators in a loop-record kernel (R217). -/

namespace Sys2Proof

/-- Why a syllable is no instruction, with the trap it raises (R105). -/
inductive DecErr where
  | syllable            -- ILLEGAL_SYLLABLE
  | nest (case : Nat)   -- ILLEGAL_NEST, with the case number of R350
  deriving DecidableEq, Repr

/-! ### Designators (R64) -/

def Special.code : Special → BitVec 8
  | .zero => 0xE0 | .core => 0xE2 | .ncores => 0xE3 | .role => 0xE4 | .dtime => 0xE5 | .iter => 0xE6

def encX (x : BitVec 5) : BitVec 8 := (4#3) ++ x
def encK (k : BitVec 5) : BitVec 8 := (6#3) ++ k
def encQw (q : BitVec 3) : BitVec 8 := (0x15#5) ++ q
def encStr (s : BitVec 4) : BitVec 8 := (0xB#4) ++ s
def encV (v : BitVec 7) : BitVec 8 := (0#1) ++ v
def encP (p : BitVec 7) : BitVec 8 := (0#1) ++ p
def encSSrc : SSrc → BitVec 8
  | .x n => encX n | .q n => (0x14#5) ++ n | .k c => encK c | .sp s => s.code
def encSDst : SDst → BitVec 8
  | .x n => encX n | .q n => (0x14#5) ++ n
def encRSrc : RSrc → BitVec 8
  | .v n => encV n | .s n => encStr n | .qw n => encQw n | .lane => 0xE1 | .sc a => encSSrc a
def encRDst : RDst → BitVec 8
  | .v n => encV n | .qw n => encQw n | .s n => encStr n
def encTDst : TDst → BitVec 8
  | .s d => encSDst d | .qw n => encQw n
def encTSrc : TSrc → BitVec 8
  | .s a => encSSrc a | .qw n => encQw n

def decX (c : BitVec 8) : Option (BitVec 5) := if c.extractLsb' 5 3 = 4 then some (c.extractLsb' 0 5) else none
def decK (c : BitVec 8) : Option (BitVec 5) := if c.extractLsb' 5 3 = 6 then some (c.extractLsb' 0 5) else none
def decQw (c : BitVec 8) : Option (BitVec 3) := if c.extractLsb' 3 5 = 0x15 then some (c.extractLsb' 0 3) else none
def decQn (c : BitVec 8) : Option (BitVec 3) := if c.extractLsb' 3 5 = 0x14 then some (c.extractLsb' 0 3) else none
def decQ (c : BitVec 8) : Option (BitVec 4) := if c.extractLsb' 4 4 = 0xA then some (c.extractLsb' 0 4) else none
def decStr (c : BitVec 8) : Option (BitVec 4) := if c.extractLsb' 4 4 = 0xB then some (c.extractLsb' 0 4) else none
/-- A V register, or a predicate number whose bit 7 is reserved (R90). -/
def decP (c : BitVec 8) : Option (BitVec 7) := if c.extractLsb' 7 1 = 0 then some (c.extractLsb' 0 7) else none
def decSpecial (c : BitVec 8) : Option Special :=
  match c.toNat with
  | 0xE0 => some .zero | 0xE2 => some .core | 0xE3 => some .ncores | 0xE4 => some .role
  | 0xE5 => some .dtime | 0xE6 => some .iter | _ => none
def decSSrc (c : BitVec 8) : Option SSrc :=
  match decX c with
  | some n => some (.x n)
  | none => match decQn c with
    | some n => some (.q n)
    | none => match decK c with
      | some k => some (.k k)
      | none => (decSpecial c).map .sp
def decSDst (c : BitVec 8) : Option SDst :=
  match decX c with
  | some n => some (.x n)
  | none => (decQn c).map .q
def decRSrc (c : BitVec 8) : Option RSrc :=
  match decP c with
  | some n => some (.v n)
  | none => match decStr c with
    | some n => some (.s n)
    | none => match decQw c with
      | some n => some (.qw n)
      | none => if c = 0xE1 then some .lane else (decSSrc c).map .sc
def decRDst (c : BitVec 8) : Option RDst :=
  match decP c with
  | some n => some (.v n)
  | none => match decStr c with
    | some n => some (.s n)
    | none => (decQw c).map .qw
def decTDst (c : BitVec 8) : Option TDst :=
  match decQw c with
  | some n => some (.qw n)
  | none => (decSDst c).map .s
def decTSrc (c : BitVec 8) : Option TSrc :=
  match decQw c with
  | some n => some (.qw n)
  | none => (decSSrc c).map .s

/-! ### Coded fields -/

def ETy.code : ETy → BitVec 3
  | .fp32 => 0 | .bf16 => 1 | .fp16 => 2 | .f8a => 3 | .f8b => 4 | .i32 => 5 | .i16 => 6 | .i8 => 7
def decETy (c : BitVec 3) : ETy :=
  match c.toNat with
  | 0 => .fp32 | 1 => .bf16 | 2 => .fp16 | 3 => .f8a | 4 => .f8b | 5 => .i32 | 6 => .i16 | _ => .i8
def RM.code : RM → BitVec 2
  | .rne => 0 | .rtz => 1 | .rdn => 2 | .rup => 3
def decRM (c : BitVec 2) : RM :=
  match c.toNat with | 0 => .rne | 1 => .rtz | 2 => .rdn | _ => .rup
def Fmt.code : Fmt → BitVec 4
  | .el t => (0#1) ++ t.code | .sx2 => 8 | .sx4 => 9 | .sx7 => 10
def decFmt (c : BitVec 4) : Option Fmt :=
  if c.toNat < 8 then some (.el (decETy (c.extractLsb' 0 3)))
  else match c.toNat with | 8 => some .sx2 | 9 => some .sx4 | 10 => some .sx7 | _ => none
def Cond.code : Cond → BitVec 6
  | .eq => 0 | .ne => 1 | .lt => 2 | .le => 3 | .gt => 4 | .ge => 5 | .ltu => 6 | .leu => 7 | .gtu => 8 | .geu => 9
def decCond (n : Nat) : Option Cond :=
  match n with
  | 0 => some .eq | 1 => some .ne | 2 => some .lt | 3 => some .le | 4 => some .gt | 5 => some .ge
  | 6 => some .ltu | 7 => some .leu | 8 => some .gtu | 9 => some .geu | _ => none
def Scope.code : Scope → BitVec 3
  | .role => 0 | .core => 1 | .die => 2 | .device => 3 | .group => 4 | .system => 5
def decScope (c : BitVec 3) : Option Scope :=
  match c.toNat with
  | 0 => some .role | 1 => some .core | 2 => some .die | 3 => some .device | 4 => some .group | 5 => some .system
  | _ => none
def Ord.code : Ord → BitVec 2
  | .relaxed => 0 | .acq => 1 | .rel => 2 | .acqRel => 3
def decOrd (c : BitVec 2) : Ord :=
  match c.toNat with | 0 => .relaxed | 1 => .acq | 2 => .rel | _ => .acqRel
def Size.code : Size → BitVec 3
  | .b1 => 0 | .b2 => 1 | .b4 => 2 | .b8 => 3 | .b64 => 4 | .b512 => 5
def decSize (c : BitVec 3) : Option Size :=
  match c.toNat with
  | 0 => some .b1 | 1 => some .b2 | 2 => some .b4 | 3 => some .b8 | 4 => some .b64 | 5 => some .b512 | _ => none
/-- A type code in bits 2:0 of an 8-bit field whose other bits are reserved (R124). -/
def encTy8 (t : ETy) : BitVec 8 := (0#5) ++ t.code
def decTy8 (c : BitVec 8) : Option ETy :=
  if c.extractLsb' 3 5 = 0 then some (decETy (c.extractLsb' 0 3)) else none

/-! ### Common fields and payload formats (R82 to R88) -/

def bit (b : Bool) : BitVec 1 := BitVec.ofBool b
def bitAt (w : Word) (i : Nat) : Bool := w.getLsbD i

def hdrOf (w : Word) : Hdr := { s := bitAt w 63, g := w.extractLsb' 49 7, gn := bitAt w 48 }
def majOf (w : Word) : BitVec 7 := w.extractLsb' 56 7
def min6 (w : Word) : BitVec 6 := w.extractLsb' 42 6

/-- The fields of the R format after MIN (R84). -/
structure RF where
  d : BitVec 8
  a : BitVec 8
  b : BitVec 8
  c : BitVec 8
  la : Bool
  lb : Bool
  lc : Bool
  ua : Bool
  ub : Bool
  mod : BitVec 5
  deriving DecidableEq, Repr

def RF.zero : RF := ⟨0, 0, 0, 0, false, false, false, false, false, 0⟩

def encR (h : Hdr) (maj : BitVec 7) (mn : BitVec 6) (f : RF) : Word :=
  bit h.s ++ maj ++ h.g ++ bit h.gn ++ mn ++ f.d ++ f.a ++ f.b ++ f.c ++ bit f.la ++ bit f.lb ++ bit f.lc ++
    bit f.ua ++ bit f.ub ++ f.mod

def rfOf (w : Word) : RF :=
  { d := w.extractLsb' 34 8, a := w.extractLsb' 26 8, b := w.extractLsb' 18 8, c := w.extractLsb' 10 8,
    la := bitAt w 9, lb := bitAt w 8, lc := bitAt w 7, ua := bitAt w 6, ub := bitAt w 5, mod := w.extractLsb' 0 5 }

/-- I format (R85). -/
def encI (h : Hdr) (maj : BitVec 7) (mn : BitVec 6) (o : I1) : Word :=
  bit h.s ++ maj ++ h.g ++ bit h.gn ++ mn ++ encSDst o.d ++ encSSrc o.a ++ bit o.la ++ o.imm
def iD (w : Word) : BitVec 8 := w.extractLsb' 34 8
def iA (w : Word) : BitVec 8 := w.extractLsb' 26 8
def iLA (w : Word) : Bool := bitAt w 25
def iImm (w : Word) : BitVec 25 := w.extractLsb' 0 25
def decI1 (w : Word) : Option I1 := do
  let d ← decSDst (iD w)
  let a ← decSSrc (iA w)
  some { d := d, a := a, la := iLA w, imm := iImm w }
/-- The CSR group's use of the I format (R368). -/
def encCsr (h : Hdr) (mn : BitVec 6) (d a : BitVec 8) (la : Bool) (imm : BitVec 25) : Word :=
  bit h.s ++ (0x53#7) ++ h.g ++ bit h.gn ++ mn ++ d ++ a ++ bit la ++ imm
def csrNum (w : Word) : Option (BitVec 12) :=
  if (iImm w).extractLsb' 12 13 = 0 then some ((iImm w).extractLsb' 0 12) else none

/-- K format (R86). -/
def encKf (h : Hdr) (maj : BitVec 7) (x : BitVec 5) (imm : BitVec 40) : Word :=
  bit h.s ++ maj ++ h.g ++ bit h.gn ++ encX x ++ imm
def kD (w : Word) : BitVec 8 := w.extractLsb' 40 8
def kImm (w : Word) : BitVec 40 := w.extractLsb' 0 40

/-- B format (R87). -/
def encB (h : Hdr) (maj : BitVec 7) (mn : BitVec 4) (a b : BitVec 8) (off : BitVec 28) : Word :=
  bit h.s ++ maj ++ h.g ++ bit h.gn ++ mn ++ a ++ b ++ off
def bMin (w : Word) : BitVec 4 := w.extractLsb' 44 4
def bA (w : Word) : BitVec 8 := w.extractLsb' 36 8
def bB (w : Word) : BitVec 8 := w.extractLsb' 28 8
def bOff (w : Word) : BitVec 28 := w.extractLsb' 0 28

/-- M format (R88). -/
def encM (h : Hdr) (maj : BitVec 7) (mn : BitVec 6) (t : BitVec 8) (m : MF) : Word :=
  bit h.s ++ maj ++ h.g ++ bit h.gn ++ mn ++ t ++ encSSrc m.base ++ encSSrc m.idx ++ m.scope.code ++ m.ord.code ++
    m.sz.code ++ bit m.lbase ++ bit m.lidx ++ m.disp
def mT (w : Word) : BitVec 8 := w.extractLsb' 34 8
def mBase (w : Word) : BitVec 8 := w.extractLsb' 26 8
def mIdx (w : Word) : BitVec 8 := w.extractLsb' 18 8
def decMF (w : Word) : Option MF := do
  let base ← decSSrc (mBase w)
  let idx ← decSSrc (mIdx w)
  let scope ← decScope (w.extractLsb' 15 3)
  let sz ← decSize (w.extractLsb' 10 3)
  some { base := base, idx := idx, scope := scope, ord := decOrd (w.extractLsb' 13 2), sz := sz,
         lbase := bitAt w 9, lidx := bitAt w 8, disp := w.extractLsb' 0 8 }
def encAtomD (h : Hdr) (x : BitVec 5) (m : AtomDF) : Word :=
  bit h.s ++ (0x45#7) ++ h.g ++ bit h.gn ++ (1#6) ++ encX x ++ encSSrc m.base ++ encK m.lvl ++ m.scope.code ++ (0#2) ++
    (2#3) ++ bit m.lbase ++ bit m.lidx ++ m.disp
def decAtomD (w : Word) : Option AtomDF := do
  let base ← decSSrc (mBase w)
  let lvl ← decK (mIdx w)
  let scope ← decScope (w.extractLsb' 15 3)
  if w.extractLsb' 13 2 = 0 ∧ w.extractLsb' 10 3 = 2 then
    some { base := base, lvl := lvl, scope := scope, lbase := bitAt w 9, lidx := bitAt w 8, disp := w.extractLsb' 0 8 }
  else none
/-- FENCE (R245): every field but SCOPE and ORD is reserved. -/
def encFence (h : Hdr) (sc : Scope) (od : Ord) : Word :=
  bit h.s ++ (0x46#7) ++ h.g ++ bit h.gn ++ (0#30) ++ sc.code ++ od.code ++ (0#13)
def decFence (w : Word) : Option (Scope × Ord) := do
  let sc ← decScope (w.extractLsb' 15 3)
  if w.extractLsb' 18 30 = 0 ∧ w.extractLsb' 0 13 = 0 then some (sc, decOrd (w.extractLsb' 13 2)) else none
def encHint (h : Hdr) (maj : BitVec 7) (p : BitVec 48) : Word :=
  bit h.s ++ maj ++ h.g ++ bit h.gn ++ p

/-! ### R-format shapes: the fields of each, and back (R84, R120, R444) -/

def mod5 (ty : ETy) (rm : RM) : BitVec 5 := rm.code ++ ty.code
def RF.ty (f : RF) : ETy := decETy (f.mod.extractLsb' 0 3)
def RF.rm (f : RF) : RM := decRM (f.mod.extractLsb' 3 2)
/-- MOD 4:3 zero. -/
def RF.noRm (f : RF) : Bool := f.mod.extractLsb' 3 2 == 0
def RF.noA (f : RF) : Bool := f.a == 0 && !f.la && !f.ua
def RF.noMA (f : RF) : Bool := !f.la && !f.ua
def RF.noB (f : RF) : Bool := f.b == 0 && !f.lb && !f.ub
def RF.noMB (f : RF) : Bool := !f.lb && !f.ub
def RF.noC (f : RF) : Bool := f.c == 0 && !f.lc
def RF.noD (f : RF) : Bool := f.d == 0
def RF.noMod (f : RF) : Bool := f.mod == 0
def RF.none (f : RF) : Bool := f.noD && f.noA && f.noB && f.noC && f.noMod
def RF.msA (f : RF) : Option MS := (decSSrc f.a).map (fun s => { src := s, mark := f.la, reuse := f.ua })
def RF.msB (f : RF) : Option MS := (decSSrc f.b).map (fun s => { src := s, mark := f.lb, reuse := f.ub })
def RF.csC (f : RF) : Option CS := (decSSrc f.c).map (fun s => { src := s, mark := f.lc })
def RF.mrA (f : RF) : Option MR := (decRSrc f.a).map (fun s => { src := s, mark := f.la, reuse := f.ua })
def RF.mrB (f : RF) : Option MR := (decRSrc f.b).map (fun s => { src := s, mark := f.lb, reuse := f.ub })
def RF.crC (f : RF) : Option CR := (decRSrc f.c).map (fun s => { src := s, mark := f.lc })
def ok (b : Bool) : Option Unit := if b then some () else Option.none

def RF.wA (f : RF) (a : MS) : RF := { f with a := encSSrc a.src, la := a.mark, ua := a.reuse }
def RF.wB (f : RF) (b : MS) : RF := { f with b := encSSrc b.src, lb := b.mark, ub := b.reuse }
def RF.wC (f : RF) (c : CS) : RF := { f with c := encSSrc c.src, lc := c.mark }
def RF.wRA (f : RF) (a : MR) : RF := { f with a := encRSrc a.src, la := a.mark, ua := a.reuse }
def RF.wRB (f : RF) (b : MR) : RF := { f with b := encRSrc b.src, lb := b.mark, ub := b.reuse }
def RF.wRC (f : RF) (c : CR) : RF := { f with c := encRSrc c.src, lc := c.mark }
def RF.wD (f : RF) (d : BitVec 8) : RF := { f with d := d }
def RF.wMod (f : RF) (m : BitVec 5) : RF := { f with mod := m }
def tyMod (ty : ETy) : BitVec 5 := (0#2) ++ ty.code

def rS1 (o : S1) : RF := (RF.zero.wD (encSDst o.d)).wA o.a
def RF.s1 (f : RF) : Option S1 := do
  ok (f.noB && f.noC && f.noMod)
  let d ← decSDst f.d
  let a ← f.msA
  some ⟨d, a⟩
def rS2 (o : S2) : RF := ((RF.zero.wD (encSDst o.d)).wA o.a).wB o.b
def RF.s2 (f : RF) : Option S2 := do
  ok (f.noC && f.noMod)
  let d ← decSDst f.d
  let a ← f.msA
  let b ← f.msB
  some ⟨d, a, b⟩
def rS3 (o : S3) : RF := (((RF.zero.wD (encSDst o.d)).wA o.a).wB o.b).wC o.c
def RF.s3 (f : RF) : Option S3 := do
  ok f.noMod
  let d ← decSDst f.d
  let a ← f.msA
  let b ← f.msB
  let c ← f.csC
  some ⟨d, a, b, c⟩
def rA1 (a : MS) : RF := RF.zero.wA a
def RF.a1 (f : RF) : Option MS := do
  ok (f.noD && f.noB && f.noC && f.noMod)
  f.msA
def rA2 (o : A2) : RF := (RF.zero.wA o.a).wB o.b
def RF.a2 (f : RF) : Option A2 := do
  ok (f.noD && f.noC && f.noMod)
  let a ← f.msA
  let b ← f.msB
  some ⟨a, b⟩
def rP2 (o : P2) : RF := ((RF.zero.wD (encP o.p)).wA o.a).wB o.b
def RF.p2 (f : RF) : Option P2 := do
  ok (f.noC && f.noMod)
  let p ← decP f.d
  let a ← f.msA
  let b ← f.msB
  some ⟨p, a, b⟩
def rPPP (d a b : BitVec 7) : RF := { RF.zero with d := encP d, a := encP a, b := encP b }
def RF.ppp (f : RF) : Option (BitVec 7 × BitVec 7 × BitVec 7) := do
  ok (f.noMA && f.noMB && f.noC && f.noMod)
  let d ← decP f.d
  let a ← decP f.a
  let b ← decP f.b
  some (d, a, b)
def rPP (d a : BitVec 7) : RF := { RF.zero with d := encP d, a := encP a }
def RF.pp (f : RF) : Option (BitVec 7 × BitVec 7) := do
  ok (f.noMA && f.noB && f.noC && f.noMod)
  let d ← decP f.d
  let a ← decP f.a
  some (d, a)
def rPgetx (d : SDst) (a : BitVec 7) (b : MS) : RF := ({ RF.zero with d := encSDst d, a := encP a }).wB b
def RF.pgetx (f : RF) : Option (SDst × BitVec 7 × MS) := do
  ok (f.noMA && f.noC && f.noMod)
  let d ← decSDst f.d
  let a ← decP f.a
  let b ← f.msB
  some (d, a, b)
def rPcnt (d : SDst) (a : BitVec 7) (ty : ETy) : RF := { RF.zero with d := encSDst d, a := encP a, mod := tyMod ty }
def RF.pcnt (f : RF) : Option (SDst × BitVec 7 × ETy) := do
  ok (f.noMA && f.noB && f.noC && f.noRm)
  let d ← decSDst f.d
  let a ← decP f.a
  some (d, a, f.ty)
def rV1 (o : V1) : RF := ((RF.zero.wD (encRDst o.d)).wRA o.a).wMod (mod5 o.ty o.rm)
def RF.v1 (f : RF) : Option V1 := do
  ok (f.noB && f.noC)
  let d ← decRDst f.d
  let a ← f.mrA
  some ⟨d, a, f.ty, f.rm⟩
def rV2 (o : V2) : RF := (((RF.zero.wD (encRDst o.d)).wRA o.a).wRB o.b).wMod (mod5 o.ty o.rm)
def RF.v2 (f : RF) : Option V2 := do
  ok f.noC
  let d ← decRDst f.d
  let a ← f.mrA
  let b ← f.mrB
  some ⟨d, a, b, f.ty, f.rm⟩
def rV3 (o : V3) : RF := ((((RF.zero.wD (encRDst o.d)).wRA o.a).wRB o.b).wRC o.c).wMod (mod5 o.ty o.rm)
def RF.v3 (f : RF) : Option V3 := do
  let d ← decRDst f.d
  let a ← f.mrA
  let b ← f.mrB
  let c ← f.crC
  some ⟨d, a, b, c, f.ty, f.rm⟩
def rVC (o : VC) : RF := (((RF.zero.wD (encP o.p)).wRA o.a).wRB o.b).wMod (tyMod o.ty)
def RF.vc (f : RF) : Option VC := do
  ok (f.noC && f.noRm)
  let p ← decP f.d
  let a ← f.mrA
  let b ← f.mrB
  some ⟨p, a, b, f.ty⟩
def rVSel (o : VSelF) : RF := { (((RF.zero.wD (encRDst o.d)).wRA o.a).wRB o.b).wMod (tyMod o.ty) with c := encP o.p }
def RF.vsel (f : RF) : Option VSelF := do
  ok (f.noRm && !f.lc)
  let d ← decRDst f.d
  let a ← f.mrA
  let b ← f.mrB
  let p ← decP f.c
  some ⟨d, a, b, p, f.ty⟩
def rVRS (o : VRS) : RF := (((RF.zero.wD (encRDst o.d)).wRA o.a).wB o.b).wMod (tyMod o.ty)
def RF.vrs (f : RF) : Option VRS := do
  ok (f.noC && f.noRm)
  let d ← decRDst f.d
  let a ← f.mrA
  let b ← f.msB
  some ⟨d, a, b, f.ty⟩
def rVLane (o : VLaneF) : RF := (((RF.zero.wD (encSDst o.d)).wRA o.a).wB o.b).wMod (tyMod o.ty)
def RF.vlane (f : RF) : Option VLaneF := do
  ok (f.noC && f.noRm)
  let d ← decSDst f.d
  let a ← f.mrA
  let b ← f.msB
  some ⟨d, a, b, f.ty⟩
def rVIns (o : VInsF) : RF := (((RF.zero.wD (encV o.d)).wA o.a).wB o.b).wMod (tyMod o.ty)
def RF.vins (f : RF) : Option VInsF := do
  ok (f.noC && f.noRm)
  let d ← decP f.d
  let a ← f.msA
  let b ← f.msB
  some ⟨d, a, b, f.ty⟩
/-- A constant field holds a small-constant designator; R444 lets it carry a reuse bit, R68 a mark without effect. -/
def RF.kB (f : RF) : Option KF := (decK f.b).map (fun k => ⟨k, f.lb, f.ub⟩)
def rVCvt (o : VCvtF) : RF :=
  { ((RF.zero.wD (encRDst o.d)).wRA o.a).wMod (mod5 o.dst o.rm) with
    b := encK o.part.k, lb := o.part.mark, ub := o.part.reuse, c := encTy8 o.src }
def RF.vcvt (f : RF) : Option VCvtF := do
  ok (!f.lc)
  let d ← decRDst f.d
  let a ← f.mrA
  let b ← f.kB
  let s ← decTy8 f.c
  some ⟨d, a, b, s, f.ty, f.rm⟩
def rVRed (o : VRedF) : RF := ((RF.zero.wD (encSDst o.d)).wRA o.a).wMod (mod5 o.ty o.rm)
def RF.vred (f : RF) : Option VRedF := do
  ok (f.noB && f.noC)
  let d ← decSDst f.d
  let a ← f.mrA
  some ⟨d, a, f.ty, f.rm⟩
def rVZip (o : VZipF) : RF :=
  { (((RF.zero.wD (encRDst o.d)).wRA o.a).wRB o.b).wMod (tyMod o.ty) with c := encK o.h, lc := o.lc }
def RF.vzip (f : RF) : Option VZipF := do
  ok f.noRm
  let d ← decRDst f.d
  let a ← f.mrA
  let b ← f.mrB
  let k ← decK f.c
  some ⟨d, a, b, k, f.lc, f.ty⟩
def rVRng (o : VRngF) : RF := (((RF.zero.wD (encRDst o.d)).wA o.a).wB o.b).wMod (tyMod .i32)
def RF.vrng (f : RF) : Option VRngF := do
  ok (f.noC && f.mod == tyMod .i32)
  let d ← decRDst f.d
  let a ← f.msA
  let b ← f.msB
  some ⟨d, a, b⟩
def rVRngP (o : VRngPF) : RF := ((((RF.zero.wD (encP o.p)).wA o.a).wB o.b).wC o.c).wMod (tyMod o.ty)
def RF.vrngp (f : RF) : Option VRngPF := do
  ok f.noRm
  let p ← decP f.d
  let a ← f.msA
  let b ← f.msB
  let c ← f.csC
  some ⟨p, a, b, c, f.ty⟩
def rVSx (o : VSxF) : RF :=
  { ((RF.zero.wD (encRDst o.d)).wRA o.a).wMod (mod5 o.ty o.rm) with c := encK o.m, lc := o.lc }
def RF.vsx (f : RF) : Option VSxF := do
  ok f.noB
  let d ← decRDst f.d
  let a ← f.mrA
  let m ← decK f.c
  some ⟨d, a, m, f.lc, f.ty, f.rm⟩
def rVScale (o : VScaleF) : RF :=
  { (((RF.zero.wD (encRDst o.d)).wRA o.a).wB o.b).wMod (tyMod o.ty) with c := encK o.m, lc := o.lc }
def RF.vscale (f : RF) : Option VScaleF := do
  ok f.noRm
  let d ← decRDst f.d
  let a ← f.mrA
  let b ← f.msB
  let m ← decK f.c
  some ⟨d, a, b, m, f.lc, f.ty⟩
def rD (d : SDst) : RF := RF.zero.wD (encSDst d)
def RF.dOnly (f : RF) : Option SDst := do
  ok (f.noA && f.noB && f.noC && f.noMod)
  decSDst f.d
/-- COPY and COPYS (R247): MOD bit 3 is ACQ, bit 4 REL, bits 2:0 the scope. -/
def copyMod (o : CopyF) : BitVec 5 := bit o.rel ++ bit o.acq ++ o.scope.code
def rCopy (o : CopyF) : RF := (((RF.zero.wD (encX o.d)).wA o.a).wB o.b).wMod (copyMod o)
def RF.copyRaw (f : RF) : Option CopyF := do
  let d ← decX f.d
  let a ← f.msA
  let b ← f.msB
  let sc ← decScope (f.mod.extractLsb' 0 3)
  some ⟨d, a, b, f.mod.getLsbD 3, f.mod.getLsbD 4, sc⟩
def RF.copyF (f : RF) : Option CopyF := do
  ok f.noC
  f.copyRaw
def rCopys (o : CopyF) (c : CS) : RF := (rCopy o).wC c
def RF.copysF (f : RF) : Option (CopyF × CS) := do
  let o ← f.copyRaw
  let c ← f.csC
  some (o, c)
def rStr1 (o : Str1) : RF := (RF.zero.wD (encStr o.d)).wA o.a
def RF.str1 (f : RF) : Option Str1 := do
  ok (f.noB && f.noC && f.noMod)
  let d ← decStr f.d
  let a ← f.msA
  some ⟨d, a⟩
def rStr2 (o : Str2) : RF := ((RF.zero.wD (encStr o.d)).wA o.a).wB o.b
def RF.str2 (f : RF) : Option Str2 := do
  ok (f.noC && f.noMod)
  let d ← decStr f.d
  let a ← f.msA
  let b ← f.msB
  some ⟨d, a, b⟩
def rStr0 (d : BitVec 4) : RF := RF.zero.wD (encStr d)
def RF.str0 (f : RF) : Option (BitVec 4) := do
  ok (f.noA && f.noB && f.noC && f.noMod)
  decStr f.d
/-- A ring field (R255): bits 4:0, bits 7:5 reserved. -/
def encRing (r : BitVec 5) : BitVec 8 := (0#3) ++ r
def decRing (c : BitVec 8) : Option (BitVec 5) := if c.extractLsb' 5 3 = 0 then some (c.extractLsb' 0 5) else none
def rRdef (r : BitVec 5) (b : MS) : RF := ({ RF.zero with a := encRing r }).wB b
def RF.rdef (f : RF) : Option (BitVec 5 × MS) := do
  ok (f.noD && f.noMA && f.noC && f.noMod)
  let r ← decRing f.a
  let b ← f.msB
  some (r, b)
def rRD (d : SDst) (r : BitVec 5) : RF := { RF.zero with d := encSDst d, a := encRing r }
def RF.rd (f : RF) : Option (SDst × BitVec 5) := do
  ok (f.noMA && f.noB && f.noC && f.noMod)
  let d ← decSDst f.d
  let r ← decRing f.a
  some (d, r)
def rRG (r : BitVec 5) : RF := { RF.zero with a := encRing r }
def RF.rg (f : RF) : Option (BitVec 5) := do
  ok (f.noD && f.noMA && f.noB && f.noC && f.noMod)
  decRing f.a
/-- BAR (R259): A is a constant field, which takes a reuse bit (R444); every other field is reserved. -/
def rBar (l : BitVec 5) (u : Bool) : RF := { RF.zero with a := encK l, ua := u }
def RF.bar (f : RF) : Option (BitVec 5 × Bool) := do
  ok (f.noD && !f.la && f.noB && f.noC && f.noMod)
  let l ← decK f.a
  some (l, f.ua)
/-- MSG and SPAWN (R262): MOD 4:3 is relaxed or release, MOD 2:0 the scope. -/
def sendMod (o : SendF) : BitVec 5 := bit o.rel ++ (0#1) ++ o.scope.code
def rSpawn (o : SendF) : RF := (((RF.zero.wD (encSSrc o.d)).wA o.a).wB o.b).wMod (sendMod o)
def RF.sendRaw (f : RF) : Option SendF := do
  ok (!f.mod.getLsbD 3)
  let d ← decSSrc f.d
  let a ← f.msA
  let b ← f.msB
  let sc ← decScope (f.mod.extractLsb' 0 3)
  some ⟨d, a, b, f.mod.getLsbD 4, sc⟩
def RF.spawn (f : RF) : Option SendF := do
  ok f.noC
  f.sendRaw
def rMsg (o : SendF) (c : CS) : RF := (rSpawn o).wC c
def RF.msg (f : RF) : Option (SendF × CS) := do
  let o ← f.sendRaw
  let c ← f.csC
  some (o, c)
def rPgrab (p : BitVec 7) (x : BitVec 5) (b : MS) : RF := ({ RF.zero with d := encP p, a := encX x }).wB b
def RF.pgrab (f : RF) : Option (BitVec 7 × BitVec 5 × MS) := do
  ok (f.noMA && f.noC && f.noMod)
  let p ← decP f.d
  let x ← decX f.a
  let b ← f.msB
  some (p, x, b)
/-- CUERES.V (R347): MOD is 1 and B names Q9, Q10 or Q15. -/
def rCueV (a : MS) (q : BitVec 3) (lb ub : Bool) : RF :=
  { RF.zero.wA a with b := encQw q, lb := lb, ub := ub, mod := 1 }
def RF.cueV (f : RF) : Option (MS × BitVec 3 × Bool × Bool) := do
  ok (f.noD && f.noC && f.mod == 1)
  let a ← f.msA
  let q ← decQw f.b
  some (a, q, f.lb, f.ub)
/-- TRAP (R133): A holds the code as 8 raw bits. -/
def rTrap (n : BitVec 8) : RF := { RF.zero with a := n }
def RF.trapN (f : RF) : Option (BitVec 8) := do
  ok (f.noD && f.noMA && f.noB && f.noC && f.noMod)
  some f.a
def rSeqnext (d : SDst) (x : BitVec 5) : RF := { RF.zero with d := encSDst d, a := encX x }
def RF.seqnext (f : RF) : Option (SDst × BitVec 5) := do
  ok (f.noMA && f.noB && f.noC && f.noMod)
  let d ← decSDst f.d
  let x ← decX f.a
  some (d, x)
/-- QLEN (R144): A is a queue designator; B, C, MOD and LA are reserved (its reuse bit: log 12). -/
def rQlen (d : SDst) (q : BitVec 4) (u : Bool) : RF := { RF.zero with d := encSDst d, a := (0xA#4) ++ q, ua := u }
def RF.qlen (f : RF) : Option (SDst × BitVec 4 × Bool) := do
  ok (!f.la && f.noB && f.noC && f.noMod)
  let d ← decSDst f.d
  let q ← decQ f.a
  some (d, q, f.ua)

/-! ### Queue uses, for the cluster checks of R55 -/

/-- A queue read, written, or either (QLEN, R144), by its number. -/
inductive QUse where
  | rd (q : Nat) | wr (q : Nat) | either (q : Nat)
  deriving DecidableEq, Repr

def SSrc.uses : SSrc → List QUse
  | .q n => [.rd n.toNat]
  | _ => []
def SDst.uses : SDst → List QUse
  | .q n => [.wr n.toNat]
  | _ => []
def MS.uses (a : MS) : List QUse := a.src.uses
def RSrc.uses : RSrc → List QUse
  | .qw n => [.rd (8 + n.toNat)]
  | .sc a => a.uses
  | _ => []
def MR.uses (a : MR) : List QUse := a.src.uses
def CR.uses (a : CR) : List QUse := a.src.uses
def RDst.uses : RDst → List QUse
  | .qw n => [.wr (8 + n.toNat)]
  | _ => []
def TDst.uses : TDst → List QUse
  | .s d => d.uses
  | .qw n => [.wr (8 + n.toNat)]
def TSrc.uses : TSrc → List QUse
  | .s a => a.uses
  | .qw n => [.rd (8 + n.toNat)]
def S1.uses (o : S1) : List QUse := o.d.uses ++ o.a.uses
def S2.uses (o : S2) : List QUse := o.d.uses ++ o.a.uses ++ o.b.uses
def S3.uses (o : S3) : List QUse := o.d.uses ++ o.a.uses ++ o.b.uses ++ o.c.src.uses
def A2.uses (o : A2) : List QUse := o.a.uses ++ o.b.uses
def P2.uses (o : P2) : List QUse := o.a.uses ++ o.b.uses
def I1.uses (o : I1) : List QUse := o.d.uses ++ o.a.uses
def V1.uses (o : V1) : List QUse := o.d.uses ++ o.a.uses
def V2.uses (o : V2) : List QUse := o.d.uses ++ o.a.uses ++ o.b.uses
def V3.uses (o : V3) : List QUse := o.d.uses ++ o.a.uses ++ o.b.uses ++ o.c.uses
def VC.uses (o : VC) : List QUse := o.a.uses ++ o.b.uses
def VSelF.uses (o : VSelF) : List QUse := o.d.uses ++ o.a.uses ++ o.b.uses
def VRS.uses (o : VRS) : List QUse := o.d.uses ++ o.a.uses ++ o.b.uses
def VLaneF.uses (o : VLaneF) : List QUse := o.d.uses ++ o.a.uses ++ o.b.uses
def VInsF.uses (o : VInsF) : List QUse := o.a.uses ++ o.b.uses
def VCvtF.uses (o : VCvtF) : List QUse := o.d.uses ++ o.a.uses
def VRedF.uses (o : VRedF) : List QUse := o.d.uses ++ o.a.uses
def VZipF.uses (o : VZipF) : List QUse := o.d.uses ++ o.a.uses ++ o.b.uses
def VRngF.uses (o : VRngF) : List QUse := o.d.uses ++ o.a.uses ++ o.b.uses
def VRngPF.uses (o : VRngPF) : List QUse := o.a.uses ++ o.b.uses ++ o.c.src.uses
def VSxF.uses (o : VSxF) : List QUse := o.d.uses ++ o.a.uses
def VScaleF.uses (o : VScaleF) : List QUse := o.d.uses ++ o.a.uses ++ o.b.uses
def MF.uses (m : MF) : List QUse := m.base.uses ++ m.idx.uses
def CopyF.uses (o : CopyF) : List QUse := o.a.uses ++ o.b.uses
def SendF.uses (o : SendF) : List QUse := o.d.uses ++ o.a.uses ++ o.b.uses

/-! ### Nest records (R92 to R97) -/

def nestHdr (s : Bool) (op prof ar br acc fl : BitVec 8) : Word :=
  bit s ++ (0x30#7) ++ (0#8) ++ op ++ prof ++ ar ++ br ++ acc ++ fl
def Quad.word (q : Quad) : Word := q.n3 ++ q.n2 ++ q.n1 ++ q.n0
def quadOf (w : Word) : Quad := ⟨w.extractLsb' 0 16, w.extractLsb' 16 16, w.extractLsb' 32 16, w.extractLsb' 48 16⟩
/-- Word 6 (R95). -/
def nestW6 (bm : BitVec 16) (hsel : BitVec 4) (hk : BitVec 3) (dfmt : BitVec 4) (rnd dk : BitVec 2) (dv : BitVec 13)
    (scen : Bool) (scs : BitVec 4) (acq rel : Bool) (scp : BitVec 3) : Word :=
  (0#10) ++ scp ++ bit rel ++ bit acq ++ scs ++ bit scen ++ dv ++ dk ++ rnd ++ dfmt ++ hk ++ hsel ++ bm
/-- Word 7 (R95). -/
def nestW7 (sp : BitVec 16) (bf af : BitVec 4) (rows : BitVec 8) : Word := (0#32) ++ sp ++ bf ++ af ++ rows
def mmaFlags (f : MmaF) : BitVec 8 := (0#4) ++ bit f.bt ++ bit f.bs ++ bit f.as ++ bit f.za

def encMma (s : Bool) (op : BitVec 8) (f : MmaF) (bm sp : BitVec 16) : List Word :=
  [nestHdr s op f.prof f.aring f.bring f.acc (mmaFlags f), f.trip.word, f.sa.word, f.sb.word, f.sc.word, f.ss.word,
   nestW6 bm 0 0 0 0 0 0 f.scen f.scs f.acq f.rel f.scp.code, nestW7 sp f.bfmt.code f.afmt.code 0]
def encRowOp (s : Bool) (op acc rows : BitVec 8) (hsel : BitVec 4) (hk : BitVec 3) : List Word :=
  [nestHdr s op 0 0 0 acc 0, 0, 0, 0, 0, 0, nestW6 0 hsel hk 0 0 0 0 false 0 false false 0, nestW7 0 0 0 rows]
def encDrain (s : Bool) (f : DrainF) : List Word :=
  [nestHdr s 0x04 0 0 0 f.acc 0, 0, 0, 0, 0, 0,
   nestW6 0 f.hsel f.hk f.fmt.code f.rnd.code f.kind f.val false 0 f.acq f.rel f.scp.code, nestW7 0 0 0 f.rows]
def encLoadA (s : Bool) (f : LoadAF) : List Word :=
  [nestHdr s 0x06 0 0 0 f.acc 0, 0, 0, 0, 0, 0,
   nestW6 0 0 0 f.fmt.code 0 f.kind f.val false 0 f.acq false f.scp.code, nestW7 0 0 0 f.rows]

/-- The header and payload fields of a nest record at their raw values. -/
structure NF where
  s : Bool
  g8 : BitVec 8
  op : BitVec 8
  prof : BitVec 8
  ar : BitVec 8
  br : BitVec 8
  acc : BitVec 8
  fl : BitVec 8
  w1 : Word
  w2 : Word
  w3 : Word
  w4 : Word
  w5 : Word
  w6 : Word
  w7 : Word
  deriving DecidableEq, Repr

def nfOf : List Word → Option NF
  | [h, w1, w2, w3, w4, w5, w6, w7] =>
    some ⟨bitAt h 63, h.extractLsb' 48 8, h.extractLsb' 40 8, h.extractLsb' 32 8, h.extractLsb' 24 8,
      h.extractLsb' 16 8, h.extractLsb' 8 8, h.extractLsb' 0 8, w1, w2, w3, w4, w5, w6, w7⟩
  | _ => none

/-- R97: the bits of word 6 that an operation reads, by OP; every other bit is reserved for it. -/
def w6Mask (op : Nat) : Word :=
  match op with
  | 1 => 0x003F_F000_0000_0000
  | 2 => 0x003F_F000_0000_FFFF
  | 3 => 0x0000_0000_007F_0000
  | 4 => 0x003E_0FFF_FFFF_0000
  | 6 => 0x003A_0FFF_E780_0000
  | _ => 0
/-- R97: the bits of word 7 that an operation reads. -/
def w7Mask (op : Nat) : Word :=
  match op with
  | 1 => 0x0000_FF00
  | 2 => 0xFFFF_FF00
  | _ => 0x0000_00FF

def NF.fieldsOk (f : NF) : Bool :=
  let op := f.op.toNat
  f.g8 == 0 && (1 ≤ op && op ≤ 7) && (f.w6 &&& ~~~ w6Mask op) == 0 && (f.w7 &&& ~~~ w7Mask op) == 0 &&
  (if op ≤ 2 then f.fl.extractLsb' 4 4 == 0
   else f.prof == 0 && f.ar == 0 && f.br == 0 && f.fl == 0 && f.w1 == 0 && f.w2 == 0 && f.w3 == 0 && f.w4 == 0 && f.w5 == 0)

/-- SCP of word 6. Codes 6 and 7 are reserved codes of the M format and refused as it refuses them (log 12). -/
def NF.scp (f : NF) : Option Scope := decScope (f.w6.extractLsb' 51 3)
def NF.mma (f : NF) (sc : Scope) (af bf : Fmt) : MmaF :=
  { prof := f.prof, aring := f.ar, bring := f.br, acc := f.acc, za := f.fl.getLsbD 0, as := f.fl.getLsbD 1,
    bs := f.fl.getLsbD 2, bt := f.fl.getLsbD 3, trip := quadOf f.w1, sa := quadOf f.w2, sb := quadOf f.w3,
    sc := quadOf f.w4, ss := quadOf f.w5, scen := bitAt f.w6 44, scs := f.w6.extractLsb' 45 4, acq := bitAt f.w6 49,
    rel := bitAt f.w6 50, scp := sc, afmt := af, bfmt := bf }
def NF.afmt (f : NF) : Option Fmt := decFmt (f.w7.extractLsb' 8 4)
def NF.bfmt (f : NF) : Option Fmt := decFmt (f.w7.extractLsb' 12 4)
def NF.dfmt (f : NF) : Option Fmt := decFmt (f.w6.extractLsb' 23 4)
def NF.rows (f : NF) : BitVec 8 := f.w7.extractLsb' 0 8
def NF.hsel (f : NF) : BitVec 4 := f.w6.extractLsb' 16 4
def NF.hk (f : NF) : BitVec 3 := f.w6.extractLsb' 20 3
def NF.kind (f : NF) : BitVec 2 := f.w6.extractLsb' 29 2
def NF.val (f : NF) : BitVec 13 := f.w6.extractLsb' 31 13

/-- R92 to R97: a nest record from its eight words; R105 steps 3 and 5, R350's case numbers. -/
def decodeNest (ws : List Word) : Except DecErr Instr :=
  match nfOf ws with
  | none => .error .syllable
  | some f =>
    if !f.fieldsOk then .error .syllable
    else match f.scp with
    | none => .error .syllable
    | some sc =>
      match f.op.toNat with
      | 1 | 2 =>
        if 6 < f.prof.toNat then .error (.nest 8)
        else match f.afmt, f.bfmt with
          | some af, some bf =>
            if f.op.toNat = 1 then .ok (.mma f.s (f.mma sc af bf))
            else .ok (.mmas f.s (f.mma sc af bf) (f.w6.extractLsb' 0 16) (f.w7.extractLsb' 16 16))
          | _, _ => .error (.nest 9)
      | 3 => .ok (.mhad f.s ⟨f.acc, f.rows, f.hsel, f.hk⟩)
      | 4 => match f.dfmt with
        | none => .error (.nest 9)
        | some d => .ok (.mdrain f.s ⟨f.acc, f.rows, f.hsel, f.hk, d, decRM (f.w6.extractLsb' 27 2), f.kind, f.val,
            bitAt f.w6 49, bitAt f.w6 50, sc⟩)
      | 5 => .ok (.mzero f.s f.acc f.rows)
      | 6 => match f.dfmt with
        | none => .error (.nest 9)
        | some d => .ok (.mloada f.s ⟨f.acc, f.rows, d, f.kind, f.val, bitAt f.w6 49, sc⟩)
      | _ => .ok (.mtrans f.s f.acc f.rows)

/-- The words of an instruction (R82 to R101): one word, or eight for a nest record; none for a step that is
no syllable. The same tables as `decode`. -/
def encode : Instr → List Word
  | .hint h p => [encHint h 0x7E p]
  | .hint7F h p => [encHint h 0x7F p]
  | .movk h x i => [encKf h 0x12 x i]
  | .movkh h x i => [encKf h 0x13 x (i.zeroExtend 40)]
  | .brx h cc a b off => [encB h 0x04 (cc.code.extractLsb' 0 4) (encSSrc a) (encSSrc b) off]
  | .cmp h cc o => [encR h 0x15 cc.code (rP2 o)]
  | .vcmp h cc o => [encR h 0x22 cc.code (rVC o)]
  | .add h o => [encR h 0x10 0 (rS2 o)]
  | .sub h o => [encR h 0x10 1 (rS2 o)]
  | .mul h o => [encR h 0x10 2 (rS2 o)]
  | .mulh h o => [encR h 0x10 3 (rS2 o)]
  | .mulhu h o => [encR h 0x10 4 (rS2 o)]
  | .madd h o => [encR h 0x10 5 (rS3 o)]
  | .div h o => [encR h 0x10 6 (rS2 o)]
  | .divu h o => [encR h 0x10 7 (rS2 o)]
  | .rem h o => [encR h 0x10 8 (rS2 o)]
  | .remu h o => [encR h 0x10 9 (rS2 o)]
  | .and h o => [encR h 0x10 10 (rS2 o)]
  | .or h o => [encR h 0x10 11 (rS2 o)]
  | .xor h o => [encR h 0x10 12 (rS2 o)]
  | .andn h o => [encR h 0x10 13 (rS2 o)]
  | .shl h o => [encR h 0x10 14 (rS2 o)]
  | .shr h o => [encR h 0x10 15 (rS2 o)]
  | .sar h o => [encR h 0x10 16 (rS2 o)]
  | .rol h o => [encR h 0x10 17 (rS2 o)]
  | .ror h o => [encR h 0x10 18 (rS2 o)]
  | .min h o => [encR h 0x10 19 (rS2 o)]
  | .max h o => [encR h 0x10 20 (rS2 o)]
  | .minu h o => [encR h 0x10 21 (rS2 o)]
  | .maxu h o => [encR h 0x10 22 (rS2 o)]
  | .clz h o => [encR h 0x10 23 (rS1 o)]
  | .ctz h o => [encR h 0x10 24 (rS1 o)]
  | .popc h o => [encR h 0x10 25 (rS1 o)]
  | .sel h o => [encR h 0x10 26 (rS3 o)]
  | .sext h o => [encR h 0x10 27 (rS2 o)]
  | .zext h o => [encR h 0x10 28 (rS2 o)]
  | .adds h o => [encR h 0x10 29 (rS2 o)]
  | .subs h o => [encR h 0x10 30 (rS2 o)]
  | .msub h o => [encR h 0x10 31 (rS3 o)]
  | .aluiAdd h o => [encI h 0x11 0 o]
  | .aluiMul h o => [encI h 0x11 2 o]
  | .aluiAnd h o => [encI h 0x11 10 o]
  | .aluiOr h o => [encI h 0x11 11 o]
  | .aluiXor h o => [encI h 0x11 12 o]
  | .aluiShl h o => [encI h 0x11 14 o]
  | .aluiShr h o => [encI h 0x11 15 o]
  | .aluiSar h o => [encI h 0x11 16 o]
  | .aluiRol h o => [encI h 0x11 17 o]
  | .aluiRor h o => [encI h 0x11 18 o]
  | .aluiMin h o => [encI h 0x11 19 o]
  | .aluiMax h o => [encI h 0x11 20 o]
  | .aluiMinu h o => [encI h 0x11 21 o]
  | .aluiMaxu h o => [encI h 0x11 22 o]
  | .aluiAdds h o => [encI h 0x11 29 o]
  | .lea h o => [encI h 0x14 0 o]
  | .pand h d a b => [encR h 0x18 0 (rPPP d a b)]
  | .por h d a b => [encR h 0x18 1 (rPPP d a b)]
  | .pxor h d a b => [encR h 0x18 2 (rPPP d a b)]
  | .pandn h d a b => [encR h 0x18 3 (rPPP d a b)]
  | .pnot h d a => [encR h 0x18 4 (rPP d a)]
  | .pmov h d a => [encR h 0x18 5 (rPP d a)]
  | .psetx h o => [encR h 0x18 6 (rP2 o)]
  | .pgetx h d a b => [encR h 0x18 7 (rPgetx d a b)]
  | .pcnt h d a ty => [encR h 0x18 8 (rPcnt d a ty)]
  | .pfirst h d a ty => [encR h 0x18 9 (rPcnt d a ty)]
  | .plast h d a ty => [encR h 0x18 10 (rPcnt d a ty)]
  | .vadd h o => [encR h 0x20 0 (rV2 o)]
  | .vsub h o => [encR h 0x20 1 (rV2 o)]
  | .vmul h o => [encR h 0x20 2 (rV2 o)]
  | .vdiv h o => [encR h 0x20 5 (rV2 o)]
  | .vmin h o => [encR h 0x20 6 (rV2 o)]
  | .vmax h o => [encR h 0x20 7 (rV2 o)]
  | .vadds h o => [encR h 0x20 10 (rV2 o)]
  | .vsubs h o => [encR h 0x20 11 (rV2 o)]
  | .vmulhi h o => [encR h 0x20 12 (rV2 o)]
  | .vfma h o => [encR h 0x20 3 (rV3 o)]
  | .vfnma h o => [encR h 0x20 4 (rV3 o)]
  | .vabs h o => [encR h 0x20 8 (rV1 o)]
  | .vneg h o => [encR h 0x20 9 (rV1 o)]
  | .vand h o => [encR h 0x21 0 (rV2 o)]
  | .vor h o => [encR h 0x21 1 (rV2 o)]
  | .vxor h o => [encR h 0x21 2 (rV2 o)]
  | .vandn h o => [encR h 0x21 3 (rV2 o)]
  | .vshl h o => [encR h 0x21 5 (rV2 o)]
  | .vshr h o => [encR h 0x21 6 (rV2 o)]
  | .vsar h o => [encR h 0x21 7 (rV2 o)]
  | .vnot h o => [encR h 0x21 4 (rV1 o)]
  | .vsel h o => [encR h 0x23 0 (rVSel o)]
  | .vmov h o => [encR h 0x23 1 (rV1 o)]
  | .vbcast h o => [encR h 0x23 2 (rVRS o)]
  | .vlane h o => [encR h 0x23 3 (rVLane o)]
  | .vins h o => [encR h 0x23 4 (rVIns o)]
  | .vcvt h o => [encR h 0x24 0 (rVCvt o)]
  | .vrecip h o => [encR h 0x25 0 (rV1 o)]
  | .vrsqrt h o => [encR h 0x25 1 (rV1 o)]
  | .vsqrt h o => [encR h 0x25 2 (rV1 o)]
  | .vexp2 h o => [encR h 0x25 3 (rV1 o)]
  | .vlog2 h o => [encR h 0x25 4 (rV1 o)]
  | .vtanh h o => [encR h 0x25 5 (rV1 o)]
  | .vsigm h o => [encR h 0x25 6 (rV1 o)]
  | .vredsum h o => [encR h 0x26 0 (rVRed o)]
  | .vredmax h o => [encR h 0x26 1 (rVRed o)]
  | .vredmin h o => [encR h 0x26 2 (rVRed o)]
  | .vscansum h o => [encR h 0x26 3 (rV1 o)]
  | .vperm h o => [encR h 0x27 0 (rV2 o)]
  | .vrot h o => [encR h 0x27 1 (rVRS o)]
  | .vzip h o => [encR h 0x27 2 (rVZip o)]
  | .vunzip h o => [encR h 0x27 3 (rVZip o)]
  | .vrng h o => [encR h 0x28 0 (rVRng o)]
  | .vrngp h o => [encR h 0x28 1 (rVRngP o)]
  | .vquant h o => [encR h 0x29 0 (rVSx o)]
  | .vdeq h o => [encR h 0x29 1 (rVSx o)]
  | .vscale h o => [encR h 0x29 2 (rVScale o)]
  | .mwait h => [encR h 0x31 0 RF.zero]
  | .mstat h d => [encR h 0x31 1 (rD d)]
  | .ld h t m => [encM h 0x40 0 (encSDst t) m]
  | .st h t m => [encM h 0x40 1 (encSSrc t) m]
  | .ldt h t m => [encM h 0x40 2 (encTDst t) m]
  | .stt h t m => [encM h 0x40 3 (encTSrc t) m]
  | .ldv h q m => [encM h 0x41 0 (encQw q) m]
  | .stv h q m => [encM h 0x41 1 (encQw q) m]
  | .gather h q m => [encM h 0x43 0 (encQw q) m]
  | .scatter h q m => [encM h 0x43 1 (encQw q) m]
  | .atomAdd h x m => [encM h 0x44 0 (encX x) m]
  | .atomAnd h x m => [encM h 0x44 1 (encX x) m]
  | .atomOr h x m => [encM h 0x44 2 (encX x) m]
  | .atomXor h x m => [encM h 0x44 3 (encX x) m]
  | .atomMin h x m => [encM h 0x44 4 (encX x) m]
  | .atomMax h x m => [encM h 0x44 5 (encX x) m]
  | .atomMinu h x m => [encM h 0x44 6 (encX x) m]
  | .atomMaxu h x m => [encM h 0x44 7 (encX x) m]
  | .atomSwap h x m => [encM h 0x44 8 (encX x) m]
  | .atomCas h x m => [encM h 0x44 9 (encX x) m]
  | .atomf h x m => [encM h 0x45 0 (encX x) m]
  | .atomfD h x m => [encAtomD h x m]
  | .fence h sc od => [encFence h sc od]
  | .pref h t m => [encM h 0x47 0 (encK t) m]
  | .copy h o => [encR h 0x48 0 (rCopy o)]
  | .copyw h => [encR h 0x48 1 RF.zero]
  | .copys h o c => [encR h 0x48 2 (rCopys o c)]
  | .sdef h o => [encR h 0x49 0 (rStr1 o)]
  | .snest h o => [encR h 0x49 1 (rStr2 o)]
  | .sbind h o => [encR h 0x49 2 (rStr1 o)]
  | .spos h o => [encR h 0x49 3 (rStr1 o)]
  | .scommit h d => [encR h 0x49 4 (rStr0 d)]
  | .sreset h d => [encR h 0x49 5 (rStr0 d)]
  | .rdef h r b => [encR h 0x4A 0 (rRdef r b)]
  | .racq h d r => [encR h 0x4A 1 (rRD d r)]
  | .rpub h r => [encR h 0x4A 2 (rRG r)]
  | .rrel h r => [encR h 0x4A 3 (rRG r)]
  | .rpoison h r => [encR h 0x4A 4 (rRG r)]
  | .rstat h d r => [encR h 0x4A 5 (rRD d r)]
  | .barArrive h l u => [encR h 0x4B 0 (rBar l u)]
  | .barWait h l u => [encR h 0x4B 1 (rBar l u)]
  | .msg h o c => [encR h 0x4C 0 (rMsg o c)]
  | .spawn h o => [encR h 0x4C 1 (rSpawn o)]
  | .pclaim h o => [encR h 0x50 0 (rS1 o)]
  | .ppub h o => [encR h 0x50 1 (rA2 o)]
  | .pabort h o => [encR h 0x50 2 (rA2 o)]
  | .pgrab h p x b => [encR h 0x50 3 (rPgrab p x b)]
  | .prel h o => [encR h 0x50 4 (rA2 o)]
  | .pstat h o => [encR h 0x50 5 (rS2 o)]
  | .cuemk h o => [encR h 0x51 0 (rA2 o)]
  | .cueres h o => [encR h 0x51 1 (rA2 o)]
  | .cueresV h a q lb ub => [encR h 0x51 1 (rCueV a q lb ub)]
  | .cuefail h o => [encR h 0x51 2 (rA2 o)]
  | .cuepeek h o => [encR h 0x51 3 (rS1 o)]
  | .cuestat h o => [encR h 0x51 4 (rS2 o)]
  | .launch h o => [encR h 0x52 0 (rS2 o)]
  | .lwait h o => [encR h 0x52 1 (rS1 o)]
  | .rdcsr h d n => [encCsr h 0 (encSDst d) 0 false (n.zeroExtend 25)]
  | .wrcsr h a la n => [encCsr h 1 0 (encSSrc a) la (n.zeroExtend 25)]
  | .rdtime h d => [encCsr h 2 (encSDst d) 0 false 0]
  | .recapp h o => [encR h 0x58 0 (rS2 o)]
  | .wmark h o => [encR h 0x58 1 (rA2 o)]
  | .sidle h a => [encR h 0x58 2 (rA1 a)]
  | .wnext h o => [encR h 0x58 3 (rP2 o)]
  | .wpub h o => [encR h 0x58 4 (rA2 o)]
  | .wlate h o => [encR h 0x58 5 (rP2 o)]
  | .nop h => [encR h 0x00 0 RF.zero]
  | .halt h => [encR h 0x08 0 RF.zero]
  | .yield h => [encR h 0x08 1 RF.zero]
  | .trap h n => [encR h 0x08 2 (rTrap n)]
  | .tfence h => [encR h 0x08 3 RF.zero]
  | .seqdef h a => [encR h 0x09 0 (rA1 a)]
  | .seqnext h d x => [encR h 0x09 1 (rSeqnext d x)]
  | .qlen h d q u => [encR h 0x1C 0 (rQlen d q u)]
  | .br h off => [encB h 0x02 0 0 0 off]
  | .brpAny h p ty off => [encB h 0x03 0 (encP p) (encTy8 ty) off]
  | .brpAll h p ty off => [encB h 0x03 1 (encP p) (encTy8 ty) off]
  | .brpNone h p ty off => [encB h 0x03 2 (encP p) (encTy8 ty) off]
  | .call h x off => [encB h 0x05 0 (encX x) 0 off]
  | .ret h a => [encB h 0x05 1 (encSSrc a) 0 0]
  | .jmpx h a off => [encB h 0x05 2 (encSSrc a) 0 off]
  | .loop h a off => [encB h 0x06 0 (encSSrc a) 0 off]
  | .loopi h n off => [encB h 0x06 1 (n.extractLsb' 8 8) (n.extractLsb' 0 8) off]
  | .lrec h a b off => [encB h 0x07 0 (encSSrc a) (encSSrc b) off]
  | .mma s f => encMma s 0x01 f 0 0
  | .mmas s f bm sp => encMma s 0x02 f bm sp
  | .mhad s f => encRowOp s 0x03 f.acc f.rows f.hsel f.hk
  | .mdrain s f => encDrain s f
  | .mzero s acc rows => encRowOp s 0x05 acc rows 0 0
  | .mloada s f => encLoadA s f
  | .mtrans s acc rows => encRowOp s 0x07 acc rows 0 0
  | _ => []

/-- R100: the syllable of a major and minor, less the checks of `Instr.wf`. -/
def decodeRaw (w : Word) : Option Instr :=
  let h := hdrOf w
  let f := rfOf w
  match (majOf w).toNat with
  | 0x00 => match (min6 w).toNat with
    | 0 => if f.none then some (.nop h) else none
    | _ => none
  | 0x02 => match (bMin w).toNat with
    | 0 => if bA w = 0 ∧ bB w = 0 then some (.br h (bOff w)) else none
    | _ => none
  | 0x03 => match (bMin w).toNat with
    | 0 => do let p ← decP (bA w); let ty ← decTy8 (bB w); some (.brpAny h p ty (bOff w))
    | 1 => do let p ← decP (bA w); let ty ← decTy8 (bB w); some (.brpAll h p ty (bOff w))
    | 2 => do let p ← decP (bA w); let ty ← decTy8 (bB w); some (.brpNone h p ty (bOff w))
    | _ => none
  | 0x05 => match (bMin w).toNat with
    | 0 => do let x ← decX (bA w); if bB w = 0 then some (.call h x (bOff w)) else none
    | 1 => do let a ← decSSrc (bA w); if bB w = 0 ∧ bOff w = 0 then some (.ret h a) else none
    | 2 => do let a ← decSSrc (bA w); if bB w = 0 then some (.jmpx h a (bOff w)) else none
    | _ => none
  | 0x06 => match (bMin w).toNat with
    | 0 => do let a ← decSSrc (bA w); if bB w = 0 then some (.loop h a (bOff w)) else none
    | 1 => some (.loopi h (bA w ++ bB w) (bOff w))
    | _ => none
  | 0x07 => match (bMin w).toNat with
    | 0 => do let a ← decSSrc (bA w); let b ← decSSrc (bB w); some (.lrec h a b (bOff w))
    | _ => none
  | 0x08 => match (min6 w).toNat with
    | 0 => if f.none then some (.halt h) else none
    | 1 => if f.none then some (.yield h) else none
    | 2 => (f.trapN).map (.trap h)
    | 3 => if f.none then some (.tfence h) else none
    | _ => none
  | 0x09 => match (min6 w).toNat with
    | 0 => (f.a1).map (.seqdef h)
    | 1 => (f.seqnext).map (fun (d, x) => .seqnext h d x)
    | _ => none
  | 0x10 => match (min6 w).toNat with
    | 0 => (f.s2).map (.add h)
    | 1 => (f.s2).map (.sub h)
    | 2 => (f.s2).map (.mul h)
    | 3 => (f.s2).map (.mulh h)
    | 4 => (f.s2).map (.mulhu h)
    | 5 => (f.s3).map (.madd h)
    | 6 => (f.s2).map (.div h)
    | 7 => (f.s2).map (.divu h)
    | 8 => (f.s2).map (.rem h)
    | 9 => (f.s2).map (.remu h)
    | 10 => (f.s2).map (.and h)
    | 11 => (f.s2).map (.or h)
    | 12 => (f.s2).map (.xor h)
    | 13 => (f.s2).map (.andn h)
    | 14 => (f.s2).map (.shl h)
    | 15 => (f.s2).map (.shr h)
    | 16 => (f.s2).map (.sar h)
    | 17 => (f.s2).map (.rol h)
    | 18 => (f.s2).map (.ror h)
    | 19 => (f.s2).map (.min h)
    | 20 => (f.s2).map (.max h)
    | 21 => (f.s2).map (.minu h)
    | 22 => (f.s2).map (.maxu h)
    | 23 => (f.s1).map (.clz h)
    | 24 => (f.s1).map (.ctz h)
    | 25 => (f.s1).map (.popc h)
    | 26 => (f.s3).map (.sel h)
    | 27 => (f.s2).map (.sext h)
    | 28 => (f.s2).map (.zext h)
    | 29 => (f.s2).map (.adds h)
    | 30 => (f.s2).map (.subs h)
    | 31 => (f.s3).map (.msub h)
    | _ => none
  | 0x11 => match (min6 w).toNat with
    | 0 => (decI1 w).map (.aluiAdd h)
    | 2 => (decI1 w).map (.aluiMul h)
    | 10 => (decI1 w).map (.aluiAnd h)
    | 11 => (decI1 w).map (.aluiOr h)
    | 12 => (decI1 w).map (.aluiXor h)
    | 14 => (decI1 w).map (.aluiShl h)
    | 15 => (decI1 w).map (.aluiShr h)
    | 16 => (decI1 w).map (.aluiSar h)
    | 17 => (decI1 w).map (.aluiRol h)
    | 18 => (decI1 w).map (.aluiRor h)
    | 19 => (decI1 w).map (.aluiMin h)
    | 20 => (decI1 w).map (.aluiMax h)
    | 21 => (decI1 w).map (.aluiMinu h)
    | 22 => (decI1 w).map (.aluiMaxu h)
    | 29 => (decI1 w).map (.aluiAdds h)
    | _ => none
  | 0x14 => match (min6 w).toNat with
    | 0 => (decI1 w).map (.lea h)
    | _ => none
  | 0x18 => match (min6 w).toNat with
    | 0 => (f.ppp).map (fun (d, a, b) => .pand h d a b)
    | 1 => (f.ppp).map (fun (d, a, b) => .por h d a b)
    | 2 => (f.ppp).map (fun (d, a, b) => .pxor h d a b)
    | 3 => (f.ppp).map (fun (d, a, b) => .pandn h d a b)
    | 4 => (f.pp).map (fun (d, a) => .pnot h d a)
    | 5 => (f.pp).map (fun (d, a) => .pmov h d a)
    | 6 => (f.p2).map (.psetx h)
    | 7 => (f.pgetx).map (fun (d, a, b) => .pgetx h d a b)
    | 8 => (f.pcnt).map (fun (d, a, ty) => .pcnt h d a ty)
    | 9 => (f.pcnt).map (fun (d, a, ty) => .pfirst h d a ty)
    | 10 => (f.pcnt).map (fun (d, a, ty) => .plast h d a ty)
    | _ => none
  | 0x1C => match (min6 w).toNat with
    | 0 => (f.qlen).map (fun (d, q, u) => .qlen h d q u)
    | _ => none
  | 0x20 => match (min6 w).toNat with
    | 0 => (f.v2).map (.vadd h)
    | 1 => (f.v2).map (.vsub h)
    | 2 => (f.v2).map (.vmul h)
    | 3 => (f.v3).map (.vfma h)
    | 4 => (f.v3).map (.vfnma h)
    | 5 => (f.v2).map (.vdiv h)
    | 6 => (f.v2).map (.vmin h)
    | 7 => (f.v2).map (.vmax h)
    | 8 => (f.v1).map (.vabs h)
    | 9 => (f.v1).map (.vneg h)
    | 10 => (f.v2).map (.vadds h)
    | 11 => (f.v2).map (.vsubs h)
    | 12 => (f.v2).map (.vmulhi h)
    | _ => none
  | 0x21 => match (min6 w).toNat with
    | 0 => (f.v2).map (.vand h)
    | 1 => (f.v2).map (.vor h)
    | 2 => (f.v2).map (.vxor h)
    | 3 => (f.v2).map (.vandn h)
    | 4 => (f.v1).map (.vnot h)
    | 5 => (f.v2).map (.vshl h)
    | 6 => (f.v2).map (.vshr h)
    | 7 => (f.v2).map (.vsar h)
    | _ => none
  | 0x23 => match (min6 w).toNat with
    | 0 => (f.vsel).map (.vsel h)
    | 1 => (f.v1).map (.vmov h)
    | 2 => (f.vrs).map (.vbcast h)
    | 3 => (f.vlane).map (.vlane h)
    | 4 => (f.vins).map (.vins h)
    | _ => none
  | 0x24 => match (min6 w).toNat with
    | 0 => (f.vcvt).map (.vcvt h)
    | _ => none
  | 0x25 => match (min6 w).toNat with
    | 0 => (f.v1).map (.vrecip h)
    | 1 => (f.v1).map (.vrsqrt h)
    | 2 => (f.v1).map (.vsqrt h)
    | 3 => (f.v1).map (.vexp2 h)
    | 4 => (f.v1).map (.vlog2 h)
    | 5 => (f.v1).map (.vtanh h)
    | 6 => (f.v1).map (.vsigm h)
    | _ => none
  | 0x26 => match (min6 w).toNat with
    | 0 => (f.vred).map (.vredsum h)
    | 1 => (f.vred).map (.vredmax h)
    | 2 => (f.vred).map (.vredmin h)
    | 3 => (f.v1).map (.vscansum h)
    | _ => none
  | 0x27 => match (min6 w).toNat with
    | 0 => (f.v2).map (.vperm h)
    | 1 => (f.vrs).map (.vrot h)
    | 2 => (f.vzip).map (.vzip h)
    | 3 => (f.vzip).map (.vunzip h)
    | _ => none
  | 0x28 => match (min6 w).toNat with
    | 0 => (f.vrng).map (.vrng h)
    | 1 => (f.vrngp).map (.vrngp h)
    | _ => none
  | 0x29 => match (min6 w).toNat with
    | 0 => (f.vsx).map (.vquant h)
    | 1 => (f.vsx).map (.vdeq h)
    | 2 => (f.vscale).map (.vscale h)
    | _ => none
  | 0x31 => match (min6 w).toNat with
    | 0 => if f.none then some (.mwait h) else none
    | 1 => (f.dOnly).map (.mstat h)
    | _ => none
  | 0x40 => match (min6 w).toNat with
    | 0 => do let t ← decSDst (mT w); let m ← decMF w; some (.ld h t m)
    | 1 => do let t ← decSSrc (mT w); let m ← decMF w; some (.st h t m)
    | 2 => do let t ← decTDst (mT w); let m ← decMF w; some (.ldt h t m)
    | 3 => do let t ← decTSrc (mT w); let m ← decMF w; some (.stt h t m)
    | _ => none
  | 0x41 => match (min6 w).toNat with
    | 0 => do let q ← decQw (mT w); let m ← decMF w; some (.ldv h q m)
    | 1 => do let q ← decQw (mT w); let m ← decMF w; some (.stv h q m)
    | _ => none
  | 0x43 => match (min6 w).toNat with
    | 0 => do let q ← decQw (mT w); let m ← decMF w; some (.gather h q m)
    | 1 => do let q ← decQw (mT w); let m ← decMF w; some (.scatter h q m)
    | _ => none
  | 0x44 => match (min6 w).toNat with
    | 0 => do let x ← decX (mT w); let m ← decMF w; some (.atomAdd h x m)
    | 1 => do let x ← decX (mT w); let m ← decMF w; some (.atomAnd h x m)
    | 2 => do let x ← decX (mT w); let m ← decMF w; some (.atomOr h x m)
    | 3 => do let x ← decX (mT w); let m ← decMF w; some (.atomXor h x m)
    | 4 => do let x ← decX (mT w); let m ← decMF w; some (.atomMin h x m)
    | 5 => do let x ← decX (mT w); let m ← decMF w; some (.atomMax h x m)
    | 6 => do let x ← decX (mT w); let m ← decMF w; some (.atomMinu h x m)
    | 7 => do let x ← decX (mT w); let m ← decMF w; some (.atomMaxu h x m)
    | 8 => do let x ← decX (mT w); let m ← decMF w; some (.atomSwap h x m)
    | 9 => do let x ← decX (mT w); let m ← decMF w; some (.atomCas h x m)
    | _ => none
  | 0x45 => match (min6 w).toNat with
    | 0 => do let x ← decX (mT w); let m ← decMF w; some (.atomf h x m)
    | 1 => do let x ← decX (mT w); let m ← decAtomD w; some (.atomfD h x m)
    | _ => none
  | 0x46 => match (min6 w).toNat with
    | 0 => (decFence w).map (fun (sc, od) => .fence h sc od)
    | _ => none
  | 0x47 => match (min6 w).toNat with
    | 0 => do let t ← decK (mT w); let m ← decMF w; some (.pref h t m)
    | _ => none
  | 0x48 => match (min6 w).toNat with
    | 0 => (f.copyF).map (.copy h)
    | 1 => if f.none then some (.copyw h) else none
    | 2 => (f.copysF).map (fun (o, c) => .copys h o c)
    | _ => none
  | 0x49 => match (min6 w).toNat with
    | 0 => (f.str1).map (.sdef h)
    | 1 => (f.str2).map (.snest h)
    | 2 => (f.str1).map (.sbind h)
    | 3 => (f.str1).map (.spos h)
    | 4 => (f.str0).map (.scommit h)
    | 5 => (f.str0).map (.sreset h)
    | _ => none
  | 0x4A => match (min6 w).toNat with
    | 0 => (f.rdef).map (fun (r, b) => .rdef h r b)
    | 1 => (f.rd).map (fun (d, r) => .racq h d r)
    | 2 => (f.rg).map (.rpub h)
    | 3 => (f.rg).map (.rrel h)
    | 4 => (f.rg).map (.rpoison h)
    | 5 => (f.rd).map (fun (d, r) => .rstat h d r)
    | _ => none
  | 0x4B => match (min6 w).toNat with
    | 0 => (f.bar).map (fun (l, u) => .barArrive h l u)
    | 1 => (f.bar).map (fun (l, u) => .barWait h l u)
    | _ => none
  | 0x4C => match (min6 w).toNat with
    | 0 => (f.msg).map (fun (o, c) => .msg h o c)
    | 1 => (f.spawn).map (.spawn h)
    | _ => none
  | 0x50 => match (min6 w).toNat with
    | 0 => (f.s1).map (.pclaim h)
    | 1 => (f.a2).map (.ppub h)
    | 2 => (f.a2).map (.pabort h)
    | 3 => (f.pgrab).map (fun (p, x, b) => .pgrab h p x b)
    | 4 => (f.a2).map (.prel h)
    | 5 => (f.s2).map (.pstat h)
    | _ => none
  | 0x51 => match (min6 w).toNat with
    | 0 => (f.a2).map (.cuemk h)
    | 1 => if f.mod = 0 then (f.a2).map (.cueres h) else (f.cueV).map (fun (a, q, lb, ub) => .cueresV h a q lb ub)
    | 2 => (f.a2).map (.cuefail h)
    | 3 => (f.s1).map (.cuepeek h)
    | 4 => (f.s2).map (.cuestat h)
    | _ => none
  | 0x52 => match (min6 w).toNat with
    | 0 => (f.s2).map (.launch h)
    | 1 => (f.s1).map (.lwait h)
    | _ => none
  | 0x53 => match (min6 w).toNat with
    | 0 => do let n ← csrNum w; let d ← decSDst (iD w); if iA w = 0 ∧ ¬ iLA w then some (.rdcsr h d n) else none
    | 1 => do let n ← csrNum w; let a ← decSSrc (iA w); if iD w = 0 then some (.wrcsr h a (iLA w) n) else none
    | 2 => do let d ← decSDst (iD w); if iA w = 0 ∧ ¬ iLA w ∧ iImm w = 0 then some (.rdtime h d) else none
    | _ => none
  | 0x58 => match (min6 w).toNat with
    | 0 => (f.s2).map (.recapp h)
    | 1 => (f.a2).map (.wmark h)
    | 2 => (f.a1).map (.sidle h)
    | 3 => (f.p2).map (.wnext h)
    | 4 => (f.a2).map (.wpub h)
    | 5 => (f.p2).map (.wlate h)
    | _ => none
  | 0x04 => do let cc ← decCond (bMin w).toNat; let a ← decSSrc (bA w); let b ← decSSrc (bB w); some (.brx h cc a b (bOff w))
  | 0x12 => do let x ← decX (kD w); some (.movk h x (kImm w))
  | 0x13 => do let x ← decX (kD w); if (kImm w).extractLsb' 24 16 = 0 then some (.movkh h x ((kImm w).extractLsb' 0 24)) else none
  | 0x15 => do let cc ← decCond (min6 w).toNat; let o ← f.p2; some (.cmp h cc o)
  | 0x22 => do let cc ← decCond (min6 w).toNat; let o ← f.vc; some (.vcmp h cc o)
  | 0x7E => some (.hint h (w.extractLsb' 0 48))
  | 0x7F => some (.hint7F h (w.extractLsb' 0 48))
  | _ => none

/-- R217: the low bits of the designator fields that a loop-record kernel rewrites, by major and minor. Predicate,
constant, ring and stream-number fields, K-format fields and nest records are not rewritten. -/
def rotFields (w : Word) : List Nat :=
  match (majOf w).toNat with
  | 0x05 => [36]
  | 0x06 => match (bMin w).toNat with
    | 0 => [36]
    | _ => []
  | 0x07 => [36, 28]
  | 0x09 => match (min6 w).toNat with
    | 0 => [26]
    | 1 => [34, 26]
    | _ => []
  | 0x10 => match (min6 w).toNat with
    | 0 | 1 | 2 | 3 | 4 | 6 | 7 | 8 | 9 | 10 | 11 | 12 | 13 | 14 | 15 | 16 | 17 | 18 | 19 | 20 | 21 | 22 | 27 | 28 | 29 | 30 => [34, 26, 18]
    | 5 | 26 | 31 => [34, 26, 18, 10]
    | 23 | 24 | 25 => [34, 26]
    | _ => []
  | 0x11 => [34, 26]
  | 0x14 => [34, 26]
  | 0x18 => match (min6 w).toNat with
    | 6 => [26, 18]
    | 7 => [34, 18]
    | 8 | 9 | 10 => [34]
    | _ => []
  | 0x1C => [34]
  | 0x20 => match (min6 w).toNat with
    | 0 | 1 | 2 | 5 | 6 | 7 | 10 | 11 | 12 => [34, 26, 18]
    | 3 | 4 => [34, 26, 18, 10]
    | 8 | 9 => [34, 26]
    | _ => []
  | 0x21 => match (min6 w).toNat with
    | 0 | 1 | 2 | 3 | 5 | 6 | 7 => [34, 26, 18]
    | 4 => [34, 26]
    | _ => []
  | 0x23 => match (min6 w).toNat with
    | 0 | 2 | 3 | 4 => [34, 26, 18]
    | 1 => [34, 26]
    | _ => []
  | 0x24 => [34, 26]
  | 0x25 => [34, 26]
  | 0x26 => [34, 26]
  | 0x27 => [34, 26, 18]
  | 0x28 => match (min6 w).toNat with
    | 0 => [34, 26, 18]
    | 1 => [26, 18, 10]
    | _ => []
  | 0x29 => match (min6 w).toNat with
    | 0 | 1 => [34, 26]
    | 2 => [34, 26, 18]
    | _ => []
  | 0x31 => match (min6 w).toNat with
    | 1 => [34]
    | _ => []
  | 0x40 => [34, 26, 18]
  | 0x41 => [34, 26, 18]
  | 0x43 => [34, 26, 18]
  | 0x44 => [34, 26, 18]
  | 0x45 => match (min6 w).toNat with
    | 0 => [34, 26, 18]
    | 1 => [34, 26]
    | _ => []
  | 0x47 => [26, 18]
  | 0x48 => match (min6 w).toNat with
    | 0 => [34, 26, 18]
    | 2 => [34, 26, 18, 10]
    | _ => []
  | 0x49 => match (min6 w).toNat with
    | 0 | 2 | 3 => [26]
    | 1 => [26, 18]
    | _ => []
  | 0x4A => match (min6 w).toNat with
    | 0 => [18]
    | 1 | 5 => [34]
    | _ => []
  | 0x4C => match (min6 w).toNat with
    | 0 => [34, 26, 18, 10]
    | 1 => [34, 26, 18]
    | _ => []
  | 0x50 => match (min6 w).toNat with
    | 0 => [34, 26]
    | 1 | 2 | 3 | 4 => [26, 18]
    | 5 => [34, 26, 18]
    | _ => []
  | 0x51 => match (min6 w).toNat with
    | 0 | 1 | 2 => [26, 18]
    | 3 => [34, 26]
    | 4 => [34, 26, 18]
    | _ => []
  | 0x52 => match (min6 w).toNat with
    | 0 => [34, 26, 18]
    | 1 => [34, 26]
    | _ => []
  | 0x53 => match (min6 w).toNat with
    | 0 | 2 => [34]
    | 1 => [26]
    | _ => []
  | 0x58 => match (min6 w).toNat with
    | 0 => [34, 26, 18]
    | 1 | 3 | 4 | 5 => [26, 18]
    | 2 => [26]
    | _ => []
  | 0x04 => [36, 28]
  | 0x15 => [26, 18]
  | 0x22 => [26, 18]
  | _ => []

/-- The header of a syllable; none for a step that is no syllable. -/
def Instr.hdr? : Instr → Option Hdr
  | .hint h _ | .hint7F h _ => some h
  | .brx h _ _ _ _ => some h
  | .cmp h _ _ | .vcmp h _ _ => some h
  | .movk h _ _ | .movkh h _ _ => some h
  | .mwait h
  | .copyw h
  | .nop h
  | .halt h
  | .yield h
  | .tfence h => some h
  | .add h _
  | .sub h _
  | .mul h _
  | .mulh h _
  | .mulhu h _
  | .madd h _
  | .div h _
  | .divu h _
  | .rem h _
  | .remu h _
  | .and h _
  | .or h _
  | .xor h _
  | .andn h _
  | .shl h _
  | .shr h _
  | .sar h _
  | .rol h _
  | .ror h _
  | .min h _
  | .max h _
  | .minu h _
  | .maxu h _
  | .clz h _
  | .ctz h _
  | .popc h _
  | .sel h _
  | .sext h _
  | .zext h _
  | .adds h _
  | .subs h _
  | .msub h _
  | .aluiAdd h _
  | .aluiMul h _
  | .aluiAnd h _
  | .aluiOr h _
  | .aluiXor h _
  | .aluiShl h _
  | .aluiShr h _
  | .aluiSar h _
  | .aluiRol h _
  | .aluiRor h _
  | .aluiMin h _
  | .aluiMax h _
  | .aluiMinu h _
  | .aluiMaxu h _
  | .aluiAdds h _
  | .lea h _
  | .psetx h _
  | .vadd h _
  | .vsub h _
  | .vmul h _
  | .vdiv h _
  | .vmin h _
  | .vmax h _
  | .vadds h _
  | .vsubs h _
  | .vmulhi h _
  | .vfma h _
  | .vfnma h _
  | .vabs h _
  | .vneg h _
  | .vand h _
  | .vor h _
  | .vxor h _
  | .vandn h _
  | .vshl h _
  | .vshr h _
  | .vsar h _
  | .vnot h _
  | .vsel h _
  | .vmov h _
  | .vbcast h _
  | .vlane h _
  | .vins h _
  | .vcvt h _
  | .vrecip h _
  | .vrsqrt h _
  | .vsqrt h _
  | .vexp2 h _
  | .vlog2 h _
  | .vtanh h _
  | .vsigm h _
  | .vredsum h _
  | .vredmax h _
  | .vredmin h _
  | .vscansum h _
  | .vperm h _
  | .vrot h _
  | .vzip h _
  | .vunzip h _
  | .vrng h _
  | .vrngp h _
  | .vquant h _
  | .vdeq h _
  | .vscale h _
  | .mstat h _
  | .copy h _
  | .sdef h _
  | .snest h _
  | .sbind h _
  | .spos h _
  | .scommit h _
  | .sreset h _
  | .rpub h _
  | .rrel h _
  | .rpoison h _
  | .spawn h _
  | .pclaim h _
  | .ppub h _
  | .pabort h _
  | .prel h _
  | .pstat h _
  | .cuemk h _
  | .cueres h _
  | .cuefail h _
  | .cuepeek h _
  | .cuestat h _
  | .launch h _
  | .lwait h _
  | .rdtime h _
  | .recapp h _
  | .wmark h _
  | .sidle h _
  | .wnext h _
  | .wpub h _
  | .wlate h _
  | .trap h _
  | .seqdef h _
  | .br h _
  | .ret h _ => some h
  | .pnot h _ _
  | .pmov h _ _
  | .ld h _ _
  | .st h _ _
  | .ldt h _ _
  | .stt h _ _
  | .ldv h _ _
  | .stv h _ _
  | .gather h _ _
  | .scatter h _ _
  | .atomAdd h _ _
  | .atomAnd h _ _
  | .atomOr h _ _
  | .atomXor h _ _
  | .atomMin h _ _
  | .atomMax h _ _
  | .atomMinu h _ _
  | .atomMaxu h _ _
  | .atomSwap h _ _
  | .atomCas h _ _
  | .atomf h _ _
  | .atomfD h _ _
  | .fence h _ _
  | .pref h _ _
  | .copys h _ _
  | .rdef h _ _
  | .racq h _ _
  | .rstat h _ _
  | .barArrive h _ _
  | .barWait h _ _
  | .msg h _ _
  | .rdcsr h _ _
  | .seqnext h _ _
  | .call h _ _
  | .jmpx h _ _
  | .loop h _ _
  | .loopi h _ _ => some h
  | .pand h _ _ _
  | .por h _ _ _
  | .pxor h _ _ _
  | .pandn h _ _ _
  | .pgetx h _ _ _
  | .pcnt h _ _ _
  | .pfirst h _ _ _
  | .plast h _ _ _
  | .pgrab h _ _ _
  | .wrcsr h _ _ _
  | .qlen h _ _ _
  | .brpAny h _ _ _
  | .brpAll h _ _ _
  | .brpNone h _ _ _
  | .lrec h _ _ _ => some h
  | .cueresV h _ _ _ _ => some h
  | .mma s _ | .mhad s _ | .mdrain s _ | .mloada s _ => some (guardless s)
  | .mzero s _ _ | .mtrans s _ _ => some (guardless s)
  | .mmas s _ _ _ => some (guardless s)
  | _ => none

/-- R55, R67: the queues a syllable names. -/
def Instr.uses : Instr → List QUse
  | .brx _ _ a b _ => a.uses ++ b.uses
  | .cmp _ _ o => o.uses
  | .vcmp _ _ o => o.uses
  | .add _ o => o.uses
  | .sub _ o => o.uses
  | .mul _ o => o.uses
  | .mulh _ o => o.uses
  | .mulhu _ o => o.uses
  | .madd _ o => o.uses
  | .div _ o => o.uses
  | .divu _ o => o.uses
  | .rem _ o => o.uses
  | .remu _ o => o.uses
  | .and _ o => o.uses
  | .or _ o => o.uses
  | .xor _ o => o.uses
  | .andn _ o => o.uses
  | .shl _ o => o.uses
  | .shr _ o => o.uses
  | .sar _ o => o.uses
  | .rol _ o => o.uses
  | .ror _ o => o.uses
  | .min _ o => o.uses
  | .max _ o => o.uses
  | .minu _ o => o.uses
  | .maxu _ o => o.uses
  | .clz _ o => o.uses
  | .ctz _ o => o.uses
  | .popc _ o => o.uses
  | .sel _ o => o.uses
  | .sext _ o => o.uses
  | .zext _ o => o.uses
  | .adds _ o => o.uses
  | .subs _ o => o.uses
  | .msub _ o => o.uses
  | .aluiAdd _ o => o.uses
  | .aluiMul _ o => o.uses
  | .aluiAnd _ o => o.uses
  | .aluiOr _ o => o.uses
  | .aluiXor _ o => o.uses
  | .aluiShl _ o => o.uses
  | .aluiShr _ o => o.uses
  | .aluiSar _ o => o.uses
  | .aluiRol _ o => o.uses
  | .aluiRor _ o => o.uses
  | .aluiMin _ o => o.uses
  | .aluiMax _ o => o.uses
  | .aluiMinu _ o => o.uses
  | .aluiMaxu _ o => o.uses
  | .aluiAdds _ o => o.uses
  | .lea _ o => o.uses
  | .psetx _ o => o.uses
  | .pgetx _ d _ b => d.uses ++ b.uses
  | .pcnt _ d _ _ => d.uses
  | .pfirst _ d _ _ => d.uses
  | .plast _ d _ _ => d.uses
  | .vadd _ o => o.uses
  | .vsub _ o => o.uses
  | .vmul _ o => o.uses
  | .vdiv _ o => o.uses
  | .vmin _ o => o.uses
  | .vmax _ o => o.uses
  | .vadds _ o => o.uses
  | .vsubs _ o => o.uses
  | .vmulhi _ o => o.uses
  | .vfma _ o => o.uses
  | .vfnma _ o => o.uses
  | .vabs _ o => o.uses
  | .vneg _ o => o.uses
  | .vand _ o => o.uses
  | .vor _ o => o.uses
  | .vxor _ o => o.uses
  | .vandn _ o => o.uses
  | .vshl _ o => o.uses
  | .vshr _ o => o.uses
  | .vsar _ o => o.uses
  | .vnot _ o => o.uses
  | .vsel _ o => o.uses
  | .vmov _ o => o.uses
  | .vbcast _ o => o.uses
  | .vlane _ o => o.uses
  | .vins _ o => o.uses
  | .vcvt _ o => o.uses
  | .vrecip _ o => o.uses
  | .vrsqrt _ o => o.uses
  | .vsqrt _ o => o.uses
  | .vexp2 _ o => o.uses
  | .vlog2 _ o => o.uses
  | .vtanh _ o => o.uses
  | .vsigm _ o => o.uses
  | .vredsum _ o => o.uses
  | .vredmax _ o => o.uses
  | .vredmin _ o => o.uses
  | .vscansum _ o => o.uses
  | .vperm _ o => o.uses
  | .vrot _ o => o.uses
  | .vzip _ o => o.uses
  | .vunzip _ o => o.uses
  | .vrng _ o => o.uses
  | .vrngp _ o => o.uses
  | .vquant _ o => o.uses
  | .vdeq _ o => o.uses
  | .vscale _ o => o.uses
  | .mstat _ d => d.uses
  | .ld _ t m => t.uses ++ m.uses
  | .st _ t m => t.uses ++ m.uses
  | .ldt _ t m => t.uses ++ m.uses
  | .stt _ t m => t.uses ++ m.uses
  | .ldv _ q m => [.wr (8 + q.toNat)] ++ m.uses
  | .stv _ q m => [.rd (8 + q.toNat)] ++ m.uses
  | .gather _ q m => [.wr (8 + q.toNat)] ++ m.uses
  | .scatter _ q m => [.rd (8 + q.toNat)] ++ m.uses
  | .atomAdd _ _ m => m.uses
  | .atomAnd _ _ m => m.uses
  | .atomOr _ _ m => m.uses
  | .atomXor _ _ m => m.uses
  | .atomMin _ _ m => m.uses
  | .atomMax _ _ m => m.uses
  | .atomMinu _ _ m => m.uses
  | .atomMaxu _ _ m => m.uses
  | .atomSwap _ _ m => m.uses
  | .atomCas _ _ m => m.uses
  | .atomf _ _ m => m.uses
  | .atomfD _ _ m => m.base.uses
  | .pref _ _ m => m.uses
  | .copy _ o => o.uses
  | .copys _ o c => o.uses ++ c.src.uses
  | .sdef _ o => o.a.uses
  | .snest _ o => o.a.uses ++ o.b.uses
  | .sbind _ o => o.a.uses
  | .spos _ o => o.a.uses
  | .rdef _ _ b => b.uses
  | .racq _ d _ => d.uses
  | .rstat _ d _ => d.uses
  | .msg _ o c => o.uses ++ c.src.uses
  | .spawn _ o => o.uses
  | .pclaim _ o => o.uses
  | .ppub _ o => o.uses
  | .pabort _ o => o.uses
  | .pgrab _ _ _ b => b.uses
  | .prel _ o => o.uses
  | .pstat _ o => o.uses
  | .cuemk _ o => o.uses
  | .cueres _ o => o.uses
  | .cueresV _ a q _ _ => a.uses ++ [.rd (8 + q.toNat)]
  | .cuefail _ o => o.uses
  | .cuepeek _ o => o.uses
  | .cuestat _ o => o.uses
  | .launch _ o => o.uses
  | .lwait _ o => o.uses
  | .rdcsr _ d _ => d.uses
  | .wrcsr _ a _ _ => a.uses
  | .rdtime _ d => d.uses
  | .recapp _ o => o.uses
  | .wmark _ o => o.uses
  | .sidle _ a => a.uses
  | .wnext _ o => o.uses
  | .wpub _ o => o.uses
  | .wlate _ o => o.uses
  | .seqdef _ a => a.uses
  | .seqnext _ d _ => d.uses
  | .qlen _ d q _ => d.uses ++ [.either q.toNat]
  | .ret _ a => a.uses
  | .jmpx _ a _ => a.uses
  | .loop _ a _ => a.uses
  | .lrec _ a b _ => a.uses ++ b.uses
  | _ => []

/-- R105 step 3 for a syllable other than a nest record: none where it raises ILLEGAL_SYLLABLE. -/
def decodeSyl (w : Word) : Option Instr :=
  match decodeRaw w with
  | some i => if i.wf then some i else none
  | none => none

/-- The instruction read from its words: one syllable, or the eight words of a nest record. -/
def decode (ws : List Word) : Except DecErr Instr :=
  match ws with
  | [] => .error .syllable
  | w :: rest =>
    if (majOf w).toNat = 0x30 then decodeNest (w :: rest)
    else match decodeSyl w with
      | some i => .ok i
      | none => .error .syllable

/-- How many words an instruction with this first word has (R83, R92). -/
def lengthOf (w : Word) : Nat := if (majOf w).toNat = 0x30 then 8 else 1

/-- R102: the assigned majors. -/
def majAssigned (m : Nat) : Bool :=
  m == 0 || (2 ≤ m && m ≤ 9) || (0x10 ≤ m && m ≤ 0x15) || m == 0x18 || m == 0x1C || (0x20 ≤ m && m ≤ 0x29) ||
  m == 0x30 || m == 0x31 || m == 0x40 || m == 0x41 || (0x43 ≤ m && m ≤ 0x4C) || (0x50 ≤ m && m ≤ 0x53) || m == 0x58 ||
  m == 0x7E || m == 0x7F

/-- R100: the clusters that may issue a major. -/
def majCluster (m : Nat) (c : Cluster) : Bool :=
  if 0x20 ≤ m && m ≤ 0x29 then c == .v
  else if m == 0x30 || m == 0x31 then c == .m
  else if m == 0x49 then c == .l
  else if m == 0x09 || (0x40 ≤ m && m ≤ 0x48 && m != 0x46) || m == 0x4A || m == 0x4B then c == .l || c == .w
  else if m == 0x4C || m == 0x50 || m == 0x51 || m == 0x52 || m == 0x58 then c == .w
  else true

/-- R55: the cluster that writes a queue. -/
def qWriter (q : Nat) : Cluster :=
  match q with
  | 0 | 2 | 8 | 10 | 14 => .l
  | 7 | 12 | 15 => .m
  | 1 | 4 | 6 | 9 | 13 => .v
  | _ => .w
/-- R55: the cluster that reads a queue. -/
def qReader (q : Nat) : Cluster :=
  match q with
  | 1 | 3 => .l
  | 6 | 13 | 14 => .m
  | 0 | 5 | 7 | 8 | 11 | 12 => .v
  | _ => .w
def QUse.ok (c : Cluster) : QUse → Bool
  | .rd q => qReader q == c
  | .wr q => qWriter q == c
  | .either q => qReader q == c || qWriter q == c

/-- R105 step 4: the registers and queues a syllable names are ones its cluster may name. Rows and streams stand in
syllables of the V cluster only (R145), so R67 asks nothing more of them. -/
def Instr.clusterOk (c : Cluster) (i : Instr) : Bool := i.uses.all (·.ok c)

/-- What a cluster makes of the words at its head, in the order of R105 steps 1 to 5: an instruction, or the trap
code's name. -/
inductive Decoded where
  | instr (i : Instr)
  | illegalSyllable
  | illegalCluster
  | illegalNest (case : Nat)
  deriving DecidableEq, Repr

def decodeFor (c : Cluster) (ws : List Word) : Decoded :=
  let m := (majOf (ws.headD 0)).toNat
  if !majAssigned m then .illegalSyllable
  else if !majCluster m c then .illegalCluster
  else match decode ws with
    | .error .syllable => .illegalSyllable
    | .error (.nest k) => .illegalNest k
    | .ok i => if i.clusterOk c then .instr i else .illegalCluster

/-- R217: designator d, rewritten by the rotation groups (base, length) of a loop record in iteration i. -/
def rotDesig (groups : List (Nat × Nat)) (i : Nat) (d : BitVec 8) : BitVec 8 :=
  match groups.find? (fun (b, n) => n != 0 && b ≤ d.toNat && d.toNat < b + n) with
  | some (b, n) => BitVec.ofNat 8 (b + (d.toNat - b + i) % n)
  | none => d

/-- R217: the syllable with its designator fields rewritten. -/
def rotate (groups : List (Nat × Nat)) (i : Nat) (w : Word) : Word :=
  (rotFields w).foldl (fun w lo =>
    let d := w.extractLsb' lo 8
    (w &&& ~~~ ((0xFF : Word) <<< lo)) ||| ((rotDesig groups i d).zeroExtend 64 <<< lo)) w

/-- The eight words of a number of nbits bits, the first word lowest; a syllable is its one word. -/
def tableWords (w : Nat) : List Word :=
  let w0 : Word := BitVec.ofNat 64 w
  if lengthOf w0 = 8 then (List.range 8).map (fun k => BitVec.ofNat 64 (w >>> (64 * k))) else [w0]

/-- The instruction the decoder reads from a table word: bit 0 is the least significant bit of the first word, and
the bits at nbits and above are 0. -/
def decodeTableWord (nbits w : Nat) : Option Instr :=
  match decode (tableWords (w % 2 ^ nbits)) with
  | .ok i => some i
  | .error _ => none

end Sys2Proof
end

