-- ==== Sys2Proof/Config.lean ====
section
/-! DEFINITION. What the manual leaves free: constants without a body, so that no proof can see a value.
Each is named in a log entry (notes/assumptions). -/

namespace Sys2Proof.Config

/-- R159: which of the two FP32 values that bracket an inexact result an FP32 special function other than
VSQRT delivers: the one of greater magnitude when true. A fixed function of the minor and the input bits
(log 9). -/
opaque sfuAway : Nat → BitVec 32 → Bool

/-- R439: the public identity key, derived from the physically unclonable function (log 10). -/
opaque publicKey : List Byte

/-- R441: the SLH-DSA signature over the first 656 bytes of a quote (log 10). -/
opaque signature : List Byte → List Byte

/-- R441: the hash of an image, by its kind (0 root monitor, 1 kernel, 2 scheduler) and number (log 10). -/
opaque imageHash : Nat → Nat → List Byte

/-- R18, R441: the bytes of the signed records in load order, from what they hold: the place tables, the speed grade, the certificate
chain and their security versions (log 10). -/
opaque signedRecords : List (Nat × Nat) → Nat → List Byte → List (Nat × Nat) → List Byte

/-- R388: the fixed hash that picks the port of a peer access from the destination rank and address bits 13:6 (log 16). -/
opaque portHash : Nat → Nat → Nat

/-- R377: whether a core still holds a cached translation of a virtual address at a cycle (log 11). -/
opaque tlbHolds : Nat → Nat → Nat → Bool

/-- R379, R434: the entry address of a kernel image, by its number (log 43). -/
opaque imageEntry : Nat → BitVec 64

/-- R359, R366: the address of the index plane of a COPYS that a record restores where nothing else is kept of its role, by the address of
its replay entry and the cycle: the entry has no place for it (log 15). -/
opaque copyIndex : Nat → Nat → BitVec 64

/-- R417, R418: what the Curtain unit of another device answers to a RECAPP; the argument is the step's counter `fresh`
(log 19). -/
opaque peerReply : Nat → BitVec 64

/-- R243: how many contributions a partition's ATOMF.D overflow area holds (log 19). -/
opaque overflowEntries : Nat

/-- R302, R364: which of the save areas that a slot may have in its partition's memory the scheduler gives a role it binds, by
partition and slot (log 20). -/
opaque saveArea : Nat → Nat → Nat

/-- R371, R432: the pseudo-channel of its stack that an HBM address lies in (log 16). -/
opaque channelOf : Nat → BitVec 6

end Sys2Proof.Config
end

