-- ==== Sys2Proof/Machine/Num.lean ====
section
/-! DEFINITION. Numbers (02_numbers): the value an encoding stands for as an exact dyadic number, rounding it once
into a format (R33 to R36, R39, R40), and the exact operations that the instructions round. -/

namespace Sys2Proof

/-- Fraction bits of a floating format (R22). -/
def ETy.mbits : ETy → Nat
  | .fp32 => 23 | .bf16 => 7 | .fp16 => 10 | .f8a => 3 | .f8b => 2 | .i32 | .i16 | .i8 => 0
/-- Exponent bits. -/
def ETy.ebits : ETy → Nat
  | .fp32 => 8 | .bf16 => 8 | .fp16 => 5 | .f8a => 4 | .f8b => 5 | .i32 | .i16 | .i8 => 0
/-- Element width in bits. -/
def ETy.bits (t : ETy) : Nat := 8 * t.bytes
/-- F8A has no infinities (R23). -/
def ETy.hasInf (t : ETy) : Bool := t != .f8a
def ETy.bias (t : ETy) : Nat := 2 ^ (t.ebits - 1) - 1
/-- Exponent of the last place of a subnormal (R24). -/
def ETy.qmin (t : ETy) : Int := 1 - (t.bias : Int) - (t.mbits : Int)
/-- The code of the largest finite value (R24). -/
def ETy.maxCode (t : ETy) : Nat :=
  if t.hasInf then (2 ^ t.ebits - 1) * 2 ^ t.mbits - 1 else 0x7E
/-- The code of +infinity in a format that has one. -/
def ETy.infCode (t : ETy) : Nat := (2 ^ t.ebits - 1) * 2 ^ t.mbits
/-- The canonical NaN (R24, R26). -/
def ETy.nanCode (t : ETy) : Nat :=
  if t.hasInf then t.infCode + 2 ^ (t.mbits - 1) else 0x7F
def ETy.signBit (t : ETy) : Nat := 2 ^ (t.bits - 1)

end Sys2Proof

namespace Sys2Proof.Machine

/-- Flag bits of R41. -/
abbrev Fl := BitVec 6
def fIV : Fl := 1
def fDZ : Fl := 2
def fOF : Fl := 4
def fUF : Fl := 8
def fNX : Fl := 16
def fSAT : Fl := 32

/-- The value of a floating or integer element: NaN, an infinity, or (-1)^neg * m * 2^e exactly. A result that no
dyadic number expresses stands as a longer m whose last bit is 1 and lies below every rounding position (sticky). -/
inductive Dyad where
  | nan
  | inf (neg : Bool)
  | fin (neg : Bool) (m : Nat) (e : Int)
  deriving DecidableEq, Repr

/-- Two's complement reading of the low w bits. -/
def sint (w : Nat) (n : Nat) : Int :=
  let m := n % 2 ^ w
  if 2 * m < 2 ^ w then (m : Int) else (m : Int) - (2 ^ w : Nat)
/-- The low w bits of an integer. -/
def uintOf (w : Nat) (i : Int) : Nat := (i % (2 ^ w : Nat)).toNat

def Dyad.ofInt (i : Int) : Dyad := .fin (i < 0) i.natAbs 0

/-- The value of an element's bits (R23, R24, R28). -/
def decodeNum (t : ETy) (n : Nat) : Dyad :=
  if t.isFloat then
    let c := n % t.signBit
    let neg := n % (2 * t.signBit) ≥ t.signBit
    let ex := c / 2 ^ t.mbits
    let fr := c % 2 ^ t.mbits
    if t.hasInf && ex == 2 ^ t.ebits - 1 then (if fr = 0 then .inf neg else .nan)
    else if !t.hasInf && c == 0x7F then .nan
    else if ex = 0 then .fin neg fr t.qmin
    else .fin neg (2 ^ t.mbits + fr) (t.qmin + (ex - 1 : Nat))
  else Dyad.ofInt (sint t.bits n)

/-- m / 2^sh rounded to an integer by R33 for a value of sign neg, and whether that changed it. -/
def roundShift (rm : RM) (neg : Bool) (m sh : Nat) : Nat × Bool :=
  let q := m >>> sh
  let r := m % 2 ^ sh
  if r = 0 then (q, false)
  else
    let up := match rm with
      | .rne => 2 * r > 2 ^ sh || (2 * r == 2 ^ sh && q % 2 == 1)
      | .rtz => false
      | .rdn => neg
      | .rup => !neg
    (if up then q + 1 else q, true)

/-- m * 2^e rounded to a multiple of 2^q: the multiple, and whether that changed it. -/
def roundAt (rm : RM) (neg : Bool) (m : Nat) (e q : Int) : Nat × Bool :=
  if e ≥ q then (m <<< (e - q).toNat, false) else roundShift rm neg m (q - e).toNat

/-- Compare m1 * 2^e1 with m2 * 2^e2. -/
def cmpMag (m1 : Nat) (e1 : Int) (m2 : Nat) (e2 : Int) : Ordering :=
  if e1 ≥ e2 then compare (m1 <<< (e1 - e2).toNat) m2 else compare m1 (m2 <<< (e2 - e1).toNat)

/-- What an overflow delivers (R34). -/
def overflowCode (t : ETy) (rm : RM) (neg : Bool) : Nat :=
  let mag := if !t.hasInf then t.maxCode else
    match rm with
    | .rne => t.infCode
    | .rtz => t.maxCode
    | .rdn => if neg then t.infCode else t.maxCode
    | .rup => if neg then t.maxCode else t.infCode
  if neg then t.signBit + mag else mag

def signed (t : ETy) (neg : Bool) (mag : Nat) : Nat := if neg then t.signBit + mag else mag

/-- Round a value once into a floating format (R33 to R36, R40): the code and the flags. -/
def roundF (t : ETy) (rm : RM) : Dyad → Nat × Fl
  | .nan => (t.nanCode, 0)
  | .inf neg => if t.hasInf then (signed t neg t.infCode, 0) else (signed t neg t.maxCode, fOF ||| fNX)
  | .fin neg m e =>
    if m = 0 then (signed t neg 0, 0)
    else
      let top : Int := (Nat.log2 m : Int) + e
      let q := max (top - t.mbits) t.qmin
      let (n, inex) := roundAt rm neg m e q
      -- the largest finite value as a multiple of its last place
      let maxQ : Int := t.qmin + ((t.maxCode / 2 ^ t.mbits - 1 : Nat) : Int)
      let maxM := 2 ^ t.mbits + t.maxCode % 2 ^ t.mbits
      let beyond := cmpMag n q maxM maxQ == .gt
      let half := rm == .rne && cmpMag m e (2 * maxM + 1) (maxQ - 1) == .eq      -- R35
      if beyond || half then (overflowCode t rm neg, fOF ||| fNX)
      else
        let mag := if n = 0 then 0 else (q - t.qmin).toNat * 2 ^ t.mbits + n
        let tiny := inex && mag < 2 ^ t.mbits
        (signed t neg mag, (if inex then fNX else 0) ||| (if tiny then fUF else 0))

/-- Round a value to an integer of w bits (R35, R39, R40). -/
def roundI (w : Nat) (rm : RM) : Dyad → Nat × Fl
  | .nan => (0, fIV)
  | .inf neg => (if neg then 2 ^ (w - 1) else 2 ^ (w - 1) - 1, fOF ||| fNX)
  | .fin neg m e =>
    let (n, inex) := roundAt rm neg m e 0
    if neg then
      if n > 2 ^ (w - 1) then (2 ^ (w - 1), fOF ||| fNX) else (uintOf w (-(n : Int)), if inex then fNX else 0)
    else
      if n ≥ 2 ^ (w - 1) then (2 ^ (w - 1) - 1, fOF ||| fNX) else (n, if inex then fNX else 0)

/-- R28, R34: a conversion to a narrower integer type saturates; it then overflows. -/
def narrowInt (w : Nat) (i : Int) : Nat × Fl :=
  let lo : Int := -(2 ^ (w - 1) : Nat)
  let hi : Int := (2 ^ (w - 1) : Nat) - 1
  if i < lo then (uintOf w lo, fOF ||| fNX) else if i > hi then (uintOf w hi, fOF ||| fNX) else (uintOf w i, 0)

/-- Round into any element type. -/
def roundNum (t : ETy) (rm : RM) (x : Dyad) : Nat × Fl :=
  if t.isFloat then roundF t rm x else roundI t.bits rm x

/-! ### Exact operations (R151) -/

def Dyad.isZero : Dyad → Bool
  | .fin _ m _ => m == 0
  | _ => false

def Dyad.neg : Dyad → Dyad
  | .nan => .nan
  | .inf n => .inf (!n)
  | .fin n m e => .fin (!n) m e

def toSigned (n : Bool) (m : Nat) : Int := if n then -(m : Int) else m

/-- The exact sum of two finite values, with the sign of a zero sum (R151). -/
def addFin (rm : RM) (n1 : Bool) (m1 : Nat) (e1 : Int) (n2 : Bool) (m2 : Nat) (e2 : Int) : Dyad :=
  let e := min e1 e2
  let s := toSigned n1 (m1 <<< (e1 - e).toNat) + toSigned n2 (m2 <<< (e2 - e).toNat)
  if s = 0 then
    if m1 = 0 && m2 = 0 && n1 == n2 then .fin n1 0 0 else .fin (rm == .rdn) 0 0
  else .fin (s < 0) s.natAbs e

/-- A + B (R151). -/
def addNum (rm : RM) : Dyad → Dyad → Dyad × Fl
  | .nan, _ | _, .nan => (.nan, 0)
  | .inf a, .inf b => if a = b then (.inf a, 0) else (.nan, fIV)
  | .inf a, _ => (.inf a, 0)
  | _, .inf b => (.inf b, 0)
  | .fin n1 m1 e1, .fin n2 m2 e2 => (addFin rm n1 m1 e1 n2 m2 e2, 0)

/-- A × B (R151). -/
def mulNum : Dyad → Dyad → Dyad × Fl
  | .nan, _ | _, .nan => (.nan, 0)
  | .inf a, .inf b => (.inf (a != b), 0)
  | .inf a, .fin n m _ => if m = 0 then (.nan, fIV) else (.inf (a != n), 0)
  | .fin n m _, .inf b => if m = 0 then (.nan, fIV) else (.inf (n != b), 0)
  | .fin n1 m1 e1, .fin n2 m2 e2 => (.fin (n1 != n2) (m1 * m2) (e1 + e2), 0)

/-- ±(A × B) + C, exact (R150, R151). -/
def fmaNum (rm : RM) (negp : Bool) (a b c : Dyad) : Dyad × Fl :=
  let (p, f) := mulNum a b
  let p := if negp then p.neg else p
  let (r, g) := addNum rm p c
  (r, f ||| g)

/-- m1*2^e1 / m2*2^e2 with 80 bits or more and a sticky last bit. -/
def divMag (m1 : Nat) (e1 : Int) (m2 : Nat) (e2 : Int) : Nat × Int :=
  let k := 80 + Nat.log2 m2
  let n := m1 <<< k
  let q := n / m2
  let e := e1 - e2 - k
  if n % m2 = 0 then (q, e) else (2 * q + 1, e - 1)

/-- A / B (R151). -/
def divNum : Dyad → Dyad → Dyad × Fl
  | .nan, _ | _, .nan => (.nan, 0)
  | .inf _, .inf _ => (.nan, fIV)
  | .inf a, .fin n _ _ => (.inf (a != n), 0)
  | .fin n _ _, .inf b => (.fin (n != b) 0 0, 0)
  | .fin n1 m1 e1, .fin n2 m2 e2 =>
    if m2 = 0 then (if m1 = 0 then (.nan, fIV) else (.inf (n1 != n2), fDZ))
    else if m1 = 0 then (.fin (n1 != n2) 0 0, 0)
    else let (q, e) := divMag m1 e1 m2 e2; (.fin (n1 != n2) q e, 0)

/-- Integer square root by bits, from bit k - 1 down. -/
def isqrtGo : Nat → Nat → Nat → Nat
  | 0, _, r => r
  | k + 1, n, r => let c := r + 2 ^ k; isqrtGo k n (if c * c ≤ n then c else r)
def isqrt (n : Nat) : Nat := isqrtGo (Nat.log2 n / 2 + 1) n 0

/-- The square root of m * 2^e with a sticky last bit. -/
def sqrtMag (m : Nat) (e : Int) : Nat × Int :=
  let k := 200 + (if (e % 2 = 0) then 0 else 1)
  let n := m <<< k
  let r := isqrt n
  let e' := (e - k) / 2
  if r * r = n then (r, e') else (2 * r + 1, e' - 1)

/-! ### Comparisons (R27, R28, R101) -/

/-- The order of two values that are not NaN, -0 equal to +0. -/
def cmpNum : Dyad → Dyad → Option Ordering
  | .nan, _ | _, .nan => none
  | .inf a, .inf b => some (if a = b then .eq else if a then .lt else .gt)
  | .inf a, _ => some (if a then .lt else .gt)
  | _, .inf b => some (if b then .gt else .lt)
  | .fin n1 m1 e1, .fin n2 m2 e2 =>
    let e := min e1 e2
    some (compare (toSigned n1 (m1 <<< (e1 - e).toNat)) (toSigned n2 (m2 <<< (e2 - e).toNat)))

/-- A condition of R101 on an ordering; unordered operands satisfy NE only (R27). -/
def condOrd (c : Cond) : Option Ordering → Bool
  | none => c == .ne
  | some o =>
    match c with
    | .eq => o == .eq | .ne => o != .eq
    | .lt | .ltu => o == .lt | .le | .leu => o != .gt
    | .gt | .gtu => o == .gt | .ge | .geu => o != .lt

/-- A condition on two 64-bit values (R101). -/
def condWord (c : Cond) (a b : Word) : Bool :=
  condOrd c (some (if c.unsigned then compare a.toNat b.toNat else compare a.toInt b.toInt))

/-- Whether the sign of a value is minus. -/
def Dyad.isNeg : Dyad → Bool
  | .nan => false
  | .inf n => n
  | .fin n _ _ => n

/-- VMIN and VMAX on floats (R153): -0 below +0; a NaN operand gives NaN. -/
def minmaxNum (wantMax : Bool) (a b : Dyad) : Dyad :=
  match cmpNum a b with
  | none => .nan
  | some .lt => if wantMax then b else a
  | some .gt => if wantMax then a else b
  | some .eq => if a.isNeg == wantMax then b else a

/-- VCVT on one element (R38 to R40, R28): integers narrow by R28, everything else rounds once. -/
def convert (dst src : ETy) (rm : RM) (n : Nat) : Nat × Fl :=
  if !src.isFloat && !dst.isFloat then narrowInt dst.bits (sint src.bits n)
  else roundNum dst rm (decodeNum src n)

end Sys2Proof.Machine
end

