-- ==== Sys2Proof/Machine/State.lean ====
section
/-! DEFINITION. The state of the VK-1640: everything the spec gives the machine, as plain data, and the state
right after reset (23_upkeep R438, 01_the_part R21, 17_traps_contexts R367). -/

namespace Sys2Proof.Machine

/-- A map from Nat, keys strictly rising; a key that is not listed has the map's default value. -/
abbrev SMap (α : Type) := List (Nat × α)

/-- How a run of the model ends in a fault. -/
inductive Fault where
  /-- Raised by `issue` when exec is asked to issue a syllable for a role that is not RUNNING or a cluster that has
  halted. No step of the machine does so (R46, R48). Safe: the machine would do nothing there. -/
  | notRunning
  deriving DecidableEq, Repr

/-- Why an instruction has no next state in this model. -/
inductive Refusal where
  /-- Raised by a refused arm of exec: the instruction has no meaning in the model yet. Safe. -/
  | notModelled (mnemonic : String)
  deriving DecidableEq, Repr

/-! ### Clusters -/

/-- One entry of a cluster's loop stack (06_isa_control_scalar R126). -/
structure LoopEnt where
  start : Word
  stop : Word
  left : Word
  deriving DecidableEq, Repr

/-- The part of a loop record that a cluster is running (R216). -/
inductive LPart where
  | prologue | kernel | epilogue
  deriving DecidableEq, Repr

/-- A running loop record (09_kernel_state R215 to R218): its address and content, the effective trip count, the
iteration i, the last iteration I1, the address after the LREC. `boundary` marks a cluster at an iteration boundary,
where a clean stop may take it (R308). -/
structure LRec where
  addr : Word
  kernel : Word
  prologue : Word
  epilogue : Word
  ksize : Nat
  psize : Nat
  esize : Nat
  stages : Nat
  pbase : Nat
  trip : Nat
  groups : List (Nat × Nat)
  it : Nat
  last : Nat
  part : LPart
  ret : Word
  boundary : Bool
  deriving DecidableEq, Repr

/-- A cluster (R48): its PC, whether it has executed HALT, its loop stack (innermost last), its loop record. -/
structure Clu where
  pc : Word
  halted : Bool
  loops : List LoopEnt
  lrec : Option LRec
  deriving DecidableEq, Repr

def Clu.zero : Clu := { pc := 0, halted := false, loops := [], lrec := none }

/-! ### Queues, streams, rings -/

/-- A queue entry (R55 to R58): the cycle of its push, its value, and the pending access that fills it, if any. -/
structure QEnt where
  at_ : Nat
  val : Row
  pend : Option Nat
  deriving DecidableEq, Repr

/-- A defined stream register (R208 to R213): the eight descriptor words, the base count h0 of a ring stream, the
committed position C and the speculative position Sp. -/
structure Strm where
  words : List Word
  h0 : Nat
  c : Nat
  sp : Nat
  deriving DecidableEq, Repr

/-- States of a ring slot (R206), in the order of their codes in the save area (R364). -/
inductive RSlot where
  | free | acquired | published | poisoned
  deriving DecidableEq, Repr

/-- A defined ring (R205, R206): descriptor words 0 and 1, the three counters, the index of each, slot states. -/
structure Ring where
  w0 : Word
  w1 : Word
  head : BitVec 32
  pub : BitVec 32
  tail : BitVec 32
  hi : Nat
  pi : Nat
  ti : Nat
  slots : List RSlot
  deriving DecidableEq, Repr

/-! ### Requests in flight -/

/-- What a request does where it is served: the kinds of R359, with PREF and FENCE beside them. -/
inductive AKind where
  | ld | st | ldv | stv | gather | scatter
  | atom (op : Nat) | atomf | atomfD (level : Nat)
  | pref | fence
  | copy | copys
  | pool (op : Nat) | cue (op : Nat) | win (op : Nat) | lch (op : Nat)
  deriving DecidableEq, Repr

/-- A destination that a request writes: an X register, a predicate, or the queue entry that waits for it; `gone` is one that a
later member of the request's bundle has written (R53). -/
inductive Dest where
  | x (n : Nat) | p (n : Nat) | q (n : Nat) | gone
  deriving DecidableEq, Repr

/-- Where a request stands: not yet performed; parked at a cue cell (its physical address, since which cycle); sent
back by a full waiter table, to be sent again from a cycle on (R340); performed, with a reply that has not committed
(R330); faulted, in the replay queue (R231); held behind a faulted access (R353) or withdrawn (R342). -/
inductive AStat where
  | pending
  | parked (cell : Nat) (since : Nat)
  | resend (at_ : Nat)
  | replied (vals : List (Dest × Row))
  | faulted (code : Nat) (i0 i1 : Word) (info : Nat)
  | held
  deriving DecidableEq, Repr

/-- A request of a role: an access, or a POOL, CUE, WIN or LAUNCH request (R231, R330, R359). `addr` is the effective
address or the address operand; `data` the bytes to store or that the request carries; `v` the ATOM operand, B operand
or destination of a copy; `c` the compared value or the source of a copy; `idx` the element indices of GATHER and
SCATTER; `done` elements or granules already performed; `cueerr` CUEERR when it issued (R343); `gen` the generation of its address
space that it is tagged with (R376), `afresh` that RESTART sent it again, so that it is translated by a fresh walk (R377); `at_` the
cycle in which it entered its core's injection queue and `passed` how often it was overtaken there (R392). -/
structure Access where
  id : Nat
  cl : Cluster
  pc : Word
  kind : AKind
  addr : Word
  size : Size
  scope : Scope
  ord : Ord
  dests : List Dest
  data : List Byte
  v : Word
  c : Word
  len : Word
  idx : List (BitVec 32)
  listOff : Word
  done : Nat
  cueerr : Nat
  eid : BitVec 32
  wide : Bool
  gen : BitVec 16
  afresh : Bool
  at_ : Nat
  passed : Nat
  stat : AStat
  deriving DecidableEq, Repr

/-- A copy in the core's copy engine (R248 to R252), or one unicast part of a multicast copy (R394: the parts share the
id, `mdest` is the destination index, `multi` says that a multicast page was met). `after` and `afterW` are the requests
that its reads and its writes wait for (R249, R268); `done` granules are written; `buf` is the granule read and not yet
written; `held`: withdrawn into the stop record by a switch out, or held behind a faulted access (R353); `afresh`, `at_` and `passed` as
for a request, of the granule that is to be read or written next; `kept` the tile-store granules that it reads from, as it found them
(R204). -/
structure CopyJob where
  id : Nat
  cl : Cluster
  pc : Word
  sparse : Bool
  dst : Word
  src : Word
  len : Word
  index : Word
  acq : Bool
  rel : Bool
  scope : Scope
  after : List Nat
  afterW : List Nat
  done : Nat
  buf : Option (List Byte)
  multi : Bool
  mdest : Nat
  fault : Option (Nat × Word × Word)
  held : Bool
  afresh : Bool
  at_ : Nat
  passed : Nat
  kept : List (Nat × List Byte)
  deriving DecidableEq, Repr

/-- A nest record in flight (R172 to R178): its header address, its eight words, the steps committed, and the flags that
the committed steps raised, as (row, lane, flags). -/
structure Flight where
  addr : Word
  words : List Word
  step : Nat
  raised : List (Nat × Nat × BitVec 6)
  deriving DecidableEq, Repr

/-- What an operand of a nest record has still to advance by (R176): a stream or a ring, its number, vectors or slots. -/
structure Owed where
  strm : Bool
  num : Nat
  units : Nat
  deriving DecidableEq, Repr

/-- A hold-list entry (R326). -/
structure Hold where
  pool : Word
  slot : Nat
  pin : Bool
  deriving DecidableEq, Repr

/-- Why a role stopped (R350, R358); whether its record is written (R357) and its report posted (R360); the entries of the
record, each a request or copy by its id, with the destination index of a multicast part (R359, R394). -/
structure StopInfo where
  kind : Nat
  code : Nat
  cl : Cluster
  i0 : Word
  i1 : Word
  /-- The request whose fault the stop reports, for a deferred stop (R352). -/
  acc : Option Nat
  written : Bool
  posted : Bool
  entries : List (Nat × Nat)
  /-- The cycle of the stop. -/
  at_ : Nat
  /-- Stops that later members of its bundle asked for, one after another once the role runs again (R355): cluster, kind, code, INFO0, INFO1. -/
  later : List (Cluster × Nat × Nat × Word × Word)
  deriving DecidableEq, Repr

/-- What a member of a bundle reads: the role's registers, predicates, queues, CSRs, requests, nest record and barrier counts as they
stood before it (R52, R53), and the flags its members raise, as (row, lane, flags) (R369). -/
structure Snap where
  barA : SMap Nat
  barW : SMap Nat
  acc : List Access
  xs : SMap Word
  ps : SMap Pred
  qs : SMap (List QEnt)
  csrs : SMap Word
  nest : Option Flight
  raised : List (Nat × Nat × BitVec 6)
  deriving DecidableEq, Repr

/-- The RW fields of a role's control block (R361). -/
structure CtlBlk where
  save : Word
  twBase : BitVec 32
  twSize : BitVec 32
  asid : BitVec 16
  part : BitVec 8
  lid : BitVec 32
  deriving DecidableEq, Repr

/-- A role slot (R45, R46, R302, R367 and the chapters named in INVENTORY.md). `recent`: the flags raised in a cycle, as (row, lane,
flags), with that cycle (R369). `owed`: units that committed steps of the nest record in flight have still to pop (R176); `drainSlot`: the ring
slot that its drain has acquired, as the ring and the slot's counter value (R206). `lastAct`: the last cycle in which the watchdog's count was 0 (R54). `haltAt`: the cycle in which the last of its clusters halted (R309). -/
structure Role where
  st : RoleState
  frozen : Bool
  busy : Bool
  err : Nat
  blk : CtlBlk
  part : BitVec 8
  asid : BitVec 16
  lid : BitVec 32
  twBase : BitVec 32
  twSize : BitVec 32
  save : Word
  hwStart : Word
  hwLen : Word
  recAddr : Word
  det : Bool
  ncores : Nat
  participant : Bool
  arrival : Option Nat
  arrStart : Bool
  cl : Clu
  cm : Clu
  cv : Clu
  cw : Clu
  xs : SMap Word
  ps : SMap Pred
  vs : SMap Row
  qs : SMap (List QEnt)
  strms : SMap Strm
  rings : SMap Ring
  flags : BitVec 6
  flagen : BitVec 6
  ffrec : Word
  recent : Nat × List (Nat × Nat × BitVec 6)
  wdlimit : BitVec 32
  eid : BitVec 32
  cueerr : BitVec 7
  cuewd : BitVec 32
  rank : BitVec 32
  levels : SMap Word
  lastcode : BitVec 8
  nest : Option Flight
  owed : List Owed
  drainSlot : Option (Nat × BitVec 32)
  mstat : Word
  acc : List Access
  copies : List CopyJob
  nextId : Nat
  holds : List Hold
  barA : SMap Nat
  barW : SMap Nat
  atomSeq : Nat
  lastAct : Nat
  haltAt : Nat
  stopReq : Option Nat
  stop : Option StopInfo
  recN : Nat
  entryPend : Word
  snap : Option Snap
  deriving DecidableEq, Repr

/-- A FREE slot: every register at its reset value (R21, R367). -/
def Role.reset : Role where
  st := .free
  frozen := false
  busy := false
  err := 0
  blk := { save := 0, twBase := 0, twSize := 0, asid := 0, part := 0, lid := 0 }
  part := 0
  asid := 0
  lid := 0
  twBase := 0
  twSize := 0
  save := 0
  hwStart := 0
  hwLen := 0
  recAddr := 0
  det := false
  ncores := 0
  participant := false
  arrival := none
  arrStart := false
  cl := Clu.zero
  cm := Clu.zero
  cv := Clu.zero
  cw := Clu.zero
  xs := []
  ps := []
  vs := []
  qs := []
  strms := []
  rings := []
  flags := 0
  flagen := 0
  ffrec := 0
  recent := (0, [])
  wdlimit := 0x00800000
  eid := 0
  cueerr := 0
  cuewd := 10000
  rank := 0
  levels := []
  lastcode := 0
  nest := none
  owed := []
  drainSlot := none
  mstat := 0
  acc := []
  copies := []
  nextId := 0
  holds := []
  barA := []
  barW := []
  atomSeq := 0
  lastAct := 0
  haltAt := 0
  stopReq := none
  stop := none
  recN := 0
  entryPend := 0
  snap := none

/-! ### Cores -/

/-- An arrival held in a core's arrival queue, in the area entry it took, and the cycle in which its payload was complete (R73). -/
structure ArrEnt where
  area : Nat
  arr : Arrival
  at_ : Nat
  deriving DecidableEq, Repr

/-- A sequencer cursor (R219 to R221). -/
structure SeqCur where
  part : Nat
  lid : Nat
  trips : List Nat
  perm : Nat
  grain : Nat
  stop : Nat
  cursor : Nat
  deriving DecidableEq, Repr

/-- A message in a core's message engine (R263): sender role, the launch of it, target, its arrival, the requests that come first. -/
structure MsgJob where
  slot : Nat
  lid : BitVec 32
  target : Nat
  peer : Option Nat
  arr : Arrival
  after : List Nat
  deriving DecidableEq, Repr

/-- What a core holds beside its roles and its tile store: ARRBASE (R302), reserved area entries (R76), the arrival
queue, sequencer cursors, the message engine. -/
structure CoreSt where
  arrBase : BitVec 32
  areas : List Nat
  arrq : List ArrEnt
  cursors : List SeqCur
  msgs : List MsgJob
  deriving DecidableEq, Repr

def CoreSt.reset : CoreSt := { arrBase := 0x3F0000, areas := [], arrq := [], cursors := [], msgs := [] }

/-- A vector in a neighbour-link channel (R211, R212): the launch of its sender, the cycle of its push, whether it has
reached the neighbour. -/
structure ChanVec where
  part : Nat
  lid : Nat
  at_ : Nat
  arrived : Bool
  val : Row
  deriving DecidableEq, Repr

/-! ### Prompter -/

/-- An evaluation to be placed (R338): the cell, its EID, handler, argument, hint, address space, partition, the first
loader's identity. -/
structure Eval where
  cell : Nat
  va : Word
  eid : BitVec 32
  handler : Word
  arg : Word
  hint : Word
  asid : BitVec 16
  part : Nat
  loader : Word
  deriving DecidableEq, Repr

/-- A slice's Prompter (R336 to R340). Its waiter table is the parked requests of the roles. -/
structure Prompter where
  count : Nat
  evals : BitVec 32
  lq : List Eval
  touches : List Eval
  deriving DecidableEq, Repr

def Prompter.reset : Prompter := { count := 1, evals := 0, lq := [], touches := [] }

/-! ### Launches -/

/-- Where a launch stands (R303, R307 to R315). -/
inductive LState where
  | queued | bound | stopping | preempted | done
  deriving DecidableEq, Repr

/-- A line of a launch's completion AND tree (R313): the slot of its role, whether that role is a participant of the
levels (R260), whether it is raised. -/
structure Line where
  key : Nat
  participant : Bool
  raised : Bool
  deriving DecidableEq, Repr

/-- A role switched out of its slot (R311, R365), with the counts that barriers still read (R260). What the image and the record
have no place for comes back with RESTORE from here (log 20): the requests and copies behind the replay entries, the entries' ids,
the queue entries that wait for them as (queue, place, id), and of a nest record in flight the flags of its steps, what its operands have
still to pop and the slot that its drain holds. -/
structure Swapped where
  key : Nat
  twBase : BitVec 32
  twSize : BitVec 32
  save : Word
  asid : BitVec 16
  arrival : Option Nat
  eid : BitVec 32
  participant : Bool
  barA : SMap Nat
  barW : SMap Nat
  holds : List Hold
  notice8 : Bool
  winfree : Bool
  notice9 : Bool
  winready : Bool
  acc : List Access
  copies : List CopyJob
  entries : List (Nat × Nat)
  holes : List (Nat × Nat × Nat)
  raised : List (Nat × Nat × BitVec 6)
  owed : List Owed
  drainSlot : Option (Nat × BitVec 32)
  later : List (Cluster × Nat × Nat × Word × Word)
  deriving DecidableEq, Repr

/-- A launch of a partition (R294, R303, R313, R318): its id, its place among all the partition's accepted launches,
the copy of its record, its address space, allocation, its rank and the device count of its group, the port mask of each rank
(R300, R301), state, lines,
switched-out roles, the cycle its quantum began, the cycle since which it has waited, and its completion word once written. -/
structure Launch where
  id : BitVec 32
  ordinal : Nat
  rec_ : List Byte
  recAddr : Word
  asid : BitVec 16
  first : Nat
  count : Nat
  rank : Nat
  groups : Nat
  masks : List Nat
  st : LState
  lines : List Line
  swapped : List Swapped
  qstart : Nat
  since : Nat
  word : Option Word
  deriving DecidableEq, Repr

/-- A waiting SPAWN (R264), for a core of this device or of a peer's rank. -/
structure SpawnReq where
  core : Nat
  peer : Option Nat
  lid : BitVec 32
  asid : BitVec 16
  handler : Word
  arg : Word
  sender : Word
  key : Nat
  after : List Nat
  deriving DecidableEq, Repr

/-- A partition: its record (R378), launches in the order accepted, the last launch id, the spawn queue, the overflow
register (R243), the tokens that it has spent of each budget, with the period they were spent in (R316). -/
structure Part where
  record : Partition
  launches : List Launch
  lastId : BitVec 32
  accepted : Nat
  spawns : List SpawnReq
  overflow : Word
  spent : SMap (Nat × Nat)
  deriving DecidableEq, Repr

/-- The span in cycles that a bound role occupied a slot (R306). -/
structure Span where
  part : Nat
  key : Nat
  start : Nat
  stop : Option Nat
  deriving DecidableEq, Repr

/-- A pending ATOMF.D contribution (R241 to R244). -/
structure Contrib where
  pa : Nat
  part : Nat
  lid : Nat
  level : Nat
  inst : Nat
  gen : Nat
  core : Nat
  slot : Nat
  seq : Nat
  val : BitVec 32
  spilled : Bool
  deriving DecidableEq, Repr

/-- Completed generations of one instance of a level of a launch (R242, R260). -/
structure BarGen where
  part : Nat
  lid : Nat
  level : Nat
  inst : Nat
  done : Nat
  deriving DecidableEq, Repr

/-! ### Address spaces, service cores, the outside -/

/-- An address-space control block (R375). `rootNext` is the root written last, which the next bump makes current (R376); `rootOld`
the root of the generation before, until a bump under way completes (R278). -/
structure AsidBlk where
  root : Word
  gen : BitVec 16
  busy : Bool
  valid : Bool
  part : BitVec 8
  rootNext : Option Word
  rootOld : Word
  deriving DecidableEq, Repr

def AsidBlk.reset : AsidBlk := { root := 0, gen := 0, busy := false, valid := false, part := 0, rootNext := none, rootOld := 0 }

/-- A translation that a core has cached (R377; core 256 stands for the control die): address space, generation, the page's base address, the low bit of its index,
the leaf and the leaf's address. -/
structure Tlb where
  core : Nat
  asid : Nat
  gen : BitVec 16
  page : Nat
  lo : Nat
  leaf : Word
  epa : Nat
  deriving DecidableEq, Repr

/-- The privilege modes of a service core that this manual names (R379, R429). -/
inductive SvcMode where
  | machine | hs
  deriving DecidableEq, Repr

/-- What a control-die core does to memory or a register by a step of the schedule (R7, R429): a load of n bytes, a store, an atomic
read and write, a fetch of n bytes; the scheduler core's write of a core's slot-table header (R302). -/
inductive DieOp where
  | load (pa n : Nat) | store (pa : Nat) (data : List Byte) | amo (pa : Nat) (data : List Byte) | fetch (pa n : Nat)
  | arrBase (core : BitVec 8) (v : BitVec 32)
  deriving DecidableEq, Repr

/-- A service core as this manual describes it: its stop queue (R360), reports that wait for room, frozen (R385),
its kernel image (R379, R434), what its last read returned (a model field); the mode it runs in, whether its access faults are
delegated to HS-mode, where it runs, a0, its trap vector, and the cause, value and address of its last exception (R379, R429). -/
structure Svc where
  mode : SvcMode
  deleg : Bool
  pc : Word
  a0 : Word
  tvec : Word
  cause : Nat
  tval : Word
  epc : Word
  queue : List Word
  waiting : List Word
  frozen : Bool
  image : Nat
  version : Nat
  running : Bool
  lastRead : Word
  deriving DecidableEq, Repr

def Svc.reset : Svc :=
  { mode := .machine, deleg := true, pc := 0, a0 := 0, tvec := 0, cause := 0, tval := 0, epc := 0, queue := [], waiting := [], frozen := false, image := 0, version := 0, running := false, lastRead := 0 }

/-- A multicast set (R393). -/
structure McSet where
  count : Word
  bases : List Word
  deriving DecidableEq, Repr

/-- An optical port (R15, R385, R387 to R391). -/
structure Port where
  peer : Bool
  up : Bool
  frozen : Bool
  winBase : Nat
  winLen : Nat
  part : Nat
  dbOff : Nat
  dbAsid : BitVec 16
  held : Option (Nat × Arrival)
  deriving DecidableEq, Repr

def Port.reset : Port :=
  { peer := false, up := true, frozen := false, winBase := 0, winLen := 0, part := 255, dbOff := 0, dbAsid := 0,
    held := none }

/-! ### The Curtain unit -/

/-- A source of a record stream (R409): its watermark, ACTIVE or IDLE, the DTIME of its last record or watermark. -/
structure Src where
  sw : Nat
  active : Bool
  last : Nat
  deriving DecidableEq, Repr

/-- A record stream (R407): control-block fields, the copy of its specification, sources, watermark, DROPPED. -/
structure CStream where
  isOpen : Bool
  err : Nat
  specPa : Word
  buf : Word
  bufPages : BitVec 32
  asid : BitVec 16
  nsrc : BitVec 8
  fl : BitVec 8
  idle : Word
  fbdelay : Word
  log : Word
  logn : BitVec 32
  part : BitVec 8
  up : SMap Byte
  spec : List Byte
  srcs : List Src
  wm : Nat
  dropped : Nat
  deriving DecidableEq, Repr

def CStream.reset : CStream :=
  { isOpen := false, err := 0, specPa := 0, buf := 0, bufPages := 0, asid := 0, nsrc := 0, fl := 0, idle := 0,
    fbdelay := 0, log := 0, logn := 0, part := 255, up := [], spec := [], srcs := [], wm := 0, dropped := 0 }

/-- States of a window of event time (R414). -/
inductive WState where
  | open_ | firing | published | amending | stalled
  deriving DecidableEq, Repr

/-- A window (R408, R413 to R418): its stream, index k, state, the pages of the record buffer that it uses, records, encore list,
records taken by WLATE, WNEXT cursor, revision, holder (its slot's key and launch id). -/
structure CWin where
  pages : List Nat
  stream : Nat
  k : Nat
  st : WState
  recs : List (List Byte)
  encore : List (List Byte)
  taken : List (List Byte)
  cursor : Nat
  rev : Nat
  holder : Option (Nat × BitVec 32)
  deriving DecidableEq, Repr

/-- An arrival of the Curtain unit (R415), oldest first: the window's slot, the watermark it carries. The first 256 are in
its queue, the others stay queued in their windows. -/
structure CArr where
  win : Nat
  wm : Nat
  deriving DecidableEq, Repr

/-! ### The machine -/

/-- Whose syllable issues next. -/
structure Cur where
  core : BitVec 8
  slot : BitVec 2
  cl : Cluster
  deriving DecidableEq, Repr

/-- What a signed record of module flash holds (R18). -/
inductive FlashRec where
  | repair (place : SMap Nat) | grade (n : Nat) | certs (bs : List Byte)
  deriving DecidableEq, Repr

/-- A signed update of module flash (R20, R440): the record, its security version, whether its signature is good. -/
structure Update where
  record : FlashRec
  version : Nat
  sigOk : Bool
  deriving DecidableEq, Repr

/-- What a turn of the schedule does (log 1): the head syllable of one cluster, another step of the part, an access by a control-die
core, a read or a write of the management space by a management master (R386), or a signed update of module flash (R20). -/
inductive What where
  | syl (c : Cur) | ev (i : Instr) | die (by_ : Master) (op : DieOp) | mgmt (m : Nat) (write : Bool) | update (u : Update)
  deriving DecidableEq, Repr

/-- A turn: cycles that pass first, and what happens. -/
structure Turn where
  dt : Nat
  what : What
  deriving DecidableEq, Repr

/-- A violation-log entry (R385): master kind, master number, address. -/
structure Viol where
  kind : Nat
  who : Nat
  addr : Word
  deriving DecidableEq, Repr

/-- The state of the part. `seen`: how far the steps of the current cycle have come, for each order that the manual states within a
cycle (log 1). `owners`: for each 64 KiB unit of a tile store (64 × core + unit), one more than the address space
of its last occupant (R21). `tlb`: cached translations (R377). `slotTab`: the KIND and the bind record of each slot (R302). `worn`:
physical units with three errors within 24 hours (R432). `flash`: the place tables, `grade` and `certs` the speed grade and the
certificate chain, of the signed records (R18), `flashVer` their security versions and `versions` the highest accepted of each kind
(R440). `monitor`, `scheduler`: the access faults of these cores (R429); `monImage`, `schImage`: the images that they run (R438);
`clock`: DTIME has been released (R438). -/
structure State where
  mem : List Host.Cell
  poison : List Nat
  tile : List Host.Cell
  tpoison : List Nat
  owners : SMap Nat
  tags : SMap (BitVec 2)
  prompters : SMap Prompter
  cycle : Nat
  roles : SMap Role
  cores : SMap CoreSt
  chans : SMap (List ChanVec)
  parts : SMap Part
  spans : List Span
  contribs : List Contrib
  bars : List BarGen
  asids : SMap AsidBlk
  tlb : List Tlb
  slotTab : SMap (Nat × BindRec)
  msets : SMap McSet
  tagWin : Word
  svcs : SMap Svc
  monitor : Svc
  scheduler : Svc
  monImage : Nat
  schImage : Nat
  schedq : List Word
  viols : List Viol
  strms : SMap CStream
  wins : SMap CWin
  curq : List CArr
  ports : SMap Port
  mgmtOwner : Option Nat
  mgmtLast : Nat
  mgmtRefused : Nat
  place : SMap Nat
  errors : List (Nat × Nat × Nat)
  replaced : List (Nat × Nat)
  worn : List (Nat × Nat)
  flash : SMap Nat
  grade : Nat
  certs : List Byte
  flashVer : SMap Nat
  versions : SMap Nat
  clock : Bool
  throttled : Bool
  emergency : Bool
  up : Bool
  nvmeLog : List Bool
  hostReads : List (List Byte)
  quotes : List (List Byte)
  cur : Cur
  sched : List Turn
  seen : SMap Nat
  fresh : Nat
  deriving DecidableEq, Repr

/-- The machine right after bring-up (R438): memory clear, DTIME 0, every slot FREE, nothing queued. The registers the
spec gives no reset value for are at the values of log 3. -/
def State.reset : State where
  mem := []
  poison := []
  tile := []
  tpoison := []
  owners := []
  tags := []
  prompters := []
  cycle := 0
  roles := []
  cores := []
  chans := []
  parts := []
  spans := []
  contribs := []
  bars := []
  asids := []
  tlb := []
  slotTab := []
  msets := []
  tagWin := 0
  svcs := []
  monitor := Svc.reset
  scheduler := Svc.reset
  monImage := 0
  schImage := 0
  schedq := []
  viols := []
  strms := []
  wins := []
  curq := []
  ports := []
  mgmtOwner := none
  mgmtLast := 0
  mgmtRefused := 0
  place := []
  errors := []
  replaced := []
  worn := []
  flash := []
  grade := 0
  certs := []
  flashVer := []
  versions := []
  clock := true
  throttled := false
  emergency := false
  up := true
  nvmeLog := []
  hostReads := []
  quotes := []
  cur := { core := 0, slot := 0, cl := .l }
  sched := []
  seen := []
  fresh := 0

end Sys2Proof.Machine
end

