-- ==== Sys2Proof/Machine/Ops.lean ====
section
/-! DEFINITION. The named operations over the state: maps, bytes of memory and of tile stores, poison, roles and
clusters, address translation, and the monad in which a syllable issues. Taking a stop is here too (17 R350 to R356). -/

namespace Sys2Proof.Machine

/-! ### Maps -/

def mget {α : Type} (d : α) : SMap α → Nat → α
  | [], _ => d
  | (k', v) :: t, k => if k' = k then v else mget d t k

def mfind {α : Type} : SMap α → Nat → Option α
  | [], _ => none
  | (k', v) :: t, k => if k' = k then some v else mfind t k

def mput {α : Type} : SMap α → Nat → α → SMap α
  | [], k, v => [(k, v)]
  | (k', v') :: t, k, v =>
    if k' = k then (k, v) :: t
    else if k < k' then (k, v) :: (k', v') :: t
    else (k', v') :: mput t k v

def mdel {α : Type} : SMap α → Nat → SMap α
  | [], _ => []
  | (k', v) :: t, k => if k' = k then mdel t k else (k', v) :: mdel t k

/-- Write a value; a key whose value is the default is not listed. -/
def mset {α : Type} [DecidableEq α] (d : α) (m : SMap α) (k : Nat) (v : α) : SMap α :=
  if v = d then mdel m k else mput m k v

/-- Every key is above b, keys rise strictly, and no value is the default. -/
def mwfFrom {α : Type} [DecidableEq α] (d : α) : Nat → SMap α → Bool
  | _, [] => true
  | b, (k, v) :: t => b ≤ k && v != d && mwfFrom d (k + 1) t

/-- The canonical form of a memory: addresses strictly rising, no listed byte equal to what an unlisted one reads as. -/
def Memory.wf (m : List Host.Cell) : Bool := mwfFrom (0 : Byte) 0 m

/-! ### Bytes and words -/

/-- R2: little-endian. -/
def leNat : List Byte → Nat
  | [] => 0
  | b :: t => b.toNat + 256 * leNat t
def natLe : Nat → Nat → List Byte
  | 0, _ => []
  | k + 1, n => BitVec.ofNat 8 n :: natLe k (n / 256)
def leWord (bs : List Byte) : Word := BitVec.ofNat 64 (leNat bs)
def wordLe (w : Word) : List Byte := natLe 8 w.toNat
def rowLe (r : Row) : List Byte := natLe 512 r.toNat
def leRow (bs : List Byte) : Row := BitVec.ofNat 4096 (leNat bs)

/-- Bits hi:lo of a word as a number. -/
def bits (w : Word) (hi lo : Nat) : Nat := w.toNat / 2 ^ lo % 2 ^ (hi + 1 - lo)

/-! ### Memory (R2, R370, R429) -/

def readByte (m : List Host.Cell) (a : Nat) : Byte := mget (0 : Byte) m a
def writeByte (m : List Host.Cell) (a : Nat) (v : Byte) : List Host.Cell := mset (0 : Byte) m a v
def readBytes (m : List Host.Cell) : Nat → Nat → List Byte
  | _, 0 => []
  | a, n + 1 => readByte m a :: readBytes m (a + 1) n
def writeBytes (m : List Host.Cell) : Nat → List Byte → List Host.Cell
  | _, [] => m
  | a, b :: t => writeBytes (writeByte m a b) (a + 1) t

/-- Insert into, and remove from, a rising list of numbers. -/
def linsert : List Nat → Nat → List Nat
  | [], k => [k]
  | h :: t, k => if h = k then h :: t else if k < h then k :: h :: t else h :: linsert t k
/-- The members of a list of numbers, each once, where it stands first. -/
def uniq : List Nat → List Nat
  | [] => []
  | h :: t => h :: (uniq t).filter (· ≠ h)
def lremove (l : List Nat) (k : Nat) : List Nat := l.filter (· ≠ k)

/-- Granules (64 bytes) that a range touches, and those it covers whole. -/
def granules (a n : Nat) : List Nat := if n = 0 then [] else (List.range ((a + n - 1) / 64 - a / 64 + 1)).map (· + a / 64)
def wholeGranules (a n : Nat) : List Nat := (granules a n).filter (fun g => a ≤ 64 * g && 64 * g + 64 ≤ a + n)

def memPoisoned (s : State) (a n : Nat) : Bool := (granules a n).any (fun g => s.poison.contains g)
def tilePoisoned (s : State) (a n : Nat) : Bool := (granules a n).any (fun g => s.tpoison.contains g)

/-- A store to memory: a store of a whole granule clears its poison (R429). Every byte keeps the bits stored, those that R373
calls reserved in a translation entry too (DESIGN CHOICE, log 3: R6 says that reserved bits read as zero, R373's map that they
are RW). -/
def State.memWrite (s : State) (a : Nat) (bs : List Byte) : State :=
  { s with mem := writeBytes s.mem a bs, poison := (wholeGranules a bs.length).foldl lremove s.poison }
def State.memRead (s : State) (a n : Nat) : List Byte := readBytes s.mem a n
def State.memWord (s : State) (a : Nat) : Word := leWord (s.memRead a 8)

/-- Key of byte b of core c's tile store. -/
def tkey (c b : Nat) : Nat := c * 2 ^ 22 + b
def State.tileWrite (s : State) (core off : Nat) (bs : List Byte) : State :=
  { s with tile := writeBytes s.tile (tkey core off) bs,
           tpoison := (wholeGranules (tkey core off) bs.length).foldl lremove s.tpoison }
def State.tileRead (s : State) (core off n : Nat) : List Byte := readBytes s.tile (tkey core off) n

/-! ### Time -/

/-- R14, R5: DTIME in ns; a cycle is 0.8 ns (log 6). Until it is released it is 0 (R438). -/
def State.dtime (s : State) : Nat := if s.clock then s.cycle * 4 / 5 else 0
/-- Cycles of a span in microseconds. -/
def usCycles (us : Nat) : Nat := us * 1250

/-! ### Roles, clusters, cores -/

end Sys2Proof.Machine
namespace Sys2Proof
/-- The key of a role slot. -/
def Slot.key (r : Slot) : Nat := r.core.toNat * 4 + r.slot.toNat
/-- The number of a cluster (R358). -/
def Cluster.num : Cluster → Nat
  | .l => 0 | .m => 1 | .v => 2 | .w => 3
end Sys2Proof
namespace Sys2Proof.Machine
def slotOfKey (k : Nat) : Slot := { core := BitVec.ofNat 8 (k / 4), slot := BitVec.ofNat 2 k }

def State.role (s : State) (k : Nat) : Role := mget Role.reset s.roles k
def State.setRole (s : State) (k : Nat) (r : Role) : State := { s with roles := mput s.roles k r }
def State.core (s : State) (c : Nat) : CoreSt := mget CoreSt.reset s.cores c
def State.setCore (s : State) (c : Nat) (x : CoreSt) : State := { s with cores := mput s.cores c x }

def Role.clu (r : Role) : Cluster → Clu
  | .l => r.cl | .m => r.cm | .v => r.cv | .w => r.cw
def Role.setClu (r : Role) (c : Cluster) (x : Clu) : Role :=
  match c with
  | .l => { r with cl := x } | .m => { r with cm := x } | .v => { r with cv := x } | .w => { r with cw := x }

def clusters : List Cluster := [.l, .m, .v, .w]

def State.curKey (s : State) : Nat := s.cur.core.toNat * 4 + s.cur.slot.toNat
def State.curRole (s : State) : Role := s.role s.curKey

def Role.allHalted (r : Role) : Bool := clusters.all (fun c => (r.clu c).halted)

/-! ### Partitions and service cores -/

def Part.none : Part :=
  { record := { budgets := [], svcs := [], asids := [], hbm := [], slice := [], cache := [], cores := [], streams := [], ports := [],
                nvme := [], namespaces := [], weight := 0, imageOk := false, image := 0, version := 0, wins := [] },
    launches := [], lastId := 0, accepted := 0, spawns := [], overflow := 0, spent := [] }
def State.part? (s : State) (p : Nat) : Option Part := mfind s.parts p
def State.partOr (s : State) (p : Nat) : Part := mget Part.none s.parts p
def State.setPart (s : State) (p : Nat) (x : Part) : State := { s with parts := mput s.parts p x }
def State.svc (s : State) (n : Nat) : Svc := mget Svc.reset s.svcs n
def State.setSvc (s : State) (n : Nat) (x : Svc) : State := { s with svcs := mput s.svcs n x }
def State.asid (s : State) (a : Nat) : AsidBlk := mget AsidBlk.reset s.asids a
def State.port (s : State) (p : Nat) : Port := mget Port.reset s.ports p

/-- R360: the service core nearest a core, for a partition's stop reports. -/
def nearestSvc (p : Partition) (core : Nat) : Option Nat :=
  let d := core / 32
  if p.svcs.contains (2 * d) then some (2 * d)
  else if p.svcs.contains (2 * d + 1) then some (2 * d + 1)
  else
    let same := p.svcs.filter (fun n => n / 4 == d / 2)
    match (if same = [] then p.svcs else same) with
    | [] => none
    | x :: xs => some (xs.foldl min x)

/-- R360, R385: the service core that partition p's reports and notices of core c go to; one that is frozen is passed over
while another is not. -/
def State.reporter (s : State) (part core : Nat) : Option Nat :=
  let p := (s.partOr part).record
  let live := p.svcs.filter (fun n => !(s.svc n).frozen)
  nearestSvc (if live = [] then p else { p with svcs := live }) core

/-- Post an entry in a service core's stop queue; a full queue keeps it waiting (R360). -/
def State.postSvc (s : State) (n : Nat) (e : Word) : State :=
  let v := s.svc n
  if v.queue.length < 256 && v.waiting = [] then s.setSvc n { v with queue := v.queue ++ [e] }
  else s.setSvc n { v with waiting := v.waiting ++ [e] }

/-- R431: a notice to a partition, at the service core that serves core c. -/
def State.notice (s : State) (part core code low : Nat) (lid : Nat) : State :=
  match s.reporter part core with
  | none => s
  | some n => s.postSvc n (BitVec.ofNat 64 (low + code * 2 ^ 16 + lid * 2 ^ 32))

/-- R385: log a violation; the log holds 64 entries. -/
def State.logViol (s : State) (kind who : Nat) (a : Word) : State :=
  let v : Viol := { kind := kind, who := who, addr := a }
  { s with viols := (s.viols ++ [v]).drop (s.viols.length + 1 - 64) }

/-! ### Physical addresses (R370, R371) -/

def paRegion (pa : Nat) : Nat := pa / 2 ^ 52 % 16
/-- R370: the bits a region uses; the others have no effect (log 16). -/
def paNorm (pa : Nat) : Nat :=
  let r := paRegion pa
  let used := match r with
    | 0 => pa % 2 ^ 40
    | 1 => pa % 2 ^ 29
    | 3 => pa % 2 ^ 52 / 2 ^ 40 * 2 ^ 40 + pa % 2 ^ 29
    | 5 => pa % 2 ^ 24
    | _ => pa % 2 ^ 52
  r * 2 ^ 52 + used
/-- R370: an address as a control-die core names memory: region 8 is another name of region 0. -/
def diePa (a : Nat) : Nat := paNorm (if paRegion a = 8 then a % 2 ^ 52 else a)
/-- R371: home slice of an address of region 0 or 1. -/
def homeSlice (pa : Nat) : Nat :=
  if paRegion pa = 1 then pa / 2 ^ 23 % 64 else 16 * (pa / 2 ^ 38 % 4) + pa / 2 ^ 10 % 16

/-- R374, R378, R380: whether an address lies in the partition's windows: its HBM units, its slice units but those that act as cache, a peer
when the partition has a PEER port, a host when the partition has that HOST port (log 16). -/
def inWindows (s : State) (p : Partition) (pa : Nat) : Bool :=
  match paRegion pa with
  | 0 => p.hbm.contains (pa % 2 ^ 40 / 2 ^ 30)
  | 1 => p.slice.contains (pa % 2 ^ 29 / 2 ^ 20) && !p.cache.contains (pa % 2 ^ 29 / 2 ^ 20)
  | 2 | 3 => p.ports.any (fun q => (s.port q.1).peer)
  | 4 => p.ports.any (fun q => q.1 == pa / 2 ^ 48 % 16) && !(s.port (pa / 2 ^ 48 % 16)).peer
  | 5 => true
  | _ => false

/-- R300: the ports that carry the traffic of a launch's process group to a rank; every port where the launch has no table. -/
def groupMask (s : State) (part lid : Nat) (rank : Nat) : Nat :=
  match (s.partOr part).launches.find? (fun l => l.id.toNat == lid) with
  | some l => if l.masks = [] then 0xFFF else l.masks.getD rank 0
  | none => 0xFFF
/-- R388: the PEER port of a partition that carries a role's traffic to a rank: one of the rank's port mask, by a fixed hash (log 16). -/
def portTo (s : State) (r : Role) (rank h : Nat) : Option Nat :=
  let p := (s.partOr r.part.toNat).record
  let ps := (p.ports.map (·.1)).filter (fun q => (s.port q).peer && (groupMask s r.part.toNat r.lid.toNat rank).testBit q)
  ps[Config.portHash rank h % ps.length]?
/-- The one that carries an access to a peer's address, by its rank and bits 13:6. -/
def peerPort (s : State) (r : Role) (pa : Nat) : Option Nat := portTo s r (pa / 2 ^ 40 % 2 ^ 12) (pa / 2 ^ 6 % 2 ^ 8)
/-- The optical port that carries a role's access to an address. -/
def portOf (s : State) (r : Role) (pa : Nat) : Option Nat :=
  match paRegion pa with
  | 2 | 3 => peerPort s r pa
  | 4 => some (pa / 2 ^ 48 % 16)
  | _ => none
/-- R385, R391: a port takes new transactions: its link is up and it is not frozen. -/
def Port.takes (q : Port) : Bool := q.up && !q.frozen
/-- R391: whether the port that carries a role's access to an address takes it. -/
def linkUp (s : State) (r : Role) (pa : Nat) : Bool :=
  !(2 ≤ paRegion pa && paRegion pa ≤ 4) || (portOf s r pa).any (fun q => (s.port q).takes)
/-- R388: an access to a peer stays within the process group. -/
def inGroup (r : Role) (pa : Nat) : Bool :=
  !(paRegion pa = 2 || paRegion pa = 3) || pa / 2 ^ 40 % 2 ^ 12 < max 1 (r.rank.toNat / 2 ^ 16)

/-! ### Trap codes (R350) -/

def tSYL : Nat := 0x01
def tCLU : Nat := 0x02
def tTGT : Nat := 0x03
def tNEST : Nat := 0x04
def tLOOP : Nat := 0x08
def tPAGE : Nat := 0x10
def tPROT : Nat := 0x11
def tALIGN : Nat := 0x12
def tTILE : Nat := 0x13
def tPOISON : Nat := 0x14
def tARITH : Nat := 0x20
def tSELF : Nat := 0x30
def tDEEP : Nat := 0x31
def tPOOL : Nat := 0x38
def tWIN : Nat := 0x40
def tWDOG : Nat := 0x50
def tVIOL : Nat := 0x60
def tSOFT : Nat := 0x70
def tHARD : Nat := 0x7F
/-- INFO1 of an exact fault (R350): the master kind of a VIOLATION, otherwise 0xFFFF. -/
def exactI1 : Word := 0xFFFF
def exactInfo (code : Nat) : Word := if code = tVIOL then 0 else exactI1

/-! ### Translation (R372 to R374) -/

/-- What an access does to the page it goes through. -/
inductive Want where
  | rd | wr | rw | fetch
  deriving DecidableEq, Repr

/-- A translated address: physical address, attribute, and the state with A and D set. -/
structure Xlat where
  st : State
  pa : Nat
  attr : Nat
  deriving DecidableEq, Repr

/-- R227: bits 63:57 are copies of bit 56. -/
def canonical (va : Word) : Bool := (va.extractLsb' 0 57).signExtend 64 == va
def canon (va : Word) : Word := (va.extractLsb' 0 57).signExtend 64

/-- The levels of the table from the root: low index bit, number of index bits, and whether a leaf may stand there. -/
def walkLevels : List (Nat × Nat × Bool) := [(48, 9, false), (39, 9, false), (30, 9, true), (21, 9, true), (16, 5, true)]

/-- The leaf that maps an address: where it stands, its word, the low bit of its index. -/
structure Leaf where
  epa : Nat
  word : Word
  lo : Nat
  deriving DecidableEq, Repr

/-- The A bit, and for a write the D bit. -/
def adBits (want : Want) : Word := match want with | .wr | .rw => 0x300 | _ => 0x100
/-- R373, R374: the leaf's permissions, attribute and frame; the A and D bits are set in the entry, and the core caches the
translation. -/
def useLeaf (s : State) (core : Nat) (part : Partition) (asid : Nat) (gen : BitVec 16) (va : Word) (want : Want) (l : Leaf) : Except Nat Xlat :=
  let e := l.word
  let frame := bits e 55 16 * 2 ^ 16
  let attr := bits e 6 5
  let okPerm := match want with
    | .rd => e.getLsbD 2
    | .wr => e.getLsbD 3
    | .rw => e.getLsbD 2 && e.getLsbD 3
    | .fetch => e.getLsbD 4
  let region := paRegion frame
  let pa := paNorm (frame + va.toNat % 2 ^ l.lo)
  if frame % 2 ^ l.lo ≠ 0 then .error tPROT
  else if !(region ≤ 5) then .error tPROT
  else if attr = 1 && region ≠ 1 then .error tPROT
  else if attr = 2 && 1 < region then .error tPROT
  else if attr = 3 && !(l.lo = 16 && region = 5 && frame % 2 ^ 52 / 2 ^ 24 = 0 && frame / 2 ^ 16 % 256 < 64) then .error tPROT
  else if attr ≠ 3 && region = 5 then .error tPROT
  else if !okPerm then .error tPROT
  else if !inWindows s part pa then .error tVIOL
  else
    let ad := adBits want
    let page := va.toNat / 2 ^ l.lo * 2 ^ l.lo
    let c : Tlb := { core := core, asid := asid, gen := gen, page := page, lo := l.lo, leaf := e ||| ad, epa := l.epa }
    let s' : State := { s with tlb := c :: s.tlb.filter (fun t => !(t.core = core && t.asid = asid && t.gen = gen && t.page = page)) }
    .ok { st := if e ||| ad = e then s' else { s' with mem := writeBytes s.mem l.epa (wordLe (s.memWord l.epa ||| ad)) },
          pa := pa, attr := attr }

/-- R372, R373: the walk from a node: a trap code, or the leaf. A node outside the partition's windows is a VIOLATION, as a frame is
(R378; DEDUCED, log 11). -/
def walk (s : State) (part : Partition) (va : Word) : Nat → List (Nat × Nat × Bool) → Except Nat Leaf
  | _, [] => .error tPROT
  | node, (lo, n, leafOk) :: rest =>
    let size := if n = 5 then 256 else 4096
    let epa := paNorm (node + 8 * bits va (lo + n - 1) lo)
    if node % size ≠ 0 || 1 < paRegion node then .error tPROT
    else if !inWindows s part epa then .error tVIOL
    else if memPoisoned s epa 8 then .error tPOISON
    else
      let e := s.memWord epa
      if !e.getLsbD 0 then .error tPAGE
      else if e.getLsbD 1 || n = 5 then
        if leafOk then .ok { epa := epa, word := e, lo := lo } else .error tPROT
      else walk s part va (bits e 55 8 * 256) rest

/-- The translation of an address that a core has cached (R377). -/
def cachedLeaf (s : State) (core asid : Nat) (gen : BitVec 16) (va : Word) : Option Leaf :=
  (s.tlb.find? (fun t => t.core = core && t.asid = asid && t.gen = gen && va.toNat / 2 ^ t.lo * 2 ^ t.lo = t.page)).map
    (fun t => { epa := t.epa, word := t.leaf, lo := t.lo })
/-- A cached leaf says something else than the walk: entry, page size, or an A or D bit that the entry lacks. -/
def staleLeaf (c : Leaf) : Except Nat Leaf → Bool
  | .error _ => true
  | .ok f => !(f.epa = c.epa && f.lo = c.lo && f.word ||| 0x300 = c.word ||| 0x300 && f.word &&& c.word = c.word)
/-- The record of the partition that an address space belongs to. -/
def asidPart (s : State) (asid : Nat) : Partition := (s.partOr (s.asid asid).part.toNat).record
/-- The leaf that a fresh walk finds for an access tagged with a generation (R278, R376): a trap code, or the leaf. -/
def freshLeaf (s : State) (asid : Nat) (gen : BitVec 16) (va : Word) : Except Nat Leaf :=
  let b := s.asid asid
  walk s (asidPart s asid) va (if b.busy && gen != b.gen then b.rootOld else b.root).toNat walkLevels
/-- Translate a virtual address by a fresh walk. -/
def translateW (s : State) (core asid : Nat) (gen : BitVec 16) (va : Word) (want : Want) : Except Nat Xlat :=
  match freshLeaf s asid gen va with
  | .ok l => useLeaf s core (asidPart s asid) asid gen va want l
  | .error c => .error c
/-- Translate a virtual address for an access of a core that is tagged with a generation (R278, R372, R374, R377): a trap code, or where
the access goes. Where what the core has cached is stale, either may be used. -/
def translateG (s : State) (core asid : Nat) (gen : BitVec 16) (va : Word) (want : Want) : Except Nat Xlat :=
  match cachedLeaf s core asid gen va with
  | some c =>
    if staleLeaf c (freshLeaf s asid gen va) && Config.tlbHolds core va.toNat s.cycle then
      useLeaf s core (asidPart s asid) asid gen va want c
    else translateW s core asid gen va want
  | none => translateW s core asid gen va want
/-- The same, for an access of the current generation. -/
def translate (s : State) (core asid : Nat) (va : Word) (want : Want) : Except Nat Xlat := translateG s core asid (s.asid asid).gen va want
/-- R362, R377: the translation of an access; one that RESTART sent again walks afresh. -/
def translateA (s : State) (core : Nat) (afresh : Bool) (asid : Nat) (gen : BitVec 16) (va : Word) (want : Want) : Except Nat Xlat :=
  if afresh then translateW s core asid gen va want else translateG s core asid gen va want
/-- The core number that stands for the control die. -/
def dieCore : Nat := 256
/-- R278: the generation that an access tagged with one is translated under: a tag that has gone stale is replaced. -/
def tagNow (s : State) (asid : Nat) (gen : BitVec 16) : BitVec 16 :=
  let b := s.asid asid
  if b.busy && gen + 1 = b.gen then gen else b.gen

/-- A read of a role that is no access of R231: a fetch, a handler block, a loop record. It reaches no multicast page (R374) and no host
(R389). A trap code and INFO1, or where it reads, with the state after the walk. -/
def readAt (s : State) (core : Nat) (r : Role) (va : Word) (want : Want) (n : Nat) : Except (Nat × Word) (Nat × State) :=
  match translate s core r.asid.toNat va want with
  | .error c => .error (c, exactInfo c)
  | .ok x =>
    if x.attr = 3 || paRegion x.pa = 4 || !inGroup r x.pa then .error (tPROT, exactI1)
    else if !linkUp s r x.pa then .error (tPOISON, 0xFFFE)
    else if memPoisoned x.st x.pa n then .error (tPOISON, exactI1)
    else .ok (x.pa, x.st)

/-! ### The issue monad -/

/-- Why a syllable does not commit: it waits at its head (R48); it traps, exactly (R351); it uses the destination of a
request that has faulted, and the role stops (R352). -/
inductive Stop where
  | wait
  | trap (code : Nat) (i0 i1 : Word)
  | deferred (id : Nat)
  deriving DecidableEq, Repr

/-- An issuing syllable: it reads and changes the state, or does not commit. -/
abbrev Iss := StateT State (Except Stop)

def stopWith {α : Type} (x : Stop) : Iss α := fun _ => .error x
def waitI {α : Type} : Iss α := stopWith .wait
def trapI {α : Type} (code : Nat) (i0 i1 : Word) : Iss α := stopWith (.trap code i0 i1)
def waitIf (b : Bool) : Iss Unit := if b then waitI else pure ()
def trapIf (b : Bool) (code : Nat) (i0 i1 : Word) : Iss Unit := if b then trapI code i0 i1 else pure ()
def getRole : Iss Role := fun s => .ok (s.curRole, s)
def modRole (f : Role → Role) : Iss Unit := fun s => .ok ((), s.setRole s.curKey (f s.curRole))
def getSt : Iss State := fun s => .ok (s, s)
def modSt (f : State → State) : Iss Unit := fun s => .ok ((), f s)
def getClu : Iss Clu := fun s => .ok (s.curRole.clu s.cur.cl, s)
def modClu (f : Clu → Clu) : Iss Unit := fun s =>
  .ok ((), s.setRole s.curKey (s.curRole.setClu s.cur.cl (f (s.curRole.clu s.cur.cl))))

/-! ### Taking a stop (R350 to R356) -/

/-- R385: an access or a copy of the role has violated. -/
def Role.violated (r : Role) : Bool :=
  r.acc.any (fun a => match a.stat with | .faulted c _ _ _ => c = tVIOL | _ => false) ||
  r.copies.any (fun c => match c.fault with | some f => f.1 = tVIOL | none => false)
/-- R385: an access or a copy of role k has faulted: a violation is logged, and a role that has stopped is frozen at once. -/
def noteFault (s : State) (k code : Nat) (a : Word) : State :=
  let r := s.role k
  if code = tVIOL then (s.logViol 0 k a).setRole k { r with frozen := r.frozen || r.st == .stopped } else s
/-- The role of key k stops: it leaves RUNNING with the cause pending; its record is written by STOP_RECORD. A violation freezes it,
whatever it stops for; one of an access has been logged (R385). -/
def takeStop (s : State) (k kind code : Nat) (cl : Cluster) (i0 i1 : Word) (acc : Option Nat) : State :=
  let r := s.role k
  let info : StopInfo :=
    { kind := kind, code := code, cl := cl, i0 := i0, i1 := i1, acc := acc, written := false, posted := false,
      entries := [], at_ := s.cycle, later := [] }
  let r' := { r with st := .stopped, stop := some info, lastcode := BitVec.ofNat 8 code, stopReq := none,
                     snap := none, frozen := r.frozen || r.violated || code = tVIOL }
  let s' := s.setRole k r'
  if code = tVIOL && acc.isNone then s'.logViol 0 k i0 else s'

/-- Stops that the role is to make one after another when it runs again (R355). -/
def stopAlso (s : State) (k : Nat) (l : List (Cluster × Nat × Nat × Word × Word)) : State :=
  s.setRole k { s.role k with stop := (s.role k).stop.map (fun i => { i with later := i.later ++ l }) }
/-- R355: the first cluster that has not halted, in the order L, M, V, W; L where all have (log 21). -/
def Role.front (r : Role) : Cluster := (clusters.find? (fun c => !(r.clu c).halted)).getD .l

/-- An exact trap of the syllable at the head of the current cluster. -/
def takeTrap (s : State) (code : Nat) (i0 i1 : Word) : State := takeStop s s.curKey 1 code s.cur.cl i0 i1 none

/-- A deferred stop (R352): role k stops, at cluster cl, for the fault of its request or copy id. The replay index that R350
puts in INFO1 is known when the record is written. -/
def deferredAt (s : State) (k : Nat) (cl : Cluster) (id : Nat) : State :=
  let r := s.role k
  let fromAcc := r.acc.findSome? (fun a => if a.id = id then
      (match a.stat with
       | .faulted c i0 i1 _ => some (c, i0, i1)
       | _ => none) else none)
  let fromCopy := r.copies.findSome? (fun c => if c.id = id then c.fault else none)
  match fromAcc.orElse (fun _ => fromCopy) with
  | some (c, i0, i1) => takeStop s k 1 c cl i0 i1 (some id)
  | none => s
/-- The deferred stop of the current role at its current syllable. -/
def takeDeferred (s : State) (id : Nat) : State := deferredAt s s.curKey s.cur.cl id

end Sys2Proof.Machine
end

