-- ==== Sys2Proof/Machine/Flags.lean ====
section
/-! DEFINITION. The sticky flag word and the first-fault record (02_numbers R41 to R43, 17 R367, R369). -/

namespace Sys2Proof.Machine

/-- The first-fault record of an element (R367). -/
def ffWord (core slot row lane : Nat) (fl : Fl) : Word :=
  BitVec.ofNat 64 (core + slot * 2 ^ 8 + row * 2 ^ 16 + lane * 2 ^ 24 + 2 ^ 33 + fl.toNat * 2 ^ 34)
def ffValid (w : Word) : Bool := w.getLsbD 33
/-- The part of the record that orders elements of one role: row, then lane (R43). -/
def ffId (w : Word) : Nat := bits w 23 16 * 512 + bits w 32 24

/-- R43: the record after an element raises enabled flags en. -/
def ffMerge (rec_ : Word) (core slot row lane : Nat) (en : Fl) : Word :=
  let new := ffWord core slot row lane en
  if !ffValid rec_ then new
  else if ffId new < ffId rec_ then new
  else if ffId new = ffId rec_ then rec_ ||| new
  else rec_

/-- R42, R43: an element of role k raises flags. -/
def Role.raise (r : Role) (k row lane : Nat) (fl : Fl) : Role :=
  let en := fl &&& r.flagen
  { r with flags := r.flags ||| fl,
           ffrec := if en = 0 then r.ffrec else ffMerge r.ffrec (k / 4) (k % 4) row lane en }

/-- An element of role k raises flags in the given cycle: a WRCSR of that cycle takes effect before them (R369). -/
def Role.raiseAt (r : Role) (now k row lane : Nat) (fl : Fl) : Role :=
  { r.raise k row lane fl with recent := (now, (if r.recent.1 = now then r.recent.2 else []) ++ [(row, lane, fl)]) }
/-- Several elements do. -/
def Role.raiseAll (r : Role) (now k : Nat) (fs : List (Nat × Nat × Fl)) : Role :=
  fs.foldl (fun r x => r.raiseAt now k x.1 x.2.1 x.2.2) r

/-- Raise flags for the issuing role. In a bundle they are raised after its writes of FLAGS (R369). -/
def raiseI (row lane : Nat) (fl : Fl) : Iss Unit :=
  if fl = 0 then pure ()
  else fun s =>
    let r := s.curRole
    let r' := match r.snap with
      | none => r.raiseAt s.cycle s.curKey row lane fl
      | some sn => { r with snap := some { sn with raised := sn.raised ++ [(row, lane, fl)] } }
    .ok ((), s.setRole s.curKey r')

/-- Raise the flags of several lanes of one destination row. -/
def raiseLanes (row : Nat) : List (Nat × Fl) → Iss Unit
  | [] => pure ()
  | (lane, fl) :: t => do
    raiseI row lane fl
    raiseLanes row t

end Sys2Proof.Machine
end

