-- ==== Sys2Proof/Machine/Tile.lean ====
section
/-! DEFINITION. The tile store as a role sees it (09_kernel_state R201, R202), rings (R205 to R207) and the geometry
of streams (R208 to R213). -/

namespace Sys2Proof.Machine

/-! ### Windows -/

/-- R201: the byte of its core's tile store that a tile-store offset of a role names. -/
def tileByte (r : Role) (arrBase : Nat) (o : Nat) : Option Nat :=
  if o < r.twSize.toNat then some (r.twBase.toNat + o)
  else
    match r.arrival with
    | some k => if 0x400000 + 4096 * k ≤ o && o < 0x400000 + 4096 * k + 4096 then some (arrBase + (o - 0x400000)) else none
    | none => none

/-- The first of n offsets from o that names no byte of the role. -/
def tileBad (r : Role) (arrBase : Nat) (o n : Nat) : Option Nat :=
  ((List.range n).map (· + o)).find? (fun x => (tileByte r arrBase x).isNone)

/-- A range of offsets that a role may use: where it starts in the tile store (R201). Windows and area entries are
contiguous, so the two ends decide. -/
def tileRange (r : Role) (arrBase : Nat) (o n : Nat) : Option Nat :=
  if n = 0 then some ((tileByte r arrBase o).getD 0)
  else
    match tileByte r arrBase o, tileByte r arrBase (o + n - 1) with
    | some a, some b => if b = a + (n - 1) then some a else none
    | _, _ => none

def State.arrBase (s : State) (core : Nat) : Nat := (s.core core).arrBase.toNat

/-- Check a range of tile-store offsets at issue: TILE_BOUNDS outside (R201, R231). -/
def tileChk (o n : Nat) : Iss Nat := fun s =>
  let k := s.curKey
  match tileRange (s.role k) (s.arrBase (k / 4)) o n with
  | some p => .ok (p, s)
  | none => .error (.trap tTILE (BitVec.ofNat 64 o) exactI1)

/-- Read bytes of the role's tile window; poison stops the syllable exactly (R429, log 8). -/
def tileGet (o n : Nat) : Iss (List Byte) := do
  let p ← tileChk o n
  let s ← getSt
  let core := s.curKey / 4
  trapIf (tilePoisoned s (tkey core p) n) tPOISON (BitVec.ofNat 64 o) exactI1
  pure (s.tileRead core p n)

/-- Read a range of the role's tile window of which only the bytes that `use` picks are used: poison elsewhere stops nothing
(R187). -/
def tileGetOf (use : Nat → Bool) (o n : Nat) : Iss (List Byte) := do
  let p ← tileChk o n
  let s ← getSt
  let core := s.curKey / 4
  match (List.range n).find? (fun i => use i && s.tpoison.contains ((tkey core p + i) / 64)) with
  | some i => trapI tPOISON (BitVec.ofNat 64 (o + i)) exactI1
  | none => pure (s.tileRead core p n)

/-- Write bytes of the role's tile window. -/
def tilePut (o : Nat) (bs : List Byte) : Iss Unit := do
  let p ← tileChk o bs.length
  modSt (fun s => s.tileWrite (s.curKey / 4) p bs)

/-- A plain tile-store offset has bits 63:23 zero (R227). -/
def plainOffset (a : Word) : Iss Nat :=
  if a.toNat < 2 ^ 23 then pure a.toNat else trapI tTILE a exactI1

/-! ### Rings -/

def Ring.base (g : Ring) : Nat := bits g.w0 31 0
def Ring.count (g : Ring) : Nat := bits g.w0 39 32
def Ring.fmt (g : Ring) : Nat := bits g.w0 43 40
def Ring.slotBytes (g : Ring) : Nat := bits g.w1 31 0
/-- Slots published and not popped, slots acquired and not published, slots not free. -/
def Ring.ready (g : Ring) : Nat := (g.pub - g.head).toNat
def Ring.acqd (g : Ring) : Nat := (g.tail - g.pub).toNat
def Ring.used (g : Ring) : Nat := (g.tail - g.head).toNat
def Ring.slotOff (g : Ring) (i : Nat) : Nat := g.base + i * g.slotBytes
def Ring.slotSt (g : Ring) (i : Nat) : RSlot := g.slots.getD i .free
def Ring.setSlot (g : Ring) (i : Nat) (x : RSlot) : Ring := { g with slots := g.slots.set i x }
def nextIdx (n i : Nat) : Nat := if i + 1 = n then 0 else i + 1

/-- R206: the acquirer takes slot TAIL; the caller has checked that a slot is free. -/
def Ring.acquire (g : Ring) : Ring :=
  { g.setSlot g.ti .acquired with tail := g.tail + 1, ti := nextIdx g.count g.ti }
/-- R206: slot PUB is published, or poisoned. -/
def Ring.publish (g : Ring) (x : RSlot) : Ring :=
  { g.setSlot g.pi x with pub := g.pub + 1, pi := nextIdx g.count g.pi }
/-- R206: slot HEAD is popped. -/
def Ring.pop (g : Ring) : Ring :=
  { g.setSlot g.hi .free with head := g.head + 1, hi := nextIdx g.count g.hi }
/-- The slot of a counter value is acquired and not published. -/
def Ring.holds (g : Ring) (c : BitVec 32) : Bool := (c - g.pub).toNat < g.acqd
/-- R210: the index of the slot of a counter value that TAIL has reached or passed. -/
def Ring.idxOf (g : Ring) (c : BitVec 32) : Nat := (g.ti + (g.tail - c).toNat * (g.count - 1)) % g.count
/-- R206: the producer that acquired the slot of a counter value publishes it, or poisons it: where it is slot PUB and still acquired; an
event that R206 does not list leaves the slot as it is. -/
def Ring.publishAt (g : Ring) (c : BitVec 32) (x : RSlot) : Ring := if c = g.pub && g.holds c then g.publish x else g
def Ring.popN : Nat → Ring → Ring
  | 0, g => g
  | n + 1, g => Ring.popN n g.pop

def Role.ring? (r : Role) (n : Nat) : Option Ring := mfind r.rings n
def Role.setRing (r : Role) (n : Nat) (g : Ring) : Role := { r with rings := mput r.rings n g }

/-- R205: a ring descriptor's fields are in range and its reserved fields zero. -/
def ringDescOk (ws : List Word) : Bool :=
  let w0 := ws.getD 0 0
  let w1 := ws.getD 1 0
  bits w0 31 0 % 512 = 0 && 2 ≤ bits w0 39 32 && bits w0 39 32 ≤ 64 && bits w0 43 40 ≤ 10 && bits w0 63 44 = 0 &&
  bits w1 31 0 % 512 = 0 && 512 ≤ bits w1 31 0 && bits w1 31 0 ≤ 262144 && bits w1 63 32 = 0 &&
  (ws.drop 2).all (· == 0)

/-! ### Streams -/

def Strm.w (t : Strm) (i : Nat) : Word := t.words.getD i 0
def Strm.bind (t : Strm) : Nat := bits (t.w 0) 1 0
def Strm.sink (t : Strm) : Bool := (t.w 0).getLsbD 2
def Strm.wrap (t : Strm) : Bool := (t.w 0).getLsbD 3
def Strm.fmt (t : Strm) : Nat := bits (t.w 0) 7 4
def Strm.ring (t : Strm) : Nat := bits (t.w 0) 12 8
def Strm.link (t : Strm) : Nat := bits (t.w 0) 14 13
def Strm.eb (t : Strm) : Nat := bits (t.w 0) 25 16
def Strm.sb (t : Strm) : Nat := bits (t.w 0) 32 26
def Strm.grp (t : Strm) : Nat := bits (t.w 0) 40 33
def Strm.base (t : Strm) : Nat := bits (t.w 1) 31 0
def Strm.limit (t : Strm) : Nat := bits (t.w 1) 63 32
def one0 (n : Nat) : Nat := if n = 0 then 1 else n
def Strm.trip (t : Strm) (i : Nat) : Nat := one0 (bits (t.w 2) (16 * i + 15) (16 * i))
def Strm.stride (t : Strm) (i : Nat) : Int := sint 32 (bits (t.w (3 + i / 2)) (32 * (i % 2) + 31) (32 * (i % 2)))
def Strm.sbase (t : Strm) : Nat := bits (t.w 5) 31 0
def Strm.sstr (t : Strm) : Nat := bits (t.w 5) 63 32
def Strm.rows (t : Strm) : Nat := t.trip 0 * t.trip 1 * t.trip 2 * t.trip 3
def Strm.rowLen (t : Strm) : Nat := t.eb + t.sb
def roundUp (n k : Nat) : Nat := (n + k - 1) / k * k
/-- R209: bytes of a padded group, and of the whole sequence. -/
def Strm.groupLen (t : Strm) : Nat := roundUp (t.grp * t.rowLen) 512
def Strm.seqLen (t : Strm) : Nat := if t.grp = 0 then t.rows * t.rowLen else t.rows / t.grp * t.groupLen
/-- R209: the vector count of the nest. -/
def Strm.vectors (t : Strm) : Nat := (t.seqLen + 511) / 512

/-- R209: the tile-store offset of byte b of the sequence; none for padding. -/
def Strm.offAt (t : Strm) (b : Nat) : Option Int :=
  let place (row j : Nat) : Option Int :=
    if row ≥ t.rows then none
    else
      let i0 := row % t.trip 0
      let i1 := row / t.trip 0 % t.trip 1
      let i2 := row / (t.trip 0 * t.trip 1) % t.trip 2
      let i3 := row / (t.trip 0 * t.trip 1 * t.trip 2)
      if j < t.eb then
        some ((t.base : Int) + i0 * t.stride 0 + i1 * t.stride 1 + i2 * t.stride 2 + i3 * t.stride 3 + j)
      else some ((t.sbase : Int) + row * t.sstr + (j - t.eb : Nat))
  if t.rowLen = 0 then none
  else if t.grp = 0 then place (b / t.rowLen) (b % t.rowLen)
  else
    let o := b % t.groupLen
    if o ≥ t.grp * t.rowLen then none else place (b / t.groupLen * t.grp + o / t.rowLen) (o % t.rowLen)

/-- What EB and the strides of a region stream are multiples of: 16 (R208), but 8 where the rows are packed rows of an SX format, element
plane and scale plane in one piece with SB 0, whose lengths are 56, 88 and 136 bytes (R30, R173; the descriptor of R282 with EB and ST0
88; log 45). -/
def Strm.unit (t : Strm) : Nat := if 8 ≤ t.fmt && t.sb = 0 then 8 else 16
/-- R208: the checks of a stream descriptor. RING outside BIND 1, LINK outside BIND 2 and WRAP outside BIND 0 must be zero (DESIGN CHOICE,
log 17: R208 names them for that binding alone). -/
def strmDescOk (ws : List Word) : Bool :=
  let t : Strm := { words := ws, h0 := 0, c := 0, sp := 0 }
  let w0 := t.w 0
  t.bind ≤ 2 && !w0.getLsbD 15 && bits w0 63 41 = 0 && t.w 6 == 0 && t.w 7 == 0 &&
  (if t.bind = 0 then
    t.fmt ≤ 10 && t.ring = 0 && t.link = 0 &&
    t.eb % t.unit = 0 && 16 ≤ t.eb && t.eb ≤ 512 && t.sb % 8 = 0 && t.sb ≤ 64 && t.eb + t.sb ≤ 512 && t.grp ≤ 128 &&
    t.base % 16 = 0 && t.stride 0 % t.unit = 0 && t.stride 1 % t.unit = 0 && t.stride 2 % t.unit = 0 && t.stride 3 % t.unit = 0 &&
    (if t.sb = 0 then t.w 5 == 0 else t.sbase % 8 = 0 && t.sstr % 8 = 0) &&
    (t.grp = 0 || t.rows % t.grp = 0)
  else
    !t.wrap && bits w0 40 16 = 0 && ((ws.drop 1).take 5).all (· == 0) &&
    (if t.bind = 1 then t.fmt = 0 && t.link = 0 else t.fmt ≤ 10 && t.ring = 0))

def Role.strm? (r : Role) (n : Nat) : Option Strm := mfind r.strms n
def Role.setStrm (r : Role) (n : Nat) (t : Strm) : Role := { r with strms := mput r.strms n t }

/-- Vectors of a slot of the ring a stream is bound to (R210). -/
def slotVecs (g : Ring) : Nat := g.slotBytes / 512

/-! ### Neighbour links (R12, R211, R212) -/

/-- The core one hop away: 0 N, 1 E, 2 S, 3 W. -/
def neighbour (core dir : Nat) : Nat :=
  let die := core / 32
  let y := core / 8 % 4
  let x := core % 8
  match dir with
  | 0 => die * 32 + (y + 3) % 4 * 8 + x
  | 1 => die * 32 + y * 8 + (x + 1) % 8
  | 2 => die * 32 + (y + 1) % 4 * 8 + x
  | _ => die * 32 + y * 8 + (x + 7) % 8
def opposite (dir : Nat) : Nat := (dir + 2) % 4
/-- A channel's key is its receiver: role key and the direction it comes from. -/
def chanKey (key dir : Nat) : Nat := key * 4 + dir
def State.chan (s : State) (k : Nat) : List ChanVec := mget [] s.chans k
def State.setChan (s : State) (k : Nat) (l : List ChanVec) : State := { s with chans := mset [] s.chans k l }

/-- The first core and the core count of a launch's allocation. -/
def State.alloc (s : State) (part lid : Nat) : Option (Nat × Nat) :=
  ((s.partOr part).launches.find? (fun l => l.id.toNat == lid)).map (fun l => (l.first, l.count))

/-- R212: the slot lies in the launch's allocation and holds a role of the launch, or a role of the launch is switched out from it. -/
def slotOfLaunch (s : State) (key : Nat) (part : Nat) (lid : BitVec 32) : Bool :=
  let f := s.role key
  ((s.alloc part lid.toNat).any (fun a => a.1 ≤ key / 4 && key / 4 < a.1 + a.2) && f.st != .free && f.part.toNat == part && f.lid == lid) ||
  (s.partOr part).launches.any (fun l => l.id == lid && l.swapped.any (fun w => w.key == key))

/-- Which streams and rings a nest record in flight holds (R177): the operands its words name. -/
def Flight.op (f : Flight) : Nat := bits (f.words.getD 0 0) 47 40
def Flight.w (f : Flight) (i : Nat) : Word := f.words.getD i 0
def Flight.flagsB (f : Flight) : Nat := bits (f.w 0) 7 0
def Flight.isMma (f : Flight) : Bool := f.op = 1 || f.op = 2
def Flight.aStrm (f : Flight) : Bool := f.flagsB / 2 % 2 = 1
def Flight.bStrm (f : Flight) : Bool := f.flagsB / 4 % 2 = 1
def Flight.aNum (f : Flight) : Nat := bits (f.w 0) 31 24
def Flight.bNum (f : Flight) : Nat := bits (f.w 0) 23 16
def Flight.acc (f : Flight) : Nat := bits (f.w 0) 15 8
def Flight.scen (f : Flight) : Bool := (f.w 6).getLsbD 44
def Flight.scs (f : Flight) : Nat := bits (f.w 6) 48 45
def Flight.dkind (f : Flight) : Nat := bits (f.w 6) 30 29
def Flight.dval (f : Flight) : Nat := bits (f.w 6) 43 31
def Flight.rowsN (f : Flight) : Nat := let n := bits (f.w 7) 7 0; if n = 0 then 128 else n
def Flight.strmsHeld (f : Flight) : List Nat :=
  if f.isMma then
    (if f.aStrm then [f.aNum] else []) ++ (if f.bStrm then [f.bNum] else []) ++ (if f.scen then [f.scs] else [])
  else if (f.op = 4 || f.op = 6) && f.dkind = 1 then [f.dval] else []
def Flight.ringsHeld (f : Flight) : List Nat :=
  if f.isMma then (if f.aStrm then [] else [f.aNum]) ++ (if f.bStrm then [] else [f.bNum])
  else if f.op = 4 && f.dkind = 2 then [f.dval] else []

/-- R174: trip counts and strides of a nest word, field i. -/
def Flight.tripN (f : Flight) (i : Nat) : Nat := one0 (bits (f.w 1) (16 * i + 15) (16 * i))
def Flight.strideN (f : Flight) (word i : Nat) : Int := sint 16 (bits (f.w word) (16 * i + 15) (16 * i))
/-- R174: the range of the four-level affine sum of a word's strides: least and greatest value. -/
def Flight.spanOf (f : Flight) (word : Nat) : Int × Int :=
  (List.range 4).foldl (fun (lo, hi) i =>
    let d := f.strideN word i * (f.tripN i - 1 : Nat)
    (lo + min 0 d, hi + max 0 d)) (0, 0)
/-- R70, R174: the accumulator rows a record owns, first and last. -/
def Flight.accRange (f : Flight) : Int × Int :=
  if f.isMma then
    let (lo, hi) := f.spanOf 4
    ((f.acc : Int) + lo, (f.acc : Int) + hi + 15)
  else ((f.acc : Int), (f.acc : Int) + f.rowsN - 1)

/-- The nest record whose holds an issuing syllable must respect: in a bundle, the one in flight before it (R71). -/
def Role.nestSeen (r : Role) : Option Flight :=
  match r.snap with
  | some sn => sn.nest
  | none => r.nest

/-- Wait while a nest record holds stream n (R177). -/
def strmFree (n : Nat) : Iss Unit := do
  let r ← getRole
  waitIf (match r.nestSeen with | some f => f.strmsHeld.contains n | none => false)
/-- Wait while a nest record owns row n (R70). -/
def rowFree (n : Nat) : Iss Unit := do
  let r ← getRole
  waitIf (match r.nestSeen with
    | some f => let (lo, hi) := f.accRange; lo ≤ (n : Int) && (n : Int) ≤ hi
    | none => false)

end Sys2Proof.Machine
end

