-- ==== Sys2Proof/Machine/Operands.lean ====
section
/-! DEFINITION. Operands (03_core_cycle R55 to R71): reading and writing X registers, predicates, queues, streams, V rows;
last-read marks; and the element values a row field delivers (R64 to R66). -/

namespace Sys2Proof.Machine

/-! ### Requests in flight and their destinations (R231, R352) -/

/-- A request that has not been performed, or whose reply has not committed. -/
def AStat.open_ : AStat → Bool
  | .pending | .parked .. | .resend .. | .replied .. => true
  | .faulted .. | .held => false
def AStat.isFaulted : AStat → Bool
  | .faulted .. => true
  | _ => false

/-- The request whose fault stops a syllable that needs request a: itself, or the one it is held behind. -/
def faultBehind (r : Role) (a : Access) : Nat :=
  if a.stat.isFaulted then a.id
  else match r.acc.find? (fun b => b.cl == a.cl && b.stat.isFaulted) with
    | some b => b.id
    | none => a.id

/-- A syllable needs what request a delivers: it waits, or stops the role for a fault (R352). -/
def needAcc (r : Role) (a : Access) : Iss Unit :=
  if a.stat.open_ then waitI else stopWith (.deferred (faultBehind r a))

/-- The requests that a syllable sees: in a bundle, those sent before it (R53). -/
def seenAcc (r : Role) : List Access := match r.snap with | some sn => sn.acc | none => r.acc

/-- A syllable reads or writes destination d of requests in flight. -/
def chkDest (d : Dest) : Iss Unit := do
  let r ← getRole
  match (seenAcc r).find? (fun a => a.dests.contains d) with
  | none => pure ()
  | some a => needAcc r a

/-! ### Order (R245, R266 to R268) -/

def AStat.unperformed : AStat → Bool
  | .pending | .parked .. | .resend .. => true
  | _ => false
/-- The loads of R245 and R267. CUEPEEK and CUESTAT, which R276 calls relaxed, are no loads for these (DESIGN CHOICE, log 48). -/
def Access.isLoad (a : Access) : Bool :=
  match a.kind with
  | .ld | .ldv | .gather | .atom _ | .atomf => true
  | _ => false
def Access.isStore (a : Access) : Bool :=
  match a.kind with
  | .st | .stv | .scatter | .atom _ | .atomf | .atomfD _ => true
  | _ => false
def Access.isFence (a : Access) : Bool := a.kind == .fence
/-- The access is an acquire, a release. -/
def Access.acqs (a : Access) : Bool := a.ord == .acq || a.ord == .acqRel
def Access.rels (a : Access) : Bool := a.ord == .rel || a.ord == .acqRel

/-- R267 and R245 but for equal locations and cue loads: an earlier access b is ordered before a later one a. A fence entry of ORD 0 is a
full fence. A fence orders accesses, and no other fence. -/
def orderedBefore (b a : Access) : Bool :=
  if b.isFence then !a.isFence && (b.ord != .rel || a.isStore)
  else if a.isFence then a.ord != .acq || b.isLoad
  else (b.isLoad && a.isStore) || b.acqs || a.rels

/-- A request with every field empty but its kind and address. -/
def Access.blank (kind : AKind) (addr : Word) : Access where
  id := 0
  cl := .l
  pc := 0
  kind := kind
  addr := addr
  size := .b8
  scope := .role
  ord := .relaxed
  dests := []
  data := []
  v := 0
  c := 0
  len := 0
  idx := []
  listOff := 0
  done := 0
  cueerr := 0
  eid := 0
  wide := false
  gen := 0
  afresh := false
  at_ := 0
  passed := 0
  stat := .pending

/-- What a fresh walk makes of an address, for a kind of access: how the steps that come before an access see where it goes. -/
def peek (s : State) (asid : Nat) (va : Word) (want : Want) : Except Nat Xlat := translateW s dieCore asid (s.asid asid).gen va want
/-- Where a virtual address lies, whatever its page allows. -/
def physAt (s : State) (asid : Nat) (va : Word) : Option Xlat :=
  match peek s asid va .rd with
  | .ok x => some x
  | .error _ => (match peek s asid va .wr with | .ok x => some x | .error _ => none)
def Access.isPlainLoad (a : Access) : Bool := match a.kind with | .ld | .ldv => true | _ => false
/-- A load that goes to a cue page is an acquire (R276): LD and LDV; an ATOM on a resolved cell is none (DESIGN CHOICE, log 48). -/
def cueLoad (s : State) (asid : Nat) (a : Access) : Bool :=
  a.isPlainLoad && (match peek s asid a.addr .rd with | .ok x => x.attr = 2 | .error _ => false)
/-- A load that goes to a cue page, or may yet. -/
def mayCueLoad (s : State) (asid : Nat) (a : Access) : Bool :=
  a.isPlainLoad && (match peek s asid a.addr .rd with | .ok x => x.attr = 2 | .error _ => true)
/-- A later request a of the cluster is performed after b but for equal locations. -/
def keepsBack (s : State) (asid : Nat) (b a : Access) : Bool := b.stat.unperformed && (orderedBefore b a || cueLoad s asid b)
/-- A tile-store access of an L or W syllable is performed at issue, once R267 lets it (log 8). -/
def tileOrdered (load : Bool) (ord : Ord) : Iss Unit := do
  let s ← getSt
  let a : Access := { Access.blank (if load then .ld else .st) 0 with ord := ord }
  waitIf (s.curRole.acc.any (fun b => b.cl == s.cur.cl && keepsBack s s.curRole.asid.toNat b a))
/-- A release by the cluster waits until every earlier access of the cluster has been performed (R261, R267, R274). -/
def releaseOrdered : Iss Unit := do
  let s ← getSt
  waitIf (s.curRole.acc.any (fun a => a.cl == s.cur.cl && a.stat.unperformed))

/-! ### X registers and predicates (R59 to R61) -/

def Role.x (r : Role) (n : Nat) : Word := mget (0 : Word) r.xs n
def Role.setX (r : Role) (n : Nat) (v : Word) : Role := { r with xs := mset (0 : Word) r.xs n v }
def allOnes : Pred := BitVec.allOnes 512
/-- R61: P0 reads as all ones. -/
def Role.p (r : Role) (n : Nat) : Pred := if n = 0 then allOnes else mget (0 : Pred) r.ps n
/-- A write of P0 cannot be encoded (R90); stage predicates and replies never name it. -/
def Role.setP (r : Role) (n : Nat) (v : Pred) : Role := if n = 0 then r else { r with ps := mset (0 : Pred) r.ps n v }
/-- R53: a write of d in a bundle comes after the request that an earlier member of the bundle has sent, which no longer
delivers to d. -/
def Role.overtake (r : Role) (d : Dest) : Role :=
  match r.snap with
  | none => r
  | some _ => { r with acc := r.acc.map (fun a => { a with dests := a.dests.map (fun e => if e = d then .gone else e) }) }
def boolPred (b : Bool) : Pred := if b then allOnes else 0

def seenXs (r : Role) : SMap Word := match r.snap with | some sn => sn.xs | none => r.xs
def seenPs (r : Role) : SMap Pred := match r.snap with | some sn => sn.ps | none => r.ps
def seenBarA (r : Role) : SMap Nat := match r.snap with | some sn => sn.barA | none => r.barA
def seenBarW (r : Role) : SMap Nat := match r.snap with | some sn => sn.barW | none => r.barW
def seenQs (r : Role) : SMap (List QEnt) := match r.snap with | some sn => sn.qs | none => r.qs

/-! ### CSRs (R367) -/

/-- R367: the role status word. -/
def statusWord (r : Role) : Word :=
  let halted := (if r.cl.halted then 1 else 0) + (if r.cm.halted then 2 else 0) + (if r.cv.halted then 4 else 0) + (if r.cw.halted then 8 else 0)
  BitVec.ofNat 64 (r.part.toNat * 2 ^ 32 + r.asid.toNat * 2 ^ 16 + r.lastcode.toNat * 2 ^ 8 + halted * 2 ^ 4 +
    (if r.det then 8 else 0) + (if r.arrStart then 4 else 0))
/-- R367: the value of a CSR by its number. -/
def csrVal (r : Role) (n : Nat) : Word :=
  match n with
  | 0 => statusWord r
  | 1 => r.flags.setWidth 64
  | 2 => r.flagen.setWidth 64
  | 3 => r.ffrec
  | 4 => r.wdlimit.setWidth 64
  | 5 => r.eid.setWidth 64
  | 6 => r.cueerr.setWidth 64
  | 7 => r.cuewd.setWidth 64
  | 8 => r.lid.setWidth 64
  | 9 => r.rank.setWidth 64
  | _ => if 16 ≤ n && n ≤ 23 then mget (0 : Word) r.levels (n - 16) else 0
/-- A CSR as a syllable reads it: in a bundle, as it stood before the bundle (R369). -/
def seenCsr (r : Role) (n : Nat) : Word := match r.snap with | some sn => mget (0 : Word) sn.csrs n | none => csrVal r n

def rdX (n : Nat) : Iss Word := do
  chkDest (.x n)
  let r ← getRole
  pure (mget (0 : Word) (seenXs r) n)
def wrX (n : Nat) (v : Word) : Iss Unit := do
  chkDest (.x n)
  modRole (fun r => (r.overtake (.x n)).setX n v)

/-- A predicate is read once every earlier cue-page load of the cluster that may set it as its error predicate has completed
(R343); one that has faulted stops the role (R352). -/
def rdP (n : Nat) : Iss Pred := do
  chkDest (.p n)
  let s ← getSt
  let r ← getRole
  match (seenAcc r).find? (fun a => n ≠ 0 && a.cl == s.cur.cl && a.cueerr = n && mayCueLoad s r.asid.toNat a) with
  | some a => needAcc r a
  | none => pure ()
  pure (if n = 0 then allOnes else mget (0 : Pred) (seenPs r) n)
def wrP (n : Nat) (v : Pred) : Iss Unit := do
  chkDest (.p n)
  modRole (fun r => (r.overtake (.p n)).setP n v)

/-- R50: the guard predicate, inverted when GN is set. -/
def guardP (h : Hdr) : Iss Pred := do
  let p ← rdP h.g.toNat
  pure (if h.gn then ~~~p else p)
/-- The guard of a scalar, control, memory or system syllable: bit 0. -/
def guardS (h : Hdr) : Iss Bool := do
  let p ← guardP h
  pure (p.getLsbD 0)

/-! ### Queues (R55 to R58) -/

/-- R55: entries a queue holds. -/
def qDepth (q : Nat) : Nat := if q < 8 then 16 else 4
def qList (qs : SMap (List QEnt)) (q : Nat) : List QEnt := mget [] qs q
def Role.setQ (r : Role) (q : Nat) (l : List QEnt) : Role := { r with qs := mset [] r.qs q l }

/-- The head entry (R56): readable two cycles after its push (R58), once the request that fills it has. -/
def qHead (q : Nat) : Iss Row := do
  let s ← getSt
  let r ← getRole
  match qList (seenQs r) q with
  | [] => waitI
  | e :: _ =>
    match e.pend with
    | some id =>
      match r.acc.find? (fun a => a.id = id) with
      | some a => do needAcc r a; waitI
      | none => waitI
    | none => if s.cycle < e.at_ + 2 then waitI else pure e.val
def qPop (q : Nat) : Iss Unit := modRole (fun r => r.setQ q ((qList r.qs q).drop 1))

/-- R271: a push is ordered after the cluster's earlier loads and acquires, and after what a release fence orders. -/
def pushOrdered : Iss Unit := do
  let s ← getSt
  let r ← getRole
  waitIf (r.acc.any (fun a => a.cl == s.cur.cl && a.stat.unperformed && (a.isLoad || a.isFence || a.acqs)))

/-- A push waits while its queue is full (R58), and stops the role where an entry that a faulted request was to push
stands in the queue (R352). -/
def qRoom (q : Nat) : Iss Unit := do
  let r ← getRole
  match (qList r.qs q).findSome? (fun e => e.pend.bind (fun id => r.acc.find? (fun a => a.id = id && !a.stat.open_))) with
  | some a => stopWith (.deferred (faultBehind r a))
  | none => waitIf (qDepth q ≤ (qList (seenQs r) q).length)
def qPut (q : Nat) (e : QEnt) : Iss Unit := modRole (fun r => r.setQ q (qList r.qs q ++ [e]))
/-- Push a value (R56). -/
def qPush (q : Nat) (v : Row) : Iss Unit := do
  qRoom q
  pushOrdered
  let s ← getSt
  qPut q { at_ := s.cycle, val := v, pend := none }
/-- Push the entry that request id will fill. -/
def qReserve (q id : Nat) : Iss Unit := do
  qRoom q
  let s ← getSt
  qPut q { at_ := s.cycle, val := 0, pend := some id }

/-! ### Scalar operands (R64, R66, R119) -/

def lowWord (r : Row) : Word := r.setWidth 64
def widen (w : Word) : Row := w.setWidth 4096

/-- ITER (R64, R217): the iteration in the kernel of a running loop record, otherwise 0. -/
def iterOf (c : Clu) : Nat :=
  match c.lrec with
  | some l => if l.part = .kernel then l.it else 0
  | none => 0

def specialVal (s : State) (sp : Special) : Word :=
  match sp with
  | .zero => 0
  | .core => BitVec.ofNat 64 s.cur.core.toNat
  | .ncores => BitVec.ofNat 64 s.curRole.ncores
  | .role => BitVec.ofNat 64 s.cur.slot.toNat
  | .dtime => BitVec.ofNat 64 s.dtime
  | .iter => BitVec.ofNat 64 (iterOf (s.curRole.clu s.cur.cl))

def rdS : SSrc → Iss Word
  | .x n => rdX n.toNat
  | .q n => do
    let v ← qHead n.toNat
    pure (lowWord v)
  | .k c => pure (c.signExtend 64)
  | .sp sp => do
    let s ← getSt
    pure (specialVal s sp)

def wrS (d : SDst) (v : Word) : Iss Unit :=
  match d with
  | .x n => wrX n.toNat v
  | .q n => qPush n.toNat (widen v)

/-- R57: a false guard pushes 0 into a queue destination and writes nothing else. -/
def wrS0 (d : SDst) : Iss Unit :=
  match d with
  | .x _ => pure ()
  | .q n => qPush n.toNat 0

/-- The queue a source names. -/
def sQueue : SSrc → Option Nat
  | .q n => some n.toNat
  | _ => none
def rQueue : RSrc → Option Nat
  | .qw n => some (8 + n.toNat)
  | .sc a => sQueue a
  | _ => none
def rStrm : RSrc → Option Nat
  | .s n => some n.toNat
  | _ => none

/-- A source field as the marks see it: its queue and its mark. -/
abbrev Mk := Option Nat × Bool
def msMk (a : MS) : Mk := (sQueue a.src, a.mark)
def csMk (a : CS) : Mk := (sQueue a.src, a.mark)
def mrMk (a : MR) : Mk := (rQueue a.src, a.mark)
def crMk (a : CR) : Mk := (rQueue a.src, a.mark)

/-- The queues that the marks pop: each once (R56). -/
def marked (l : List Mk) : List Nat := (uniq (l.filterMap (fun m => if m.2 then m.1 else none)))
/-- All queues a syllable reads must hold an entry, whatever its guard (R48, R57). -/
def needHeads : List Mk → Iss Unit
  | [] => pure ()
  | (some q, _) :: t => do
    let _ ← qHead q
    needHeads t
  | (none, _) :: t => needHeads t
def popAll : List Nat → Iss Unit
  | [] => pure ()
  | q :: t => do
    qPop q
    popAll t
/-- R56, R57, R68: pop the marked queue sources. -/
def popMarks (l : List Mk) : Iss Unit := popAll (marked l)

/-! ### V rows (R62, R69 to R71) -/

def Role.v (r : Role) (n : Nat) : Row := mget (0 : Row) r.vs n
def Role.setV (r : Role) (n : Nat) (v : Row) : Role := { r with vs := mset (0 : Row) r.vs n v }
def rdV (n : Nat) : Iss Row := do
  rowFree n
  let r ← getRole
  pure (r.v n)
def wrV (n : Nat) (v : Row) : Iss Unit := do
  rowFree n
  modRole (fun r => r.setV n v)

/-! ### Streams as operands (R209 to R213, R253) -/

def strmTrap {α : Type} (n : Nat) : Iss α := trapI tTILE (BitVec.ofNat 64 n) exactI1

/-- The bytes of vector p of a region stream, of which those that `use` picks are used. Bytes of the role's arrival entry are
taken as the role's own here (R201), though R209 speaks of the window alone (DESIGN CHOICE, log 17). -/
def regionGet (use : Nat → Bool) (t : Strm) (p : Nat) : Iss (List Byte) := do
  let s ← getSt
  let r ← getRole
  let core := s.curKey / 4
  let offs := (List.range 512).map (fun i => if 512 * p + i < t.seqLen then t.offAt (512 * p + i) else none)
  match offs.find? (fun o => match o with
      | some x => x < 0 || x < t.base || (t.base : Int) + t.limit ≤ x || (tileByte r (s.arrBase core) x.toNat).isNone
      | none => false) with
  | some (some x) => trapI tTILE (BitVec.ofInt 64 x) exactI1
  | _ => do
    let bs := offs.map (fun o => o.map (fun x => tkey core ((tileByte r (s.arrBase core) x.toNat).getD 0)))
    match ((offs.zip bs).zipIdx).find? (fun o => match o.1.2 with
        | some k => use o.2 && s.tpoison.contains (k / 64)
        | none => false) with
    | some ((o, _), _) => trapI tPOISON (BitVec.ofInt 64 (o.getD 0)) exactI1
    | none => pure (bs.map (fun o => match o with | some k => readByte s.tile k | none => 0))

/-- Write vector p of a region stream back to its places; padding is dropped. -/
def regionPut (t : Strm) (p : Nat) (v : List Byte) : Iss Unit := do
  let s ← getSt
  let r ← getRole
  let core := s.curKey / 4
  let offs := (List.range 512).map (fun i => if 512 * p + i < t.seqLen then t.offAt (512 * p + i) else none)
  match offs.find? (fun o => match o with
      | some x => x < 0 || x < t.base || (t.base : Int) + t.limit ≤ x || (tileByte r (s.arrBase core) x.toNat).isNone
      | none => false) with
  | some (some x) => trapI tTILE (BitVec.ofInt 64 x) exactI1
  | _ =>
    let cells := (offs.zip v).filterMap (fun ob => ob.1.map (fun x =>
      (tkey core ((tileByte r (s.arrBase core) x.toNat).getD 0), ob.2)))
    modSt (fun s => { s with
      tile := cells.foldl (fun m c => writeByte m c.1 c.2) s.tile,
      tpoison := s.tpoison.filter (fun g => !((List.range 64).all (fun i => cells.any (fun c => c.1 = 64 * g + i)))) })

/-- R209: the vector of a region stream at position p; past the end of the nest TILE_BOUNDS, whatever the guard (DESIGN CHOICE,
log 17). -/
def regionPos (t : Strm) (n p : Nat) : Iss Nat :=
  if p < t.vectors then pure p
  else if t.wrap && 0 < t.vectors then pure (p % t.vectors)
  else strmTrap n

/-- R210: the slot index that vector p of a source ring stream lies in. -/
def ringSrcSlot (g : Ring) (t : Strm) (n p : Nat) : Iss Nat := do
  let cnt : BitVec 32 := BitVec.ofNat 32 (t.h0 + p / slotVecs g)
  let d := (cnt - g.head).toNat
  trapIf (2 ^ 31 ≤ d) tTILE (BitVec.ofNat 64 n) exactI1
  waitIf (g.ready ≤ d)
  let i := (g.hi + d) % g.count
  trapIf (g.slotSt i == .poisoned) tPOISON (BitVec.ofNat 64 (g.slotOff i)) exactI1
  pure i

/-- A channel end as its stream sees it: the channel a source reads, and the one a sink feeds. -/
def srcChan (key link : Nat) : Nat := chanKey key link
def sinkChan (key link : Nat) : Nat := chanKey (4 * neighbour (key / 4) link + key % 4) (opposite link)
def farKey (key link : Nat) : Nat := 4 * neighbour (key / 4) link + key % 4

/-- R212: a vector that a role of the launch has pushed. -/
def ChanVec.isOf (e : ChanVec) (r : Role) : Bool := e.part == r.part.toNat && e.lid == r.lid.toNat
/-- A channel without the first n vectors of the role's launch. -/
def dropOf (r : Role) : Nat → List ChanVec → List ChanVec
  | _, [] => []
  | 0, l => l
  | n + 1, e :: t => if e.isOf r then dropOf r n t else e :: dropOf r (n + 1) t

/-- The first n vectors of the role's launch are popped from a channel: a vector of a drain that waited at the sender's end,
beyond the eight that the channel buffers, enters it now (R211, log 17). -/
def chanTake (r : Role) (cycle n : Nat) (l : List ChanVec) : List ChanVec :=
  (dropOf r n l).zipIdx.map (fun x => if x.2 < 8 && 8 ≤ x.2 + n then { x.1 with at_ := cycle } else x.1)

/-- The vector of a source stream at position p, of which the bytes that `use` picks are used, without advancing it. -/
def strmPeekOf (use : Nat → Bool) (n : Nat) (t : Strm) (p : Nat) : Iss (List Byte) := do
  let s ← getSt
  let r ← getRole
  match t.bind with
  | 0 => do
    let q ← regionPos t n p
    regionGet use t q
  | 1 =>
    match r.ring? t.ring with
    | none => strmTrap n
    | some g => do
      let i ← ringSrcSlot g t n p
      tileGetOf use (g.slotOff i + 512 * (p % slotVecs g)) 512
  | _ =>
    match ((s.chan (srcChan s.curKey t.link)).filter (fun e => e.isOf r)).drop (p - t.sp) with
    | [] =>
      if slotOfLaunch s (farKey s.curKey t.link) r.part.toNat r.lid then waitI
      else trapI tPROT (BitVec.ofNat 64 n) exactI1
    | e :: _ => do
      waitIf (!e.arrived)
      pure (rowLe e.val)
/-- The next vector of a source stream at position p, without advancing it. -/
def strmPeekAt (n : Nat) (t : Strm) (p : Nat) : Iss (List Byte) := strmPeekOf (fun _ => true) n t p

/-- Pop slots of a ring until HEAD reaches the given counter, slots already popped staying so. -/
def Ring.releaseTo (g : Ring) (cnt : BitVec 32) : Ring :=
  let d := (cnt - g.head).toNat
  if 2 ^ 31 ≤ d then g else Ring.popN (min d g.ready) g

/-- R68, R210: release every slot that a source ring stream has passed up to C. -/
def releasePassed (r : Role) (t : Strm) : Role :=
  if t.bind = 1 && !t.sink then
    match r.ring? t.ring with
    | some g => r.setRing t.ring (g.releaseTo (BitVec.ofNat 32 (t.h0 + t.c / slotVecs g)))
    | none => r
  else r

/-- A V syllable's source stream: its next vector (R63, R253). Whatever the guards, the pop happens (R148), so a position past
the nest's end, a place outside the window or poison traps although no lane is written (DESIGN CHOICE, log 17: R50 speaks of a
syllable without effect, R148, R209 and R253 of the pop). -/
def rdStrm (n : Nat) : Iss Row := do
  strmFree n
  let r ← getRole
  match r.strm? n with
  | none => strmTrap n
  | some t => do
    trapIf t.sink tTILE (BitVec.ofNat 64 n) exactI1
    let bs ← strmPeekAt n t t.sp
    pure (leRow bs)

/-- The pop of a source stream commits (R211, R213); a mark releases ring slots (R68). -/
def popStrm (n : Nat) (mark : Bool) : Iss Unit := do
  let s ← getSt
  let r ← getRole
  match r.strm? n with
  | none => pure ()
  | some t => do
    let t' := { t with c := t.sp + 1, sp := t.sp + 1 }
    modRole (fun r => r.setStrm n t')
    if t.bind = 2 then
      modSt (fun s' => s'.setChan (srcChan s.curKey t.link) (chanTake r s.cycle 1 (s'.chan (srcChan s.curKey t.link))))
    else pure ()
    if mark then modRole (fun r => releasePassed r t') else pure ()

/-- R206, R207: a sink stream takes slot TAIL, once no other producer holds one. -/
def acquireFor (ring : Nat) : Iss Unit := do
  let r ← getRole
  match r.ring? ring with
  | none => strmTrap ring
  | some g => do
    waitIf (g.acqd ≠ 0 || g.count ≤ g.used)
    modRole (fun r => r.setRing ring g.acquire)

/-- R210: the counter value of the slot that a ring stream's next vector lies in. -/
def Strm.slotNo (t : Strm) (g : Ring) : BitVec 32 := BitVec.ofNat 32 (t.h0 + t.sp / slotVecs g)
/-- A sink ring stream enters slot TAIL: its base count numbers that slot, also where an RACQ has moved TAIL since the stream was bound
(DESIGN CHOICE, log 17). -/
def Strm.rebase (t : Strm) (g : Ring) : Strm :=
  if t.sp % slotVecs g = 0 then { t with h0 := (g.tail - BitVec.ofNat 32 (t.sp / slotVecs g)).toNat } else t
/-- A V syllable's destination stream takes one vector (R209 to R212). A sink ring stream acquires slot TAIL on entering a slot, and
publishes it with its last vector (R206). -/
def pushStrm (n : Nat) (v : Row) : Iss Unit := do
  strmFree n
  let s ← getSt
  let r ← getRole
  match r.strm? n with
  | none => strmTrap n
  | some t => do
    trapIf (!t.sink) tTILE (BitVec.ofNat 64 n) exactI1
    match t.bind with
    | 0 => do
      let q ← regionPos t n t.sp
      regionPut t q (rowLe v)
    | 1 =>
      match r.ring? t.ring with
      | none => strmTrap n
      | some g0 => do
        let k := slotVecs g0
        let c := (t.rebase g0).slotNo g0
        if t.sp % k = 0 then acquireFor t.ring else pure ()
        tilePut (g0.slotOff (g0.idxOf c) + 512 * (t.sp % k)) (rowLe v)
        modRole (fun r => r.setStrm n (t.rebase g0))
        if t.sp % k + 1 = k then
          modRole (fun r => match r.ring? t.ring with
            | some g => r.setRing t.ring (g.publishAt c .published)
            | none => r)
        else pure ()
    | _ => do
      let far := farKey s.curKey t.link
      trapIf (!slotOfLaunch s far r.part.toNat r.lid) tPROT (BitVec.ofNat 64 n) exactI1
      let ck := sinkChan s.curKey t.link
      waitIf (8 ≤ (s.chan ck).length)
      modSt (fun s' => s'.setChan ck (s'.chan ck ++
        [{ part := r.part.toNat, lid := r.lid.toNat, at_ := s.cycle, arrived := false, val := v }]))
    modRole (fun r => match r.strm? n with
      | some u => r.setStrm n { u with c := t.sp + 1, sp := t.sp + 1 }
      | none => r)

/-- The trap that a destination stream gives whatever else the syllable finds. -/
def sinkChk (n : Nat) : Iss Unit := do
  strmFree n
  let s ← getSt
  let r ← getRole
  match r.strm? n with
  | none => strmTrap n
  | some t => do
    trapIf (!t.sink) tTILE (BitVec.ofNat 64 n) exactI1
    match t.bind with
    | 0 => do
      let q ← regionPos t n t.sp
      regionPut t q (List.replicate 512 0)
    | 1 => if (r.ring? t.ring).isNone then strmTrap n else pure ()
    | _ => trapIf (!slotOfLaunch s (farKey s.curKey t.link) r.part.toNat r.lid) tPROT (BitVec.ofNat 64 n) exactI1

/-! ### Row operands (R64 to R66, R145, R147) -/

/-- What a row field delivers: a row; LANE; an exact integer (constants and specials, R65); an element's bits
(X and Q0 to Q7, R66). -/
inductive RowVal where
  | row (r : Row)
  | lane
  | int (i : Int)
  | elem (w : Word)
  deriving DecidableEq, Repr

def rdR : RSrc → Iss RowVal
  | .v n => do
    let r ← rdV n.toNat
    pure (.row r)
  | .s n => do
    let r ← rdStrm n.toNat
    pure (.row r)
  | .qw n => do
    let r ← qHead (8 + n.toNat)
    pure (.row r)
  | .lane => pure .lane
  | .sc (.k c) => pure (.int c.toInt)
  | .sc (.sp sp) => do
    let s ← getSt
    pure (.int (specialVal s sp).toNat)
  | .sc a => do
    let w ← rdS a
    pure (.elem w)

/-- Element i of a row (R3). -/
def laneOf (t : ETy) (r : Row) (i : Nat) : Nat := r.toNat / 2 ^ (t.bits * i) % 2 ^ t.bits
/-- The bits of lane i: integers enter modulo 2^width (R65). -/
def RowVal.bitsAt (t : ETy) (v : RowVal) (i : Nat) : Nat :=
  match v with
  | .row r => laneOf t r i
  | .lane => i % 2 ^ t.bits
  | .int n => uintOf t.bits n
  | .elem w => w.toNat % 2 ^ t.bits
/-- The value of lane i as an operation computes with it (R65). -/
def RowVal.numAt (t : ETy) (v : RowVal) (i : Nat) : Dyad :=
  match v with
  | .lane => if t.isFloat then Dyad.ofInt i else decodeNum t (i % 2 ^ t.bits)
  | .int n => if t.isFloat then Dyad.ofInt n else decodeNum t (uintOf t.bits n)
  | _ => decodeNum t (v.bitsAt t i)
/-- The element that a copy of lane i delivers: an exact integer is rounded to the type (R65, log 12). -/
def RowVal.copyAt (t : ETy) (v : RowVal) (i : Nat) : Nat :=
  match v with
  | .lane => if t.isFloat then (roundF t .rne (Dyad.ofInt i)).1 else i % 2 ^ t.bits
  | .int n => if t.isFloat then (roundF t .rne (Dyad.ofInt n)).1 else uintOf t.bits n
  | _ => v.bitsAt t i

/-- A row from the elements of its lanes. -/
def mkRow (t : ETy) (ls : List Nat) : Row := BitVec.ofNat 4096 (ls.foldr (fun x acc => x % 2 ^ t.bits + acc * 2 ^ t.bits) 0)

/-- Lanes whose bit is set take the new element, the others the old one. -/
def mergeLanes (t : ETy) (g : Pred) (old : Row) (new : List Nat) : Row :=
  mkRow t (new.zipIdx.map (fun xi => if g.getLsbD xi.2 then xi.1 else laneOf t old xi.2))

/-- The old contents of a row destination: a V row keeps its lanes, a queue or stream has zeros (R57, R147). -/
def oldRow : RDst → Iss Row
  | .v n => rdV n.toNat
  | .qw _ | .s _ => pure 0
def wrR (d : RDst) (v : Row) : Iss Unit :=
  match d with
  | .v n => wrV n.toNat v
  | .qw n => qPush (8 + n.toNat) v
  | .s n => pushStrm n.toNat v
/-- R443: the step of the order in which a trap code that a row field can give is reported. -/
def trapStep (c : Nat) : Nat := if c = tPROT then 0 else if c = tALIGN then 1 else if c = tTILE then 2 else 3
/-- The trap of the first field, in the order of the steps and then of the fields. -/
def firstTrap : List (Except Stop Unit) → Option (Nat × Word × Word)
  | [] => none
  | .error (.trap c i0 i1) :: t =>
    match firstTrap t with
    | some x => if trapStep x.1 < trapStep c then some x else some (c, i0, i1)
    | none => some (c, i0, i1)
  | _ :: t => firstTrap t
/-- What a stream in a field comes to by itself. -/
def dstAlone (d : RDst) (s : State) : Except Stop Unit := match d with | .s n => (sinkChk n.toNat s).map (·.1) | _ => .ok ()
def srcAlone (a : RSrc × Bool) (s : State) : Except Stop Unit := match a.1 with | .s n => (rdStrm n.toNat s).map (fun _ => ()) | _ => .ok ()
/-- R443: of the traps that the streams of a V syllable give, the first in the order of the steps, D before A, A before B, B before C. -/
def fieldOrder (d : Option RDst) (srcs : List (RSrc × Bool)) : Iss Unit := fun s =>
  match firstTrap ((match d with | some x => [dstAlone x s] | none => []) ++ srcs.map (fun a => srcAlone a s)) with
  | some (c, i0, i1) => .error (.trap c i0 i1)
  | none => .ok ((), s)
/-- R149: the row number in a flag's identifier. -/
def rowIdOf : RDst → Nat
  | .v n => n.toNat
  | _ => 254

/-- The streams that source fields name, each with whether some field marks it. -/
def strmPops (l : List (RSrc × Bool)) : List (Nat × Bool) :=
  ((uniq (l.filterMap (fun m => rStrm m.1)))).map (fun n => (n, l.any (fun m => rStrm m.1 = some n && m.2)))
def popStrms : List (Nat × Bool) → Iss Unit
  | [] => pure ()
  | (n, m) :: t => do
    popStrm n m
    popStrms t
/-- Pops of the row sources of a syllable: marked queues, and every stream (R56, R63). -/
def popRows (l : List (RSrc × Bool)) : Iss Unit := do
  popMarks (l.map (fun m => (rQueue m.1, m.2)))
  popStrms (strmPops l)

end Sys2Proof.Machine
end

