-- ==== Sys2Proof/Machine/Issue.lean ====
section
/-! DEFINITION. Fetching and decoding the syllable at the head of a cluster (05_encoding R83, R99, R104, R105, R217), and
issuing it: the guard of the stop rules, the body, and the choice of the next PC (06 R126 to R133, 09 R215 to R218). -/

namespace Sys2Proof.Machine

/-! ### Fetch and decode -/

/-- What stands at the head of a cluster: a trap of the fetch or of the decoder, or an instruction. The state has the
A bits that the walk set. -/
inductive Head where
  | trap (st : State) (code : Nat) (i0 i1 : Word)
  | instr (st : State) (i : Instr)
  deriving Repr

/-- Read n code words, one translation each. -/
def codeWords (s : State) (core asid : Nat) (a : Word) : Nat → List Word
  | 0 => []
  | n + 1 =>
    (match translate s core asid a .fetch with
     | .ok x => x.st.memWord x.pa
     | .error _ => 0) :: codeWords s core asid (a + 8) n

/-- R217: the syllable as the cluster decodes it in a loop-record kernel. -/
def rewritten (c : Clu) (w : Word) : Word :=
  match c.lrec with
  | some l => if l.part = .kernel then rotate l.groups l.it w else w
  | none => w

/-- R105: what a cluster makes of the words at address pc. -/
def headOf (s : State) (c : Cluster) (pc : Word) (w : Word) (ws : List Word) : Head :=
  match decodeFor c ws with
  | .instr i =>
    if (majOf w).toNat = 0x30 && pc.toNat % 64 ≠ 0 then .trap s tNEST w 7 else .instr s i
  | .illegalSyllable => .trap s tSYL w 0
  | .illegalCluster => .trap s tCLU w 0
  | .illegalNest k => .trap s tNEST w (if pc.toNat % 64 ≠ 0 then 7 else BitVec.ofNat 64 k)

/-- R83, R104, R217: the head syllable of cluster c of role k. -/
def head (s : State) (k : Nat) (c : Cluster) : Head :=
  let r := s.role k
  let clu := r.clu c
  let pc := clu.pc
  if pc.toNat % 8 ≠ 0 then .trap s tTGT pc 0
  else if !canonical pc then .trap s tPROT pc exactI1
  else
    match readAt s (k / 4) r pc .fetch 8 with
    | .error (code, i1) => .trap s code pc i1
    | .ok (pa, s') =>
      let w := s'.memWord pa
      if (majOf w).toNat = 0x30 then headOf s' c pc w (w :: codeWords s' (k / 4) r.asid.toNat (pc + 8) 7)
      else headOf s' c pc w [rewritten clu w]

/-- R99: on M, whether an address is a payload word of a nest record. -/
def inNestPayload (s : State) (core asid : Nat) (t : Word) : Bool :=
  t.toNat % 64 ≠ 0 &&
  (match translate s core asid (BitVec.ofNat 64 (t.toNat / 64 * 64)) .fetch with
   | .ok x => (majOf (x.st.memWord x.pa)).toNat == 0x30
   | .error _ => false)

/-! ### The next PC -/

/-- How a syllable that commits leaves its cluster. -/
inductive Flow where
  /-- No transfer. -/
  | fall
  /-- A loop whose body is skipped to its end (R127). -/
  | skip (e : Word)
  | jump (t : Word)
  | call (t : Word)
  | halt
  | yield
  /-- TRAP: the code n (R133). -/
  | soft (n : BitVec 8)
  /-- A loop record begins (R216). -/
  | lrec (l : LRec)
  deriving DecidableEq, Repr

/-- R128: the loop stack (innermost first) after a syllable at a, and the start of a body that loops back. -/
def loopBack (a : Word) : List LoopEnt → List LoopEnt × Option Word
  | [] => ([], none)
  | e :: t =>
    if e.stop = a then
      if 1 < e.left.toNat then ({ e with left := e.left - 1 } :: t, some e.start) else loopBack a t
    else (e :: t, none)

def LoopEnt.has (e : LoopEnt) (a : Word) : Bool := e.start.toNat ≤ a.toNat && a.toNat ≤ e.stop.toNat
/-- R129: the loop stack (innermost first) after a taken transfer from a to t. -/
def loopExit (a t : Word) (l : List LoopEnt) : List LoopEnt :=
  (l.dropWhile (fun e => e.stop == a)).dropWhile (fun e => e.has a && !e.has t)

/-- The part of a loop record that is running: its first address and its length in syllables. -/
def LRec.region (l : LRec) : Word × Nat :=
  match l.part with
  | .prologue => (l.prologue, l.psize)
  | .kernel => (l.kernel, l.ksize)
  | .epilogue => (l.epilogue, l.esize)
def LRec.inside (l : LRec) (t : Word) : Bool :=
  (l.region.1).toNat ≤ t.toNat && t.toNat < (l.region.1).toNat + 8 * l.region.2

/-- R216: the stage predicates before kernel iteration i. -/
def setStages (r : Role) (l : LRec) (i : Nat) : Role :=
  (List.range l.stages).foldl (fun r s => r.setP (l.pbase + s) (boolPred (s ≤ i && i < l.trip + s))) r
def clearStages (r : Role) (l : LRec) : Role :=
  (List.range l.stages).foldl (fun r s => r.setP (l.pbase + s) 0) r

/-- R128: the cluster after a syllable at a that transfers nothing; n is its length in bytes. Answers whether it looped
back. -/
def Clu.advance (c : Clu) (a : Word) (n : Nat) : Clu × Bool :=
  match loopBack a c.loops.reverse with
  | (l, some t) => ({ c with loops := l.reverse, pc := t }, true)
  | (l, none) => ({ c with loops := l.reverse, pc := a + BitVec.ofNat 64 n }, false)

/-- R216: a loop record ends: its stage predicates are cleared and the cluster continues after its LREC. -/
def endRec (r : Role) (cl : Cluster) (l : LRec) : Role :=
  let c := r.clu cl
  (clearStages r l).setClu cl ({ c with lrec := none }.advance (l.ret - 8) 8).1

def enterKernel (r : Role) (cl : Cluster) (l : LRec) (i : Nat) (boundary : Bool) : Role :=
  let c := r.clu cl
  (setStages r l i).setClu cl
    { c with pc := l.kernel, lrec := some { l with part := .kernel, it := i, boundary := boundary } }

/-- The epilogue, or the end of the record. -/
def enterEpilogue (r : Role) (cl : Cluster) (l : LRec) (boundary : Bool) : Role :=
  if l.esize = 0 then endRec r cl l
  else
    let c := r.clu cl
    r.setClu cl { c with pc := l.epilogue, lrec := some { l with part := .epilogue, boundary := boundary } }

/-- R216, R218: the running part has run to its end. -/
def partEnd (r : Role) (cl : Cluster) (l : LRec) : Role :=
  match l.part with
  | .prologue => if l.it ≤ l.last then enterKernel r cl l l.it false else enterEpilogue r cl l false
  | .kernel => if l.it < l.last then enterKernel r cl l (l.it + 1) true else enterEpilogue r cl l true
  | .epilogue => endRec r cl l

/-- R216: the record begins: prologue, kernel or epilogue, whichever comes first. -/
def beginRec (r : Role) (cl : Cluster) (l : LRec) : Role :=
  if l.trip = 0 then r.setClu cl ((r.clu cl).advance (l.ret - 8) 8).1
  else if l.psize ≠ 0 then
    let c := r.clu cl
    r.setClu cl { c with pc := l.prologue, lrec := some { l with part := .prologue, boundary := false } }
  else if l.it ≤ l.last then enterKernel r cl l l.it false
  else enterEpilogue r cl l false

/-- No transfer at a: R128, then the end of the loop record's part. -/
def fallFrom (r : Role) (cl : Cluster) (a : Word) (n : Nat) : Role :=
  let (c, back) := (r.clu cl).advance a n
  let r := r.setClu cl c
  match c.lrec with
  | some l => if !back && l.inside a && !l.inside c.pc then partEnd r cl l else r
  | none => r

/-- A taken transfer to t (R129, R218); CALL leaves the loop stack. -/
def jumpFrom (r : Role) (cl : Cluster) (a t : Word) (isCall : Bool) : Role :=
  let c := r.clu cl
  let loops := if isCall then c.loops else (loopExit a t c.loops.reverse).reverse
  let c := { c with loops := loops, pc := t }
  match c.lrec with
  | some l =>
    if l.inside t then r.setClu cl { c with lrec := some { l with boundary := false } }
    else (clearStages r l).setClu cl { c with lrec := none }
  | none => r.setClu cl c

/-- R131, R218: HALT ends the record and halts the cluster. -/
def haltClu (r : Role) (cl : Cluster) : Role :=
  let c := r.clu cl
  match c.lrec with
  | some l => (clearStages r l).setClu cl { c with lrec := none, halted := true }
  | none => r.setClu cl { c with halted := true }

/-- R105 step 6: the target of a taken transfer. -/
def chkTarget (t : Word) : Iss Unit := do
  let s ← getSt
  trapIf (t.toNat % 8 ≠ 0) tTGT t 0
  trapIf (s.cur.cl == .m && inNestPayload s s.cur.core.toNat s.curRole.asid.toNat t) tTGT t 0

/-- The word at the head of the current cluster as it decodes it: INFO0 of the traps that name the syllable (R350). -/
def sylWord : Iss Word := do
  let s ← getSt
  let c ← getClu
  pure (match translate s s.cur.core.toNat s.curRole.asid.toNat c.pc .fetch with
    | .ok x =>
      let w := x.st.memWord x.pa
      if (majOf w).toNat = 0x30 then w else rewritten c w
    | .error _ => 0)
/-- An exact ILLEGAL_SYLLABLE found at issue (R350). -/
def illegal {α : Type} : Iss α := do
  let w ← sylWord
  trapI tSYL w 0
def illegalIf (b : Bool) : Iss Unit := if b then illegal else pure ()

/-- What follows the commit: a stop, with kind, code, INFO0 and INFO1. -/
abbrev Post := Option (Nat × Nat × Word × Word)

/-- R99, R105, R128: a back-edge that a syllable whose last address is a takes without transferring goes to a syllable. -/
def chkBack (a : Word) : Iss Unit := do
  let c ← getClu
  match (c.advance a 8) with
  | (c', true) => chkTarget c'.pc
  | (_, false) => pure ()

/-- The same where a loop record ends and its LREC, the syllable before ret, was the last of a loop's body. -/
def chkRecEnd (ret : Word) (c : Clu) : Iss Unit := if c.lrec.isNone && c.pc != ret then chkTarget c.pc else pure ()

/-- The cluster goes on as after a syllable of n bytes at a that transfers nothing (R83, R128, R216). -/
def goOn (a : Word) (n : Nat) : Iss Unit := do
  let s ← getSt
  chkBack a
  match s.curRole.clu s.cur.cl |>.lrec with
  | some l => chkRecEnd l.ret ((fallFrom s.curRole s.cur.cl a n).clu s.cur.cl)
  | none => pure ()
  modRole (fun r => fallFrom r s.cur.cl a n)

/-- The cluster chooses its next PC after its syllable of n bytes at its head commits. A skip (R127) whose end address has no word that can
be fetched finds no nest header there, and goes on past 8 bytes; it raises nothing (DESIGN CHOICE, log 48). -/
def settle (n : Nat) (f : Flow) : Iss Post := do
  let s ← getSt
  let cl := s.cur.cl
  let a := (s.curRole.clu cl).pc
  match f with
  | .fall => do
    goOn a n
    pure none
  | .skip e => do
    let hdr := cl == .m && (match translate s s.cur.core.toNat s.curRole.asid.toNat e .fetch with
      | .ok x => (majOf (x.st.memWord x.pa)).toNat == 0x30
      | .error _ => false)
    goOn e (if hdr then 64 else 8)
    pure none
  | .jump t => do
    chkTarget t
    modRole (fun r => jumpFrom r cl a t false)
    pure none
  | .call t => do
    chkTarget t
    modRole (fun r => jumpFrom r cl a t true)
    pure none
  | .halt => do
    modRole (fun r => let r := haltClu r cl; if r.allHalted then { r with haltAt := s.cycle } else r)
    pure none
  | .yield => do
    goOn a n
    pure (some (3, 0, 0, 0))
  | .soft k => do
    goOn a n
    pure (some (1, tSOFT, k.setWidth 64, a))
  | .lrec l => do
    chkRecEnd l.ret ((beginRec s.curRole cl l).clu cl)
    modRole (fun r => beginRec r cl l)
    pure none

/-! ### Issue -/

/-- A cluster has a faulted request (R352). -/
def Role.hasFault (r : Role) (c : Cluster) : Option Nat :=
  match r.acc.find? (fun a => a.cl == c && a.stat.isFaulted) with
  | some a => some a.id
  | none => (r.copies.find? (fun j => j.cl == c && j.fault.isSome)).map (·.id)
/-- A faulted request or copy of a role: the cluster that issued it, and its id. -/
def Role.anyFault (r : Role) : Option (Cluster × Nat) :=
  clusters.findSome? (fun c => (r.hasFault c).map (fun id => (c, id)))

/-- The points of R352's second and third conditions, but for a bundle's (R53): the faulting cluster stops. -/
def stopPoint : Iss Unit := do
  let s ← getSt
  match s.curRole.hasFault s.cur.cl with
  | some id => stopWith (.deferred id)
  | none => pure ()

def atBoundary (c : Clu) : Bool := match c.lrec with | some l => l.boundary | none => false

/-- The syllable at a boundary would begin the next iteration of the kernel. -/
def nextIteration (c : Clu) : Bool := match c.lrec with | some l => l.boundary && l.part = .kernel | none => false
/-- R352: a cluster with a faulted request does not begin the next iteration; R218, R308: under a stop request, a cluster
stays at the boundary that ends an iteration. -/
def boundaryGate : Iss Unit := do
  let r ← getRole
  let c ← getClu
  if nextIteration c then stopPoint else pure ()
  waitIf (atBoundary c && r.stopReq.isSome)

/-- R52: every earlier access of the role has been performed; only its reply may be under way. -/
def Role.performed (r : Role) : Bool := r.acc.all (fun a => match a.stat with | .replied _ => true | _ => false)

/-- Commit a syllable: its body, the loop boundary it leaves, its next PC. -/
def commit (n : Nat) (body : Iss Flow) : Iss Post := do
  boundaryGate
  let f ← body
  modClu (fun c => { c with lrec := c.lrec.map (fun l => { l with boundary := false }) })
  let p ← settle n f
  modSt (fun s => s.setRole s.curKey { s.curRole with lastAct := s.cycle })
  pure p

/-- The stop that a committed syllable of cluster cl asks for (R132, R133). -/
def applyPost (s : State) (k : Nat) (cl : Cluster) (p : Post) : State :=
  match p with
  | none => s
  | some (kind, code, i0, i1) => takeStop s k kind code cl i0 i1 none

/-- R51: cluster c of role k has arrived for good or stands at a HALT. -/
def arrivedIdle (s : State) (k : Nat) (c : Cluster) : Bool :=
  ((s.role k).clu c).halted ||
  (match head s k c with
   | .instr _ (.halt _) => true
   | _ => false)

/-- R51, R52: a syllable with S = 1 is a bundle of its own when no other cluster has a syllable to join; otherwise it
waits for BUNDLE_ISSUE. -/
def alone (s : State) : Bool :=
  (clusters.filter (fun c => c != s.cur.cl)).all (arrivedIdle s s.curKey)

/-- R51 to R53: what a syllable with S = 1 asks before it issues: where it is a bundle of its own and is ready otherwise, a fault of any
cluster stops the role at it. -/
def syncGate {α : Type} (body : Iss α) : Iss Unit := do
  let s ← getSt
  waitIf (!alone s)
  match s.curRole.anyFault with
  | some (_, id) => stopWith (match body s with | .error .wait => .wait | _ => .deferred id)
  | none => waitIf (!s.curRole.performed)

/-- Whether the current cluster may issue. -/
def State.curLive (s : State) : Bool := s.curRole.st == .running && !(s.curRole.clu s.cur.cl).halted

/-- Issue a syllable of n bytes: a next state where it commits, waits (nothing changes) or stops the role. -/
def issueN (n : Nat) (sync : Bool) (body : Iss Flow) (s : State) : Host.Outcome State Fault Refusal :=
  if !s.curLive then .fault .notRunning
  else
    match (do if sync then syncGate (commit n body) else pure ()
              commit n body : Iss Post) s with
    | .ok (p, s') => .next (applyPost s' s'.curKey s'.cur.cl p)
    | .error .wait => .next s
    | .error (.trap c i0 i1) => .next (takeTrap s c i0 i1)
    | .error (.deferred id) => .next (takeDeferred s id)

/-- Issue a syllable. -/
def issue (h : Hdr) (body : Iss Flow) (s : State) : Host.Outcome State Fault Refusal := issueN 8 h.s body s

/-- The common shape of a scalar result (R50, R57, R119): with the guard true, compute and write; with it false, push 0
into a queue destination; marked queues are popped either way. -/
def scalarOp (h : Hdr) (ms : List Mk) (d : SDst) (f : Iss Word) : Iss Flow := do
  let g ← guardS h
  if g then do
    let v ← f
    popMarks ms
    wrS d v
  else do
    needHeads ms
    popMarks ms
    wrS0 d
  pure .fall

/-- The common shape of a syllable that writes no destination of its own kind. -/
def guarded (h : Hdr) (ms : List Mk) (f : Iss Unit) : Iss Flow := do
  let g ← guardS h
  if g then do
    f
    popMarks ms
  else do
    needHeads ms
    popMarks ms
  pure .fall

end Sys2Proof.Machine
end

