-- ==== Sys2Proof/Machine/Scalar.lean ====
section
/-! DEFINITION. Control, scalar and predicate instructions (06_isa_control_scalar). Each instruction has a body (res…),
which a bundle issues too, and its meaning (exec…). -/

namespace Sys2Proof.Machine

/-! ### Arithmetic on 64-bit values (R136, R137) -/

def mulhS (a b : Word) : Word := BitVec.ofInt 64 (a.toInt * b.toInt / 2 ^ 64)
def mulhU (a b : Word) : Word := BitVec.ofNat 64 (a.toNat * b.toNat / 2 ^ 64)
/-- Division rounded towards zero. -/
def quotT (a b : Int) : Int := Int.tdiv a b
/-- R137 for signed operands of w bits: quotient and flags. -/
def divS (w : Nat) (a b : Int) : Nat × Fl :=
  if b = 0 then (0, if a = 0 then fIV else fDZ)
  else if a = -(2 ^ (w - 1) : Nat) && b = -1 then (uintOf w a, fOF)
  else (uintOf w (quotT a b), 0)
def remS (w : Nat) (a b : Int) : Nat × Fl :=
  if b = 0 then (uintOf w a, if a = 0 then fIV else fDZ)
  else if a = -(2 ^ (w - 1) : Nat) && b = -1 then (0, fOF)
  else (uintOf w (a - b * quotT a b), 0)
def divU (a b : Nat) : Nat × Fl := if b = 0 then (0, if a = 0 then fIV else fDZ) else (a / b, 0)
def remU (a b : Nat) : Nat × Fl := if b = 0 then (a, if a = 0 then fIV else fDZ) else (a % b, 0)
/-- Clamp to a signed range of w bits (R28). -/
def clampS (w : Nat) (i : Int) : Nat × Fl :=
  let lo : Int := -(2 ^ (w - 1) : Nat)
  let hi : Int := (2 ^ (w - 1) : Nat) - 1
  if i < lo then (uintOf w lo, fSAT) else if hi < i then (uintOf w hi, fSAT) else (uintOf w i, 0)
def shlW (a b : Word) : Word := a <<< (b.toNat % 64)
def shrW (a b : Word) : Word := a >>> (b.toNat % 64)
def sarW (a b : Word) : Word := a.sshiftRight (b.toNat % 64)
def rolW (a b : Word) : Word := a.rotateLeft (b.toNat % 64)
def rorW (a b : Word) : Word := a.rotateRight (b.toNat % 64)
def minS (a b : Word) : Word := if a.toInt ≤ b.toInt then a else b
def maxS (a b : Word) : Word := if a.toInt ≤ b.toInt then b else a
def minU (a b : Word) : Word := if a.toNat ≤ b.toNat then a else b
def maxU (a b : Word) : Word := if a.toNat ≤ b.toNat then b else a
def clzW (a : Word) : Word := if a = 0 then 64 else BitVec.ofNat 64 (63 - Nat.log2 a.toNat)
def ctzW (a : Word) : Word := if a = 0 then 64 else BitVec.ofNat 64 (Nat.log2 (a &&& (-a)).toNat)
def popcW (a : Word) : Word := BitVec.ofNat 64 ((List.range 64).countP (fun i => a.getLsbD i))
/-- The width of SEXT and ZEXT. -/
def extN (b : Word) : Nat := if b.toNat % 64 = 0 then 64 else b.toNat % 64
def sextW (a b : Word) : Word := BitVec.ofInt 64 (sint (extN b) a.toNat)
def zextW (a b : Word) : Word := BitVec.ofNat 64 (a.toNat % 2 ^ extN b)

/-! ### Shapes -/

def alu1 (h : Hdr) (o : S1) (f : Word → Word) : Iss Flow :=
  scalarOp h [msMk o.a] o.d (do
    let a ← rdS o.a.src
    pure (f a))
def alu2 (h : Hdr) (o : S2) (f : Word → Word → Word) : Iss Flow :=
  scalarOp h [msMk o.a, msMk o.b] o.d (do
    let a ← rdS o.a.src
    let b ← rdS o.b.src
    pure (f a b))
/-- A result with flags (R121). -/
def alu2f (h : Hdr) (o : S2) (f : Word → Word → Nat × Fl) : Iss Flow :=
  scalarOp h [msMk o.a, msMk o.b] o.d (do
    let a ← rdS o.a.src
    let b ← rdS o.b.src
    raiseI 255 0 (f a b).2
    pure (BitVec.ofNat 64 (f a b).1))
def alu3 (h : Hdr) (o : S3) (f : Word → Word → Word → Word) : Iss Flow :=
  scalarOp h [msMk o.a, msMk o.b, csMk o.c] o.d (do
    let a ← rdS o.a.src
    let b ← rdS o.b.src
    let c ← rdS o.c.src
    pure (f a b c))
/-- R138: B is the sign-extended immediate. -/
def alui (h : Hdr) (o : I1) (f : Word → Word → Word) : Iss Flow :=
  scalarOp h [(sQueue o.a, o.la)] o.d (do
    let a ← rdS o.a
    pure (f a (o.imm.signExtend 64)))
def aluif (h : Hdr) (o : I1) (f : Word → Word → Nat × Fl) : Iss Flow :=
  scalarOp h [(sQueue o.a, o.la)] o.d (do
    let a ← rdS o.a
    raiseI 255 0 (f a (o.imm.signExtend 64)).2
    pure (BitVec.ofNat 64 (f a (o.imm.signExtend 64)).1))

def addsF (a b : Word) : Nat × Fl := clampS 64 (a.toInt + b.toInt)
def subsF (a b : Word) : Nat × Fl := clampS 64 (a.toInt - b.toInt)

/-! ### NOP and hints (R103, R122, R123) -/

def resNop (_h : Hdr) : Iss Flow := pure .fall
def execNop (h : Hdr) (s : State) := issue h (resNop h) s
def resHint (_h : Hdr) (_p : BitVec 48) : Iss Flow := pure .fall
def execHint (h : Hdr) (p : BitVec 48) (s : State) := issue h (resHint h p) s
def resHint7F (_h : Hdr) (_p : BitVec 48) : Iss Flow := pure .fall
def execHint7F (h : Hdr) (p : BitVec 48) (s : State) := issue h (resHint7F h p) s

/-! ### Branches and calls (R124, R125) -/

/-- A byte displacement in syllables. -/
def disp8 (off : BitVec 28) : Word := off.signExtend 64 * 8
def pcI : Iss Word := do
  let c ← getClu
  pure c.pc
/-- Branch to PC + sext(OFF28) × 8 when the test holds and the guard is true. -/
def branchIf (h : Hdr) (ms : List Mk) (test : Iss Bool) (off : BitVec 28) : Iss Flow := do
  let g ← guardS h
  if g then do
    let t ← test
    let pc ← pcI
    pure (if t then .jump (pc + disp8 off) else .fall)
  else do
    needHeads ms
    pure .fall

def resBr (h : Hdr) (off : BitVec 28) : Iss Flow := branchIf h [] (pure true) off
def execBr (h : Hdr) (off : BitVec 28) (s : State) := issue h (resBr h off) s
/-- Bits n-1:0 of a predicate. -/
def lowLanes (p : Pred) (t : ETy) : Nat := p.toNat % 2 ^ t.lanes
def resBrpAny (h : Hdr) (p : BitVec 7) (ty : ETy) (off : BitVec 28) : Iss Flow :=
  branchIf h [] (do
    let v ← rdP p.toNat
    pure (lowLanes v ty != 0)) off
def execBrpAny (h : Hdr) (p : BitVec 7) (ty : ETy) (off : BitVec 28) (s : State) := issue h (resBrpAny h p ty off) s
def resBrpAll (h : Hdr) (p : BitVec 7) (ty : ETy) (off : BitVec 28) : Iss Flow :=
  branchIf h [] (do
    let v ← rdP p.toNat
    pure (lowLanes v ty == 2 ^ ty.lanes - 1)) off
def execBrpAll (h : Hdr) (p : BitVec 7) (ty : ETy) (off : BitVec 28) (s : State) := issue h (resBrpAll h p ty off) s
def resBrpNone (h : Hdr) (p : BitVec 7) (ty : ETy) (off : BitVec 28) : Iss Flow :=
  branchIf h [] (do
    let v ← rdP p.toNat
    pure (lowLanes v ty == 0)) off
def execBrpNone (h : Hdr) (p : BitVec 7) (ty : ETy) (off : BitVec 28) (s : State) := issue h (resBrpNone h p ty off) s
def resBrx (h : Hdr) (cc : Cond) (a b : SSrc) (off : BitVec 28) : Iss Flow :=
  branchIf h [(sQueue a, false), (sQueue b, false)] (do
    let x ← rdS a
    let y ← rdS b
    pure (condWord cc x y)) off
def execBrx (h : Hdr) (cc : Cond) (a b : SSrc) (off : BitVec 28) (s : State) := issue h (resBrx h cc a b off) s

def resCall (h : Hdr) (x : BitVec 5) (off : BitVec 28) : Iss Flow := do
  let g ← guardS h
  if g then do
    let pc ← pcI
    wrX x.toNat (pc + 8)
    pure (.call (pc + disp8 off))
  else pure .fall
def execCall (h : Hdr) (x : BitVec 5) (off : BitVec 28) (s : State) := issue h (resCall h x off) s
/-- RET and JMPX: to A plus a displacement. -/
def jumpTo (h : Hdr) (a : SSrc) (off : BitVec 28) : Iss Flow := do
  let g ← guardS h
  if g then do
    let t ← rdS a
    pure (.jump (t + disp8 off))
  else do
    needHeads [(sQueue a, false)]
    pure .fall
def resRet (h : Hdr) (a : SSrc) : Iss Flow := jumpTo h a 0
def execRet (h : Hdr) (a : SSrc) (s : State) := issue h (resRet h a) s
def resJmpx (h : Hdr) (a : SSrc) (off : BitVec 28) : Iss Flow := jumpTo h a off
def execJmpx (h : Hdr) (a : SSrc) (off : BitVec 28) (s : State) := issue h (resJmpx h a off) s

/-! ### Hardware loops (R126, R127) -/

/-- R127 and R218: a LOOP with count c whose body ends off syllables on. -/
def loopWith (c : Word) (off : BitVec 28) : Iss Flow := do
  let s ← getSt
  let clu ← getClu
  let pc := clu.pc
  let e := pc + disp8 off
  let past := match clu.loops.getLast? with
    | some top => top.has pc && top.stop.toNat < e.toNat
    | none => false
  let pastKernel := match clu.lrec with
    | some l => l.part = .kernel && l.inside pc && (l.kernel.toNat + 8 * l.ksize ≤ e.toNat)
    | none => false
  trapIf (past || pastKernel || (s.cur.cl == .m && inNestPayload s s.cur.core.toNat s.curRole.asid.toNat e)) tTGT e 0
  if c = 0 then pure (.skip e)
  else do
    let w ← sylWord
    trapIf (clu.loops.length = 4) tLOOP w 0
    modClu (fun c' => { c' with loops := c'.loops ++ [{ start := pc + 8, stop := e, left := c }] })
    pure .fall
def resLoop (h : Hdr) (a : SSrc) (off : BitVec 28) : Iss Flow := do
  let g ← guardS h
  if g then do
    let c ← rdS a
    loopWith c off
  else do
    needHeads [(sQueue a, false)]
    pure .fall
def execLoop (h : Hdr) (a : SSrc) (off : BitVec 28) (s : State) := issue h (resLoop h a off) s
def resLoopi (h : Hdr) (n : BitVec 16) (off : BitVec 28) : Iss Flow := do
  let g ← guardS h
  if g then loopWith (n.setWidth 64) off else pure .fall
def execLoopi (h : Hdr) (n : BitVec 16) (off : BitVec 28) (s : State) := issue h (resLoopi h n off) s

/-! ### HALT, YIELD, TRAP, TFENCE (R131 to R135) -/

/-- Requests of the current cluster that have not been performed, or, with replies, not committed. -/
def ownOpen (s : State) (replies : Bool) : Bool :=
  s.curRole.acc.any (fun a => a.cl == s.cur.cl && (match a.stat with
    | .pending | .parked .. | .resend .. => true
    | .replied .. => replies
    | _ => false))
def resHalt (_h : Hdr) : Iss Flow := do
  let s ← getSt
  waitIf (ownOpen s false)
  stopPoint
  pure .halt
def execHalt (h : Hdr) (s : State) := issue h (resHalt h) s
def resYield (h : Hdr) : Iss Flow := do
  let g ← guardS h
  pure (if g then .yield else .fall)
def execYield (h : Hdr) (s : State) := issue h (resYield h) s
def resTrap (h : Hdr) (n : BitVec 8) : Iss Flow := do
  let g ← guardS h
  pure (if g then .soft n else .fall)
def execTrap (h : Hdr) (n : BitVec 8) (s : State) := issue h (resTrap h n) s
def resTfence (h : Hdr) : Iss Flow := do
  let g ← guardS h
  if g then do
    let s ← getSt
    waitIf (ownOpen s true)
    stopPoint
    let r ← getRole
    let f := seenCsr r 1 &&& seenCsr r 2
    trapIf (f != 0) tARITH f (seenCsr r 3)
    pure .fall
  else pure .fall
def execTfence (h : Hdr) (s : State) := issue h (resTfence h) s

/-! ### ALU (R136, R137) -/

def resAdd (h : Hdr) (o : S2) : Iss Flow := alu2 h o (fun a b => a + b)
def execAdd (h : Hdr) (o : S2) (s : State) := issue h (resAdd h o) s
def resSub (h : Hdr) (o : S2) : Iss Flow := alu2 h o (fun a b => a - b)
def execSub (h : Hdr) (o : S2) (s : State) := issue h (resSub h o) s
def resMul (h : Hdr) (o : S2) : Iss Flow := alu2 h o (fun a b => a * b)
def execMul (h : Hdr) (o : S2) (s : State) := issue h (resMul h o) s
def resMulh (h : Hdr) (o : S2) : Iss Flow := alu2 h o mulhS
def execMulh (h : Hdr) (o : S2) (s : State) := issue h (resMulh h o) s
def resMulhu (h : Hdr) (o : S2) : Iss Flow := alu2 h o mulhU
def execMulhu (h : Hdr) (o : S2) (s : State) := issue h (resMulhu h o) s
def resMadd (h : Hdr) (o : S3) : Iss Flow := alu3 h o (fun a b c => a * b + c)
def execMadd (h : Hdr) (o : S3) (s : State) := issue h (resMadd h o) s
def resDiv (h : Hdr) (o : S2) : Iss Flow := alu2f h o (fun a b => divS 64 a.toInt b.toInt)
def execDiv (h : Hdr) (o : S2) (s : State) := issue h (resDiv h o) s
def resDivu (h : Hdr) (o : S2) : Iss Flow := alu2f h o (fun a b => divU a.toNat b.toNat)
def execDivu (h : Hdr) (o : S2) (s : State) := issue h (resDivu h o) s
def resRem (h : Hdr) (o : S2) : Iss Flow := alu2f h o (fun a b => remS 64 a.toInt b.toInt)
def execRem (h : Hdr) (o : S2) (s : State) := issue h (resRem h o) s
def resRemu (h : Hdr) (o : S2) : Iss Flow := alu2f h o (fun a b => remU a.toNat b.toNat)
def execRemu (h : Hdr) (o : S2) (s : State) := issue h (resRemu h o) s
def resAnd (h : Hdr) (o : S2) : Iss Flow := alu2 h o (fun a b => a &&& b)
def execAnd (h : Hdr) (o : S2) (s : State) := issue h (resAnd h o) s
def resOr (h : Hdr) (o : S2) : Iss Flow := alu2 h o (fun a b => a ||| b)
def execOr (h : Hdr) (o : S2) (s : State) := issue h (resOr h o) s
def resXor (h : Hdr) (o : S2) : Iss Flow := alu2 h o (fun a b => a ^^^ b)
def execXor (h : Hdr) (o : S2) (s : State) := issue h (resXor h o) s
def resAndn (h : Hdr) (o : S2) : Iss Flow := alu2 h o (fun a b => a &&& ~~~b)
def execAndn (h : Hdr) (o : S2) (s : State) := issue h (resAndn h o) s
def resShl (h : Hdr) (o : S2) : Iss Flow := alu2 h o shlW
def execShl (h : Hdr) (o : S2) (s : State) := issue h (resShl h o) s
def resShr (h : Hdr) (o : S2) : Iss Flow := alu2 h o shrW
def execShr (h : Hdr) (o : S2) (s : State) := issue h (resShr h o) s
def resSar (h : Hdr) (o : S2) : Iss Flow := alu2 h o sarW
def execSar (h : Hdr) (o : S2) (s : State) := issue h (resSar h o) s
def resRol (h : Hdr) (o : S2) : Iss Flow := alu2 h o rolW
def execRol (h : Hdr) (o : S2) (s : State) := issue h (resRol h o) s
def resRor (h : Hdr) (o : S2) : Iss Flow := alu2 h o rorW
def execRor (h : Hdr) (o : S2) (s : State) := issue h (resRor h o) s
def resMin (h : Hdr) (o : S2) : Iss Flow := alu2 h o minS
def execMin (h : Hdr) (o : S2) (s : State) := issue h (resMin h o) s
def resMax (h : Hdr) (o : S2) : Iss Flow := alu2 h o maxS
def execMax (h : Hdr) (o : S2) (s : State) := issue h (resMax h o) s
def resMinu (h : Hdr) (o : S2) : Iss Flow := alu2 h o minU
def execMinu (h : Hdr) (o : S2) (s : State) := issue h (resMinu h o) s
def resMaxu (h : Hdr) (o : S2) : Iss Flow := alu2 h o maxU
def execMaxu (h : Hdr) (o : S2) (s : State) := issue h (resMaxu h o) s
def resClz (h : Hdr) (o : S1) : Iss Flow := alu1 h o clzW
def execClz (h : Hdr) (o : S1) (s : State) := issue h (resClz h o) s
def resCtz (h : Hdr) (o : S1) : Iss Flow := alu1 h o ctzW
def execCtz (h : Hdr) (o : S1) (s : State) := issue h (resCtz h o) s
def resPopc (h : Hdr) (o : S1) : Iss Flow := alu1 h o popcW
def execPopc (h : Hdr) (o : S1) (s : State) := issue h (resPopc h o) s
def resSel (h : Hdr) (o : S3) : Iss Flow := alu3 h o (fun a b c => if c = 0 then b else a)
def execSel (h : Hdr) (o : S3) (s : State) := issue h (resSel h o) s
def resSext (h : Hdr) (o : S2) : Iss Flow := alu2 h o sextW
def execSext (h : Hdr) (o : S2) (s : State) := issue h (resSext h o) s
def resZext (h : Hdr) (o : S2) : Iss Flow := alu2 h o zextW
def execZext (h : Hdr) (o : S2) (s : State) := issue h (resZext h o) s
def resAdds (h : Hdr) (o : S2) : Iss Flow := alu2f h o addsF
def execAdds (h : Hdr) (o : S2) (s : State) := issue h (resAdds h o) s
def resSubs (h : Hdr) (o : S2) : Iss Flow := alu2f h o subsF
def execSubs (h : Hdr) (o : S2) (s : State) := issue h (resSubs h o) s
def resMsub (h : Hdr) (o : S3) : Iss Flow := alu3 h o (fun a b c => c - a * b)
def execMsub (h : Hdr) (o : S3) (s : State) := issue h (resMsub h o) s

/-! ### ALUI (R138) -/

def resAluiAdd (h : Hdr) (o : I1) : Iss Flow := alui h o (fun a b => a + b)
def execAluiAdd (h : Hdr) (o : I1) (s : State) := issue h (resAluiAdd h o) s
def resAluiMul (h : Hdr) (o : I1) : Iss Flow := alui h o (fun a b => a * b)
def execAluiMul (h : Hdr) (o : I1) (s : State) := issue h (resAluiMul h o) s
def resAluiAnd (h : Hdr) (o : I1) : Iss Flow := alui h o (fun a b => a &&& b)
def execAluiAnd (h : Hdr) (o : I1) (s : State) := issue h (resAluiAnd h o) s
def resAluiOr (h : Hdr) (o : I1) : Iss Flow := alui h o (fun a b => a ||| b)
def execAluiOr (h : Hdr) (o : I1) (s : State) := issue h (resAluiOr h o) s
def resAluiXor (h : Hdr) (o : I1) : Iss Flow := alui h o (fun a b => a ^^^ b)
def execAluiXor (h : Hdr) (o : I1) (s : State) := issue h (resAluiXor h o) s
def resAluiShl (h : Hdr) (o : I1) : Iss Flow := alui h o shlW
def execAluiShl (h : Hdr) (o : I1) (s : State) := issue h (resAluiShl h o) s
def resAluiShr (h : Hdr) (o : I1) : Iss Flow := alui h o shrW
def execAluiShr (h : Hdr) (o : I1) (s : State) := issue h (resAluiShr h o) s
def resAluiSar (h : Hdr) (o : I1) : Iss Flow := alui h o sarW
def execAluiSar (h : Hdr) (o : I1) (s : State) := issue h (resAluiSar h o) s
def resAluiRol (h : Hdr) (o : I1) : Iss Flow := alui h o rolW
def execAluiRol (h : Hdr) (o : I1) (s : State) := issue h (resAluiRol h o) s
def resAluiRor (h : Hdr) (o : I1) : Iss Flow := alui h o rorW
def execAluiRor (h : Hdr) (o : I1) (s : State) := issue h (resAluiRor h o) s
def resAluiMin (h : Hdr) (o : I1) : Iss Flow := alui h o minS
def execAluiMin (h : Hdr) (o : I1) (s : State) := issue h (resAluiMin h o) s
def resAluiMax (h : Hdr) (o : I1) : Iss Flow := alui h o maxS
def execAluiMax (h : Hdr) (o : I1) (s : State) := issue h (resAluiMax h o) s
def resAluiMinu (h : Hdr) (o : I1) : Iss Flow := alui h o minU
def execAluiMinu (h : Hdr) (o : I1) (s : State) := issue h (resAluiMinu h o) s
def resAluiMaxu (h : Hdr) (o : I1) : Iss Flow := alui h o maxU
def execAluiMaxu (h : Hdr) (o : I1) (s : State) := issue h (resAluiMaxu h o) s
def resAluiAdds (h : Hdr) (o : I1) : Iss Flow := aluif h o addsF
def execAluiAdds (h : Hdr) (o : I1) (s : State) := issue h (resAluiAdds h o) s

/-! ### Constants and addresses (R139, R140) -/

def resMovk (h : Hdr) (x : BitVec 5) (imm : BitVec 40) : Iss Flow :=
  guarded h [] (wrX x.toNat (imm.signExtend 64))
def execMovk (h : Hdr) (x : BitVec 5) (imm : BitVec 40) (s : State) := issue h (resMovk h x imm) s
def resMovkh (h : Hdr) (x : BitVec 5) (imm : BitVec 24) : Iss Flow :=
  guarded h [] (do
    let v ← rdX x.toNat
    wrX x.toNat (imm ++ v.extractLsb' 0 40))
def execMovkh (h : Hdr) (x : BitVec 5) (imm : BitVec 24) (s : State) := issue h (resMovkh h x imm) s
def resLea (h : Hdr) (o : I1) : Iss Flow := alui h o (fun a b => canon (a + b))
def execLea (h : Hdr) (o : I1) (s : State) := issue h (resLea h o) s

/-! ### CMP and predicates (R141 to R143) -/

def resCmp (h : Hdr) (cc : Cond) (o : P2) : Iss Flow :=
  guarded h [msMk o.a, msMk o.b] (do
    let a ← rdS o.a.src
    let b ← rdS o.b.src
    wrP o.p.toNat (boolPred (condWord cc a b)))
def execCmp (h : Hdr) (cc : Cond) (o : P2) (s : State) := issue h (resCmp h cc o) s

def pred2 (h : Hdr) (d a b : BitVec 7) (f : Pred → Pred → Pred) : Iss Flow :=
  guarded h [] (do
    let x ← rdP a.toNat
    let y ← rdP b.toNat
    wrP d.toNat (f x y))
def pred1 (h : Hdr) (d a : BitVec 7) (f : Pred → Pred) : Iss Flow :=
  guarded h [] (do
    let x ← rdP a.toNat
    wrP d.toNat (f x))
def resPand (h : Hdr) (d a b : BitVec 7) : Iss Flow := pred2 h d a b (fun x y => x &&& y)
def execPand (h : Hdr) (d a b : BitVec 7) (s : State) := issue h (resPand h d a b) s
def resPor (h : Hdr) (d a b : BitVec 7) : Iss Flow := pred2 h d a b (fun x y => x ||| y)
def execPor (h : Hdr) (d a b : BitVec 7) (s : State) := issue h (resPor h d a b) s
def resPxor (h : Hdr) (d a b : BitVec 7) : Iss Flow := pred2 h d a b (fun x y => x ^^^ y)
def execPxor (h : Hdr) (d a b : BitVec 7) (s : State) := issue h (resPxor h d a b) s
def resPandn (h : Hdr) (d a b : BitVec 7) : Iss Flow := pred2 h d a b (fun x y => x &&& ~~~y)
def execPandn (h : Hdr) (d a b : BitVec 7) (s : State) := issue h (resPandn h d a b) s
def resPnot (h : Hdr) (d a : BitVec 7) : Iss Flow := pred1 h d a (fun x => ~~~x)
def execPnot (h : Hdr) (d a : BitVec 7) (s : State) := issue h (resPnot h d a) s
def resPmov (h : Hdr) (d a : BitVec 7) : Iss Flow := pred1 h d a (fun x => x)
def execPmov (h : Hdr) (d a : BitVec 7) (s : State) := issue h (resPmov h d a) s
/-- The 64-bit word w of a predicate, and the predicate with that word replaced. -/
def predWord (p : Pred) (w : Nat) : Word := p.extractLsb' (64 * w) 64
def predSetWord (p : Pred) (w : Nat) (v : Word) : Pred :=
  (p &&& ~~~((BitVec.allOnes 64).setWidth 512 <<< (64 * w))) ||| (v.setWidth 512 <<< (64 * w))
def resPsetx (h : Hdr) (o : P2) : Iss Flow :=
  guarded h [msMk o.a, msMk o.b] (do
    let a ← rdS o.a.src
    let b ← rdS o.b.src
    let old ← rdP o.p.toNat
    wrP o.p.toNat (predSetWord old (b.toNat % 8) a))
def execPsetx (h : Hdr) (o : P2) (s : State) := issue h (resPsetx h o) s
def resPgetx (h : Hdr) (d : SDst) (a : BitVec 7) (b : MS) : Iss Flow :=
  scalarOp h [msMk b] d (do
    let p ← rdP a.toNat
    let w ← rdS b.src
    pure (predWord p (w.toNat % 8)))
def execPgetx (h : Hdr) (d : SDst) (a : BitVec 7) (b : MS) (s : State) := issue h (resPgetx h d a b) s
/-- The lanes of a type whose bit is set, ascending. -/
def setLanes (p : Pred) (t : ETy) : List Nat := (List.range t.lanes).filter (fun i => p.getLsbD i)
def lanesOp (h : Hdr) (d : SDst) (a : BitVec 7) (ty : ETy) (f : List Nat → Word) : Iss Flow :=
  scalarOp h [] d (do
    let p ← rdP a.toNat
    pure (f (setLanes p ty)))
def laneOrNone : Option Nat → Word
  | some i => BitVec.ofNat 64 i
  | none => -1
def resPcnt (h : Hdr) (d : SDst) (a : BitVec 7) (ty : ETy) : Iss Flow := lanesOp h d a ty (fun l => BitVec.ofNat 64 l.length)
def execPcnt (h : Hdr) (d : SDst) (a : BitVec 7) (ty : ETy) (s : State) := issue h (resPcnt h d a ty) s
def resPfirst (h : Hdr) (d : SDst) (a : BitVec 7) (ty : ETy) : Iss Flow := lanesOp h d a ty (fun l => laneOrNone l.head?)
def execPfirst (h : Hdr) (d : SDst) (a : BitVec 7) (ty : ETy) (s : State) := issue h (resPfirst h d a ty) s
def resPlast (h : Hdr) (d : SDst) (a : BitVec 7) (ty : ETy) : Iss Flow := lanesOp h d a ty (fun l => laneOrNone l.getLast?)
def execPlast (h : Hdr) (d : SDst) (a : BitVec 7) (ty : ETy) (s : State) := issue h (resPlast h d a ty) s

/-! ### QLEN (R144) -/

/-- Entries that the next pops find without waiting: one that waits for a request in flight, and what stands behind it, is not counted, for
the reader as for the writer (DESIGN CHOICE, log 25: R144 counts pushes by issue and does not name these). -/
def qCount (cycle : Nat) (l : List QEnt) : Nat := (l.takeWhile (fun e => e.pend.isNone && e.at_ + 2 ≤ cycle)).length
/-- QLEN (R144). A destination Q0 to Q7 takes the count as any scalar result: it is pushed, and a full queue makes the syllable wait (R119;
DESIGN CHOICE, log 25: R144 says of the queue that it counts, not of D, that it is never pushed and never waited on). -/
def resQlen (h : Hdr) (d : SDst) (q : BitVec 4) (_ua : Bool) : Iss Flow :=
  scalarOp h [] d (do
    let s ← getSt
    pure (BitVec.ofNat 64 (qCount s.cycle (qList (seenQs s.curRole) q.toNat))))
def execQlen (h : Hdr) (d : SDst) (q : BitVec 4) (ua : Bool) (s : State) := issue h (resQlen h d q ua) s

end Sys2Proof.Machine
end

