-- ==== Sys2Proof/Machine/Kernel.lean ====
section
/-! DEFINITION. Instructions on state that lives for a kernel: loop records (LREC, R215 to R218, R258), the sequencer
(R219 to R221, R256, R257), streams (R208 to R213, R253, R254) and rings (R205 to R207, R255). -/

namespace Sys2Proof.Machine

/-! ### Loop records -/

/-- R215: a rotation group's fields: base designator and length. -/
def groupOf (w5 w6 : Word) (n : Nat) : Nat × Nat :=
  let w := if n < 4 then w5 else w6
  (bits w (16 * (n % 4) + 7) (16 * (n % 4)), bits w (16 * (n % 4) + 15) (16 * (n % 4) + 8))
/-- R215: the groups in use. A group of length 0 is unused, whatever its base designator holds (DESIGN CHOICE, log 17). -/
def groupsOf (ws : List Word) : List (Nat × Nat) :=
  ((List.range 8).map (groupOf (ws.getD 5 0) (ws.getD 6 0))).filter (fun g => g.2 ≠ 0)
/-- A group's registers lie in V0 to V127 or in X0 to X31. -/
def groupOk (g : Nat × Nat) : Bool :=
  2 ≤ g.2 && g.2 ≤ 128 && (if g.1 < 128 then g.1 + g.2 ≤ 128 else g.1 < 160 && g.1 + g.2 ≤ 160)
def groupsClash : List (Nat × Nat) → Bool
  | [] => false
  | g :: t => t.any (fun k => g.1 < k.1 + k.2 && k.1 < g.1 + g.2) || groupsClash t

/-- R215: the checks of the eight words of a loop record. -/
def lrecOk (ws : List Word) : Bool :=
  let w3 := ws.getD 3 0
  let w4 := ws.getD 4 0
  let prol := ws.getD 1 0
  let epil := ws.getD 2 0
  let ks := bits w3 15 0
  let ps := bits w3 31 16
  let es := bits w3 47 32
  let st := bits w3 55 48
  let pb := if bits w3 62 56 = 0 then 64 else bits w3 62 56
  (ws.getD 0 0).toNat % 8 = 0 && prol.toNat % 8 = 0 && epil.toNat % 8 = 0 &&
  1 ≤ ks && ks ≤ 4096 && ((prol == 0) == (ps == 0)) && ((epil == 0) == (es == 0)) &&
  1 ≤ st && st ≤ 64 && 64 ≤ pb && pb + st ≤ 128 && !w3.getLsbD 63 && bits w4 63 32 = 0 && ws.getD 7 0 == 0 &&
  (groupsOf ws).all groupOk && !groupsClash (groupsOf ws)

/-- The loop record at an address, ready to run with a trip count (R216). -/
def lrecOf (ws : List Word) (addr ret : Word) (trip : Nat) : LRec :=
  let w3 := ws.getD 3 0
  let st := bits w3 55 48
  { addr := addr, kernel := ws.getD 0 0, prologue := ws.getD 1 0, epilogue := ws.getD 2 0, ksize := bits w3 15 0,
    psize := bits w3 31 16, esize := bits w3 47 32, stages := st, pbase := if bits w3 62 56 = 0 then 64 else bits w3 62 56,
    trip := trip, groups := groupsOf ws, it := if ws.getD 1 0 = 0 then 0 else st - 1,
    last := if ws.getD 2 0 = 0 then trip + st - 2 else trip - 1, part := .prologue, ret := ret, boundary := false }

/-- R258: the stage predicates of a record overlap those of one that another cluster runs. -/
def stagesClash (r : Role) (cl : Cluster) (l : LRec) : Bool :=
  clusters.any (fun c => c != cl && (match (r.clu c).lrec with
    | some k => k.pbase < l.pbase + l.stages && l.pbase < k.pbase + k.stages
    | none => false))

/-- The eight words of a 64-byte record in memory, or the trap of the read (R258). -/
def readRec64 (s : State) (core : Nat) (r : Role) (a : Word) : Except (Nat × Word) (List Word × State) :=
  match readAt s core r a .rd 64 with
  | .error e => .error e
  | .ok (pa, s') => .ok ((List.range 8).map (fun i => s'.memWord (pa + 8 * i)), s')

/-- R258. Bits 63:32 of B that are not zero raise ILLEGAL_SYLLABLE: R258 wants them zero and names no trap (DESIGN CHOICE,
log 17). -/
def resLrec (h : Hdr) (a b : SSrc) (off : BitVec 28) : Iss Flow := do
  let g ← guardS h
  if g then do
    stopPoint
    let pc ← pcI
    let va ← rdS a
    let vb ← rdS b
    illegalIf (b != .sp .zero && bits vb 63 32 ≠ 0)
    let addr := (if a = .sp .zero then pc else va) + disp8 off
    trapIf (!canonical addr) tPROT addr exactI1
    trapIf (addr.toNat % 64 ≠ 0) tALIGN addr exactI1
    let s ← getSt
    match readRec64 s s.cur.core.toNat s.curRole addr with
    | .error (c, i1) => trapI c addr i1
    | .ok (ws, s') => do
      modSt (fun _ => s')
      illegalIf (!lrecOk ws)
      let trip := if b = .sp .zero then bits (ws.getD 4 0) 31 0 else bits vb 31 0
      let l := lrecOf ws addr (pc + 8) trip
      let c ← getClu
      let w ← sylWord
      trapIf (c.lrec.isSome || stagesClash s'.curRole s'.cur.cl l) tLOOP w 0
      pure (.lrec l)
  else do
    needHeads [(sQueue a, false), (sQueue b, false)]
    pure .fall
def execLrec (h : Hdr) (a b : SSrc) (off : BitVec 28) (s : State) := issue h (resLrec h a b off) s

/-! ### The sequencer -/

/-- R220: where part c of a division of m iterations into p parts starts, and how many it holds. -/
def partStart (m p c : Nat) : Nat := c * (m / p) + min c (m % p)
def partLen (m p c : Nat) : Nat := m / p + (if c < m % p then 1 else 0)

/-- R219: whether a code is a permutation of the four levels; 0x00 stands for 0xE4. -/
def permOk (p : Nat) : Bool :=
  p = 0 || (p < 256 && (List.range 4).all (fun l => (List.range 4).any (fun i => p / 4 ^ i % 4 = l)))

/-- R220: the cursor of a core that holds part c of p, on the device of rank d of n. -/
def seqShare (part lid : Nat) (trips : List Nat) (perm grain n d p c : Nat) : SeqCur :=
  let m := trips.foldl (· * ·) 1
  let base := partStart m n d
  let len := partLen m n d
  let start := base + partStart len p c
  { part := part, lid := lid, trips := trips, perm := perm, grain := grain, stop := start + partLen len p c, cursor := start }

def SeqCur.isOf (q : SeqCur) (part lid : Nat) : Bool := q.part == part && q.lid == lid
def CoreSt.cursor? (c : CoreSt) (part lid : Nat) : Option SeqCur := c.cursors.find? (fun q => q.isOf part lid)
/-- A core's cursor for a launch, replaced (R221). -/
def CoreSt.setCursor (c : CoreSt) (q : SeqCur) : CoreSt :=
  { c with cursors := q :: c.cursors.filter (fun k => !k.isOf q.part q.lid) }

/-- R221, R257. A role on a core outside its launch's allocation takes the part numbered by its core, counted from the
allocation's first one (DESIGN CHOICE, log 17). -/
def resSeqdef (h : Hdr) (a : MS) : Iss Flow :=
  guarded h [msMk a] (do
    let v ← rdS a.src
    trapIf (v.toNat % 16 ≠ 0) tALIGN v exactI1
    let o ← plainOffset v
    tileOrdered true .relaxed
    let bs ← tileGet o 16
    let byte (i : Nat) : Nat := (bs.getD i 0).toNat
    illegalIf (!permOk (byte 8) || byte 9 ≠ 0 || byte 12 ≠ 0 || byte 13 ≠ 0 || byte 14 ≠ 0 || byte 15 ≠ 0)
    let s ← getSt
    let r := s.curRole
    let core := s.curKey / 4
    let (first, count) := (s.alloc r.part.toNat r.lid.toNat).getD (core, 1)
    let q := seqShare r.part.toNat r.lid.toNat ((List.range 4).map (fun i => byte (2 * i) + 256 * byte (2 * i + 1)))
      (byte 8) (byte 10 + 256 * byte 11) (one0 (r.rank.toNat / 2 ^ 16)) (r.rank.toNat % 2 ^ 16) count (core - first)
    modSt (fun s => s.setCore core ((s.core core).setCursor q)))
def execSeqdef (h : Hdr) (a : MS) (s : State) := issue h (resSeqdef h a) s

/-- R221, R257: take the next run of the launch's cursor on this core. A core outside the launch's allocation has no cursor
until a SEQDEF, and the run is empty, at 0 (DESIGN CHOICE, log 17). -/
def resSeqnext (h : Hdr) (d : SDst) (x : BitVec 5) : Iss Flow := do
  let g ← guardS h
  if g then do
    let s ← getSt
    let r := s.curRole
    let core := s.curKey / 4
    match (s.core core).cursor? r.part.toNat r.lid.toNat with
    | none => do
      wrS d 0
      wrX x.toNat 0
    | some q => do
      let n := min (one0 q.grain) (q.stop - q.cursor)
      modSt (fun s => s.setCore core ((s.core core).setCursor { q with cursor := q.cursor + n }))
      wrS d (BitVec.ofNat 64 q.cursor)
      wrX x.toNat (BitVec.ofNat 64 n)
  else wrS0 d
  pure .fall
def execSeqnext (h : Hdr) (d : SDst) (x : BitVec 5) (s : State) := issue h (resSeqnext h d x) s

/-! ### Streams -/

/-- R208, R211: the checks of the descriptor that stream n is to have. -/
def strmBindChk (n : Nat) (ws : List Word) : Iss Unit := do
  illegalIf (!strmDescOk ws)
  let r ← getRole
  let t : Strm := { words := ws, h0 := 0, c := 0, sp := 0 }
  if t.bind = 1 then do
    if (r.ring? t.ring).isNone then strmTrap n else pure ()
    waitIf (!t.sink && (match r.nestSeen with | some f => f.ringsHeld.contains t.ring | none => false))
  else if t.bind = 2 then
    if r.strms.any (fun p => p.1 ≠ n && p.2.bind = 2 && p.2.link = t.link && p.2.sink == t.sink) then strmTrap n else pure ()
  else pure ()

/-- R210: define stream n by its words, at position 0. -/
def strmInstall (n : Nat) (ws : List Word) : Iss Unit := do
  strmBindChk n ws
  modRole (fun r =>
    let t : Strm := { words := ws, h0 := 0, c := 0, sp := 0 }
    let h0 := if t.bind = 1 then (match r.ring? t.ring with
      | some g => (if t.sink then g.tail else g.head).toNat
      | none => 0) else 0
    r.setStrm n { t with h0 := h0 })

def strmGet (n : Nat) : Iss Strm := do
  let r ← getRole
  match r.strm? n with
  | some t => pure t
  | none => strmTrap n
/-- SNEST and SPOS take region streams only. -/
def strmRegion (n : Nat) : Iss Strm := do
  let t ← strmGet n
  if t.bind = 0 then pure t else strmTrap n

def resSdef (h : Hdr) (o : Str1) : Iss Flow :=
  guarded h [msMk o.a] (do
    strmFree o.d.toNat
    let v ← rdS o.a.src
    trapIf (v.toNat % 64 ≠ 0) tALIGN v exactI1
    let off ← plainOffset v
    tileOrdered true .relaxed
    let bs ← tileGet off 64
    strmInstall o.d.toNat ((List.range 8).map (fun i => leWord ((bs.drop (8 * i)).take 8))))
def execSdef (h : Hdr) (o : Str1) (s : State) := issue h (resSdef h o) s

def resSnest (h : Hdr) (o : Str2) : Iss Flow :=
  guarded h [msMk o.a, msMk o.b] (do
    strmFree o.d.toNat
    let a ← rdS o.a.src
    let b ← rdS o.b.src
    let t ← strmRegion o.d.toNat
    let w1 := BitVec.ofNat 64 (t.limit * 2 ^ 32 + a.toNat % 2 ^ 32)
    strmInstall o.d.toNat ((t.words.set 1 w1).set 2 b))
def execSnest (h : Hdr) (o : Str2) (s : State) := issue h (resSnest h o) s

def resSbind (h : Hdr) (o : Str1) : Iss Flow :=
  guarded h [msMk o.a] (do
    strmFree o.d.toNat
    let a ← rdS o.a.src
    let t ← strmGet o.d.toNat
    let w0 := BitVec.ofNat 64 ((t.w 0).toNat / 2 ^ 15 * 2 ^ 15 + a.toNat % 2 ^ 15)
    strmInstall o.d.toNat (t.words.set 0 w0))
def execSbind (h : Hdr) (o : Str1) (s : State) := issue h (resSbind h o) s

def resSpos (h : Hdr) (o : Str1) : Iss Flow :=
  guarded h [msMk o.a] (do
    strmFree o.d.toNat
    let a ← rdS o.a.src
    let t ← strmRegion o.d.toNat
    if a.toNat ≤ t.vectors then modRole (fun r => r.setStrm o.d.toNat { t with c := a.toNat, sp := a.toNat })
    else strmTrap o.d.toNat)
def execSpos (h : Hdr) (o : Str1) (s : State) := issue h (resSpos h o) s

/-- R253: settle a stream; a partly filled sink slot is published, or poisoned, where the stream still holds it (R206). -/
def settleStrm (n : Nat) (t : Strm) (how : RSlot) : Iss Unit := do
  let r ← getRole
  if t.bind = 1 then
    match r.ring? t.ring with
    | none => pure ()
    | some g =>
      let v := slotVecs g
      if t.sink then
        if t.c % v = 0 then pure ()
        else do
          if how = .published then releaseOrdered else pure ()
          let k := t.slotNo g
          if g.holds k then tilePut (g.slotOff (g.idxOf k) + 512 * (t.c % v)) (List.replicate (512 * (v - t.c % v)) 0) else pure ()
          modRole (fun r => (r.setRing t.ring (g.publishAt k how)).setStrm n { t with c := roundUp t.c v, sp := roundUp t.c v })
      else modRole (fun r => releasePassed r t)
  else pure ()

def resScommit (h : Hdr) (d : BitVec 4) : Iss Flow :=
  guarded h [] (do
    strmFree d.toNat
    let t ← strmGet d.toNat
    settleStrm d.toNat t .published)
def execScommit (h : Hdr) (d : BitVec 4) (s : State) := issue h (resScommit h d) s

def resSreset (h : Hdr) (d : BitVec 4) : Iss Flow :=
  guarded h [] (do
    strmFree d.toNat
    let r ← getRole
    match r.strm? d.toNat with
    | none => pure ()
    | some t => do
      settleStrm d.toNat t .poisoned
      modRole (fun r => { r with strms := mdel r.strms d.toNat }))
def execSreset (h : Hdr) (d : BitVec 4) (s : State) := issue h (resSreset h d) s

/-! ### Rings -/

def ringTrap {α : Type} (n : Nat) : Iss α := trapI tTILE (BitVec.ofNat 64 n) exactI1
def ringGet (n : Nat) : Iss Ring := do
  let r ← getRole
  match r.ring? n with
  | some g => pure g
  | none => ringTrap n
/-- R177: RDEF, RREL and RPOISON wait while a nest record holds the ring. -/
def ringFree (n : Nat) : Iss Unit := do
  let r ← getRole
  waitIf (match r.nestSeen with | some f => f.ringsHeld.contains n | none => false)

/-- R207: an engine holds an acquired slot of the ring: a drain in flight, or a sink stream in the middle of a slot. -/
def engineHolds (r : Role) (n : Nat) (g : Ring) : Bool :=
  r.drainSlot.any (fun d => d.1 = n && g.holds d.2) ||
  r.strms.any (fun p => p.2.bind = 1 && p.2.sink && p.2.ring = n && p.2.sp % slotVecs g ≠ 0 && g.holds (p.2.slotNo g))

/-- R443: the TILE_BOUNDS of field A, a ring that a stream is bound to, comes before that of field B, and after the ILLEGAL_SYLLABLE of the
descriptor. -/
def boundFirst {α : Type} (bound : Bool) (n : Nat) (rest : Iss α) : Iss α := fun s =>
  match rest s with
  | .error (.trap c i0 i1) => if bound && c ≠ tSYL then ringTrap n s else .error (.trap c i0 i1)
  | .error x => .error x
  | .ok a => if bound then ringTrap n s else .ok a
def resRdef (h : Hdr) (n : BitVec 5) (b : MS) : Iss Flow :=
  guarded h [msMk b] (do
    ringFree n.toNat
    let v ← rdS b.src
    let r ← getRole
    let ws ← boundFirst (r.strms.any (fun p => p.2.bind = 1 && p.2.ring = n.toNat)) n.toNat (do
      let o ← plainOffset v
      tileOrdered true .relaxed
      let bs ← tileGet o 64
      let ws := (List.range 8).map (fun i => leWord ((bs.drop (8 * i)).take 8))
      illegalIf (!ringDescOk ws)
      pure ws)
    let g : Ring := { w0 := ws.getD 0 0, w1 := ws.getD 1 0, head := 0, pub := 0, tail := 0, hi := 0, pi := 0, ti := 0,
                      slots := List.replicate (bits (ws.getD 0 0) 39 32) .free }
    trapIf (r.twSize.toNat < g.base + g.count * g.slotBytes) tTILE (BitVec.ofNat 64 g.base) exactI1
    modRole (fun r => r.setRing n.toNat g))
def execRdef (h : Hdr) (n : BitVec 5) (b : MS) (s : State) := issue h (resRdef h n b) s

/-- R227: the tile reference of an offset. -/
def tileRef (o : Nat) : Word := BitVec.ofNat 64 (0x80 * 2 ^ 56 + o % 2 ^ 23)

def resRacq (h : Hdr) (d : SDst) (n : BitVec 5) : Iss Flow :=
  scalarOp h [] d (do
    let g ← ringGet n.toNat
    let r ← getRole
    waitIf (g.count ≤ g.used || engineHolds r n.toNat g)
    modRole (fun r => r.setRing n.toNat g.acquire)
    pure (tileRef (g.slotOff g.ti)))
def execRacq (h : Hdr) (d : SDst) (n : BitVec 5) (s : State) := issue h (resRacq h d n) s

/-- Whether a copy writes tile-store offsets from o to o + n - 1 (R255). -/
def CopyJob.hits (c : CopyJob) (o n : Nat) : Bool :=
  bits c.dst 63 56 = 0x80 && bits c.dst 22 0 < o + n && o < bits c.dst 22 0 + bits c.len 31 0

def resRpub (h : Hdr) (n : BitVec 5) : Iss Flow :=
  guarded h [] (do
    let g ← ringGet n.toNat
    if g.acqd = 0 then ringTrap n.toNat else pure ()
    let s ← getSt
    waitIf (s.curRole.copies.any (fun c => c.cl == s.cur.cl && c.hits (g.slotOff g.pi) g.slotBytes))
    releaseOrdered
    modRole (fun r => r.setRing n.toNat (g.publish .published)))
def execRpub (h : Hdr) (n : BitVec 5) (s : State) := issue h (resRpub h n) s

def resRrel (h : Hdr) (n : BitVec 5) : Iss Flow :=
  guarded h [] (do
    ringFree n.toNat
    let g ← ringGet n.toNat
    waitIf (g.ready = 0)
    modRole (fun r => r.setRing n.toNat g.pop))
def execRrel (h : Hdr) (n : BitVec 5) (s : State) := issue h (resRrel h n) s

def resRpoison (h : Hdr) (n : BitVec 5) : Iss Flow :=
  guarded h [] (do
    ringFree n.toNat
    let g ← ringGet n.toNat
    if g.acqd = 0 then ringTrap n.toNat else pure ()
    modRole (fun r => r.setRing n.toNat (g.publish .poisoned)))
def execRpoison (h : Hdr) (n : BitVec 5) (s : State) := issue h (resRpoison h n) s

/-- R255: the RSTAT word. -/
def ringWord (g : Ring) : Word :=
  BitVec.ofNat 64 (g.head.toNat * 2 ^ 32 + g.count * 2 ^ 24 + (g.count - g.used) * 2 ^ 16 + g.acqd * 2 ^ 8 + g.ready)
def resRstat (h : Hdr) (d : SDst) (n : BitVec 5) : Iss Flow :=
  scalarOp h [] d (do
    let r ← getRole
    pure (match r.ring? n.toNat with | some g => ringWord g | none => 0))
def execRstat (h : Hdr) (d : SDst) (n : BitVec 5) (s : State) := issue h (resRstat h d n) s

end Sys2Proof.Machine
end

