-- ==== Sys2Proof/Machine/Arrive.lean ====
section
/-! DEFINITION. Arrivals (03_core_cycle R72 to R76): acceptance into the arrival area, start of a DORMANT role, the handler
block; and the completion of requests of a role. -/

namespace Sys2Proof.Machine

/-! ### Completion of requests -/

/-- A request delivers values to its destinations. A queue entry that waits for it takes the row. -/
def Role.deliver (r : Role) (id : Nat) : List (Dest × Row) → Role
  | [] => r
  | (.gone, _) :: t => r.deliver id t
  | (.x n, v) :: t => (r.setX n (lowWord v)).deliver id t
  | (.p n, v) :: t => (r.setP n (if v = 0 then 0 else allOnes)).deliver id t
  | (.q n, v) :: t =>
    (r.setQ n ((qList r.qs n).map (fun e => if e.pend = some id then { e with val := v, pend := none } else e))).deliver id t
/-- The request leaves the role. -/
def Role.dropAcc (r : Role) (id : Nat) : Role := { r with acc := r.acc.filter (fun a => a.id ≠ id) }
def Role.setAcc (r : Role) (a : Access) : Role := { r with acc := r.acc.map (fun b => if b.id = a.id then a else b) }
def Role.acc? (r : Role) (id : Nat) : Option Access := r.acc.find? (fun a => a.id = id)
/-- A request has been performed: its destinations are written and it is outstanding no more. -/
def Role.complete (r : Role) (a : Access) (vals : List (Dest × Row)) : Role := (r.deliver a.id vals).dropAcc a.id
def State.modRoleAt (s : State) (k : Nat) (f : Role → Role) : State := s.setRole k (f (s.role k))
/-- R54: something of role k was under way until now: its watchdog counts from here. -/
def State.stir (s : State) (k : Nat) : State := s.modRoleAt k (fun r => { r with lastAct := s.cycle })

/-! ### Identities -/

/-- R75: a sender identity, of kind 0. -/
def senderId (k : Nat) (r : Role) : Word := BitVec.ofNat 64 (k / 4 + k % 4 * 2 ^ 8 + r.rank.toNat % 2 ^ 16 * 2 ^ 16)
def kindOf (sender : Word) : Nat := bits sender 35 32

/-! ### Acceptance (R73) -/

def CoreSt.freeArea (c : CoreSt) : Option Nat := (List.range 16).find? (fun k => !c.areas.contains k)
/-- The queue with an entry: among those of the same cycle, in ascending order of sender identity (R73). -/
def queueArr (q : List ArrEnt) (e : ArrEnt) : List ArrEnt :=
  let later (x : ArrEnt) : Bool := x.at_ = e.at_ && e.arr.sender.toNat < x.arr.sender.toNat
  q.takeWhile (fun x => !later x) ++ e :: q.dropWhile (fun x => !later x)
/-- An arrival is accepted when an area entry is free; its payload is written and it enters the queue. -/
def State.accept (s : State) (core : Nat) (a : Arrival) : Option State :=
  let c := s.core core
  match c.freeArea with
  | none => none
  | some k =>
    let s := s.tileWrite core (c.arrBase.toNat + 4096 * k) a.payload
    some (s.setCore core { c with areas := linsert c.areas k, arrq := queueArr c.arrq { area := k, arr := a, at_ := s.cycle } })
/-- An area entry is free again (R76). -/
def State.freeAreaOf (s : State) (core : Nat) (k : Option Nat) : State :=
  match k with
  | none => s
  | some n => s.setCore core { s.core core with areas := lremove (s.core core).areas n }

/-- R46, R338: a DORMANT role of an address space whose handler window covers an address. -/
def Role.qualifies (r : Role) (asid : BitVec 16) (handler : Word) : Bool :=
  r.st == .dormant && r.asid == asid && r.hwStart.toNat ≤ handler.toNat && handler.toNat < r.hwStart.toNat + r.hwLen.toNat
def qualifying (s : State) (core : Nat) (asid : BitVec 16) (handler : Word) : Option Nat :=
  ((List.range 4).map (fun j => 4 * core + j)).find? (fun k => (s.role k).qualifies asid handler)

/-- R75: the rank of this device in the process group of the role that an arrival is to start. -/
def rankAt (s : State) (core : Nat) (asid : BitVec 16) (handler : Word) : Nat :=
  match qualifying s core asid handler with | some k => (s.role k).rank.toNat % 2 ^ 16 | none => 0

/-! ### Handler blocks and starts (R72, R75) -/

/-- A cluster at its entry; a zero entry starts it halted. -/
def entryClu (e : Word) : Clu := { pc := e, halted := e == 0, loops := [], lrec := none }
def Role.enter (r : Role) (es : List Word) : Role :=
  { r with cl := entryClu (es.getD 0 0), cm := entryClu (es.getD 1 0), cv := entryClu (es.getD 2 0), cw := entryClu (es.getD 3 0) }
/-- The four entries of the handler block at an address, read as a fetch. -/
def handlerBlock (s : State) (core : Nat) (r : Role) (h : Word) : Except (Nat × Word) (List Word × State) :=
  if !canonical h then .error (tPROT, exactI1)
  else
    match readAt s core r h .fetch 32 with
    | .error e => .error e
    | .ok (pa, s') => .ok ((List.range 4).map (fun i => s'.memWord (pa + 8 * i)), s')
def Clu.at_ (pc : Word) : Clu := { pc := pc, halted := false, loops := [], lrec := none }
/-- Load the PCs of role k from the handler block at h, or stop the role exactly with the read pending (R72). -/
def loadEntries (s : State) (k : Nat) (h : Word) : State :=
  match handlerBlock s (k / 4) (s.role k) h with
  | .ok (es, s') => s'.modRoleAt k (fun r => { r.enter es with entryPend := 0 })
  | .error (c, i1) =>
    let s := s.modRoleAt k (fun r => { r with cl := Clu.at_ h, cm := Clu.at_ h, cv := Clu.at_ h, cw := Clu.at_ h, entryPend := h })
    takeStop s k 1 c .l h i1 none

/-- R75: the state a role starts in. -/
def startState (r : Role) (cycle : Nat) (area : Nat) (a : Arrival) : Role :=
  { (((r.setX 1 (BitVec.ofNat 64 (0x400000 + 4096 * area))).setX 2 (BitVec.ofNat 64 a.payload.length)).setX 3 a.sender).setX 4 a.x4 with
    st := .running, qs := [], arrival := some area, arrStart := true, participant := false,
    eid := if kindOf a.sender = 1 then a.x4.setWidth 32 else 0, lastAct := cycle }

/-- R414: the role that an arrival of the Curtain unit starts is the window's holder. -/
def noteHolder (s : State) (k : Nat) (a : Arrival) : State :=
  if kindOf a.sender = 2 then
    match mfind s.wins (bits a.x4 11 0) with
    | some w => { s with wins := mput s.wins (bits a.x4 11 0) { w with holder := some (k, (s.role k).lid) } }
    | none => s
  else s

/-- R74, R75: the arrival at the head of a core's queue starts the lowest role that qualifies, in a cycle after the one in which it
entered (R73), and while no emergency of R437 holds. -/
def startHead (s : State) (core : Nat) : State :=
  match (s.core core).arrq with
  | [] => s
  | e :: t =>
    match qualifying s core e.arr.asid e.arr.handler with
    | none => s
    | some k =>
      if s.cycle ≤ e.at_ || s.emergency then s else
      let s := noteHolder (s.setCore core { s.core core with arrq := t }) k e.arr
      loadEntries (s.modRoleAt k (fun r => startState r s.cycle e.area e.arr)) k e.arr.handler

/-- ARRIVAL_ACCEPT: an arrival reaches a core; without a free entry it is refused. -/
def execArrivalAccept (core : BitVec 8) (a : Arrival) (s : State) : Host.Outcome State Fault Refusal :=
  .next ((s.accept core.toNat a).getD s)
/-- ARRIVAL_START. -/
def execArrivalStart (core : BitVec 8) (s : State) : Host.Outcome State Fault Refusal := .next (startHead s core.toNat)

end Sys2Proof.Machine
end

