-- ==== Sys2Proof/Machine/Sfu.lean ====
section
/-! DEFINITION. The special functions of 07_isa_vector R159, R160. Reciprocals and roots are exact dyadic quotients with
a sticky last bit. The transcendental ones are evaluated in fixed point with 400 fraction bits, far below every rounding
position of BF16 and FP16 (log 14); FP32 delivers one of the two neighbours, by `Config.sfuAway` (log 9). -/

namespace Sys2Proof.Machine

/-- Fraction bits of the fixed-point evaluation. -/
def fxN : Nat := 400
def fxOne : Nat := 2 ^ fxN

/-- Σ y^k / k! for 0 ≤ y < 1 in fixed point, n terms from the k-th on. -/
def expSeries : Nat → Nat → Nat → Nat → Nat → Nat
  | 0, _, _, _, acc => acc
  | n + 1, y, k, term, acc =>
    let t := term * y / fxOne / k
    expSeries n y (k + 1) t (acc + t)

def squares : Nat → Nat → Nat
  | 0, v => v
  | n + 1, v => squares n (v * v / fxOne)

/-- e^-y for y ≥ 0 in fixed point: the series of e^(y/2^16), inverted and squared 16 times. -/
def expNegFx (y : Nat) : Nat :=
  let r := y / 2 ^ 16
  let e := expSeries 60 r 1 fxOne fxOne
  squares 16 (fxOne * fxOne / e)

/-- 2 · atanh(z) for 0 ≤ z < 1/2 in fixed point. -/
def atanhSeries : Nat → Nat → Nat → Nat → Nat → Nat
  | 0, _, _, _, acc => 2 * acc
  | n + 1, z2, k, p, acc => atanhSeries n z2 (k + 2) (p * z2 / fxOne) (acc + p / k)

/-- ln of a value in [1, 2) in fixed point. -/
def lnFx (v : Nat) : Nat :=
  let z := (v - fxOne) * fxOne / (v + fxOne)
  atanhSeries 260 (z * z / fxOne) 1 z 0

def ln2Fx : Nat := lnFx (2 * fxOne)

/-- A finite magnitude in fixed point, truncated. -/
def toFx (m : Nat) (e : Int) : Nat :=
  let k := e + fxN
  if k ≥ 0 then m <<< k.toNat else m >>> (-k).toNat

/-- A truncated fixed-point value as a sticky dyadic number. -/
def stickyFx (neg : Bool) (v : Nat) : Dyad := .fin neg (2 * v + 1) (-(fxN : Int) - 1)

/-- A value just above (or, with below, just below) the dyadic number m * 2^e. -/
def nudge (neg below : Bool) (m : Nat) (e : Int) : Dyad :=
  let w := m <<< 200
  .fin neg (if below then w - 1 else w + 1) (e - 200)

/-- 2^x for a finite x that is not 0. -/
def exp2Num (neg : Bool) (m : Nat) (e : Int) : Dyad :=
  let top : Int := (Nat.log2 m : Int) + e
  if top ≥ 10 then nudge false false 1 (if neg then -1000 else 1000)
  else if top < -100 then nudge false neg 1 0
  else
    let fx := toFx m e
    let i := fx / fxOne
    let f := fx % fxOne
    if f = 0 && e ≥ -(fxN : Int) then .fin false 1 (if neg then -(i : Int) else i)
    else if neg then
      match stickyFx false (expNegFx (f * ln2Fx / fxOne)) with
      | .fin n mm ee => .fin n mm (ee - i)
      | x => x
    else
      match stickyFx false (expNegFx ((fxOne - f) * ln2Fx / fxOne)) with
      | .fin n mm ee => .fin n mm (ee + i + 1)
      | x => x

/-- log2 of a finite positive x. -/
def log2Num (m : Nat) (e : Int) : Dyad :=
  let l := Nat.log2 m
  let i : Int := (l : Int) + e
  if m = 2 ^ l then Dyad.ofInt i
  else
    let v := (m <<< fxN) >>> l
    let f := lnFx v * fxOne / ln2Fx
    if i ≥ 0 then stickyFx false (i.toNat * fxOne + f) else stickyFx true ((-i).toNat * fxOne - f - 1)

/-- tanh of a finite x that is not 0. -/
def tanhNum (neg : Bool) (m : Nat) (e : Int) : Dyad :=
  let top : Int := (Nat.log2 m : Int) + e
  if top ≥ 7 then nudge neg true 1 0
  else if top < -60 then nudge neg true m e
  else
    let t := expNegFx (2 * toFx m e)
    stickyFx neg ((fxOne - t) * fxOne / (fxOne + t))

/-- 1 / (1 + e^-x) of a finite x that is not 0. -/
def sigmNum (neg : Bool) (m : Nat) (e : Int) : Dyad :=
  let top : Int := (Nat.log2 m : Int) + e
  if top < -60 then nudge false neg 1 (-1)
  else if top ≥ 8 then (if neg then nudge false false 1 (-1000) else nudge false true 1 0)
  else
    let t := expNegFx (toFx m e)
    if neg then stickyFx false (t * fxOne / (fxOne + t)) else stickyFx false (fxOne * fxOne / (fxOne + t))

/-- R160 and the exact results: the value that minor k of VSFU rounds, and the flags beyond rounding. -/
def sfuNum (k : Nat) (x : Dyad) : Dyad × Fl :=
  match x with
  | .nan => (.nan, 0)
  | .inf neg =>
    match k with
    | 0 => (.fin neg 0 0, 0)
    | 1 => if neg then (.nan, fIV) else (.fin false 0 0, 0)
    | 2 | 4 => if neg then (.nan, fIV) else (.inf false, 0)
    | 3 => if neg then (.fin false 0 0, 0) else (.inf false, 0)
    | 5 => (.fin neg 1 0, 0)
    | _ => if neg then (.fin false 0 0, 0) else (.fin false 1 0, 0)
  | .fin neg m e =>
    if m = 0 then
      match k with
      | 0 | 1 => (.inf neg, fDZ)
      | 2 | 5 => (.fin neg 0 0, 0)
      | 3 => (.fin false 1 0, 0)
      | 4 => (.inf true, fDZ)
      | _ => (.fin false 1 (-1), 0)
    else
      match k with
      | 0 => let (q, f) := divMag 1 0 m e; (.fin neg q f, 0)
      | 1 => if neg then (.nan, fIV) else
          -- 1/√x = √(1/x): exact exactly when both steps are
          let (r, er) := sqrtMag m e
          if (cmpMag (r * r) (2 * er) m e == .eq) then let (q, f) := divMag 1 0 r er; (.fin false q f, 0)
          else
            -- floor(2^(s) / √(m 2^e)) with a sticky bit: isqrt(2^(2 s) / (m 2^e))
            let e2 := if e % 2 = 0 then e else e - 1
            let m2 := if e % 2 = 0 then m else 2 * m
            let s := 200 + Nat.log2 m2
            let v := isqrt (2 ^ (2 * s) / m2)
            (.fin false (2 * v + 1) (-(s : Int) - e2 / 2 - 1), 0)
      | 2 => if neg then (.nan, fIV) else let (r, er) := sqrtMag m e; (.fin false r er, 0)
      | 3 => (exp2Num neg m e, 0)
      | 4 => if neg then (.nan, fIV) else (log2Num m e, 0)
      | 5 => (tanhNum neg m e, 0)
      | _ => (sigmNum neg m e, 0)

/-- R159: the delivered code and flags of minor k on an element of type t. In FP32, where the exact result is not
representable, one of its two neighbours is delivered: an infinity raises OF and NX as R34 gives for RNE, the largest finite
value NX alone. -/
def sfu (k : Nat) (t : ETy) (rm : RM) (n : Nat) (x : Dyad) : Nat × Fl :=
  let (v, f) := sfuNum k x
  if t == .fp32 && k ≠ 2 then
    let away := Config.sfuAway k (BitVec.ofNat 32 n)
    let m : RM := if away then (if v.isNeg then .rdn else .rup) else .rtz
    let (c, g) := roundF t m v
    (c, f ||| (if away then g else g &&& ~~~fOF))
  else
    let (c, g) := roundF t rm v
    (c, f ||| g)

end Sys2Proof.Machine
end

