-- ==== Sys2Proof/Machine/Sx.lean ====
section
/-! DEFINITION. SX blocks (02_numbers R29 to R32, R37): decoding, and quantising 32 values. -/

namespace Sys2Proof.Machine

/-- The scale exponent E of a scale word. -/
def sxE (scale : Nat) : Nat := scale % 256
/-- The shift of quarter q of a scale word. -/
def sxShift (scale q : Nat) : Nat := scale / 2 ^ (8 + 2 * q) % 4

/-- R31: element i of a block, from its scale word and its element bits. -/
def sxElem (m scale bits i : Nat) : Dyad :=
  if sxE scale = 255 then .nan
  else
    let c := bits / 2 ^ ((m + 1) * i) % 2 ^ (m + 1)
    let mag := c % 2 ^ m
    if mag = 0 then .fin false 0 0
    else .fin (c / 2 ^ m = 1) mag ((sxE scale : Int) - 127 - (m - 1 : Nat) - sxShift scale (i / 8))

/-- The values of a block's 32 elements. -/
def sxBlock (m scale bits : Nat) : List Dyad := (List.range 32).map (sxElem m scale bits)

/-- |x| < 2^t for a finite x; an infinity is below nothing. -/
def numBelow (x : Dyad) (t : Int) : Bool :=
  match x with
  | .fin _ m e => m = 0 || (Nat.log2 m : Int) + e < t
  | _ => false

/-- floor(log2 |x|) of a finite non-zero value. -/
def numLog (x : Dyad) : Option Int :=
  match x with
  | .fin _ m e => if m = 0 then none else some ((Nat.log2 m : Int) + e)
  | _ => none

/-- R37: the shift of a quarter under exponent e. -/
def sxQuarterShift (e : Nat) (xs : List Dyad) : Nat :=
  ([1, 2, 3] : List Nat).foldl (fun (sh k : Nat) => if xs.all (fun x => numBelow x ((e : Int) - 127 - (k : Nat))) then k else sh) 0

/-- R37: one element with the given step exponent: its code and flags, or none where the pass is abandoned. -/
def sxQuantElem (m : Nat) (rm : RM) (e : Nat) (step : Int) (x : Dyad) : Option (Nat × Fl) :=
  match x with
  | .nan => some (0, 0)
  | .inf neg => some ((if neg then 2 ^ m else 0) + (2 ^ m - 1), fOF ||| fNX)
  | .fin neg mg ex =>
    let (n, inex) := roundAt rm neg mg ex step
    if n > 2 ^ m - 1 then
      if e < 254 then none
      else some ((if neg then 2 ^ m else 0) + (2 ^ m - 1), fOF ||| fNX)
    else
      some ((if neg && n ≠ 0 then 2 ^ m else 0) + n,
            (if inex then fNX else 0) ||| (if n = 0 && mg ≠ 0 then fUF else 0))

/-- R37: one pass over the four quarters: shift byte, element bits, flags; none where it is abandoned. -/
def sxPass (m : Nat) (rm : RM) (e : Nat) (xs : List Dyad) : Option (Nat × Nat × Fl) :=
  (List.range 4).foldl (fun acc q =>
    match acc with
    | none => none
    | some (sh, bits, f) =>
      let quarter := (xs.drop (8 * q)).take 8
      let k := sxQuarterShift e quarter
      let step : Int := (e : Int) - 127 - (m - 1 : Nat) - k
      (quarter.zipIdx).foldl (fun acc xi =>
        match acc with
        | none => none
        | some (sh, bits, f) =>
          match sxQuantElem m rm e step xi.1 with
          | none => none
          | some (c, g) => some (sh, bits + c * 2 ^ ((m + 1) * (8 * q + xi.2)), f ||| g))
        (some (sh + k * 4 ^ q, bits, f)))
    (some (0, 0, 0))

/-- R37: the first exponent. -/
def sxFirstE (xs : List Dyad) : Nat :=
  match xs.filterMap numLog with
  | [] => if xs.any (fun x => match x with | .inf _ => true | _ => false) then 254 else 0
  | l :: ls => (max 0 (min 254 (ls.foldl max l + 127))).toNat

/-- R37: quantise 32 values: scale word, element bits, flags. The exponent rises at most once. -/
def sxQuant (m : Nat) (rm : RM) (xs : List Dyad) : Nat × Nat × Fl :=
  if xs.any (· == .nan) then (255, 0, fIV)
  else
    let e := sxFirstE xs
    match sxPass m rm e xs with
    | some (sh, bits, f) => (e + 256 * sh, bits, f)
    | none =>
      match sxPass m rm (e + 1) xs with
      | some (sh, bits, f) => (e + 1 + 256 * sh, bits, f)
      | none => (e + 1, 0, 0)

/-- The magnitude width of an SX format. -/
def Fmt.sxM : Fmt → Option Nat
  | .sx2 => some 2 | .sx4 => some 4 | .sx7 => some 7 | .el _ => none

/-- R170: VSCALE on one scale word: the new scale word and the flags. -/
def sxScaleWord (m : Nat) (s : Int) (scale bits : Nat) : Nat × Fl :=
  let e : Int := sxE scale
  let sh := scale / 256 % 256
  let some' := (List.range 32).any (fun i => bits / 2 ^ ((m + 1) * i) % 2 ^ m ≠ 0)
  if sxE scale = 255 then (scale % 65536, 0)
  else if e + s > 254 then (254 + 256 * sh, if some' then fOF ||| fNX else 0)
  else if e + s < 0 then (256 * sh, if some' then fUF ||| fNX else 0)
  else ((e + s).toNat + 256 * sh, 0)

end Sys2Proof.Machine
end

