-- ==== Sys2Proof/Machine/Vector.lean ====
section
/-! DEFINITION. Vector instructions (07_isa_vector). Each has a body (res…) and its meaning (exec…). -/

namespace Sys2Proof.Machine

/-! ### Shapes (R145 to R149) -/

/-- Flags of the lanes whose guard bit is 1. -/
def laneFlags (g : Pred) (rs : List (Nat × Fl)) : List (Nat × Fl) :=
  (rs.zipIdx).filterMap (fun xi => if g.getLsbD xi.2 && xi.1.2 != 0 then some (xi.2, xi.1.2) else none)

/-- A row result, lane by lane: sources are read, every lane is computed, flags of guarded lanes are raised, sources are
popped, and the destination takes the lanes whose guard bit is 1. -/
def rowOp (h : Hdr) (ty : ETy) (srcs : List (RSrc × Bool)) (d : RDst) (lanes : Iss (List (Nat × Fl))) : Iss Flow := do
  let g ← guardP h
  fieldOrder (some d) srcs
  let rs ← lanes
  let old ← oldRow d
  raiseLanes (rowIdOf d) (laneFlags g rs)
  popRows srcs
  wrR d (mergeLanes ty g old (rs.map (·.1)))
  pure .fall

def mr (a : MR) : RSrc × Bool := (a.src, a.mark)
def cr (a : CR) : RSrc × Bool := (a.src, a.mark)
def ms (a : MS) : RSrc × Bool := (.sc a.src, a.mark)

def vec1 (h : Hdr) (o : V1) (f : RowVal → Nat → Nat × Fl) : Iss Flow :=
  rowOp h o.ty [mr o.a] o.d (do
    let a ← rdR o.a.src
    pure ((List.range o.ty.lanes).map (f a)))
def vec2 (h : Hdr) (o : V2) (f : RowVal → RowVal → Nat → Nat × Fl) : Iss Flow :=
  rowOp h o.ty [mr o.a, mr o.b] o.d (do
    let a ← rdR o.a.src
    let b ← rdR o.b.src
    pure ((List.range o.ty.lanes).map (f a b)))
def vec3 (h : Hdr) (o : V3) (f : RowVal → RowVal → RowVal → Nat → Nat × Fl) : Iss Flow :=
  rowOp h o.ty [mr o.a, mr o.b, cr o.c] o.d (do
    let a ← rdR o.a.src
    let b ← rdR o.b.src
    let c ← rdR o.c.src
    pure ((List.range o.ty.lanes).map (f a b c)))

/-! ### VARITH (R150 to R153) -/

/-- Round the exact result of an operation, keeping the operation's own flags. -/
def finish (ty : ETy) (rm : RM) (x : Dyad × Fl) : Nat × Fl :=
  let r := roundF ty rm x.1
  (r.1, x.2 ||| r.2)
/-- Lane i of a row source as a signed integer. -/
def intAt (ty : ETy) (v : RowVal) (i : Nat) : Int := sint ty.bits (v.bitsAt ty i)
/-- A binary operation: on floats exact and rounded once, on integers as given. -/
def arith2 (ty : ETy) (rm : RM) (f : Dyad → Dyad → Dyad × Fl) (k : Int → Int → Nat × Fl) (a b : RowVal) (i : Nat) : Nat × Fl :=
  if ty.isFloat then finish ty rm (f (a.numAt ty i) (b.numAt ty i)) else k (intAt ty a i) (intAt ty b i)
def wrapI (ty : ETy) (i : Int) : Nat × Fl := (uintOf ty.bits i, 0)

def laneAdd (ty : ETy) (rm : RM) := arith2 ty rm (addNum rm) (fun x y => wrapI ty (x + y))
def laneSub (ty : ETy) (rm : RM) := arith2 ty rm (fun x y => addNum rm x y.neg) (fun x y => wrapI ty (x - y))
def laneMul (ty : ETy) (rm : RM) := arith2 ty rm mulNum (fun x y => wrapI ty (x * y))
def laneDiv (ty : ETy) (rm : RM) := arith2 ty rm divNum (fun x y => divS ty.bits x y)
def laneFma (ty : ETy) (rm : RM) (negp : Bool) (a b c : RowVal) (i : Nat) : Nat × Fl :=
  finish ty rm (fmaNum rm negp (a.numAt ty i) (b.numAt ty i) (c.numAt ty i))
/-- R153. A constant, LANE or special that the type does not hold is rounded to nearest even, with no flag (DESIGN CHOICE, log 12:
R65 rounds a result, R153 says that neither minor rounds). -/
def laneMinMax (ty : ETy) (wantMax : Bool) (a b : RowVal) (i : Nat) : Nat × Fl :=
  if ty.isFloat then ((roundF ty .rne (minmaxNum wantMax (a.numAt ty i) (b.numAt ty i))).1, 0)
  else
    let x := intAt ty a i
    let y := intAt ty b i
    wrapI ty (if wantMax then max x y else min x y)
def laneAbs (ty : ETy) (a : RowVal) (i : Nat) : Nat × Fl :=
  if ty.isFloat then (a.copyAt ty i % ty.signBit, 0) else wrapI ty (intAt ty a i).natAbs
def laneNeg (ty : ETy) (a : RowVal) (i : Nat) : Nat × Fl :=
  if ty.isFloat then ((a.copyAt ty i + ty.signBit) % 2 ^ ty.bits, 0) else wrapI ty (-(intAt ty a i))
def laneClamp (ty : ETy) (f : Int → Int → Int) (a b : RowVal) (i : Nat) : Nat × Fl := clampS ty.bits (f (intAt ty a i) (intAt ty b i))
def laneMulhi (ty : ETy) (a b : RowVal) (i : Nat) : Nat × Fl :=
  wrapI ty (intAt ty a i * intAt ty b i / (2 ^ ty.bits : Nat))

def resVadd (h : Hdr) (o : V2) : Iss Flow := vec2 h o (laneAdd o.ty o.rm)
def execVadd (h : Hdr) (o : V2) (s : State) := issue h (resVadd h o) s
def resVsub (h : Hdr) (o : V2) : Iss Flow := vec2 h o (laneSub o.ty o.rm)
def execVsub (h : Hdr) (o : V2) (s : State) := issue h (resVsub h o) s
def resVmul (h : Hdr) (o : V2) : Iss Flow := vec2 h o (laneMul o.ty o.rm)
def execVmul (h : Hdr) (o : V2) (s : State) := issue h (resVmul h o) s
def resVfma (h : Hdr) (o : V3) : Iss Flow := vec3 h o (laneFma o.ty o.rm false)
def execVfma (h : Hdr) (o : V3) (s : State) := issue h (resVfma h o) s
def resVfnma (h : Hdr) (o : V3) : Iss Flow := vec3 h o (laneFma o.ty o.rm true)
def execVfnma (h : Hdr) (o : V3) (s : State) := issue h (resVfnma h o) s
def resVdiv (h : Hdr) (o : V2) : Iss Flow := vec2 h o (laneDiv o.ty o.rm)
def execVdiv (h : Hdr) (o : V2) (s : State) := issue h (resVdiv h o) s
def resVmin (h : Hdr) (o : V2) : Iss Flow := vec2 h o (laneMinMax o.ty false)
def execVmin (h : Hdr) (o : V2) (s : State) := issue h (resVmin h o) s
def resVmax (h : Hdr) (o : V2) : Iss Flow := vec2 h o (laneMinMax o.ty true)
def execVmax (h : Hdr) (o : V2) (s : State) := issue h (resVmax h o) s
def resVabs (h : Hdr) (o : V1) : Iss Flow := vec1 h o (laneAbs o.ty)
def execVabs (h : Hdr) (o : V1) (s : State) := issue h (resVabs h o) s
def resVneg (h : Hdr) (o : V1) : Iss Flow := vec1 h o (laneNeg o.ty)
def execVneg (h : Hdr) (o : V1) (s : State) := issue h (resVneg h o) s
def resVadds (h : Hdr) (o : V2) : Iss Flow := vec2 h o (laneClamp o.ty (fun x y => x + y))
def execVadds (h : Hdr) (o : V2) (s : State) := issue h (resVadds h o) s
def resVsubs (h : Hdr) (o : V2) : Iss Flow := vec2 h o (laneClamp o.ty (fun x y => x - y))
def execVsubs (h : Hdr) (o : V2) (s : State) := issue h (resVsubs h o) s
def resVmulhi (h : Hdr) (o : V2) : Iss Flow := vec2 h o (laneMulhi o.ty)
def execVmulhi (h : Hdr) (o : V2) (s : State) := issue h (resVmulhi h o) s

/-! ### VLOGIC (R154) -/

def laneBits (ty : ETy) (f : Nat → Nat → Nat) (a b : RowVal) (i : Nat) : Nat × Fl :=
  (f (a.bitsAt ty i) (b.bitsAt ty i) % 2 ^ ty.bits, 0)
def notBits (ty : ETy) (x : Nat) : Nat := 2 ^ ty.bits - 1 - x % 2 ^ ty.bits
def resVand (h : Hdr) (o : V2) : Iss Flow := vec2 h o (laneBits o.ty (fun x y => x &&& y))
def execVand (h : Hdr) (o : V2) (s : State) := issue h (resVand h o) s
def resVor (h : Hdr) (o : V2) : Iss Flow := vec2 h o (laneBits o.ty (fun x y => x ||| y))
def execVor (h : Hdr) (o : V2) (s : State) := issue h (resVor h o) s
def resVxor (h : Hdr) (o : V2) : Iss Flow := vec2 h o (laneBits o.ty (fun x y => x ^^^ y))
def execVxor (h : Hdr) (o : V2) (s : State) := issue h (resVxor h o) s
def resVandn (h : Hdr) (o : V2) : Iss Flow := vec2 h o (laneBits o.ty (fun x y => x &&& notBits o.ty y))
def execVandn (h : Hdr) (o : V2) (s : State) := issue h (resVandn h o) s
def resVnot (h : Hdr) (o : V1) : Iss Flow := vec1 h o (fun a i => (notBits o.ty (a.bitsAt o.ty i), 0))
def execVnot (h : Hdr) (o : V1) (s : State) := issue h (resVnot h o) s
def resVshl (h : Hdr) (o : V2) : Iss Flow := vec2 h o (laneBits o.ty (fun x y => x <<< (y % o.ty.bits)))
def execVshl (h : Hdr) (o : V2) (s : State) := issue h (resVshl h o) s
def resVshr (h : Hdr) (o : V2) : Iss Flow := vec2 h o (laneBits o.ty (fun x y => x >>> (y % o.ty.bits)))
def execVshr (h : Hdr) (o : V2) (s : State) := issue h (resVshr h o) s
def resVsar (h : Hdr) (o : V2) : Iss Flow := vec2 h o (laneBits o.ty (fun x y => uintOf o.ty.bits (sint o.ty.bits x / (2 ^ (y % o.ty.bits) : Nat))))
def execVsar (h : Hdr) (o : V2) (s : State) := issue h (resVsar h o) s

/-! ### VCMP (R155) -/

def laneCmp (ty : ETy) (cc : Cond) (a b : RowVal) (i : Nat) : Bool :=
  if ty.isFloat then condOrd cc (cmpNum (a.numAt ty i) (b.numAt ty i))
  else if cc.unsigned then condOrd cc (some (compare (a.bitsAt ty i) (b.bitsAt ty i)))
  else condOrd cc (some (compare (intAt ty a i) (intAt ty b i)))

/-- A predicate from the bits of its lanes. -/
def mkPred (l : List Bool) : Pred := BitVec.ofNat 512 (l.foldr (fun b acc => b.toNat + 2 * acc) 0)
/-- R155, R166: lanes whose guard bit is 1 take the new bit, the other lanes keep theirs, bits 511:n are 0. -/
def mergePred (g old : Pred) (new : List Bool) : Pred :=
  mkPred (new.zipIdx.map (fun xi => if g.getLsbD xi.2 then xi.1 else old.getLsbD xi.2))

def resVcmp (h : Hdr) (cc : Cond) (o : VC) : Iss Flow := do
  let g ← guardP h
  fieldOrder none [mr o.a, mr o.b]
  let a ← rdR o.a.src
  let b ← rdR o.b.src
  let old ← rdP o.p.toNat
  popRows [mr o.a, mr o.b]
  wrP o.p.toNat (mergePred g old ((List.range o.ty.lanes).map (laneCmp o.ty cc a b)))
  pure .fall
def execVcmp (h : Hdr) (cc : Cond) (o : VC) (s : State) := issue h (resVcmp h cc o) s

/-! ### Moves (R156) -/

def resVsel (h : Hdr) (o : VSelF) : Iss Flow :=
  rowOp h o.ty [mr o.a, mr o.b] o.d (do
    let a ← rdR o.a.src
    let b ← rdR o.b.src
    let p ← rdP o.p.toNat
    pure ((List.range o.ty.lanes).map (fun i => ((if p.getLsbD i then a else b).copyAt o.ty i, 0))))
def execVsel (h : Hdr) (o : VSelF) (s : State) := issue h (resVsel h o) s
def resVmov (h : Hdr) (o : V1) : Iss Flow := vec1 h o (fun a i => (a.copyAt o.ty i, 0))
def execVmov (h : Hdr) (o : V1) (s : State) := issue h (resVmov h o) s
def resVbcast (h : Hdr) (o : VRS) : Iss Flow :=
  rowOp h o.ty [mr o.a, ms o.b] o.d (do
    let a ← rdR o.a.src
    let b ← rdS o.b.src
    pure ((List.range o.ty.lanes).map (fun _ => (a.copyAt o.ty (b.toNat % o.ty.lanes), 0))))
def execVbcast (h : Hdr) (o : VRS) (s : State) := issue h (resVbcast h o) s

/-- R156: an element widened to 64 bits: integers by sign, floats by zeros. -/
def widenElem (ty : ETy) (x : Nat) : Word :=
  if ty.isFloat then BitVec.ofNat 64 x else BitVec.ofInt 64 (sint ty.bits x)

def resVlane (h : Hdr) (o : VLaneF) : Iss Flow := do
  let g ← guardP h
  let a ← rdR o.a.src
  let b ← rdS o.b.src
  let i := b.toNat % o.ty.lanes
  popRows [mr o.a, ms o.b]
  if g.getLsbD i then wrS o.d (widenElem o.ty (a.copyAt o.ty i)) else wrS0 o.d
  pure .fall
def execVlane (h : Hdr) (o : VLaneF) (s : State) := issue h (resVlane h o) s

def resVins (h : Hdr) (o : VInsF) : Iss Flow := do
  let g ← guardP h
  let a ← rdS o.a.src
  let b ← rdS o.b.src
  let i := b.toNat % o.ty.lanes
  let old ← rdV o.d.toNat
  popMarks [msMk o.a, msMk o.b]
  if g.getLsbD i then
    wrV o.d.toNat (mkRow o.ty ((List.range o.ty.lanes).map (fun j => if j = i then a.toNat else laneOf o.ty old j)))
  else pure ()
  pure .fall
def execVins (h : Hdr) (o : VInsF) (s : State) := issue h (resVins h o) s

/-! ### VCVT (R157, R158) -/

/-- One element: integers narrow or widen by R28, everything else rounds once. -/
def laneCvt (dst src : ETy) (rm : RM) (a : RowVal) (i : Nat) : Nat × Fl :=
  if !src.isFloat && !dst.isFloat then narrowInt dst.bits (intAt src a i)
  else roundNum dst rm (a.numAt src i)

/-- The lane of the source that destination lane i takes, if any. -/
def cvtFrom (dst src : ETy) (p i : Nat) : Option Nat :=
  if dst.lanes < src.lanes then some (p * dst.lanes + i)
  else if src.lanes < dst.lanes then (if p * src.lanes ≤ i && i < p * src.lanes + src.lanes then some (i - p * src.lanes) else none)
  else some i

def resVcvt (h : Hdr) (o : VCvtF) : Iss Flow := do
  let g ← guardP h
  fieldOrder (some o.d) [mr o.a]
  let a ← rdR o.a.src
  let old ← oldRow o.d
  let p := o.part.k.toNat
  let rs := (List.range o.dst.lanes).map (fun i =>
    match cvtFrom o.dst o.src p i with
    | some j => laneCvt o.dst o.src o.rm a j
    | none => (laneOf o.dst old i, 0))
  raiseLanes (rowIdOf o.d) (laneFlags g rs)
  popRows [mr o.a]
  wrR o.d (mergeLanes o.dst g old (rs.map (·.1)))
  pure .fall
def execVcvt (h : Hdr) (o : VCvtF) (s : State) := issue h (resVcvt h o) s

/-! ### VSFU (R159, R160) -/

def laneSfu (k : Nat) (ty : ETy) (rm : RM) (a : RowVal) (i : Nat) : Nat × Fl :=
  sfu k ty rm (a.copyAt ty i) (a.numAt ty i)
def resVrecip (h : Hdr) (o : V1) : Iss Flow := vec1 h o (laneSfu 0 o.ty o.rm)
def execVrecip (h : Hdr) (o : V1) (s : State) := issue h (resVrecip h o) s
def resVrsqrt (h : Hdr) (o : V1) : Iss Flow := vec1 h o (laneSfu 1 o.ty o.rm)
def execVrsqrt (h : Hdr) (o : V1) (s : State) := issue h (resVrsqrt h o) s
def resVsqrt (h : Hdr) (o : V1) : Iss Flow := vec1 h o (laneSfu 2 o.ty o.rm)
def execVsqrt (h : Hdr) (o : V1) (s : State) := issue h (resVsqrt h o) s
def resVexp2 (h : Hdr) (o : V1) : Iss Flow := vec1 h o (laneSfu 3 o.ty o.rm)
def execVexp2 (h : Hdr) (o : V1) (s : State) := issue h (resVexp2 h o) s
def resVlog2 (h : Hdr) (o : V1) : Iss Flow := vec1 h o (laneSfu 4 o.ty o.rm)
def execVlog2 (h : Hdr) (o : V1) (s : State) := issue h (resVlog2 h o) s
def resVtanh (h : Hdr) (o : V1) : Iss Flow := vec1 h o (laneSfu 5 o.ty o.rm)
def execVtanh (h : Hdr) (o : V1) (s : State) := issue h (resVtanh h o) s
def resVsigm (h : Hdr) (o : V1) : Iss Flow := vec1 h o (laneSfu 6 o.ty o.rm)
def execVsigm (h : Hdr) (o : V1) (s : State) := issue h (resVsigm h o) s

/-! ### VRED (R44, R161 to R163) -/

/-- A node's value and the flags it raises. -/
abbrev Node := Dyad × Fl

/-- round(x + y) in a type; integers wrap. -/
def sumNode (ty : ETy) (rm : RM) (x y : Dyad) : Node :=
  if ty.isFloat then
    let r := finish ty rm (addNum rm x y)
    (decodeNum ty r.1, r.2)
  else
    match x, y with
    | .fin n1 m1 _, .fin n2 m2 _ => (decodeNum ty (uintOf ty.bits (toSigned n1 m1 + toSigned n2 m2)), 0)
    | _, _ => (.nan, 0)
def minmaxNode (ty : ETy) (wantMax : Bool) (x y : Dyad) : Node :=
  if ty.isFloat then (decodeNum ty (roundF ty .rne (minmaxNum wantMax x y)).1, 0)
  else (match cmpNum x y with | some .lt => if wantMax then y else x | _ => if wantMax then x else y, 0)

/-- One level of the pairwise tree: neighbours combine, flags accumulate. -/
def treeLevel (f : Dyad → Dyad → Node) : List Dyad → List Dyad × Fl
  | x :: y :: t =>
    let (l, fl) := treeLevel f t
    let (z, g) := f x y
    (z :: l, g ||| fl)
  | l => (l, 0)
/-- R44: k levels reduce 2^k values to one. -/
def tree (f : Dyad → Dyad → Node) : Nat → List Dyad → Dyad × Fl
  | 0, l => (l.headD .nan, 0)
  | k + 1, l =>
    let (l', g) := treeLevel f l
    let (r, g') := tree f k l'
    (r, g ||| g')

def negZero (ty : ETy) : Dyad := .fin ty.isFloat 0 0
/-- R161: the identity of an inactive lane of VREDMAX or VREDMIN. -/
def minmaxId (ty : ETy) (wantMax : Bool) : Dyad :=
  if ty.isFloat then (if ty.hasInf then .inf wantMax else .fin wantMax 448 0)
  else if wantMax then Dyad.ofInt (-(2 ^ (ty.bits - 1) : Nat)) else Dyad.ofInt ((2 ^ (ty.bits - 1) : Nat) - 1)
/-- An element's code from its value: exact, or rounded without a flag where a constant stood alone (log 12). -/
def codeOf (ty : ETy) (x : Dyad) : Nat :=
  if ty.isFloat then (roundF ty .rne x).1 else (roundI ty.bits .rtz x).1

def reduce (h : Hdr) (o : VRedF) (f : Dyad → Dyad → Node) (ident : Dyad) : Iss Flow := do
  let g ← guardP h
  let a ← rdR o.a.src
  let leaves := (List.range o.ty.lanes).map (fun i => if g.getLsbD i then a.numAt o.ty i else ident)
  let r := tree f (Nat.log2 o.ty.lanes) leaves
  raiseI 255 0 r.2
  popRows [mr o.a]
  wrS o.d (widenElem o.ty (codeOf o.ty r.1))
  pure .fall
def resVredsum (h : Hdr) (o : VRedF) : Iss Flow := reduce h o (sumNode o.ty o.rm) (negZero o.ty)
def execVredsum (h : Hdr) (o : VRedF) (s : State) := issue h (resVredsum h o) s
def resVredmax (h : Hdr) (o : VRedF) : Iss Flow := reduce h o (minmaxNode o.ty true) (minmaxId o.ty true)
def execVredmax (h : Hdr) (o : VRedF) (s : State) := issue h (resVredmax h o) s
def resVredmin (h : Hdr) (o : VRedF) : Iss Flow := reduce h o (minmaxNode o.ty false) (minmaxId o.ty false)
def execVredmin (h : Hdr) (o : VRedF) (s : State) := issue h (resVredmin h o) s

/-- R163: one step of the scan at distance d; each lane carries the flags of its tree. -/
def scanStep (f : Dyad → Dyad → Node) (d : Nat) (t : List Node) : List Node :=
  t.take d ++ List.zipWith (fun x y => let z := f x.1 y.1; (z.1, x.2 ||| y.2 ||| z.2)) t (t.drop d)
def scan (f : Dyad → Dyad → Node) : Nat → Nat → List Node → List Node
  | 0, _, t => t
  | k + 1, d, t => scan f k (2 * d) (scanStep f d t)
/-- R163. No node feeds lane 0, which is moved unchanged (R26). -/
def resVscansum (h : Hdr) (o : V1) : Iss Flow := do
  let g ← guardP h
  rowOp h o.ty [mr o.a] o.d (do
    let a ← rdR o.a.src
    let t := (List.range o.ty.lanes).map (fun i => ((if g.getLsbD i then a.numAt o.ty i else negZero o.ty), (0 : Fl)))
    let first := if g.getLsbD 0 then a.copyAt o.ty 0 else codeOf o.ty (negZero o.ty)
    pure ((scan (sumNode o.ty o.rm) (Nat.log2 o.ty.lanes) 1 t).zipIdx.map (fun x =>
      (if x.2 = 0 then first else codeOf o.ty x.1.1, x.1.2))))
def execVscansum (h : Hdr) (o : V1) (s : State) := issue h (resVscansum h o) s

/-! ### VPERM (R164) -/

def permIdx (ty : ETy) (b : RowVal) (i : Nat) : Nat :=
  if ty.bytes = 1 then i / 256 * 256 + b.bitsAt ty i else b.bitsAt ty i % ty.lanes
def resVperm (h : Hdr) (o : V2) : Iss Flow := vec2 h o (fun a b i => (a.copyAt o.ty (permIdx o.ty b i), 0))
def execVperm (h : Hdr) (o : V2) (s : State) := issue h (resVperm h o) s
def resVrot (h : Hdr) (o : VRS) : Iss Flow :=
  rowOp h o.ty [mr o.a, ms o.b] o.d (do
    let a ← rdR o.a.src
    let b ← rdS o.b.src
    pure ((List.range o.ty.lanes).map (fun i => (a.copyAt o.ty ((i + b.toNat % o.ty.lanes) % o.ty.lanes), 0))))
def execVrot (h : Hdr) (o : VRS) (s : State) := issue h (resVrot h o) s
def zipOp (h : Hdr) (o : VZipF) (f : RowVal → RowVal → Nat → Nat) : Iss Flow :=
  rowOp h o.ty [mr o.a, mr o.b] o.d (do
    let a ← rdR o.a.src
    let b ← rdR o.b.src
    pure ((List.range o.ty.lanes).map (fun i => (f a b i, 0))))
def resVzip (h : Hdr) (o : VZipF) : Iss Flow :=
  zipOp h o (fun a b i => (if i % 2 = 0 then a else b).copyAt o.ty (o.h.toNat * (o.ty.lanes / 2) + i / 2))
def execVzip (h : Hdr) (o : VZipF) (s : State) := issue h (resVzip h o) s
def resVunzip (h : Hdr) (o : VZipF) : Iss Flow :=
  zipOp h o (fun a b i =>
    if i < o.ty.lanes / 2 then a.copyAt o.ty (2 * i + o.h.toNat)
    else b.copyAt o.ty (2 * (i - o.ty.lanes / 2) + o.h.toNat))
def execVunzip (h : Hdr) (o : VZipF) (s : State) := issue h (resVunzip h o) s

/-! ### The counter-based generator (R165, R166) -/

def rngRound (x : Word) : Word :=
  let x := x ^^^ (x >>> 29)
  let x := x * 0x9E6C63D0676A9A99
  x ^^^ (x >>> 32)
/-- The output for a key and a counter. -/
def rng (key ctr : Word) : Nat := (rngRound (rngRound (rngRound (key ^^^ ctr)))).toNat / 2 ^ 32
def resVrng (h : Hdr) (o : VRngF) : Iss Flow :=
  rowOp h .i32 [ms o.a, ms o.b] o.d (do
    let key ← rdS o.a.src
    let base ← rdS o.b.src
    pure ((List.range 128).map (fun i => (rng key (base + BitVec.ofNat 64 i), 0))))
def execVrng (h : Hdr) (o : VRngF) (s : State) := issue h (resVrng h o) s
def resVrngp (h : Hdr) (o : VRngPF) : Iss Flow := do
  let g ← guardP h
  let key ← rdS o.a.src
  let base ← rdS o.b.src
  let c ← rdS o.c.src
  let old ← rdP o.p.toNat
  popMarks [msMk o.a, msMk o.b, csMk o.c]
  wrP o.p.toNat (mergePred g old ((List.range o.ty.lanes).map (fun i => decide (rng key (base + BitVec.ofNat 64 i) < c.toNat % 2 ^ 32))))
  pure .fall
def execVrngp (h : Hdr) (o : VRngPF) (s : State) := issue h (resVrngp h o) s

/-! ### SX rows (R167 to R171) -/

/-- The element planes' length in bytes. -/
def sxPlane (n m : Nat) : Nat := n * (m + 1) / 8
/-- The element bits and the scale word of block b of an SX row. -/
def sxRowBits (m b : Nat) (r : Row) : Nat := r.toNat / 2 ^ (32 * (m + 1) * b) % 2 ^ (32 * (m + 1))
def sxRowScale (n m b : Nat) (r : Row) : Nat := r.toNat / 2 ^ (8 * (sxPlane n m + 2 * b)) % 2 ^ 16
/-- An SX row from its blocks (element bits, scale word) and the bits of its padding. -/
def sxRow (n m : Nat) (bs : List (Nat × Nat)) (pad : Nat) : Row :=
  BitVec.ofNat 4096
    (bs.foldr (fun b acc => b.1 + acc * 2 ^ (32 * (m + 1))) 0 +
     (bs.foldr (fun b acc => b.2 + acc * 2 ^ 16) 0) * 2 ^ (8 * sxPlane n m) +
     pad * 2 ^ (8 * (sxPlane n m + n / 16)))
def sxPad (n m : Nat) (r : Row) : Nat := r.toNat / 2 ^ (8 * (sxPlane n m + n / 16))
/-- What a row field delivers as a whole row, for operands read as SX (log 12). -/
def RowVal.asRow (ty : ETy) (v : RowVal) : Row :=
  match v with
  | .row r => r
  | _ => mkRow ty ((List.range ty.lanes).map (v.bitsAt ty))

def resVquant (h : Hdr) (o : VSxF) : Iss Flow := do
  let g ← guardP h
  fieldOrder (some o.d) [mr o.a]
  let a ← rdR o.a.src
  let old ← oldRow o.d
  let n := o.ty.lanes
  let m := o.m.toNat
  let q := (List.range (n / 32)).map (fun b => sxQuant m o.rm ((List.range 32).map (fun j => a.numAt o.ty (32 * b + j))))
  let on (b : Nat) : Bool := g.getLsbD (32 * b)
  raiseLanes (rowIdOf o.d) ((q.zipIdx).filterMap (fun x => if on x.2 && x.1.2.2 != 0 then some (32 * x.2, x.1.2.2) else none))
  let blocks := (q.zipIdx).map (fun x => if on x.2 then (x.1.2.1, x.1.1) else (sxRowBits m x.2 old, sxRowScale n m x.2 old))
  let some' := (List.range (n / 32)).any on
  popRows [mr o.a]
  wrR o.d (sxRow n m blocks (if some' then 0 else sxPad n m old))
  pure .fall
def execVquant (h : Hdr) (o : VSxF) (s : State) := issue h (resVquant h o) s

def resVdeq (h : Hdr) (o : VSxF) : Iss Flow :=
  rowOp h o.ty [mr o.a] o.d (do
    let a ← rdR o.a.src
    let r := a.asRow o.ty
    let n := o.ty.lanes
    let m := o.m.toNat
    pure ((List.range n).map (fun i =>
      roundF o.ty o.rm (sxElem m (sxRowScale n m (i / 32) r) (sxRowBits m (i / 32) r) (i % 32)))))
def execVdeq (h : Hdr) (o : VSxF) (s : State) := issue h (resVdeq h o) s

def resVscale (h : Hdr) (o : VScaleF) : Iss Flow := do
  let g ← guardP h
  fieldOrder (some o.d) [mr o.a, ms o.b]
  let a ← rdR o.a.src
  let sv ← rdS o.b.src
  let old ← oldRow o.d
  let n := o.ty.lanes
  let m := o.m.toNat
  let r := a.asRow o.ty
  let on (b : Nat) : Bool := g.getLsbD (32 * b)
  let q := (List.range (n / 32)).map (fun b => sxScaleWord m sv.toInt (sxRowScale n m b r) (sxRowBits m b r))
  raiseLanes (rowIdOf o.d) ((q.zipIdx).filterMap (fun x => if on x.2 && x.1.2 != 0 then some (32 * x.2, x.1.2) else none))
  let blocks := (q.zipIdx).map (fun x => if on x.2 then (sxRowBits m x.2 r, x.1.1) else (sxRowBits m x.2 old, sxRowScale n m x.2 old))
  popRows [mr o.a, ms o.b]
  wrR o.d (sxRow n m blocks (sxPad n m r))
  pure .fall
def execVscale (h : Hdr) (o : VScaleF) (s : State) := issue h (resVscale h o) s

end Sys2Proof.Machine
end

