-- ==== Sys2Proof/Machine/MatrixNum.lean ====
section
/-! DEFINITION. The numbers of a nest record (08_isa_matrix): packed rows (R173, R30), the numerics profiles (R180 to R184),
the Hadamard rotation (R189, R442), drained and loaded rows (R191, R194), compressed panels (R187). -/

namespace Sys2Proof

/-- Bytes of n values of a format in split form: an element plane, then one scale word for each 32 values (R173, R187). -/
def Fmt.rowBytes (n : Nat) : Fmt → Nat
  | .el t => n * t.bytes
  | .sx2 => n * 3 / 8 + n / 32 * 2
  | .sx4 => n * 5 / 8 + n / 32 * 2
  | .sx7 => n * 8 / 8 + n / 32 * 2

end Sys2Proof

namespace Sys2Proof.Machine

/-- Bits of an element of a split SX plane. -/
def sxM (f : Fmt) : Nat := (Fmt.sxM f).getD 0

/-- R30, R31: value k of a split SX group of n values whose bytes are the number v. -/
def splitElem (m n v k : Nat) : Dyad :=
  let plane := v % 2 ^ (n * (m + 1))
  let scale := v / 2 ^ (n * (m + 1) + 16 * (k / 32)) % 2 ^ 16
  sxElem m scale (plane / 2 ^ ((m + 1) * 32 * (k / 32))) (k % 32)

/-- The n values of a packed row (R173). -/
def packedVals (f : Fmt) (n : Nat) (bs : List Byte) : List Dyad :=
  let v := leNat bs
  match f with
  | .el t => (List.range n).map (fun i => decodeNum t (v / 2 ^ (t.bits * i) % 2 ^ t.bits))
  | _ => (List.range n).map (splitElem (sxM f) n v)

/-- The rows of an image of rows of w bytes each. -/
def cutRows (w : Nat) (bs : List Byte) (n : Nat) : List (List Byte) := (List.range n).map (fun i => (bs.drop (w * i)).take w)

/-! ### Profiles -/

/-- A pair of the products of an output: A and B elements; none for a position that MMAS did not store, whose product is an
exact +0 (R187). -/
abbrev Pair := Option (Dyad × Dyad)

def plusZero : Dyad := .fin false 0 0
def pairProd : Pair → Dyad × Fl
  | none => (plusZero, 0)
  | some (a, b) => mulNum a b
def isInf (neg : Bool) (x : Dyad) : Bool := x == .inf neg

/-- R181: one product truncated towards zero to a multiple of 2^q, in units of 2^q, and whether that changed it. -/
def truncTo (q : Int) : Dyad → Int × Bool
  | .fin neg m e => let (n, inex) := roundAt .rtz neg m e q; (toSigned neg n, inex)
  | _ => (0, false)

/-- R181: a group sum under width w and factor c: an FP32 code and its flags. -/
def groupSum (w : Nat) (c : Dyad) (ps : List (Dyad × Fl)) : Nat × Fl :=
  let both := ps.any (fun p => isInf false p.1) && ps.any (fun p => isInf true p.1)
  let zeroInf := ps.any (fun p => p.2 ≠ 0)
  if both || ps.any (fun p => p.1 == .nan) then (ETy.fp32.nanCode, if both || zeroInf then fIV else 0)
  else if ps.any (fun p => isInf false p.1) then roundF .fp32 .rne (.inf false)
  else if ps.any (fun p => isInf true p.1) then roundF .fp32 .rne (.inf true)
  else
    match ps.filterMap (fun p => numLog p.1) with
    | [] => (0, 0)
    | l :: ls =>
      let q : Int := ls.foldl max l - w
      let ts := ps.map (fun p => truncTo q p.1)
      let sum := (ts.map (·.1)).foldl (· + ·) 0
      let (v, f) := mulNum c (.fin (sum < 0) sum.natAbs q)
      let (g, f') := roundF .fp32 .rne v
      (g, f ||| f' ||| (if ts.any (·.2) then fNX else 0))

/-- acc := round(acc + g), or g itself where the row has no value yet (R179, R181). -/
def accAdd (acc : Option Nat × Fl) (g : Nat × Fl) : Option Nat × Fl :=
  match acc.1 with
  | none => (some g.1, acc.2 ||| g.2)
  | some a =>
    let (v, f) := addNum .rne (decodeNum .fp32 a) (decodeNum .fp32 g.1)
    let (r, f') := roundF .fp32 .rne v
    (some r, acc.2 ||| g.2 ||| f ||| f')

def chunksOf {α : Type} (n : Nat) (l : List α) : List (List α) := (List.range (l.length / n)).map (fun q => (l.drop (q * n)).take n)

/-- R182: a group of profile 4: rounded products, then the pairwise tree. -/
def treeSum (ps : List (Dyad × Fl)) : Nat × Fl :=
  let ts := ps.map (fun p => let (c, f) := roundF .fp32 .rne p.1; (decodeNum .fp32 c, p.2 ||| f))
  let (v, f) := tree (sumNode .fp32 .rne) 4 (ts.map (·.1))
  (codeOf .fp32 v, (ts.map (·.2)).foldl (· ||| ·) f)

/-- R183: the value of an exact integer. -/
def intOf : Dyad → Int
  | .fin neg m e => toSigned neg (m <<< e.toNat)
  | _ => 0

/-- R184: one step of profile 6. -/
def fmaStep (acc : Option Nat × Fl) (p : Pair) : Option Nat × Fl :=
  match p, acc.1 with
  | none, none => (some 0, acc.2)
  | none, some a =>
    let (v, f) := addNum .rne (decodeNum .fp32 a) plusZero
    let (r, f') := roundF .fp32 .rne v
    (some r, acc.2 ||| f ||| f')
  | some (a, b), none =>
    let (v, f) := mulNum a b
    let (r, f') := roundF .fp32 .rne v
    (some r, acc.2 ||| f ||| f')
  | some (a, b), some c =>
    let (v, f) := fmaNum .rne false a b (decodeNum .fp32 c)
    let (r, f') := roundF .fp32 .rne v
    (some r, acc.2 ||| f ||| f')

/-- R181 to R184: one output of a step: the 32 bits of its accumulator element (none before the row's first write under ZA)
and the 128 pairs give the new 32 bits and the flags. -/
def profileElem (prof : Nat) (c : Dyad) (acc : Option Nat) (ps : List Pair) : Nat × Fl :=
  let byGroups (n : Nat) (f : List (Dyad × Fl) → Nat × Fl) : Nat × Fl :=
    let r := (chunksOf n (ps.map pairProd)).foldl (fun a g => accAdd a (f g)) (acc, 0)
    (r.1.getD 0, r.2)
  match prof with
  | 1 => byGroups 16 (groupSum 36 c)
  | 3 => byGroups 128 (groupSum 52 c)
  | 4 => byGroups 16 treeSum
  | 5 =>
    let sum := (ps.map (fun p => intOf (pairProd p).1)).foldl (· + ·) ((acc.map (sint 32)).getD 0)
    let (r, f) := narrowInt 32 sum
    (r, if f = 0 then 0 else fSAT)
  | 6 => let r := ps.foldl fmaStep (acc, 0); (r.1.getD 0, r.2)
  | _ => byGroups 32 (groupSum 44 c)

/-- R180: the operand formats and the scale stream that a profile accepts. -/
def pairingOk (prof : Nat) (a b : Fmt) (scale : Bool) : Bool :=
  let fl : Fmt → Bool := fun f => match f with | .el t => t.isFloat | _ => true
  let half : Fmt → Bool := fun f => f == .el .bf16 || f == .el .fp16
  match prof with
  | 4 => half a && half b && !scale
  | 5 => a == .el .i8 && b == .el .i8 && !scale
  | 6 => a == .el .fp32 && b == .el .fp32 && !scale
  | _ => fl a && fl b

/-! ### Compressed panels (R187) -/

/-- The dense row that a half row describes: the live chunks of the bitmap byte, the row's index entries of the eight chunks,
and the half row's values. -/
def denseRow (live : Nat) (entry : Nat → Nat) (vals : List Dyad) : List (Option Dyad) :=
  (List.range 128).map (fun k =>
    let c := k / 16
    if live / 2 ^ c % 2 = 0 then none
    else
      let n := ((List.range c).filter (fun b => live / 2 ^ b % 2 = 1)).length
      let g := k % 16 / 4
      let i0 := entry c / 2 ^ (4 * g) % 4
      let i1 := entry c / 2 ^ (4 * g + 2) % 4
      if k % 4 = i0 then vals[8 * n + 2 * g]?
      else if k % 4 = i1 && i0 < i1 then vals[8 * n + 2 * g + 1]?
      else none)

/-- Bytes that 8 values of a format take in an element plane. -/
def eightBytes : Fmt → Nat
  | .el t => 8 * t.bytes
  | .sx2 => 3
  | .sx4 => 5
  | .sx7 => 8
def popcount8 (n : Nat) : Nat := ((List.range 8).filter (fun c => n / 2 ^ c % 2 = 1)).length
/-- R187: byte i of a compressed panel belongs to a live chunk's values, or is a scale word of their block. -/
def usesHalf (f : Fmt) (live i : Nat) : Bool :=
  let o := i % f.rowBytes 64
  o < popcount8 live * eightBytes f || (8 * eightBytes f ≤ o && 4 * ((o - 8 * eightBytes f) / 2) < popcount8 live)
/-- R187: byte i of a B tile belongs to the row of a k-index of a live chunk; in a transposed tile, to the chunk's values within
a row, or is the scale word of their block. -/
def usesTile (f : Fmt) (bt : Bool) (live i : Nat) : Bool :=
  let w := f.rowBytes 128
  let on (c : Nat) : Bool := live / 2 ^ c % 2 = 1
  if bt then
    let o := i % w
    let plane := 16 * eightBytes f
    if o < plane then on (o / (2 * eightBytes f)) else let b := (o - plane) / 2; on (2 * b) || on (2 * b + 1)
  else on (i / w / 16)

/-! ### The Hadamard store (R189) -/

/-- R189: the masks of selects 2 to 15. -/
def hadMasks : List Nat :=
  [0x9A3C5E7104D8B62FE14738AC6B05D9F2, 0x3F06C8A17D52E94B58B30E6DA1C72F94, 0xD4128F6BA93E057CC6E0B74D1A28F35B,
   0x61E90B37F2C48D5A2D7F93B146EAC018, 0xB8C5E21D6A0743F9907A5C4EE3B21D66, 0x0E7B91F4C35A2D88F41CA6D37B095E2A,
   0x7452AD0CE8B19F363A9E0F27C584D1B7, 0xC9F03B6E154AD7286E15B8C20D7FA493, 0x25ADF7698E03C1B4D83B6A90F1E42C5D,
   0xE16F4A923CD7B0851FC6E52D84379BA0, 0x4B3807DEA6F15C29B5921D7E6C0AF3E4, 0x8DE4C25B0973F6A14720FCB9D35E8A16,
   0x1C976E80BD452AF3A5DB371892C04EF9, 0xF2A159C3E70D846B0B64C9F52A8DB173]

/-- R189: whether the coefficient H(i, j) × d_s[i] is −1. -/
def hadNeg (sel i j : Nat) : Bool :=
  let par := ((List.range 7).filter (fun b => (i &&& j) / 2 ^ b % 2 = 1)).length % 2 = 1
  let d := 2 ≤ sel && hadMasks.getD (sel - 2) 0 / 2 ^ i % 2 = 1
  par != d

/-- R442: lane j of a row rotated with select sel and scale hk, and whether opposite infinities met in it. -/
def rotLane (rm : RM) (sel hk : Nat) (v : List Dyad) (j : Nat) : Dyad × Bool :=
  let ts := if sel = 0 then [v.getD j plusZero] else v.zipIdx.map (fun xi => if hadNeg sel xi.2 j then xi.1.neg else xi.1)
  let pos := ts.any (isInf false)
  let ng := ts.any (isInf true)
  if ts.any (· == .nan) then (.nan, false)
  else if pos && ng then (.nan, true)
  else if pos then (.inf false, false)
  else if ng then (.inf true, false)
  else
    let es := ts.map (fun t => match t with | .fin _ _ e => e | _ => 0)
    let e := es.foldl min (es.headD 0)
    let sum : Int := (ts.map (fun t => match t with | .fin n m x => toSigned n (m <<< (x - e).toNat) | _ => 0)).foldl (· + ·) 0
    if sum ≠ 0 then (.fin (sum < 0) sum.natAbs (e - hk), false)
    else
      let zero (neg : Bool) : Bool := ts.all (fun t => match t with | .fin n m _ => m == 0 && n == neg | _ => false)
      (.fin (if zero true then true else if zero false then false else rm == .rdn) 0 0, false)

def rotRow (rm : RM) (sel hk : Nat) (v : List Dyad) : List (Dyad × Bool) := (List.range 128).map (rotLane rm sel hk v)

/-- The 128 values of an accumulator row, read as FP32 or as INT32. -/
def accVals (t : ETy) (r : Row) : List Dyad := (List.range 128).map (fun i => decodeNum t (laneOf t r i))

/-- Flags of the lanes of one row, by (row, lane). -/
abbrev Raised := List (Nat × Nat × BitVec 6)
def raisedOf (row : Nat) (fs : List Fl) : Raised := (fs.zipIdx.filter (fun f => f.1 ≠ 0)).map (fun f => (row, f.2, f.1))

/-- R190: a row rotated in place. -/
def hadRow (row sel hk : Nat) (r : Row) : Row × Raised :=
  let out := (rotRow .rne sel hk (accVals .fp32 r)).map (fun x =>
    let (c, f) := roundF .fp32 .rne x.1
    (c, f ||| (if x.2 then fIV else 0)))
  (mkRow .fp32 (out.map (·.1)), raisedOf row (out.map (·.2)))

/-- R191: one drained row: its packed bytes in a format, and the flags. -/
def drainRow (f : Fmt) (rm : RM) (row sel hk : Nat) (r : Row) : List Byte × Raised :=
  match f with
  | .el t =>
    let out := (rotRow rm sel hk (accVals (if t.isFloat then .fp32 else .i32) r)).map (fun x =>
      let (c, g) := roundNum t rm x.1
      (c, g ||| (if x.2 then fIV else 0)))
    (out.flatMap (fun x => natLe t.bytes x.1), raisedOf row (out.map (·.2)))
  | _ =>
    let m := sxM f
    let blocks : List (Nat × Nat × BitVec 6) := (chunksOf 32 (rotRow rm sel hk (accVals .fp32 r))).map (fun b =>
      let (sc, bits, g) := sxQuant m rm (b.map (·.1))
      (sc, bits, (g : BitVec 6) ||| (if b.any (·.2) then fIV else 0)))
    let plane := (blocks.zipIdx.map (fun b => b.1.2.1 * 2 ^ (32 * (m + 1) * b.2))).foldl (· + ·) 0
    (natLe (16 * (m + 1)) plane ++ blocks.flatMap (fun b => natLe 2 b.1),
     (blocks.zipIdx.filter (fun b => b.1.2.2 ≠ 0)).map (fun b => ((row, 32 * b.2, b.1.2.2) : Nat × Nat × BitVec 6)))

/-- R194: an element widened to 32 bits; the NaN of an element format is copied, not made canonical. -/
def widenBits (t : ETy) (n : Nat) : Nat :=
  if t.isFloat then
    if decodeNum t n = .nan then
      (if n % (2 * t.signBit) ≥ t.signBit then 2 ^ 31 else 0) + 0x7F800000 + n % 2 ^ t.mbits * 2 ^ (23 - t.mbits)
    else (roundF .fp32 .rne (decodeNum t n)).1
  else uintOf 32 (sint t.bits n)

/-- R194: a packed row loaded into an accumulator row. -/
def loadRow (f : Fmt) (bs : List Byte) : Row :=
  match f with
  | .el t => mkRow .fp32 ((List.range 128).map (fun i => widenBits t (leNat bs / 2 ^ (t.bits * i) % 2 ^ t.bits)))
  | _ => mkRow .fp32 ((packedVals f 128 bs).map (fun x => (roundF .fp32 .rne x).1))

/-- R195: row i of n transposed rows: lane j is lane i of row j for j below n, and the old lane from n on. -/
def transRow (n i : Nat) (old : List Row) : Row :=
  mkRow .fp32 ((List.range 128).map (fun j => if j < n then laneOf .fp32 (old.getD j 0) i else laneOf .fp32 (old.getD i 0) j))

end Sys2Proof.Machine
end

