-- ==== Sys2Proof/Machine/Matrix.lean ====
section
/-! DEFINITION. Nest records (08_isa_matrix R172 to R200): the checks at issue, the steps, retirement, MWAIT and MSTAT. -/

namespace Sys2Proof.Machine

/-! ### The nest of a record in flight (R174 to R176) -/

def fmtAt (w : Word) (lo : Nat) : Fmt := (decFmt (BitVec.ofNat 4 (bits w (lo + 3) lo))).getD (.el .fp32)
def Flight.afmt (f : Flight) : Fmt := fmtAt (f.w 7) 8
def Flight.bfmt (f : Flight) : Fmt := fmtAt (f.w 7) 12
def Flight.dfmt (f : Flight) : Fmt := fmtAt (f.w 6) 23
def Flight.drnd (f : Flight) : RM := decRM (BitVec.ofNat 2 (bits (f.w 6) 28 27))
def Flight.hsel (f : Flight) : Nat := bits (f.w 6) 19 16
def Flight.hk (f : Flight) : Nat := bits (f.w 6) 22 20
def Flight.bmoff (f : Flight) : Nat := 64 * bits (f.w 6) 15 0
def Flight.spidx (f : Flight) : Nat := 64 * bits (f.w 7) 31 16
def Flight.za (f : Flight) : Bool := f.flagsB % 2 = 1
def Flight.bt (f : Flight) : Bool := f.flagsB / 8 % 2 = 1
def Flight.prof (f : Flight) : Nat := bits (f.w 0) 39 32
/-- The profile applied: 0 is profile 2 (R94). -/
def Flight.profUsed (f : Flight) : Nat := if !f.isMma then 0 else if f.prof = 0 then 2 else f.prof

/-- Steps of a record (R174, R196). -/
def Flight.steps (f : Flight) : Nat := if f.isMma then f.tripN 0 * f.tripN 1 * f.tripN 2 * f.tripN 3 else 1
/-- The nest point of step s, level 0 innermost. -/
def Flight.point (f : Flight) (s i : Nat) : Nat :=
  match i with
  | 0 => s % f.tripN 0
  | 1 => s / f.tripN 0 % f.tripN 1
  | 2 => s / (f.tripN 0 * f.tripN 1) % f.tripN 2
  | _ => s / (f.tripN 0 * f.tripN 1 * f.tripN 2) % f.tripN 3
def Flight.affine (f : Flight) (word s : Nat) : Int :=
  ((List.range 4).map (fun i => (f.point s i : Int) * f.strideN word i)).foldl (· + ·) 0
/-- R174: the index of an operand (word 2 A, 3 B, 5 scale) at step s. -/
def Flight.idx (f : Flight) (word s : Nat) : Int :=
  if (List.range 4).all (fun i => f.strideN word i == 0) then (s : Int) else f.affine word s
def Flight.idxs (f : Flight) (word : Nat) : List Int := (List.range f.steps).map (f.idx word)
/-- R174: the first accumulator row of step s. -/
def Flight.arow (f : Flight) (s : Nat) : Int := (f.acc : Int) + f.affine 4 s

/-- Least of each suffix. -/
def sufMins : List Int → List Int
  | [] => []
  | a :: t =>
    match sufMins t with
    | [] => [a]
    | m :: ms => min a m :: m :: ms
/-- R176: the span: one more than the greatest index. -/
def spanOfIdx (l : List Int) : Int := l.foldl max 0 + 1
/-- R175, R176: units popped before each step, and at the end. -/
def popsOf (l : List Int) : List Int := 0 :: ((sufMins l).drop 1 ++ [spanOfIdx l])
def Flight.popped (f : Flight) (word s : Nat) : Int := (popsOf (f.idxs word)).getD s 0
/-- The unit that step s reads, counted from the operand's present position. -/
def Flight.rel (f : Flight) (word s : Nat) : Nat := (f.idx word s - f.popped word s).toNat
/-- Units that the commit of step s pops. -/
def Flight.popAt (f : Flight) (word s : Nat) : Nat := (f.popped word (s + 1) - f.popped word s).toNat

/-- R173, R187: bytes of an A panel and of a B tile. -/
def Flight.abytes (f : Flight) : Nat := 16 * f.afmt.rowBytes (if f.op = 2 then 64 else 128)
def Flight.bbytes (f : Flight) : Nat := 128 * f.bfmt.rowBytes 128
def vecsOf (n : Nat) : Nat := (n + 511) / 512
/-- Bytes of a drained or loaded image (R192, R194). -/
def Flight.imageBytes (f : Flight) : Nat := f.rowsN * f.dfmt.rowBytes 128

/-! ### Issue (R98, R172, R175, R207, R443) -/

/-- An ILLEGAL_NEST of R98, by its case. -/
def nestIf (f : Flight) (b : Bool) (case : Nat) : Iss Unit := trapIf b tNEST (f.w 0) (BitVec.ofNat 64 case)

/-- The FMT that a ring or stream operand carries, where it is defined (R205, R208). -/
def operandFmt (r : Role) (strm : Bool) (n : Nat) : Option Nat :=
  if strm then (r.strm? n).map (fun t => if t.bind = 1 then ((r.ring? t.ring).map Ring.fmt).getD 0 else t.fmt)
  else (r.ring? n).map Ring.fmt
def fmtDiffers (r : Role) (strm : Bool) (n : Nat) (f : Fmt) : Bool :=
  match operandFmt r strm n with
  | some c => c != f.code.toNat
  | none => false

/-- R98, R180, R222, in order: the cases of an MMA or MMAS. -/
def mmaNestChk (f : Flight) : Iss Unit := do
  let r ← getRole
  let (lo, hi) := f.accRange
  nestIf f (2 ^ 20 < f.steps) 1
  nestIf f ((if f.aStrm then 16 else 32) ≤ f.aNum || (if f.bStrm then 16 else 32) ≤ f.bNum) 2
  nestIf f (lo < 0 || 127 < hi) 4
  nestIf f (fmtDiffers r f.aStrm f.aNum f.afmt || fmtDiffers r f.bStrm f.bNum f.bfmt) 5
  nestIf f (!pairingOk f.profUsed f.afmt f.bfmt f.scen) 6
  nestIf f (r.det && f.prof = 0) 10

/-- R175, R207: an A, B or scale operand that cannot serve: not defined, a sink, a slot too small, a ring that a source stream
is bound to. -/
def operandBad (r : Role) (strm : Bool) (n bytes : Nat) : Bool :=
  if strm then (match r.strm? n with | some t => t.sink | none => true)
  else
    match r.ring? n with
    | some g => g.slotBytes < bytes || r.strms.any (fun p => p.2.bind = 1 && !p.2.sink && p.2.ring = n)
    | none => true
/-- R175: an index is negative, or a ring could never hold the slot. -/
def indexBad (r : Role) (f : Flight) (strm : Bool) (n word : Nat) : Bool :=
  let l := f.idxs word
  l.any (· < 0) ||
  (!strm && (match r.ring? n with
    | some g => (l.zip (popsOf l)).any (fun x => (g.count : Int) ≤ x.1 - x.2)
    | none => false))

def tileNo (b : Bool) (n : Nat) : Iss Unit := trapIf b tTILE (BitVec.ofNat 64 n) exactI1

/-- R175, R187, R207: the TILE_BOUNDS checks of an MMA or MMAS, header fields first. -/
def mmaTileChk (f : Flight) : Iss Unit := do
  let r ← getRole
  tileNo (operandBad r f.aStrm f.aNum f.abytes) f.aNum
  tileNo (operandBad r f.bStrm f.bNum f.bbytes || (f.aStrm == f.bStrm && f.aNum = f.bNum)) f.bNum
  tileNo (indexBad r f f.aStrm f.aNum 2) f.aNum
  tileNo (indexBad r f f.bStrm f.bNum 3) f.bNum
  if f.scen then do
    tileNo ((f.idxs 5).any (· < 0)) f.scs
    tileNo (operandBad r true f.scs 0 || (f.aStrm && f.aNum = f.scs) || (f.bStrm && f.bNum = f.scs)) f.scs
  else pure ()
  if f.op = 2 then do
    let l := f.idxs 2
    let lo := (l.foldl min (l.headD 0)).toNat
    let n := (spanOfIdx l).toNat - lo
    let _ ← tileChk (f.bmoff + lo) n
    let _ ← tileChk (f.spidx + 256 * lo) (256 * n)
    pure ()
  else pure ()

/-- R98: DVAL and DKIND of a drain, or of a load, out of range. -/
def Flight.placeBad (f : Flight) : Bool :=
  f.dkind = 3 || (f.dkind = 1 && 16 ≤ f.dval) || (f.dkind = 2 && (32 ≤ f.dval || f.op = 6))

/-- R98, R192, R194: the checks of a row operation. A drain that names a ring to which a source stream is bound raises TILE_BOUNDS, as every
nest record that does (R207). -/
def rowChk (f : Flight) : Iss Unit := do
  let r ← getRole
  let place := f.op = 4 || f.op = 6
  nestIf f (place && f.placeBad) 2
  nestIf f (128 < f.acc + f.rowsN) 3
  nestIf f (f.op = 4 && f.dkind = 2 && fmtDiffers r false f.dval f.dfmt) 5
  if place then
    match f.dkind with
    | 0 => do
      let _ ← tileChk (512 * f.dval) f.imageBytes
      pure ()
    | 1 => tileNo (match r.strm? f.dval with | some t => t.sink != (f.op == 4) | none => true) f.dval
    | _ => tileNo (operandBad r false f.dval f.imageBytes) f.dval
  else pure ()

/-- R172: a record issues once the previous one has retired, and is then in flight. -/
def nestIssue (i : Instr) : Iss Flow := do
  let r ← getRole
  waitIf r.nestSeen.isSome
  let c ← getClu
  let f : Flight := { addr := c.pc, words := encode i, step := 0, raised := [] }
  if f.isMma then do
    mmaNestChk f
    mmaTileChk f
  else rowChk f
  modRole (fun r => { r with nest := some f })
  pure .fall

def resMma (s : Bool) (f : MmaF) : Iss Flow := nestIssue (.mma s f)
def execMma (sb : Bool) (f : MmaF) (s : State) := issueN 64 sb (resMma sb f) s
def resMmas (s : Bool) (f : MmaF) (bm sp : BitVec 16) : Iss Flow := nestIssue (.mmas s f bm sp)
def execMmas (sb : Bool) (f : MmaF) (bm sp : BitVec 16) (s : State) := issueN 64 sb (resMmas sb f bm sp) s
def resMhad (s : Bool) (f : RowF) : Iss Flow := nestIssue (.mhad s f)
def execMhad (sb : Bool) (f : RowF) (s : State) := issueN 64 sb (resMhad sb f) s
def resMdrain (s : Bool) (f : DrainF) : Iss Flow := nestIssue (.mdrain s f)
def execMdrain (sb : Bool) (f : DrainF) (s : State) := issueN 64 sb (resMdrain sb f) s
def resMzero (s : Bool) (acc rows : BitVec 8) : Iss Flow := nestIssue (.mzero s acc rows)
def execMzero (sb : Bool) (acc rows : BitVec 8) (s : State) := issueN 64 sb (resMzero sb acc rows) s
def resMloada (s : Bool) (f : LoadAF) : Iss Flow := nestIssue (.mloada s f)
def execMloada (sb : Bool) (f : LoadAF) (s : State) := issueN 64 sb (resMloada sb f) s
def resMtrans (s : Bool) (acc rows : BitVec 8) : Iss Flow := nestIssue (.mtrans s acc rows)
def execMtrans (sb : Bool) (acc rows : BitVec 8) (s : State) := issueN 64 sb (resMtrans sb acc rows) s

/-! ### A step -/

/-- The bytes of the slot j places after a ring's head (R175, R206). -/
def ringUnit (use : Nat → Bool) (n j bytes : Nat) : Iss (List Byte) := do
  let g ← ringGet n
  waitIf (g.ready ≤ j)
  let i := (g.hi + j) % g.count
  trapIf (g.slotSt i == .poisoned && (List.range bytes).any use) tPOISON (BitVec.ofNat 64 (g.slotOff i)) exactI1
  tileGetOf use (g.slotOff i) bytes
/-- Vectors a to a + n − 1 after a stream's position (R175), which start at byte o of the unit. -/
def strmUnits (use : Nat → Bool) (n : Nat) (t : Strm) (a o : Nat) : Nat → Iss (List Byte)
  | 0 => pure []
  | k + 1 => do
    let v ← strmPeekOf (fun i => use (o + i)) n t (t.sp + a)
    let vs ← strmUnits use n t (a + 1) (o + 512) k
    pure (v ++ vs)
/-- The bytes of unit j of an operand, of which those that `use` picks are used. -/
def unitBytesOf (use : Nat → Bool) (strm : Bool) (n j bytes : Nat) : Iss (List Byte) :=
  if strm then do
    let t ← strmGet n
    strmUnits (fun i => i < bytes && use i) n t (j * vecsOf bytes) 0 (vecsOf bytes)
  else ringUnit use n j bytes
/-- The bytes of unit j of an operand. -/
def unitBytes (strm : Bool) (n j bytes : Nat) : Iss (List Byte) := unitBytesOf (fun _ => true) strm n j bytes

/-- R176: an operand pops units, vectors or slots, as far as they are published or have come over the link: how many are left. -/
def popSome (o : Owed) : Iss Nat := do
  let s ← getSt
  let r ← getRole
  if o.strm then
    match r.strm? o.num with
    | none => pure 0
    | some t => do
      let own := ((s.chan (srcChan s.curKey t.link)).filter (fun e => e.isOf r && e.arrived)).length
      let d := if t.bind = 2 then min own o.units else o.units
      modRole (fun r => r.setStrm o.num { t with c := t.sp + d, sp := t.sp + d })
      if t.bind = 2 then
        modSt (fun s' => s'.setChan (srcChan s.curKey t.link) (chanTake r s.cycle d (s'.chan (srcChan s.curKey t.link))))
      else pure ()
      pure (o.units - d)
  else
    match r.ring? o.num with
    | none => pure 0
    | some g => do
      modRole (fun r => r.setRing o.num (Ring.popN (min g.ready o.units) g))
      pure (o.units - min g.ready o.units)
/-- R176: a committed step pops k units. Over a gap of indices those that are not there yet are owed: they are popped as they come,
before the next step (DEDUCED, log 19). -/
def popUnits (strm : Bool) (n k bytes : Nat) : Iss Unit := do
  let o : Owed := { strm := strm, num := n, units := if strm then k * vecsOf bytes else k }
  let left ← popSome o
  if left = 0 then pure () else modRole (fun r => { r with owed := r.owed ++ [{ o with units := left }] })

/-- The bitmap of the A panel of step s: every chunk is live but under MMAS (R187). -/
def liveOf (f : Flight) (s : Nat) : Iss Nat :=
  if f.op = 1 then pure 255
  else do
    let bm ← tileGet (f.bmoff + (f.idx 2 s).toNat) 1
    pure (leNat bm)
/-- R173, R187: the 16 rows of the A panel of step s; none where MMAS stores nothing. -/
def panelA (f : Flight) (s live : Nat) (bs : List Byte) : Iss (List (List (Option Dyad))) :=
  if f.op = 1 then pure ((cutRows (f.afmt.rowBytes 128) bs 16).map (fun r => (packedVals f.afmt 128 r).map some))
  else do
    let ix ← tileGet (f.spidx + 256 * (f.idx 2 s).toNat) 256
    let rows := cutRows (f.afmt.rowBytes 64) bs 16
    pure (rows.zipIdx.map (fun r =>
      denseRow live (fun c => leNat ((ix.drop (2 * (8 * r.2 + c))).take 2)) (packedVals f.afmt 64 r.1)))

/-- R179: the step is the first to write accumulator row n. -/
def Flight.firstAt (f : Flight) (s : Nat) (n : Int) : Bool :=
  !(List.range s).any (fun t => f.arow t ≤ n && n ≤ f.arow t + 15)

/-- R173 to R185: the step of an MMA or MMAS: the flags it raises. Where several operands of one step fault, or one faults while another is
not ready, the first in this order decides: live bitmap, A, index plane, B, scales (DESIGN CHOICE, log 23: the spec gives no order). -/
def mmaStep (f : Flight) : Iss Raised := do
  let s := f.step
  let live ← liveOf f s
  let ab ← unitBytesOf (fun i => f.op = 1 || usesHalf f.afmt live i) f.aStrm f.aNum (f.rel 2 s) f.abytes
  let a ← panelA f s live ab
  let bb ← unitBytesOf (fun i => f.op = 1 || usesTile f.bfmt f.bt live i) f.bStrm f.bNum (f.rel 3 s) f.bbytes
  let b := (cutRows (f.bfmt.rowBytes 128) bb 128).map (packedVals f.bfmt 128)
  let cs ← if f.scen then do
      let v ← unitBytes true f.scs (f.rel 5 s) 512
      pure (packedVals (.el .fp32) 128 v)
    else pure []
  let r ← getRole
  let out := a.zipIdx.map (fun (ar : List (Option Dyad) × Nat) =>
    let n := (f.arow s + ar.2).toNat
    let old := r.v n
    let els := (List.range 128).map (fun j =>
      let ps : List Pair := ar.1.zipIdx.map (fun xk => xk.1.map (fun x =>
        (x, if f.bt then (b.getD j []).getD xk.2 plusZero else (b.getD xk.2 []).getD j plusZero)))
      profileElem f.profUsed (cs.getD j (Dyad.ofInt 1))
        (if f.za && f.firstAt s n then none else some (laneOf .fp32 old j)) ps)
    (n, mkRow .fp32 (els.map (·.1)), raisedOf n (els.map (·.2))))
  modRole (fun r => out.foldl (fun r x => r.setV x.1 x.2.1) r)
  popUnits f.aStrm f.aNum (f.popAt 2 s) f.abytes
  popUnits f.bStrm f.bNum (f.popAt 3 s) f.bbytes
  if f.scen then popUnits true f.scs (f.popAt 5 s) 512 else pure ()
  pure (out.flatMap (·.2.2))

/-- The rows of a row operation, with their contents. -/
def rowsOf (f : Flight) (r : Role) : List (Nat × Row) := (List.range f.rowsN).map (fun i => (f.acc + i, r.v (f.acc + i)))
def putRows (l : List (Nat × Row)) : Iss Unit := modRole (fun r => l.foldl (fun r x => r.setV x.1 x.2) r)

def pushAll (n : Nat) : List (List Byte) → Iss Unit
  | [] => pure ()
  | v :: t => do
    pushStrm n (leRow v)
    pushAll n t

/-- R192: the image of a drain goes into a stream. Over a link the step waits while the channel holds 8 vectors; it commits
all at once (R178), and the vectors beyond the eighth wait at the sender's end, entering as the channel's vectors are popped
(R211; DEDUCED, log 17). Into a ring-bound sink whose image spans several slots the step publishes each slot that it fills, and waits
until the ring has room for all of them (DEDUCED, log 17, of R178, R206 and R207). -/
def drainStrm (n : Nat) (img : List Byte) : Iss Unit := do
  let vs := cutRows 512 img (vecsOf img.length)
  let t ← strmGet n
  if t.bind = 2 then do
    let s ← getSt
    let r ← getRole
    trapIf (!slotOfLaunch s (farKey s.curKey t.link) r.part.toNat r.lid) tPROT (BitVec.ofNat 64 n) exactI1
    let ck := sinkChan s.curKey t.link
    waitIf (8 ≤ (s.chan ck).length)
    modSt (fun s' => s'.setChan ck (s'.chan ck ++ vs.map (fun v =>
      { part := r.part.toNat, lid := r.lid.toNat, at_ := s.cycle, arrived := false, val := leRow v })))
    modRole (fun r => r.setStrm n { t with c := t.sp + vs.length, sp := t.sp + vs.length })
  else pushAll n vs

/-- R191, R192: the step of a drain. -/
def drainStep (f : Flight) : Iss Raised := do
  let r ← getRole
  let out := (rowsOf f r).map (fun x => drainRow f.dfmt f.drnd x.1 f.hsel f.hk x.2)
  let img := out.flatMap (·.1)
  match f.dkind with
  | 0 => tilePut (512 * f.dval) img
  | 1 => drainStrm f.dval img
  | _ => do
    let g ← ringGet f.dval
    acquireFor f.dval
    modRole (fun r => { r with drainSlot := some (f.dval, g.tail) })
    tilePut (g.slotOff g.ti) img
  pure (out.flatMap (·.2))

/-- R194: the step of a load. -/
def loadStep (f : Flight) : Iss Raised := do
  let img ← if f.dkind = 0 then tileGet (512 * f.dval) f.imageBytes
    else unitBytes true f.dval 0 f.imageBytes
  putRows ((cutRows (f.dfmt.rowBytes 128) img f.rowsN).zipIdx.map (fun x => (f.acc + x.2, loadRow f.dfmt x.1)))
  if f.dkind = 0 then pure () else popUnits true f.dval 1 f.imageBytes
  pure []

/-- R178, R196: one step of a record. -/
def nestStep (f : Flight) : Iss Raised :=
  match f.op with
  | 1 | 2 => mmaStep f
  | 3 => do
    let r ← getRole
    let out := (rowsOf f r).map (fun x => (x.1, hadRow x.1 f.hsel f.hk x.2))
    putRows (out.map (fun x => (x.1, x.2.1)))
    pure (out.flatMap (·.2.2))
  | 4 => drainStep f
  | 5 => do
    let r ← getRole
    putRows ((rowsOf f r).map (fun x => (x.1, 0)))
    pure []
  | 6 => loadStep f
  | _ => do
    let r ← getRole
    let rows := rowsOf f r
    putRows (rows.zipIdx.map (fun x => (x.1.1, transRow f.rowsN x.2 (rows.map (·.2)))))
    pure []

/-- Run a piece of the engine's work as role k's cluster m would see it. -/
def asRole (s : State) (k : Nat) (cl : Cluster) : State :=
  { s with cur := { core := BitVec.ofNat 8 (k / 4), slot := BitVec.ofNat 2 k, cl := cl } }

/-- R176: what committed steps of role k's record have still to pop, as far as it is there now. -/
def popOwed (s : State) (k : Nat) : State :=
  let r := s.role k
  if r.owed = [] then s
  else
    let go (s : State) (o : Owed) : State :=
      match popSome o s with
      | .ok (n, s') => if n = 0 then s' else s'.modRoleAt k (fun r => { r with owed := r.owed ++ [{ o with units := n }] })
      | .error _ => s
    { r.owed.foldl go (asRole (s.setRole k { r with owed := [] }) k .m) with cur := s.cur }

/-- The next step of the record in flight of role k: it waits for an operand, faults, or commits. -/
def nestTry (s : State) (k : Nat) (f : Flight) : Except Stop (Raised × State) :=
  let s1 := asRole (s.setRole k { s.role k with nest := none, snap := none }) k .m
  match nestStep f s1 with
  | .ok (fl, s2) => .ok (fl, { s2.modRoleAt k (fun r => { r with snap := (s.role k).snap }) with cur := s.cur })
  | .error x => .error x

/-- R178, R198: whether the record of a role may go on: the role runs, or a clean stop or yield waits for it (R308). -/
def nestGoes (r : Role) : Bool :=
  r.st == .running || (r.st == .stopped && (match r.stop with | some i => (i.kind == 2 || i.kind == 3) && !i.written | none => false))

/-- NEST_STEP_COMMIT (R172 to R178, R198): what the steps before it have still to pop is popped as it comes, and then the next step of the
role's record commits; a step whose operand is not ready
leaves all as it was; a fault in a step stops the role. -/
def execNestStepCommit (rs : Slot) (s : State) : Host.Outcome State Fault Refusal :=
  let k := rs.key
  match (s.role k).nest with
  | none => .next s
  | some f =>
    if !nestGoes (s.role k) then .next s
    else
      let s := popOwed s k
      if (s.role k).owed ≠ [] || f.steps ≤ f.step then .next s
      else
      match nestTry s k f with
      | .ok (fl, s2) =>
        .next (s2.modRoleAt k (fun r => { r with nest := some { f with step := f.step + 1, raised := f.raised ++ fl },
                                                  lastAct := s.cycle }))
      | .error (.trap c i0 i1) =>
        .next (takeStop s k 1 c .m i0 (if c = tTILE || c = tPOISON then BitVec.ofNat 64 f.step else i1) none)
      | .error _ => .next s

/-- R200: the status word of a record. -/
def nestWord (f : Flight) (low : Nat) : Word :=
  BitVec.ofNat 64 (f.step % 2 ^ 24 * 2 ^ 32 + f.op * 2 ^ 24 + f.profUsed * 2 ^ 16 + low)

/-- R211: a drain over a link has vectors that wait for room in the channel. -/
def drainWaits (s : State) (k : Nat) (f : Flight) : Bool :=
  f.op == 4 && f.dkind == 1 &&
  (match (s.role k).strm? f.dval with
   | some t => t.bind == 2 && decide (8 < (s.chan (sinkChan k t.link)).length)
   | none => false)
/-- NEST_RETIRE (R178, R185, R192, R197): the record whose steps have all committed raises their flags, publishes the ring
slot of a drain, and leaves the engine. The record of a drain over a link retires once its last vector is in the channel
(R211). -/
def execNestRetire (rs : Slot) (s : State) : Host.Outcome State Fault Refusal :=
  let k := rs.key
  let r := s.role k
  match r.nest with
  | none => .next s
  | some f =>
    if !nestGoes r || f.step < f.steps || r.owed ≠ [] || drainWaits s k f then .next s
    else
      let r := r.raiseAll s.cycle k f.raised
      let r := match r.drainSlot with
        | some d => (match r.ring? d.1 with | some g => r.setRing d.1 (g.publishAt d.2 .published) | none => r)
        | none => r
      .next (s.setRole k { r with nest := none, drainSlot := none, mstat := nestWord f 0, lastAct := s.cycle })

/-! ### MWAIT and MSTAT -/

/-- R199. -/
def resMwait (h : Hdr) : Iss Flow := do
  let g ← guardS h
  let r ← getRole
  waitIf (g && r.nestSeen.isSome)
  pure .fall
def execMwait (h : Hdr) (s : State) := issue h (resMwait h) s

/-- R200: the status word, read as the syllable issues. WAITOP is 1 while the next step waits for anything, room for a drain included, and
while vectors of committed steps are still to be popped (DESIGN CHOICE, log 23). -/
def mstatWord (s : State) (k : Nat) : Word :=
  let r := s.role k
  match r.nestSeen with
  | none => r.mstat
  | some f =>
    let waits := r.owed ≠ [] || (f.step < f.steps && (match nestTry s k f with | .error .wait => true | _ => false))
    nestWord f (if waits then 3 else 1)
def resMstat (h : Hdr) (d : SDst) : Iss Flow :=
  scalarOp h [] d (do
    let s ← getSt
    pure (mstatWord s s.curKey))
def execMstat (h : Hdr) (d : SDst) (s : State) := issue h (resMstat h d) s

end Sys2Proof.Machine
end

