-- ==== Sys2Proof/Machine/Send.lean ====
section
/-! DEFINITION. Sending a request (10_isa_memory R227 to R232, R359): addresses and their checks at issue, the limits on
requests. -/

namespace Sys2Proof.Machine

/-! ### Limits (R231, R353, R359) -/

/-- Requests outstanding at a core. -/
def outstanding (s : State) (core : Nat) : Nat :=
  ((List.range 4).map (fun j => (s.role (4 * core + j)).acc.countP (fun a => a.stat.open_))).sum
/-- Entries of the replay queue that a role's requests and copies use or may come to use (log 17). -/
def replayLoad (r : Role) : Nat := r.acc.countP (fun a => !a.isFence && a.kind != .pref) + r.copies.length

/-! ### Sending -/

/-- The destinations of a request are free of earlier requests, and a queue has room. -/
def chkDests : List Dest → Iss Unit
  | [] => pure ()
  | .q n :: t => do
    qRoom n
    chkDests t
  | d :: t => do
    chkDest d
    chkDests t
def reserveDests (id : Nat) : List Dest → Iss Unit
  | [] => pure ()
  | .q n :: t => do
    qReserve n id
    reserveDests id t
  | _ :: t => reserveDests id t

/-- Send a request: it waits at issue while a limit is reached; then it is outstanding (R231). -/
def sendAcc (a : Access) : Iss Unit := do
  let s ← getSt
  let r ← getRole
  let clu ← getClu
  waitIf (4096 ≤ outstanding s (s.curKey / 4))
  waitIf (!a.isFence && a.kind != .pref && 256 ≤ replayLoad r)
  waitIf (a.wide && 8 ≤ r.acc.countP (·.wide))
  chkDests a.dests
  modRole (fun r => a.dests.foldl Role.overtake r)
  reserveDests r.nextId a.dests
  let a' := { a with id := r.nextId, cl := s.cur.cl, pc := clu.pc, cueerr := (seenCsr r 6).toNat, eid := r.eid,
                     gen := (s.asid r.asid.toNat).gen, at_ := s.cycle, stat := .pending }
  modRole (fun r => { r with nextId := r.nextId + 1, acc := r.acc ++ [a'] })

/-! ### Addresses (R227, R228) -/

def sextDisp (d : BitVec 8) (n : Nat) : Word := d.signExtend 64 * BitVec.ofNat 64 n
/-- R228: the effective address of an M-format syllable. -/
def eaOf (m : MF) : Iss Word := do
  let b ← rdS m.base
  let i ← rdS m.idx
  pure (b + i + sextDisp m.disp m.sz.bytes)
/-- R228: the alignment of an access size. -/
def alignOf (z : Size) : Nat := min z.bytes 64
/-- An address operand that accepts virtual addresses only, with its alignment (R227, R228, R443). -/
def chkVirtual (a : Word) (n : Nat) : Iss Unit := do
  trapIf (!canonical a) tPROT a exactI1
  trapIf (a.toNat % n ≠ 0) tALIGN a exactI1
/-- The marks of BASE and IDX. -/
def mMarks (m : MF) : List Mk := [(sQueue m.base, m.lbase), (sQueue m.idx, m.lidx)]

/-- R230: a memory syllable; with the guard false it only pops and pushes. -/
def memOp (h : Hdr) (ms : List Mk) (skip body : Iss Unit) : Iss Flow := do
  let g ← guardS h
  if g then do
    body
    popMarks ms
  else do
    needHeads ms
    popMarks ms
    skip
  pure .fall

/-- The destination of a scalar result as a request writes it. -/
def sDest : SDst → Dest
  | .x n => .x n.toNat
  | .q n => .q n.toNat

end Sys2Proof.Machine
end

