-- ==== Sys2Proof/Machine/Cue.lean ====
section
/-! DEFINITION. Cue cells (16_cue_cells R334 to R349): tags, the Prompter of each slice, waiters, failure, loops of
dependence, and what a CUE request does where it is served. -/

namespace Sys2Proof.Machine

/-! ### Cells -/

def tagVALUE : BitVec 2 := 0
def tagCUE : BitVec 2 := 1
def tagRUNNING : BitVec 2 := 2
def tagFAULTED : BitVec 2 := 3

/-- The tag of the cell at physical address pa; a cell without an entry is VALUE (R334). -/
def State.tag (s : State) (pa : Nat) : BitVec 2 := mget tagVALUE s.tags (pa / 64)
def State.setTag (s : State) (pa : Nat) (t : BitVec 2) : State := { s with tags := mset tagVALUE s.tags (pa / 64) t }
def cellBase (pa : Nat) : Nat := pa / 64 * 64
/-- Word w of the cell. -/
def State.cellWord (s : State) (pa w : Nat) : Word := s.memWord (cellBase pa + 8 * w)
def State.setCell (s : State) (pa : Nat) (ws : List Word) : State := s.memWrite (cellBase pa) (ws.flatMap wordLe)
def State.prompter (s : State) (sl : Nat) : Prompter := mget Prompter.reset s.prompters sl
def State.setPrompter (s : State) (sl : Nat) (p : Prompter) : State := { s with prompters := mput s.prompters sl p }

/-- The frames that leaves under a node reach (R372, R373), with their sizes and attributes. -/
def framesOf (s : State) : Nat → List (Nat × Nat × Bool) → List (Nat × Nat × Nat)
  | _, [] => []
  | node, (lo, n, _) :: rest =>
    (List.range (2 ^ n)).flatMap (fun i =>
      let epa := paNorm (node + 8 * i)
      let e := s.memWord epa
      if !(readByte s.mem epa).getLsbD 0 then []
      else if e.getLsbD 1 || n = 5 then [(bits e 55 16 * 2 ^ 16, 2 ^ lo, bits e 6 5)]
      else framesOf s (bits e 55 8 * 256) rest)
/-- Some address space maps a physical address with an attribute: 1 as a pool page, 2 as a cue page. -/
def mappedAs (s : State) (attr pa : Nat) : Bool :=
  s.asids.any (fun a => a.2.valid && (framesOf s a.2.root.toNat walkLevels).any (fun f =>
    f.2.2 = attr && f.1 ≤ pa && pa < f.1 + f.2.1))

/-- R343: the fault word. -/
def faultWord (k rank reason code : Nat) : Word :=
  BitVec.ofNat 64 (k / 4 + k % 4 * 2 ^ 8 + rank % 2 ^ 16 * 2 ^ 16 + reason * 2 ^ 32 + code % 256 * 2 ^ 40)

/-- R335: the HINT word's fields are in range and every other bit is zero. -/
def hintOk (w : Word) : Bool :=
  bits w 63 10 = 0 && (bits w 9 8 ≠ 2 || bits w 7 0 < 8) && (bits w 9 8 ≠ 3 || bits w 7 0 < 4)

/-! ### Waiters (R340, R341) -/

/-- Requests parked at cells of a slice, or at one cell. -/
def parkedAt (r : Role) (cell : Nat) : List Access :=
  r.acc.filter (fun a => match a.stat with | .parked c _ => c == cell | _ => false)
def State.waiters (s : State) (cell : Nat) : Nat := (s.roles.map (fun kr => (parkedAt kr.2 cell).length)).sum
def State.wused (s : State) (sl : Nat) : Nat :=
  (s.roles.map (fun kr => kr.2.acc.countP (fun a => match a.stat with | .parked c _ => homeSlice c == sl | _ => false))).sum

/-- The row that a load of n bytes from the given bytes delivers. -/
def rowOf (bs : List Byte) : Row := leRow bs
def toDests (ds : List Dest) (v : Row) : List (Dest × Row) := ds.map (fun d => (d, v))

/-- The values that a load delivers are ready: a register takes its value at once; a queue entry is a push, which R271 orders after
the cluster's earlier loads, so it commits as a reply. -/
def finishWith (s : State) (k : Nat) (a : Access) (vals : List (Dest × Row)) : State :=
  s.modRoleAt k (fun r => if a.dests.any (fun d => match d with | .q _ => true | _ => false) then r.setAcc { a with stat := .replied vals }
    else r.complete a vals)
/-- A load of the given bytes does. -/
def finishLoad (s : State) (k : Nat) (a : Access) (bs : List Byte) : State := finishWith s k a (toDests a.dests (leRow bs))

/-- A load completes from the cell (R341, R343): from a FAULTED cell it sets the error predicate, or faults with POISON. -/
def completeCueLoad (s0 : State) (k : Nat) (a : Access) (pa n : Nat) : State :=
  let s := s0.stir k
  let vals := toDests a.dests (rowOf (s.memRead pa n))
  if s.tag pa = tagFAULTED then
    if a.cueerr = 0 then s.modRoleAt k (fun r => r.setAcc { a with stat := .faulted tPOISON a.addr 0 0 })
    else finishWith s k a (vals ++ [(.p a.cueerr, BitVec.allOnes 4096)])
  else finishWith s k a vals

/-- The requests of a role before one of them. -/
def earlier (r : Role) (id : Nat) : List Access := r.acc.takeWhile (fun b => b.id ≠ id)
/-- R341: one waiter of a cell completes, in the service of the resolution, also while an earlier cue load of its cluster is parked at
another cell (as core 8's load of cell 6 does in the worked run of 20_prog_cue_graph, cycle 370; log 17). A load that parked under a
generation that has passed since stays at the cell it parked at, and completes from there (DESIGN CHOICE, log 48: R278 speaks of accesses
that arrive). -/
def wakeOne (s : State) (k cell : Nat) (a : Access) : State :=
  completeCueLoad s k a (cell + (a.addr.toNat % 64)) a.size.bytes
/-- R341: wake every waiter of a cell. -/
def wake (s : State) (cell : Nat) : State :=
  s.roles.foldl (fun s kr => (parkedAt kr.2 cell).foldl (fun s a => wakeOne s kr.1 cell a) s) s

/-! ### Placing an evaluation (R336 to R339) -/

/-- R338: cores in the order in which the Prompter looks at them, those of the partition only. -/
def placeOrder (p : Partition) (sl : Nat) (hint : Word) : List Nat :=
  let all := List.range 256
  let hinted := match bits hint 9 8 with
    | 1 => [bits hint 7 0]
    | 2 => all.filter (fun c => c / 32 == bits hint 7 0)
    | 3 => all.filter (fun c => c / 64 == bits hint 7 0)
    | _ => []
  let home := all.filter (fun c => c / 64 == sl / 16)
  (hinted ++ home ++ all).filter (fun c => p.cores.contains c)
/-- The first core with a qualifying role and a free arrival entry. -/
def placeFor (s : State) (e : Eval) : Option Nat :=
  (placeOrder (s.partOr e.part).record (homeSlice e.cell) e.hint).find? (fun c =>
    (qualifying s c e.asid e.handler).isSome && ((s.core c).freeArea).isSome)

/-- R339: the arrival of an evaluation. -/
def evalArrival (e : Eval) (rank : Nat) : Arrival :=
  { asid := e.asid, handler := e.handler,
    payload := wordLe e.va ++ wordLe e.arg ++ wordLe (e.eid.setWidth 64) ++ wordLe e.loader,
    sender := BitVec.ofNat 64 (homeSlice e.cell + rank * 2 ^ 16 + 2 ^ 32), x4 := e.eid.setWidth 64 }

/-- R336: the counts of a slice whose EIDs name evaluations that run: those of its RUNNING cells, and of the roles that hold one, in a slot
or switched out. -/
def countsHeld (s : State) (sl : Nat) : List Nat :=
  let eids : List (BitVec 32) :=
    (s.tags.filter (fun t => t.2 == tagRUNNING)).map (fun t => (s.cellWord (64 * t.1) 7).setWidth 32) ++ s.roles.map (·.2.eid) ++
      s.parts.flatMap (fun p => p.2.launches.flatMap (fun l => l.swapped.map (·.eid)))
  (eids.filter (fun e => e.toNat / 2 ^ 26 = sl)).map (fun e => e.toNat % 2 ^ 26)
/-- R336: the next count of a slice: 0 is skipped, and so is a count that a running evaluation holds. -/
def nextCount (held : List Nat) (n : Nat) : Nat :=
  (((List.range (held.length + 2)).map (fun i => (n + 1 + i) % 2 ^ 26)).find? (fun c => c ≠ 0 && !held.contains c)).getD 1

/-- R337: take an EID, make the cell RUNNING and place the evaluation, which enters the launch queue when no role
qualifies. The descriptor is read as it stands. -/
def startEval (s : State) (e0 : Eval) : State :=
  let sl := homeSlice e0.cell
  let p := s.prompter sl
  let eid : BitVec 32 := BitVec.ofNat 32 (sl * 2 ^ 26 + p.count)
  let e := { e0 with eid := eid, handler := s.cellWord e0.cell 0, arg := s.cellWord e0.cell 1, hint := s.cellWord e0.cell 2 }
  let s := (s.setTag e.cell tagRUNNING).setCell e.cell
    [e.handler, e.arg, e.hint, s.cellWord e0.cell 3, 0, 0, 0, eid.setWidth 64]
  let p := { p with count := nextCount (countsHeld s sl) p.count, evals := p.evals + 1 }
  match placeFor s e with
  | some c => ((s.setPrompter sl p).accept c (evalArrival e (rankAt s c e.asid e.handler))).getD s
  | none => s.setPrompter sl { p with lq := p.lq ++ [e] }

/-- Whether an evaluation of this cell could be placed or queued now. -/
def canTake (s : State) (e : Eval) : Bool :=
  (s.prompter (homeSlice e.cell)).lq.length < 64 ||
  (placeFor s { e with handler := s.cellWord e.cell 0, hint := s.cellWord e.cell 2 }).isSome

/-! ### Loops of dependence (R345) -/

/-- The cells that a role is parked on. -/
def Role.cells (r : Role) : List Nat := r.acc.filterMap (fun a => match a.stat with | .parked c _ => some c | _ => none)
/-- The role that computes a RUNNING cell. -/
def computerOf (s : State) (cell : Nat) : Option Nat :=
  if s.tag cell = tagRUNNING then
    let eid : BitVec 32 := (s.cellWord cell 7).setWidth 32
    (s.roles.find? (fun kr => kr.2.eid == eid && eid != 0 && kr.2.st != .free)).map (·.1)
  else none
/-- Follow hops from the cells given: the length of a loop that reaches role k. -/
def hops (s : State) (k : Nat) : Nat → Nat → List Nat → Option Nat
  | 0, _, _ => none
  | fuel + 1, n, cells =>
    let rs := (uniq (cells.filterMap (computerOf s)))
    if rs = [] then none
    else if rs.contains k then some n
    else hops s k fuel (n + 1) (rs.flatMap (fun j => (s.role j).cells))
def loopLen (s : State) (k cell : Nat) : Option Nat := hops s k 16 1 [cell]

/-- The address of the cell that an address lies in. -/
def cellAddr (a : Word) : Word := a &&& ~~~(63 : Word)

/-! ### Serving loads of cue pages (R336, R337, R340) -/

/-- A load of role k from a cell, at its home. -/
def serveCueLoad (s : State) (k : Nat) (a : Access) (pa n : Nat) : State :=
  let cell := cellBase pa
  let t := s.tag pa
  let sl := homeSlice pa
  let park (s : State) : State := s.modRoleAt k (fun r => r.setAcc { a with stat := .parked cell s.cycle })
  if t = tagVALUE || t = tagFAULTED then completeCueLoad s k a pa n
  else if 1024 ≤ s.wused sl then
    s.modRoleAt k (fun r => r.setAcc { a with stat := .resend (s.cycle + 256) })
  else if t = tagRUNNING then
    match loopLen s k cell with
    | some len => s.modRoleAt k (fun r => r.setAcc { a with stat := .faulted tSELF (cellAddr a.addr) (BitVec.ofNat 64 len) len })
    | none => park s
  else if (s.prompter sl).touches.any (fun e => e.cell == cell) then park s
  else
    let r := s.role k
    let e : Eval :=
      { cell := cell, va := BitVec.ofNat 64 (a.addr.toNat / 64 * 64), eid := 0, handler := s.cellWord cell 0, arg := 0,
        hint := s.cellWord cell 2, asid := r.asid, part := (s.asid r.asid.toNat).part.toNat, loader := senderId k r }
    if canTake s e then startEval (park s) e
    else (park s).setPrompter sl { s.prompter sl with touches := (s.prompter sl).touches ++ [e] }

/-- Drop the pending touch of a cell (R338). -/
def dropTouch (s : State) (cell : Nat) : State :=
  let sl := homeSlice cell
  s.setPrompter sl { s.prompter sl with touches := (s.prompter sl).touches.filter (fun e => e.cell ≠ cell) }

/-- R341: resolve a cell: its words, its tag, and its waiters. -/
def resolveCell (s : State) (pa : Nat) (ws : List Word) (t : BitVec 2) : State :=
  wake (dropTouch ((s.setCell pa ws).setTag pa t) (cellBase pa)) (cellBase pa)

/-- R344: every cell RUNNING under an EID goes to FAULTED. -/
def faultCells (s : State) (eid : BitVec 32) (k rank reason : Nat) : State :=
  if eid = 0 then s
  else
    (s.tags.filter (fun t => t.2 == tagRUNNING && (s.cellWord (64 * t.1) 7).setWidth 32 == eid)).foldl
      (fun s t => resolveCell s (64 * t.1) [faultWord k rank reason 0, 0, 0, 0, 0, 0, 0, 0] tagFAULTED) s

/-! ### CUE requests where they are served (R348, R349) -/

/-- R349: the words that CUESTAT returns; none for another selector. -/
def cueStatWord (s : State) (pa : Nat) (sel : Word) : Option Word :=
  let cell := cellBase pa
  let p := s.prompter (homeSlice pa)
  let t := s.tag pa
  if 8 ≤ sel.toNat && sel.toNat ≤ 15 then some (s.cellWord pa (sel.toNat - 8))
  else if sel = 0 then
    some (BitVec.ofNat 64 ((if t = tagRUNNING then bits (s.cellWord pa 7) 31 0 else 0) * 2 ^ 32 + s.waiters cell * 2 ^ 16 +
      (if p.lq.any (fun e => e.cell == cell) then 8 else 0) + (if p.touches.any (fun e => e.cell == cell) then 4 else 0) + t.toNat))
  else if sel = 1 then
    some (BitVec.ofNat 64 (p.evals.toNat * 2 ^ 32 + s.wused (homeSlice pa) * 2 ^ 16 + p.lq.length))
  else none

/-- What a CUE request op does to the cell at pa: a trap code, or the state and the value of its destination. `data` is
the descriptor image or the value row; `v` the B operand. -/
def serveCue (s : State) (k : Nat) (a : Access) (op pa : Nat) : Except Nat (State × Word) :=
  let r := s.role k
  let t := s.tag pa
  let w7 : BitVec 32 := (s.cellWord pa 7).setWidth 32
  let mine := t = tagRUNNING && w7 == a.eid && a.eid != 0
  let img (i : Nat) : Word := leWord ((a.data.drop (8 * i)).take 8)
  match op with
  | 0 =>
    if img 3 ≠ 0 || img 4 ≠ 0 || img 5 ≠ 0 || img 6 ≠ 0 || img 7 ≠ 0 || (img 0).toNat % 32 ≠ 0 || !hintOk (img 2) then .error tPROT
    else if t = tagRUNNING then .error tPROT
    else
      let w3 := BitVec.ofNat 64 (r.asid.toNat + (s.asid r.asid.toNat).gen.toNat * 2 ^ 16)
      .ok ((s.setCell pa [img 0, img 1, img 2, w3, 0, 0, 0, 0]).setTag pa tagCUE, 0)
  | 1 =>
    if t = tagCUE || mine then .ok (resolveCell s pa ((List.range 8).map img) tagVALUE, 0) else .error tPROT
  | 2 =>
    if t = tagCUE || mine then
      .ok (resolveCell s pa [faultWord k (r.rank.toNat) 0 (a.v.toNat % 256), 0, 0, 0, 0, 0, 0, 0] tagFAULTED, 0)
    else .error tPROT
  | 3 => .ok (s, BitVec.ofNat 64 (t.toNat + (if t = tagRUNNING then w7.toNat * 2 ^ 32 else 0)))
  | _ =>
    match cueStatWord s pa a.v with
    | some w => .ok (s, w)
    | none => .error tPROT

/-! ### The Prompter's own steps -/

/-- PENDING_TOUCH_TAKE: the oldest pending touch of a slice is taken once it can be. -/
def execPendingTouchTake (sl : Nat) (s : State) : Host.Outcome State Fault Refusal :=
  match (s.prompter sl).touches with
  | [] => .next s
  | e :: t => .next (if canTake s e then startEval (s.setPrompter sl { s.prompter sl with touches := t }) e else s)

/-- PROMPTER_QUEUE_DISPATCH: the oldest queued evaluation for which a role qualifies is placed. -/
def execPrompterQueueDispatch (sl : Nat) (s : State) : Host.Outcome State Fault Refusal :=
  let p := s.prompter sl
  match p.lq.find? (fun e => (placeFor s e).isSome) with
  | none => .next s
  | some e =>
    match placeFor s e with
    | none => .next s
    | some c =>
      match s.accept c (evalArrival e (rankAt s c e.asid e.handler)) with
      | some s' => .next (s'.setPrompter sl { p with lq := p.lq.filter (fun x => x.eid ≠ e.eid) })
      | none => .next s

/-- CUE_LOAD_RESEND: a load that a full waiter table returned is sent again 256 cycles later (R340). -/
def execCueLoadResend (r : Slot) (id : Nat) (s : State) : Host.Outcome State Fault Refusal :=
  match (s.role r.key).acc? id with
  | some a =>
    match a.stat with
    | .resend t => .next (if t ≤ s.cycle then s.modRoleAt r.key (fun x => x.setAcc { a with stat := .pending }) else s)
    | _ => .next s
  | none => .next s

/-- DEEPWAIT: a load parked longer than CUEWD is withdrawn and faults (R346); one of a role that has stopped is withdrawn by the stop (R342). -/
def execDeepwait (r : Slot) (id : Nat) (s : State) : Host.Outcome State Fault Refusal :=
  let x := s.role r.key
  match x.acc? id with
  | some a =>
    match a.stat with
    | .parked _ since =>
      let us := (s.cycle - since) / 1250
      .next (if x.st == .running && x.cuewd ≠ 0 && usCycles x.cuewd.toNat < s.cycle - since then
        (s.modRoleAt r.key (fun x => x.setAcc { a with stat := .faulted tDEEP (cellAddr a.addr) (BitVec.ofNat 64 us) 0 })).stir r.key else s)
    | _ => .next s
  | none => .next s

end Sys2Proof.Machine
end

