-- ==== Sys2Proof/Machine/Pool.lean ====
section
/-! DEFINITION. Tile pools (15_tile_pools R320 to R333): the control block, the pool unit's operations, the hold list, and
POOL_RETIRE. -/

namespace Sys2Proof.Machine

/-! ### The control block (R320) -/

def memNat (s : State) (a n : Nat) : Nat := leNat (s.memRead a n)
def pBASE (s : State) (b : Nat) : Nat := memNat s b 8
def pBYTES (s : State) (b : Nat) : Nat := memNat s (b + 8) 4
def pNSLOT (s : State) (b : Nat) : Nat := memNat s (b + 12) 1
def pWR (s : State) (b : Nat) : Nat := memNat s (b + 13) 1
def pPN (s : State) (b : Nat) : Nat := memNat s (b + 14) 1
def pSCOPE (s : State) (b : Nat) : Nat := memNat s (b + 15) 1
def pLATEST (s : State) (b : Nat) : Nat := memNat s (b + 16) 1
def pSTATE (s : State) (b : Nat) : Nat := memNat s (b + 17) 1
def pPART (s : State) (b : Nat) : Nat := memNat s (b + 20) 1
def pPINS (s : State) (b : Nat) : Nat := memNat s (b + 21) 1
def pARMCORE (s : State) (b : Nat) : Nat := memNat s (b + 22) 1
def pSEQ (s : State) (b : Nat) : Nat := memNat s (b + 24) 8
def pPTIME (s : State) (b : Nat) : Nat := memNat s (b + 32) 8
def pGRABFAIL (s : State) (b : Nat) : Nat := memNat s (b + 40) 4
def pCLAIMFAIL (s : State) (b : Nat) : Nat := memNat s (b + 44) 4
def pARMRANK (s : State) (b : Nat) : Nat := memNat s (b + 48) 2
def pCLAIM (s : State) (b w : Nat) : Word := s.memWord (b + 64 + 8 * w)
def pSLOT (s : State) (b k : Nat) : Nat := memNat s (b + 128 + 2 * k) 2
def pLive (s : State) (b : Nat) : Bool := pSTATE s b % 2 = 1
def slotState (v : Nat) : Nat := v % 4
def slotPins (v : Nat) : Nat := v / 4 % 64

def State.putNat (s : State) (a n v : Nat) : State := { s with mem := writeBytes s.mem a (natLe n v) }
def setSlotW (s : State) (b k st pins : Nat) : State := s.putNat (b + 128 + 2 * k) 2 (st + 4 * pins)

/-- R321: a physical address lies in a live block: 256 bytes of slice memory with LIVE set, which some address space maps as a pool
page. -/
def liveBlock (s : State) (pa : Nat) : Bool :=
  paRegion pa = 1 && pLive s (pa / 256 * 256) && mappedAs s 1 pa
/-- R321, R336: a write of a live pool block, by whatever page, or of a cue cell that is not VALUE. -/
def writeFault (s : State) (x : Xlat) : Bool :=
  (x.attr = 1 && pLive s (x.pa / 256 * 256)) || (x.attr = 2 && s.tag x.pa ≠ tagVALUE) || liveBlock s x.pa
/-- R320: slot 0 lies in HBM or slice memory; an address that no entry maps yet may (log 16). -/
def baseOk (s : State) (asid b : Nat) : Bool :=
  match physAt s asid (BitVec.ofNat 64 (pBASE s b)) with
  | some x => paRegion x.pa ≤ 1
  | none => true
/-- R321: whether an image can be armed by a role of an address space. -/
def poolImageOk (s : State) (asid b : Nat) : Bool :=
  let n := pNSLOT s b
  pBASE s b ≠ 0 && canonical (BitVec.ofNat 64 (pBASE s b)) && baseOk s asid b && pBASE s b % 64 = 0 && pBYTES s b % 64 = 0 && 64 ≤ pBYTES s b && pBYTES s b ≤ 2 ^ 31 &&
  2 ≤ n && n ≤ 64 && 1 ≤ pWR s b && pWR s b ≤ 8 && 1 ≤ pPN s b && pPN s b ≤ 62 && 1 ≤ pSCOPE s b && pSCOPE s b ≤ 4 &&
  pPN s b + pWR s b + 1 ≤ n && pLATEST s b = 0xFF && pSEQ s b = 0 && pPINS s b = 0 && pSTATE s b = 0 &&
  memNat s (b + 18) 2 = 0 && pPART s b = 0 && pARMCORE s b = 0 && pARMRANK s b = 0 && pPTIME s b = 0 &&
  pGRABFAIL s b = 0 && pCLAIMFAIL s b = 0 && memNat s (b + 23) 1 = 0 && memNat s (b + 50) 14 = 0 &&
  (List.range 8).all (fun w => pCLAIM s b w == 0xFF) && (List.range 64).all (fun k => pSLOT s b k == 0)

/-- R321: arming records the operation's role. -/
def poolArm (s : State) (b k : Nat) (r : Role) : State :=
  ((((s.putNat (b + 17) 1 1).putNat (b + 18) 2 r.asid.toNat).putNat (b + 20) 1 r.part.toNat).putNat (b + 22) 1 (k / 4)).putNat
    (b + 48) 2 (r.rank.toNat % 2 ^ 16)

/-- R333 reason 3: a role is in the pool's instance of SCOPE. -/
def inPoolScope (s : State) (b k : Nat) (r : Role) : Bool :=
  let same := r.rank.toNat % 2 ^ 16 == pARMRANK s b
  match pSCOPE s b with
  | 1 => same && k / 4 == pARMCORE s b
  | 2 => same && k / 4 / 32 == pARMCORE s b / 32
  | 3 => same
  | _ => true

/-! ### Claims, slots, holds -/

/-- R320: a CLAIM entry. -/
def claimWord (slot k rank : Nat) : Word := BitVec.ofNat 64 (slot + k / 4 * 2 ^ 8 + k % 4 * 2 ^ 16 + rank * 2 ^ 32)
/-- The CLAIM entry that records slot j and role k as its owner. -/
def claimEntry (s : State) (b k rank j : Nat) : Option Nat := (List.range 8).find? (fun w => pCLAIM s b w == claimWord j k rank)
/-- The CLAIM entry of slot j of a pool, where the role holds j claimed: by its hold list (R326), and by the entry, so that a hold of a pool
that has been retired and armed anew since claims nothing (R321, R322). -/
def claimBy (s : State) (k : Nat) (r : Role) (pool : Word) (b j : Nat) : Option Nat :=
  if r.holds.contains { pool := pool, slot := j, pin := false } then claimEntry s b k (r.rank.toNat % 2 ^ 16) j else none
/-- The role holds a claim on a pool. -/
def claimsAny (s : State) (k : Nat) (r : Role) (pool : Word) (b : Nat) : Bool :=
  r.holds.any (fun h => h.pool == pool && !h.pin && (claimBy s k r pool b h.slot).isSome)
def claimsHeld (s : State) (b : Nat) : Nat := (List.range 8).countP (fun w => bits (pCLAIM s b w) 7 0 ≠ 0xFF)
/-- R331: the slot of B. -/
def slotOfB (s : State) (b : Nat) (v : Word) : Option Nat :=
  if v.toNat < pBASE s b || pBYTES s b = 0 then none
  else
    let d := v.toNat - pBASE s b
    if d % pBYTES s b = 0 && d / pBYTES s b < pNSLOT s b then some (d / pBYTES s b) else none
def slotAddr (s : State) (b k : Nat) : Word := BitVec.ofNat 64 (pBASE s b + k * pBYTES s b)

/-- Remove one matching entry from a hold list. -/
def unhold : List Hold → Hold → List Hold
  | [], _ => []
  | h :: t, x => if h = x then t else h :: unhold t x

/-- R322: free a claimed slot of entry w. -/
def poolFree (s : State) (b w j : Nat) : State := (setSlotW s b j 0 0).putNat (b + 64 + 8 * w) 8 0xFF
/-- R322: publish the slot j of CLAIM entry w. -/
def poolPublish (s : State) (b w j : Nat) : State :=
  let old := pLATEST s b
  let s1 := if old = 0xFF then s
            else
              let pins := slotPins (pSLOT s b old)
              setSlotW s b old (if pins = 0 then 0 else 3) pins
  ((((setSlotW s1 b j 2 0).putNat (b + 64 + 8 * w) 8 0xFF).putNat (b + 24) 8 (pSEQ s b + 1)).putNat (b + 32) 8 s.dtime).putNat (b + 16) 1 j
/-- R322: one pin more, one pin less. -/
def poolPin (s : State) (b j : Nat) : State :=
  (setSlotW s b j (slotState (pSLOT s b j)) (slotPins (pSLOT s b j) + 1)).putNat (b + 21) 1 (pPINS s b + 1)
def poolUnpin (s : State) (b j : Nat) : State :=
  let v := pSLOT s b j
  let pins := slotPins v - 1
  (setSlotW s b j (if slotState v = 3 && pins = 0 then 0 else slotState v) pins).putNat (b + 21) 1 (pPINS s b - 1)

/-! ### The operations (R331 to R333) -/

/-- What an operation answers: values for its destinations with the hold list, or a misuse. -/
inductive PoolRes where
  | ok (st : State) (vals : List (Dest × Row)) (holds : List Hold)
  | misuse (reason : Nat)
  deriving Repr

/-- PSTAT (R332). -/
def poolStatWord (s : State) (b : Nat) (sel : Word) : Option Word :=
  if sel.toNat < pNSLOT s b then
    let v := pSLOT s b sel.toNat
    let own := (List.range 8).find? (fun w => bits (pCLAIM s b w) 7 0 = sel.toNat && slotState v = 1)
    let ow := match own with
      | some w =>
        let c := pCLAIM s b w
        bits c 47 32 * 2 ^ 48 + bits c 17 16 * 2 ^ 16 + bits c 15 8 * 2 ^ 8
      | none => 0
    some (BitVec.ofNat 64 (ow + v % 256))
  else if sel = -1 then
    some (BitVec.ofNat 64 (pLATEST s b + pNSLOT s b * 2 ^ 8 + claimsHeld s b * 2 ^ 16 + pPINS s b * 2 ^ 24 + pGRABFAIL s b * 2 ^ 32))
  else if sel = -2 then some (BitVec.ofNat 64 (pSEQ s b))
  else if sel = -3 then some (BitVec.ofNat 64 (pPTIME s b))
  else none

/-- One operation of the pool unit on the armed block at b, for request a of role k. -/
def poolOp (s : State) (k : Nat) (r : Role) (a : Access) (op b : Nat) : PoolRes :=
  let rank := r.rank.toNat % 2 ^ 16
  let full := 16 ≤ r.holds.length
  match op with
  | 0 =>
    if claimsAny s k r a.addr b then .misuse 4
    else if full then .misuse 7
    else
      let free := (List.range (pNSLOT s b)).find? (fun j => slotState (pSLOT s b j) = 0)
      let ent := (List.range (pWR s b)).find? (fun w => bits (pCLAIM s b w) 7 0 = 0xFF)
      match free, ent with
      | some j, some w =>
        let s' := (setSlotW s b j 1 0).putNat (b + 64 + 8 * w) 8 (claimWord j k rank).toNat
        .ok s' (toDests a.dests (widen (slotAddr s b j))) (r.holds ++ [{ pool := a.addr, slot := j, pin := false }])
      | _, _ => .ok (s.putNat (b + 44) 4 (pCLAIMFAIL s b + 1)) (toDests a.dests 0) r.holds
  | 1 | 2 =>
    match slotOfB s b a.v with
    | none => .misuse 8
    | some j =>
      match claimBy s k r a.addr b j with
      | none => .misuse 5
      | some w =>
        .ok (if op = 1 then poolPublish s b w j else poolFree s b w j) [] (unhold r.holds { pool := a.addr, slot := j, pin := false })
  | 3 =>
    if full then .misuse 7
    else if pLATEST s b = 0xFF || pPINS s b = pPN s b then
      .ok (s.putNat (b + 40) 4 (pGRABFAIL s b + 1)) (toDests (a.dests.take 1) 0) r.holds
    else
      let j := pLATEST s b
      let words : List Word := [slotAddr s b j, BitVec.ofNat 64 (pSEQ s b), BitVec.ofNat 64 (s.dtime - pPTIME s b)]
      .ok (poolPin s b j) (a.dests.zip ((1 : Row) :: words.map widen))
        (r.holds ++ [{ pool := a.addr, slot := j, pin := true }])
  | 4 =>
    match slotOfB s b a.v with
    | none => .misuse 8
    | some j =>
      if r.holds.contains { pool := a.addr, slot := j, pin := true } then
        .ok (poolUnpin s b j) [] (unhold r.holds { pool := a.addr, slot := j, pin := true })
      else .misuse 6
  | _ =>
    match poolStatWord s b a.v with
    | some w => .ok s (toDests a.dests (widen w)) r.holds
    | none => .misuse 9

/-- What a POOL request does at the pool unit whose block stands at b (R321, R331, R333). -/
inductive PoolServed where
  | fault (code reason : Nat)
  | done (st : State) (vals : List (Dest × Row)) (holds : List Hold)
  deriving Repr

def servePool (s : State) (k : Nat) (a : Access) (op b attr : Nat) : PoolServed :=
  let r := s.role k
  if attr ≠ 1 then .fault tPOOL 2
  else if !pLive s b && (op = 2 || op = 4) then
    match slotOfB s b a.v with
    | some j => .done s [] (unhold r.holds { pool := a.addr, slot := j, pin := op = 4 })
    | none => .done s [] r.holds
  else
    let armed := if pLive s b then some s else if poolImageOk s r.asid.toNat b then some (poolArm s b k r) else none
    match armed with
    | none => .fault tPOOL 1
    | some s' =>
      if pPART s' b ≠ r.part.toNat then .fault tVIOL 0
      else if !inPoolScope s' b k r then .fault tPOOL 3
      else
        match poolOp s' k r a op b with
        | .misuse n => .fault tPOOL n
        | .ok s'' vals holds => .done s'' vals holds

/-- R327 steps 2 and 3 for one entry of a hold list: a claim is aborted, a pin released. -/
def releaseHold (s : State) (asid k rank : Nat) (h : Hold) : State :=
  match translate s (k / 4) asid h.pool .rd with
  | .error _ => s
  | .ok x =>
    let s := x.st
    if x.attr ≠ 1 || !pLive s x.pa then s
    else if h.pin then (if slotPins (pSLOT s x.pa h.slot) = 0 then s else poolUnpin s x.pa h.slot)
    else
      match claimEntry s x.pa k rank h.slot with
      | some w => poolFree s x.pa w h.slot
      | none => s
/-- R327: the holds of a role that goes to FREE: claims first, then pins. -/
def releaseHolds (s : State) (asid k rank : Nat) (hs : List Hold) : State :=
  ((hs.filter (fun h => !h.pin)) ++ (hs.filter (fun h => h.pin))).foldl (fun s h => releaseHold s asid k rank h) s

end Sys2Proof.Machine
end

