-- ==== Sys2Proof/Machine/Window.lean ====
section
/-! DEFINITION. The Curtain unit (21_windows R406 to R420): record streams, watermarks, windows, and what a WIN request does
where it is served. -/

namespace Sys2Proof.Machine

/-! ### Streams and specifications (R407, R412) -/

def State.cstream (s : State) (n : Nat) : CStream := mget CStream.reset s.strms n
def State.setCstream (s : State) (n : Nat) (x : CStream) : State := { s with strms := mput s.strms n x }
def CStream.specNat (c : CStream) (o n : Nat) : Nat := leNat ((c.spec.drop o).take n)
def CStream.handler (c : CStream) : Word := BitVec.ofNat 64 (c.specNat 0 8)
def CStream.encore (c : CStream) : Word := BitVec.ofNat 64 (c.specNat 8 8)
def CStream.size (c : CStream) : Nat := c.specNat 16 8
def CStream.slide (c : CStream) : Nat := c.specNat 24 8
def CStream.late (c : CStream) : Nat := c.specNat 32 8
def CStream.pool (c : CStream) : Word := BitVec.ofNat 64 (c.specNat 40 8)
def CStream.hint (c : CStream) : Word := BitVec.ofNat 64 (c.specNat 48 8)

/-- R412: the rules a specification keeps. -/
def specOk (c : CStream) : Bool :=
  c.handler.toNat % 32 = 0 && c.encore.toNat % 32 = 0 && 1000 ≤ c.size && 1 ≤ c.slide && c.size % c.slide = 0 &&
  c.size / c.slide ≤ 16 && c.pool.toNat % 256 = 0 && c.pool != 0 && hintOk c.hint && c.specNat 56 1 ≤ 1 &&
  (c.specNat 56 1 = 1 || c.slide = c.size) && c.specNat 57 7 = 0

/-! ### Windows -/

def State.win? (s : State) (i : Nat) : Option CWin := mfind s.wins i
def State.setWin (s : State) (i : Nat) (w : CWin) : State := { s with wins := mput s.wins i w }
def winStart (c : CStream) (k : Nat) : Nat := k * c.slide
def winEnd (c : CStream) (k : Nat) : Nat := k * c.slide + c.size
/-- R413: the windows that cover an event time. -/
def covers (c : CStream) (t : Nat) : List Nat :=
  ((List.range (c.size / c.slide)).reverse.filterMap (fun j => if j ≤ t / c.slide then some (t / c.slide - j) else none))
/-- The slot of window k of stream n. -/
def winSlot (s : State) (n k : Nat) : Option Nat :=
  (s.wins.find? (fun w => w.2.stream = n && w.2.k = k)).map (·.1)
def CWin.count (w : CWin) : Nat := w.recs.length + w.encore.length + w.taken.length
/-- R408: pages that the windows of a stream use. -/
def pagesUsed (s : State) (n : Nat) : Nat :=
  (s.wins.map (fun w => if w.2.stream = n then w.2.pages.length else 0)).sum
/-- The lowest free page of a stream's record buffer. -/
def freePage (s : State) (n : Nat) : Nat :=
  ((List.range (pagesUsed s n + 1)).find? (fun p => s.wins.all (fun w => w.2.stream ≠ n || !w.2.pages.contains p))).getD 0
/-- R408: a record takes the next place in the window's pages, in a fresh page where the last is full: the state with the record there,
and the window's pages. -/
def storeRec (s : State) (w : CWin) (rec_ : List Byte) : State × List Nat :=
  let pages := if w.count % 64 = 0 then w.pages ++ [freePage s w.stream] else w.pages
  let a := (s.cstream w.stream).buf.toNat + 4096 * pages.getLastD 0 + 64 * (w.count % 64)
  (s.memWrite (paNorm a) rec_, pages)
/-- R429: a window's record of a place, counted in order of acceptance, lies in poisoned memory. -/
def recPoisoned (s : State) (w : CWin) (i : Nat) : Bool :=
  memPoisoned s (paNorm ((s.cstream w.stream).buf.toNat + 4096 * w.pages.getD (i / 64) 0 + 64 * (i % 64))) 64
def freeWin (s : State) : Option Nat := (List.range 4096).find? (fun i => (s.win? i).isNone)
/-- R413: a window id. -/
def winId (i n : Nat) : Word := BitVec.ofNat 64 (i + n * 2 ^ 12)

/-- R416: a dropped record goes to the late log. -/
def lateLog (s : State) (n : Nat) (rec_ : List Byte) : State :=
  let c := s.cstream n
  let a := paNorm (c.log.toNat + 64 * (c.dropped % one0 c.logn.toNat))
  (s.memWrite a rec_).setCstream n { c with dropped := (c.dropped + 1) % 2 ^ 64 }

/-- R415: queue the arrival of window i, which starts a new turn of it. -/
def queueArrival (s : State) (i : Nat) (w : CWin) (st : WState) : State :=
  let wm := (s.cstream w.stream).wm
  { s.setWin i { w with st := st, cursor := 0, holder := none } with curq := s.curq ++ [{ win := i, wm := wm }] }

/-- R414: a window closes: its encore list goes to the late log, its slot is free. -/
def closeWin (s : State) (i : Nat) (w : CWin) : State :=
  w.encore.foldl (fun s x => lateLog s w.stream x) { s with wins := mdel s.wins i }
/-- Close a PUBLISHED or STALLED window once the watermark has passed its lateness. -/
def closeIfDue (s : State) (i : Nat) : State :=
  match s.win? i with
  | none => s
  | some w =>
    let c := s.cstream w.stream
    if (w.st == .published || w.st == .stalled) && winEnd c w.k + c.late ≤ c.wm then closeWin s i w else s

/-- Insert by a key. -/
def insertBy {α : Type} (le : α → α → Bool) (x : α) : List α → List α
  | [] => [x]
  | y :: t => if le x y then x :: y :: t else y :: insertBy le x t
def sortBy {α : Type} (le : α → α → Bool) (l : List α) : List α := l.foldr (insertBy le) []
/-- Lexicographic order of lists of numbers. -/
def lexLe : List Nat → List Nat → Bool
  | [], _ => true
  | _ :: _, [] => false
  | a :: t, b :: u => a < b || (a = b && lexLe t u)

/-- R414, R415: the firings and closes that the watermarks have made due; firings in ascending (end, start, stream). -/
def settleWindows (s : State) : State :=
  let due := s.wins.filter (fun w => w.2.st == .open_ && winEnd (s.cstream w.2.stream) w.2.k ≤ (s.cstream w.2.stream).wm)
  let key (w : Nat × CWin) : List Nat :=
    [winEnd (s.cstream w.2.stream) w.2.k, winStart (s.cstream w.2.stream) w.2.k, w.2.stream]
  let s := (sortBy (fun a b => lexLe (key a) (key b)) due).foldl (fun s w => queueArrival s w.1 w.2 .firing) s
  (s.wins.map (·.1)).foldl closeIfDue s

/-! ### Watermarks (R409 to R411) -/

/-- R410: the combined watermark of a stream, recomputed. -/
def newWm (c : CStream) (dtime : Nat) : Nat :=
  match (c.srcs.filter (·.active)).map (·.sw) with
  | x :: t => max c.wm (t.foldl min x)
  | [] => if c.fl.getLsbD 0 && c.fbdelay.toNat < dtime then max c.wm (dtime - c.fbdelay.toNat) else c.wm
def recompute (s : State) (n : Nat) : State :=
  settleWindows (s.setCstream n { s.cstream n with wm := newWm (s.cstream n) s.dtime })
/-- A source reports: it is ACTIVE and its idle timer restarts. -/
def touchSrc (s : State) (n i : Nat) (f : Src → Src) : State :=
  let c := s.cstream n
  s.setCstream n { c with srcs := c.srcs.modify i (fun x => f { x with active := true, last := s.dtime }) }
/-- R411: the cap of an upstream stream. -/
def capped (s : State) (c : CStream) (i v : Nat) : Nat :=
  let u := (mget (0 : Byte) c.up i).toNat
  if u ≠ 255 && (s.cstream u).isOpen then min v (s.cstream u).wm else v

/-- R409, R410: a test of the idle timers. -/
def idleTest (s : State) : State :=
  let now := s.dtime
  let idle (c : CStream) (x : Src) : Src :=
    if x.active && c.idle ≠ 0 && c.idle.toNat ≤ now - x.last then { x with active := false } else x
  let strms := s.strms.map (fun p =>
    if p.2.isOpen then
      let c := { p.2 with srcs := p.2.srcs.map (idle p.2) }
      (p.1, { c with wm := newWm c now })
    else p)
  settleWindows { s with strms := strms }
/-- IDLE_TIMER_TEST: the test falls on a whole µs. -/
def execIdleTimerTest (s : State) : Host.Outcome State Fault Refusal := .next (if s.cycle % 1250 = 0 then idleTest s else s)

/-! ### Records (R416, R418) -/

/-- What happens to a record at one window. -/
inductive Route where
  | append | fire | encore | drop
  deriving DecidableEq, Repr
def routeOf (s : State) (n : Nat) (t k : Nat) : Route :=
  let c := s.cstream n
  let inTime := c.wm ≤ t + c.late
  match (winSlot s n k).bind s.win? with
  | some w =>
    match w.st with
    | .open_ => .append
    | .firing | .published | .amending => if inTime then .encore else .drop
    | .stalled => .drop
  | none => if c.wm < winEnd c k then .append else if inTime then .fire else .drop

/-- Whether window k needs a new slot, and whether a page, for one more record. -/
def needsSlot (s : State) (n k : Nat) : Bool := (winSlot s n k).isNone
def needsPage (s : State) (n k : Nat) : Bool :=
  match (winSlot s n k).bind s.win? with
  | some w => w.count % 64 = 0
  | none => true

/-- Put a record into window k by its route. -/
def putRecord (s : State) (n : Nat) (rec_ : List Byte) (k : Nat) (r : Route) : State :=
  match r with
  | .drop => s
  | .append | .fire =>
    match winSlot s n k with
    | some i => (match s.win? i with
      | some w =>
        let (s, ps) := storeRec s w rec_
        s.setWin i { w with recs := w.recs ++ [rec_], pages := ps }
      | none => s)
    | none =>
      match freeWin s with
      | none => s
      | some i =>
        let w : CWin :=
          { pages := [], stream := n, k := k, st := .open_, recs := [], encore := [], taken := [], cursor := 0, rev := 0, holder := none }
        let (s, ps) := storeRec s w rec_
        let w := { w with recs := [rec_], pages := ps }
        if r = .fire then queueArrival s i w .firing else s.setWin i w
  | .encore =>
    match winSlot s n k with
    | some i => (match s.win? i with
      | some w =>
        let (s, ps) := storeRec s w rec_
        let w := { w with encore := w.encore ++ [rec_], pages := ps }
        if w.st == .published then queueArrival s i w .amending else s.setWin i w
      | none => s)
    | none => s

/-- RECAPP on an open stream: the state and the result word. -/
def recapp (s : State) (n i : Nat) (rec_ : List Byte) : State × Word :=
  let t := leNat (rec_.take 8)
  let c := s.cstream n
  let rs := (covers c t).map (fun k => (k, routeOf s n t k))
  let taking := rs.filter (fun p => p.2 ≠ .drop)
  let slots := taking.countP (fun p => needsSlot s n p.1)
  let pages := taking.countP (fun p => needsPage s n p.1)
  if 4096 < s.wins.length + slots || (0 < pages && c.bufPages.toNat < pagesUsed s n + pages) then (s, 8)
  else
    let s := rs.foldl (fun s p => putRecord s n rec_ p.1 p.2) s
    let dropped := rs.any (fun p => p.2 = .drop)
    let s := if dropped then lateLog s n rec_ else s
    let d := (if rs.any (fun p => p.2 = .append || p.2 = .fire) then 1 else 0) + (if rs.any (fun p => p.2 = .encore) then 2 else 0) +
      (if dropped then 4 else 0)
    (recompute (touchSrc s n i id) n, BitVec.ofNat 64 d)

/-! ### WIN requests where they are served (R417, R418, R420) -/

/-- What a WIN request answers: a fault with code and reason, or the state and the destination's value. -/
inductive WinServed where
  | fault (code reason : Nat) (i0 : Word)
  | done (st : State) (vals : List (Dest × Row))
  deriving Repr

/-- R409: a source word: stream, source, rank; none where a bit that must be 0 is set. -/
def sourceOf (w : Word) : Option (Nat × Nat × Nat) :=
  if bits w 63 32 = 0 && bits w 15 14 = 0 then some (bits w 7 0, bits w 13 8, bits w 31 16) else none

/-- R409: a source word names a source of a stream of another rank. -/
def peerSource (r : Role) (w : Word) : Bool := bits w 31 16 ≠ 0xFFFF && bits w 31 16 ≠ r.rank.toNat % 2 ^ 16
/-- The stream and source of a source word that this device serves, checked (R417, R420). One of another rank of the process group is
sent over a PEER port (R388): a link error where that is down. -/
def withSource (s : State) (k : Nat) (w : Word) (peer : State → WinServed) (f : Nat → Nat → WinServed) : WinServed :=
  let r := s.role k
  match sourceOf w with
  | none => .fault tWIN 1 w
  | some (n, i, rank) =>
    if peerSource r w then
      if max 1 (r.rank.toNat / 2 ^ 16) ≤ rank then .fault tPROT 0 w
      else if !((portTo s r rank n).any (fun q => (s.port q).takes)) then .fault tPOISON 0xFFFE w
      else peer s
    else
      let c := s.cstream n
      if c.part.toNat ≠ (s.role k).part.toNat then .fault tVIOL 0 w
      else if !c.isOpen then .fault tWIN 1 w
      else if c.nsrc.toNat ≤ i then .fault tWIN 2 w
      else f n i

/-- The window of a window id, checked. -/
def withWin (s : State) (k : Nat) (id : Word) (f : Nat → CWin → WinServed) : WinServed :=
  if bits id 63 20 ≠ 0 then .fault tWIN 3 id
  else
    let n := bits id 19 12
    if (s.cstream n).part.toNat ≠ (s.role k).part.toNat then .fault tVIOL 0 id
    else
      match s.win? (bits id 11 0) with
      | none => .fault tWIN 3 id
      | some w => if w.stream = n then f (bits id 11 0) w else .fault tWIN 3 id
def heldBy (w : CWin) (k : Nat) (r : Role) : Bool := w.holder == some (k, r.lid)

/-- A record delivered to the issuer's tile window. -/
def deliverRec (s : State) (k : Nat) (off : Nat) (rec_ : List Byte) : State :=
  match tileRange (s.role k) (s.arrBase (k / 4)) off 64 with
  | some p => s.tileWrite (k / 4) p rec_
  | none => s

/-- R418: the 32-byte header of a slot. -/
def winHeader (c : CStream) (i : Nat) (w : CWin) : List Byte :=
  natLe 8 (winStart c w.k) ++ natLe 8 (winEnd c w.k) ++ natLe 4 (w.rev + 1) ++ natLe 4 (w.recs.length + w.taken.length) ++
  natLe 4 (i + w.stream * 2 ^ 12) ++ natLe 4 0

/-- R414: the window after the holder's WPUB. -/
def publishedWin (s : State) (i : Nat) (w : CWin) : State :=
  let w := { w with rev := w.rev + 1, recs := w.recs ++ w.taken, taken := [], st := .published }
  if w.encore = [] then closeIfDue (s.setWin i w) i else queueArrival s i w .amending

/-- WPUB (R418): the pool part first, then the header, which no PEER or HOST port carries to a host (R389). -/
def wpub (s : State) (k : Nat) (a : Access) (i : Nat) (w : CWin) : WinServed :=
  let r := s.role k
  let c := s.cstream w.stream
  let to_ (s : State) (va : Word) (want : Want) : Except Nat Xlat :=
    translateA s (k / 4) a.afresh r.asid.toNat (s.asid r.asid.toNat).gen va want
  match to_ s c.pool .rd with
  | .error _ => .fault tPOOL 2 c.pool
  | .ok x =>
    if x.attr = 1 && memPoisoned x.st x.pa 256 then .fault tPOISON 0 c.pool
    else
    match servePool x.st k { a with addr := c.pool, dests := [] } 1 x.pa x.attr with
    | .fault code reason => .fault code reason c.pool
    | .done s1 _ holds =>
      match to_ s1 a.v .wr with
      | .error code => .fault code 0 a.v
      | .ok y =>
        if y.attr = 3 || paRegion y.pa = 4 || writeFault y.st y || !inGroup r y.pa then .fault tPROT 0 a.v
        else if !linkUp y.st r y.pa then .fault tPOISON 0xFFFE a.v
        else
        let s2 := (y.st.memWrite y.pa (winHeader c i w)).modRoleAt k (fun r => { r with holds := holds })
        .done (publishedWin s2 i w) []

/-- R418: one of the words that a RECAPP of a peer's stream may answer: 1 to 7, or 8 where it is refused. -/
def recappReply (w : Word) : Word := BitVec.ofNat 64 (w.toNat % 8 + 1)

/-- What WIN request op of role k does; `data` is the record of a RECAPP, `listOff` the tile offset of WNEXT and WLATE. -/
def serveWin (s : State) (k : Nat) (a : Access) (op : Nat) : WinServed :=
  let r := s.role k
  match op with
  | 0 => withSource s k a.addr
      (fun s => .done { s with fresh := s.fresh + 1 } (toDests a.dests (widen (recappReply (Config.peerReply s.fresh)))))
      (fun n i => let (s', d) := recapp s n i a.data; .done s' (toDests a.dests (widen d)))
  | 1 => withSource s k a.addr (fun s => .done s [])
      (fun n i => .done (recompute (touchSrc s n i (fun x => { x with sw := max x.sw (capped s (s.cstream n) i a.v.toNat) })) n) [])
  | 2 => withSource s k a.addr (fun s => .done s [])
      (fun n i =>
        let c := s.cstream n
        .done (recompute (s.setCstream n { c with srcs := c.srcs.modify i (fun x => { x with active := false }) }) n) [])
  | 3 => withWin s k a.addr (fun i w =>
      if !heldBy w k r then .fault tWIN 4 a.addr
      else
        match w.recs[w.cursor]? with
        | some x =>
          if recPoisoned s w w.cursor then .fault tPOISON 0 a.addr
          else .done (deliverRec (s.setWin i { w with cursor := w.cursor + 1 }) k a.listOff.toNat x) (toDests a.dests 1)
        | none => .done s (toDests a.dests 0))
  | 4 => withWin s k a.addr (fun i w =>
      if !heldBy w k r then .fault tWIN 4 a.addr
      else if w.st ≠ .firing && w.st ≠ .amending then .fault tWIN 5 a.addr
      else wpub s k a i w)
  | _ => withWin s k a.addr (fun i w =>
      if !heldBy w k r then .fault tWIN 4 a.addr
      else
        match w.encore with
        | x :: t =>
          if recPoisoned s w (w.recs.length + w.taken.length) then .fault tPOISON 0 a.addr
          else .done (deliverRec (s.setWin i { w with encore := t, taken := w.taken ++ [x] }) k a.listOff.toNat x) (toDests a.dests 1)
        | [] => .done s (toDests a.dests 0))

/-- R414: role k goes DORMANT or FREE: the windows it holds that wait for its WPUB stall, with notice 3. -/
def stallHeld (s : State) (k : Nat) (r : Role) : State :=
  (s.wins.filter (fun w => heldBy w.2 k r && (w.2.st == .firing || w.2.st == .amending))).foldl (fun s p =>
    let w := { p.2 with st := .stalled, encore := p.2.taken ++ p.2.encore, taken := [] }
    let s := (s.setWin p.1 w).notice (s.cstream w.stream).part.toNat (k / 4) 3 w.stream 0
    closeIfDue s p.1) s
def stallWindows (s : State) (k : Nat) : State := stallHeld s k (s.role k)

/-- R415: the arrival of a window. -/
def winArrival (s : State) (e : CArr) (w : CWin) (rank : Nat) : Arrival :=
  let c := s.cstream w.stream
  let enc := w.st == .amending
  { asid := c.asid, handler := if enc then c.encore else c.handler,
    payload := natLe 8 (winStart c w.k) ++ natLe 8 (winEnd c w.k) ++ natLe 8 e.wm ++ natLe 4 (e.win + w.stream * 2 ^ 12) ++
      natLe 2 w.rev ++ natLe 1 (if enc then 1 else 0) ++ natLe 1 0,
    sender := BitVec.ofNat 64 (w.stream + rank * 2 ^ 16 + 2 * 2 ^ 32), x4 := winId e.win w.stream }
/-- R415: the core an arrival can go to now: the hinted place first, then the partition's cores. -/
def winPlace (s : State) (e : CArr) : Option (Nat × Arrival) :=
  match s.win? e.win with
  | none => none
  | some w =>
    let c := s.cstream w.stream
    let a := winArrival s e w 0
    let all := List.range 256
    let hinted := match bits c.hint 9 8 with
      | 1 => [bits c.hint 7 0]
      | 2 => all.filter (fun x => x / 32 == bits c.hint 7 0)
      | 3 => all.filter (fun x => x / 64 == bits c.hint 7 0)
      | _ => []
    (((hinted ++ all).filter (fun x => ((s.partOr c.part.toNat).record.cores).contains x)).find? (fun x =>
      (qualifying s x a.asid a.handler).isSome && ((s.core x).freeArea).isSome)).map (fun x =>
        (x, winArrival s e w (rankAt s x a.asid a.handler)))

/-- CURTAIN_ARRIVAL_DISPATCH: the oldest queued arrival for which a role qualifies is placed (R415). -/
def execCurtainArrivalDispatch (s : State) : Host.Outcome State Fault Refusal :=
  match (s.curq.take 256).find? (fun e => (winPlace s e).isSome) with
  | none => .next s
  | some e =>
    match winPlace s e with
    | none => .next s
    | some (core, a) =>
      match s.accept core a with
      | some s' => .next { s' with curq := s.curq.filter (fun x => x.win ≠ e.win) }
      | none => .next s

end Sys2Proof.Machine
end

