-- ==== Sys2Proof/Machine/Launch.lean ====
section
/-! DEFINITION. Launch records, levels, LAUNCH as it is served, and the completion words that LWAIT reads (14_launches R294
to R301, R314, R317 to R319). -/

namespace Sys2Proof.Machine

/-! ### Records (R294, R295) -/

def recN (bs : List Byte) (o n : Nat) : Nat := leNat ((bs.drop o).take n)
def recFlags (bs : List Byte) : Nat := recN bs 2 2
def recDet (bs : List Byte) : Bool := recFlags bs % 2 = 1
def recStanding (bs : List Byte) : Bool := recFlags bs / 2 % 2 = 1
def recPrio (bs : List Byte) : Nat := recFlags bs / 4 % 16
def recDigest (bs : List Byte) : Bool := recFlags bs / 64 % 2 = 1
def recRoles (bs : List Byte) : Nat := recN bs 4 1
def recTdecl (bs : List Byte) : Nat := recN bs 6 2
def recTwin (bs : List Byte) : Nat := recN bs 8 4
def recQuantum (bs : List Byte) : Nat := let q := recN bs 12 4; if q = 0 then 1000 else q
def recEntry (bs : List Byte) (i : Nat) : Word := BitVec.ofNat 64 (recN bs (16 + 8 * i) 8)
def recHw (bs : List Byte) : Word × Word := (BitVec.ofNat 64 (recN bs 48 8), BitVec.ofNat 64 (recN bs 56 8))
def recTrips (bs : List Byte) : List Nat := (List.range 4).map (fun i => recN bs (128 + 2 * i) 2)
def recPerm (bs : List Byte) : Nat := recN bs 136 1
def recGrain (bs : List Byte) : Nat := recN bs 138 2
def recGroup (bs : List Byte) : Word := BitVec.ofNat 64 (recN bs 144 8)
def recArgs (bs : List Byte) : Word := BitVec.ofNat 64 (recN bs 152 8)
def recRegions (bs : List Byte) : Word := BitVec.ofNat 64 (recN bs 160 8)
def recDone (bs : List Byte) : Word := BitVec.ofNat 64 (recN bs 168 8)
/-- R297: a level entry: domain, scope, extent (0 read as 1). -/
def recLevel (bs : List Byte) (l : Nat) : Nat × Nat × Nat :=
  (recN bs (64 + 8 * l) 1, recN bs (65 + 8 * l) 1, recN bs (68 + 8 * l) 4)
/-- The level count: the used entries before the first unused one. -/
def recLevels (bs : List Byte) : Nat := ((List.range 8).takeWhile (fun l => (recLevel bs l).1 ≠ 0)).length

def twinOk (t : Nat) : Bool := t % 65536 = 0 && 65536 ≤ t && t ≤ 4 * 2 ^ 20 - 65536
/-- R295, R298: the refusal codes 1 to 6 that a record earns. A SCOPE byte of 8 to 255 earns code 4, as 6 and 7 do (DESIGN CHOICE,
log 47). -/
def recCodes (bs : List Byte) : List Nat :=
  let e := (List.range 4).map (recEntry bs)
  let (hs, hl) := recHw bs
  let lv := (List.range 8).map (recLevel bs)
  let resv := recFlags bs / 128 ≠ 0 || recN bs 137 1 ≠ 0 || recN bs 140 4 ≠ 0 || recN bs 176 80 ≠ 0 ||
    (List.range 8).any (fun l => recN bs (66 + 8 * l) 2 ≠ 0)
  let q := recN bs 12 4
  (if recN bs 0 2 ≠ 1 || resv then [1] else []) ++
  (if recRoles bs < 1 || 4 < recRoles bs || 6 < recN bs 5 1 || !twinOk (recTwin bs) || 4 * 2 ^ 20 - 65536 < recRoles bs * recTwin bs ||
    (q ≠ 0 && (q < 100 || 1000000 < q)) then [2] else []) ++
  (if e.any (fun x => x != 0 && x.toNat % 8 ≠ 0) || hs.toNat % 32 ≠ 0 ||
    (hl != 0 && !recStanding bs && e.all (· == 0)) then [3] else []) ++
  (if lv.any (fun l => 6 < l.1 || 5 < l.2.1 || 65535 < l.2.2) || (lv.drop (recLevels bs)).any (fun l => l.1 ≠ 0) then [4] else []) ++
  (if !permOk (recPerm bs) then [5] else []) ++
  (if (recDone bs).toNat % 8 ≠ 0 || (recDigest bs && (recRegions bs).toNat % 16 ≠ 0) || (recGroup bs).toNat % 16 ≠ 0 then [6] else [])

/-- R317: the allocation word: first core and count, or none where refusal code 7 applies. -/
def allocWord (p : Partition) (b : Word) : Option (Nat × Nat) :=
  let f := bits b 7 0
  let n := bits b 16 8
  if bits b 63 17 = 0 && 1 ≤ n && n ≤ 256 && f + n ≤ 256 && (List.range n).all (fun i => p.cores.contains (f + i)) then some (f, n)
  else none

/-- Launches that wait in their partition's queues (R303). -/
def Part.waiting (p : Part) : Nat := p.launches.countP (fun l => l.st == .queued || l.st == .preempted)
/-- R295: the lowest refusal code, if any. -/
def refusal (p : Part) (bs : List Byte) (b : Word) : Option Nat :=
  (recCodes bs ++ (if (allocWord p.record b).isNone then [7] else []) ++ (if 256 ≤ p.waiting then [8] else [])).head?

/-- R318: launch ids count from 1 and skip 0. -/
def nextLid (i : BitVec 32) : BitVec 32 := if i + 1 = 0 then 1 else i + 1

/-- LAUNCH where it is served, with the record at physical address pa: the state and the value of D. -/
def serveLaunch (s : State) (k : Nat) (a : Access) (pa : Nat) : State × Word :=
  let r := s.role k
  let pn := r.part.toNat
  let p := s.partOr pn
  let bs := s.memRead pa 256
  match refusal p bs a.v with
  | some c => (s, BitVec.ofNat 64 (2 ^ 63 + c))
  | none =>
    let id := nextLid p.lastId
    let (f, n) := (allocWord p.record a.v).getD (0, 0)
    let l : Launch :=
      { id := id, ordinal := p.accepted + 1, rec_ := bs, recAddr := a.addr, asid := r.asid, first := f, count := n,
        rank := 0, groups := 1, masks := [], st := .queued,
        lines := [], swapped := [], qstart := 0, since := s.cycle, word := none }
    (s.setPart pn { p with launches := p.launches ++ [l], lastId := id, accepted := p.accepted + 1 }, id.setWidth 64)

/-! ### LWAIT (R319) -/

/-- The launch that most recently received an id. -/
def Part.launch? (p : Part) (id : Nat) : Option Launch :=
  (p.launches.filter (fun l => l.id.toNat = id)).foldl (fun b l => match b with
    | some x => if l.ordinal < x.ordinal then some x else some l
    | .none => some l) .none
/-- What an LWAIT on an id reads: none while it waits. -/
def lwaitWord (p : Part) (id : Word) : Option Word :=
  match p.launch? id.toNat with
  | none => some 0
  | some l =>
    match l.word with
    | none => none
    | some w => if l.ordinal + 16384 ≤ p.accepted then some 0 else some w

/-- Change the launches of a partition that have an id and are not yet done. -/
def State.modLaunch (s : State) (pn lid : Nat) (f : Launch → Launch) : State :=
  match mfind s.parts pn with
  | none => s
  | some p => s.setPart pn { p with launches := p.launches.map (fun l => if l.id.toNat = lid && l.word.isNone then f l else l) }
/-- The launch of an id that has not written its completion word. -/
def State.launch? (s : State) (pn lid : Nat) : Option Launch :=
  (s.partOr pn).launches.find? (fun l => l.id.toNat = lid && l.word.isNone)

/-! ### Groups and levels (R299 to R301) -/

/-- R299: index of a core's or role's unit, and the number of units on this device. -/
def unitOf (l : Launch) (dom key rank groups : Nat) : Nat × Nat :=
  let cores := (List.range l.count).map (· + l.first)
  let core := key / 4
  let place (f : Nat → Nat) : Nat × Nat := let us := (uniq (cores.map f)); (us.findIdx (· == f core), us.length)
  match dom with
  | 1 =>
    let ks := sortBy (fun a b => a ≤ b) ((l.lines.filter (·.participant)).map (·.key))
    (ks.findIdx (· == key), ks.length)
  | 2 => (core - l.first, l.count)
  | 3 => place (fun c => c / 64)
  | 4 => place (fun c => c / 32)
  | 5 => (rank, groups)
  | _ => (0, 1)
/-- The level CSR of a role (R299, R367). -/
def levelWord (l : Launch) (key lev rank groups : Nat) : Word :=
  if recLevels l.rec_ ≤ lev then 0
  else
    let (dom, sc, ext) := recLevel l.rec_ lev
    let (i, n) := unitOf l dom key rank groups
    let e := one0 ext
    BitVec.ofNat 64 (i % e + min e (n - i / e * e) * 2 ^ 16 + i / e % 2 ^ 16 * 2 ^ 32 + dom * 2 ^ 48 + sc * 2 ^ 56)
def levelInst (w : Word) : Nat := bits w 47 32
def levelUsed (w : Word) : Bool := bits w 55 48 ≠ 0
def levelScope (w : Word) : Nat := bits w 58 56

end Sys2Proof.Machine
end

