-- ==== Sys2Proof/Machine/Mem.lean ====
section
/-! DEFINITION. Memory instructions (10_isa_memory R233 to R246): their issue, and what their requests do where they are
served, with the faults of R231. -/

namespace Sys2Proof.Machine

/-- R227: a tile reference. -/
def isTileRef (a : Word) : Bool := bits a 63 56 = 0x80 && bits a 55 23 = 0
def tileOff (a : Word) : Nat := bits a 22 0

/-! ### Parts of a request

A request of more than 8 bytes is a sequence of accesses: granules of LDV and STV (R233), elements of GATHER and SCATTER
(R236). `done` counts those performed. -/

def Access.partLen (a : Access) : Nat :=
  match a.kind with
  | .gather | .scatter => a.size.bytes
  | _ => min a.size.bytes 64
def Access.parts (a : Access) : Nat :=
  match a.kind with
  | .gather | .scatter => 512 / a.size.bytes
  | .ldv | .stv => a.size.bytes / 64
  | _ => 1
/-- R235: the address of part i. -/
def Access.partAddr (a : Access) (i : Nat) : Word :=
  match a.kind with
  | .gather | .scatter => a.addr + (a.idx.getD i 0).signExtend 64 * BitVec.ofNat 64 a.size.bytes
  | _ => a.addr + BitVec.ofNat 64 (64 * i)
/-- The virtual bytes that a request touches. -/
def Access.ranges (a : Access) : List (Nat × Nat) :=
  match a.kind with
  | .fence | .pref | .win _ | .copy | .copys => []
  | .pool _ => [(a.addr.toNat, 256)]
  | .cue _ => [(a.addr.toNat, 64)]
  | .lch _ => [(a.addr.toNat, 256)]
  | _ => (List.range a.parts).map (fun i => ((a.partAddr i).toNat, a.partLen))
def meet (x y : Nat × Nat) : Bool := x.1 < y.1 + y.2 && y.1 < x.1 + x.2
/-- Physical bytes, where they translate. -/
def physRanges (s : State) (asid : Nat) (l : List (Nat × Nat)) : List (Nat × Nat) :=
  l.filterMap (fun r => (physAt s asid (BitVec.ofNat 64 r.1)).map (fun x => (x.pa, r.2)))
/-- Two lists of virtual ranges have a common byte (R266). -/
def touch (s : State) (asid : Nat) (l m : List (Nat × Nat)) : Bool :=
  l.any (fun x => m.any (meet x)) || (physRanges s asid l).any (fun x => (physRanges s asid m).any (meet x))
/-- Two requests of one role touch a common byte. -/
def overlap (s : State) (asid : Nat) (a b : Access) : Bool := touch s asid a.ranges b.ranges

/-- R324, R419: requests of one role to the pool units, and to the Curtain unit, are served in issue order. R324 orders those to one
pool; that those to different pools keep the order too is the model's choice (DESIGN CHOICE, log 47). -/
def sameQueue (a b : Access) : Bool :=
  match a.kind, b.kind with
  | .pool _, .pool _ | .win _, .win _ => true
  | _, _ => false

/-- A cue load that would not complete yet: its cell is CUE or RUNNING (R337, R340). -/
def wouldPark (s : State) (asid : Nat) (a : Access) : Bool :=
  a.isPlainLoad && (match peek s asid a.addr .rd with
    | .ok x => x.attr = 2 && (s.tag x.pa = tagCUE || s.tag x.pa = tagRUNNING)
    | .error _ => false)
/-- Earlier requests that a request of role r waits for. A cue load goes out to its cell, and parks there, past an earlier cue load
of another cell; it is not performed before it (log 17). -/
def waitsFor (s : State) (r : Role) (a b : Access) : Bool :=
  let n := r.asid.toNat
  let same := overlap s n a b
  b.stat.unperformed && ((b.cl == a.cl && (same || keepsBack s n b a) && !(!same && cueLoad s n b && wouldPark s n a)) || sameQueue a b)
/-- R266, R267: a request may be performed now. -/
def performable (s : State) (r : Role) (a : Access) : Bool :=
  a.stat == .pending && (earlier r a.id).all (fun b => !waitsFor s r a b)
def AStat.stuck : AStat → Bool
  | .faulted .. | .held => true
  | _ => false
/-- R393: the multicast set of a physical address of region 5, and its destinations. -/
def State.mset (s : State) (part pa : Nat) : McSet := mget { count := 0, bases := [] } s.msets (64 * part + pa / 2 ^ 16 % 256)
def McSet.dests (m : McSet) : List Word := (List.range (min m.count.toNat 16)).map (fun i => m.bases.getD i 0)
/-- A range of at most 64 bytes, cut where it crosses into the next 64-byte line. -/
def cutLine (x : Nat × Nat) : List (Nat × Nat) :=
  let n := min x.2 (64 - x.1 % 64)
  (x.1, n) :: (if n < x.2 then [(x.1 + n, x.2 - n)] else [])
/-- The physical bytes that n bytes at offset o of a multicast page reach at a base (R393). -/
def mcastSpots (b : Word) (o n : Nat) : List (Nat × Nat) := (cutLine (b.toNat + o, n)).map (fun x => (paNorm x.1, x.2))
/-- The physical bytes that n bytes at a virtual address reach for a copy: in a multicast page at its own destination, lines of both. -/
def CopyJob.spots (s : State) (r : Role) (c : CopyJob) (x : Nat × Nat) : List (Nat × Nat) :=
  (cutLine x).flatMap (fun y =>
    match physAt s r.asid.toNat (BitVec.ofNat 64 y.1) with
    | none => []
    | some t =>
      if t.attr = 3 then
        (match (s.mset (s.asid r.asid.toNat).part.toNat t.pa).dests[c.mdest]? with
         | some b => mcastSpots b (t.pa % 2 ^ 16) y.2
         | none => [])
      else [(t.pa, y.2)])
/-- The virtual bytes at which a copy has faulted (R251). -/
def CopyJob.faultBytes (c : CopyJob) : List (Nat × Nat) :=
  match c.fault with | some (_, a, _) => if isTileRef a then [] else [(a.toNat, 64 - a.toNat % 64)] | none => []
/-- R353: an earlier request of a cluster that has faulted or is held, or the granule at which an earlier copy of it has faulted,
touches some bytes, given as virtual and as physical ones. -/
def meetsStuckAt (s : State) (r : Role) (cl : Cluster) (id : Nat) (bs ps : List (Nat × Nat)) : Bool :=
  let qs := physRanges s r.asid.toNat bs ++ ps
  r.acc.any (fun b => b.cl == cl && b.id < id && b.stat.stuck &&
    (touch s r.asid.toNat bs b.ranges || (physRanges s r.asid.toNat b.ranges).any (fun x => ps.any (meet x)))) ||
  r.copies.any (fun c => c.cl == cl && c.id < id &&
    (touch s r.asid.toNat bs c.faultBytes || (c.faultBytes.flatMap (c.spots s r)).any (fun x => qs.any (meet x))))
/-- The same for the virtual bytes of a request. -/
def meetsStuck (s : State) (r : Role) (cl : Cluster) (id : Nat) (bs : List (Nat × Nat)) : Bool := meetsStuckAt s r cl id bs []
/-! ### Ports, budgets and tags (R15, R316, R387) -/

/-- Where a request goes next: its line, its home slice, its address. -/
def nextPa (s : State) (r : Role) (a : Access) : Option Nat :=
  match a.kind with
  | .fence | .pref | .win _ | .copy | .copys => none
  | _ => (physAt s r.asid.toNat (a.partAddr a.done)).map (·.pa)
/-- The optical port that part i of a request goes over: for the Curtain unit, where the source is a peer's (R388). -/
def partPort (s : State) (r : Role) (a : Access) (i : Nat) : Option Nat :=
  match a.kind with
  | .fence | .pref | .copy | .copys => none
  | .win op => if op ≤ 2 && peerSource r a.addr then portTo s r (bits a.addr 31 16) (bits a.addr 7 0) else none
  | _ => (physAt s r.asid.toNat (a.partAddr i)).bind (fun x => portOf s r x.pa)

/-- R316: the budgets that a request to an address draws on. -/
def budgetsOf (s : State) (r : Role) (pa : Nat) : List Nat :=
  1 :: (match paRegion pa with
    | 0 => [0]
    | 2 | 3 | 4 => (match portOf s r pa with | some q => [2 + q] | none => [])
    | _ => [])
/-- Tokens of a budget that a partition has spent since it was last filled. -/
def spentOf (s : State) (p : Part) (b : Budget) : Nat :=
  let (w, n) := mget (0, 0) p.spent b.kind
  if w = s.cycle / one0 b.period then n else 0
/-- A partition's request draws on budgets of some kinds: the state, or none where one is empty. -/
def spend (s : State) (pn : Nat) (kinds : List Nat) : Option State :=
  let p := s.partOr pn
  let bs := p.record.budgets.filter (fun b => kinds.contains b.kind)
  if bs = [] then some s
  else if bs.any (fun b => b.size ≤ spentOf s p b) then none
  else some (s.setPart pn { p with spent := bs.foldl (fun m b => mput m b.kind (s.cycle / one0 b.period, spentOf s p b + 1)) p.spent })
/-- The budgets of a request: none for pool control traffic, cue resolutions and what this device's Curtain unit answers but the
crossbar's for an append or a watermark (R316, R417). -/
def Access.draws (s : State) (r : Role) (a : Access) : List Nat :=
  match a.kind with
  | .pool _ | .cue 1 | .cue 2 => []
  | .win op => if op ≤ 1 then 1 :: ((partPort s r a 0).map (2 + ·)).toList else []
  | _ => (match nextPa s r a with | some pa => budgetsOf s r pa | none => [])
/-- Transaction tags of a port that a partition's requests hold: one for each whose last part has been performed over the port and
whose reply is under way. -/
def tagsHeld (s : State) (pn q : Nat) : Nat :=
  ((s.roles.filter (fun r => r.2.part.toNat = pn)).map (fun r => r.2.acc.countP (fun a =>
    (match a.stat with | .replied _ => true | _ => false) && partPort s r.2 a (a.parts - 1) == some q))).sum
/-- R387: the partition's share of the tags of a port is used up. -/
def noTag (s : State) (pn q : Nat) : Bool :=
  match (s.partOr pn).record.ports.find? (fun x => x.1 = q) with
  | some x => 1024 * x.2 ≤ tagsHeld s pn q
  | none => false

/-! ### Serving (R231 to R246, R336) -/

def setStat (s : State) (k : Nat) (a : Access) (st : AStat) : State := s.modRoleAt k (fun r => r.setAcc { a with stat := st })
/-- The request faults where it is served (R231). -/
def faultAcc (s : State) (k : Nat) (a : Access) (code : Nat) (i0 i1 : Word) (info : Nat) : State :=
  noteFault (setStat s k a (.faulted code i0 i1 info)) k code i0

/-- What an access asks of the page, before its bytes: PROTECTION for a multicast page, host memory for kinds that do not
reach it (R389), a peer outside the process group (R388), cue pages for kinds that R336 refuses; a link error. -/
def pageFault (s : State) (r : Role) (a : Access) (x : Xlat) : Option (Nat × Word) :=
  let host := paRegion x.pa = 4
  let wide := match a.kind with
    | .gather | .scatter | .atomf | .atomfD _ => true
    | .ldv | .stv => a.size == .b512
    | _ => false
  let noHost := match a.kind with
    | .gather | .scatter | .atom _ | .atomf | .atomfD _ | .cue _ | .lch _ => true
    | _ => false
  if x.attr = 3 then some (tPROT, 0)
  else if host && noHost then some (tPROT, 0)
  else if !inGroup r x.pa then some (tPROT, 0)
  else if x.attr = 2 && wide then some (tPROT, 0)
  else if !linkUp s r x.pa then some (tPOISON, 0xFFFE)
  else none
/-- R237: the new value of an ATOM on n bytes, from old value o, operand v and compared value c. -/
def atomNew (op n o v c : Nat) : Nat :=
  let m := 2 ^ (8 * n)
  let v := v % m
  let si (x : Nat) : Int := sint (8 * n) x
  match op with
  | 0 => (o + v) % m
  | 1 => o &&& v
  | 2 => o ||| v
  | 3 => o ^^^ v
  | 4 => if si o ≤ si v then o else v
  | 5 => if si o ≤ si v then v else o
  | 6 => min o v
  | 7 => max o v
  | 8 => v
  | _ => if o = c % m then v else o
/-- R240: the FP32 sum of ATOMF. -/
def atomfNew (o v : Nat) : Nat := (roundF .fp32 .rne (addNum .rne (decodeNum .fp32 o) (decodeNum .fp32 v)).1).1

/-- One instance of a level as contributions and barriers name it: the role's instance, or a barrier of one role for a role
that is no participant (R260). -/
def instOf (r : Role) (k lev : Nat) : Nat :=
  if r.participant then levelInst (mget (0 : Word) r.levels lev) else 2 ^ 16 + k

/-- R243: a partition's overflow area takes a spilled contribution. -/
def overflowRoom (s : State) (pn : Nat) : Bool :=
  (s.partOr pn).overflow.getLsbD 0 && s.contribs.countP (fun c => c.spilled && c.part == pn) < Config.overflowEntries
/-- Generations of an instance of a level that have completed. -/
def State.barDone (s : State) (part lid lev inst : Nat) : Nat :=
  match s.bars.find? (fun b => b.part = part && b.lid = lid && b.level = lev && b.inst = inst) with
  | some b => b.done
  | none => 0
/-- R242: apply one contribution as ATOMF applies it; one in a poisoned granule is discarded, and so is one in a block that a pool has been
armed in since, which only the pool unit writes (R321). -/
def applyContrib (s : State) (c : Contrib) : State :=
  if memPoisoned s c.pa 4 || liveBlock s c.pa then s
  else s.memWrite c.pa (natLe 4 (atomfNew (memNat s c.pa 4) c.val.toNat))
/-- R241, R243: hold a contribution pending at its home slice; one whose generation has completed before it is served is applied at once
(R242; DESIGN CHOICE, log 19). -/
def addContrib (s : State) (k : Nat) (a : Access) (lev pa : Nat) : Option State :=
  let r := s.role k
  let full := 65536 ≤ s.contribs.countP (fun c => !c.spilled && homeSlice c.pa == homeSlice pa)
  let c : Contrib :=
    { pa := pa, part := r.part.toNat, lid := r.lid.toNat, level := lev, inst := instOf r k lev, gen := a.len.toNat, core := k / 4,
      slot := k % 4, seq := a.c.toNat, val := a.v.setWidth 32, spilled := full }
  if c.gen < s.barDone c.part c.lid lev c.inst then some (applyContrib s c)
  else if full && !overflowRoom s r.part.toNat then none else some { s with contribs := s.contribs ++ [c] }

/-- The next part of a request has been performed; the request ends with its last one. -/
def partDone (s : State) (k : Nat) (a : Access) (bs : List Byte) : State :=
  let a := { a with done := a.done + 1, data := if a.isLoad then a.data ++ bs else a.data }
  if a.done < a.parts then s.modRoleAt k (fun r => r.setAcc a)
  else if a.isLoad then finishLoad s k a a.data
  else s.modRoleAt k (fun r => r.dropAcc a.id)

/-- The page of an address, with the faults of the page: the continuation takes the translated access. -/
def onPage (s : State) (k : Nat) (a : Access) (va : Word) (want : Want) (f : State → Xlat → State) : State :=
  let r := s.role k
  match translateA s (k / 4) a.afresh r.asid.toNat (tagNow s r.asid.toNat a.gen) va want with
  | .error c => faultAcc s k a c va 0 0
  | .ok x =>
    match pageFault x.st r a x with
    | some (c, i1) => faultAcc x.st k a c va i1 0
    | none => f x.st x

/-- Serve the next part of an access of memory. -/
def serveMem (s : State) (k : Nat) (a : Access) : State :=
  let va := a.partAddr a.done
  let n := a.partLen
  match a.kind with
  | .ld | .ldv | .gather =>
    onPage s k a va .rd (fun s x =>
      if x.attr = 2 && s.tag x.pa ≠ tagVALUE && (s.tag x.pa ≠ tagCUE || !memPoisoned s x.pa n) then serveCueLoad s k a x.pa n
      else if memPoisoned s x.pa n then faultAcc s k a tPOISON va 0 0
      else partDone s k a (s.memRead x.pa n))
  | .st | .stv | .scatter =>
    onPage s k a va .wr (fun s x =>
      if writeFault s x then faultAcc s k a tPROT va 0 0
      else partDone (s.memWrite x.pa ((a.data.drop (n * a.done)).take n)) k a [])
  | .atom op =>
    onPage s k a va .rw (fun s x =>
      if writeFault s x then faultAcc s k a tPROT va 0 0
      else if memPoisoned s x.pa n then faultAcc s k a tPOISON va 0 0
      else
        let o := memNat s x.pa n
        let s := if op = 9 && o ≠ a.c.toNat % 2 ^ (8 * n) then s
                 else s.memWrite x.pa (natLe n (atomNew op n o a.v.toNat a.c.toNat))
        partDone s k a (natLe n o))
  | .atomf =>
    onPage s k a va .rw (fun s x =>
      if writeFault s x then faultAcc s k a tPROT va 0 0
      else if memPoisoned s x.pa n then faultAcc s k a tPOISON va 0 0
      else
        let o := memNat s x.pa 4
        partDone (s.memWrite x.pa (natLe 4 (atomfNew o (a.v.toNat % 2 ^ 32)))) k a (natLe 4 o))
  | .atomfD lev =>
    onPage s k a va .rw (fun s x =>
      if writeFault s x then faultAcc s k a tPROT va 0 0
      else
        match addContrib s k a lev x.pa with
        | some s' => partDone s' k a []
        | none => faultAcc s k a tPROT va 0 0)
  | _ => s

/-- Serve a request whose turn has come. -/
def serveAcc (s : State) (k : Nat) (a : Access) : State :=
  match a.kind with
  | .fence | .pref => s.modRoleAt k (fun r => r.dropAcc a.id)
  | .pool op =>
    onPage s k a a.addr .rd (fun s x =>
      if x.attr = 1 && memPoisoned s x.pa 256 then faultAcc s k a tPOISON a.addr 0 0
      else
        match servePool s k a op x.pa x.attr with
        | .fault c n => faultAcc s k a c a.addr (BitVec.ofNat 64 n) n
        | .done s' vals holds => setStat (s'.modRoleAt k (fun r => { r with holds := holds })) k a (.replied vals))
  | .cue op =>
    let want : Want := match op with | 0 => .wr | 1 | 2 => .rw | _ => .rd
    onPage s k a a.addr want (fun s x =>
      if x.attr ≠ 2 then faultAcc s k a tPROT a.addr 0 0
      else if op ≠ 0 && s.tag x.pa ≠ tagFAULTED && memPoisoned s x.pa 64 then faultAcc s k a tPOISON a.addr 0 0
      else
        match serveCue s k a op x.pa with
        | .error c => faultAcc s k a c a.addr 0 0
        | .ok (s', v) => setStat s' k a (.replied (toDests a.dests (widen v))))
  | .win op =>
    match serveWin s k a op with
    | .fault c n i0 => faultAcc s k a c i0 (BitVec.ofNat 64 n) (if c = tWIN || c = tPOOL then n else 0)
    | .done s' vals => setStat s' k a (.replied vals)
  | .lch _ =>
    onPage s k a a.addr .rd (fun s x =>
      if memPoisoned s x.pa 256 then faultAcc s k a tPOISON a.addr 0 0
      else
        let (s', v) := serveLaunch s k a x.pa
        setStat s' k a (.replied (toDests a.dests (widen v))))
  | _ => serveMem s k a

/-- REPLY_COMMIT: a reply writes its destinations (R330); one that fills a queue entry comes after what R271 orders before
the push. -/
def commitReply (s : State) (k id : Nat) : State :=
  let r := s.role k
  match r.acc? id with
  | none => s
  | some a =>
    match a.stat with
    | .replied vals =>
      let pushes := a.dests.any (fun d => match d with | .q _ => true | _ => false)
      let blocked := pushes && (earlier r id).any (fun b => b.cl == a.cl && b.stat.unperformed &&
        (b.isLoad || b.isFence || b.acqs))
      if blocked then s else (s.modRoleAt k (fun r => r.complete a vals)).stir k
    | _ => s
def execReplyCommit (r : Slot) (id : Nat) (s : State) : Host.Outcome State Fault Refusal := .next (commitReply s r.key id)

/-! ### LD and ST (R233) -/

def sizedData (n : Nat) (v : Word) : List Byte := natLe n v.toNat

def resLd (h : Hdr) (t : SDst) (m : MF) : Iss Flow :=
  memOp h (mMarks m) (wrS0 t) (do
    let ea ← eaOf m
    chkVirtual ea (alignOf m.sz)
    sendAcc { Access.blank .ld ea with size := m.sz, scope := m.scope, ord := m.ord, dests := [sDest t] })
def execLd (h : Hdr) (t : SDst) (m : MF) (s : State) := issue h (resLd h t m) s

def resSt (h : Hdr) (t : SSrc) (m : MF) : Iss Flow :=
  memOp h ((sQueue t, false) :: mMarks m) (pure ()) (do
    let v ← rdS t
    let ea ← eaOf m
    chkVirtual ea (alignOf m.sz)
    sendAcc { Access.blank .st ea with size := m.sz, scope := m.scope, ord := m.ord, data := sizedData m.sz.bytes v })
def execSt (h : Hdr) (t : SSrc) (m : MF) (s : State) := issue h (resSt h t m) s

/-! ### LDT and STT (R233, R201) -/

/-- The offset of a tile-store access: ALIGNMENT first, then TILE_BOUNDS (R443). -/
def tileEa (m : MF) : Iss Nat := do
  let ea ← eaOf m
  trapIf (ea.toNat % alignOf m.sz ≠ 0) tALIGN ea exactI1
  plainOffset ea
def tDstSkip : TDst → Iss Unit
  | .s d => wrS0 d
  | .qw n => qPush (8 + n.toNat) 0
def resLdt (h : Hdr) (t : TDst) (m : MF) : Iss Flow :=
  memOp h (mMarks m) (tDstSkip t) (do
    let o ← tileEa m
    let _ ← tileChk o m.sz.bytes
    tileOrdered true m.ord
    let bs ← tileGet o m.sz.bytes
    match t with
    | .s d => wrS d (leWord bs)
    | .qw n => qPush (8 + n.toNat) (leRow bs))
def execLdt (h : Hdr) (t : TDst) (m : MF) (s : State) := issue h (resLdt h t m) s

/-- The queue that a source T reads, and the bytes it delivers; a 512-byte queue is popped at commit (R233). -/
def tSrcMk : TSrc → Mk
  | .s a => (sQueue a, false)
  | .qw n => (some (8 + n.toNat), true)
def tSrcBytes (n : Nat) : TSrc → Iss (List Byte)
  | .s a => do
    let v ← rdS a
    pure (natLe n v.toNat)
  | .qw q => do
    let r ← qHead (8 + q.toNat)
    pure ((rowLe r).take n)
def resStt (h : Hdr) (t : TSrc) (m : MF) : Iss Flow :=
  memOp h (tSrcMk t :: mMarks m) (pure ()) (do
    let bs ← tSrcBytes m.sz.bytes t
    let o ← tileEa m
    let _ ← tileChk o m.sz.bytes
    tileOrdered false m.ord
    tilePut o bs)
def execStt (h : Hdr) (t : TSrc) (m : MF) (s : State) := issue h (resStt h t m) s

/-! ### LDV, STV, GATHER, SCATTER (R234 to R236) -/

def resLdv (h : Hdr) (q : BitVec 3) (m : MF) : Iss Flow :=
  memOp h (mMarks m) (qPush (8 + q.toNat) 0) (do
    let ea ← eaOf m
    chkVirtual ea (alignOf m.sz)
    sendAcc { Access.blank .ldv ea with size := m.sz, scope := m.scope, ord := m.ord, dests := [.q (8 + q.toNat)] })
def execLdv (h : Hdr) (q : BitVec 3) (m : MF) (s : State) := issue h (resLdv h q m) s

def resStv (h : Hdr) (q : BitVec 3) (m : MF) : Iss Flow :=
  memOp h ((some (8 + q.toNat), true) :: mMarks m) (pure ()) (do
    let row ← qHead (8 + q.toNat)
    let ea ← eaOf m
    chkVirtual ea (alignOf m.sz)
    sendAcc { Access.blank .stv ea with size := m.sz, scope := m.scope, ord := m.ord, data := (rowLe row).take m.sz.bytes, wide := true })
def execStv (h : Hdr) (q : BitVec 3) (m : MF) (s : State) := issue h (resStv h q m) s

/-- R235: the indices of a GATHER or SCATTER, a list of n at tile-store offset i. -/
def gatherList (i : Word) (n : Nat) : Iss (List (BitVec 32)) := do
  trapIf (i.toNat % 4 ≠ 0) tALIGN i exactI1
  let o ← plainOffset i
  let bs ← tileGet o (4 * n)
  pure ((List.range n).map (fun j => BitVec.ofNat 32 (leNat ((bs.drop (4 * j)).take 4))))
/-- No index brings a base to a virtual address: an element lies within 2^38 bytes of it (R227, R235). -/
def neverVirtual (base : Word) : Bool := !canonical (base - 2 ^ 38) && !canonical (base + 2 ^ 38)
/-- The first element address that is no virtual address. -/
def badElem (base : Word) (n : Nat) (idx : List (BitVec 32)) : Option Word :=
  (idx.map (fun x => base + x.signExtend 64 * BitVec.ofNat 64 n)).find? (fun a => !canonical a)
/-- A GATHER or SCATTER whose base is not aligned stops the role: PROTECTION at the first element that is no virtual address, else
ALIGNMENT, for which INFO0 is the base (log 48). -/
def unalignedBase (base i : Word) (z : Nat) : Iss (Word × List (BitVec 32)) := fun s =>
  match gatherList i (512 / z) s with
  | .ok (idx, _) => (match badElem base z idx with | some a => trapI tPROT a exactI1 s | none => trapI tALIGN base exactI1 s)
  | .error _ => trapI tALIGN base exactI1 s
/-- R235: base address with its displacement, and the indices; every element address is checked. In the order of R443, what the base
alone decides comes before the index list: no element is a virtual address, or none is aligned. -/
def gatherAddr (m : MF) : Iss (Word × List (BitVec 32)) := do
  let b ← rdS m.base
  let i ← rdS m.idx
  let z := m.sz.bytes
  let base := b + sextDisp m.disp z
  trapIf (neverVirtual base) tPROT base exactI1
  if base.toNat % alignOf m.sz ≠ 0 then unalignedBase base i z else do
    let idx ← gatherList i (512 / z)
    match badElem base z idx with
    | some a => trapI tPROT a exactI1
    | none => pure (base, idx)

def resGather (h : Hdr) (q : BitVec 3) (m : MF) : Iss Flow :=
  memOp h (mMarks m) (qPush (8 + q.toNat) 0) (do
    tileOrdered true .relaxed
    let (base, idx) ← gatherAddr m
    let i ← rdS m.idx
    sendAcc { Access.blank .gather base with
      size := m.sz, scope := m.scope, ord := m.ord, idx := idx, listOff := i, dests := [.q (8 + q.toNat)] })
def execGather (h : Hdr) (q : BitVec 3) (m : MF) (s : State) := issue h (resGather h q m) s

def resScatter (h : Hdr) (q : BitVec 3) (m : MF) : Iss Flow :=
  memOp h ((some (8 + q.toNat), true) :: mMarks m) (pure ()) (do
    let row ← qHead (8 + q.toNat)
    tileOrdered true .relaxed
    let (base, idx) ← gatherAddr m
    let i ← rdS m.idx
    sendAcc { Access.blank .scatter base with
      size := m.sz, scope := m.scope, ord := m.ord, idx := idx, listOff := i, data := rowLe row, wide := true })
def execScatter (h : Hdr) (q : BitVec 3) (m : MF) (s : State) := issue h (resScatter h q m) s

/-! ### ATOM, ATOMF, ATOMF.D (R237 to R241) -/

/-- An ATOM but CAS. -/
def atomWith (op : Nat) (h : Hdr) (x : BitVec 5) (m : MF) : Iss Flow :=
  memOp h (mMarks m) (pure ()) (do
    let v ← rdX x.toNat
    let ea ← eaOf m
    chkVirtual ea (alignOf m.sz)
    sendAcc { Access.blank (.atom op) ea with size := m.sz, scope := m.scope, ord := m.ord, v := v, dests := [.x x.toNat] })
def resAtomAdd (h : Hdr) (x : BitVec 5) (m : MF) : Iss Flow := atomWith 0 h x m
def execAtomAdd (h : Hdr) (x : BitVec 5) (m : MF) (s : State) := issue h (resAtomAdd h x m) s
def resAtomAnd (h : Hdr) (x : BitVec 5) (m : MF) : Iss Flow := atomWith 1 h x m
def execAtomAnd (h : Hdr) (x : BitVec 5) (m : MF) (s : State) := issue h (resAtomAnd h x m) s
def resAtomOr (h : Hdr) (x : BitVec 5) (m : MF) : Iss Flow := atomWith 2 h x m
def execAtomOr (h : Hdr) (x : BitVec 5) (m : MF) (s : State) := issue h (resAtomOr h x m) s
def resAtomXor (h : Hdr) (x : BitVec 5) (m : MF) : Iss Flow := atomWith 3 h x m
def execAtomXor (h : Hdr) (x : BitVec 5) (m : MF) (s : State) := issue h (resAtomXor h x m) s
def resAtomMin (h : Hdr) (x : BitVec 5) (m : MF) : Iss Flow := atomWith 4 h x m
def execAtomMin (h : Hdr) (x : BitVec 5) (m : MF) (s : State) := issue h (resAtomMin h x m) s
def resAtomMax (h : Hdr) (x : BitVec 5) (m : MF) : Iss Flow := atomWith 5 h x m
def execAtomMax (h : Hdr) (x : BitVec 5) (m : MF) (s : State) := issue h (resAtomMax h x m) s
def resAtomMinu (h : Hdr) (x : BitVec 5) (m : MF) : Iss Flow := atomWith 6 h x m
def execAtomMinu (h : Hdr) (x : BitVec 5) (m : MF) (s : State) := issue h (resAtomMinu h x m) s
def resAtomMaxu (h : Hdr) (x : BitVec 5) (m : MF) : Iss Flow := atomWith 7 h x m
def execAtomMaxu (h : Hdr) (x : BitVec 5) (m : MF) (s : State) := issue h (resAtomMaxu h x m) s
def resAtomSwap (h : Hdr) (x : BitVec 5) (m : MF) : Iss Flow := atomWith 8 h x m
def execAtomSwap (h : Hdr) (x : BitVec 5) (m : MF) (s : State) := issue h (resAtomSwap h x m) s
/-- CAS: IDX holds the compared value (R237). -/
def resAtomCas (h : Hdr) (x : BitVec 5) (m : MF) : Iss Flow :=
  memOp h (mMarks m) (pure ()) (do
    let v ← rdX x.toNat
    let b ← rdS m.base
    let c ← rdS m.idx
    let ea := b + sextDisp m.disp m.sz.bytes
    chkVirtual ea (alignOf m.sz)
    sendAcc { Access.blank (.atom 9) ea with size := m.sz, scope := m.scope, ord := m.ord, v := v, c := c, dests := [.x x.toNat] })
def execAtomCas (h : Hdr) (x : BitVec 5) (m : MF) (s : State) := issue h (resAtomCas h x m) s

/-- R222: refused in a DET launch. -/
def resAtomf (h : Hdr) (x : BitVec 5) (m : MF) : Iss Flow :=
  memOp h (mMarks m) (pure ()) (do
    let r ← getRole
    illegalIf r.det
    let v ← rdX x.toNat
    let ea ← eaOf m
    chkVirtual ea 4
    sendAcc { Access.blank .atomf ea with size := m.sz, scope := m.scope, ord := m.ord, v := v, dests := [.x x.toNat] })
def execAtomf (h : Hdr) (x : BitVec 5) (m : MF) (s : State) := issue h (resAtomf h x m) s

/-- R241, R259: a level beyond the launch's level table raises ILLEGAL_SYLLABLE. -/
def levelChk (lev : Nat) : Iss Unit := do
  let r ← getRole
  illegalIf (!levelUsed (mget (0 : Word) r.levels lev))
def resAtomfD (h : Hdr) (x : BitVec 5) (m : AtomDF) : Iss Flow :=
  memOp h [(sQueue m.base, m.lbase)] (pure ()) (do
    levelChk m.lvl.toNat
    let v ← rdX x.toNat
    let b ← rdS m.base
    let ea := b + sextDisp m.disp 4
    chkVirtual ea 4
    let r ← getRole
    let gen := mget 0 (seenBarA r) m.lvl.toNat
    sendAcc { Access.blank (.atomfD m.lvl.toNat) ea with
      size := .b4, scope := m.scope, v := v, c := BitVec.ofNat 64 r.atomSeq, len := BitVec.ofNat 64 gen }
    modRole (fun r => { r with atomSeq := r.atomSeq + 1 }))
def execAtomfD (h : Hdr) (x : BitVec 5) (m : AtomDF) (s : State) := issue h (resAtomfD h x m) s

/-! ### FENCE and PREF (R245, R246) -/

/-- A request that has not been performed and would fault if it were served now, or is a cue load: a later FENCE waits for
its outcome, so that it stops the role (R231, R352). -/
def mayFault (s : State) (k : Nat) (a : Access) : Bool :=
  a.stat.unperformed &&
  (a.stat != .pending || cueLoad s (s.role k).asid.toNat a ||
    (match (serveAcc s k a |>.role k).acc? a.id with
     | some b => b.stat.isFaulted
     | none => false))

def fenceEntry (scope : Scope) (ord : Ord) : Iss Unit := sendAcc { Access.blank .fence 0 with scope := scope, ord := ord }
def resFence (h : Hdr) (scope : Scope) (ord : Ord) : Iss Flow := do
  let g ← guardS h
  if g then do
    let s ← getSt
    waitIf (s.curRole.acc.any (fun a => a.cl == s.cur.cl && mayFault s s.curKey a))
    stopPoint
    waitIf (s.cur.cl == .m && s.curRole.nestSeen.isSome)
    match ord with
    | .acqRel => do
      fenceEntry scope .acq
      fenceEntry scope .rel
    | o => fenceEntry scope o
    pure .fall
  else pure .fall
def execFence (h : Hdr) (scope : Scope) (ord : Ord) (s : State) := issue h (resFence h scope ord) s

/-- R246: a PREF raises no fault, whatever its address: R227's PROTECTION is not raised for it (DEDUCED, log 22). -/
def resPref (h : Hdr) (_t : BitVec 5) (m : MF) : Iss Flow :=
  memOp h (mMarks m) (pure ()) (do
    let ea ← eaOf m
    sendAcc { Access.blank .pref ea with size := m.sz })
def execPref (h : Hdr) (t : BitVec 5) (m : MF) (s : State) := issue h (resPref h t m) s

end Sys2Proof.Machine
end

