-- ==== Sys2Proof/Machine/Copy.lean ====
section
/-! DEFINITION. The copy engine (10_isa_memory R247 to R252, 18_spaces_tenants R393, R394): COPY, COPYW, COPYS, the granules
that the engine moves, and ACCESS_SERVED, which serves a request or moves a copy on by one read or one write. -/

namespace Sys2Proof.Machine

/-! ### Geometry -/

/-- The bytes of the destination that a copy writes. -/
def CopyJob.bytes (c : CopyJob) : Nat := bits c.len 31 0
def CopyJob.width (c : CopyJob) : Nat := (match bits c.len 34 32 with | 0 | 5 => 4 | 1 | 2 | 6 => 2 | _ => 1)
/-- R248: granules: 64-byte lines of the destination. -/
def CopyJob.granules (c : CopyJob) : Nat := if c.bytes = 0 then 0 else (c.dst.toNat % 64 + c.bytes + 63) / 64
/-- Where granule i begins in the copy, and its length. -/
def CopyJob.span (c : CopyJob) (i : Nat) : Nat × Nat :=
  let lead := 64 - c.dst.toNat % 64
  let lo := if i = 0 then 0 else lead + 64 * (i - 1)
  (lo, min (lead + 64 * i) c.bytes - lo)
def CopyJob.finished (c : CopyJob) : Bool := c.granules ≤ c.done && c.fault.isNone

/-! ### Reading and writing (R248, R252, R374, R429) -/

/-- A fault: code, address, INFO1 for a link error. -/
abbrev CopyFault := Nat × Word × Word

def partOf (s : State) (r : Role) : Partition := (s.partOr (s.asid r.asid.toNat).part.toNat).record
/-- Read n bytes that lie in one 64-byte line of memory. -/
def readLine (s : State) (k : Nat) (c : CopyJob) (a : Word) (n : Nat) : Except CopyFault (List Byte × State) :=
  let r := s.role k
  match translateA s (k / 4) c.afresh r.asid.toNat (s.asid r.asid.toNat).gen a .rd with
  | .error e => .error (e, a, 0)
  | .ok x =>
    if x.attr = 2 || x.attr = 3 || (c.sparse && paRegion x.pa = 4) || !inGroup r x.pa then .error (tPROT, a, 0)
    else if !linkUp s r x.pa then .error (tPOISON, a, 0xFFFE)
    else if memPoisoned x.st x.pa n then .error (tPOISON, a, 0)
    else .ok (x.st.memRead x.pa n, x.st)
/-- The source operands that a copy's next granule is read from: base, place and length. A sparse one takes 32 bytes of values and
their indices for each piece of 64 bytes that it lies in. -/
def CopyJob.sources (c : CopyJob) : List (Word × Nat × Nat) :=
  let (lo, n) := c.span c.done
  let m := if lo % 64 + n ≤ 64 then 1 else 2
  if c.sparse then [(c.src, 32 * (lo / 64), 32 * m), (c.index, 8 / c.width * (lo / 64), 8 / c.width * m)] else [(c.src, lo, n)]
/-- R204: the aligned granules of the tile store that the next read touches, each read once: as an earlier read of the copy found it,
or as it stands. -/
def CopyJob.keeps (s : State) (k : Nat) (c : CopyJob) : List (Nat × List Byte) :=
  (c.sources.filter (fun x => isTileRef x.1)).flatMap (fun x =>
    let o := tileOff x.1 + x.2.1
    (List.range ((o % 64 + x.2.2 + 63) / 64)).filterMap (fun i =>
      match mfind c.kept (o / 64 + i) with
      | some bs => some (o / 64 + i, bs)
      | none => (tileRange (s.role k) (s.arrBase (k / 4)) (64 * (o / 64 + i)) 64).map (fun p => (o / 64 + i, s.tileRead (k / 4) p 64))))
/-- Bytes of the granules that a copy keeps. -/
def CopyJob.fromKept (c : CopyJob) (o n : Nat) : List Byte :=
  (((List.range ((o % 64 + n + 63) / 64)).flatMap (fun i => (mfind c.kept (o / 64 + i)).getD [])).drop (o % 64)).take n
/-- Read at most 64 bytes from a source operand: tile reference, whose granules the copy keeps, or virtual address. -/
def readSpan (s : State) (k : Nat) (c : CopyJob) (base : Word) (o n : Nat) : Except CopyFault (List Byte × State) :=
  let r := s.role k
  let a := base + BitVec.ofNat 64 o
  if isTileRef base then
    match tileRange r (s.arrBase (k / 4)) (tileOff base + o) n with
    | none => .error (tTILE, a, 0)
    | some p => if tilePoisoned s (tkey (k / 4) p) n then .error (tPOISON, a, 0) else .ok (c.fromKept (tileOff base + o) n, s)
  else
    let n1 := min n (64 - a.toNat % 64)
    match readLine s k c a n1 with
    | .error f => .error f
    | .ok (b1, s1) =>
      if n1 = n then .ok (b1, s1)
      else
        match readLine s1 k c (a + BitVec.ofNat 64 n1) (n - n1) with
        | .error f => .error f
        | .ok (b2, s2) => .ok (b1 ++ b2, s2)

/-- R252: 64 bytes of the dense image from 32 bytes of values and the index entries of its groups. -/
def expandSparse (w : Nat) (vals idx : List Byte) : List Byte :=
  (List.range (64 / w)).flatMap (fun i =>
    let g := i / 4
    let m := (idx.getD (g / 2) 0).toNat / 16 ^ (g % 2) % 16
    let i0 := m % 4
    let i1 := m / 4
    if i % 4 = i0 then (vals.drop (2 * g * w)).take w
    else if i % 4 = i1 && i0 < i1 then (vals.drop ((2 * g + 1) * w)).take w
    else List.replicate w 0)

/-- R252: 64 bytes of the dense image from the p-th 32 bytes of values and their indices. -/
def readPiece (s : State) (k : Nat) (c : CopyJob) (p : Nat) : Except CopyFault (List Byte × State) :=
  match readSpan s k c c.src (32 * p) 32 with
  | .error f => .error f
  | .ok (vals, s1) =>
    match readSpan s1 k c c.index (8 / c.width * p) (8 / c.width) with
    | .error f => .error f
    | .ok (idx, s2) => .ok (expandSparse c.width vals idx, s2)
/-- The bytes of the granule that the copy reads next: those of one piece of a dense image, or of two where the destination lies
across them. -/
def copyRead (s : State) (k : Nat) (c : CopyJob) : Except CopyFault (List Byte × State) :=
  let (lo, n) := c.span c.done
  if c.sparse then
    match readPiece s k c (lo / 64) with
    | .error f => .error f
    | .ok (b1, s1) =>
      if lo % 64 + n ≤ 64 then .ok ((b1.drop (lo % 64)).take n, s1)
      else
        match readPiece s1 k c (lo / 64 + 1) with
        | .error f => .error f
        | .ok (b2, s2) => .ok (((b1 ++ b2).drop (lo % 64)).take n, s2)
  else readSpan s k c c.src lo n
/-- The virtual bytes that it reads, and those that it writes. -/
def CopyJob.reads (c : CopyJob) : List (Nat × Nat) :=
  (c.sources.filter (fun x => !isTileRef x.1)).map (fun x => ((x.1 + BitVec.ofNat 64 x.2.1).toNat, x.2.2))
def CopyJob.writes (c : CopyJob) : List (Nat × Nat) :=
  let (lo, n) := c.span c.done
  if isTileRef c.dst then [] else [((c.dst + BitVec.ofNat 64 lo).toNat, n)]

/-- What it is to read, or to write, next: virtual and physical bytes. -/
def CopyJob.next (c : CopyJob) : List (Nat × Nat) := if c.buf.isNone then c.reads else c.writes
def CopyJob.places (s : State) (r : Role) (c : CopyJob) : List (Nat × Nat) := c.next.flatMap (c.spots s r)

/-- The multicast page that granule i of a copy is to be written to: its destinations (R393). -/
def mcastAt (s : State) (r : Role) (c : CopyJob) (i : Nat) : Option (List Word) :=
  if isTileRef c.dst then none
  else
    match physAt s r.asid.toNat (c.dst + BitVec.ofNat 64 (c.span i).1) with
    | some x => if x.attr = 3 then some (s.mset (s.asid r.asid.toNat).part.toNat x.pa).dests else none
    | none => none

/-- R393, R394: write bytes that a copy has read to offset o of its multicast page, at a destination's base; each line that they reach is
checked, and nothing is written where one of them faults. -/
def mcastWrite (s : State) (r : Role) (a : Word) (b : Word) (o : Nat) (bs : List Byte) : Except CopyFault State :=
  let ps := mcastSpots b o bs.length
  let bad (f : Nat → Bool) : Bool := ps.any (fun p => f p.1)
  if bad (fun p => 6 ≤ paRegion p && paRegion p ≠ 8) then .error (tPROT, a, 0)
  else if bad (fun p => 3 < paRegion p || !inWindows s (partOf s r) p) then .error (tVIOL, a, 0)
  else if bad (fun p => !inGroup r p || mappedAs s 2 p || liveBlock s p) then .error (tPROT, a, 0)
  else if bad (fun p => !linkUp s r p) then .error (tPOISON, a, 0xFFFE)
  else .ok (ps.foldl (fun t p => (t.1.memWrite p.1 (t.2.take p.2), t.2.drop p.2)) (s, bs)).1

/-- Write the granule that a copy has read, to destination index `mdest` where its page is a multicast page; outside one, the first
of the unicast copies writes. -/
def copyWrite (s : State) (k : Nat) (c : CopyJob) (bs : List Byte) : Except CopyFault State :=
  let r := s.role k
  let (lo, n) := c.span c.done
  let a := c.dst + BitVec.ofNat 64 lo
  if isTileRef c.dst then
    match tileRange r (s.arrBase (k / 4)) (tileOff c.dst + lo) n with
    | none => .error (tTILE, a, 0)
    | some p => .ok (if c.mdest = 0 then s.tileWrite (k / 4) p bs else s)
  else
    match translateA s (k / 4) c.afresh r.asid.toNat (s.asid r.asid.toNat).gen a .wr with
    | .error e => .error (e, a, 0)
    | .ok x =>
      if x.attr = 3 then
        match ((x.st.mset (s.asid r.asid.toNat).part.toNat x.pa).dests)[c.mdest]? with
        | none => .ok x.st
        | some b => mcastWrite x.st r a b (x.pa % 2 ^ 16) bs
      else if x.attr = 2 || writeFault x.st x || !inGroup r x.pa then .error (tPROT, a, 0)
      else if !linkUp s r x.pa then .error (tPOISON, a, 0xFFFE)
      else .ok (if c.mdest = 0 then x.st.memWrite x.pa bs else x.st)

/-! ### The engine (R249, R268, R280, R394) -/

/-- A copy waits for requests that have not been performed. -/
def blockedBy (r : Role) (ids : List Nat) : Bool :=
  r.acc.any (fun a => ids.contains a.id && (match a.stat with | .replied .. => false | _ => true))
/-- R266, R268: an earlier request of the cluster that has not been performed touches bytes that the copy is to read or to write next, in a
multicast page those of its destination. -/
def copyMeets (s : State) (r : Role) (c : CopyJob) : Bool :=
  r.acc.any (fun a => a.cl == c.cl && a.id < c.id && a.stat.unperformed &&
    (touch s r.asid.toNat a.ranges c.next || (physRanges s r.asid.toNat a.ranges).any (fun x => (c.places s r).any (meet x))))
/-- The granules at which a copy's destination comes to a new page: its next one, and the first in each further 64 KiB. -/
def CopyJob.pageStarts (c : CopyJob) : List Nat :=
  c.done :: ((List.range (c.bytes / 65536 + 1)).map (fun j => 1024 * (c.dst.toNat / 65536 + j + 1) - c.dst.toNat / 64)).filter
    (fun i => c.done < i && i < c.granules)
/-- The multicast destinations that a copy has still to reach, by their bases. -/
def mcastBases (s : State) (r : Role) (c : CopyJob) : List Word :=
  let ds := c.pageStarts.filterMap (mcastAt s r c)
  if c.multi then ds.filterMap (fun l => l[c.mdest]?) else ds.flatMap id
/-- R280: an earlier multicast copy of the role at the same scope has still to reach a destination of this one. That a source is a role
and a destination a base word is the model's choice (DESIGN CHOICE, log 47). -/
def mcastBehind (s : State) (r : Role) (c : CopyJob) : Bool :=
  (mcastBases s r c).any (fun b => r.copies.any (fun d => d.id < c.id && d.scope == c.scope && !d.finished && (mcastBases s r d).contains b))
def Role.setCopy (r : Role) (i : Nat) (c : CopyJob) : Role := { r with copies := r.copies.set i c }

/-- The copy is to be split: a granule that it has still to write goes to a multicast page. -/
def splits (s : State) (r : Role) (c : CopyJob) : Bool := !c.multi && c.buf.isNone && c.pageStarts.any (fun i => (mcastAt s r c i).isSome)
/-- The copy has a granule to read or to write, and waits for nothing. A copy without ACQ reads its source after the cluster's earlier
stores to it, though Question 9 allows the old bytes (DESIGN CHOICE, log 47). -/
def copyReady (s : State) (r : Role) (c : CopyJob) : Bool :=
  c.done < c.granules && c.fault.isNone && !c.held &&
  (match c.buf with
   | none => !blockedBy r c.after
   | some _ => !blockedBy r c.afterW && !mcastBehind s r c) &&
  !copyMeets s r c
/-- R353: the granule that the copy reads or writes next touches bytes of an earlier access of its cluster that has faulted, or is held
behind one. -/
def copyStuck (s : State) (r : Role) (c : CopyJob) : Bool :=
  meetsStuckAt s r c.cl c.id c.next (c.places s r)
/-- R394: the copy as its unicast copies, as many as the largest of the sets of its multicast pages has destinations. -/
def splitCopy (s : State) (k i : Nat) (c : CopyJob) : State :=
  let r := s.role k
  let n := (c.pageStarts.map (fun j => ((mcastAt s r c j).getD []).length)).foldl max 1
  s.setRole k { r.setCopy i { c with multi := true } with
    copies := (r.setCopy i { c with multi := true }).copies ++ (List.range (n - 1)).map (fun j => { c with mdest := j + 1, multi := true }) }

/-! ### The injection queue (R15, R316, R387, R392) -/

/-- What stands in a core's injection queue: a request of a role, or the next granule of a copy, by its part: when it entered, how often
it has been overtaken, the lines that it goes to. -/
structure Queued where
  key : Nat
  at_ : Nat
  id : Nat
  part : Nat
  passed : Nat
  pas : List Nat
  deriving DecidableEq, Repr
def Access.queued (s : State) (k : Nat) (a : Access) : Queued :=
  { key := k, at_ := a.at_, id := a.id, part := 0, passed := a.passed, pas := (nextPa s (s.role k) a).toList }
def CopyJob.queued (s : State) (k : Nat) (c : CopyJob) : Queued :=
  { key := k, at_ := c.at_, id := c.id, part := c.mdest, passed := c.passed, pas := (c.places s (s.role k)).map (·.1) }
/-- y entered before x: by cycle, then by role, in issue order, and by part. -/
def Queued.before (y x : Queued) : Bool :=
  y.at_ < x.at_ || (y.at_ = x.at_ && (y.key < x.key || (y.key = x.key && (y.id < x.id || (y.id = x.id && y.part < x.part)))))
/-- The queue of a core: the requests and the granules that could go now. -/
def queueOf (s : State) (core : Nat) : List Queued :=
  ((List.range 4).map (4 * core + ·)).flatMap (fun j =>
    let r := s.role j
    (r.acc.filter (fun b => !b.isFence && b.kind != .pref && performable s r b)).map (Access.queued s j) ++
    ((r.copies.filter (copyReady s r)).map (CopyJob.queued s j)).filter (fun y => y.pas ≠ []))
def homeOf (pa : Nat) : Option Nat := if paRegion pa ≤ 1 then some (homeSlice pa) else none
/-- R392: x may not overtake y: the same line or home slice, or y has been overtaken 32 times. -/
def mayNotPass (x y : Queued) : Bool :=
  32 ≤ y.passed ||
  x.pas.any (fun p => y.pas.any (fun q => p / 64 = q / 64 || ((homeOf p).isSome && homeOf p == homeOf q)))
/-- Those that x does overtake. -/
def overtaken (s : State) (ys : List Queued) : State :=
  ys.foldl (fun s y => s.modRoleAt y.key (fun r =>
    { r with acc := r.acc.map (fun a => if a.id = y.id then { a with passed := a.passed + 1 } else a),
             copies := r.copies.map (fun c => if c.id = y.id && c.mdest = y.part then { c with passed := c.passed + 1 } else c) })) s
/-- What stands in a core's injection queue enters the crossbar, over the ports that it needs: the state with the tokens spent, one of each
budget that it draws on, or none where it waits at injection. -/
def enter (s : State) (x : Queued) (ports kinds : List Nat) : Option State :=
  let pn := (s.role x.key).part.toNat
  let ys := (queueOf s (x.key / 4)).filter (fun y => y.before x)
  if ys.any (mayNotPass x) || ports.any (noTag s pn) then none else (spend s pn kinds).map (fun s => overtaken s ys)
/-- A request that may be performed, part by part; a fence and a prefetch take nothing. -/
def inject (s : State) (k : Nat) (a : Access) : Option State :=
  let r := s.role k
  if a.isFence || a.kind == .pref then some s else enter s (a.queued s k) (partPort s r a a.done).toList (a.draws s r)
/-- A copy's next granule; one of the tile store takes nothing. -/
def copyInject (s : State) (k : Nat) (c : CopyJob) : Option State :=
  let r := s.role k
  let ps := (c.places s r).map (·.1)
  if ps = [] then some s else enter s (c.queued s k) (ps.filterMap (portOf s r)) (ps.flatMap (budgetsOf s r))

/-- ACCESS_SERVED of a request: it is performed, faults, parks, or is held behind a fault. -/
def servePending (s : State) (k id : Nat) : State :=
  let r := s.role k
  match r.acc? id with
  | none => s
  | some a =>
    if !performable s r a then s
    else if meetsStuck s r a.cl a.id a.ranges then setStat s k a .held
    else
      match inject s k a with
      | none => s
      | some s' => serveAcc s' k a

/-- R394: a unicast copy of a lower destination index has the same granule still to move, and could go now. -/
def partBehind (s : State) (k : Nat) (c : CopyJob) : Bool :=
  let r := s.role k
  r.copies.any (fun d => d.id = c.id && d.mdest < c.mdest &&
    (d.done < c.done || (d.done = c.done && (d.buf.isNone || c.buf.isSome))) && copyReady s r d && (copyInject s k d).isSome)
/-- A copy faults (R251, R385). -/
def faultCopy (s : State) (k i : Nat) (c : CopyJob) (f : CopyFault) : State :=
  noteFault (s.modRoleAt k (fun r => r.setCopy i { c with fault := some f })) k f.1 f.2.1
/-- Read the next granule, or write the one read. -/
def moveGranule (s : State) (k i : Nat) (c : CopyJob) : State :=
  let c := { c with at_ := s.cycle, passed := 0 }
  match c.buf with
  | none =>
    let c := { c with kept := c.keeps s k }
    match copyRead s k c with
    | .error f => faultCopy s k i c f
    | .ok (bs, s') => s'.modRoleAt k (fun r => r.setCopy i { c with buf := some bs })
  | some bs =>
    match copyWrite s k c bs with
    | .error f => faultCopy s k i c f
    | .ok s' => s'.modRoleAt k (fun r => r.setCopy i { c with done := c.done + 1, buf := none })
/-- Move copy number i of role k on, where it is ready; one that meets a faulted access of its cluster is held behind it (R353). -/
def copyStep (s : State) (k i : Nat) : State :=
  let r := s.role k
  match r.copies[i]? with
  | none => s
  | some c =>
    if !copyReady s r c then s
    else if copyStuck s r c then s.modRoleAt k (fun r => r.setCopy i { c with held := true })
    else if splits s r c then splitCopy s k i c
    else if partBehind s k c then s
    else
      match copyInject s k c with
      | none => s
      | some s' => moveGranule s' k i c

/-- The request of an id, or the copy of a place in the copy engine's list, may be served. -/
def servable (s : State) (r : Role) (p : Pend) : Bool :=
  match p with
  | .acc id => (match r.acc? id with | some a => performable s r a | none => false)
  | .copy i => (match r.copies[i]? with | some c => copyReady s r c | none => false)
/-- ACCESS_SERVED (R231, R248): it is served. -/
def execAccessServed (r : Slot) (p : Pend) (s : State) : Host.Outcome State Fault Refusal :=
  .next (if servable s (s.role r.key) p then
      (match p with
       | .acc id => servePending s r.key id
       | .copy i => copyStep s r.key i).stir r.key
    else s)

/-- COPY_COMPLETE (R249, R394): a copy whose parts have all been written, and released, leaves the engine. -/
def copyComplete (s : State) (k id : Nat) : State :=
  let r := s.role k
  let js := r.copies.filter (fun c => c.id = id)
  if js ≠ [] && js.all (·.finished) then
    (s.setRole k { r with copies := r.copies.filter (fun c => c.id ≠ id) }).stir k else s
def execCopyComplete (r : Slot) (id : Nat) (s : State) : Host.Outcome State Fault Refusal := .next (copyComplete s r.key id)

/-! ### Issue -/

/-- R227, R247: a copy's address operand. -/
def copyAddr (a : Word) : Iss Unit := trapIf (!canonical a && !isTileRef a) tPROT a exactI1
/-- R251: a tile reference must stay in the window. -/
def copyTile (a : Word) (n : Nat) : Iss Unit := do
  if isTileRef a && n ≠ 0 then do
    let _ ← tileChk (tileOff a) n
    pure ()
  else pure ()

/-- Hand a copy to the engine (R248): at most 32 in flight, and room in the replay queue. -/
def sendCopy (c : CopyJob) : Iss Unit := do
  let s ← getSt
  let r ← getRole
  let clu ← getClu
  waitIf (32 ≤ (uniq (r.copies.map (·.id))).length || 256 ≤ replayLoad r)
  let ids (kind : AKind) : List Nat := ((r.acc.filter (fun b => b.cl == s.cur.cl && (match b.stat with | .replied .. => false | _ => true) &&
    (c.acq || cueLoad s r.asid.toNat b || orderedBefore b { Access.blank kind 0 with ord := .relaxed }))).map (·.id))
  let c' := { c with id := r.nextId, cl := s.cur.cl, pc := clu.pc, at_ := s.cycle, after := ids .ld, afterW := ids .st }
  modRole (fun r => { r with nextId := r.nextId + 1, copies := r.copies ++ [c'] })

def copyJob (o : CopyF) (sparse : Bool) (d a b c : Word) : CopyJob :=
  { id := 0, cl := .l, pc := 0, sparse := sparse, dst := d, src := a, len := b, index := c, acq := o.acq, rel := o.rel,
    scope := o.scope, after := [], afterW := [], done := 0, buf := none, multi := false, mdest := 0, fault := none, held := false,
    afresh := false, at_ := 0, passed := 0, kept := [] }

def resCopy (h : Hdr) (o : CopyF) : Iss Flow :=
  guarded h [msMk o.a, msMk o.b] (do
    let d ← rdX o.d.toNat
    let a ← rdS o.a.src
    let b ← rdS o.b.src
    copyAddr d
    copyAddr a
    trapIf (bits b 63 32 ≠ 0) tPROT b exactI1
    copyTile d b.toNat
    copyTile a b.toNat
    sendCopy (copyJob o false d a b 0))
def execCopy (h : Hdr) (o : CopyF) (s : State) := issue h (resCopy h o) s

def resCopyw (h : Hdr) : Iss Flow := do
  let g ← guardS h
  if g then do
    stopPoint
    let s ← getSt
    waitIf (s.curRole.copies.any (fun c => c.cl == s.cur.cl))
    pure .fall
  else pure .fall
def execCopyw (h : Hdr) (s : State) := issue h (resCopyw h) s

def resCopys (h : Hdr) (o : CopyF) (c : CS) : Iss Flow :=
  guarded h [msMk o.a, msMk o.b, csMk c] (do
    let d ← rdX o.d.toNat
    let a ← rdS o.a.src
    let b ← rdS o.b.src
    let x ← rdS c.src
    trapIf (!isTileRef d) tPROT d exactI1
    copyAddr a
    trapIf (bits b 63 35 ≠ 0 || bits b 31 0 % 512 ≠ 0) tPROT b exactI1
    copyAddr x
    let job := copyJob o true d a b x
    copyTile d job.bytes
    copyTile a (job.bytes / 2)
    copyTile x (job.bytes / (8 * job.width))
    sendCopy job)
def execCopys (h : Hdr) (o : CopyF) (c : CS) (s : State) := issue h (resCopys h o c) s

end Sys2Proof.Machine
end

