-- ==== Sys2Proof/Machine/Party.lean ====
section
/-! DEFINITION. Level barriers (10_isa_memory R259 to R261), the application of ATOMF.D contributions (R242, R244), messages
and SPAWN (R262 to R264). -/

namespace Sys2Proof.Machine

/-! ### Barriers -/

def State.setBarDone (s : State) (part lid lev inst n : Nat) : State :=
  { s with bars := { part := part, lid := lid, level := lev, inst := inst, done := n } ::
      s.bars.filter (fun b => !(b.part = part && b.lid = lid && b.level = lev && b.inst = inst)) }

/-- Rank and group count of a launch on this device. -/
def rankOf (s : State) (part lid : Nat) : Nat × Nat :=
  match s.launch? part lid with
  | some l => (l.rank, l.groups)
  | none => (0, 1)

/-- R260, R244: the arrivals that a participant counts for; none where it has retired or was freed: every arrival. -/
def arrivalsOf (s : State) (l : Launch) (part lev : Nat) (ln : Line) : Option Nat :=
  let r := s.role ln.key
  if ln.raised then none
  else if r.st != .free && r.part.toNat = part && r.lid = l.id && r.participant then some (mget 0 r.barA lev)
  else (l.swapped.find? (fun w => w.key = ln.key && w.participant)).map (fun w => mget 0 w.barA lev)

/-- The arrivals of the participants of an instance. -/
def instArrivals (s : State) (part lid lev inst : Nat) : List (Option Nat) :=
  if 2 ^ 16 ≤ inst then
    let r := s.role (inst - 2 ^ 16)
    [if r.st != .free && r.part.toNat = part && r.lid.toNat = lid && !r.participant then some (mget 0 r.barA lev) else none]
  else
    match s.launch? part lid with
    | none => []
    | some l =>
      let (rank, groups) := rankOf s part lid
      (l.lines.filter (fun ln => ln.participant && levelInst (levelWord l ln.key lev rank groups) = inst)).map (arrivalsOf s l part lev)

/-- The requests of a participant, in its slot or switched out; none where it has retired or was freed. -/
def requestsOf (s : State) (l : Launch) (part : Nat) (ln : Line) : List Access :=
  let r := s.role ln.key
  if ln.raised then []
  else if r.st != .free && r.part.toNat = part && r.lid = l.id && r.participant then r.acc
  else match l.swapped.find? (fun w => w.key = ln.key && w.participant) with | some w => w.acc | none => []
/-- The requests of the roles of an instance. -/
def instRequests (s : State) (part lid lev inst : Nat) : List Access :=
  if 2 ^ 16 ≤ inst then
    let r := s.role (inst - 2 ^ 16)
    if r.st != .free && r.part.toNat = part && r.lid.toNat = lid && !r.participant then r.acc else []
  else
    match s.launch? part lid with
    | none => []
    | some l =>
      let (rank, groups) := rankOf s part lid
      (l.lines.filter (fun ln => ln.participant && levelInst (levelWord l ln.key lev rank groups) = inst)).flatMap (requestsOf s l part)
/-- R242: an ATOMF.D tagged with a generation has not been performed: it is under way, has faulted, or is to be sent again. -/
def genUnderWay (s : State) (part lid lev inst g : Nat) : Bool :=
  (instRequests s part lid lev inst).any (fun a => a.kind == .atomfD lev && a.len.toNat = g)

def contribOf (c : Contrib) (part lid lev inst : Nat) : Bool :=
  c.part = part && c.lid = lid && c.level = lev && c.inst = inst
/-- R260: every participant has made more arrivals than generations have completed, and every ATOMF.D tagged with the generation has been
performed (R242); where all have gone, a generation completes while a contribution waits for it (R244). -/
def genReady (s : State) (part lid lev inst : Nat) : Bool :=
  let done := s.barDone part lid lev inst
  let arr := instArrivals s part lid lev inst
  arr.all (fun a => match a with | some n => done < n | none => true) && !genUnderWay s part lid lev inst done &&
  (arr.any (·.isSome) || s.contribs.any (fun c => contribOf c part lid lev inst && done ≤ c.gen))

/-- R242: a generation completes: its contributions are applied in ascending key. -/
def completeGen (s : State) (part lid lev inst : Nat) : State :=
  let g := s.barDone part lid lev inst
  let mine (c : Contrib) : Bool := contribOf c part lid lev inst && c.gen = g
  let cs := sortBy (fun a b => lexLe [a.core, a.slot, a.seq] [b.core, b.slot, b.seq]) (s.contribs.filter mine)
  let s := cs.foldl applyContrib s
  { s with contribs := s.contribs.filter (fun c => !mine c) }.setBarDone part lid lev inst (g + 1)
/-- BARRIER_GENERATION_COMPLETE. -/
def execBarrierGenerationComplete (l : LKey) (lev inst : Nat) (s : State) : Host.Outcome State Fault Refusal :=
  .next (if genReady s l.part l.lid lev inst then completeGen s l.part l.lid lev inst else s)

/-- R260: with a > b, wait until the generation that the last arrival belongs to has completed, then b := a. -/
def barSettle (lev : Nat) : Iss Unit := do
  let s ← getSt
  let k := s.curKey
  let r := s.curRole
  let a := mget 0 (seenBarA r) lev
  if mget 0 (seenBarW r) lev < a then do
    waitIf (s.barDone r.part.toNat r.lid.toNat lev (instOf r k lev) < a)
    modRole (fun r => { r with barW := mput r.barW lev a })
  else pure ()
def resBarArrive (h : Hdr) (l : BitVec 5) (_ua : Bool) : Iss Flow := do
  let g ← guardS h
  if g then do
    levelChk l.toNat
    releaseOrdered
    barSettle l.toNat
    modRole (fun r => { r with barA := mput r.barA l.toNat (mget 0 r.barA l.toNat + 1) })
    pure .fall
  else pure .fall
def execBarArrive (h : Hdr) (l : BitVec 5) (ua : Bool) (s : State) := issue h (resBarArrive h l ua) s
def resBarWait (h : Hdr) (l : BitVec 5) (_ua : Bool) : Iss Flow := do
  let g ← guardS h
  if g then do
    levelChk l.toNat
    barSettle l.toNat
    pure .fall
  else pure .fall
def execBarWait (h : Hdr) (l : BitVec 5) (ua : Bool) (s : State) := issue h (resBarWait h l ua) s

/-! ### Messages (R262, R263) -/

/-- R262: the target of a MSG or SPAWN: a core of this device, or a peer and its core. -/
def targetOf (d : Word) : Iss (Nat × Option Nat) := do
  let s ← getSt
  let r := s.curRole
  let core := bits d 7 0
  let rank := bits d 31 16
  let peer := rank ≠ 0xFFFF && rank ≠ r.rank.toNat % 2 ^ 16
  trapIf (bits d 15 8 ≠ 0 || bits d 63 32 ≠ 0) tPROT d exactI1
  trapIf (if peer then one0 (r.rank.toNat / 2 ^ 16) ≤ rank else !(s.partOr r.part.toNat).record.cores.contains core) tPROT d exactI1
  pure (core, if peer then some rank else none)

/-- The requests of the cluster that a send comes after: all of them with a release, otherwise those that R267 orders before
a store. -/
def sendAfter (rel : Bool) : Iss (List Nat) := do
  let s ← getSt
  let a : Access := { Access.blank .st 0 with ord := if rel then .rel else .relaxed }
  pure ((s.curRole.acc.filter (fun b => b.cl == s.cur.cl && b.stat.unperformed && orderedBefore b a)).map (·.id))

def resMsg (h : Hdr) (o : SendF) (c : CS) : Iss Flow :=
  guarded h [(sQueue o.d, false), msMk o.a, msMk o.b, csMk c] (do
    let d ← rdS o.d
    let a ← rdS o.a.src
    let b ← rdS o.b.src
    let n ← rdS c.src
    let (core, peer) ← targetOf d
    trapIf (a.toNat % 32 ≠ 0) tALIGN a exactI1
    let off ← plainOffset b
    let _ ← tileChk off 1
    trapIf (n.toNat < 1 || 4096 < n.toNat) tTILE n exactI1
    let _ ← tileChk off n.toNat
    tileOrdered true .relaxed
    let bs ← tileGet off n.toNat
    let s ← getSt
    let k := s.curKey
    waitIf (16 ≤ (s.core (k / 4)).msgs.length)
    let after ← sendAfter o.rel
    let r := s.curRole
    let job : MsgJob :=
      { slot := k % 4, lid := r.lid, target := core, peer := peer, after := after,
        arr := { asid := r.asid, handler := a, payload := bs, sender := senderId k r, x4 := 0 } }
    modSt (fun s => s.setCore (k / 4) { s.core (k / 4) with msgs := (s.core (k / 4)).msgs ++ [job] }))
def execMsg (h : Hdr) (o : SendF) (c : CS) (s : State) := issue h (resMsg h o c) s

/-- R316, R387, R388: a message or a SPAWN of a launch leaves the device for a core of a peer: the port that the hash picks takes it and has
a free tag of the partition's share, and a token is drawn from the crossbar's budget and from the port's; none where it waits. -/
def leavesTo (s : State) (pn : Nat) (lid : BitVec 32) (rank core : Nat) : Option State :=
  match portTo s { Role.reset with part := BitVec.ofNat 8 pn, lid := lid } rank core with
  | some q => if (s.port q).takes && !noTag s pn q then spend s pn [1, 2 + q] else none
  | none => none
/-- R73, R316: a message reaches a core of this device: it is accepted there, and draws a token of the crossbar's budget. -/
def reaches (s : State) (pn : Nat) (m : MsgJob) : Option State := (spend s pn [1]).bind (fun s => s.accept m.target m.arr)
/-- MSG_DELIVERY (R263): message k of a core's engine reaches its target, once the requests before it have been performed and
after the earlier messages of its role to that core. A message to a peer leaves the device over
the PEER port that R388 gives, once its link is up. -/
def execMsgDelivery (core : BitVec 8) (k : Nat) (s : State) : Host.Outcome State Fault Refusal :=
  let c := core.toNat
  let ms := (s.core c).msgs
  match ms[k]? with
  | none => .next s
  | some m =>
    let r := s.role (4 * c + m.slot)
    if (ms.take k).any (fun x => x.slot = m.slot && x.target = m.target && x.peer == m.peer) ||
       r.acc.any (fun a => m.after.contains a.id && a.stat.unperformed) then .next s
    else
      let pn := (s.asid m.arr.asid.toNat).part.toNat
      .next (match (match m.peer with | some rank => leavesTo s pn m.lid rank m.target | none => reaches s pn m) with
        | some s' => (s'.setCore c { s'.core c with msgs := (s'.core c).msgs.eraseIdx k }).stir (4 * c + m.slot)
        | none => s)

/-! ### SPAWN (R264) -/

/-- SPAWN enters the partition's spawn queue, from which the scheduler binds it, or sends it to the peer that it names (R388). -/
def resSpawn (h : Hdr) (o : SendF) : Iss Flow :=
  guarded h [(sQueue o.d, false), msMk o.a, msMk o.b] (do
    let d ← rdS o.d
    let a ← rdS o.a.src
    let b ← rdS o.b.src
    let (core, peer) ← targetOf d
    trapIf (a.toNat % 32 ≠ 0) tALIGN a exactI1
    let s ← getSt
    let r := s.curRole
    let k := s.curKey
    let pn := r.part.toNat
    waitIf (256 ≤ (s.partOr pn).spawns.length)
    let after ← sendAfter o.rel
    modSt (fun s => s.setPart pn { s.partOr pn with spawns := (s.partOr pn).spawns ++
        [{ peer := peer, core := core, lid := r.lid, asid := r.asid, handler := a, arg := b, sender := senderId k r, key := k, after := after }] }))
def execSpawn (h : Hdr) (o : SendF) (s : State) := issue h (resSpawn h o) s

end Sys2Proof.Machine
end

