-- ==== Sys2Proof/Machine/Request.lean ====
section
/-! DEFINITION. Issue of the syllables that send one request and go on: POOL (15 R329 to R331), CUE (16 R347, R348), LAUNCH
and LWAIT (14 R317 to R319), WIN (21 R417, R418); and the CSR instructions (17 R368). -/

namespace Sys2Proof.Machine

/-! ### POOL -/

/-- A pool address: a multiple of 256 (R329). -/
def poolReq (op : Nat) (pool v : Word) (ds : List Dest) (ord : Ord) : Iss Unit := do
  chkVirtual pool 256
  sendAcc { Access.blank (.pool op) pool with v := v, dests := ds, ord := ord, scope := .device }

def resPclaim (h : Hdr) (o : S1) : Iss Flow :=
  memOp h [msMk o.a] (wrS0 o.d) (do
    let a ← rdS o.a.src
    poolReq 0 a 0 [sDest o.d] .acq)
def execPclaim (h : Hdr) (o : S1) (s : State) := issue h (resPclaim h o) s
def poolAB (op : Nat) (ord : Ord) (h : Hdr) (o : A2) : Iss Flow :=
  memOp h [msMk o.a, msMk o.b] (pure ()) (do
    let a ← rdS o.a.src
    let b ← rdS o.b.src
    poolReq op a b [] ord)
def resPpub (h : Hdr) (o : A2) : Iss Flow := poolAB 1 .rel h o
def execPpub (h : Hdr) (o : A2) (s : State) := issue h (resPpub h o) s
def resPabort (h : Hdr) (o : A2) : Iss Flow := poolAB 2 .relaxed h o
def execPabort (h : Hdr) (o : A2) (s : State) := issue h (resPabort h o) s
def resPgrab (h : Hdr) (p : BitVec 7) (x : BitVec 5) (b : MS) : Iss Flow :=
  memOp h [msMk b] (pure ()) (do
    let a ← rdS b.src
    poolReq 3 a 0 [.p p.toNat, .x x.toNat, .x (x.toNat + 1), .x (x.toNat + 2)] .acq)
def execPgrab (h : Hdr) (p : BitVec 7) (x : BitVec 5) (b : MS) (s : State) := issue h (resPgrab h p x b) s
def resPrel (h : Hdr) (o : A2) : Iss Flow := poolAB 4 .rel h o
def execPrel (h : Hdr) (o : A2) (s : State) := issue h (resPrel h o) s
def resPstat (h : Hdr) (o : S2) : Iss Flow :=
  memOp h [msMk o.a, msMk o.b] (wrS0 o.d) (do
    let a ← rdS o.a.src
    let b ← rdS o.b.src
    poolReq 5 a b [sDest o.d] .relaxed)
def execPstat (h : Hdr) (o : S2) (s : State) := issue h (resPstat h o) s

/-! ### CUE -/

def cueReq (op : Nat) (cell v : Word) (data : List Byte) (ds : List Dest) (ord : Ord) : Iss Unit := do
  chkVirtual cell 64
  sendAcc { Access.blank (.cue op) cell with v := v, data := data, dests := ds, ord := ord, scope := .device, size := .b64 }

/-- CUEMK: the image is read when the syllable issues. -/
def resCuemk (h : Hdr) (o : A2) : Iss Flow :=
  memOp h [msMk o.a, msMk o.b] (pure ()) (do
    let a ← rdS o.a.src
    let b ← rdS o.b.src
    chkVirtual a 64
    trapIf (b.toNat % 64 ≠ 0) tALIGN b exactI1
    let off ← plainOffset b
    tileOrdered true .relaxed
    let bs ← tileGet off 64
    cueReq 0 a b bs [] .rel)
def execCuemk (h : Hdr) (o : A2) (s : State) := issue h (resCuemk h o) s
def resCueres (h : Hdr) (o : A2) : Iss Flow :=
  memOp h [msMk o.a, msMk o.b] (pure ()) (do
    let a ← rdS o.a.src
    let b ← rdS o.b.src
    cueReq 1 a b (wordLe b ++ List.replicate 56 0) [] .rel)
def execCueres (h : Hdr) (o : A2) (s : State) := issue h (resCueres h o) s
def resCueresV (h : Hdr) (a : MS) (q : BitVec 3) (lb _ub : Bool) : Iss Flow :=
  memOp h [msMk a, (some (8 + q.toNat), lb)] (pure ()) (do
    let c ← rdS a.src
    let row ← qHead (8 + q.toNat)
    chkVirtual c 64
    sendAcc { Access.blank (.cue 1) c with data := (rowLe row).take 64, ord := .rel, scope := .device, size := .b64, wide := true })
def execCueresV (h : Hdr) (a : MS) (q : BitVec 3) (lb ub : Bool) (s : State) := issue h (resCueresV h a q lb ub) s
def resCuefail (h : Hdr) (o : A2) : Iss Flow :=
  memOp h [msMk o.a, msMk o.b] (pure ()) (do
    let a ← rdS o.a.src
    let b ← rdS o.b.src
    cueReq 2 a b [] [] .rel)
def execCuefail (h : Hdr) (o : A2) (s : State) := issue h (resCuefail h o) s
def resCuepeek (h : Hdr) (o : S1) : Iss Flow :=
  memOp h [msMk o.a] (wrS0 o.d) (do
    let a ← rdS o.a.src
    cueReq 3 a 0 [] [sDest o.d] .relaxed)
def execCuepeek (h : Hdr) (o : S1) (s : State) := issue h (resCuepeek h o) s
def resCuestat (h : Hdr) (o : S2) : Iss Flow :=
  memOp h [msMk o.a, msMk o.b] (wrS0 o.d) (do
    let a ← rdS o.a.src
    let b ← rdS o.b.src
    cueReq 4 a b [] [sDest o.d] .relaxed)
def execCuestat (h : Hdr) (o : S2) (s : State) := issue h (resCuestat h o) s

/-! ### LAUNCH and LWAIT -/

def resLaunch (h : Hdr) (o : S2) : Iss Flow :=
  memOp h [msMk o.a, msMk o.b] (wrS0 o.d) (do
    let a ← rdS o.a.src
    let b ← rdS o.b.src
    chkVirtual a 256
    sendAcc { Access.blank (.lch 0) a with v := b, dests := [sDest o.d], ord := .rel, scope := .system })
def execLaunch (h : Hdr) (o : S2) (s : State) := issue h (resLaunch h o) s
/-- R319: LWAIT waits at its head. -/
def resLwait (h : Hdr) (o : S1) : Iss Flow :=
  scalarOp h [msMk o.a] o.d (do
    let a ← rdS o.a.src
    let s ← getSt
    match lwaitWord (s.partOr s.curRole.part.toNat) a with
    | some w => pure w
    | none => waitI)
def execLwait (h : Hdr) (o : S1) (s : State) := issue h (resLwait h o) s

/-! ### WIN -/

/-- R277: a record or a watermark for a source on a peer is a release at group scope. -/
def winReq (op : Nat) (addr v : Word) (data : List Byte) (off : Word) (ds : List Dest) (ord : Ord) : Iss Unit := do
  let r ← getRole
  sendAcc { Access.blank (.win op) addr with
    v := v, data := data, listOff := off, dests := ds, ord := ord, scope := if op ≤ 1 && peerSource r addr then .group else .device }
/-- R417: a record's place in the tile window: ALIGNMENT, then TILE_BOUNDS. -/
def recordOff (v : Word) : Iss Nat := do
  trapIf (v.toNat % 64 ≠ 0) tALIGN v exactI1
  let o ← plainOffset v
  let _ ← tileChk o 64
  pure o
def resRecapp (h : Hdr) (o : S2) : Iss Flow :=
  memOp h [msMk o.a, msMk o.b] (wrS0 o.d) (do
    let a ← rdS o.a.src
    let b ← rdS o.b.src
    let off ← recordOff a
    tileOrdered true .relaxed
    let bs ← tileGet off 64
    winReq 0 b a bs 0 [sDest o.d] .rel)
def execRecapp (h : Hdr) (o : S2) (s : State) := issue h (resRecapp h o) s
def resWmark (h : Hdr) (o : A2) : Iss Flow :=
  memOp h [msMk o.a, msMk o.b] (pure ()) (do
    let a ← rdS o.a.src
    let b ← rdS o.b.src
    winReq 1 a b [] 0 [] .rel)
def execWmark (h : Hdr) (o : A2) (s : State) := issue h (resWmark h o) s
def resSidle (h : Hdr) (a : MS) : Iss Flow :=
  memOp h [msMk a] (pure ()) (do
    let v ← rdS a.src
    winReq 2 v 0 [] 0 [] .relaxed)
def execSidle (h : Hdr) (a : MS) (s : State) := issue h (resSidle h a) s
def winFetch (op : Nat) (h : Hdr) (o : P2) : Iss Flow :=
  memOp h [msMk o.a, msMk o.b] (pure ()) (do
    let a ← rdS o.a.src
    let b ← rdS o.b.src
    let _ ← recordOff b
    winReq op a b [] b [.p o.p.toNat] .relaxed)
def resWnext (h : Hdr) (o : P2) : Iss Flow := winFetch 3 h o
def execWnext (h : Hdr) (o : P2) (s : State) := issue h (resWnext h o) s
def resWpub (h : Hdr) (o : A2) : Iss Flow :=
  memOp h [msMk o.a, msMk o.b] (pure ()) (do
    let a ← rdS o.a.src
    let b ← rdS o.b.src
    winReq 4 a b [] 0 [] .rel)
def execWpub (h : Hdr) (o : A2) (s : State) := issue h (resWpub h o) s
/-- WLATE acquires the record it returns (R277). -/
def resWlate (h : Hdr) (o : P2) : Iss Flow :=
  memOp h [msMk o.a, msMk o.b] (pure ()) (do
    let a ← rdS o.a.src
    let b ← rdS o.b.src
    let _ ← recordOff b
    winReq 5 a b [] b [.p o.p.toNat] .acq)
def execWlate (h : Hdr) (o : P2) (s : State) := issue h (resWlate h o) s

/-! ### CSRs (R367 to R369) -/

def resRdcsr (h : Hdr) (d : SDst) (n : BitVec 12) : Iss Flow :=
  scalarOp h [] d (do
    let r ← getRole
    pure (seenCsr r n.toNat))
def execRdcsr (h : Hdr) (d : SDst) (n : BitVec 12) (s : State) := issue h (resRdcsr h d n) s

/-- R7, R43: a write of a CSR: RW fields are set; the first-fault record is cleared when no enabled flag is left. -/
def writeCsr (r : Role) (n : Nat) (v : Word) : Role :=
  let r := match n with
    | 1 => { r with flags := v.setWidth 6 }
    | 2 => { r with flagen := v.setWidth 6 }
    | 4 => { r with wdlimit := v.setWidth 32 }
    | 6 => { r with cueerr := v.setWidth 7 }
    | 7 => { r with cuewd := v.setWidth 32 }
    | _ => r
  if r.flags &&& r.flagen = 0 then { r with ffrec := 0 } else r
/-- R369: flags that the role raised earlier in the cycle of a WRCSR are ORed in after its write. -/
def State.orRecent (s : State) (r : Role) : Role :=
  if r.recent.1 = s.cycle then r.recent.2.foldl (fun r x => r.raise s.curKey x.1 x.2.1 x.2.2) r else r
def resWrcsr (h : Hdr) (a : SSrc) (la : Bool) (n : BitVec 12) : Iss Flow :=
  guarded h [(sQueue a, la)] (do
    let v ← rdS a
    let s ← getSt
    modRole (fun r => if n = 1 then s.orRecent (writeCsr r n.toNat v) else writeCsr r n.toNat v))
def execWrcsr (h : Hdr) (a : SSrc) (la : Bool) (n : BitVec 12) (s : State) := issue h (resWrcsr h a la n) s

/-- A syllable of these kinds commits with its reply (R237, R330, R419). -/
def AKind.commitsLate : AKind → Bool
  | .atom _ | .atomf | .pool _ | .cue _ | .win _ | .lch _ => true
  | _ => false
/-- R368: an earlier syllable of the current cluster has not committed: its reply is still to come. -/
def uncommitted (s : State) : Bool := s.curRole.acc.any (fun a => a.cl == s.cur.cl && a.kind.commitsLate && a.stat.open_)
/-- R368; that the other memory syllables commit as they are sent is the model's reading (log 48). -/
def resRdtime (h : Hdr) (d : SDst) : Iss Flow :=
  scalarOp h [] d (do
    let s ← getSt
    waitIf (uncommitted s)
    pure (BitVec.ofNat 64 s.dtime))
def execRdtime (h : Hdr) (d : SDst) (s : State) := issue h (resRdtime h d) s

end Sys2Proof.Machine
end

