-- ==== Sys2Proof/Machine/Free.lean ====
section
/-! DEFINITION. A role leaves its slot or goes DORMANT (03 R46, 15 R327, 16 R344, 09 R212, 21 R414), retirement, the kinds of
bind record (14 R302), and the progress watchdog (03 R54). -/

namespace Sys2Proof.Machine

/-- R327: copies the engine has not started are cancelled; a granule already in progress is written, whatever else the copy would
wait for, as the kill does. -/
def endCopies (s : State) (k : Nat) : State :=
  let n := (s.role k).copies.length
  let s := (List.range n).foldl (fun s i =>
    match (s.role k).copies[i]? with
    | some c => if c.buf.isSome && c.fault.isNone && !c.held then moveGranule s k i c else s
    | none => s) s
  s.modRoleAt k (fun r => { r with copies := [] })

/-- R212: vectors left in the channels into and out of a role are discarded. -/
def dropLinks (s : State) (k : Nat) : State :=
  (List.range 4).foldl (fun s d => (s.setChan (srcChan k d) []).setChan (sinkChan k d) []) s

/-- R306: the role's span in its slot ends. -/
def endSpan (s : State) (k : Nat) : State :=
  { s with spans := s.spans.map (fun x => if x.key = k && x.stop.isNone then { x with stop := some s.cycle } else x) }
def beginSpan (s : State) (part k : Nat) : State :=
  { s with spans := s.spans ++ [{ part := part, key := k, start := s.cycle, stop := none }] }

/-- Messages and spawns that a role has sent stay; they wait for none of its requests any more. -/
def forgetSends (s : State) (k : Nat) : State :=
  let c := s.core (k / 4)
  let s := s.setCore (k / 4) { c with msgs := c.msgs.map (fun m => if m.slot = k % 4 then { m with after := [] } else m) }
  { s with parts := s.parts.map (fun p => (p.1, { p.2 with spawns := p.2.spawns.map (fun x =>
      if x.key = k then { x with after := [] } else x) })) }

/-- R313: the line of a role in its launch's completion tree is raised. -/
def raiseLine (s : State) (k : Nat) : State :=
  let r := s.role k
  s.modLaunch r.part.toNat r.lid.toNat (fun l =>
    { l with lines := l.lines.map (fun x => if x.key = k then { x with raised := true } else x) })

/-- R302: the KIND of a slot's bind record. -/
def State.kindAt (s : State) (k : Nat) : Nat := match mfind s.slotTab k with | some x => x.1 | none => 0
/-- A bind record is written into the slot table. -/
def State.putRecord (s : State) (k kind : Nat) (b : BindRec) : State := { s with slotTab := mput s.slotTab k (kind, b) }
/-- The scheduler empties the record of a slot that has become FREE (log 18). -/
def State.emptyRecord (s : State) (k : Nat) : State :=
  match mfind s.slotTab k with
  | some x => s.putRecord k 0 x.2
  | none => s
/-- The slot becomes FREE: what is left is its control block. -/
def clearSlot (s : State) (k : Nat) : State :=
  let r := s.role k
  ((endSpan (forgetSends s k) k).setRole k { Role.reset with blk := r.blk, err := r.err }).emptyRecord k

/-- R46, R327, R344: role k goes to FREE by a kill (reason 1) or by retirement (reason 2): its copies end, its claims and pins
are released, its cells fault, the windows it holds stall, its arrival entry is free, its channels are emptied. -/
def freeRole (s : State) (k reason : Nat) : State :=
  let r := s.role k
  let rank := r.rank.toNat % 2 ^ 16
  let s := releaseHolds (endCopies s k) r.asid.toNat k rank r.holds
  let s := stallWindows (faultCells s r.eid k rank reason) k
  clearSlot (dropLinks (s.freeAreaOf (k / 4) r.arrival) k) k

/-- R130: a cluster of a role that retires keeps no loop. -/
def Clu.retired (c : Clu) : Clu := { c with loops := [], lrec := none }
/-- R46, R76, R130, R344: retirement to DORMANT. -/
def goDormant (s : State) (k : Nat) : State :=
  let r := s.role k
  let s := stallWindows (faultCells s r.eid k (r.rank.toNat % 2 ^ 16) 2) k
  (s.freeAreaOf (k / 4) r.arrival).modRoleAt k (fun r =>
    { r with
      st := .dormant, qs := [], arrival := none, eid := 0, stopReq := none
      cl := r.cl.retired, cm := r.cm.retired, cv := r.cv.retired, cw := r.cw.retired })

/-- Every engine queue that a role feeds has drained. -/
def drained (s : State) (k : Nat) : Bool :=
  let r := s.role k
  r.acc = [] && r.copies = [] && r.nest.isNone && (s.core (k / 4)).msgs.all (fun m => m.slot ≠ k % 4)

/-- RETIREMENT (R46, R313): every cluster has halted and the engines have drained. A role whose clusters have all halted stops
for a fault that one of its requests has met (log 18). -/
def execRetirement (rs : Slot) (s : State) : Host.Outcome State Fault Refusal :=
  let k := rs.key
  let r := s.role k
  .next (if r.st != .running || !r.allHalted then s
    else
      match r.anyFault with
      | some (c, id) => deferredAt s k c id
      | none =>
        if !drained s k then s
        else
          let s := raiseLine s k
          if r.hwLen = 0 then freeRole s k 2 else goDormant s k)

/-! ### Binding (R21, R302, R304) -/

/-- The state of a slot that a bind record binds: every register at its reset value, but the identity that the record and the
launch give. -/
def boundRole (s : State) (k : Nat) (b : BindRec) (st : RoleState) : Role :=
  let old := s.role k
  let pn := b.part.toNat
  let base : Role := { Role.reset with
    st := st, blk := old.blk, part := b.part, asid := b.asid, lid := b.lid, twBase := b.twBase, twSize := b.twSize,
    save := b.save, hwStart := b.hwStart, hwLen := b.hwLen, recAddr := b.recAddr, lastAct := s.cycle }
  match s.launch? pn b.lid.toNat with
  | none => base
  | some l =>
    { base with
      det := recDet l.rec_
      ncores := l.count
      participant := l.lines.any (fun x => x.key = k && x.participant && !x.raised)
      rank := BitVec.ofNat 32 (l.rank + l.groups % 2 ^ 16 * 2 ^ 16)
      levels := (List.range 8).foldl (fun m i => mset (0 : Word) m i (levelWord l k i l.rank l.groups)) [] }

/-- R260: generations counted for a role that was no participant do not outlive it. -/
def clearBars (s : State) (part lid k : Nat) : State :=
  { s with bars := s.bars.filter (fun b => !(b.part = part && b.lid = lid && b.inst = 2 ^ 16 + k)) }

/-- The 64 KiB units of a core that a window covers, as keys of `owners`. -/
def unitsOf (core base size : Nat) : List Nat := (List.range ((size + 65535) / 65536)).map (fun i => 64 * core + base / 65536 + i)
/-- R21: an address space takes units of a tile store; with `clear`, those whose last occupant was of another one are
cleared first. -/
def takeUnits (s : State) (us : List Nat) (asid : Nat) (clear : Bool) : State :=
  let stale := if clear then us.filter (fun u => mget 0 s.owners u ≠ asid + 1) else []
  { s with
    tile := s.tile.filter (fun c => !stale.contains (c.1 / 65536))
    tpoison := s.tpoison.filter (fun g => !stale.contains (g / 1024))
    owners := us.foldl (fun m u => mput m u (asid + 1)) s.owners }

/-- A bind record of kind 1 or 2 is written; it acts on a FREE slot (R46), when KIND changes (R302). -/
def bindSlot (s0 : State) (k : Nat) (b : BindRec) (run : Bool) : State :=
  let kind := if run then 1 else 2
  let s := s0.putRecord k kind b
  if s0.kindAt k = kind || (s.role k).st != .free then s
  else
    let r := boundRole s k b (if run then .running else .dormant)
    let r := if run then (r.enter [b.entL, b.entM, b.entV, b.entW]).setX 1 b.arg
             else { r with cl := { Clu.zero with halted := true }, cm := { Clu.zero with halted := true },
                           cv := { Clu.zero with halted := true }, cw := { Clu.zero with halted := true } }
    let s := takeUnits s (unitsOf (k / 4) b.twBase.toNat b.twSize.toNat) b.asid.toNat true
    beginSpan ((clearBars s b.part.toNat b.lid.toNat k).setRole k r) b.part.toNat k

/-- BIND_RUNNING: kind 1. -/
def execBindRunning (r : Slot) (b : BindRec) (s : State) : Host.Outcome State Fault Refusal := .next (bindSlot s r.key b true)
/-- BIND_DORMANT: kind 2. -/
def execBindDormant (r : Slot) (b : BindRec) (s : State) : Host.Outcome State Fault Refusal := .next (bindSlot s r.key b false)
/-- FREE_SLOT: kind 3, a kill by the scheduler (log 18). -/
def execFreeSlot (r : Slot) (s : State) : Host.Outcome State Fault Refusal :=
  .next (if (s.role r.key).st == .free then s else freeRole s r.key 1)

/-! ### The watchdog (R54) -/

/-- A syllable of the vector unit waits at a neighbour link: it names a sink whose channel is full or a source whose channel
has no vector. -/
def linkWait (s : State) (k : Nat) (i : Instr) : Bool :=
  let w := (encode i).headD 0
  let m := (majOf w).toNat
  let f := rfOf w
  0x20 ≤ m && m ≤ 0x29 && [f.d, f.a, f.b, f.c].any (fun d =>
    0xB0 ≤ d.toNat && d.toNat < 0xC0 &&
    (match (s.role k).strm? (d.toNat - 0xB0) with
     | some t => t.bind = 2 && (if t.sink then 8 ≤ (s.chan (sinkChan k t.link)).length
                               else (s.chan (srcChan k t.link)).all (fun v => !v.arrived))
     | none => false))
/-- A cluster's head waits on another party. -/
def waitsOnOther (s : State) (k : Nat) (c : Cluster) : Bool :=
  !((s.role k).clu c).halted &&
  (match head s k c with
   | .instr _ (.barWait _ _ _) | .instr _ (.lwait _ _) => true
   | .instr _ (.spawn _ _) => 256 ≤ (s.partOr (s.role k).part.toNat).spawns.length
   | .instr _ i => linkWait s k i
   | .trap .. => false)
/-- The watchdog counts: nothing of the role is under way. A cycle in which it does not count returns it to 0. -/
def quiet (s : State) (k : Nat) : Bool :=
  let r := s.role k
  r.st == .running && r.acc.all (fun a => !a.stat.open_) && r.copies.all (fun c => c.fault.isSome || c.held) && r.nest.isNone &&
  (s.core (k / 4)).msgs.all (fun m => m.slot ≠ k % 4) && clusters.all (fun c => !waitsOnOther s k c)
/-- WATCHDOG: the count has reached WDLIMIT. -/
def execWatchdog (rs : Slot) (s : State) : Host.Outcome State Fault Refusal :=
  let k := rs.key
  let r := s.role k
  .next (if quiet s k && r.wdlimit ≠ 0 && r.lastAct + r.wdlimit.toNat ≤ s.cycle then
    takeStop s k 1 tWDOG r.front (r.wdlimit.setWidth 64) 0 none else s)

end Sys2Proof.Machine
end

