-- ==== Sys2Proof/Machine/Stop.lean ====
section
/-! DEFINITION. The stop record (17 R356 to R359), who is told (R360), and the stop queues. -/

namespace Sys2Proof.Machine

/-! ### Settling (R356) -/

/-- A request that the stop must not wait for: withdrawn, or ordered behind one that is. -/
def Access.leftOpen (a : Access) : Bool :=
  match a.stat with
  | .pending | .parked .. | .resend .. => true
  | _ => false
/-- R356: what the role has in flight is settled: no request can still be performed, but for cue loads, which a stop does not wait for
(R342); and for a clean stop or a yield the nest record has retired. -/
def settled (s : State) (k : Nat) : Bool :=
  let r := s.role k
  r.acc.all (fun a => !performable s r a || cueLoad s r.asid.toNat a) &&
  (match r.stop with | some i => (i.kind ≠ 2 && i.kind ≠ 3) || r.nest.isNone | none => false)
/-- R330, R342, R347, R356: replies are committed, and every request still unperformed is withdrawn. -/
def withdraw (r : Role) : Role :=
  let r := r.acc.foldl (fun r a => match a.stat with | .replied vals => r.complete a vals | _ => r) r
  { r with acc := (r.acc.filter (fun a => !(a.isFence || a.kind == .pref))).map (fun a =>
      if a.leftOpen then { a with stat := .held } else a) }

/-- The entries of the record in issue order: id, and the destination index of a part of a multicast copy. -/
def Role.replays (r : Role) : List (Nat × Nat) :=
  let xs := (r.acc.filter (fun a => a.stat.isFaulted || a.stat == .held)).map (fun a => (a.id, 0))
  let ys := (r.copies.filter (fun c => c.fault.isSome || c.held)).map (fun c => (c.id, c.mdest))
  sortBy (fun a b => lexLe [a.1, a.2] [b.1, b.2]) (xs ++ ys)

/-! ### Replay entries (R359; log 15 says what stands in fields that R359 leaves to a kind) -/

def AKind.code : AKind → Nat
  | .ld => 0 | .st => 1 | .ldv => 2 | .stv => 3 | .gather => 4 | .scatter => 5 | .atom _ => 6 | .atomf => 7 | .atomfD _ => 8
  | .copy => 9 | .copys => 10 | .pool _ => 11 | .cue _ => 12 | .win _ => 13 | .lch _ => 14 | .pref | .fence => 15
def AKind.op : AKind → Nat
  | .atom n | .atomfD n | .pool n | .cue n | .win n | .lch n => n
  | _ => 0
def kindOfCode (c op : Nat) : AKind :=
  match c with
  | 0 => .ld | 1 => .st | 2 => .ldv | 3 => .stv | 4 => .gather | 5 => .scatter | 6 => .atom op | 7 => .atomf | 8 => .atomfD op
  | 9 => .copy | 10 => .copys | 11 => .pool op | 12 => .cue op | 13 => .win op | _ => .lch op
/-- A destination's designator (R64), or the number of a predicate. -/
def Dest.code : Dest → Nat
  | .x n => 0x80 + n | .p n => n | .q n => 0xA0 + n | .gone => 0
def destOf (c : Nat) : List Dest :=
  if c = 0 then [] else if c < 0x80 then [.p c] else if c < 0xA0 then [.x (c - 0x80)] else [.q (c - 0xA0)]
/-- The trap code, and INFO, of an entry. -/
def AStat.codes : AStat → Nat × Nat
  | .faulted c _ _ n => (c, n)
  | _ => (0, 0)

/-- The bytes of a request's entry; `wbuf` is its wide-store buffer. -/
def accEntry (a : Access) (wbuf : Nat) : List Byte :=
  let elem := a.kind == .gather || a.kind == .scatter
  let (tc, info) := a.stat.codes
  let ctl := a.cl.num + a.kind.code * 2 ^ 2 + a.kind.op * 2 ^ 6 + a.size.code.toNat * 2 ^ 10 + a.ord.code.toNat * 2 ^ 13 +
    a.scope.code.toNat * 2 ^ 15 + ((a.dests.map Dest.code).headD 0) * 2 ^ 18 + (if a.wide then 2 ^ 26 + wbuf * 2 ^ 27 else 0) +
    tc * 2 ^ 32 + info % 256 * 2 ^ 40
  let d0 : Word := if elem then BitVec.ofNat 64 a.done else if a.kind == .st then leWord a.data
    else if a.kind == .win 0 then a.addr else a.v
  let d1 : Word :=
    match a.kind with
    | .win 0 => a.v
    | .gather | .scatter | .win _ => a.listOff
    | .pool _ => (match a.dests with | _ :: .x n :: _ => BitVec.ofNat 64 n | _ => 0)
    | _ => a.c
  let d2 : Word := if elem then a.addr else a.len
  wordLe (if elem then a.partAddr a.done else a.addr) ++ wordLe a.pc ++ natLe 8 ctl ++ wordLe d0 ++ wordLe d1 ++ wordLe d2 ++
    natLe 16 0
/-- The bytes of a copy's entry; a part of a multicast copy has its destination index in the top byte of DATA3 (R394). -/
def copyEntry (c : CopyJob) : List Byte :=
  let ord := (if c.acq then 1 else 0) + (if c.rel then 2 else 0)
  let tc := match c.fault with | some f => f.1 | none => 0
  let at_ := match c.fault with | some f => f.2.1 | none => c.dst
  let ctl := c.cl.num + (if c.sparse then 10 else 9) * 2 ^ 2 + ord * 2 ^ 13 + c.scope.code.toNat * 2 ^ 15 + tc * 2 ^ 32
  wordLe at_ ++ wordLe c.pc ++ natLe 8 ctl ++ wordLe c.dst ++ wordLe c.src ++ wordLe c.len ++
    natLe 8 (c.done + c.mdest * 2 ^ 56) ++ natLe 8 0
/-- The requests among the entries that use a wide-store buffer, in order. -/
def wideOf (r : Role) (es : List (Nat × Nat)) : List Access :=
  es.filterMap (fun e => match r.acc? e.1 with | some a => if a.wide then some a else none | none => none)
def entryBytes (r : Role) (es : List (Nat × Nat)) (e : Nat × Nat) : List Byte :=
  match r.acc? e.1 with
  | some a => accEntry a ((wideOf r es).findIdx (fun b => b.id = a.id))
  | none =>
    match r.copies.find? (fun c => c.id = e.1 && c.mdest = e.2) with
    | some c => copyEntry c
    | none => natLe 64 0

/-! ### The header (R357, R358) -/

def nat4 (f : Nat → List Byte) : List Byte := f 0 ++ f 1 ++ f 2 ++ f 3
def Role.cluN (r : Role) (c : Nat) : Clu := r.clu (match c with | 0 => .l | 1 => .m | 2 => .v | _ => .w)
def causeWord (i : StopInfo) : Nat := i.kind + i.code * 2 ^ 8 + i.cl.num * 2 ^ 16 + i.entries.length * 2 ^ 23
def pcWord (c : Clu) : Word := if c.halted then (c.pc &&& ~~~1) ||| 1 else c.pc
def loopBytes (c : Clu) (i : Nat) : List Byte :=
  match c.loops[i]? with
  | some e => wordLe e.start ++ wordLe e.stop ++ wordLe e.left
  | none => natLe 24 0
def lrecBytes (c : Clu) : List Byte :=
  match c.lrec with
  | some l => wordLe l.addr ++ natLe 8 l.it ++ natLe 8 l.last ++ natLe 8 l.trip
  | none => natLe 32 0
def holdBytes (h : Hold) : List Byte := wordLe h.pool ++ natLe 8 (h.slot + (if h.pin then 256 else 0))
def stopHeader (s : State) (r : Role) (i : StopInfo) : List Byte :=
  natLe 8 (causeWord i) ++ wordLe i.i0 ++ wordLe i.i1 ++ natLe 8 s.dtime ++
  nat4 (fun c => wordLe (pcWord (r.cluN c))) ++
  wordLe (match r.nest with | some f => f.addr | none => 0) ++ natLe 8 (match r.nest with | some f => f.step % 2 ^ 32 | none => 0) ++
  nat4 (fun c => natLe 1 (r.cluN c).loops.length) ++ natLe 4 0 ++ wordLe r.entryPend ++
  nat4 (fun c => match (r.cluN c).lrec with | some l => wordLe l.ret | none => natLe 8 0) ++
  (List.range 16).flatMap (fun n => match r.strm? n with | some t => natLe 8 t.c ++ natLe 8 t.sp | none => natLe 16 0) ++
  nat4 (fun c => nat4 (loopBytes (r.cluN c))) ++
  nat4 (fun c => lrecBytes (r.cluN c)) ++
  r.holds.flatMap holdBytes ++ natLe (16 * (16 - r.holds.length)) 0 ++ natLe 896 0

/-- A save area that the hardware can use: aligned, in memory, inside the partition's windows (R364). -/
def saveOk (s : State) (part : Nat) (a : Word) : Bool :=
  let b := diePa a.toNat
  b % 2 ^ 17 = 0 && paRegion b ≤ 1 && inWindows s (s.partOr part).record b
def saveBase (a : Word) : Nat := diePa a.toNat
def recBase (r : Role) : Nat := saveBase r.save + 0x18000
/-- R357: header, entries and wide-store buffers in the save area; nothing where there is none. -/
def writeRecord (s : State) (k : Nat) (i : StopInfo) : State :=
  let r := s.role k
  if !saveOk s r.part.toNat r.save then s
  else
    let b := recBase r
    let bufs := (wideOf r i.entries).flatMap (fun a => a.data.take 512 ++ List.replicate (512 - a.data.length) 0)
    ((s.memWrite b (stopHeader s r i)).memWrite (b + 0x800) (i.entries.flatMap (entryBytes r i.entries))).memWrite (b + 0x4800) bufs

/-- R350: INFO1 of a deferred stop is the index of its entry, but where a rule gives it another value. -/
def info1Of (i : StopInfo) : Word :=
  match i.acc with
  | some id =>
    if (i.code = tPAGE || i.code = tPROT || i.code = tPOISON) && i.i1 ≠ 0xFFFE then
      BitVec.ofNat 64 (i.entries.findIdx (fun e => e.1 = id))
    else i.i1
  | none => i.i1

/-- STOP_RECORD (R356 to R359): once what is in flight has settled, the record is written. -/
def execStopRecord (rs : Slot) (s : State) : Host.Outcome State Fault Refusal :=
  let k := rs.key
  match (s.role k).stop with
  | none => .next s
  | some i =>
    if (s.role k).st != .stopped || i.written || !settled s k then .next s
    else
      let s := s.modRoleAt k withdraw
      let i := { i with entries := (s.role k).replays.take 256, written := true }
      let i := { i with i1 := info1Of i }
      .next ((writeRecord s k i).modRoleAt k (fun r => { r with stop := some i }))

/-! ### Reports (R360) -/

def reportWord (k : Nat) (r : Role) (i : StopInfo) : Word :=
  BitVec.ofNat 64 (k / 4 + k % 4 * 2 ^ 8 + 2 ^ 15 + i.code * 2 ^ 16 + i.kind * 2 ^ 24 + r.lid.toNat * 2 ^ 32)
def State.toSvc (s : State) (part core : Nat) (e : Word) : State :=
  match s.reporter part core with
  | some n => s.postSvc n e
  | none => s
/-- STOP_REPORT_POST: the report follows the record. -/
def execStopReportPost (rs : Slot) (s : State) : Host.Outcome State Fault Refusal :=
  let k := rs.key
  let r := s.role k
  match r.stop with
  | none => .next s
  | some i =>
    if !i.written || i.posted then .next s
    else
      let e := reportWord k r i
      let s := s.modRoleAt k (fun r => { r with stop := some { i with posted := true } })
      let s := if i.kind = 1 || i.kind = 4 then s.toSvc r.part.toNat (k / 4) e else s
      .next (if i.kind = 1 then s else { s with schedq := s.schedq ++ [e] })

/-- R360: the supervisor external interrupt of a service core is raised. -/
def Svc.interrupt (v : Svc) : Bool := v.queue != []
/-- STOP_QUEUE_READ: a read of the stop-queue address pops the oldest entry, or returns 0; one that waited for room enters. -/
def execStopQueueRead (n : Nat) (s : State) : Host.Outcome State Fault Refusal :=
  let v := s.svc n
  .next (if v.frozen then s else
    match v.queue with
    | [] => s.setSvc n { v with lastRead := 0 }
    | e :: t => s.setSvc n { v with lastRead := e, queue := t ++ v.waiting.take 1, waiting := v.waiting.drop 1 })

end Sys2Proof.Machine
end

