-- ==== Sys2Proof/Machine/Context.lean ====
section
/-! DEFINITION. Masters of the control registers (17 R361, 18 R385), RESTART (R362, R445 to R447), SWITCHOUT and RESTORE (R364
to R366), KILL, WINFREE and WINREADY (R361, R311). -/

namespace Sys2Proof.Machine

/-! ### Masters -/

/-- The partition that holds a service core. -/
def State.svcPart (s : State) (n : Nat) : Option Nat := (s.parts.find? (fun p => p.2.record.svcs.contains n)).map (·.1)
/-- A master acts: a service core belongs to a partition and is not frozen. -/
def awake (s : State) : Master → Bool
  | .sched | .monitor => true
  | .svc n => (s.svcPart n).isSome && !(s.svc n).frozen
/-- R385: a service core violates: it is logged and frozen, and its stop queue moves to the partition's next one. -/
def violate (s : State) (by_ : Master) (addr : Word) : State :=
  match by_ with
  | .svc n =>
    let s := s.logViol 1 n addr
    let v := s.svc n
    let s := s.setSvc n { v with frozen := true, queue := [], waiting := [] }
    match s.svcPart n with
    | none => s
    | some p =>
      match s.reporter p (32 * (n / 2)) with
      | some m => (v.queue ++ v.waiting).foldl (fun s e => s.postSvc m e) s
      | none => s
  | _ => s
/-- R361: a service core reaches the control blocks of its partition's slots: those that hold a role of the partition, and
FREE ones of its cores. -/
def reachesSlot (s : State) (by_ : Master) (k : Nat) : Bool :=
  match by_ with
  | .sched | .monitor => true
  | .svc n =>
    match s.svcPart n with
    | none => false
    | some p => if (s.role k).st == .free then (s.partOr p).record.cores.contains (k / 4) else (s.role k).part.toNat = p
def blkAddr (k : Nat) : Nat := 0xF0000000 + 64 * k
/-- A command ends with an ERR. -/
def setErr (s : State) (k e : Nat) : State := s.modRoleAt k (fun r => { r with err := e, busy := false })
/-- R361: a write of RCMD: a master that may not reach the block violates; a command written while BUSY is set is ignored. -/
def command (by_ : Master) (k : Nat) (s : State) (f : State → State) : State :=
  if !awake s by_ then s
  else if !reachesSlot s by_ k then violate s by_ (BitVec.ofNat 64 (blkAddr k))
  else if (s.role k).busy then s
  else f s

/-! ### The stop record as the kernel left it (R445, R446) -/

/-- The doubleword, and n bytes, at an offset of the record. -/
def recW (s : State) (b o : Nat) : Word := s.memWord (b + o)
def recB (s : State) (b o n : Nat) : Nat := memNat s (b + o) n

/-- A cluster as the record gives it, but for its loop record: PC, halted, loop stack. -/
def plainFrom (s : State) (b c : Nat) : Clu :=
  let pcw := recW s b (0x20 + 8 * c)
  { pc := pcw &&& ~~~1, halted := pcw.getLsbD 0, lrec := none,
    loops := (List.range (min (recB s b (0x50 + c) 1) 4)).map (fun i =>
      let o := 0x180 + 96 * c + 24 * i
      { start := recW s b o, stop := recW s b (o + 8), left := recW s b (o + 16) }) }
/-- R446: the part of a loop record that holds a PC, for iteration i; none where the rule refuses it. An iteration lies in I0 to I1
where there is one (log 24). -/
def partFor (l0 : LRec) (pc : Word) (it last : Nat) : Option LRec :=
  let at_ (p : LPart) : LRec := { l0 with part := p, it := it, last := last }
  if l0.it ≤ last && !(l0.it ≤ it && it ≤ last) then none
  else if l0.psize ≠ 0 && (at_ .prologue).inside pc then some (at_ .prologue)
  else if (at_ .kernel).inside pc then (if l0.it ≤ last then some (at_ .kernel) else none)
  else if l0.esize ≠ 0 && (at_ .epilogue).inside pc then some (at_ .epilogue)
  else none
/-- A cluster's state as the record gives it: PC, loops, and the loop record read again; none where R445 or R446 refuses. -/
def clusterFrom (s : State) (core : Nat) (r : Role) (b c : Nat) : Option (Clu × State) :=
  let x := plainFrom s b c
  let la := recW s b (0x300 + 32 * c)
  let ret := recW s b (0x60 + 8 * c)
  if x.pc.toNat % 8 ≠ 0 || 4 < recB s b (0x50 + c) 1 ||
     x.loops.any (fun e => e.start.toNat % 8 ≠ 0 || e.stop.toNat % 8 ≠ 0 || e.stop.toNat < e.start.toNat || e.left == 0) ||
     ret.toNat % 8 ≠ 0 || (la == 0 && ret != 0) then none
  else if la == 0 then some (x, s)
  else if la.toNat % 64 ≠ 0 || !canonical la then none
  else
    match readRec64 s core r la with
    | .error _ => none
    | .ok (ws, s') =>
      if !lrecOk ws then none
      else
        let l0 := lrecOf ws la ret (recW s b (0x318 + 32 * c)).toNat
        (partFor l0 x.pc (recW s b (0x308 + 32 * c)).toNat (recW s b (0x310 + 32 * c)).toNat).map (fun l => ({ x with lrec := some l }, s'))

/-- R258: stage predicates of the clusters' records must not meet. -/
def recsClash (cs : List Clu) : Bool :=
  let ls := cs.filterMap (·.lrec)
  (ls.zipIdx).any (fun x => (ls.zipIdx).any (fun y => x.2 < y.2 && x.1.pbase < y.1.pbase + y.1.stages && y.1.pbase < x.1.pbase + x.1.stages))
/-- R445: an entry that the restart takes. -/
def entryOk (s : State) (b i : Nat) : Bool :=
  let a := b + 0x800 + 64 * i
  let ctl := s.memWord (a + 16)
  let kind := bits ctl 5 2
  let cl := bits ctl 1 0
  kind ≠ 15 && (if 11 ≤ kind || kind = 3 || kind = 5 then cl = 3 else cl = 0 || cl = 3) &&
  bits ctl 12 10 < 6 && bits ctl 17 15 < 6 && bits ctl 31 30 = 0 && bits ctl 63 49 = 0 && s.memWord (a + 56) == 0

/-- The clusters of a role from its record, in order. -/
def clustersFrom (core : Nat) (r : Role) (b : Nat) : List Nat → State → Option (List Clu × State)
  | [], s => some ([], s)
  | c :: t, s =>
    match clusterFrom s core r b c with
    | none => none
    | some (x, s') =>
      match clustersFrom core r b t s' with
      | none => none
      | some (xs, s'') => some (x :: xs, s'')

/-- R445: the record as a whole: the clusters, where it is accepted. -/
def recordFrom (s : State) (k : Nat) (i : StopInfo) : Option (List Clu × State) :=
  let r := s.role k
  let b := recBase r
  let n := bits (recW s b 0) 31 23
  if 256 < n || i.entries.length < n || (recW s b 0x58).toNat % 32 ≠ 0 ||
     (List.range 16).any (fun x => (recW s b (0x88 + 16 * x)).toNat < (recW s b (0x80 + 16 * x)).toNat) ||
     !(List.range n).all (entryOk s b) then none
  else
    match clustersFrom (k / 4) r b [0, 1, 2, 3] s with
    | none => none
    | some (cs, s') => if recsClash cs then none else some (cs, s')

/-! ### RESTART (R362, R363, R447) -/

/-- Each queue that a request is to push into has an entry that waits for it. -/
def Role.awaited (r : Role) (cycle id : Nat) (ds : List Dest) : Role :=
  ds.foldl (fun r d => match d with
    | .q n => if (qList r.qs n).any (fun e => e.pend = some id) then r
              else r.setQ n (qList r.qs n ++ [{ at_ := cycle, val := 0, pend := some id }])
    | _ => r) r
/-- A dropped request: its destinations take 0, or false. -/
def dropZero (r : Role) (cycle id : Nat) : Role :=
  match r.acc? id with
  | some a => (r.awaited cycle id a.dests).complete a (toDests a.dests 0)
  | none => r
/-- A request whose entry is cut off: nothing is written, and nothing is pushed. -/
def dropWhole (r : Role) (id : Nat) : Role :=
  let r := r.dropAcc id
  { r with qs := (r.qs.map (fun q => (q.1, q.2.filter (fun e => e.pend ≠ some id)))).filter (fun q => q.2 ≠ []) }
def dropCopy (r : Role) (e : Nat × Nat) : Role := { r with copies := r.copies.filter (fun c => !(c.id = e.1 && c.mdest = e.2)) }
/-- A request is sent again, to be translated by a fresh walk (R377); a queue entry that it fills stands in its queue. -/
def sendAgain (r : Role) (gen : BitVec 16) (cycle id : Nat) : Role :=
  match r.acc? id with
  | none => r
  | some a =>
    (r.setAcc { a with stat := .pending, done := 0, data := (if a.isLoad then [] else a.data), cueerr := r.cueerr.toNat, gen := gen,
                       afresh := true, at_ := cycle, passed := 0 }).awaited cycle id a.dests
/-- R362: entry number j of the record. -/
def replayOne (s : State) (b cycle : Nat) (n : Nat) (r : Role) (je : Nat × (Nat × Nat)) : Role :=
  let (j, e) := je
  let skip := (s.memWord (b + 0x800 + 64 * j + 16)).getLsbD 48
  match r.acc? e.1 with
  | some a =>
    if n ≤ j then dropWhole r e.1
    else if skip || a.stat.codes.1 = tPOOL || a.stat.codes.1 = tWIN then dropZero r cycle e.1
    else sendAgain r (s.asid r.asid.toNat).gen cycle e.1
  | none => if n ≤ j || skip then dropCopy r e else r

/-- R198, R362: the nest record is issued again from its header; a fault in that stops the role at the record. -/
def nestAgain (s : State) (k : Nat) : State :=
  match (s.role k).nest with
  | none => s
  | some f =>
    match readAt s (k / 4) (s.role k) f.addr .fetch 64 with
    | .error (c, i1) => takeStop s k 1 c .m f.addr i1 none
    | .ok (_, s) =>
      let ws := codeWords s (k / 4) (s.role k).asid.toNat f.addr 8
      match headOf s .m f.addr (ws.headD 0) ws with
      | .trap s c i0 i1 => takeStop s k 1 c .m i0 i1 none
      | .instr s i =>
        let f' := { f with words := encode i }
        let chk : Iss Unit := if f'.op = 0 || 7 < f'.op then trapI tNEST (ws.headD 0) 0
          else if f'.isMma then (do mmaNestChk f'; mmaTileChk f') else rowChk f'
        match chk (asRole s k .m) with
        | .error (.trap c i0 i1) => takeStop s k 1 c .m i0 i1 none
        | _ => s.modRoleAt k (fun r => { r with nest := some f' })

/-- The role resumes from its record; a stop that its last bundle asked for besides the one recorded stops it again at once (R355). -/
def resume (s : State) (k : Nat) (i : StopInfo) (cs : List Clu) : State :=
  let r := s.role k
  let b := recBase r
  let n := bits (recW s b 0) 31 23
  let r := { r with
    cl := cs.getD 0 Clu.zero
    cm := cs.getD 1 Clu.zero
    cv := cs.getD 2 Clu.zero
    cw := cs.getD 3 Clu.zero
    strms := r.strms.map (fun t => (t.1, { t.2 with sp := t.2.c })) }
  let r := (i.entries.zipIdx.map (fun e => (e.2, e.1))).foldl (replayOne s b s.cycle n) r
  let r := { r with
    copies := r.copies.map (fun c => if c.fault.isSome || c.held then { c with fault := none, held := false, buf := none, afresh := true, at_ := s.cycle, passed := 0, kept := [] } else c)
    st := .running
    stop := none
    stopReq := none
    busy := false
    err := 0
    lastAct := s.cycle }
  let s := nestAgain (s.setRole k r) k
  let s := if r.entryPend = 0 || (s.role k).st != .running then s else loadEntries s k r.entryPend
  match i.later with
  | [] => s
  | (c, kind, code, i0, i1) :: t =>
    if (s.role k).st == .running then stopAlso (takeStop s k kind code c i0 i1 none) k t else stopAlso s k i.later

/-- A restart of a role whose record is written. -/
def restartRole (s : State) (k : Nat) : State :=
  let r := s.role k
  match r.stop with
  | none => setErr s k 1
  | some i =>
    if r.st != .stopped || !i.written then setErr s k 1
    else if r.frozen then setErr s k 2
    else if !saveOk s r.part.toNat r.save || memPoisoned s (recBase r) 0x5800 then setErr s k 5
    else
      match recordFrom s k i with
      | none => setErr s k 4
      | some (cs, s') => resume s' k i cs

/-- R437: while a condition holds a role that runs is hard-stopped, to be resumed as after pre-emption. -/
def hardStopped (s : State) (k : Nat) : State :=
  let r := s.role k
  (takeStop s k 4 tHARD r.front 0 0 none).modLaunch r.part.toNat r.lid.toNat (fun l => if l.st == .bound then { l with st := .stopping } else l)
/-- RESTART (R361, R362); a role that comes to run while a condition of R437 holds is hard-stopped again. -/
def execRestart (by_ : Master) (rs : Slot) (s : State) : Host.Outcome State Fault Refusal :=
  .next (command by_ rs.key s (fun s =>
    let t := restartRole s rs.key
    if t.emergency && (s.role rs.key).st != .running && (t.role rs.key).st == .running then hardStopped t rs.key else t))

/-! ### The register image (R364) -/

def padTo (n : Nat) (bs : List Byte) : List Byte := bs.take n ++ List.replicate (n - bs.length) 0
/-- The entries of a queue, oldest first; one that waits for a request stands as 0 (log 20). -/
def qVals (r : Role) (q : Nat) : List Row := (qList r.qs q).map (fun e => if e.pend.isSome then 0 else e.val)
def strmImage (t : Option Strm) : List Byte :=
  match t with
  | none => natLe 64 3
  | some t => ((List.range 7).flatMap (fun i => wordLe (t.w i))) ++ natLe 8 (if t.bind = 1 then t.h0 else 0)
def RSlot.code : RSlot → Nat
  | .free => 0 | .acquired => 1 | .published => 2 | .poisoned => 3
def ringImage (g : Option Ring) : List Byte :=
  match g with
  | none => natLe 64 0
  | some g =>
    padTo 64 (wordLe g.w0 ++ wordLe g.w1 ++ natLe 4 g.head.toNat ++ natLe 4 g.pub.toNat ++ natLe 4 g.tail.toNat ++
      natLe 16 ((g.slots.zipIdx.map (fun x => x.1.code * 4 ^ x.2)).foldl (· + ·) 0) ++
      natLe 4 (g.hi + g.pi * 2 ^ 8 + g.ti * 2 ^ 16))
def seqImage (q : Option SeqCur) : List Byte :=
  match q with
  | none => natLe 64 0
  | some q => padTo 64 (padTo 8 (q.trips.flatMap (natLe 2)) ++ natLe 1 q.perm ++ natLe 1 0 ++ natLe 2 q.grain ++ natLe 4 0 ++
      natLe 8 q.stop ++ natLe 8 q.cursor)
/-- Offsets and bytes of the image, in ascending order. -/
def imageOf (s : State) (k : Nat) : List (Nat × List Byte) :=
  let r := s.role k
  [(0, (List.range 128).flatMap (fun n => rowLe (r.v n))),
   (0x10000, (List.range 128).flatMap (fun n => natLe 64 (r.p n).toNat)),
   (0x12000, (List.range 8).flatMap (fun q => padTo 2048 ((qVals r (8 + q)).flatMap rowLe))),
   (0x16000, (List.range 8).flatMap (fun q => padTo 128 ((qVals r q).flatMap (fun v => wordLe (lowWord v))))),
   (0x16400, (List.range 32).flatMap (fun n => wordLe (r.x n))),
   (0x16500, (List.range 16).flatMap (fun q => natLe 1 (qVals r q).length)),
   (0x16600, (List.range 128).flatMap (fun n => wordLe (csrVal r n))),
   (0x16A00, (List.range 16).flatMap (fun n => strmImage (r.strm? n))),
   (0x16E00, (List.range 32).flatMap (fun n => ringImage (r.ring? n))),
   (0x17600, (List.range 8).flatMap (fun l => natLe 4 (mget 0 r.barA l) ++ natLe 4 (mget 0 r.barW l))),
   (0x17640, natLe 8 r.atomSeq ++ natLe 8 (match r.arrival with | some a => 128 + a | none => 0)),
   (0x17680, seqImage ((s.core (k / 4)).cursor? r.part.toNat r.lid.toNat))]

/-! ### SWITCHOUT (R365) -/

/-- The channels into and out of a role hold no vector. -/
def linksEmpty (s : State) (k : Nat) : Bool :=
  (List.range 4).all (fun d => (s.chan (srcChan k d)) = [] && (s.chan (sinkChan k d)) = [])
/-- R365, R447: no copy of the role can go on any more: what is left of them has faulted, waits for a request in the record, or is a
part of a multicast copy that has a part of these. -/
def copiesStill (s : State) (k : Nat) : Bool :=
  let r := s.role k
  r.copies.all (fun c => !copyReady s r c && (!c.finished || r.copies.any (fun d => d.id = c.id && !d.finished)))
/-- The places in the queues of entries that wait for a request: queue, place, request. -/
def holesOf (r : Role) : List (Nat × Nat × Nat) :=
  (List.range 16).flatMap (fun q => (qList r.qs q).zipIdx.filterMap (fun e => e.1.pend.map (fun id => (q, e.2, id))))
/-- The switched-out role, as the scheduler and the barriers of its launch go on to see it (R260, R311), and what RESTORE brings back
with it. -/
def swappedOf (k : Nat) (r : Role) (entries : List (Nat × Nat)) : Swapped :=
  { key := k, twBase := r.twBase, twSize := r.twSize, save := r.save, asid := r.asid, arrival := r.arrival, eid := r.eid,
    participant := r.participant, barA := r.barA, barW := r.barW, holds := r.holds, notice8 := false, winfree := false,
    notice9 := false, winready := false, acc := r.acc, copies := r.copies, entries := entries, holes := holesOf r,
    raised := (match r.nest with | some f => f.raised | none => []), owed := r.owed, drainSlot := r.drainSlot,
    later := (match r.stop with | some i => i.later | none => []) }
/-- R221: a launch's cursor leaves a core with the last of its roles: the save areas of those switched out there hold it. -/
def dropCursor (s : State) (core part lid : Nat) : State :=
  if (List.range 4).any (fun j => let r := s.role (4 * core + j)
      r.st != .free && r.part.toNat = part && r.lid.toNat = lid) then s
  else
    let img := seqImage ((s.core core).cursor? part lid)
    let out : List Swapped := match s.launch? part lid with | some l => l.swapped.filter (fun w => w.key / 4 = core) | none => []
    let s := out.foldl (fun s w => if saveOk s part w.save then s.memWrite (saveBase w.save + 0x17680) img else s) s
    s.setCore core { s.core core with cursors := (s.core core).cursors.filter (fun q => !q.isOf part lid) }

/-- R303, R310: a launch goes to the head of its priority queue. -/
def requeue (ls : List Launch) (l : Launch) : List Launch :=
  let rest := ls.filter (fun x => x.ordinal ≠ l.ordinal)
  let ahead (x : Launch) : Bool := !((x.st == .queued || x.st == .preempted) && recPrio x.rec_ = recPrio l.rec_)
  rest.takeWhile ahead ++ l :: rest.dropWhile ahead
/-- A role of a launch is RUNNING or STOPPED. -/
def launchActive (s : State) (part lid : Nat) : Bool :=
  s.roles.any (fun r => r.2.part.toNat = part && r.2.lid.toNat = lid && (r.2.st == .running || r.2.st == .stopped))
/-- R310, R311: once the roles of a launch that is being stopped have left their slots, it is pre-empted; one that had none left
to switch out goes on. -/
def preemptDone (s : State) (part lid : Nat) : State :=
  match s.launch? part lid with
  | none => s
  | some l =>
    if l.st != .stopping || launchActive s part lid then s
    else if l.swapped = [] then s.modLaunch part lid (fun l => { l with st := .bound, qstart := s.cycle })
    else s.setPart part { s.partOr part with launches := requeue (s.partOr part).launches { l with st := .preempted, since := s.cycle } }
/-- The scheduler has no more to do for a report of slot k. -/
def dropReports (s : State) (k : Nat) : State :=
  { s with schedq := s.schedq.filter (fun e => bits e 7 0 * 4 + bits e 9 8 ≠ k) }

/-- R447: entries that the record no longer counts are dropped. -/
def dropEntries (r : Role) (es : List (Nat × Nat)) : Role :=
  es.foldl (fun r e => if (r.acc? e.1).isSome then dropWhole r e.1 else dropCopy r e) r
/-- R365, R447: the role with what its record counts, its copies ended, and the entries of the record in memory after the faults of
copies that came after it was written. -/
def foldLate (s : State) (k : Nat) (i : StopInfo) : Role × List (Nat × Nat) × List (Nat × Nat) :=
  let r := s.role k
  let n := bits (recW s (recBase r) 0) 31 23
  let r := dropEntries r (i.entries.drop n)
  let r := { r with copies := (r.copies.filter (fun c => !c.finished)).map (fun c => if c.fault.isNone then { c with held := true } else c) }
  let old := i.entries.take n
  let late := (r.replays.filter (fun e => !old.contains e)).take (256 - old.length)
  (r, old, late)
/-- Entries are added to the record in memory: NREPLAY rises, and nothing else of it changes. -/
def addEntries (s : State) (r : Role) (old late : List (Nat × Nat)) : State :=
  if late = [] then s
  else
    let b := recBase r
    let cause := (recW s b 0).toNat % 2 ^ 23 + (old ++ late).length * 2 ^ 23
    (s.memWrite b (natLe 4 cause)).memWrite (b + 0x800 + 64 * old.length) (late.flatMap (entryBytes r late))
/-- Add the late faults to the record, write the image and free the slot; the kill path does not run. -/
def switchRole (s : State) (k : Nat) (i : StopInfo) : State :=
  let (r, old, late) := foldLate s k i
  let s := addEntries (s.setRole k r) r old late
  let s := (imageOf s k).foldl (fun s x => s.memWrite (saveBase r.save + x.1) x.2) s
  let s := s.modLaunch r.part.toNat r.lid.toNat (fun l =>
    { l with swapped := l.swapped.filter (fun w => w.key ≠ k) ++ [swappedOf k r (old ++ late)] })
  let s := clearSlot s k
  let s := dropCursor (s.modRoleAt k (fun r => { r with err := 0, busy := false })) (k / 4) r.part.toNat r.lid.toNat
  preemptDone (dropReports s k) r.part.toNat r.lid.toNat

/-- R311: the scheduler core switches a role out when the roles of its launch, which is pre-empted, have all stopped and their records
are written. -/
def mayLeave (s : State) (by_ : Master) (k : Nat) : Bool :=
  let r := s.role k
  by_ != .sched ||
  (match s.launch? r.part.toNat r.lid.toNat with
   | none => true
   | some l => l.st == .stopping && s.roles.all (fun x => !(x.2.part == r.part && x.2.lid == r.lid) ||
       (x.2.st != .running && (x.2.st != .stopped || x.2.stop.any (·.written)))))
/-- SWITCHOUT: allowed in STOPPED; BUSY while copies of the role still run, and then finished, whoever commanded it (R365). The scheduler
core commands it for a stopped role when that may leave. -/
def execSwitchout (by_ : Master) (rs : Slot) (s : State) : Host.Outcome State Fault Refusal :=
  let k := rs.key
  let go (s : State) : State :=
    let r := s.role k
    match r.stop with
    | none => setErr s k 1
    | some i =>
      if r.st != .stopped || !i.written then setErr s k 1
      else if r.frozen then setErr s k 2
      else if !linksEmpty s k then setErr s k 3
      else if !saveOk s r.part.toNat r.save then setErr s k 5
      else if !copiesStill s k then s.modRoleAt k (fun r => { r with busy := true })
      else switchRole s k i
  .next (if awake s by_ && reachesSlot s by_ k && (s.role k).busy then go s
    else if (s.role k).st == .stopped && !mayLeave s by_ k then s
    else command by_ k s go)

/-! ### RESTORE (R366) -/

/-- A request as an entry of a record holds it. -/
def accFrom (s : State) (k : Nat) (r : Role) (b i : Nat) : Access :=
  let a := b + 0x800 + 64 * i
  let ctl := s.memWord (a + 16)
  let kind := kindOfCode (bits ctl 5 2) (bits ctl 9 6)
  let d0 := s.memWord (a + 24)
  let d1 := s.memWord (a + 32)
  let d2 := s.memWord (a + 40)
  let sz := (decSize (BitVec.ofNat 3 (bits ctl 12 10))).getD .b8
  let elem := kind == .gather || kind == .scatter
  let tc := bits ctl 39 32
  let tile (o n : Nat) : List Byte := match tileRange r (s.arrBase (k / 4)) o n with
    | some p => s.tileRead (k / 4) p n
    | none => []
  let wide := ctl.getLsbD 26
  let data : List Byte :=
    if wide then s.memRead (b + 0x4800 + 512 * bits ctl 29 27) (if kind == .scatter then 512 else sz.bytes)
    else match kind with
      | .st => (wordLe d0).take sz.bytes
      | .cue 0 => tile d0.toNat 64
      | .win 0 => tile d1.toNat 64
      | .cue 1 => wordLe d0 ++ List.replicate 56 0
      | _ => []
  let dests := destOf (bits ctl 25 18) ++
    (match kind with | .pool 3 => [.x d1.toNat, .x (d1.toNat + 1), .x (d1.toNat + 2)] | _ => [])
  { Access.blank kind (if elem then d2 else s.memWord a) with
    id := i
    cl := (match bits ctl 1 0 with | 0 => .l | 1 => .m | 2 => .v | _ => .w)
    pc := s.memWord (a + 8)
    size := sz
    scope := (decScope (BitVec.ofNat 3 (bits ctl 17 15))).getD .role
    ord := decOrd (BitVec.ofNat 2 (bits ctl 14 13))
    dests := dests
    data := data
    v := if kind == .win 0 then d1 else d0
    c := d1
    len := d2
    listOff := if kind == .win 0 then 0 else d1
    gen := (s.asid r.asid.toNat).gen
    idx := if elem then (List.range (512 / sz.bytes)).map (fun j => BitVec.ofNat 32 (leNat (tile (d1.toNat + 4 * j) 4))) else []
    done := 0
    eid := r.eid
    wide := wide
    stat := if tc = 0 then .held else .faulted tc (s.memWord a) 0 (bits ctl 47 40) }
def copyFrom (s : State) (b i : Nat) (after : List Nat) : CopyJob :=
  let a := b + 0x800 + 64 * i
  let ctl := s.memWord (a + 16)
  let tc := bits ctl 39 32
  let d3 := (s.memWord (a + 48)).toNat
  { id := i, cl := (if bits ctl 1 0 = 0 then .l else .w), pc := s.memWord (a + 8), sparse := bits ctl 5 2 = 10,
    dst := s.memWord (a + 24), src := s.memWord (a + 32), len := s.memWord (a + 40),
    index := Config.copyIndex a s.cycle,
    acq := ctl.getLsbD 13, rel := ctl.getLsbD 14, scope := (decScope (BitVec.ofNat 3 (bits ctl 17 15))).getD .role,
    after := after, afterW := after, done := d3 % 2 ^ 56, buf := none, multi := d3 / 2 ^ 56 ≠ 0, mdest := d3 / 2 ^ 56,
    fault := if tc = 0 then none else some (tc, s.memWord a, 0), held := tc = 0, afresh := false, at_ := s.cycle, passed := 0, kept := [] }

/-- A source of zeros keeps a map canonical. -/
def listMap {α : Type} [DecidableEq α] (d : α) (l : List (Nat × α)) : SMap α := l.foldl (fun m x => mset d m x.1 x.2) []
def rslotOf (n : Nat) : RSlot := match n with | 0 => .free | 1 => .acquired | 2 => .published | _ => .poisoned
def ringFrom (s : State) (a : Nat) : Option Ring :=
  let w0 := s.memWord a
  let st := memNat s (a + 28) 16
  let n := bits w0 39 32
  if n = 0 then none
  else some { w0 := w0, w1 := s.memWord (a + 8), head := BitVec.ofNat 32 (memNat s (a + 16) 4), pub := BitVec.ofNat 32 (memNat s (a + 20) 4),
              tail := BitVec.ofNat 32 (memNat s (a + 24) 4), hi := memNat s (a + 44) 1, pi := memNat s (a + 45) 1, ti := memNat s (a + 46) 1,
              slots := (List.range n).map (fun i => rslotOf (st / 4 ^ i % 4)) }
def strmFrom (s : State) (a ca : Nat) : Option Strm :=
  let w0 := s.memWord a
  if bits w0 1 0 = 3 then none
  else some { words := (List.range 7).map (fun i => s.memWord (a + 8 * i)) ++ [0], h0 := memNat s (a + 56) 8, c := memNat s ca 8,
              sp := memNat s (ca + 8) 8 }
def queueFrom (s : State) (b q : Nat) : List QEnt :=
  (List.range (memNat s (b + 0x16500 + q) 1)).map (fun i =>
    { at_ := s.cycle, pend := none,
      val := if q < 8 then widen (s.memWord (b + 0x16000 + 128 * q + 8 * i))
             else leRow (s.memRead (b + 0x12000 + 2048 * (q - 8) + 512 * i) 512) })
/-- Entries of a queue, the newest first, of which zeros wait for requests: the newest for the newest (log 20). -/
def waitFor : List QEnt → List Nat → List QEnt
  | e :: es, i :: is => if e.val = 0 then { e with pend := some i } :: waitFor es is else e :: waitFor es (i :: is)
  | es, _ => es
/-- The queues of an image whose record holds requests that are to fill entries of them. -/
def queuesFor (qs : SMap (List QEnt)) (accs : List Access) : SMap (List QEnt) :=
  qs.map (fun q => (q.1, (waitFor q.2.reverse ((accs.filter (fun a => a.dests.contains (.q q.1))).map (·.id)).reverse).reverse))
def seqFrom (s : State) (b part lid : Nat) : SeqCur :=
  { part := part, lid := lid, trips := (List.range 4).map (fun i => memNat s (b + 0x17680 + 2 * i) 2), perm := memNat s (b + 0x17688) 1,
    grain := memNat s (b + 0x1768A) 2, stop := memNat s (b + 0x17690) 8, cursor := memNat s (b + 0x17698) 8 }

/-- The requests, copies and entries of a record whose role the scheduler did not keep, from its replay entries. -/
def replaysFrom (s : State) (k : Nat) (r : Role) (rb n : Nat) : List Access × List CopyJob × List (Nat × Nat) :=
  let isCopy (i : Nat) : Bool := let c := bits (s.memWord (rb + 0x800 + 64 * i + 16)) 5 2; c = 9 || c = 10
  let accs := ((List.range n).filter (fun i => !isCopy i)).map (accFrom s k r rb)
  let cps := ((List.range n).filter isCopy).map (fun i =>
    let c := copyFrom s rb i []
    let af := (accs.filter (fun a => a.id < i && a.cl == c.cl)).map (·.id)
    { c with after := af, afterW := af })
  (accs, cps, (List.range n).map (fun j => (j, if isCopy j then (copyFrom s rb j []).mdest else 0)))
/-- What came back with a role that the scheduler kept, beside its image: requests, copies, the queue entries that wait for them, the
flags of its nest record; entries that the record counts no more are dropped (R363, R447). -/
def withKept (r : Role) (w : Swapped) (n : Nat) : Role :=
  let r := { r with
    acc := w.acc
    copies := w.copies
    qs := w.holes.foldl (fun m h => mset [] m h.1 ((qList m h.1).zipIdx.map (fun e =>
      if e.2 = h.2.1 then { e.1 with pend := some h.2.2 } else e.1))) r.qs
    nest := r.nest.map (fun f => { f with raised := w.raised })
    owed := w.owed
    drainSlot := w.drainSlot
    nextId := (w.acc.map (·.id) ++ w.copies.map (·.id)).foldl max 0 + 1
    stop := r.stop.map (fun i => { i with entries := w.entries.take n, later := w.later }) }
  dropEntries r (w.entries.drop n)

/-- R366: the role that an image and its record describe, bound as the control block says and STOPPED. The image has no place
for the status word of the last record retired: MSTAT reads 0 after a RESTORE (DESIGN CHOICE, log 20). Reserved bits of the CSR image have
no effect (R6). An entry of HOLDS that is all zero holds nothing (DESIGN CHOICE, log 47). -/
def roleFrom (s : State) (k : Nat) (blk : CtlBlk) (sw : Option Swapped) (l : Option Launch) : Role :=
  let b := saveBase blk.save
  let rb := b + 0x18000
  let csr (n : Nat) : Word := s.memWord (b + 0x16600 + 8 * n)
  let cause := recW s rb 0
  let n := bits cause 31 23
  let arr := memNat s (b + 0x17648) 1
  let rec0 := match l with | some x => x.rec_ | none => []
  let stopCl : Cluster := match bits cause 17 16 with | 0 => .l | 1 => .m | 2 => .v | _ => .w
  let info : StopInfo := { kind := bits cause 3 0, code := bits cause 15 8, cl := stopCl, i0 := recW s rb 8, i1 := recW s rb 0x10, acc := none, written := true, posted := true, entries := [],
                           at_ := s.cycle, later := [] }
  let r : Role := { Role.reset with
    st := .stopped
    blk := blk
    part := blk.part
    asid := blk.asid
    lid := blk.lid
    twBase := blk.twBase
    twSize := blk.twSize
    save := blk.save
    hwStart := (recHw rec0).1
    hwLen := (recHw rec0).2
    recAddr := (match l with | some x => x.recAddr | none => 0)
    det := (csr 0).getLsbD 3
    ncores := (match l with | some x => x.count | none => 0)
    participant := (match sw with | some x => x.participant | none => false)
    arrival := if 128 ≤ arr then some (arr % 16) else none
    arrStart := (csr 0).getLsbD 2
    xs := listMap 0 ((List.range 32).map (fun i => (i, s.memWord (b + 0x16400 + 8 * i))))
    ps := listMap 0 ((List.range 127).map (fun i => (i + 1, BitVec.ofNat 512 (memNat s (b + 0x10040 + 64 * i) 64))))
    vs := listMap 0 ((List.range 128).map (fun i => (i, leRow (s.memRead (b + 512 * i) 512))))
    qs := listMap [] ((List.range 16).map (fun q => (q, queueFrom s b q)))
    strms := (List.range 16).foldl (fun m i => match strmFrom s (b + 0x16A00 + 64 * i) (rb + 0x80 + 16 * i) with
      | some t => mput m i t
      | none => m) []
    rings := (List.range 32).foldl (fun m i => match ringFrom s (b + 0x16E00 + 64 * i) with
      | some g => mput m i g
      | none => m) []
    flags := (csr 1).setWidth 6
    flagen := (csr 2).setWidth 6
    ffrec := csr 3 &&& 0xFFFFFF03FF
    wdlimit := (csr 4).setWidth 32
    eid := (csr 5).setWidth 32
    cueerr := (csr 6).setWidth 7
    cuewd := (csr 7).setWidth 32
    rank := (csr 9).setWidth 32
    levels := listMap 0 ((List.range 8).map (fun i => (i, csr (16 + i) &&& 0x7FFFFFFFFFFFFFF)))
    lastcode := (csr 0).extractLsb' 8 8
    nest := if recW s rb 0x40 = 0 then none
      else some { addr := recW s rb 0x40, words := [], step := recB s rb 0x48 4, raised := [] }
    holds := ((List.range 16).map (fun i => (recW s rb (0x380 + 16 * i), recW s rb (0x388 + 16 * i)))).filterMap (fun h =>
      if h.1 = 0 && h.2 = 0 then none else some { pool := h.1, slot := bits h.2 7 0, pin := h.2.getLsbD 8 })
    barA := listMap 0 ((List.range 8).map (fun i => (i, memNat s (b + 0x17600 + 8 * i) 4)))
    barW := listMap 0 ((List.range 8).map (fun i => (i, memNat s (b + 0x17604 + 8 * i) 4)))
    atomSeq := memNat s (b + 0x17640) 8
    nextId := n
    lastAct := s.cycle
    stop := some info
    entryPend := recW s rb 0x58 }
  let clu (c : Nat) : Clu := match clusterFrom s (k / 4) r rb c with | some (x, _) => x | none => plainFrom s rb c
  let r := { r with cl := clu 0, cm := clu 1, cv := clu 2, cw := clu 3 }
  match sw with
  | some w => withKept r w n
  | none =>
    let (accs, cps, ents) := replaysFrom s k r rb n
    { r with acc := accs, copies := cps, qs := queuesFor r.qs accs, stop := r.stop.map (fun i => { i with entries := ents }) }

/-- R378: an address space is a partition's. -/
def ownsAsid (s : State) (pn : Nat) (a : BitVec 16) : Bool := (s.asid a.toNat).valid && (s.asid a.toNat).part.toNat = pn
/-- Bind a saved role STOPPED in its slot; one of an address space that is not its partition's is refused (R378; log 35). -/
def restoreRole (s : State) (k : Nat) : State :=
  let blk := (s.role k).blk
  let pn := blk.part.toNat
  let b := saveBase blk.save
  let l := s.launch? pn blk.lid.toNat
  let sw := l.bind (fun l => l.swapped.find? (fun w => w.key = k))
  if (s.role k).st != .free then setErr s k 1
  else if !ownsAsid s pn blk.asid then setErr s k 4
  else if !saveOk s pn blk.save || memPoisoned s b 0x1D800 then setErr s k 5
  else
    let s := s.setRole k (roleFrom s k blk sw l)
    let s := takeUnits s (unitsOf (k / 4) blk.twBase.toNat blk.twSize.toNat) blk.asid.toNat false
    let s := s.modLaunch pn blk.lid.toNat (fun l => { l with swapped := l.swapped.filter (fun w => w.key ≠ k) })
    let c := s.core (k / 4)
    let s := if (c.cursor? pn blk.lid.toNat).isSome then s
      else s.setCore (k / 4) (c.setCursor (seqFrom s b pn blk.lid.toNat))
    beginSpan s pn k

/-- RESTORE: allowed in FREE; a service core restores a role of its own partition, and of one of its address spaces, only. -/
def execRestore (by_ : Master) (rs : Slot) (s : State) : Host.Outcome State Fault Refusal :=
  let k := rs.key
  .next (command by_ k s (fun s =>
    match by_ with
    | .svc n => if (s.svcPart n) = some (s.role k).blk.part.toNat && ownsAsid s (s.role k).blk.part.toNat (s.role k).blk.asid then restoreRole s k
                else violate s by_ (BitVec.ofNat 64 (blkAddr k))
    | _ => restoreRole s k))

/-! ### KILL, WINFREE, WINREADY (R361) -/

/-- KILL (R395): the role's line is raised, as its retirement would raise it. -/
def execKill (by_ : Master) (rs : Slot) (s : State) : Host.Outcome State Fault Refusal :=
  let k := rs.key
  .next (if awake s by_ && reachesSlot s by_ k && (s.role k).busy then s
    else command by_ k s (fun s => if (s.role k).st == .free then setErr s k 1 else setErr (freeRole (raiseLine s k) k 1) k 0))

/-- The report of a window saved (or restored) by the kernel, for a slot that notice 8 (or 9) named. -/
def windowReport (by_ : Master) (k : Nat) (named : Swapped → Bool) (f : Swapped → Swapped) (s : State) : State :=
  match by_ with
  | .svc n =>
    let pn := (s.svcPart n).getD 256
    let hit (l : Launch) : Bool := l.word.isNone && l.swapped.any (fun w => w.key = k && named w)
    if (s.role k).st != .free || !(s.partOr pn).launches.any hit then setErr s k 1
    else
      setErr (s.setPart pn { s.partOr pn with launches := (s.partOr pn).launches.map (fun l =>
        if hit l then { l with swapped := l.swapped.map (fun w => if w.key = k && named w then f w else w) } else l) }) k 0
  | _ => setErr s k 1
def execWinfree (by_ : Master) (rs : Slot) (s : State) : Host.Outcome State Fault Refusal :=
  .next (command by_ rs.key s
    (windowReport by_ rs.key (fun w => w.notice8 && !w.winfree) (fun w => { w with winfree := true })))
/-- WINREADY: the window is back, and is the role's again until the space is asked for anew. -/
def execWinready (by_ : Master) (rs : Slot) (s : State) : Host.Outcome State Fault Refusal :=
  .next (command by_ rs.key s
    (windowReport by_ rs.key (fun w => w.notice9 && !w.winready) (fun w => { w with winready := true, winfree := false, notice8 := false, notice9 := false })))

end Sys2Proof.Machine
end

