-- ==== Sys2Proof/Machine/Keccak.lean ====
section
/-! DEFINITION. SHAKE256 with 256 bits of output (09_kernel_state R225, 23_upkeep R439, R441): the sponge over Keccak-f[1600]
of FIPS 202, the standard that these rules name. Offsets and round constants are computed from the standard's own
definitions of them, not listed. -/

namespace Sys2Proof.Machine

/-- The 25 words of a Keccak state, the one of column x and plane y at 5y + x. -/
abbrev Lanes := List Word

def laneAt (a : Lanes) (x y : Nat) : Word := a.getD (5 * (y % 5) + x % 5) 0
/-- The state whose word of column x and plane y is f x y. -/
def lanesOf (f : Nat → Nat → Word) : Lanes := (List.range 5).flatMap (fun y => (List.range 5).map (fun x => f x y))

/-- The walk that sets the rotation offsets: from (1, 0), each place (x, y) is followed by (y, 2x + 3y); place number t turns
by (t + 1)(t + 2)/2. -/
def offsetWalk : Nat → Nat → Nat → Nat → List ((Nat × Nat) × Nat)
  | 0, _, _, _ => []
  | n + 1, t, x, y => ((x, y), (t + 1) * (t + 2) / 2 % 64) :: offsetWalk n (t + 1) y ((2 * x + 3 * y) % 5)
def offset (x y : Nat) : Nat := (((offsetWalk 24 0 1 0).find? (fun p => p.1 = (x, y))).map (·.2)).getD 0

/-- One step of the eight-bit register that gives the round constants: shifted up, with the bits of 0x71 turned over when a
one leaves it. -/
def rcStep (r : Nat) : Nat := if r < 128 then 2 * r else (2 * r % 256) ^^^ 0x71
/-- The register after t steps. -/
def rcAt : Nat → Nat
  | 0 => 1
  | t + 1 => rcStep (rcAt t)
/-- The constant of a round: its bit 2^j - 1 is the low bit of the register after j + 7·round steps, for j from 0 to 6. -/
def roundWord (round : Nat) : Word :=
  (List.range 7).foldl (fun w j => if rcAt (j + 7 * round) % 2 = 1 then w ||| (1 <<< (2 ^ j - 1)) else w) 0

def colParity (a : Lanes) (x : Nat) : Word := (List.range 5).foldl (fun w y => w ^^^ laneAt a x y) 0
/-- What theta adds to every word of a column: the parity of the column before it, and that of the one after it turned by
one. -/
def colMix (a : Lanes) (x : Nat) : Word := colParity a (x + 4) ^^^ (colParity a (x + 1)).rotateLeft 1
/-- The word that theta, rho and pi bring to (x, y): that of column x + 3y and plane x. -/
def moved (a : Lanes) (x y : Nat) : Word :=
  let u := (x + 3 * y) % 5
  (laneAt a u x ^^^ colMix a u).rotateLeft (offset u (x % 5))
/-- One round: chi over the moved words, iota at (0, 0). -/
def keccakRound (a : Lanes) (round : Nat) : Lanes :=
  let b := lanesOf (moved a)
  lanesOf (fun x y => (laneAt b x y ^^^ (laneAt b (x + 2) y &&& ~~~ laneAt b (x + 1) y)) ^^^
    if x = 0 ∧ y = 0 then roundWord round else 0)
def keccakF (a : Lanes) : Lanes := (List.range 24).foldl keccakRound a

/-- Absorb one block of 136 bytes. -/
def absorb (a : Lanes) (blk : List Byte) : Lanes :=
  keccakF (lanesOf (fun x y => laneAt a x y ^^^ leWord ((blk.drop (8 * (5 * y + x))).take 8)))
/-- The message with its padding: the bits 1111 of SHAKE, then 10*1, to a multiple of 136 bytes. -/
def shakePad (m : List Byte) : List Byte :=
  let q := 136 - m.length % 136
  if q = 1 then m ++ [0x9F] else m ++ [0x1F] ++ List.replicate (q - 2) 0 ++ [0x80]
def absorbAll : Nat → List Byte → Lanes → Lanes
  | 0, _, a => a
  | n + 1, m, a => absorbAll n (m.drop 136) (absorb a (m.take 136))
/-- SHAKE256-256: 32 bytes. -/
def shake256 (m : List Byte) : List Byte :=
  let p := shakePad m
  let a := absorbAll (p.length / 136) p (List.replicate 25 0)
  (List.range 4).flatMap (fun i => wordLe (laneAt a i 0))

end Sys2Proof.Machine
end

