-- ==== Sys2Proof/Machine/Sched.lean ====
section
/-! DEFINITION. The scheduler core: where roles and windows are placed (14_launches R303), bind requests (R305), spawns (R264),
priority and fair share (R306), pre-emption (R307 to R312), completion and kills (R313 to R315). -/

namespace Sys2Proof.Machine

/-! ### The queues (R303, R306) -/

def Launch.waits (l : Launch) : Bool := l.st == .queued || l.st == .preempted
/-- The launch of a partition that may be bound next: the first of the highest priority that waits. -/
def Part.next? (p : Part) : Option Launch :=
  (p.launches.filter (·.waits)).foldl (fun b l => match b with
    | .none => some l
    | some x => if recPrio x.rec_ < recPrio l.rec_ then some l else some x) .none
def Launch.shares (a b : Launch) : Bool := a.first < b.first + b.count && b.first < a.first + a.count

/-- R306: cycles that a partition's roles have occupied slots within the 100 ms before a moment. -/
def chargeOf (s : State) (part at_ : Nat) : Nat :=
  let lo := at_ - usCycles 100000
  ((s.spans.filter (fun x => x.part = part)).map (fun x =>
    min at_ (match x.stop with | some t => t | none => at_) - max lo x.start)).sum
/-- R306, R307: the charge of partition q over its weight is smaller than that of p. -/
def favoured (s : State) (q p at_ : Nat) : Bool :=
  chargeOf s q at_ * (s.partOr p).record.weight < chargeOf s p at_ * (s.partOr q).record.weight

/-- The scheduler may bind launch l of partition pn: it is next in its partition, whose kernel image was accepted (R379) and which still
has its cores (R378), no condition of R437 holds, the part has come up (R18), and no waiting partition that is favoured contends for its cores. -/
def mayBind (s : State) (pn : Nat) (l : Launch) : Bool :=
  s.up && !s.emergency && (s.partOr pn).record.imageOk &&
  (List.range l.count).all (fun i => (s.partOr pn).record.cores.contains (l.first + i)) && ((s.partOr pn).next?).map (·.ordinal) = some l.ordinal &&
  s.parts.all (fun q => q.1 = pn || !q.2.record.imageOk ||
    (match q.2.next? with
     | some m => !(m.shares l && favoured s q.1 pn s.cycle)
     | .none => true))
/-- R307: a launch waits for a core of those asked for, of higher priority than l in the partition or of a favoured partition, judged at
a moment. -/
def contendedOn (s : State) (pn : Nat) (l : Launch) (cores : Nat → Bool) (at_ : Nat) : Bool :=
  s.parts.any (fun q => q.2.record.imageOk && q.2.launches.any (fun m => m.waits && m.since ≤ at_ &&
    (List.range m.count).any (fun i => cores (m.first + i)) &&
    (if q.1 = pn then recPrio l.rec_ < recPrio m.rec_ else favoured s q.1 pn at_)))
/-- For any of the launch's cores, now. -/
def contended (s : State) (pn : Nat) (l : Launch) (at_ : Nat) : Bool :=
  contendedOn s pn l (fun c => l.first ≤ c && c < l.first + l.count) at_

/-! ### Slots and windows (R303, R311) -/

/-- Window space of a core that a swapped-out role keeps: its first and last-plus-one offset, its launch's partition and
priority, its slot, and whether its kernel has saved it (WINFREE) and has not been asked to restore it. -/
structure Kept where
  lo : Nat
  hi : Nat
  part : Nat
  prio : Nat
  lid : BitVec 32
  key : Nat
  saved : Bool
  asked : Bool
  deriving DecidableEq, Repr

def keptOf (s : State) (core : Nat) : List Kept :=
  s.parts.flatMap (fun p => (p.2.launches.filter (fun l => l.word.isNone)).flatMap (fun l =>
    (l.swapped.filter (fun w => w.key / 4 = core)).map (fun w =>
      { lo := w.twBase.toNat, hi := w.twBase.toNat + w.twSize.toNat, part := p.1, prio := recPrio l.rec_, lid := l.id, key := w.key,
        saved := w.winfree && !w.notice9, asked := w.notice8 })))
/-- A swapped-out role that a role of partition pn and priority pr may not displace (R311). -/
def Kept.stays (w : Kept) (pn pr : Nat) : Bool := w.part = pn && pr ≤ w.prio

/-- The arrival area and the windows bound on a core. -/
def boundSpace (s : State) (core : Nat) : List (Nat × Nat) :=
  let a := (s.core core).arrBase.toNat
  (a, a + 65536) :: ((List.range 4).map (fun j => s.role (4 * core + j))).filterMap (fun r =>
    if r.st == .free then .none else some (r.twBase.toNat, r.twBase.toNat + r.twSize.toNat))
/-- The lowest multiple of 64 KiB at which a window fits. -/
def fitAt (busy : List (Nat × Nat)) (size : Nat) : Option Nat :=
  ((List.range 64).map (· * 65536)).find? (fun o => o + size ≤ 4 * 2 ^ 20 && busy.all (fun b => o + size ≤ b.1 || b.2 ≤ o))
/-- n windows, one after another, each at its lowest offset. -/
def fitMany (busy : List (Nat × Nat)) (size : Nat) : Nat → Option (List Nat)
  | 0 => some []
  | n + 1 =>
    match fitAt busy size with
    | .none => .none
    | some o => (fitMany ((o, o + size) :: busy) size n).map (o :: ·)
/-- Slots of a core that a role of partition pn and priority pr may take. -/
def freeSlots (s : State) (core pn pr : Nat) : List Nat :=
  let ks := (keptOf s core).filter (fun w => w.stays pn pr)
  ((List.range 4).map (4 * core + ·)).filter (fun k => (s.role k).st == .free && ks.all (fun w => w.key ≠ k))

/-- What placing n roles of a size on a core comes to: a plan of slots and offsets; roles whose kept space is asked for first
(R311, notice 8); or nothing. -/
inductive Plan where
  | place (ps : List (Nat × Nat))
  | ask (ws : List Kept)
  | no
  deriving DecidableEq, Repr

def planCore (s : State) (core pn pr n size : Nat) : Plan :=
  let ss := freeSlots s core pn pr
  let ks := keptOf s core
  let busy (f : Kept → Bool) : List (Nat × Nat) := boundSpace s core ++ (ks.filter f).map (fun w => (w.lo, w.hi))
  if ss.length < n || !(s.partOr pn).record.cores.contains core then .no
  else
    match fitMany (busy (fun w => !w.saved || w.stays pn pr)) size n with
    | some os => .place (ss.zip os)
    | .none =>
      match fitMany (busy (fun w => w.stays pn pr)) size n with
      | some os => .ask (ks.filter (fun w => !w.saved && !w.stays pn pr && os.any (fun o => o < w.hi && w.lo < o + size)))
      | .none => .no

/-- Post notice 8 for the swapped-out roles whose space is asked for, once each. -/
def askFor (s : State) (ws : List Kept) : State :=
  (ws.filter (fun w => !w.asked)).foldl (fun s w =>
    (s.modLaunch w.part w.lid.toNat (fun l => { l with swapped := l.swapped.map (fun x =>
      if x.key = w.key then { x with notice8 := true } else x) })).notice w.part (w.key / 4) 8
        (w.key / 4 + w.key % 4 * 2 ^ 8) w.lid.toNat) s

/-- The save areas that the role of a slot may have: in the partition's HBM units, clear of those of other slots and of the roles that
have been switched out of this one (log 20). -/
def areasFor (s : State) (pn k : Nat) : List Word :=
  let p := s.partOr pn
  let kept : List Word := p.launches.flatMap (fun l => (l.swapped.filter (fun w => w.key = k)).map (·.save))
  (p.record.hbm.flatMap (fun u => (List.range 8).map (fun j => BitVec.ofNat 64 (u * 2 ^ 30 + j * 2 ^ 27 + k * 2 ^ 17)))).filter
    (fun a => !kept.contains a)
/-- The one that the scheduler takes. -/
def areaOf (s : State) (pn k : Nat) : Word :=
  let as_ := areasFor s pn k
  as_.getD (Config.saveArea pn k % as_.length) 0
/-- The bind record of a role of a launch. -/
def recordOf (s : State) (pn : Nat) (l : Launch) (k off : Nat) (run : Bool) (arg : Word) : BindRec :=
  let e (i : Nat) : Word := if run then recEntry l.rec_ i else 0
  { part := BitVec.ofNat 8 pn, asid := l.asid, lid := l.id, entL := e 0, entM := e 1, entV := e 2, entW := e 3,
    hwStart := (recHw l.rec_).1, hwLen := (recHw l.rec_).2, twBase := BitVec.ofNat 32 off,
    twSize := BitVec.ofNat 32 (recTwin l.rec_), save := areaOf s pn k, arg := arg, recAddr := l.recAddr }

/-! ### Bind requests (R305) -/

/-- The bound launches of a partition whose handler window covers an address. -/
def covering (p : Part) (asid : BitVec 16) (h : Word) : List Launch :=
  p.launches.filter (fun l => (l.st == .bound || l.st == .stopping) && l.word.isNone && l.asid == asid &&
    (recHw l.rec_).1.toNat ≤ h.toNat && h.toNat < (recHw l.rec_).1.toNat + (recHw l.rec_).2.toNat)
/-- The one with the lowest id. -/
def coverer (p : Part) (asid : BitVec 16) (h : Word) : Option Launch :=
  (covering p asid h).foldl (fun b l => match b with
    | .none => some l
    | some x => if l.id.toNat < x.id.toNat then some l else some x) .none
/-- The launch has a role on a core, in its slot or switched out. -/
def hasRoleOn (s : State) (pn : Nat) (l : Launch) (core : Nat) : Bool :=
  (List.range 4).any (fun j => let r := s.role (4 * core + j)
    r.st != .free && r.part.toNat = pn && r.lid == l.id) || l.swapped.any (fun w => w.key / 4 = core)

/-- The role that a bind request asks for: the partition and the launch, or none where it is dropped or nothing is to be done. -/
inductive Ask where
  | bind (pn : Nat) (l : Launch)
  | drop (pn : Nat) (lid : Nat)
  | nothing
  deriving DecidableEq, Repr

/-- R74, R305: what the scheduler does for the arrival at the head of a core's queue, in a cycle after the one in which it entered (R73). -/
def askOf (s : State) (core : Nat) : Ask :=
  match (s.core core).arrq with
  | [] => .nothing
  | e :: _ =>
    if s.cycle ≤ e.at_ || (qualifying s core e.arr.asid e.arr.handler).isSome then .nothing
    else
      let pn := (s.asid e.arr.asid.toNat).part.toNat
      match coverer (s.partOr pn) e.arr.asid e.arr.handler with
      | some l => if hasRoleOn s pn l core then .nothing else .bind pn l
      | .none =>
        let past := (s.partOr pn).launches.filter (fun l => l.word.isSome && l.asid == e.arr.asid &&
          (recHw l.rec_).1.toNat ≤ e.arr.handler.toNat && e.arr.handler.toNat < (recHw l.rec_).1.toNat + (recHw l.rec_).2.toNat)
        .drop pn (match past.getLast? with | some l => l.id.toNat | .none => 0)

/-- A role is added to a bound launch: one line, no participant of its levels (R260, R264, R305). -/
def addRole (s : State) (pn : Nat) (l : Launch) (k off : Nat) (run : Bool) (arg : Word) : State :=
  let line : Line := { key := k, participant := false, raised := false }
  let s := s.modLaunch pn l.id.toNat (fun l => { l with lines := l.lines.filter (fun x => x.key ≠ k || x.participant || !x.raised) ++ [line] })
  let b := recordOf s pn l k off run arg
  let s := bindSlot s k (if run then { b with entL := 0, entM := 0, entV := 0, entW := 0 } else b) run
  s.modRoleAt k (fun r => { r with participant := false })

/-- BIND_REQUEST (R305): a DORMANT role is bound for the arrival at the head of the core's queue, once there is room; or the
arrival is dropped with notice 2. -/
def execBindRequest (core : BitVec 8) (s : State) : Host.Outcome State Fault Refusal :=
  let c := core.toNat
  .next (match askOf s c with
    | .nothing => s
    | .drop pn lid =>
      match (s.core c).arrq with
      | [] => s
      | e :: t => ((s.setCore c { s.core c with arrq := t }).freeAreaOf c (some e.area)).notice pn c 2 c lid
    | .bind pn l =>
      if s.emergency || !s.up then s
      else
        match planCore s c pn (recPrio l.rec_) 1 (recTwin l.rec_) with
        | .place ((k, o) :: _) => addRole s pn l k o false 0
        | .ask ws => askFor s ws
        | _ => s)

/-! ### Spawns (R264) -/

/-- A spawn whose earlier requests have been performed, the first for its core, of a launch that is bound; or of one that is
over. One for a peer leaves over the port that R388 gives. -/
def spawnReady (s : State) (pn : Nat) (q : List SpawnReq) (i : Nat) : Bool :=
  match q[i]? with
  | .none => false
  | some x =>
    (q.take i).all (fun y => y.core ≠ x.core || y.peer ≠ x.peer) &&
    !(s.role x.key).acc.any (fun a => x.after.contains a.id && a.stat.unperformed) &&
    (match s.launch? pn x.lid.toNat, x.peer with
     | .none, _ => true
     | some _, some rank => (leavesTo s pn x.lid rank x.core).isSome
     | some l, .none => l.st == .bound && !s.emergency && s.up &&
       (match planCore s x.core pn (recPrio l.rec_) 1 (recTwin l.rec_) with | .no => false | _ => true))

/-- SPAWN_BIND: the first waiting spawn that can be is bound RUNNING, its entries from the handler block (R72). -/
def execSpawnBind (pn : Nat) (s : State) : Host.Outcome State Fault Refusal :=
  let q := (s.partOr pn).spawns
  .next (match (List.range q.length).find? (spawnReady s pn q) with
    | .none => s
    | some i =>
      match q[i]? with
      | .none => s
      | some x =>
        let rest (s : State) : State := s.setPart pn { s.partOr pn with spawns := q.eraseIdx i }
        let s' := rest s
        match s.launch? pn x.lid.toNat, x.peer with
        | .none, _ => s'
        | some _, some rank => (match leavesTo s pn x.lid rank x.core with | some s1 => rest s1 | .none => s)
        | some l, .none =>
          match planCore s x.core pn (recPrio l.rec_) 1 (recTwin l.rec_) with
          | .place ((k, o) :: _) =>
            let s' := (addRole s' pn l k o true x.arg).modRoleAt k (fun r => r.setX 3 x.sender)
            loadEntries s' k x.handler
          | .ask ws => askFor s ws
          | _ => s)

/-! ### Memory as the control die reaches it for a launch (R226, R314, R374, R388, R389) -/

/-- R429: a control-die core takes an access fault: cause 5 for a load, 7 for a store or an atomic, 1 for a fetch. -/
def Svc.faulted (v : Svc) (mode : SvcMode) (cause pa : Nat) : Svc :=
  { v with cause := cause, tval := BitVec.ofNat 64 pa, epc := v.pc, pc := v.tvec, mode := mode }
/-- Whose accesses these are: the launch's partition, address space and process group. -/
def dieRole (pn : Nat) (l : Launch) : Role :=
  { Role.reset with part := BitVec.ofNat 8 pn, asid := l.asid, lid := l.id, rank := BitVec.ofNat 32 (l.rank + l.groups * 2 ^ 16) }
/-- A page that they may reach: no multicast page, no host, no peer outside the group. -/
def dieMay (r : Role) (x : Xlat) : Bool := x.attr ≠ 3 && paRegion x.pa ≠ 4 && inGroup r x.pa
/-- Bytes that fit in one line are written at a virtual address, where a store of the launch would write them: the state, or none. -/
def dieWrite (s : State) (pn : Nat) (l : Launch) (va : Word) (bs : List Byte) : Option State :=
  let r := dieRole pn l
  match translate s dieCore l.asid.toNat va .wr with
  | .error _ => none
  | .ok x => if !dieMay r x || writeFault s x || !linkUp s r x.pa then none else some (x.st.memWrite x.pa bs)

/-! ### Completion words (R314) -/

/-- A launch is over: its completion word is written, in its address space and for LWAIT. It reaches no host (R389). -/
def endLaunch (s : State) (pn lid status : Nat) : State :=
  match s.launch? pn lid with
  | .none => s
  | some l =>
    let w : Word := BitVec.ofNat 64 (lid * 2 ^ 32 + status * 2 ^ 4 + 1)
    let d := recDone l.rec_
    let s := if !canonical d then s else (dieWrite s pn l d (wordLe w)).getD s
    let s := s.modLaunch pn lid (fun l => { l with st := .done, word := some w, swapped := [] })
    { s with
      cores := s.cores.map (fun c => (c.1, { c.2 with cursors := c.2.cursors.filter (fun q => !q.isOf pn lid) }))
      bars := s.bars.filter (fun b => !(b.part = pn && b.lid = lid))
      contribs := s.contribs.filter (fun c => !(c.part = pn && c.lid = lid)) }

/-! ### Binding a launch (R299 to R304) -/

/-- Read n bytes at a virtual address for a launch, page by page; only bytes at offsets that count are kept. It is an error where a load of
the launch would fault, or would find a cue cell that is not VALUE (R226, R336; log 34): the first poisoned byte that counts, or none
where the error is another one (R429). -/
def readVa (s : State) (r : Role) (va : Word) (counts : Nat → Bool) (off : Nat) : Nat → Nat → Except (Option Nat) (List Byte × State)
  | 0, _ => .ok ([], s)
  | _ + 1, 0 => .ok ([], s)
  | fuel + 1, n =>
    let a := va + BitVec.ofNat 64 off
    let m := min n (65536 - a.toNat % 65536)
    if !canonical a then .error none
    else
      match translate s dieCore r.asid.toNat a .rd with
      | .error _ => .error none
      | .ok x =>
        let ps := ((List.range m).filter (fun i => counts (off + i))).map (x.pa + ·)
        if !dieMay r x || (1 < paRegion x.pa && !ps.all (linkUp s r)) || (x.attr = 2 && ps.any (fun p => s.tag p ≠ tagVALUE)) then .error none
        else
          match ps.find? (fun p => x.st.poison.contains (p / 64)) with
          | some p => .error (some p)
          | none =>
            match readVa x.st r va counts (off + m) fuel (n - m) with
            | .error e => .error e
            | .ok (bs, s') => .ok (ps.map (readByte x.st.mem) ++ bs, s')
def readAll (s : State) (r : Role) (va : Word) (n : Nat) : Except (Option Nat) (List Byte × State) :=
  readVa s r va (fun _ => true) 0 (n / 65536 + 2) n

/-- R439: the device number. -/
def deviceNumber : Nat := leNat ((shake256 Config.publicKey).take 8)
/-- R301: the neighbours of a rank in a group of n devices. -/
def neighbourRanks (rank n : Nat) : Nat × Nat := ((rank + n - 1) % n, (rank + 1) % n)
/-- R300, R301: the rank of this device, the size of its group and the port mask of each rank; an error where the table refuses the
launch, with the address of a poisoned byte of it. A COUNT above 4,096 refuses it, and bits 15:12 of a port mask have no effect (DESIGN
CHOICE, log 47). -/
def groupRank (s : State) (pn : Nat) (l : Launch) : Except (Option Nat) (Nat × Nat × List Nat) :=
  let g := recGroup l.rec_
  if g = 0 then .ok (0, 1, [])
  else
    match readAll s (dieRole pn l) g 4 with
    | .error e => .error e
    | .ok (cb, _) =>
      let n := leNat cb
      if n < 1 || 4096 < n then .error none
      else
        match readAll s (dieRole pn l) g (16 + 16 * n) with
        | .error e => .error e
        | .ok (t, _) =>
          let clean := recN t 4 12 = 0 && (List.range n).all (fun e => recN t (26 + 16 * e) 6 = 0)
          let mine := (List.range n).filter (fun e => recN t (16 + 16 * e) 8 = deviceNumber)
          match mine with
          | [e] => if clean then .ok (e, n, (List.range n).map (fun e => recN t (24 + 16 * e) 2 % 2 ^ 12)) else .error none
          | _ => .error none
/-- R429: the scheduler core has read a poisoned byte. -/
def schedFault (s : State) : Option Nat → State
  | some pa => { s with scheduler := s.scheduler.faulted .machine 5 pa }
  | .none => s

/-- The plans of the cores of a launch. -/
def plans (s : State) (pn : Nat) (l : Launch) : List Plan :=
  (List.range l.count).map (fun i => planCore s (l.first + i) pn (recPrio l.rec_) (recRoles l.rec_) (recTwin l.rec_))
/-- R305: an arrival of the partition waits for a role on a core. -/
def bindWaits (s : State) (pn core : Nat) : Bool :=
  match askOf s core with
  | .bind q _ => q = pn
  | _ => false

/-- R305: on some core of a launch. -/
def arrivalFirst (s : State) (pn : Nat) (l : Launch) : Bool := (List.range l.count).any (fun i => bindWaits s pn (l.first + i))

/-- The launch is bound as a gang, in one scheduler step. -/
def bindLaunch (s : State) (pn : Nat) (l : Launch) (rank groups : Nat) (masks : List Nat) (ps : List (Nat × Nat)) : State :=
  let lines : List Line := ps.map (fun p => { key := p.1, participant := true, raised := false })
  let l' : Launch := { l with rank := rank, groups := groups, masks := masks, lines := lines, st := .bound, qstart := s.cycle }
  let s := s.modLaunch pn l.id.toNat (fun _ => l')
  let s := (List.range l.count).foldl (fun s i =>
    let c := l.first + i
    s.setCore c ((s.core c).setCursor (seqShare pn l.id.toNat (recTrips l.rec_) (recPerm l.rec_) (recGrain l.rec_)
      (one0 groups) rank l.count i))) s
  let run := !recStanding l.rec_
  ps.foldl (fun s p => bindSlot s p.1 (recordOf s pn l' p.1 p.2 run (recArgs l.rec_)) run) s

/-- LAUNCH_BIND (R303): the next launch of a partition is bound once every core of its allocation has room, or refused. -/
def execLaunchBind (pn : Nat) (s : State) : Host.Outcome State Fault Refusal :=
  .next (match (s.partOr pn).next? with
    | .none => s
    | some l =>
      if l.st != .queued || !mayBind s pn l then s
      else if recTwin l.rec_ < recTdecl l.rec_ * 65536 then endLaunch s pn l.id.toNat 3
      else
        match groupRank s pn l with
        | .error e => endLaunch (schedFault s e) pn l.id.toNat 3
        | .ok (rank, groups, masks) =>
          if arrivalFirst s pn l then s
          else
            let ps := plans s pn l
            if ps.any (· == .no) then s
            else
              let asks := ps.flatMap (fun p => match p with | .ask ws => ws | _ => [])
              if asks ≠ [] then askFor s asks
              else bindLaunch s pn l rank groups masks (ps.flatMap (fun p => match p with | .place xs => xs | _ => [])))

/-! ### Pre-emption (R307 to R312) -/

/-- Stop requests go to the RUNNING roles of a launch. -/
def requestStops (s : State) (pn lid : Nat) : State :=
  { s with roles := s.roles.map (fun r => (r.1,
      if r.2.st == .running && r.2.part.toNat = pn && r.2.lid.toNat = lid && r.2.stopReq.isNone then
        { r.2 with stopReq := some s.cycle } else r.2)) }
def preempt (s : State) (pn lid : Nat) : State :=
  (requestStops s pn lid).modLaunch pn lid (fun l => { l with st := .stopping })

/-- QUANTUM_EXPIRY (R307): the quantum of a bound launch has ended: its roles are asked to stop, or it begins again, also where what waits
meets neither condition of R307 (DESIGN CHOICE, log 47). For a
launch that is being stopped: a role that an arrival has started since is asked too, and it may be that none of its roles is left to
wait for. -/
def execQuantumExpiry (q : LKey) (s : State) : Host.Outcome State Fault Refusal :=
  .next (match s.launch? q.part q.lid with
    | .none => s
    | some l =>
      if l.st == .stopping then preemptDone (requestStops s q.part q.lid) q.part q.lid
      else if l.st != .bound || s.cycle < l.qstart + usCycles (recQuantum l.rec_) then s
      else if contended s q.part l s.cycle then preempt s q.part q.lid
      else s.modLaunch q.part q.lid (fun l => { l with qstart := s.cycle }))

/-- R308: a cluster stands at a pre-emptible point. -/
def atStopPoint (s : State) (k : Nat) (c : Cluster) : Bool :=
  let x := (s.role k).clu c
  x.halted || atBoundary x ||
  (match head s k c with
   | .instr _ (.yield _) | .instr _ (.halt _) => true
   | _ => false)
/-- A role whose clusters have halted retires, and is not stopped, when its engines have drained or the last cluster halted as late as a
hard stop would come (R309). -/
def retires (s : State) (k : Nat) : Bool :=
  let r := s.role k
  r.allHalted && (drained s k || r.stopReq.any (fun t => t + usCycles 100 ≤ r.haltAt))

/-- CLEAN_STOP (R308): every cluster stands at a pre-emptible point and the nest record has retired. -/
def execCleanStop (rs : Slot) (s : State) : Host.Outcome State Fault Refusal :=
  let k := rs.key
  let r := s.role k
  .next (if r.st == .running && r.stopReq.isSome && !retires s k && clusters.all (atStopPoint s k) && r.nest.isNone then
    takeStop s k 2 0 r.front 0 0 none else s)
/-- HARD_STOP (R309): 100 µs after the stop request; at once while a condition of R437 holds. -/
def execHardStop (rs : Slot) (s : State) : Host.Outcome State Fault Refusal :=
  let k := rs.key
  let r := s.role k
  .next (if r.st != .running || retires s k then s
    else if s.emergency then hardStopped s k
    else match r.stopReq with
      | some t => if t + usCycles 100 ≤ s.cycle then takeStop s k 4 tHARD r.front 0 0 none else s
      | .none => s)

/-- YIELD_REPORT (R312): the scheduler takes the report of a yield: it pre-empts the launch, also while a condition of R437 holds, or
restarts the role. -/
def execYieldReport (rs : Slot) (s : State) : Host.Outcome State Fault Refusal :=
  let k := rs.key
  let r := s.role k
  let isIt (e : Word) : Bool := bits e 7 0 * 4 + bits e 9 8 = k && bits e 27 24 = 3
  .next (if !s.schedq.any isIt then s
    else
      let s := { s with schedq := s.schedq.filter (fun e => !isIt e) }
      match r.stop with
      | .none => s
      | some i =>
        if r.st != .stopped || i.kind ≠ 3 then s
        else
          match s.launch? r.part.toNat r.lid.toNat with
          | .none => restartRole s k
          | some l =>
            if l.st == .stopping then s
            else if s.emergency || contendedOn s r.part.toNat l (· = k / 4) i.at_ then preempt s r.part.toNat r.lid.toNat
            else restartRole s k)

/-- Roles of other launches that have left window space in which a swapped-out role of a launch had its own. -/
def overKept (s : State) (pn : Nat) (l : Launch) (w : Swapped) : List Kept :=
  (keptOf s (w.key / 4)).filter (fun x => !(x.part = pn && x.lid = l.id) && x.lo < w.twBase.toNat + w.twSize.toNat && w.twBase.toNat < x.hi)
/-- The place that a swapped-out role left is free: its core is the partition's, its slot and its window space are free, and no role that
it may not displace waits for them (R311). -/
def placeFree (s : State) (pn : Nat) (l : Launch) (w : Swapped) : Bool :=
  let c := w.key / 4
  let lo := w.twBase.toNat
  let hi := lo + w.twSize.toNat
  (s.partOr pn).record.cores.contains c && (s.role w.key).st == .free && (boundSpace s c).all (fun b => hi ≤ b.1 || b.2 ≤ lo) &&
  (overKept s pn l w).all (fun x => !x.stays pn (recPrio l.rec_)) &&
  (keptOf s c).all (fun x => x.key ≠ w.key || (x.part = pn && x.lid = l.id) || !x.stays pn (recPrio l.rec_))
/-- A swapped-out role is bound by RESTORE at its slot and resumed by RESTART (R310, R311), whatever it was stopped for. -/
def bringBack (s : State) (pn : Nat) (l : Launch) (w : Swapped) : State :=
  let blk : CtlBlk :=
    { save := w.save, twBase := w.twBase, twSize := w.twSize, asid := w.asid, part := BitVec.ofNat 8 pn, lid := l.id }
  let s := restoreRole (s.modRoleAt w.key (fun r => { r with blk := blk })) w.key
  if (s.role w.key).st == .stopped then restartRole s w.key else s

/-- PREEMPTED_REBIND (R311): notice 8 goes first to the roles of other launches that have left the space, then notice 9 to those whose own
space was handed out. -/
def execPreemptedRebind (q : LKey) (s : State) : Host.Outcome State Fault Refusal :=
  .next (match s.launch? q.part q.lid with
    | .none => s
    | some l =>
      if l.st != .preempted || !mayBind s q.part l || arrivalFirst s q.part l || !l.swapped.all (placeFree s q.part l) then s
      else
        let wanted := l.swapped.flatMap (fun w => (overKept s q.part l w).filter (fun x => !x.saved))
        let lost := l.swapped.filter (fun w => w.winfree && !w.notice9)
        if wanted ≠ [] then askFor s wanted
        else if lost ≠ [] then
          lost.foldl (fun s w =>
            (s.modLaunch q.part q.lid (fun l => { l with swapped := l.swapped.map (fun x =>
              if x.key = w.key then { x with notice9 := true, winready := false } else x) })).notice q.part (w.key / 4) 9
                (w.key / 4 + w.key % 4 * 2 ^ 8) q.lid) s
        else if l.swapped.any (fun w => w.winfree && !w.winready) then s
        else
          let s := s.modLaunch q.part q.lid (fun l => { l with st := .bound, qstart := s.cycle })
          l.swapped.foldl (fun s w => bringBack s q.part l w) s)

/-! ### Completion and kills (R313 to R315) -/

/-- R313: every line is raised, no role of the launch is RUNNING or STOPPED, nothing waits for its handler window. -/
def completes (s : State) (pn : Nat) (l : Launch) : Bool :=
  (l.st == .bound || l.st == .stopping) && !recStanding l.rec_ && l.lines.all (·.raised) && l.swapped = [] &&
  !launchActive s pn l.id.toNat && (s.partOr pn).spawns.all (fun x => x.lid != l.id) &&
  s.cores.all (fun c => c.2.arrq.all (fun e => !(e.arr.asid == l.asid && (recHw l.rec_).1.toNat ≤ e.arr.handler.toNat &&
    e.arr.handler.toNat < (recHw l.rec_).1.toNat + (recHw l.rec_).2.toNat)))

/-- The bytes that a digest covers, region by region (R225), or none where R226 finds an error. -/
def digestBytes (s : State) (r : Role) (t : List Byte) : List Nat → Except (Option Nat) (List Byte × State)
  | [] => .ok ([], s)
  | e :: es =>
    let a := BitVec.ofNat 64 (recN t (16 + 32 * e) 8)
    let n := recN t (24 + 32 * e) 8
    let stride := recN t (32 + 32 * e) 4
    let valid := recN t (36 + 32 * e) 4
    if stride ≠ 0 && stride < valid then .error none
    else
      match readVa s r a (fun o => stride = 0 || o % stride < valid) 0 (n / 65536 + 2) n with
      | .error x => .error x
      | .ok (bs, s') =>
        match digestBytes s' r t es with
        | .error x => .error x
        | .ok (cs, s'') => .ok (natLe 8 bs.length ++ bs ++ cs, s'')
/-- R224 to R226: the digest is written: the state, or none at a digest error. -/
def writeDigest (s : State) (pn : Nat) (l : Launch) : Option State :=
  let r := dieRole pn l
  let a := recRegions l.rec_
  match readAll s r a 16 with
  | .error _ => .none
  | .ok (hd, _) =>
    let n := recN hd 0 4
    let d : Word := BitVec.ofNat 64 (recN hd 8 8)
    if 64 < n || d.toNat % 32 ≠ 0 || !canonical d then .none
    else
      match readAll s r a (16 + 32 * n) with
      | .error _ => .none
      | .ok (t, s) =>
        match digestBytes s r t (List.range n) with
        | .error _ => .none
        | .ok (bs, s) => dieWrite s pn l d (shake256 bs)

/-- Every role of a launch that is in a slot goes to FREE. -/
def freeRoles (s : State) (pn lid reason : Nat) : State :=
  ((s.roles.filter (fun r => r.2.st != .free && r.2.part.toNat = pn && r.2.lid.toNat = lid)).map (·.1)).foldl
    (fun s k => freeRole s k reason) s

/-- R244: every role of a launch has retired: the contributions that still wait are applied, generation by generation. -/
def settleContribs (s : State) (pn lid : Nat) : State :=
  let mine (c : Contrib) : Bool := c.part = pn && c.lid = lid
  let key (c : Contrib) : List Nat := [c.gen, c.level, c.inst, c.core, c.slot, c.seq]
  let s' := (sortBy (fun a b => lexLe (key a) (key b)) (s.contribs.filter mine)).foldl applyContrib s
  { s' with contribs := s'.contribs.filter (fun c => !mine c) }

/-- LAUNCH_COMPLETE (R313). -/
def execLaunchComplete (q : LKey) (s : State) : Host.Outcome State Fault Refusal :=
  .next (match s.launch? q.part q.lid with
    | .none => s
    | some l =>
      if !completes s q.part l then s
      else
        let s := settleContribs s q.part q.lid
        let d := if recDigest l.rec_ then writeDigest s q.part l else some s
        let (s, status) := match d with | some s' => (s', 0) | .none => (s, 1)
        endLaunch (freeRoles s q.part q.lid 2) q.part q.lid status)

/-- The kill path of a switched-out role (R76, R315, R327, R344). -/
def killSwapped (s : State) (l : Launch) (w : Swapped) : State :=
  let s := releaseHolds s w.asid.toNat w.key l.rank w.holds
  let s := stallHeld (faultCells s w.eid w.key l.rank 1) w.key { Role.reset with lid := l.id }
  s.freeAreaOf (w.key / 4) w.arrival
/-- LAUNCH_KILL (R315). -/
def execLaunchKill (q : LKey) (s : State) : Host.Outcome State Fault Refusal :=
  .next (match s.launch? q.part q.lid with
    | .none => s
    | some l =>
      let s := l.swapped.foldl (fun s w => killSwapped s l w) (freeRoles s q.part q.lid 1)
      let p := s.partOr q.part
      let s := s.setPart q.part { p with spawns := p.spawns.filter (fun x => x.lid.toNat ≠ q.lid) }
      endLaunch s q.part q.lid 2)

end Sys2Proof.Machine
end

