-- ==== Sys2Proof/Machine/Regs.lean ====
section
/-! DEFINITION. The control die's registers: control blocks and their commands (17 R361, 18 R375, R376, R384, R393, 10 R243,
21 R407), pool retirement (15 R321), place tables and spares (18 R381, 23 R432, R433), partitions (18 R378 to R380). -/

namespace Sys2Proof.Machine

/-! ### Who may write (R361, R375, R385, R393, R407) -/

/-- The partition that a master acts for. -/
def masterPart (s : State) : Master → Option Nat
  | .svc n => s.svcPart n
  | _ => none
/-- A master's write to registers that only the service cores of partition pn may write: another master violates, and the write
is not performed. -/
def ownWrite (s : State) (by_ : Master) (pn : Option Nat) (addr : Nat) (f : State → State) : State :=
  if !awake s by_ then s
  else if (masterPart s by_).isSome && masterPart s by_ = pn then f s
  else violate s by_ (BitVec.ofNat 64 addr)

/-! ### Address spaces (R375, R376, R278) -/

def State.setAsid (s : State) (a : Nat) (x : AsidBlk) : State := { s with asids := mput s.asids a x }
def asidAddr (a : Nat) : Nat := 0xF0200000 + 32 * a
/-- The partition whose service cores own an address space. -/
def asidOwner (s : State) (a : Nat) : Option Nat := if (s.asid a).valid then some (s.asid a).part.toNat else none
/-- A bump starts: GEN advances at once, and the root written last is the one that its accesses use; accesses of the generation before go
on through the old one until the bump completes. -/
def startBump (s : State) (a : Nat) : State :=
  let b := s.asid a
  if b.busy then s
  else s.setAsid a { b with gen := b.gen + 1, busy := true, root := b.rootNext.getD b.root, rootNext := none, rootOld := b.root }
/-- BUMP: a write of 1 to BUMP. -/
def execBump (by_ : Master) (a : Nat) (s : State) : Host.Outcome State Fault Refusal :=
  .next (ownWrite s by_ (asidOwner s a) (asidAddr a + 16) (fun s => startBump s a))
/-- R376: an access tagged with a generation of an address space is still on its way. -/
def tagRemains (s : State) (a : Nat) (g : BitVec 16) : Bool :=
  s.roles.any (fun r => r.2.asid.toNat = a && r.2.acc.any (fun x => x.gen == g && (match x.stat with | .pending | .resend _ => true | _ => false)))
/-- BUMP_COMPLETE: every controller and slice holds the new generation, and no access of the last but one remains. What the cores have
cached under the old one is gone, and the tags of cells whose cue page is mapped no more are (R334, log 11). -/
def execBumpComplete (a : Nat) (s : State) : Host.Outcome State Fault Refusal :=
  let b := s.asid a
  .next (if !b.busy || tagRemains s a (b.gen - 2) then s
    else
      { s.setAsid a { b with busy := false } with
        tlb := s.tlb.filter (fun t => t.asid ≠ a || t.gen = b.gen)
        tags := s.tags.filter (fun t => mappedAs s 2 (64 * t.1)) })

/-! ### The tag window (R384) -/

/-- TAG_WINDOW_SELECT: the page that the tag window shows. -/
def execTagWindowSelect (by_ : Master) (pa : Nat) (s : State) : Host.Outcome State Fault Refusal :=
  .next (if awake s by_ && (masterPart s by_).isSome then { s with tagWin := BitVec.ofNat 64 pa } else s)
/-- The page selected, as a physical address of region 0 or 1. -/
def tagPage (s : State) : Nat := diePa s.tagWin.toNat / 65536 * 65536
/-- A tag as the window stores it: RUNNING is stored as CUE. -/
def storedTag (v : Nat) : BitVec 2 := if v = 2 then tagCUE else BitVec.ofNat 2 v
/-- TAG_WINDOW_WRITE: byte off of the 256 at 0xF003_0100: the tags of four cells. -/
def execTagWindowWrite (by_ : Master) (off : Nat) (v : Byte) (s : State) : Host.Outcome State Fault Refusal :=
  let page := tagPage s
  .next (if !awake s by_ || (masterPart s by_).isNone || 256 ≤ off then s
    else if 1 < paRegion page || !inWindows s (s.partOr ((masterPart s by_).getD 256)).record page then violate s by_ (BitVec.ofNat 64 page)
    else (List.range 4).foldl (fun s i => s.setTag (page + 64 * (4 * off + i)) (storedTag (v.toNat / 4 ^ i % 4))) s)

/-- Byte off of the 256: the tags of four cells. -/
def tagByte (s : State) (off : Nat) : Nat := ((List.range 4).map (fun i => (s.tag (tagPage s + 64 * (4 * off + i))).toNat * 4 ^ i)).sum
/-- Byte 0xF003_0008: a tag of the page is RUNNING, or a load is parked on one of its cells. -/
def tagBusy (s : State) : Bool :=
  (List.range 1024).any (fun i => let c := tagPage s + 64 * i; s.tag c == tagRUNNING || 0 < s.waiters c)

/-! ### The ATOMF.D overflow register (R243) -/

def overflowMask : Word := 0x00FFFFFFFC000001
def writeOverflow (s : State) (pn : Nat) (v : Word) : State :=
  let p := s.partOr pn
  let w := v &&& overflowMask
  let base := bits w 55 26 * 2 ^ 26
  if w.getLsbD 0 && (paRegion base ≠ 0 || paNorm base ≠ base || !inWindows s p.record base) then s
  else s.setPart pn { p with overflow := w }
/-- OVERFLOW_REGISTER_WRITE. -/
def execOverflowRegisterWrite (by_ : Master) (pn : Nat) (v : Word) (s : State) : Host.Outcome State Fault Refusal :=
  .next (ownWrite s by_ (some pn) (0xF0090000 + 8 * pn) (fun s => writeOverflow s pn v))

/-! ### Pools (R321) -/

/-- POOL_RETIRE: a service core's store clears LIVE of the block at pa. -/
def execPoolRetire (by_ : Master) (pa : Nat) (s : State) : Host.Outcome State Fault Refusal :=
  let a := paNorm pa
  .next (if !awake s by_ then s
    else match masterPart s by_ with
      | none => s
      | some pn =>
        if paRegion a ≠ 1 || a % 256 ≠ 0 || !inWindows s (s.partOr pn).record a then violate s by_ (BitVec.ofNat 64 pa)
        else s.memWrite (a + 17) [readByte s.mem (a + 17) &&& 0xFE])

/-! ### Record streams (R407) -/

def streamAddr (n : Nat) : Nat := 0xF0080000 + 256 * n
def streamOwner (s : State) (n : Nat) : Option Nat :=
  let p := (s.cstream n).part.toNat
  if p = 255 then none else some p
/-- A range of physical addresses, as given, lies wholly in a partition's windows. -/
def rangeIn (s : State) (p : Partition) (a n : Nat) : Bool :=
  let unit := if paRegion a = 0 then 2 ^ 30 else 2 ^ 20
  paRegion a ≤ 1 && paNorm a = a && paNorm (a + n - 1) = a + n - 1 && paRegion (a + n - 1) = paRegion a &&
  (List.range ((a + n - 1) / unit - a / unit + 1)).all (fun i => inWindows s p (a / unit * unit + unit * i))
/-- The fields that OPEN checks, but for the specification. -/
def openFields (s : State) (c : CStream) : Bool :=
  let p := (s.partOr c.part.toNat).record
  c.specPa.toNat % 64 = 0 && c.buf.toNat % 65536 = 0 && paRegion c.buf.toNat = 0 && c.log.toNat % 64 = 0 && paRegion c.log.toNat = 0 &&
  1 ≤ c.bufPages.toNat && c.bufPages.toNat ≤ 2 ^ 20 && 1 ≤ c.logn.toNat && c.logn.toNat ≤ 2 ^ 20 &&
  1 ≤ c.nsrc.toNat && c.nsrc.toNat ≤ 64 &&
  (s.asid c.asid.toNat).valid && (s.asid c.asid.toNat).part == c.part &&
  rangeIn s p c.buf.toNat (4096 * c.bufPages.toNat) && rangeIn s p c.log.toNat (64 * c.logn.toNat) && rangeIn s p c.specPa.toNat 64
def openStream (s : State) (n : Nat) : State :=
  let c := s.cstream n
  if c.isOpen then s.setCstream n { c with err := 4 }
  else if !openFields s c then s.setCstream n { c with err := 1 }
  else if memPoisoned s c.specPa.toNat 64 then s.setCstream n { c with err := 2 }
  else
    let c' := { c with spec := s.memRead c.specPa.toNat 64 }
    if !specOk c' then s.setCstream n { c with err := 1 }
    else s.setCstream n { c' with isOpen := true, err := 0, wm := 0,
                                  srcs := List.replicate c.nsrc.toNat { sw := 0, active := true, last := s.dtime } }
/-- STREAM_OPEN. -/
def execStreamOpen (by_ : Master) (n : Nat) (s : State) : Host.Outcome State Fault Refusal :=
  .next (ownWrite s by_ (streamOwner s n) (streamAddr n) (fun s => openStream s n))
/-- Every window of a stream is freed, with its records. -/
def dropWindows (s : State) (n : Nat) : State :=
  let mine := (s.wins.filter (fun w => w.2.stream = n)).map (·.1)
  { s with wins := s.wins.filter (fun w => w.2.stream ≠ n), curq := s.curq.filter (fun e => !mine.contains e.win) }
/-- R20: a stream is closed: its watermarks, sources and specification end with it. -/
def CStream.closed (c : CStream) : CStream := { c with isOpen := false, wm := 0, srcs := [], spec := [] }
def closeStream (s : State) (n : Nat) : State :=
  let c := s.cstream n
  if !c.isOpen then s.setCstream n { c with err := 4 }
  else if s.wins.any (fun w => w.2.stream = n && (w.2.st == .firing || w.2.st == .amending)) then s.setCstream n { c with err := 3 }
  else (dropWindows s n).setCstream n { c.closed with err := 0 }
/-- STREAM_CLOSE. -/
def execStreamClose (by_ : Master) (n : Nat) (s : State) : Host.Outcome State Fault Refusal :=
  .next (ownWrite s by_ (streamOwner s n) (streamAddr n) (fun s => closeStream s n))
/-- A write of doubleword o of an IDLE block's RW fields. -/
def streamField (c : CStream) (o : Nat) (v : Word) : CStream :=
  match o with
  | 16 => { c with specPa := v }
  | 24 => { c with buf := v }
  | 32 => { c with bufPages := v.setWidth 32, asid := v.extractLsb' 32 16, nsrc := v.extractLsb' 48 8, fl := v.extractLsb' 56 8 &&& 1 }
  | 40 => { c with idle := v }
  | 48 => { c with fbdelay := v }
  | 56 => { c with log := v }
  | 64 => { c with logn := v.setWidth 32 }
  | _ =>
    if 96 ≤ o && o < 160 then
      { c with up := (List.range 8).foldl (fun m i => mset (0 : Byte) m (o - 96 + i) (v.extractLsb' (8 * i) 8)) c.up }
    else c

/-! ### Registers without a behaviour of their own, and the commands reached by their addresses (R7) -/

/-- Doubleword o of the RW fields of a role's control block (R361). -/
def blkField (b : CtlBlk) (o : Nat) (v : Word) : CtlBlk :=
  match o with
  | 16 => { b with save := v }
  | 24 => { b with twBase := v.setWidth 32, twSize := v.extractLsb' 32 32 }
  | 32 => { b with asid := v.setWidth 16, part := v.extractLsb' 16 8, lid := v.extractLsb' 32 32 }
  | _ => b
/-- A write to a role's control block, RCMD included. -/
def blkWrite (s : State) (by_ : Master) (k o : Nat) (v : Word) : State :=
  if !awake s by_ then s
  else if !reachesSlot s by_ k then violate s by_ (BitVec.ofNat 64 (blkAddr k + o))
  else s.modRoleAt k (fun r => { r with blk := blkField r.blk o v })
/-- A write to a multicast set (R393): COUNT, then destination bases. -/
def msetField (m : McSet) (o : Nat) (v : Word) : McSet :=
  if o = 0 then { m with count := v }
  else if o ≤ 128 then { m with bases := (m.bases ++ List.replicate (16 - m.bases.length) 0).set (o / 8 - 1) v }
  else m
def msetWrite (s : State) (i o : Nat) (v : Word) : State :=
  let d : McSet := { count := 0, bases := [] }
  { s with msets := mput s.msets i (msetField (mget d s.msets i) o v) }
/-- The state of a transition that always has a next state. -/
def nextOf (s : State) : Host.Outcome State Fault Refusal → State
  | .next t => t
  | _ => s
/-- R361: the command that a write of RCMD gives. -/
def rcmd (by_ : Master) (r : Slot) (v : Word) (s : State) : State :=
  match bits v 3 0 with
  | 1 => nextOf s (execRestart by_ r s)
  | 2 => nextOf s (execSwitchout by_ r s)
  | 3 => nextOf s (execRestore by_ r s)
  | 4 => nextOf s (execKill by_ r s)
  | 5 => nextOf s (execWinfree by_ r s)
  | 6 => nextOf s (execWinready by_ r s)
  | _ => command by_ r.key s id
/-- REGISTER_WRITE: an aligned doubleword in the control-die map. An address that no register has takes nothing. -/
def execRegisterWrite (by_ : Master) (addr : Nat) (v : Word) (s : State) : Host.Outcome State Fault Refusal :=
  let a := addr / 8 * 8
  .next (if !awake s by_ then s
    else if 0xF0000000 ≤ a && a < 0xF0010000 then
      let k := (a - 0xF0000000) / 64
      if a % 64 = 0 then rcmd by_ (slotOfKey k) v s else blkWrite s by_ k (a % 64) v
    else if a = 0xF0030000 then nextOf s (execTagWindowSelect by_ v.toNat s)
    else if 0xF0030100 ≤ a && a < 0xF0030200 then
      (List.range 8).foldl (fun s i => nextOf s (execTagWindowWrite by_ (a - 0xF0030100 + i) (v.extractLsb' (8 * i) 8) s)) s
    else if 0xF0040000 ≤ a && a < 0xF0080000 then
      let i := (a - 0xF0040000) / 256
      ownWrite s by_ (some (i / 64)) a (fun s => msetWrite s i (a % 256) v)
    else if 0xF0080000 ≤ a && a < 0xF0090000 then
      let n := (a - 0xF0080000) / 256
      ownWrite s by_ (streamOwner s n) a (fun s =>
        let c := s.cstream n
        if a % 256 = 0 then (match bits v 3 0 with | 1 => openStream s n | 2 => closeStream s n | _ => s)
        else if c.isOpen then s else s.setCstream n (streamField c (a % 256) v))
    else if 0xF0090000 ≤ a && a < 0xF0090080 then
      let pn := (a - 0xF0090000) / 8
      ownWrite s by_ (some pn) a (fun s => writeOverflow s pn v)
    else if 0xF0200000 ≤ a && a < 0xF0400000 then
      let n := (a - 0xF0200000) / 32
      ownWrite s by_ (asidOwner s n) a (fun s =>
        if a % 32 = 0 then s.setAsid n { s.asid n with rootNext := some v }
        else if a % 32 = 16 && v.getLsbD 0 then startBump s n else s)
    else s)

/-! ### Reads of the registers (R6, R7, R361, R375, R384, R393, R407) -/

def stateNum : RoleState → Nat
  | .free => 0 | .dormant => 1 | .running => 2 | .stopped => 3
/-- Doubleword o of a role's control block; RCMD reads as zero. -/
def blkRead (r : Role) (o : Nat) : Nat :=
  match o with
  | 8 => stateNum r.st + (if r.frozen then 4 else 0) + (if r.busy then 8 else 0) + r.err % 256 * 2 ^ 8
  | 16 => r.blk.save.toNat
  | 24 => r.blk.twBase.toNat + r.blk.twSize.toNat * 2 ^ 32
  | 32 => r.blk.asid.toNat + r.blk.part.toNat * 2 ^ 16 + r.blk.lid.toNat * 2 ^ 32
  | _ => 0
/-- Doubleword o of a stream's control block. -/
def streamRead (c : CStream) (o : Nat) : Nat :=
  match o with
  | 8 => (if c.isOpen then 1 else 0) + c.err % 256 * 2 ^ 8
  | 16 => c.specPa.toNat
  | 24 => c.buf.toNat
  | 32 => c.bufPages.toNat + c.asid.toNat * 2 ^ 32 + c.nsrc.toNat * 2 ^ 48 + c.fl.toNat * 2 ^ 56
  | 40 => c.idle.toNat
  | 48 => c.fbdelay.toNat
  | 56 => c.log.toNat
  | 64 => c.logn.toNat + c.part.toNat * 2 ^ 32
  | 72 => c.wm
  | 80 => c.dropped
  | _ => if 96 ≤ o && o < 160 then leNat ((List.range 8).map (fun i => mget (0 : Byte) c.up (o - 96 + i))) else 0
/-- Doubleword o of an address-space control block; ROOT reads as last written. -/
def asidRead (b : AsidBlk) (o : Nat) : Nat :=
  match o with
  | 0 => (b.rootNext.getD b.root).toNat
  | 8 => b.gen.toNat
  | 24 => (if b.busy then 1 else 0) + (if b.valid then 2 else 0) + b.part.toNat * 2 ^ 8
  | _ => 0
/-- Doubleword o of a multicast set. -/
def msetRead (m : McSet) (o : Nat) : Nat := if o = 0 then m.count.toNat else (m.bases.getD (o / 8 - 1) 0).toNat
/-- The doubleword that a control-die core reads at an aligned address of the map; an address that no register has reads as zero. -/
def regValue (s : State) (a : Nat) : Nat :=
  if 0xF0000000 ≤ a && a < 0xF0010000 then blkRead (s.role ((a - 0xF0000000) / 64)) (a % 64)
  else if a = 0xF0030000 then s.tagWin.toNat
  else if a = 0xF0030008 then (if tagBusy s then 1 else 0)
  else if 0xF0030100 ≤ a && a < 0xF0030200 then leNat ((List.range 8).map (fun i => BitVec.ofNat 8 (tagByte s (a - 0xF0030100 + i))))
  else if 0xF0040000 ≤ a && a < 0xF0080000 then
    msetRead (mget { count := 0, bases := [] } s.msets ((a - 0xF0040000) / 256)) (a % 256)
  else if 0xF0080000 ≤ a && a < 0xF0090000 then streamRead (s.cstream ((a - 0xF0080000) / 256)) (a % 256)
  else if 0xF0090000 ≤ a && a < 0xF0090080 then (s.partOr ((a - 0xF0090000) / 8)).overflow.toNat
  else if 0xF0200000 ≤ a && a < 0xF0400000 then asidRead (s.asid ((a - 0xF0200000) / 32)) (a % 32)
  else 0
/-- A master may not read what stands at an address: a control block of another partition's slot (R361), or the tags of a page outside its
windows. -/
def readBarred (s : State) (by_ : Master) (a : Nat) : Bool :=
  if 0xF0000000 ≤ a && a < 0xF0010000 then !reachesSlot s by_ ((a - 0xF0000000) / 64)
  else if 0xF0030008 ≤ a && a < 0xF0030200 then
    (match masterPart s by_ with
     | some pn => 1 < paRegion (tagPage s) || !inWindows s (s.partOr pn).record (tagPage s)
     | none => false)
  else false

/-! ### Place tables and spares (R381, R432, R433) -/

def unitCode : UnitKind → Nat
  | .channel => 0 | .slice => 1 | .core => 2
/-- Physical units that a logical one may be mapped to: those of its stack, of the part, of its die. -/
def placesOf (k : UnitKind) (l : Nat) : List Nat :=
  match k with
  | .channel => (List.range 66).map (fun i => l / 64 * 66 + i)
  | .slice => List.range 68
  | .core => (List.range 36).map (fun i => l / 32 * 36 + i)
def unitCount : UnitKind → Nat
  | .channel => 1024 | .slice => 64 | .core => 256
/-- Where a logical unit stands; without an entry, the unit of its own number in its stack or die. -/
def placeAt (s : State) (k : UnitKind) (l : Nat) : Nat :=
  let own := match k with
    | .channel => l / 64 * 66 + l % 64
    | .slice => l
    | .core => l / 32 * 36 + l % 32
  mget own s.place (unitCode k * 2 ^ 16 + l)
def placeFreeFor (s : State) (k : UnitKind) (l p : Nat) : Bool :=
  (placesOf k l).contains p && (List.range (unitCount k)).all (fun m => m = l || placeAt s k m ≠ p)

/-- The home slices that a copy has still to reach: those of what it reads and of what it writes, granule by granule. -/
def CopyJob.homes (s : State) (r : Role) (c : CopyJob) : List Nat :=
  let at_ (x : Nat × Nat) : List Nat := ((physAt s r.asid.toNat (BitVec.ofNat 64 x.1)).bind (fun x => homeOf x.pa)).toList
  ((List.range c.granules).filter (c.done ≤ ·)).flatMap (fun i =>
    let d := { c with done := i }
    let o := (d.writes.headD (0, 0)).1 % 2 ^ 16
    (d.reads ++ d.writes).flatMap at_ ++ ((mcastAt s r c i).getD []).filterMap (fun b => homeOf (paNorm (b.toNat + o))))
/-- The home slices that a role's copies and pool requests reach. -/
def homesOf (s : State) (r : Role) : List Nat :=
  r.copies.flatMap (fun c => c.homes s r) ++
  (r.acc.filter (fun a => a.stat.unperformed && (match a.kind with | .pool _ => true | _ => false))).flatMap (fun a =>
    ((physAt s r.asid.toNat a.addr).bind (fun x => homeOf x.pa)).toList)
/-- R381: a change of a unit's place is permitted now. -/
def placeQuiet (s : State) (k : UnitKind) (l : Nat) : Bool :=
  match k with
  | .channel => true
  | .slice =>
    s.roles.all (fun r => !(homesOf s r.2).contains l) && (s.prompter l).lq = [] && (s.prompter l).touches = [] &&
    s.tags.all (fun t => t.2 != tagRUNNING || homeSlice (64 * t.1) ≠ l)
  | .core =>
    (List.range 4).all (fun j => (s.role (4 * l + j)).st == .free) &&
    (List.range 128).all (fun i => (List.range 4).all (fun d => s.chan (srcChan (4 * (l / 32 * 32) + i) d) = []))
def setPlace (s : State) (k : UnitKind) (l p : Nat) : State := { s with place := mput s.place (unitCode k * 2 ^ 16 + l) p }
/-- PLACE_TABLE_CHANGE: what the unit holds goes with it (R433), so nothing else changes. -/
def execPlaceTableChange (k : UnitKind) (l p : Nat) (s : State) : Host.Outcome State Fault Refusal :=
  .next (if l < unitCount k && placeFreeFor s k l p && placeQuiet s k l then setPlace s k l p else s)

/-- R428: the unit to which an error in memory counts (log 16). -/
def unitOfPa (pa : Nat) : UnitKind × Nat :=
  if paRegion pa = 1 then (.slice, homeSlice pa)
  else (.channel, (4 * (pa / 2 ^ 38 % 4) + pa / 2 ^ 8 % 4) * 64 + (Config.channelOf pa).toNat)
/-- Uncorrectable errors of a physical unit in the last 24 hours. -/
def recentErrors (s : State) (kind p : Nat) : Nat :=
  s.errors.countP (fun e => e.1 = kind && e.2.1 = p && s.cycle < e.2.2 + usCycles (24 * 3600 * 1000000))
/-- An error of a logical unit counts to the physical unit that it stands for; the third within 24 hours wears the unit out. -/
def countError (s : State) (k : UnitKind) (l : Nat) : State :=
  let u := (unitCode k, placeAt s k l)
  let s := { s with errors := s.errors ++ [(u.1, u.2, s.cycle)] }
  if 3 ≤ recentErrors s u.1 u.2 && !s.worn.contains u then { s with worn := s.worn ++ [u] } else s
/-- UNCORRECTABLE_ERROR (R428): a granule is poisoned; in a register file, the role stops exactly at the syllable. -/
def execUncorrectableError (e : ErrSite) (s : State) : Host.Outcome State Fault Refusal :=
  .next (match e with
    | .mem pa =>
      let a := paNorm pa
      if 1 < paRegion a then s else countError { s with poison := linsert s.poison (a / 64) } (unitOfPa a).1 (unitOfPa a).2
    | .tile core off =>
      if 256 ≤ core || 2 ^ 22 ≤ off then s
      else countError { s with tpoison := linsert s.tpoison (tkey core off / 64) } .core core
    | .regs rs cl =>
      let k := rs.key
      let s := countError s .core (k / 4)
      if (s.role k).st == .running && !((s.role k).clu cl).halted then takeStop s k 1 tPOISON cl 0 exactI1 none else s)
/-- SCRUB (R430): each granule is read and rewritten at its home: no value changes, and no poison clears. -/
def execScrub (s : State) : Host.Outcome State Fault Refusal := .next s

/-- The partitions that hold a unit. -/
def holders (s : State) (k : UnitKind) (l : Nat) : List Nat :=
  (s.parts.filter (fun p => match k with
    | .core => p.2.record.cores.contains l
    | .slice => p.2.record.slice.any (fun u => u / 8 = l)
    | .channel => p.2.record.hbm.any (fun u => u / 256 = l / 64 / 4))).map (·.1)
/-- R432: stop requests to the launches whose roles stand in the way of a change. -/
def stopFor (s : State) (k : UnitKind) (l : Nat) : State :=
  let ks := (s.roles.filter (fun r => r.2.st == .running && (match k with
    | .core => r.1 / 4 = l
    | .slice => (homesOf s r.2).contains l
    | .channel => false))).map (·.1)
  ks.foldl (fun s x => preempt s (s.role x).part.toNat (s.role x).lid.toNat) s
/-- SPARE_REPLACE (R432): the physical unit that stands for a logical one is worn: a spare takes its place, once R381 permits, and the new
repair map goes to module flash as a signed record, whose version the root monitor checks as any other's (R440). -/
def execSpareReplace (k : UnitKind) (x : Spare) (s : State) : Host.Outcome State Fault Refusal :=
  let l := x.logical
  let old := placeAt s k l
  .next (if unitCount k ≤ l || x.version < mget 0 s.versions 3 || !s.worn.contains (unitCode k, old) then s
    else
      match (placesOf k l).find? (fun p => placeFreeFor s k l p && old ≠ p && !s.replaced.contains (unitCode k, p)) with
      | none => s
      | some p =>
        if !placeQuiet s k l then stopFor s k l
        else
          let hs := holders s k l
          let t := setPlace s k l p
          let s := { t with
            replaced := s.replaced ++ [(unitCode k, old)]
            worn := s.worn.filter (· ≠ (unitCode k, old))
            errors := s.errors.filter (fun e => !(e.1 = unitCode k && e.2.1 = old))
            flash := t.place
            flashVer := mput s.flashVer 3 x.version
            versions := mput s.versions 3 x.version }
          hs.foldl (fun s q => s.notice q (if k = .core then l else 0) 5 (unitCode k) 0) s)

/-! ### Partitions (R378 to R380) -/

/-- R380: a physical address lies in a unit that a new record releases: of a window, or of a cache share that changes. -/
def releasedPa (old new_ : Partition) (pa : Nat) : Bool :=
  match paRegion pa with
  | 0 => let u := pa % 2 ^ 40 / 2 ^ 30; old.hbm.contains u && !new_.hbm.contains u
  | 1 =>
    let u := pa % 2 ^ 29 / 2 ^ 20
    old.slice.contains u && (!new_.slice.contains u || old.cache.contains u != new_.cache.contains u)
  | _ => false
/-- A role in a slot maps what a new record releases: from its root, and during a bump from the one before it too. -/
def mapsReleased (s : State) (old new_ : Partition) (r : Role) : Bool :=
  let b := s.asid r.asid.toNat
  (framesOf s b.root.toNat walkLevels ++ (if b.busy then framesOf s b.rootOld.toNat walkLevels else [])).any (fun f =>
    (List.range (f.2.1 / 2 ^ 20 + 1)).any (fun i => (i = 0 || i * 2 ^ 20 < f.2.1) && releasedPa old new_ (f.1 + i * 2 ^ 20)))
/-- Tags of a port, in units of 1,024, that partitions other than pn share (R378, R387). -/
def sharesOf (s : State) (pn q : Nat) : Nat :=
  (s.parts.map (fun x => if x.1 = pn then 0 else ((x.2.record.ports.filter (fun y => y.1 = q)).map (·.2)).sum)).sum
/-- R378, R383: the ranges of a record's properties. A queue pair stands as 256 times its drive plus its number. -/
def propertiesOk (s : State) (pn : Nat) (p : Partition) : Bool :=
  p.svcs.all (· < 16) && p.asids.all (· < 65536) && p.hbm.all (· < 1024) && p.slice.all (· < 512) && p.cores.all (· < 256) &&
  p.streams.all (· < 256) && 1 ≤ p.weight && p.weight ≤ 255 &&
  p.cache.all (fun u => p.slice.contains u) &&
  (List.range 64).all (fun i => 2 * p.cache.countP (fun u => u / 8 = i) ≤ p.slice.countP (fun u => u / 8 = i)) &&
  p.ports.all (fun q => q.1 < 12 && 1 ≤ q.2 && (p.ports.filter (fun y => y.1 = q.1)).length = 1 && q.2 + sharesOf s pn q.1 ≤ 16) &&
  p.nvme.all (fun q => q < 512) && (List.range 2).all (fun d => p.nvme.countP (fun q => q / 256 = d) ≤ 16) &&
  p.namespaces.all (fun q => q.1 < 2) &&
  s.parts.all (fun x => x.1 = pn || (x.2.record.nvme.all (fun q => !p.nvme.contains q) &&
    x.2.record.namespaces.all (fun q => !p.namespaces.contains q)))
/-- R378, R380: the windows are disjoint from every other partition's; what a partition gives up is mapped by no role of it that is
in a slot, and an address space that it gives up is used by none, nor by a launch that is not over. -/
def partitionOk (s : State) (pn : Nat) (p : Partition) : Bool :=
  propertiesOk s pn p &&
  s.parts.all (fun q => q.1 = pn || (q.2.record.hbm.all (fun u => !p.hbm.contains u) && q.2.record.slice.all (fun u => !p.slice.contains u) &&
    q.2.record.svcs.all (fun u => !p.svcs.contains u) && q.2.record.asids.all (fun u => !p.asids.contains u) &&
    q.2.record.streams.all (fun u => !p.streams.contains u))) &&
  s.roles.all (fun r => r.2.st == .free || r.2.part.toNat ≠ pn ||
    (p.asids.contains r.2.asid.toNat && !mapsReleased s (s.partOr pn).record p r.2)) &&
  (s.partOr pn).launches.all (fun l => l.word.isSome || p.asids.contains l.asid.toNat) &&
  p.wins.all (fun w => rangeIn s p w.base w.len)
/-- The memory that a record makes addressable and another one does not: what it holds ends with the windows (R20, log 39). -/
def lostPa (s : State) (old new_ : Partition) (pa : Nat) : Bool := paRegion pa ≤ 1 && inWindows s old pa && !inWindows s new_ pa
/-- Contents, poison, cue tags and evaluations of the units given up. -/
def clearLost (s : State) (old new_ : Partition) : State :=
  { s with
    mem := s.mem.filter (fun c => !lostPa s old new_ c.1)
    poison := s.poison.filter (fun g => !lostPa s old new_ (64 * g))
    tags := s.tags.filter (fun t => !lostPa s old new_ (64 * t.1))
    prompters := s.prompters.map (fun p => (p.1, { p.2 with
      lq := p.2.lq.filter (fun e => !lostPa s old new_ e.cell), touches := p.2.touches.filter (fun e => !lostPa s old new_ e.cell) })) }
/-- What a partition held and its new record leaves out is nobody's. An address space given up counts as another one where it is given
anew: the tile-store units that its roles occupied last are its own no more (R21, log 39). -/
def release (s : State) (pn : Nat) (new_ : Partition) : State :=
  let old := (s.partOr pn).record
  let gone := old.asids.filter (fun a => !new_.asids.contains a)
  let s := clearLost s old new_
  let s := gone.foldl (fun s a => s.setAsid a { s.asid a with valid := false }) s
  let s := (old.svcs.filter (fun n => !new_.svcs.contains n)).foldl (fun s n => s.setSvc n Svc.reset) s
  { s with
    tlb := s.tlb.filter (fun t => !gone.contains t.asid)
    owners := s.owners.filter (fun o => !gone.contains (o.2 - 1))
    ports := s.ports.map (fun q => (q.1, if q.2.part = pn then { q.2 with part := 255, winLen := 0 } else q.2)) }
/-- R379, R434: a service core starts in HS-mode at the entry of its image, with the partition's number in a0. -/
def startSvc (v : Svc) (pn image version : Nat) : Svc :=
  { v with running := true, image := image, version := version, mode := .hs, pc := Config.imageEntry image, a0 := BitVec.ofNat 64 pn }
/-- R379, R440: a record's kernel image is accepted: its signature is good, and its version not below the highest accepted. -/
def imageTaken (s : State) (p : Partition) : Bool := p.imageOk && mget 0 s.versions 1 ≤ p.version
/-- R379, R434: the record that a change leaves: where a kernel runs its image stays, to be replaced on one service core at a time by
KERNEL_IMAGE_SWITCH alone (DEDUCED, log 37); else the new one is there if it is accepted. -/
def kernelOf (s : State) (pn : Nat) (p : Partition) : Partition :=
  let old := (s.partOr pn).record
  if old.imageOk then { p with image := old.image, version := old.version, imageOk := true } else { p with imageOk := imageTaken s p }
/-- R441: the partition's image is that of the record until every service core that runs runs another one. -/
def settleImage (s : State) (p : Partition) : Partition :=
  match p.svcs.filter (fun n => (s.svc n).running) with
  | [] => { p with imageOk := false }
  | n :: t => if t.all (fun m => (s.svc m).image = (s.svc n).image) then
      { p with image := (s.svc n).image, version := (s.svc n).version, imageOk := true } else p
/-- A partition takes what its record gives it: address spaces, streams, ports; its kernel image starts on the cores that run none yet
(R379), if it is accepted there (R440). -/
def take_ (s : State) (pn : Nat) (p : Partition) : State :=
  let s := p.asids.foldl (fun s a => s.setAsid a { s.asid a with valid := true, part := BitVec.ofNat 8 pn }) s
  let s := p.streams.foldl (fun s n => s.setCstream n { s.cstream n with part := BitVec.ofNat 8 pn }) s
  let s := p.svcs.foldl (fun s n =>
    let v := s.svc n
    s.setSvc n (if v.running then v else if imageTaken s p then startSvc v pn p.image p.version else v)) s
  p.wins.foldl (fun s w =>
    let q := { s.port w.port with part := pn, winBase := w.base, winLen := w.len, dbOff := w.dbOff, dbAsid := w.dbAsid }
    { s with ports := mput s.ports w.port q }) s
/-- A partition's streams that its new record leaves out end with it. -/
def endStreams (s : State) (pn : Nat) (keep : List Nat) : State :=
  (s.strms.filter (fun c => c.2.part.toNat = pn && !keep.contains c.1)).foldl (fun s c =>
    (dropWindows s c.1).setCstream c.1 { c.2.closed with part := 255 }) s
/-- PARTITION_CHANGE; a part in recovery has no partitions (R18, R438). -/
def execPartitionChange (pn : Nat) (p : Option Partition) (s : State) : Host.Outcome State Fault Refusal :=
  .next (if 16 ≤ pn || !s.up then s
    else
      match p with
      | some p =>
        if p.svcs = [] || !partitionOk s pn p then s
        else
          let p := kernelOf s pn p
          let s := take_ (endStreams (release s pn p) pn p.streams) pn p
          { s.setPart pn { s.partOr pn with record := settleImage s p } with
            versions := if p.imageOk then mput s.versions 1 (max (mget 0 s.versions 1) p.version) else s.versions }
      | none =>
        if s.roles.any (fun r => r.2.st != .free && r.2.part.toNat = pn) then s
        else
          let s := endStreams (release s pn Part.none.record) pn []
          { s with
            parts := mdel s.parts pn
            msets := s.msets.filter (fun m => m.1 / 64 ≠ pn)
            bars := s.bars.filter (fun b => b.part ≠ pn)
            contribs := s.contribs.filter (fun c => c.part ≠ pn) })

end Sys2Proof.Machine
end

