-- ==== Sys2Proof/Machine/Outside.lean ====
section
/-! DEFINITION. The outside of the part: optical ports and hosts (18_spaces_tenants R383, R387 to R391, 11_ordering R279,
23_upkeep R435), management (R386), service-core firmware (R434), power and cooling (R437), bring-up (R438), quotes (R441), and
the vectors that reach a neighbour (09_kernel_state R211). -/

namespace Sys2Proof.Machine

def State.setPort (s : State) (p : Nat) (x : Port) : State := { s with ports := mput s.ports p x }

/-! ### Neighbour links (R211) -/

/-- Mark the oldest vector under way as arrived, 4 cycles after its push. -/
def arriveFirst (cycle : Nat) : List ChanVec → List ChanVec
  | [] => []
  | v :: t => if v.arrived then v :: arriveFirst cycle t else if v.at_ + 4 ≤ cycle then { v with arrived := true } :: t else v :: t
/-- LINK_VECTOR_ARRIVE: a vector reaches role slot of a core over its channel from a direction. -/
def execLinkVectorArrive (core : BitVec 8) (dir : Nat) (slot : BitVec 2) (s : State) : Host.Outcome State Fault Refusal :=
  let c := srcChan (4 * core.toNat + slot.toNat) dir
  .next (s.setChan c (arriveFirst s.cycle ((s.chan c).take 8) ++ (s.chan c).drop 8))

/-! ### Host ports (R279, R389, R390) -/

/-- A HOST port that takes transactions. -/
def hostOpen (q : Port) : Bool := !q.peer && q.takes
/-- The first part that a request has still to do and that goes over port p: to its host, to a peer (R388), to a Curtain unit of another
rank (R417). -/
def overPort (s : State) (r : Role) (a : Access) (p : Nat) : Option Nat :=
  if a.stat == .pending then ((List.range a.parts).filter (a.done ≤ ·)).find? (fun i => partPort s r a i == some p) else none
/-- The address at which a copy under way is to read or to write its next granule over port p. -/
def CopyJob.overPort (s : State) (r : Role) (c : CopyJob) (p : Nat) : Option Word :=
  if c.finished || c.fault.isSome || c.held || !(0 < c.done || c.buf.isSome || copyReady s r c) then none
  else ((c.next.flatMap cutLine).find? (fun x => (c.spots s r x).any (fun y => portOf s r y.1 == some p))).map (fun x => BitVec.ofNat 64 x.1)
/-- R391: outstanding transactions over a port end with a link error, at the address that they were for. -/
def failOver (s : State) (p : Nat) : State :=
  { s with roles := s.roles.map (fun r => (r.1, { r.2 with
      acc := r.2.acc.map (fun a => match overPort s r.2 a p with
        | some i => { a with stat := .faulted tPOISON (match a.kind with | .win _ => a.addr | _ => a.partAddr i) 0xFFFE 0 }
        | none => a)
      copies := r.2.copies.map (fun c => match c.overPort s r.2 p with
        | some a => { c with fault := some (tPOISON, a, 0xFFFE) }
        | none => c) })) }
/-- R385: a host access that violates: logged, and the port is frozen; what is outstanding over it ends with an error. -/
def portViolates (s : State) (p off : Nat) : State :=
  ((failOver s p).logViol 2 p (BitVec.ofNat 64 off)).setPort p { s.port p with frozen := true }
/-- The physical address of a range of a port's window, if the port's window and its partition's windows hold it. -/
def hostRange (s : State) (p off n : Nat) : Option Nat :=
  let q := s.port p
  let a := q.winBase + off
  if off + n ≤ q.winLen && rangeIn s (s.partOr q.part).record a n then some a else none
/-- R334: bytes that no host access may touch: those of a cue page. -/
def hostBarred (s : State) (a n : Nat) : Bool :=
  (granules a n).any (fun g => s.tag (64 * g) != tagVALUE || mappedAs s 2 (64 * g))
/-- R321: bytes of a live pool block, which only the pool unit writes, lie in a range. -/
def liveIn (s : State) (a n : Nat) : Bool := 0 < n && (List.range ((a % 256 + n + 255) / 256)).any (fun i => liveBlock s (256 * (a / 256 + i)))
/-- The doorbell page of a port holds an offset. -/
def inDoorbell (q : Port) (off : Nat) : Bool := q.dbOff ≤ off && off < q.dbOff + 65536
/-- The notice of a dropped doorbell write (R390, R431). -/
def doorbellDrop (s : State) (p : Nat) : State := s.notice (s.port p).part 0 2 p 0
/-- R390: the arrival that a doorbell write carries. -/
def doorbellArrival (q : Port) (p : Nat) (data : List Byte) : Arrival :=
  { asid := q.dbAsid, handler := leWord ((data.drop 8).take 8), payload := data.drop 16,
    sender := BitVec.ofNat 64 (p + 3 * 2 ^ 32), x4 := 0 }
/-- Deliver the arrival that a port holds. -/
def retryHeld (s : State) (p : Nat) : State :=
  match (s.port p).held with
  | none => s
  | some (core, a) =>
    match s.accept core a with
    | some s' => s'.setPort p { s'.port p with held := none }
    | none => s
/-- A doorbell write, on a port that holds nothing. -/
def doorbellWrite (s : State) (p off : Nat) (data : List Byte) : State :=
  let q := s.port p
  let t := leNat (data.take 8)
  let a := doorbellArrival q p data
  if off ≠ q.dbOff || data.length < 17 || 256 < data.length || 256 ≤ t || !(s.partOr q.part).record.cores.contains t || a.handler.toNat % 32 ≠ 0 then
    doorbellDrop s p
  else
    match s.accept t a with
    | some s' => s'
    | none => s.setPort p { q with held := some (t, a) }
/-- A posted write to memory, at system scope. -/
def plainHostWrite (s : State) (p off : Nat) (data : List Byte) : State :=
  if data = [] || 256 < data.length then s
  else
    match hostRange s p off data.length with
    | none => portViolates s p off
    | some a => if hostBarred s a data.length || liveIn s a data.length then s else s.memWrite a data
/-- A posted write as it arrives; one behind a held doorbell waits. -/
def postedWrite (s : State) (p off : Nat) (data : List Byte) : State :=
  if !hostOpen (s.port p) then s
  else
    let s := retryHeld s p
    if (s.port p).held.isSome then s
    else if inDoorbell (s.port p) off && off < (s.port p).winLen then doorbellWrite s p off data
    else plainHostWrite s p off data
/-- HOST_WRITE (R279): stores are performed in the order of these steps. -/
def execHostWrite (p off : Nat) (data : List Byte) (s : State) : Host.Outcome State Fault Refusal := .next (postedWrite s p off data)
/-- HOST_DOORBELL (R390). -/
def execHostDoorbell (p off : Nat) (data : List Byte) (s : State) : Host.Outcome State Fault Refusal :=
  .next (postedWrite s p off data)
/-- HOST_READ (R279): the bytes that the host reads; none where the read ends with an error (R429). -/
def execHostRead (p off n : Nat) (s : State) : Host.Outcome State Fault Refusal :=
  .next (if !hostOpen (s.port p) || n = 0 || 256 < n then s
    else
      let s := retryHeld s p
      if (s.port p).held.isSome then s
      else
        match hostRange s p off n with
        | none => portViolates s p off
        | some a =>
          if hostBarred s a n || memPoisoned s a n then { s with hostReads := s.hostReads ++ [[]] }
          else { s with hostReads := s.hostReads ++ [s.memRead a n] })

/-! ### Links (R387, R391, R435) -/

/-- LINK_DOWN. -/
def execLinkDown (p : Nat) (s : State) : Host.Outcome State Fault Refusal :=
  .next (if 12 ≤ p || !(s.port p).up then s else (failOver s p).setPort p { s.port p with up := false })
/-- LINK_TRAINED. -/
def execLinkTrained (p : Nat) (s : State) : Host.Outcome State Fault Refusal :=
  .next (if 12 ≤ p then s else s.setPort p { s.port p with up := true })
/-- HOST_HOT_RESET (R435). -/
def execHostHotReset (p : Nat) (s : State) : Host.Outcome State Fault Refusal :=
  let q := s.port p
  .next (if 12 ≤ p || q.peer then s
    else
      let s := (failOver s p).setPort p { q with frozen := false, up := false }
      if q.winLen = 0 then s else s.notice q.part 0 1 p 0)
/-- FLIT_RESEND (R387): the flit comes again from the replay buffer, in order: nothing else changes. -/
def execFlitResend (_p : Nat) (s : State) : Host.Outcome State Fault Refusal := .next s
/-- PORT_REENABLE (R385). -/
def execPortReenable (p : Nat) (s : State) : Host.Outcome State Fault Refusal :=
  .next (if 12 ≤ p then s else s.setPort p { s.port p with frozen := false })

/-! ### Drives (R383) -/

/-- The partition that holds a queue pair of a drive. -/
def queueOwner (s : State) (drive queue : Nat) : Option Nat := (s.parts.find? (fun p => p.2.record.nvme.contains (256 * drive + queue))).map (·.1)
/-- NVME_DMA: a drive that serves a queue pair, for a command on a namespace or for the queue itself, stores data, or reads len bytes. A
namespace that is not the partition's, what is outside the windows of the partition that owns the queue, a read of a poisoned granule and
a store into a live pool block (R321; log 38) end with a data transfer error, false in the log. A queue that nobody holds is not served. -/
def execNvmeDma (x : DriveCmd) (pa len : Nat) (data : Option (List Byte)) (s : State) : Host.Outcome State Fault Refusal :=
  let n := match data with | some d => d.length | none => len
  let done (s : State) (b : Bool) : State := { s with nvmeLog := s.nvmeLog ++ [b] }
  .next (match queueOwner s x.drive x.queue with
    | none => s
    | some pn =>
      let p := (s.partOr pn).record
      if n = 0 || !rangeIn s p pa n || !x.ns.all (fun i => p.namespaces.contains (x.drive, i)) then done s false
      else
        match data with
        | some d => if liveIn s pa n then done s false else done (s.memWrite pa d) true
        | none => done s (!memPoisoned s pa n))

/-! ### Management (R386) -/

/-- A write by a master that is not the owner is refused. -/
def notOwner (s : State) : State := { s with mgmtRefused := s.mgmtRefused + 1 }
/-- R386: a management master reads, or writes, the management space: the owner is heard, another's write is refused. -/
def mgmtAccess (m : Nat) (write : Bool) (s : State) : State :=
  if 4 ≤ m then s
  else if s.mgmtOwner = some m then { s with mgmtLast := s.cycle }
  else if write then notOwner s else s
/-- The owner has sent nothing for 2 s. -/
def ownerSilent (s : State) : Bool := s.mgmtLast + usCycles 2000000 ≤ s.cycle
/-- MGMT_CLAIM. -/
def execMgmtClaim (m : Nat) (s : State) : Host.Outcome State Fault Refusal :=
  .next (if 4 ≤ m then s
    else
      match s.mgmtOwner with
      | none => { s with mgmtOwner := some m, mgmtLast := s.cycle }
      | some o => if o = m || ownerSilent s then { s with mgmtOwner := some m, mgmtLast := s.cycle } else notOwner s)
/-- MGMT_HANDOVER. -/
def execMgmtHandover (m next : Nat) (s : State) : Host.Outcome State Fault Refusal :=
  .next (if 4 ≤ m || 4 ≤ next then s
    else if s.mgmtOwner = some m then { s with mgmtOwner := some next, mgmtLast := s.cycle } else notOwner s)
/-- MGMT_OWNER_TIMEOUT: 2 s without a word from the owner. -/
def execMgmtOwnerTimeout (m : Nat) (s : State) : Host.Outcome State Fault Refusal :=
  .next (if m < 4 && s.mgmtOwner.isSome && ownerSilent s then
    { s with mgmtOwner := some m, mgmtLast := s.cycle } else s)

/-! ### Service cores (R379, R385, R434, R440) -/

/-- Notice 4 stands first in a service core's queue. -/
def noticeFirst (v : Svc) (n : Nat) : Svc :=
  let e : Word := BitVec.ofNat 64 (n + 4 * 2 ^ 16)
  let q := e :: v.queue
  { v with queue := q.take 256, waiting := q.drop 256 ++ v.waiting }
/-- KERNEL_IMAGE_SWITCH: one service core goes over to an image; one whose signature fails, or whose version is below the highest
accepted, is refused. The partition's image is the new one once all its service cores that run run it. -/
def execKernelImageSwitch (n image version : Nat) (sigOk : Bool) (s : State) : Host.Outcome State Fault Refusal :=
  .next (match s.svcPart n with
    | none => s
    | some pn =>
      if !sigOk || version < mget 0 s.versions 1 || (s.svc n).frozen then s
      else
        let s := s.setSvc n (noticeFirst (startSvc (s.svc n) pn image version) n)
        let p := s.partOr pn
        { s.setPart pn { p with record := settleImage s { p.record with imageOk := true } } with versions := mput s.versions 1 version })
/-- SERVICE_CORE_RESTART (R385). -/
def execServiceCoreRestart (n : Nat) (s : State) : Host.Outcome State Fault Refusal :=
  .next (match s.svcPart n with
    | none => s
    | some pn =>
      let v := { s.svc n with frozen := false }
      if !(s.svc n).frozen then s
      else if (s.partOr pn).record.imageOk then s.setSvc n (startSvc v pn v.image v.version)
      else s.setSvc n { v with running := false })

/-! ### Accesses of control-die cores (R7, R370, R378, R385, R429) -/

/-- A service core takes it in the mode that its delegation gives; the others in machine mode (log 43). -/
def accessFault (s : State) (by_ : Master) (cause pa : Nat) : State :=
  match by_ with
  | .svc n => s.setSvc n ((s.svc n).faulted (if (s.svc n).deleg then .hs else .machine) cause pa)
  | .sched => { s with scheduler := s.scheduler.faulted .machine cause pa }
  | .monitor => { s with monitor := s.monitor.faulted .machine cause pa }
/-- What a service core's load returned. -/
def loaded (s : State) (by_ : Master) (w : Nat) : State :=
  match by_ with
  | .svc n => s.setSvc n { s.svc n with lastRead := BitVec.ofNat 64 w }
  | _ => s
/-- R378: a control-die core reaches memory: a service core that of its partition's windows only. -/
def dieReaches (s : State) (by_ : Master) (pa n : Nat) : Bool :=
  match by_ with
  | .svc _ => (match masterPart s by_ with | some pn => rangeIn s (s.partOr pn).record pa n | none => false)
  | _ => true
/-- A read of n bytes of the registers: those of the doubleword at their address. The stop queue is popped by it (R360). -/
def dieRegLoad (s : State) (by_ : Master) (a n : Nat) : State :=
  let d := a / 8 * 8
  if readBarred s by_ d then violate s by_ (BitVec.ofNat 64 a)
  else if d = 0xF0010000 then (match by_ with | .svc m => nextOf s (execStopQueueRead m s) | _ => s)
  else loaded s by_ (regValue s d / 2 ^ (8 * (a % 8)) % 2 ^ (8 * min n (8 - a % 8)))
/-- A store to the registers: the bytes of one doubleword, beside those last written; in the tag window the bytes stored alone (R384). -/
def dieRegStore (s : State) (by_ : Master) (a : Nat) (bs : List Byte) : State :=
  if 0xF0030100 ≤ a && a < 0xF0030200 then
    (bs.take (8 - a % 8)).zipIdx.foldl (fun s x => nextOf s (execTagWindowWrite by_ (a - 0xF0030100 + x.2) x.1 s)) s
  else
  let old := natLe 8 (regValue s (a / 8 * 8))
  nextOf s (execRegisterWrite by_ (a / 8 * 8) (leWord ((old.take (a % 8) ++ bs ++ old.drop (a % 8 + bs.length)).take 8)) s)
/-- R370: a reserved region. -/
def noRegion (pa : Nat) : Bool := let g := paRegion pa; g = 6 || g = 7 || 9 ≤ g
/-- An access to memory in a reserved region (R370; DEDUCED, log 43), or that reads poisoned bytes, faults; f is what it does otherwise. -/
def dieMem (s : State) (by_ : Master) (pa n cause : Nat) (reads : Bool) (f : State → Nat → State) : State :=
  let a := diePa pa
  if noRegion pa then accessFault s by_ cause pa
  else if !dieReaches s by_ a n then violate s by_ (BitVec.ofNat 64 pa)
  else if reads && memPoisoned s a n then accessFault s by_ cause pa
  else f s a
/-- R321: a store of a control-die core leaves a live pool block as it is, but that a service core clears LIVE (log 38). -/
def dieStore (s : State) (by_ : Master) (a : Nat) (bs : List Byte) : State :=
  if !liveIn s a bs.length then s.memWrite a bs
  else bs.zipIdx.foldl (fun t x =>
    let y := a + x.2
    if !liveBlock s y then t.memWrite y [x.1]
    else if y % 256 = 17 && !x.1.getLsbD 0 && (masterPart s by_).isSome then t.memWrite y [readByte t.mem y &&& 0xFE]
    else t) s
/-- An access of a control-die core. Addresses of region 0 below 2^32 are its registers; a fetch from them gives nothing. The 64 KiB that
become, or were, a core's arrival area have no address space as last occupant (R21). -/
def dieAccess (by_ : Master) (op : DieOp) (s : State) : State :=
  if !awake s by_ then s
  else
    match op with
    | .load pa n => if pa < 2 ^ 32 then dieRegLoad s by_ pa n else dieMem s by_ pa n 5 true (fun s a => loaded s by_ (memNat s a (min n 8)))
    | .store pa bs => if pa < 2 ^ 32 then dieRegStore s by_ pa bs else dieMem s by_ pa bs.length 7 false (fun s a => dieStore s by_ a bs)
    | .amo pa bs =>
      if pa < 2 ^ 32 then
        if readBarred s by_ (pa / 8 * 8) then violate s by_ (BitVec.ofNat 64 pa)
        else dieRegStore (dieRegLoad s by_ pa bs.length) by_ pa bs
      else dieMem s by_ pa bs.length 7 true (fun s a => dieStore (loaded s by_ (memNat s a (min bs.length 8))) by_ a bs)
    | .fetch pa n =>
      if pa < 2 ^ 32 then (if readBarred s by_ (pa / 8 * 8) then violate s by_ (BitVec.ofNat 64 pa) else s)
      else dieMem s by_ pa n 1 true (fun s _ => s)
    | .arrBase core v =>
      if by_ == .sched && v.toNat % 65536 = 0 && v.toNat + 65536 ≤ 2 ^ 22 then
        let c := s.core core.toNat
        let unit (a : Nat) : Nat := 64 * core.toNat + a / 65536
        { s.setCore core.toNat { c with arrBase := v } with owners := mdel (mdel s.owners (unit c.arrBase.toNat)) (unit v.toNat) }
      else s

/-! ### Optics, power and cooling (R436, R437) -/

/-- HEATER_RETUNE (R436): timing only. -/
def execHeaterRetune (s : State) : Host.Outcome State Fault Refusal := .next s
def noticeAll (s : State) (code : Nat) : State := (s.parts.map (·.1)).foldl (fun s p => s.notice p 0 code 0 0) s
/-- THROTTLE_BEGIN: idle cycles change timing only. -/
def execThrottleBegin (s : State) : Host.Outcome State Fault Refusal :=
  .next (if s.throttled then s else noticeAll { s with throttled := true } 6)
/-- THROTTLE_END. -/
def execThrottleEnd (s : State) : Host.Outcome State Fault Refusal :=
  .next (if s.throttled then noticeAll { s with throttled := false } 7 else s)
/-- Role k is hard-stopped, and its launch will be brought back as after pre-emption. -/
def hardStopNow (s : State) (k : Nat) : State :=
  if (s.role k).st != .running || retires s k then s else hardStopped s k
/-- EMERGENCY_STOP: every role is hard-stopped, and no launch is bound until CONDITION_CLEARED; one that comes to run meanwhile is
hard-stopped too (HARD_STOP). -/
def execEmergencyStop (s : State) : Host.Outcome State Fault Refusal :=
  .next ((s.roles.map (·.1)).foldl hardStopNow { s with emergency := true })
/-- CONDITION_CLEARED. -/
def execConditionCleared (s : State) : Host.Outcome State Fault Refusal := .next { s with emergency := false }

/-- What a reset of the part keeps: module flash (R18, R440), memory that is not the part's, and the model's own fields. Its links are
down, DTIME stands, and no firmware runs. -/
def resetPart (s : State) : State :=
  { State.reset with
    mem := s.mem.filter (fun c => 2 ≤ paRegion c.1)
    versions := s.versions
    flashVer := s.flashVer
    flash := s.flash
    grade := s.grade
    certs := s.certs
    replaced := s.replaced
    ports := (List.range 12).map (fun p => (p, { Port.reset with up := false }))
    sched := s.sched
    fresh := s.fresh
    cur := s.cur
    clock := false
    up := false }
/-- POWER_RESET. -/
def execPowerReset (s : State) : Host.Outcome State Fault Refusal := .next (resetPart s)
/-- R440: an image of a kind is accepted. -/
def imgOk (s : State) (kind : Nat) (i : Img) : Bool := i.sigOk && mget 0 s.versions kind ≤ i.version
/-- R18, R440: the signed records of module flash have versions that are accepted: repair maps, speed grade, certificate chain. -/
def recordsOk (s : State) : Bool := [3, 4, 5].all (fun k => mget 0 s.versions k ≤ mget 0 s.flashVer k)
/-- R438: the steps of the bring-up, 1 to 7: what each leaves. -/
def bringUp (fw : Firmware) (peers : List Nat) (n : Nat) (s : State) : State :=
  match n with
  | 1 => { s with monImage := fw.mon.num, versions := mput s.versions 0 fw.mon.version }
  | 2 => { s with versions := [3, 4, 5].foldl (fun m k => mset 0 m k (mget 0 s.flashVer k)) s.versions }
  | 3 => { s with place := s.flash }
  | 5 => { s with ports := s.ports.map (fun q => (q.1, { q.2 with up := true, peer := peers.contains q.1 })) }
  | 6 => { s with clock := true }
  | 7 => { s with schImage := fw.sch.num, versions := mput s.versions 2 fw.sch.version, up := true }
  | _ => s
/-- A step cannot be taken: an image or a record is refused, or it fails. -/
def stepFails (s : State) (fw : Firmware) (n : Nat) : Bool :=
  fw.fail == some n || (n = 1 && !imgOk s 0 fw.mon) || (n = 2 && !recordsOk s) || (n = 7 && !imgOk s 2 fw.sch)
/-- RESET_RELEASE (R438): the bring-up of a part that is in reset. A step that fails stops the sequence there, and leaves the part in the
recovery state (R18). -/
def execResetRelease (fw : Firmware) (peers : List Nat) (s : State) : Host.Outcome State Fault Refusal :=
  .next (if s.up then s
    else
      let t := resetPart s
      (([1, 2, 3, 4, 5, 6, 7] : List Nat).takeWhile (fun n => !stepFails t fw n)).foldl (fun s n => bringUp fw peers n s) t)
/-- R18, R20, R440: a signed update replaces a record of module flash, to be loaded at the next reset; one whose signature fails, or whose
version is below the highest accepted of its kind, is refused. -/
def execUpdate (u : Update) (s : State) : State :=
  let kind := match u.record with | .repair _ => 3 | .grade _ => 4 | .certs _ => 5
  if !u.sigOk || u.version < mget 0 s.versions kind then s
  else
    let s := { s with flashVer := mput s.flashVer kind u.version, versions := mput s.versions kind u.version }
    match u.record with
    | .repair m => { s with flash := m }
    | .grade n => { s with grade := n }
    | .certs bs => { s with certs := bs }

/-! ### Quotes (R441) -/

/-- The kernel-list entry of a partition: zero where no kernel runs (R379). -/
def quoteEntry (s : State) (only : Option Nat) (p : Nat) : List Byte :=
  match s.part? p with
  | some x => if only.all (· == p) && x.record.imageOk then padTo 32 (Config.imageHash 1 x.record.image) else natLe 32 0
  | none => natLe 32 0
def quoteBody (s : State) (only : Option Nat) (nonce : List Byte) : List Byte :=
  natLe 8 deviceNumber ++ nonce ++ padTo 32 (Config.imageHash 0 s.monImage) ++ padTo 32 (Config.imageHash 2 s.schImage) ++
  shake256 (Config.signedRecords s.flash s.grade s.certs s.flashVer) ++ natLe 8 s.dtime ++ (List.range 16).flatMap (quoteEntry s only)
/-- QUOTE: for the management owner (the root monitor acts for it), or for a service core. -/
def execQuote (by_ : Master) (nonce : List Byte) (s : State) : Host.Outcome State Fault Refusal :=
  let give (only : Option Nat) : State :=
    let b := quoteBody s only nonce
    { s with quotes := s.quotes ++ [b ++ padTo 29792 (Config.signature b)] }
  .next (if nonce.length ≠ 32 then s
    else
      match by_ with
      | .monitor => if s.mgmtOwner.isSome then { give none with mgmtLast := s.cycle } else s
      | .svc _ => if awake s by_ then give (masterPart s by_) else s
      | .sched => s)

end Sys2Proof.Machine
end

