-- ==== Sys2Proof/Machine/Bundle.lean ====
section
/-! DEFINITION. Bundles (03_core_cycle R51 to R53): the syllables with S = 1 at the heads of a role's clusters issue together. -/

namespace Sys2Proof.Machine

/-- A syllable as it issues: its length in bytes, its S bit, its body; none for the steps that are not syllables. -/
def issueOf (i : Instr) : Option (Nat × Bool × Iss Flow) :=
  match i with
  | .nop a0 => some (8, a0.s, resNop a0)
  | .hint a0 a1 => some (8, a0.s, resHint a0 a1)
  | .hint7F a0 a1 => some (8, a0.s, resHint7F a0 a1)
  | .br a0 a1 => some (8, a0.s, resBr a0 a1)
  | .brpAny a0 a1 a2 a3 => some (8, a0.s, resBrpAny a0 a1 a2 a3)
  | .brpAll a0 a1 a2 a3 => some (8, a0.s, resBrpAll a0 a1 a2 a3)
  | .brpNone a0 a1 a2 a3 => some (8, a0.s, resBrpNone a0 a1 a2 a3)
  | .brx a0 a1 a2 a3 a4 => some (8, a0.s, resBrx a0 a1 a2 a3 a4)
  | .call a0 a1 a2 => some (8, a0.s, resCall a0 a1 a2)
  | .ret a0 a1 => some (8, a0.s, resRet a0 a1)
  | .jmpx a0 a1 a2 => some (8, a0.s, resJmpx a0 a1 a2)
  | .loop a0 a1 a2 => some (8, a0.s, resLoop a0 a1 a2)
  | .loopi a0 a1 a2 => some (8, a0.s, resLoopi a0 a1 a2)
  | .lrec a0 a1 a2 a3 => some (8, a0.s, resLrec a0 a1 a2 a3)
  | .halt a0 => some (8, a0.s, resHalt a0)
  | .yield a0 => some (8, a0.s, resYield a0)
  | .trap a0 a1 => some (8, a0.s, resTrap a0 a1)
  | .tfence a0 => some (8, a0.s, resTfence a0)
  | .seqdef a0 a1 => some (8, a0.s, resSeqdef a0 a1)
  | .seqnext a0 a1 a2 => some (8, a0.s, resSeqnext a0 a1 a2)
  | .add a0 a1 => some (8, a0.s, resAdd a0 a1)
  | .sub a0 a1 => some (8, a0.s, resSub a0 a1)
  | .mul a0 a1 => some (8, a0.s, resMul a0 a1)
  | .mulh a0 a1 => some (8, a0.s, resMulh a0 a1)
  | .mulhu a0 a1 => some (8, a0.s, resMulhu a0 a1)
  | .madd a0 a1 => some (8, a0.s, resMadd a0 a1)
  | .div a0 a1 => some (8, a0.s, resDiv a0 a1)
  | .divu a0 a1 => some (8, a0.s, resDivu a0 a1)
  | .rem a0 a1 => some (8, a0.s, resRem a0 a1)
  | .remu a0 a1 => some (8, a0.s, resRemu a0 a1)
  | .and a0 a1 => some (8, a0.s, resAnd a0 a1)
  | .or a0 a1 => some (8, a0.s, resOr a0 a1)
  | .xor a0 a1 => some (8, a0.s, resXor a0 a1)
  | .andn a0 a1 => some (8, a0.s, resAndn a0 a1)
  | .shl a0 a1 => some (8, a0.s, resShl a0 a1)
  | .shr a0 a1 => some (8, a0.s, resShr a0 a1)
  | .sar a0 a1 => some (8, a0.s, resSar a0 a1)
  | .rol a0 a1 => some (8, a0.s, resRol a0 a1)
  | .ror a0 a1 => some (8, a0.s, resRor a0 a1)
  | .min a0 a1 => some (8, a0.s, resMin a0 a1)
  | .max a0 a1 => some (8, a0.s, resMax a0 a1)
  | .minu a0 a1 => some (8, a0.s, resMinu a0 a1)
  | .maxu a0 a1 => some (8, a0.s, resMaxu a0 a1)
  | .clz a0 a1 => some (8, a0.s, resClz a0 a1)
  | .ctz a0 a1 => some (8, a0.s, resCtz a0 a1)
  | .popc a0 a1 => some (8, a0.s, resPopc a0 a1)
  | .sel a0 a1 => some (8, a0.s, resSel a0 a1)
  | .sext a0 a1 => some (8, a0.s, resSext a0 a1)
  | .zext a0 a1 => some (8, a0.s, resZext a0 a1)
  | .adds a0 a1 => some (8, a0.s, resAdds a0 a1)
  | .subs a0 a1 => some (8, a0.s, resSubs a0 a1)
  | .msub a0 a1 => some (8, a0.s, resMsub a0 a1)
  | .aluiAdd a0 a1 => some (8, a0.s, resAluiAdd a0 a1)
  | .aluiMul a0 a1 => some (8, a0.s, resAluiMul a0 a1)
  | .aluiAnd a0 a1 => some (8, a0.s, resAluiAnd a0 a1)
  | .aluiOr a0 a1 => some (8, a0.s, resAluiOr a0 a1)
  | .aluiXor a0 a1 => some (8, a0.s, resAluiXor a0 a1)
  | .aluiShl a0 a1 => some (8, a0.s, resAluiShl a0 a1)
  | .aluiShr a0 a1 => some (8, a0.s, resAluiShr a0 a1)
  | .aluiSar a0 a1 => some (8, a0.s, resAluiSar a0 a1)
  | .aluiRol a0 a1 => some (8, a0.s, resAluiRol a0 a1)
  | .aluiRor a0 a1 => some (8, a0.s, resAluiRor a0 a1)
  | .aluiMin a0 a1 => some (8, a0.s, resAluiMin a0 a1)
  | .aluiMax a0 a1 => some (8, a0.s, resAluiMax a0 a1)
  | .aluiMinu a0 a1 => some (8, a0.s, resAluiMinu a0 a1)
  | .aluiMaxu a0 a1 => some (8, a0.s, resAluiMaxu a0 a1)
  | .aluiAdds a0 a1 => some (8, a0.s, resAluiAdds a0 a1)
  | .movk a0 a1 a2 => some (8, a0.s, resMovk a0 a1 a2)
  | .movkh a0 a1 a2 => some (8, a0.s, resMovkh a0 a1 a2)
  | .lea a0 a1 => some (8, a0.s, resLea a0 a1)
  | .cmp a0 a1 a2 => some (8, a0.s, resCmp a0 a1 a2)
  | .pand a0 a1 a2 a3 => some (8, a0.s, resPand a0 a1 a2 a3)
  | .por a0 a1 a2 a3 => some (8, a0.s, resPor a0 a1 a2 a3)
  | .pxor a0 a1 a2 a3 => some (8, a0.s, resPxor a0 a1 a2 a3)
  | .pandn a0 a1 a2 a3 => some (8, a0.s, resPandn a0 a1 a2 a3)
  | .pnot a0 a1 a2 => some (8, a0.s, resPnot a0 a1 a2)
  | .pmov a0 a1 a2 => some (8, a0.s, resPmov a0 a1 a2)
  | .psetx a0 a1 => some (8, a0.s, resPsetx a0 a1)
  | .pgetx a0 a1 a2 a3 => some (8, a0.s, resPgetx a0 a1 a2 a3)
  | .pcnt a0 a1 a2 a3 => some (8, a0.s, resPcnt a0 a1 a2 a3)
  | .pfirst a0 a1 a2 a3 => some (8, a0.s, resPfirst a0 a1 a2 a3)
  | .plast a0 a1 a2 a3 => some (8, a0.s, resPlast a0 a1 a2 a3)
  | .qlen a0 a1 a2 a3 => some (8, a0.s, resQlen a0 a1 a2 a3)
  | .vadd a0 a1 => some (8, a0.s, resVadd a0 a1)
  | .vsub a0 a1 => some (8, a0.s, resVsub a0 a1)
  | .vmul a0 a1 => some (8, a0.s, resVmul a0 a1)
  | .vfma a0 a1 => some (8, a0.s, resVfma a0 a1)
  | .vfnma a0 a1 => some (8, a0.s, resVfnma a0 a1)
  | .vdiv a0 a1 => some (8, a0.s, resVdiv a0 a1)
  | .vmin a0 a1 => some (8, a0.s, resVmin a0 a1)
  | .vmax a0 a1 => some (8, a0.s, resVmax a0 a1)
  | .vabs a0 a1 => some (8, a0.s, resVabs a0 a1)
  | .vneg a0 a1 => some (8, a0.s, resVneg a0 a1)
  | .vadds a0 a1 => some (8, a0.s, resVadds a0 a1)
  | .vsubs a0 a1 => some (8, a0.s, resVsubs a0 a1)
  | .vmulhi a0 a1 => some (8, a0.s, resVmulhi a0 a1)
  | .vand a0 a1 => some (8, a0.s, resVand a0 a1)
  | .vor a0 a1 => some (8, a0.s, resVor a0 a1)
  | .vxor a0 a1 => some (8, a0.s, resVxor a0 a1)
  | .vandn a0 a1 => some (8, a0.s, resVandn a0 a1)
  | .vnot a0 a1 => some (8, a0.s, resVnot a0 a1)
  | .vshl a0 a1 => some (8, a0.s, resVshl a0 a1)
  | .vshr a0 a1 => some (8, a0.s, resVshr a0 a1)
  | .vsar a0 a1 => some (8, a0.s, resVsar a0 a1)
  | .vcmp a0 a1 a2 => some (8, a0.s, resVcmp a0 a1 a2)
  | .vsel a0 a1 => some (8, a0.s, resVsel a0 a1)
  | .vmov a0 a1 => some (8, a0.s, resVmov a0 a1)
  | .vbcast a0 a1 => some (8, a0.s, resVbcast a0 a1)
  | .vlane a0 a1 => some (8, a0.s, resVlane a0 a1)
  | .vins a0 a1 => some (8, a0.s, resVins a0 a1)
  | .vcvt a0 a1 => some (8, a0.s, resVcvt a0 a1)
  | .vrecip a0 a1 => some (8, a0.s, resVrecip a0 a1)
  | .vrsqrt a0 a1 => some (8, a0.s, resVrsqrt a0 a1)
  | .vsqrt a0 a1 => some (8, a0.s, resVsqrt a0 a1)
  | .vexp2 a0 a1 => some (8, a0.s, resVexp2 a0 a1)
  | .vlog2 a0 a1 => some (8, a0.s, resVlog2 a0 a1)
  | .vtanh a0 a1 => some (8, a0.s, resVtanh a0 a1)
  | .vsigm a0 a1 => some (8, a0.s, resVsigm a0 a1)
  | .vredsum a0 a1 => some (8, a0.s, resVredsum a0 a1)
  | .vredmax a0 a1 => some (8, a0.s, resVredmax a0 a1)
  | .vredmin a0 a1 => some (8, a0.s, resVredmin a0 a1)
  | .vscansum a0 a1 => some (8, a0.s, resVscansum a0 a1)
  | .vperm a0 a1 => some (8, a0.s, resVperm a0 a1)
  | .vrot a0 a1 => some (8, a0.s, resVrot a0 a1)
  | .vzip a0 a1 => some (8, a0.s, resVzip a0 a1)
  | .vunzip a0 a1 => some (8, a0.s, resVunzip a0 a1)
  | .vrng a0 a1 => some (8, a0.s, resVrng a0 a1)
  | .vrngp a0 a1 => some (8, a0.s, resVrngp a0 a1)
  | .vquant a0 a1 => some (8, a0.s, resVquant a0 a1)
  | .vdeq a0 a1 => some (8, a0.s, resVdeq a0 a1)
  | .vscale a0 a1 => some (8, a0.s, resVscale a0 a1)
  | .mma a0 a1 => some (64, a0, resMma a0 a1)
  | .mmas a0 a1 a2 a3 => some (64, a0, resMmas a0 a1 a2 a3)
  | .mhad a0 a1 => some (64, a0, resMhad a0 a1)
  | .mdrain a0 a1 => some (64, a0, resMdrain a0 a1)
  | .mzero a0 a1 a2 => some (64, a0, resMzero a0 a1 a2)
  | .mloada a0 a1 => some (64, a0, resMloada a0 a1)
  | .mtrans a0 a1 a2 => some (64, a0, resMtrans a0 a1 a2)
  | .nestStepCommit _ => none
  | .nestRetire _ => none
  | .mwait a0 => some (8, a0.s, resMwait a0)
  | .mstat a0 a1 => some (8, a0.s, resMstat a0 a1)
  | .ld a0 a1 a2 => some (8, a0.s, resLd a0 a1 a2)
  | .st a0 a1 a2 => some (8, a0.s, resSt a0 a1 a2)
  | .ldt a0 a1 a2 => some (8, a0.s, resLdt a0 a1 a2)
  | .stt a0 a1 a2 => some (8, a0.s, resStt a0 a1 a2)
  | .ldv a0 a1 a2 => some (8, a0.s, resLdv a0 a1 a2)
  | .stv a0 a1 a2 => some (8, a0.s, resStv a0 a1 a2)
  | .gather a0 a1 a2 => some (8, a0.s, resGather a0 a1 a2)
  | .scatter a0 a1 a2 => some (8, a0.s, resScatter a0 a1 a2)
  | .atomAdd a0 a1 a2 => some (8, a0.s, resAtomAdd a0 a1 a2)
  | .atomAnd a0 a1 a2 => some (8, a0.s, resAtomAnd a0 a1 a2)
  | .atomOr a0 a1 a2 => some (8, a0.s, resAtomOr a0 a1 a2)
  | .atomXor a0 a1 a2 => some (8, a0.s, resAtomXor a0 a1 a2)
  | .atomMin a0 a1 a2 => some (8, a0.s, resAtomMin a0 a1 a2)
  | .atomMax a0 a1 a2 => some (8, a0.s, resAtomMax a0 a1 a2)
  | .atomMinu a0 a1 a2 => some (8, a0.s, resAtomMinu a0 a1 a2)
  | .atomMaxu a0 a1 a2 => some (8, a0.s, resAtomMaxu a0 a1 a2)
  | .atomSwap a0 a1 a2 => some (8, a0.s, resAtomSwap a0 a1 a2)
  | .atomCas a0 a1 a2 => some (8, a0.s, resAtomCas a0 a1 a2)
  | .atomf a0 a1 a2 => some (8, a0.s, resAtomf a0 a1 a2)
  | .atomfD a0 a1 a2 => some (8, a0.s, resAtomfD a0 a1 a2)
  | .barrierGenerationComplete _ _ _ => none
  | .fence a0 a1 a2 => some (8, a0.s, resFence a0 a1 a2)
  | .pref a0 a1 a2 => some (8, a0.s, resPref a0 a1 a2)
  | .copy a0 a1 => some (8, a0.s, resCopy a0 a1)
  | .copyComplete _ _ => none
  | .copyw a0 => some (8, a0.s, resCopyw a0)
  | .copys a0 a1 a2 => some (8, a0.s, resCopys a0 a1 a2)
  | .sdef a0 a1 => some (8, a0.s, resSdef a0 a1)
  | .snest a0 a1 => some (8, a0.s, resSnest a0 a1)
  | .sbind a0 a1 => some (8, a0.s, resSbind a0 a1)
  | .spos a0 a1 => some (8, a0.s, resSpos a0 a1)
  | .scommit a0 a1 => some (8, a0.s, resScommit a0 a1)
  | .sreset a0 a1 => some (8, a0.s, resSreset a0 a1)
  | .linkVectorArrive _ _ _ => none
  | .rdef a0 a1 a2 => some (8, a0.s, resRdef a0 a1 a2)
  | .racq a0 a1 a2 => some (8, a0.s, resRacq a0 a1 a2)
  | .rpub a0 a1 => some (8, a0.s, resRpub a0 a1)
  | .rrel a0 a1 => some (8, a0.s, resRrel a0 a1)
  | .rpoison a0 a1 => some (8, a0.s, resRpoison a0 a1)
  | .rstat a0 a1 a2 => some (8, a0.s, resRstat a0 a1 a2)
  | .barArrive a0 a1 a2 => some (8, a0.s, resBarArrive a0 a1 a2)
  | .barWait a0 a1 a2 => some (8, a0.s, resBarWait a0 a1 a2)
  | .msg a0 a1 a2 => some (8, a0.s, resMsg a0 a1 a2)
  | .msgDelivery _ _ => none
  | .spawn a0 a1 => some (8, a0.s, resSpawn a0 a1)
  | .spawnBind _ => none
  | .pclaim a0 a1 => some (8, a0.s, resPclaim a0 a1)
  | .ppub a0 a1 => some (8, a0.s, resPpub a0 a1)
  | .pabort a0 a1 => some (8, a0.s, resPabort a0 a1)
  | .pgrab a0 a1 a2 a3 => some (8, a0.s, resPgrab a0 a1 a2 a3)
  | .prel a0 a1 => some (8, a0.s, resPrel a0 a1)
  | .pstat a0 a1 => some (8, a0.s, resPstat a0 a1)
  | .poolRetire _ _ => none
  | .replyCommit _ _ => none
  | .cuemk a0 a1 => some (8, a0.s, resCuemk a0 a1)
  | .cueres a0 a1 => some (8, a0.s, resCueres a0 a1)
  | .cueresV a0 a1 a2 a3 a4 => some (8, a0.s, resCueresV a0 a1 a2 a3 a4)
  | .cuefail a0 a1 => some (8, a0.s, resCuefail a0 a1)
  | .cuepeek a0 a1 => some (8, a0.s, resCuepeek a0 a1)
  | .cuestat a0 a1 => some (8, a0.s, resCuestat a0 a1)
  | .accessServed _ _ => none
  | .cueLoadResend _ _ => none
  | .pendingTouchTake _ => none
  | .prompterQueueDispatch _ => none
  | .deepwait _ _ => none
  | .launch a0 a1 => some (8, a0.s, resLaunch a0 a1)
  | .lwait a0 a1 => some (8, a0.s, resLwait a0 a1)
  | .rdcsr a0 a1 a2 => some (8, a0.s, resRdcsr a0 a1 a2)
  | .wrcsr a0 a1 a2 a3 => some (8, a0.s, resWrcsr a0 a1 a2 a3)
  | .rdtime a0 a1 => some (8, a0.s, resRdtime a0 a1)
  | .recapp a0 a1 => some (8, a0.s, resRecapp a0 a1)
  | .wmark a0 a1 => some (8, a0.s, resWmark a0 a1)
  | .sidle a0 a1 => some (8, a0.s, resSidle a0 a1)
  | .wnext a0 a1 => some (8, a0.s, resWnext a0 a1)
  | .wpub a0 a1 => some (8, a0.s, resWpub a0 a1)
  | .wlate a0 a1 => some (8, a0.s, resWlate a0 a1)
  | .idleTimerTest => none
  | .curtainArrivalDispatch => none
  | .streamOpen _ _ => none
  | .streamClose _ _ => none
  | .bundleIssue _ => none
  | .watchdog _ => none
  | .bindRunning _ _ => none
  | .bindDormant _ _ => none
  | .freeSlot _ => none
  | .arrivalAccept _ _ => none
  | .arrivalStart _ => none
  | .bindRequest _ => none
  | .retirement _ => none
  | .stopRecord _ => none
  | .stopReportPost _ => none
  | .stopQueueRead _ => none
  | .restart _ _ => none
  | .switchout _ _ => none
  | .restore _ _ => none
  | .kill _ _ => none
  | .winfree _ _ => none
  | .winready _ _ => none
  | .launchBind _ => none
  | .quantumExpiry _ => none
  | .cleanStop _ => none
  | .hardStop _ => none
  | .yieldReport _ => none
  | .preemptedRebind _ => none
  | .launchComplete _ => none
  | .launchKill _ => none
  | .overflowRegisterWrite _ _ _ => none
  | .bump _ _ => none
  | .bumpComplete _ => none
  | .tagWindowSelect _ _ => none
  | .tagWindowWrite _ _ _ => none
  | .registerWrite _ _ _ => none
  | .placeTableChange _ _ _ => none
  | .uncorrectableError _ => none
  | .spareReplace _ _ => none
  | .scrub => none
  | .partitionChange _ _ => none
  | .kernelImageSwitch _ _ _ _ => none
  | .hostWrite _ _ _ => none
  | .hostRead _ _ _ => none
  | .hostDoorbell _ _ _ => none
  | .linkDown _ => none
  | .hostHotReset _ => none
  | .flitResend _ => none
  | .nvmeDma _ _ _ _ => none
  | .mgmtClaim _ => none
  | .mgmtHandover _ _ => none
  | .mgmtOwnerTimeout _ => none
  | .heaterRetune => none
  | .throttleBegin => none
  | .throttleEnd => none
  | .emergencyStop => none
  | .powerReset => none
  | .resetRelease _ _ => none
  | .quote _ _ => none
  | .linkTrained _ => none
  | .serviceCoreRestart _ => none
  | .portReenable _ => none
  | .conditionCleared => none

/-- A member of a bundle: its cluster, its length, its body. -/
abbrev Member := Cluster × Nat × Iss Flow

/-- R51: the members of the bundle, with the state after their fetches; none while a cluster has not arrived. -/
def gatherBundle (k : Nat) : List Cluster → State → Option (State × List Member)
  | [], s => some (s, [])
  | c :: t, s =>
    if ((s.role k).clu c).halted then gatherBundle k t s
    else
      match head s k c with
      | .trap .. => none
      | .instr _ (.halt _) => gatherBundle k t s
      | .instr s' i =>
        match issueOf i with
        | some (n, true, body) => (gatherBundle k t s').map (fun x => (x.1, (c, n, body) :: x.2))
        | _ => none

/-- Whose syllable issues. -/
def State.at_ (s : State) (k : Nat) (c : Cluster) : State :=
  { s with cur := { core := BitVec.ofNat 8 (k / 4), slot := BitVec.ofNat 2 k, cl := c } }

/-- R51: every member is ready on the role as it stands before the bundle. -/
def allReady (k : Nat) (ms : List Member) (s : State) : Bool :=
  ms.all (fun m => match commit m.2.1 m.2.2 (s.at_ k m.1) with | .error .wait => false | _ => true)
/-- The members commit one after another, in the order L, M, V, W, each reading the role as it stood before the bundle: the state, the
first stop, what follows each commit. What stands outside the snapshot (ring slots, stream positions, tile bytes, accumulator rows)
each finds as the members before it leave it, and a member that finds no room there makes the bundle wait: none (DESIGN CHOICE,
log 46: the spec gives no order and no visibility for these). -/
def runBundle (k : Nat) : List Member → State → Option (Cluster × Stop) → List (Cluster × Post) →
    Option (State × Option (Cluster × Stop) × List (Cluster × Post))
  | [], s, f, ps => some (s, f, ps)
  | (c, n, body) :: t, s, f, ps =>
    match commit n body (s.at_ k c) with
    | .ok (p, s') => runBundle k t s' f (ps ++ [(c, p)])
    | .error .wait => none
    | .error x => runBundle k t s (f.orElse (fun _ => some (c, x))) ps

/-- What the members read (R52, R53, R71, R369). -/
def snapOf (r : Role) : Snap :=
  { barA := r.barA, barW := r.barW, acc := r.acc, xs := r.xs, ps := r.ps, qs := r.qs, csrs := ((List.range 10) ++ (List.range 8).map (· + 16)).map (fun n => (n, csrVal r n)),
    nest := r.nest, raised := [] }
/-- The flags that the members raised are ORed in after their writes (R369), each enabled by the FLAGEN that the bundle leaves: R369 gives
an order for FLAGS alone (DESIGN CHOICE, log 46). -/
def endBundle (r : Role) (now k : Nat) : Role :=
  match r.snap with
  | some sn => { r with snap := none }.raiseAll now k sn.raised
  | none => r
/-- Several YIELDs of one bundle give one stop (R132). -/
def oneYield (seen : Bool) : List (Cluster × Nat × Nat × Word × Word) → List (Cluster × Nat × Nat × Word × Word)
  | [] => []
  | x :: t => if x.2.1 = 3 && seen then oneYield seen t else x :: oneYield (seen || x.2.1 = 3) t
/-- The stops that the members ask for (R132, R133). The record names the first, in the order L, M, V, W; the others have committed too, and
are not lost: the role makes them, one after another, when it is restarted (R355; DEDUCED, log 21). -/
def bundlePost (s : State) (k : Nat) (ps : List (Cluster × Post)) : State :=
  match oneYield false (ps.filterMap (fun x => x.2.map (fun p => (x.1, p)))) with
  | [] => s
  | (c, p) :: t => stopAlso (applyPost s k c (some p)) k t

/-- R53: the cluster that a stop at the bundle names for a fault of cluster c: it, or the first member where it has halted. -/
def stopCluster (r : Role) (c : Cluster) (ms : List Member) : Cluster :=
  if (r.clu c).halted then (ms.map (·.1)).headD c else c
/-- The bundle of role k, once its members are gathered in state s1. -/
def issueBundle (s s1 : State) (k : Nat) (ms : List Member) : State :=
  let s0 := s1.modRoleAt k (fun r => { r with snap := some (snapOf r) })
  if !allReady k ms s0 then s
  else
  match (s.role k).anyFault with
  | some (c, id) => deferredAt s k (stopCluster (s.role k) c ms) id
  | none =>
    if !(s.role k).performed then s
    else
    match runBundle k ms s0 none [] with
    | none => s
    | some (_, some (c, .trap code i0 i1), _) => takeStop s1 k 1 code c i0 i1 none
    | some (_, some (c, .deferred id), _) => deferredAt s1 k c id
    | some (_, some (_, .wait), _) => s
    | some (s2, none, ps) =>
      bundlePost { s2.modRoleAt k (fun r => endBundle r s2.cycle k) with cur := s.cur } k ps

/-- BUNDLE_ISSUE: every cluster of the role has arrived and is ready; every earlier access has been performed, or has faulted and stops the role
at the bundle (R53). -/
def execBundleIssue (rs : Slot) (s : State) : Host.Outcome State Fault Refusal :=
  let k := rs.key
  let r := s.role k
  .next (if r.st != .running then s
    else
      match gatherBundle k clusters s with
      | none => s
      | some (_, []) => s
      | some (s1, ms) => issueBundle s s1 k ms)

end Sys2Proof.Machine
end

