-- ==== Sys2Proof/Machine/Dispatch.lean ====
section
/-! DEFINITION. One arm per instruction: the meaning that it has. A syllable issues for the cluster that `cur` names; every other
step carries its agents in its operands. -/

namespace Sys2Proof.Machine

def exec (i : Instr) (s : State) : Host.Outcome State Fault Refusal :=
  match i with
  | .nop a0 => Sys2Proof.Machine.execNop a0 s
  | .hint a0 a1 => Sys2Proof.Machine.execHint a0 a1 s
  | .hint7F a0 a1 => Sys2Proof.Machine.execHint7F a0 a1 s
  | .br a0 a1 => Sys2Proof.Machine.execBr a0 a1 s
  | .brpAny a0 a1 a2 a3 => Sys2Proof.Machine.execBrpAny a0 a1 a2 a3 s
  | .brpAll a0 a1 a2 a3 => Sys2Proof.Machine.execBrpAll a0 a1 a2 a3 s
  | .brpNone a0 a1 a2 a3 => Sys2Proof.Machine.execBrpNone a0 a1 a2 a3 s
  | .brx a0 a1 a2 a3 a4 => Sys2Proof.Machine.execBrx a0 a1 a2 a3 a4 s
  | .call a0 a1 a2 => Sys2Proof.Machine.execCall a0 a1 a2 s
  | .ret a0 a1 => Sys2Proof.Machine.execRet a0 a1 s
  | .jmpx a0 a1 a2 => Sys2Proof.Machine.execJmpx a0 a1 a2 s
  | .loop a0 a1 a2 => Sys2Proof.Machine.execLoop a0 a1 a2 s
  | .loopi a0 a1 a2 => Sys2Proof.Machine.execLoopi a0 a1 a2 s
  | .lrec a0 a1 a2 a3 => Sys2Proof.Machine.execLrec a0 a1 a2 a3 s
  | .halt a0 => Sys2Proof.Machine.execHalt a0 s
  | .yield a0 => Sys2Proof.Machine.execYield a0 s
  | .trap a0 a1 => Sys2Proof.Machine.execTrap a0 a1 s
  | .tfence a0 => Sys2Proof.Machine.execTfence a0 s
  | .seqdef a0 a1 => Sys2Proof.Machine.execSeqdef a0 a1 s
  | .seqnext a0 a1 a2 => Sys2Proof.Machine.execSeqnext a0 a1 a2 s
  | .add a0 a1 => Sys2Proof.Machine.execAdd a0 a1 s
  | .sub a0 a1 => Sys2Proof.Machine.execSub a0 a1 s
  | .mul a0 a1 => Sys2Proof.Machine.execMul a0 a1 s
  | .mulh a0 a1 => Sys2Proof.Machine.execMulh a0 a1 s
  | .mulhu a0 a1 => Sys2Proof.Machine.execMulhu a0 a1 s
  | .madd a0 a1 => Sys2Proof.Machine.execMadd a0 a1 s
  | .div a0 a1 => Sys2Proof.Machine.execDiv a0 a1 s
  | .divu a0 a1 => Sys2Proof.Machine.execDivu a0 a1 s
  | .rem a0 a1 => Sys2Proof.Machine.execRem a0 a1 s
  | .remu a0 a1 => Sys2Proof.Machine.execRemu a0 a1 s
  | .and a0 a1 => Sys2Proof.Machine.execAnd a0 a1 s
  | .or a0 a1 => Sys2Proof.Machine.execOr a0 a1 s
  | .xor a0 a1 => Sys2Proof.Machine.execXor a0 a1 s
  | .andn a0 a1 => Sys2Proof.Machine.execAndn a0 a1 s
  | .shl a0 a1 => Sys2Proof.Machine.execShl a0 a1 s
  | .shr a0 a1 => Sys2Proof.Machine.execShr a0 a1 s
  | .sar a0 a1 => Sys2Proof.Machine.execSar a0 a1 s
  | .rol a0 a1 => Sys2Proof.Machine.execRol a0 a1 s
  | .ror a0 a1 => Sys2Proof.Machine.execRor a0 a1 s
  | .min a0 a1 => Sys2Proof.Machine.execMin a0 a1 s
  | .max a0 a1 => Sys2Proof.Machine.execMax a0 a1 s
  | .minu a0 a1 => Sys2Proof.Machine.execMinu a0 a1 s
  | .maxu a0 a1 => Sys2Proof.Machine.execMaxu a0 a1 s
  | .clz a0 a1 => Sys2Proof.Machine.execClz a0 a1 s
  | .ctz a0 a1 => Sys2Proof.Machine.execCtz a0 a1 s
  | .popc a0 a1 => Sys2Proof.Machine.execPopc a0 a1 s
  | .sel a0 a1 => Sys2Proof.Machine.execSel a0 a1 s
  | .sext a0 a1 => Sys2Proof.Machine.execSext a0 a1 s
  | .zext a0 a1 => Sys2Proof.Machine.execZext a0 a1 s
  | .adds a0 a1 => Sys2Proof.Machine.execAdds a0 a1 s
  | .subs a0 a1 => Sys2Proof.Machine.execSubs a0 a1 s
  | .msub a0 a1 => Sys2Proof.Machine.execMsub a0 a1 s
  | .aluiAdd a0 a1 => Sys2Proof.Machine.execAluiAdd a0 a1 s
  | .aluiMul a0 a1 => Sys2Proof.Machine.execAluiMul a0 a1 s
  | .aluiAnd a0 a1 => Sys2Proof.Machine.execAluiAnd a0 a1 s
  | .aluiOr a0 a1 => Sys2Proof.Machine.execAluiOr a0 a1 s
  | .aluiXor a0 a1 => Sys2Proof.Machine.execAluiXor a0 a1 s
  | .aluiShl a0 a1 => Sys2Proof.Machine.execAluiShl a0 a1 s
  | .aluiShr a0 a1 => Sys2Proof.Machine.execAluiShr a0 a1 s
  | .aluiSar a0 a1 => Sys2Proof.Machine.execAluiSar a0 a1 s
  | .aluiRol a0 a1 => Sys2Proof.Machine.execAluiRol a0 a1 s
  | .aluiRor a0 a1 => Sys2Proof.Machine.execAluiRor a0 a1 s
  | .aluiMin a0 a1 => Sys2Proof.Machine.execAluiMin a0 a1 s
  | .aluiMax a0 a1 => Sys2Proof.Machine.execAluiMax a0 a1 s
  | .aluiMinu a0 a1 => Sys2Proof.Machine.execAluiMinu a0 a1 s
  | .aluiMaxu a0 a1 => Sys2Proof.Machine.execAluiMaxu a0 a1 s
  | .aluiAdds a0 a1 => Sys2Proof.Machine.execAluiAdds a0 a1 s
  | .movk a0 a1 a2 => Sys2Proof.Machine.execMovk a0 a1 a2 s
  | .movkh a0 a1 a2 => Sys2Proof.Machine.execMovkh a0 a1 a2 s
  | .lea a0 a1 => Sys2Proof.Machine.execLea a0 a1 s
  | .cmp a0 a1 a2 => Sys2Proof.Machine.execCmp a0 a1 a2 s
  | .pand a0 a1 a2 a3 => Sys2Proof.Machine.execPand a0 a1 a2 a3 s
  | .por a0 a1 a2 a3 => Sys2Proof.Machine.execPor a0 a1 a2 a3 s
  | .pxor a0 a1 a2 a3 => Sys2Proof.Machine.execPxor a0 a1 a2 a3 s
  | .pandn a0 a1 a2 a3 => Sys2Proof.Machine.execPandn a0 a1 a2 a3 s
  | .pnot a0 a1 a2 => Sys2Proof.Machine.execPnot a0 a1 a2 s
  | .pmov a0 a1 a2 => Sys2Proof.Machine.execPmov a0 a1 a2 s
  | .psetx a0 a1 => Sys2Proof.Machine.execPsetx a0 a1 s
  | .pgetx a0 a1 a2 a3 => Sys2Proof.Machine.execPgetx a0 a1 a2 a3 s
  | .pcnt a0 a1 a2 a3 => Sys2Proof.Machine.execPcnt a0 a1 a2 a3 s
  | .pfirst a0 a1 a2 a3 => Sys2Proof.Machine.execPfirst a0 a1 a2 a3 s
  | .plast a0 a1 a2 a3 => Sys2Proof.Machine.execPlast a0 a1 a2 a3 s
  | .qlen a0 a1 a2 a3 => Sys2Proof.Machine.execQlen a0 a1 a2 a3 s
  | .vadd a0 a1 => Sys2Proof.Machine.execVadd a0 a1 s
  | .vsub a0 a1 => Sys2Proof.Machine.execVsub a0 a1 s
  | .vmul a0 a1 => Sys2Proof.Machine.execVmul a0 a1 s
  | .vfma a0 a1 => Sys2Proof.Machine.execVfma a0 a1 s
  | .vfnma a0 a1 => Sys2Proof.Machine.execVfnma a0 a1 s
  | .vdiv a0 a1 => Sys2Proof.Machine.execVdiv a0 a1 s
  | .vmin a0 a1 => Sys2Proof.Machine.execVmin a0 a1 s
  | .vmax a0 a1 => Sys2Proof.Machine.execVmax a0 a1 s
  | .vabs a0 a1 => Sys2Proof.Machine.execVabs a0 a1 s
  | .vneg a0 a1 => Sys2Proof.Machine.execVneg a0 a1 s
  | .vadds a0 a1 => Sys2Proof.Machine.execVadds a0 a1 s
  | .vsubs a0 a1 => Sys2Proof.Machine.execVsubs a0 a1 s
  | .vmulhi a0 a1 => Sys2Proof.Machine.execVmulhi a0 a1 s
  | .vand a0 a1 => Sys2Proof.Machine.execVand a0 a1 s
  | .vor a0 a1 => Sys2Proof.Machine.execVor a0 a1 s
  | .vxor a0 a1 => Sys2Proof.Machine.execVxor a0 a1 s
  | .vandn a0 a1 => Sys2Proof.Machine.execVandn a0 a1 s
  | .vnot a0 a1 => Sys2Proof.Machine.execVnot a0 a1 s
  | .vshl a0 a1 => Sys2Proof.Machine.execVshl a0 a1 s
  | .vshr a0 a1 => Sys2Proof.Machine.execVshr a0 a1 s
  | .vsar a0 a1 => Sys2Proof.Machine.execVsar a0 a1 s
  | .vcmp a0 a1 a2 => Sys2Proof.Machine.execVcmp a0 a1 a2 s
  | .vsel a0 a1 => Sys2Proof.Machine.execVsel a0 a1 s
  | .vmov a0 a1 => Sys2Proof.Machine.execVmov a0 a1 s
  | .vbcast a0 a1 => Sys2Proof.Machine.execVbcast a0 a1 s
  | .vlane a0 a1 => Sys2Proof.Machine.execVlane a0 a1 s
  | .vins a0 a1 => Sys2Proof.Machine.execVins a0 a1 s
  | .vcvt a0 a1 => Sys2Proof.Machine.execVcvt a0 a1 s
  | .vrecip a0 a1 => Sys2Proof.Machine.execVrecip a0 a1 s
  | .vrsqrt a0 a1 => Sys2Proof.Machine.execVrsqrt a0 a1 s
  | .vsqrt a0 a1 => Sys2Proof.Machine.execVsqrt a0 a1 s
  | .vexp2 a0 a1 => Sys2Proof.Machine.execVexp2 a0 a1 s
  | .vlog2 a0 a1 => Sys2Proof.Machine.execVlog2 a0 a1 s
  | .vtanh a0 a1 => Sys2Proof.Machine.execVtanh a0 a1 s
  | .vsigm a0 a1 => Sys2Proof.Machine.execVsigm a0 a1 s
  | .vredsum a0 a1 => Sys2Proof.Machine.execVredsum a0 a1 s
  | .vredmax a0 a1 => Sys2Proof.Machine.execVredmax a0 a1 s
  | .vredmin a0 a1 => Sys2Proof.Machine.execVredmin a0 a1 s
  | .vscansum a0 a1 => Sys2Proof.Machine.execVscansum a0 a1 s
  | .vperm a0 a1 => Sys2Proof.Machine.execVperm a0 a1 s
  | .vrot a0 a1 => Sys2Proof.Machine.execVrot a0 a1 s
  | .vzip a0 a1 => Sys2Proof.Machine.execVzip a0 a1 s
  | .vunzip a0 a1 => Sys2Proof.Machine.execVunzip a0 a1 s
  | .vrng a0 a1 => Sys2Proof.Machine.execVrng a0 a1 s
  | .vrngp a0 a1 => Sys2Proof.Machine.execVrngp a0 a1 s
  | .vquant a0 a1 => Sys2Proof.Machine.execVquant a0 a1 s
  | .vdeq a0 a1 => Sys2Proof.Machine.execVdeq a0 a1 s
  | .vscale a0 a1 => Sys2Proof.Machine.execVscale a0 a1 s
  | .mma a0 a1 => Sys2Proof.Machine.execMma a0 a1 s
  | .mmas a0 a1 a2 a3 => Sys2Proof.Machine.execMmas a0 a1 a2 a3 s
  | .mhad a0 a1 => Sys2Proof.Machine.execMhad a0 a1 s
  | .mdrain a0 a1 => Sys2Proof.Machine.execMdrain a0 a1 s
  | .mzero a0 a1 a2 => Sys2Proof.Machine.execMzero a0 a1 a2 s
  | .mloada a0 a1 => Sys2Proof.Machine.execMloada a0 a1 s
  | .mtrans a0 a1 a2 => Sys2Proof.Machine.execMtrans a0 a1 a2 s
  | .nestStepCommit a0 => Sys2Proof.Machine.execNestStepCommit a0 s
  | .nestRetire a0 => Sys2Proof.Machine.execNestRetire a0 s
  | .mwait a0 => Sys2Proof.Machine.execMwait a0 s
  | .mstat a0 a1 => Sys2Proof.Machine.execMstat a0 a1 s
  | .ld a0 a1 a2 => Sys2Proof.Machine.execLd a0 a1 a2 s
  | .st a0 a1 a2 => Sys2Proof.Machine.execSt a0 a1 a2 s
  | .ldt a0 a1 a2 => Sys2Proof.Machine.execLdt a0 a1 a2 s
  | .stt a0 a1 a2 => Sys2Proof.Machine.execStt a0 a1 a2 s
  | .ldv a0 a1 a2 => Sys2Proof.Machine.execLdv a0 a1 a2 s
  | .stv a0 a1 a2 => Sys2Proof.Machine.execStv a0 a1 a2 s
  | .gather a0 a1 a2 => Sys2Proof.Machine.execGather a0 a1 a2 s
  | .scatter a0 a1 a2 => Sys2Proof.Machine.execScatter a0 a1 a2 s
  | .atomAdd a0 a1 a2 => Sys2Proof.Machine.execAtomAdd a0 a1 a2 s
  | .atomAnd a0 a1 a2 => Sys2Proof.Machine.execAtomAnd a0 a1 a2 s
  | .atomOr a0 a1 a2 => Sys2Proof.Machine.execAtomOr a0 a1 a2 s
  | .atomXor a0 a1 a2 => Sys2Proof.Machine.execAtomXor a0 a1 a2 s
  | .atomMin a0 a1 a2 => Sys2Proof.Machine.execAtomMin a0 a1 a2 s
  | .atomMax a0 a1 a2 => Sys2Proof.Machine.execAtomMax a0 a1 a2 s
  | .atomMinu a0 a1 a2 => Sys2Proof.Machine.execAtomMinu a0 a1 a2 s
  | .atomMaxu a0 a1 a2 => Sys2Proof.Machine.execAtomMaxu a0 a1 a2 s
  | .atomSwap a0 a1 a2 => Sys2Proof.Machine.execAtomSwap a0 a1 a2 s
  | .atomCas a0 a1 a2 => Sys2Proof.Machine.execAtomCas a0 a1 a2 s
  | .atomf a0 a1 a2 => Sys2Proof.Machine.execAtomf a0 a1 a2 s
  | .atomfD a0 a1 a2 => Sys2Proof.Machine.execAtomfD a0 a1 a2 s
  | .barrierGenerationComplete a0 a1 a2 => Sys2Proof.Machine.execBarrierGenerationComplete a0 a1 a2 s
  | .fence a0 a1 a2 => Sys2Proof.Machine.execFence a0 a1 a2 s
  | .pref a0 a1 a2 => Sys2Proof.Machine.execPref a0 a1 a2 s
  | .copy a0 a1 => Sys2Proof.Machine.execCopy a0 a1 s
  | .copyComplete a0 a1 => Sys2Proof.Machine.execCopyComplete a0 a1 s
  | .copyw a0 => Sys2Proof.Machine.execCopyw a0 s
  | .copys a0 a1 a2 => Sys2Proof.Machine.execCopys a0 a1 a2 s
  | .sdef a0 a1 => Sys2Proof.Machine.execSdef a0 a1 s
  | .snest a0 a1 => Sys2Proof.Machine.execSnest a0 a1 s
  | .sbind a0 a1 => Sys2Proof.Machine.execSbind a0 a1 s
  | .spos a0 a1 => Sys2Proof.Machine.execSpos a0 a1 s
  | .scommit a0 a1 => Sys2Proof.Machine.execScommit a0 a1 s
  | .sreset a0 a1 => Sys2Proof.Machine.execSreset a0 a1 s
  | .linkVectorArrive a0 a1 a2 => Sys2Proof.Machine.execLinkVectorArrive a0 a1 a2 s
  | .rdef a0 a1 a2 => Sys2Proof.Machine.execRdef a0 a1 a2 s
  | .racq a0 a1 a2 => Sys2Proof.Machine.execRacq a0 a1 a2 s
  | .rpub a0 a1 => Sys2Proof.Machine.execRpub a0 a1 s
  | .rrel a0 a1 => Sys2Proof.Machine.execRrel a0 a1 s
  | .rpoison a0 a1 => Sys2Proof.Machine.execRpoison a0 a1 s
  | .rstat a0 a1 a2 => Sys2Proof.Machine.execRstat a0 a1 a2 s
  | .barArrive a0 a1 a2 => Sys2Proof.Machine.execBarArrive a0 a1 a2 s
  | .barWait a0 a1 a2 => Sys2Proof.Machine.execBarWait a0 a1 a2 s
  | .msg a0 a1 a2 => Sys2Proof.Machine.execMsg a0 a1 a2 s
  | .msgDelivery a0 a1 => Sys2Proof.Machine.execMsgDelivery a0 a1 s
  | .spawn a0 a1 => Sys2Proof.Machine.execSpawn a0 a1 s
  | .spawnBind a0 => Sys2Proof.Machine.execSpawnBind a0 s
  | .pclaim a0 a1 => Sys2Proof.Machine.execPclaim a0 a1 s
  | .ppub a0 a1 => Sys2Proof.Machine.execPpub a0 a1 s
  | .pabort a0 a1 => Sys2Proof.Machine.execPabort a0 a1 s
  | .pgrab a0 a1 a2 a3 => Sys2Proof.Machine.execPgrab a0 a1 a2 a3 s
  | .prel a0 a1 => Sys2Proof.Machine.execPrel a0 a1 s
  | .pstat a0 a1 => Sys2Proof.Machine.execPstat a0 a1 s
  | .poolRetire a0 a1 => Sys2Proof.Machine.execPoolRetire a0 a1 s
  | .replyCommit a0 a1 => Sys2Proof.Machine.execReplyCommit a0 a1 s
  | .cuemk a0 a1 => Sys2Proof.Machine.execCuemk a0 a1 s
  | .cueres a0 a1 => Sys2Proof.Machine.execCueres a0 a1 s
  | .cueresV a0 a1 a2 a3 a4 => Sys2Proof.Machine.execCueresV a0 a1 a2 a3 a4 s
  | .cuefail a0 a1 => Sys2Proof.Machine.execCuefail a0 a1 s
  | .cuepeek a0 a1 => Sys2Proof.Machine.execCuepeek a0 a1 s
  | .cuestat a0 a1 => Sys2Proof.Machine.execCuestat a0 a1 s
  | .accessServed a0 a1 => Sys2Proof.Machine.execAccessServed a0 a1 s
  | .cueLoadResend a0 a1 => Sys2Proof.Machine.execCueLoadResend a0 a1 s
  | .pendingTouchTake a0 => Sys2Proof.Machine.execPendingTouchTake a0 s
  | .prompterQueueDispatch a0 => Sys2Proof.Machine.execPrompterQueueDispatch a0 s
  | .deepwait a0 a1 => Sys2Proof.Machine.execDeepwait a0 a1 s
  | .launch a0 a1 => Sys2Proof.Machine.execLaunch a0 a1 s
  | .lwait a0 a1 => Sys2Proof.Machine.execLwait a0 a1 s
  | .rdcsr a0 a1 a2 => Sys2Proof.Machine.execRdcsr a0 a1 a2 s
  | .wrcsr a0 a1 a2 a3 => Sys2Proof.Machine.execWrcsr a0 a1 a2 a3 s
  | .rdtime a0 a1 => Sys2Proof.Machine.execRdtime a0 a1 s
  | .recapp a0 a1 => Sys2Proof.Machine.execRecapp a0 a1 s
  | .wmark a0 a1 => Sys2Proof.Machine.execWmark a0 a1 s
  | .sidle a0 a1 => Sys2Proof.Machine.execSidle a0 a1 s
  | .wnext a0 a1 => Sys2Proof.Machine.execWnext a0 a1 s
  | .wpub a0 a1 => Sys2Proof.Machine.execWpub a0 a1 s
  | .wlate a0 a1 => Sys2Proof.Machine.execWlate a0 a1 s
  | .idleTimerTest => Sys2Proof.Machine.execIdleTimerTest s
  | .curtainArrivalDispatch => Sys2Proof.Machine.execCurtainArrivalDispatch s
  | .streamOpen a0 a1 => Sys2Proof.Machine.execStreamOpen a0 a1 s
  | .streamClose a0 a1 => Sys2Proof.Machine.execStreamClose a0 a1 s
  | .bundleIssue a0 => Sys2Proof.Machine.execBundleIssue a0 s
  | .watchdog a0 => Sys2Proof.Machine.execWatchdog a0 s
  | .bindRunning a0 a1 => Sys2Proof.Machine.execBindRunning a0 a1 s
  | .bindDormant a0 a1 => Sys2Proof.Machine.execBindDormant a0 a1 s
  | .freeSlot a0 => Sys2Proof.Machine.execFreeSlot a0 s
  | .arrivalAccept a0 a1 => Sys2Proof.Machine.execArrivalAccept a0 a1 s
  | .arrivalStart a0 => Sys2Proof.Machine.execArrivalStart a0 s
  | .bindRequest a0 => Sys2Proof.Machine.execBindRequest a0 s
  | .retirement a0 => Sys2Proof.Machine.execRetirement a0 s
  | .stopRecord a0 => Sys2Proof.Machine.execStopRecord a0 s
  | .stopReportPost a0 => Sys2Proof.Machine.execStopReportPost a0 s
  | .stopQueueRead a0 => Sys2Proof.Machine.execStopQueueRead a0 s
  | .restart a0 a1 => Sys2Proof.Machine.execRestart a0 a1 s
  | .switchout a0 a1 => Sys2Proof.Machine.execSwitchout a0 a1 s
  | .restore a0 a1 => Sys2Proof.Machine.execRestore a0 a1 s
  | .kill a0 a1 => Sys2Proof.Machine.execKill a0 a1 s
  | .winfree a0 a1 => Sys2Proof.Machine.execWinfree a0 a1 s
  | .winready a0 a1 => Sys2Proof.Machine.execWinready a0 a1 s
  | .launchBind a0 => Sys2Proof.Machine.execLaunchBind a0 s
  | .quantumExpiry a0 => Sys2Proof.Machine.execQuantumExpiry a0 s
  | .cleanStop a0 => Sys2Proof.Machine.execCleanStop a0 s
  | .hardStop a0 => Sys2Proof.Machine.execHardStop a0 s
  | .yieldReport a0 => Sys2Proof.Machine.execYieldReport a0 s
  | .preemptedRebind a0 => Sys2Proof.Machine.execPreemptedRebind a0 s
  | .launchComplete a0 => Sys2Proof.Machine.execLaunchComplete a0 s
  | .launchKill a0 => Sys2Proof.Machine.execLaunchKill a0 s
  | .overflowRegisterWrite a0 a1 a2 => Sys2Proof.Machine.execOverflowRegisterWrite a0 a1 a2 s
  | .bump a0 a1 => Sys2Proof.Machine.execBump a0 a1 s
  | .bumpComplete a0 => Sys2Proof.Machine.execBumpComplete a0 s
  | .tagWindowSelect a0 a1 => Sys2Proof.Machine.execTagWindowSelect a0 a1 s
  | .tagWindowWrite a0 a1 a2 => Sys2Proof.Machine.execTagWindowWrite a0 a1 a2 s
  | .registerWrite a0 a1 a2 => Sys2Proof.Machine.execRegisterWrite a0 a1 a2 s
  | .placeTableChange a0 a1 a2 => Sys2Proof.Machine.execPlaceTableChange a0 a1 a2 s
  | .uncorrectableError a0 => Sys2Proof.Machine.execUncorrectableError a0 s
  | .spareReplace a0 a1 => Sys2Proof.Machine.execSpareReplace a0 a1 s
  | .scrub => Sys2Proof.Machine.execScrub s
  | .partitionChange a0 a1 => Sys2Proof.Machine.execPartitionChange a0 a1 s
  | .kernelImageSwitch a0 a1 a2 a3 => Sys2Proof.Machine.execKernelImageSwitch a0 a1 a2 a3 s
  | .hostWrite a0 a1 a2 => Sys2Proof.Machine.execHostWrite a0 a1 a2 s
  | .hostRead a0 a1 a2 => Sys2Proof.Machine.execHostRead a0 a1 a2 s
  | .hostDoorbell a0 a1 a2 => Sys2Proof.Machine.execHostDoorbell a0 a1 a2 s
  | .linkDown a0 => Sys2Proof.Machine.execLinkDown a0 s
  | .hostHotReset a0 => Sys2Proof.Machine.execHostHotReset a0 s
  | .flitResend a0 => Sys2Proof.Machine.execFlitResend a0 s
  | .nvmeDma a0 a1 a2 a3 => Sys2Proof.Machine.execNvmeDma a0 a1 a2 a3 s
  | .mgmtClaim a0 => Sys2Proof.Machine.execMgmtClaim a0 s
  | .mgmtHandover a0 a1 => Sys2Proof.Machine.execMgmtHandover a0 a1 s
  | .mgmtOwnerTimeout a0 => Sys2Proof.Machine.execMgmtOwnerTimeout a0 s
  | .heaterRetune => Sys2Proof.Machine.execHeaterRetune s
  | .throttleBegin => Sys2Proof.Machine.execThrottleBegin s
  | .throttleEnd => Sys2Proof.Machine.execThrottleEnd s
  | .emergencyStop => Sys2Proof.Machine.execEmergencyStop s
  | .powerReset => Sys2Proof.Machine.execPowerReset s
  | .resetRelease a0 a1 => Sys2Proof.Machine.execResetRelease a0 a1 s
  | .quote a0 a1 => Sys2Proof.Machine.execQuote a0 a1 s
  | .linkTrained a0 => Sys2Proof.Machine.execLinkTrained a0 s
  | .serviceCoreRestart a0 => Sys2Proof.Machine.execServiceCoreRestart a0 s
  | .portReenable a0 => Sys2Proof.Machine.execPortReenable a0 s
  | .conditionCleared => Sys2Proof.Machine.execConditionCleared s

end Sys2Proof.Machine
end

