-- ==== Sys2Proof/Machine/Auto.lean ====
section
/-! DEFINITION. What happens where the schedule holds no turn (log 1): the steps that the part takes by itself, in a fixed order,
before the next syllable issues; and the helpers that lay out an instruction where a cluster fetches it. -/

namespace Sys2Proof.Machine

/-! ### Steps that the part takes by itself -/

/-- A step that the part takes by itself: an instruction of these names, with its operands; or a port tries again to deliver the arrival
that it holds (R390). -/
inductive Due where
  | cueLoadResend (r : Slot) (k : Nat) | deepwait (r : Slot) (k : Nat) | accessServed (r : Slot) (p : Pend)
  | replyCommit (r : Slot) (k : Nat) | copyComplete (r : Slot) (k : Nat) | nestStepCommit (r : Slot) | nestRetire (r : Slot)
  | stopRecord (r : Slot) | stopReportPost (r : Slot) | yieldReport (r : Slot) | switchout (r : Slot) | retirement (r : Slot)
  | cleanStop (r : Slot) | hardStop (r : Slot) | bundleIssue (r : Slot) | barrierGenerationComplete (l : LKey) (level inst : Nat)
  | watchdog (r : Slot) | msgDelivery (core : BitVec 8) (k : Nat) | arrivalStart (core : BitVec 8) | bindRequest (core : BitVec 8)
  | linkVectorArrive (core : BitVec 8) (dir : Nat) (slot : BitVec 2) | launchComplete (l : LKey) | quantumExpiry (l : LKey)
  | preemptedRebind (l : LKey) | spawnBind (part : Nat) | launchBind (part : Nat) | pendingTouchTake (slice : Nat)
  | prompterQueueDispatch (slice : Nat) | curtainArrivalDispatch | bumpComplete (asid : Nat) | heldRetry (port : Nat)
  deriving DecidableEq, Repr

/-- Its meaning. -/
def Due.run (d : Due) (s : State) : Host.Outcome State Fault Refusal :=
  match d with
  | .cueLoadResend r k => execCueLoadResend r k s
  | .deepwait r k => execDeepwait r k s
  | .accessServed r p => execAccessServed r p s
  | .replyCommit r k => execReplyCommit r k s
  | .copyComplete r k => execCopyComplete r k s
  | .nestStepCommit r => execNestStepCommit r s
  | .nestRetire r => execNestRetire r s
  | .stopRecord r => execStopRecord r s
  | .stopReportPost r => execStopReportPost r s
  | .yieldReport r => execYieldReport r s
  | .switchout r => execSwitchout .sched r s
  | .retirement r => execRetirement r s
  | .cleanStop r => execCleanStop r s
  | .hardStop r => execHardStop r s
  | .bundleIssue r => execBundleIssue r s
  | .barrierGenerationComplete l lev inst => execBarrierGenerationComplete l lev inst s
  | .watchdog r => execWatchdog r s
  | .msgDelivery core k => execMsgDelivery core k s
  | .arrivalStart core => execArrivalStart core s
  | .bindRequest core => execBindRequest core s
  | .linkVectorArrive core dir slot => execLinkVectorArrive core dir slot s
  | .launchComplete l => execLaunchComplete l s
  | .quantumExpiry l => execQuantumExpiry l s
  | .preemptedRebind l => execPreemptedRebind l s
  | .spawnBind p => execSpawnBind p s
  | .launchBind p => execLaunchBind p s
  | .pendingTouchTake n => execPendingTouchTake n s
  | .prompterQueueDispatch n => execPrompterQueueDispatch n s
  | .curtainArrivalDispatch => execCurtainArrivalDispatch s
  | .bumpComplete a => execBumpComplete a s
  | .heldRetry p => .next (retryHeld s p)

/-- The steps that the role of key k may be due. -/
def roleEvents (s : State) (k : Nat) : List Due :=
  let r := s.role k
  let rs := slotOfKey k
  r.acc.flatMap (fun a => [Due.cueLoadResend rs a.id, .deepwait rs a.id, .accessServed rs (.acc a.id), .replyCommit rs a.id]) ++
  (List.range r.copies.length).map (fun i => Due.accessServed rs (.copy i)) ++ r.copies.map (fun c => Due.copyComplete rs c.id) ++
  [.nestStepCommit rs, .nestRetire rs, .stopRecord rs, .stopReportPost rs, .yieldReport rs] ++
  (if r.busy || (r.stop.isSome && ((s.launch? r.part.toNat r.lid.toNat).map (·.st)) = some .stopping) then [Due.switchout rs] else []) ++
  [.retirement rs, .cleanStop rs, .hardStop rs, .bundleIssue rs] ++
  (List.range 8).map (fun l => Due.barrierGenerationComplete { part := r.part.toNat, lid := r.lid.toNat } l (instOf r k l)) ++
  [.watchdog rs]
/-- Those of a core. -/
def coreEvents (s : State) (c : Nat) : List Due :=
  let b := BitVec.ofNat 8 c
  (List.range (s.core c).msgs.length).map (fun k => Due.msgDelivery b k) ++ [.arrivalStart b, .bindRequest b]
/-- Those of the links into a role. -/
def linkEvents (k : Nat) : List Due :=
  (List.range 4).map (fun d => Due.linkVectorArrive (BitVec.ofNat 8 (k / 4)) d (BitVec.ofNat 2 k))
/-- Those of a partition's launches. -/
def partEvents (p : Nat × Part) : List Due :=
  let key (l : Launch) : LKey := { part := p.1, lid := l.id.toNat }
  p.2.launches.flatMap (fun l => if l.word.isSome then []
    else [Due.launchComplete (key l), .quantumExpiry (key l), .preemptedRebind (key l)]) ++ [.spawnBind p.1, .launchBind p.1]
/-- All of them, in order. -/
def candidates (s : State) : List Due :=
  let ks := (s.roles.filter (fun r => r.2.st != .free)).map (·.1)
  ks.flatMap (roleEvents s) ++ (if s.chans = [] then [] else ks.flatMap linkEvents) ++ s.cores.flatMap (fun c => coreEvents s c.1) ++
  s.prompters.flatMap (fun p => [Due.pendingTouchTake p.1, .prompterQueueDispatch p.1]) ++
  (if s.strms = [] then [] else [Due.curtainArrivalDispatch]) ++
  s.ports.flatMap (fun q => if q.2.held.isSome then [Due.heldRetry q.1] else []) ++
  s.asids.flatMap (fun a => if a.2.busy then [Due.bumpComplete a.1] else []) ++ s.parts.flatMap partEvents
/-- A step changes something. -/
def changes (s : State) (d : Due) : Bool :=
  match d.run s with
  | .next t => t != s
  | _ => true
/-- The first step that is due. -/
def autoEvent (s : State) : Option Due := (candidates s).find? (changes s)

/-! ### Whose turn it is -/

/-- The clusters that may issue, in order of slot and cluster. -/
def liveClusters (s : State) : List Cur :=
  (s.roles.filter (fun r => r.2.st == .running)).flatMap (fun r =>
    (clusters.filter (fun c => !(r.2.clu c).halted)).map (fun c =>
      { core := BitVec.ofNat 8 (r.1 / 4), slot := BitVec.ofNat 2 r.1, cl := c }))
def Cur.num (c : Cur) : Nat := (c.core.toNat * 4 + c.slot.toNat) * 4 + c.cl.num
/-- The next cluster after the current one. -/
def nextCur (s : State) : Cur :=
  let ls := liveClusters s
  match ls.find? (fun c => s.cur.num < c.num) with
  | some c => c
  | none => ls.headD s.cur
def rotateCur (s : State) : State := { s with cur := nextCur s }

/-! ### Cycles (R5, R47, R54, R409) -/

/-- R54: n cycles pass: the watchdog of a role that has something under way counts from their end. -/
def watchRoles (s : State) (n : Nat) : State :=
  { s with roles := s.roles.map (fun r =>
      (r.1, if r.2.st == .running && !quiet s r.1 then { r.2 with lastAct := s.cycle + n - 1 } else r.2)) }
/-- R409: the tests of the idle timers that fall into n cycles, one at each whole µs. -/
def idleTests (s : State) (n : Nat) : State :=
  if s.strms = [] then s
  else (List.range ((s.cycle + n) / 1250 - s.cycle / 1250)).foldl (fun t i => idleTest { t with cycle := (s.cycle / 1250 + i + 1) * 1250 }) s
/-- n cycles pass. -/
def State.pass (s : State) (n : Nat) : State :=
  if n = 0 then s else { idleTests (watchRoles s n) n with cycle := s.cycle + n, seen := [] }

/-- R324: the order of pool operations that arrive together. -/
def poolOrder (op : Nat) : Nat := match op with | 4 => 0 | 2 => 1 | 1 => 2 | 0 => 3 | 3 => 4 | _ => 5
/-- R419: that of requests to the Curtain unit: RECAPP, WMARK, SIDLE, WNEXT, WLATE, WPUB. -/
def winOrder (op : Nat) : Nat := match op with | 4 => 5 | 5 => 4 | _ => op
/-- Where a served request of role k stands among those that arrive in its cycle: at a pool (R324), at the Curtain unit (R419), at its
partition's launch queue (R318), at a cue cell (R337); inside a kind by rank, core and role. A class, the least mark that it may follow
plus one, and its own mark. -/
def servedOrder (s : State) (k : Nat) (a : Access) : List (Nat × Nat × Nat) :=
  let r := s.role k
  let at_ (c key : Nat) : List (Nat × Nat × Nat) := [(c, key + 1, key)]
  let by_ (op : Nat) : Nat := (op * 2 ^ 16 + r.rank.toNat % 2 ^ 16) * 1024 + k
  match a.kind with
  | .win op => at_ 2 (by_ (winOrder op))
  | .lch _ => at_ (8 * r.part.toNat + 3) k
  | .fence | .pref | .copy | .copys => []
  | _ =>
    match physAt s r.asid.toNat (a.partAddr a.done) with
    | none => []
    | some x =>
      match a.kind with
      | .pool op => at_ (8 * (x.pa / 256) + 1) (by_ (poolOrder op))
      | _ => if x.attr = 2 then at_ (8 * (x.pa / 64) + 4) (by_ 0) else []
/-- A cluster of role k stands at a SEQNEXT. -/
def atSeqnext (s : State) (k : Nat) (c : Cluster) : Bool :=
  match head s k c with
  | .instr _ (.seqnext _ _ _) => true
  | _ => false
/-- R221: the runs that the roles of a core take in one cycle are taken in ascending role number. -/
def seqOrder (s : State) (core slot : Nat) (cs : List Cluster) : List (Nat × Nat × Nat) :=
  if cs.any (atSeqnext s (4 * core + slot)) then [(8 * core + 6, slot + 2, slot + 1)] else []
/-- Where a turn stands in its cycle: a cluster issues once in a cycle, the clusters of a role in the order L, M, V, W (R47, R60, R355), the M
clusters of a core, and its SEQNEXTs, in ascending role number (R47, R221). -/
def orderOf (s : State) (w : What) : List (Nat × Nat × Nat) :=
  match w with
  | .syl c =>
    (8 * (c.core.toNat * 4 + c.slot.toNat), c.cl.num + 1, c.cl.num + 1) ::
      ((if c.cl == .m then [(8 * c.core.toNat + 5, c.slot.toNat + 1, c.slot.toNat + 1)] else []) ++
        seqOrder s c.core.toNat c.slot.toNat [c.cl])
  | .ev (.bundleIssue r) =>
    [(8 * r.key, 1, 4), (8 * r.core.toNat + 5, r.slot.toNat + 1, r.slot.toNat + 1)] ++ seqOrder s r.core.toNat r.slot.toNat clusters
  | .ev (.accessServed r (.acc id)) => (match (s.role r.key).acc? id with | some a => servedOrder s r.key a | none => [])
  | _ => []
/-- Nothing of the present cycle stands behind a turn. -/
def State.follows (s : State) (os : List (Nat × Nat × Nat)) : Bool := os.all (fun o => mget (0 : Nat) s.seen o.1 < o.2.1)
def State.mark (s : State) (os : List (Nat × Nat × Nat)) : State :=
  { s with seen := os.foldl (fun m o => Machine.mset 0 m o.1 (max (mget 0 m o.1) o.2.2)) s.seen }
/-- The state in which a turn is taken: its cycles have passed, and one more where another turn of the cycle should have come after
it. -/
def State.toTurn (s : State) (t : Turn) : State :=
  let s := s.pass t.dt
  let os := orderOf s t.what
  (if s.follows os then s else s.pass 1).mark os

/-! ### Laying out an instruction (log 13) -/

/-- A page table that maps the 64 KiB page at virtual address 0x1_0000 to HBM address 0x2_0000, for reads, writes and fetches; its
nodes at 0x1_0000 to 0x1_4000. -/
def fetchTables : List (Nat × Nat) :=
  [(0x10000, 0x11001), (0x11000, 0x12001), (0x12000, 0x13001), (0x13000, 0x14001), (0x14008, 0x2001F)]
/-- The first cluster that issues the instruction of some words. -/
def clusterFor (ws : List Word) : Cluster :=
  (clusters.find? (fun c => match decodeFor c ws with | .instr _ => true | _ => false)).getD .l
/-- A role of partition 0 and address space 1, one cluster of which stands at virtual address 0x1_0000; the others have halted. -/
def fetchRole (c : Cluster) : Role :=
  let stop : Clu := { Clu.zero with halted := true }
  { Role.reset with
    st := .running
    asid := 1
    twSize := 0x10000
    participant := false
    cl := if c == .l then Clu.at_ 0x10000 else stop
    cm := if c == .m then Clu.at_ 0x10000 else stop
    cv := if c == .v then Clu.at_ 0x10000 else stop
    cw := if c == .w then Clu.at_ 0x10000 else stop }
/-- The state with a loaded program of some words, about to issue. -/
def layOut (s : State) (ws : List Word) : State :=
  let c := clusterFor ws
  let p := s.partOr 0
  let cur : Cur := { core := 0, slot := 0, cl := c }
  let a := s.asid 1
  let s := { s with
    parts := mput s.parts 0 { p with record := { p.record with hbm := 0 :: p.record.hbm } }
    asids := mput s.asids 1 { a with root := 0x10000, valid := true, part := 0 }
    roles := mput s.roles 0 { fetchRole c with lastAct := s.cycle }
    cur := cur
    sched := { dt := 0, what := .syl cur } :: s.sched }
  let s := fetchTables.foldl (fun s e => s.memWrite e.1 (natLe 8 e.2)) s
  s.memWrite 0x20000 (ws.flatMap wordLe)

end Sys2Proof.Machine
end

