-- ==== Sys2Proof/Machine/Step.lean ====
section
/-! DEFINITION. One step of the machine (log 1): the turn at the head of the schedule; without one, the first step of the part
that is due; otherwise the syllable at the head of the current cluster. -/

namespace Sys2Proof.Machine

/-- The current cluster fetches and issues its head syllable (R48, R105). -/
def issueHead (s : State) : Host.Outcome State Fault Refusal :=
  if !s.curLive then .next s
  else
    match head s s.curKey s.cur.cl with
    | .trap st c i0 i1 => .next (takeTrap st c i0 i1)
    | .instr st i => exec i st

/-- What a turn does. -/
def doWhat (w : What) (s : State) : Host.Outcome State Fault Refusal :=
  match w with
  | .syl c => issueHead { s with cur := c }
  | .ev i => exec i s
  | .die by_ op => .next (dieAccess by_ op s)
  | .mgmt m write => .next (mgmtAccess m write s)
  | .update u => .next (execUpdate u s)

/-- The next turn falls to another cluster. -/
def passOn : Host.Outcome State Fault Refusal → Host.Outcome State Fault Refusal
  | .next s => .next (rotateCur s)
  | o => o

/-- A step without a turn of the schedule. -/
def freeStep (s : State) : Host.Outcome State Fault Refusal :=
  match autoEvent s with
  | some d => d.run s
  | none => passOn (issueHead s)

def step (s : State) : Host.Outcome State Fault Refusal :=
  match s.sched with
  | t :: rest => doWhat t.what ({ s with sched := rest }.toTurn t)
  | [] => freeStep (s.pass 1)

/-- The state with an instruction of nbits bits laid out where the very next step fetches it (log 13). -/
def State.withFetchWord (s : State) (nbits w : Nat) : State := layOut s (tableWords (w % 2 ^ nbits))

end Sys2Proof.Machine
end

