-- ==== Sys2Proof/Safety.lean ====
section
/-! DEFINITION. The words in which statements about the machine are made: when a syllable may issue, what an operand read or
write does, how a cluster goes on, the invariant of the memories, and what a frame leaves alone. -/

namespace Sys2Proof.Machine

/-- A computation of an issuing syllable that delivers a and changes nothing. -/
def Reads {α : Type} (m : Iss α) (s : State) (a : α) : Prop := m s = .ok (a, s)
/-- A computation of an issuing syllable that goes from s to s'. -/
def Does (m : Iss Unit) (s s' : State) : Prop := m s = .ok ((), s')

/-- The cluster whose syllable issues. -/
def State.clu (s : State) : Clu := s.curRole.clu s.cur.cl

/-- R51, R52, R352: what a syllable with S = 1 asks when no other cluster has one to join: no faulted request of its role,
every earlier access of its role performed, every other cluster halted or at its HALT. -/
def SyncOk (s : State) : Prop := s.curRole.anyFault = none ∧ s.curRole.performed = true ∧ alone s = true

/-- Nothing but its own operands holds the syllable at the head of the current cluster back: the role runs and the cluster
has not halted; with S = 1, SyncOk; an iteration boundary does not hold the cluster (R308, R352); and no loop goes back to its
start, neither n bytes on nor where a loop record that ends there hands on to its LREC's successor (R128, R216). -/
structure Ready (n : Nat) (sync : Bool) (s : State) : Prop where
  live : s.curLive = true
  sync : sync = true → SyncOk s
  gate : atBoundary s.clu = true → s.curRole.stopReq = none
  again : nextIteration s.clu = true → s.curRole.hasFault s.cur.cl = none
  onward : (s.clu.advance s.clu.pc n).2 = false
  ends : ∀ l, s.clu.lrec = some l → ((fallFrom s.curRole s.cur.cl s.clu.pc n).clu s.cur.cl).lrec = none →
    ((fallFrom s.curRole s.cur.cl s.clu.pc n).clu s.cur.cl).pc = l.ret

/-- The current cluster leaves its iteration boundary (R218). -/
def State.leave (s : State) : State :=
  s.setRole s.curKey (s.curRole.setClu s.cur.cl
    { s.clu with lrec := s.clu.lrec.map (fun l => { l with boundary := false }) })
/-- The cycle of the commit, which the watchdog counts from (R354). -/
def State.stamp (s : State) : State := s.setRole s.curKey { s.curRole with lastAct := s.cycle }
/-- The current cluster goes on as after a syllable of n bytes at a that transfers nothing (R83, R128, R216), and the commit is
stamped. -/
def State.fellAt (s : State) (a : Word) (n : Nat) : State :=
  let t := s.leave
  (t.setRole t.curKey (fallFrom t.curRole t.cur.cl a n)).stamp
/-- The same at its head. -/
def State.fell (s : State) (n : Nat) : State := s.fellAt s.leave.clu.pc n
/-- The current cluster goes on at t by a taken transfer (R129, R218), and the commit is stamped. -/
def State.jumped (s : State) (t : Word) (isCall : Bool) : State :=
  let u := s.leave
  (u.setRole u.curKey (jumpFrom u.curRole u.cur.cl u.clu.pc t isCall)).stamp

/-- R131: the current cluster halts, and the commit is stamped; the role notes when its last cluster does (R313). -/
def State.halted (s : State) : State :=
  let u := s.leave
  let r := haltClu u.curRole u.cur.cl
  (u.setRole u.curKey (if r.allHalted then { r with haltAt := s.cycle } else r)).stamp
/-- R125, R105: where a taken transfer may go: a multiple of 8; on M, no payload word of a nest record (R99). -/
def TargetOk (s : State) (t : Word) : Prop :=
  t.toNat % 8 = 0 ∧ (s.cur.cl = .m → inNestPayload s s.cur.core.toNat s.curRole.asid.toNat t = false)
/-- PC + sext(OFF28) × 8 (R87). -/
def State.branchTo (s : State) (off : BitVec 28) : Word := s.clu.pc + off.signExtend 64 * 8

/-- The invariant of the memories: device memory and tile stores keep their canonical form. -/
def State.Inv (s : State) : Prop := Memory.wf s.mem = true ∧ Memory.wf s.tile = true

/-! ### The results of the scalar instructions, as the tables of 06_isa_control_scalar give them -/

/-- R136: the minors that read A and B and raise no flag, with D as a function of A and B. -/
def aluTwo : List ((Hdr → S2 → Instr) × (Word → Word → Word)) :=
  [(.add, fun a b => a + b), (.sub, fun a b => a - b), (.mul, fun a b => a * b),
   (.mulh, fun a b => BitVec.ofInt 64 (a.toInt * b.toInt / 2 ^ 64)),
   (.mulhu, fun a b => BitVec.ofNat 64 (a.toNat * b.toNat / 2 ^ 64)),
   (.and, fun a b => a &&& b), (.or, fun a b => a ||| b), (.xor, fun a b => a ^^^ b), (.andn, fun a b => a &&& ~~~b),
   (.shl, fun a b => a <<< (b.toNat % 64)), (.shr, fun a b => a >>> (b.toNat % 64)),
   (.sar, fun a b => a.sshiftRight (b.toNat % 64)), (.rol, fun a b => a.rotateLeft (b.toNat % 64)),
   (.ror, fun a b => a.rotateRight (b.toNat % 64)),
   (.min, fun a b => if a.toInt ≤ b.toInt then a else b), (.max, fun a b => if a.toInt ≤ b.toInt then b else a),
   (.minu, fun a b => if a.toNat ≤ b.toNat then a else b), (.maxu, fun a b => if a.toNat ≤ b.toNat then b else a),
   (.sext, fun a b => BitVec.ofInt 64 (sint (extN b) a.toNat)), (.zext, fun a b => BitVec.ofNat 64 (a.toNat % 2 ^ extN b))]

/-- R136, R137: the minors that read A and B and may raise a flag: D and the flags, from A and B. -/
def aluFlags : List ((Hdr → S2 → Instr) × (Word → Word → Word × Fl)) :=
  [(.div, fun a b => if b = 0 then (0, if a = 0 then fIV else fDZ)
      else if a.toInt = -2 ^ 63 ∧ b.toInt = -1 then (BitVec.ofInt 64 (-2 ^ 63), fOF)
      else (BitVec.ofInt 64 (Int.tdiv a.toInt b.toInt), 0)),
   (.divu, fun a b => if b = 0 then (0, if a = 0 then fIV else fDZ) else (BitVec.ofNat 64 (a.toNat / b.toNat), 0)),
   (.rem, fun a b => if b = 0 then (a, if a = 0 then fIV else fDZ)
      else if a.toInt = -2 ^ 63 ∧ b.toInt = -1 then (0, fOF)
      else (BitVec.ofInt 64 (a.toInt - b.toInt * Int.tdiv a.toInt b.toInt), 0)),
   (.remu, fun a b => if b = 0 then (a, if a = 0 then fIV else fDZ) else (BitVec.ofNat 64 (a.toNat % b.toNat), 0)),
   (.adds, fun a b => if a.toInt + b.toInt < -2 ^ 63 then (BitVec.ofInt 64 (-2 ^ 63), fSAT)
      else if 2 ^ 63 - 1 < a.toInt + b.toInt then (BitVec.ofInt 64 (2 ^ 63 - 1), fSAT)
      else (BitVec.ofInt 64 (a.toInt + b.toInt), 0)),
   (.subs, fun a b => if a.toInt - b.toInt < -2 ^ 63 then (BitVec.ofInt 64 (-2 ^ 63), fSAT)
      else if 2 ^ 63 - 1 < a.toInt - b.toInt then (BitVec.ofInt 64 (2 ^ 63 - 1), fSAT)
      else (BitVec.ofInt 64 (a.toInt - b.toInt), 0))]

/-- R136: the minors that read A alone. -/
def aluOne : List ((Hdr → S1 → Instr) × (Word → Word)) :=
  [(.clz, fun a => BitVec.ofNat 64 (if a = 0 then 64 else 63 - Nat.log2 a.toNat)),
   (.ctz, fun a => BitVec.ofNat 64 (if a = 0 then 64 else Nat.log2 (a &&& (-a)).toNat)),
   (.popc, fun a => BitVec.ofNat 64 ((List.range 64).countP (fun i => a.getLsbD i)))]

/-- R136: the minors that read A, B and C. -/
def aluThree : List ((Hdr → S3 → Instr) × (Word → Word → Word → Word)) :=
  [(.madd, fun a b c => a * b + c), (.msub, fun a b c => c - a * b), (.sel, fun a b c => if c ≠ 0 then a else b)]

/-- R138, R140: the I-format minors without flags, with D as a function of A and the sign-extended immediate. -/
def aluImm : List ((Hdr → I1 → Instr) × (Word → Word → Word)) :=
  [(.aluiAdd, fun a b => a + b), (.aluiMul, fun a b => a * b), (.aluiAnd, fun a b => a &&& b), (.aluiOr, fun a b => a ||| b),
   (.aluiXor, fun a b => a ^^^ b), (.aluiShl, fun a b => a <<< (b.toNat % 64)), (.aluiShr, fun a b => a >>> (b.toNat % 64)),
   (.aluiSar, fun a b => a.sshiftRight (b.toNat % 64)), (.aluiRol, fun a b => a.rotateLeft (b.toNat % 64)),
   (.aluiRor, fun a b => a.rotateRight (b.toNat % 64)), (.aluiMin, fun a b => if a.toInt ≤ b.toInt then a else b),
   (.aluiMax, fun a b => if a.toInt ≤ b.toInt then b else a), (.aluiMinu, fun a b => if a.toNat ≤ b.toNat then a else b),
   (.aluiMaxu, fun a b => if a.toNat ≤ b.toNat then b else a),
   (.lea, fun a b => ((a + b).extractLsb' 0 57).signExtend 64)]

/-- R101: the condition codes on 64-bit values. -/
def condHolds (cc : Cond) (a b : Word) : Bool :=
  match cc with
  | .eq => a == b | .ne => a != b
  | .lt => decide (a.toInt < b.toInt) | .le => decide (a.toInt ≤ b.toInt)
  | .gt => decide (b.toInt < a.toInt) | .ge => decide (b.toInt ≤ a.toInt)
  | .ltu => decide (a.toNat < b.toNat) | .leu => decide (a.toNat ≤ b.toNat)
  | .gtu => decide (b.toNat < a.toNat) | .geu => decide (b.toNat ≤ a.toNat)

/-- R142: the predicate operations on two predicates, and on one. -/
def predTwo : List ((Hdr → BitVec 7 → BitVec 7 → BitVec 7 → Instr) × (Pred → Pred → Pred)) :=
  [(.pand, fun a b => a &&& b), (.por, fun a b => a ||| b), (.pxor, fun a b => a ^^^ b), (.pandn, fun a b => a &&& ~~~b)]
def predOne : List ((Hdr → BitVec 7 → BitVec 7 → Instr) × (Pred → Pred)) := [(.pnot, fun a => ~~~a), (.pmov, fun a => a)]
/-- R142: PCNT, PFIRST and PLAST, from the lanes of the type whose bit is set, ascending. -/
def predLanes : List ((Hdr → SDst → BitVec 7 → ETy → Instr) × (List Nat → Word)) :=
  [(.pcnt, fun l => BitVec.ofNat 64 l.length),
   (.pfirst, fun l => match l.head? with | some i => BitVec.ofNat 64 i | none => -1),
   (.plast, fun l => match l.getLast? with | some i => BitVec.ofNat 64 i | none => -1)]

/-- What a scalar, predicate or control syllable may write of the role's own registers: its queue marks, its scalar destination,
the X register it also writes, its predicate (06_isa_control_scalar). None for every other instruction. -/
structure Writes where
  marks : List Mk := []
  dst : Option SDst := none
  x : Option (BitVec 5) := none
  p : Option (BitVec 7) := none

def two (o : S2) : Option Writes := some { marks := [msMk o.a, msMk o.b], dst := some o.d }
def three (o : S3) : Option Writes := some { marks := [msMk o.a, msMk o.b, csMk o.c], dst := some o.d }
def one (o : S1) : Option Writes := some { marks := [msMk o.a], dst := some o.d }
def imm (o : I1) : Option Writes := some { marks := [(sQueue o.a, o.la)], dst := some o.d }
def scalarWrites : Instr → Option Writes
  | .nop _ | .hint .. | .hint7F .. | .br .. | .brpAny .. | .brpAll .. | .brpNone .. | .brx .. | .ret .. | .jmpx ..
  | .loop .. | .loopi .. | .halt _ | .yield _ | .trap .. | .tfence _ => some {}
  | .call _ x _ => some { x := some x }
  | .add _ o | .sub _ o | .mul _ o | .mulh _ o | .mulhu _ o | .div _ o | .divu _ o | .rem _ o | .remu _ o | .and _ o | .or _ o
  | .xor _ o | .andn _ o | .shl _ o | .shr _ o | .sar _ o | .rol _ o | .ror _ o | .min _ o | .max _ o | .minu _ o | .maxu _ o
  | .sext _ o | .zext _ o | .adds _ o | .subs _ o => two o
  | .madd _ o | .msub _ o | .sel _ o => three o
  | .clz _ o | .ctz _ o | .popc _ o => one o
  | .aluiAdd _ o | .aluiMul _ o | .aluiAnd _ o | .aluiOr _ o | .aluiXor _ o | .aluiShl _ o | .aluiShr _ o | .aluiSar _ o
  | .aluiRol _ o | .aluiRor _ o | .aluiMin _ o | .aluiMax _ o | .aluiMinu _ o | .aluiMaxu _ o | .aluiAdds _ o | .lea _ o => imm o
  | .movk _ x _ | .movkh _ x _ => some { x := some x }
  | .cmp _ _ o | .psetx _ o => some { marks := [msMk o.a, msMk o.b], p := some o.p }
  | .pand _ d _ _ | .por _ d _ _ | .pxor _ d _ _ | .pandn _ d _ _ | .pnot _ d _ | .pmov _ d _ => some { p := some d }
  | .pgetx _ d _ b => some { marks := [msMk b], dst := some d }
  | .pcnt _ d _ _ | .pfirst _ d _ _ | .plast _ d _ _ | .qlen _ d _ _ | .rdtime _ d => some { dst := some d }
  | _ => none

/-- The registers of a role that no scalar, predicate or control syllable writes are as they were, and, outside a bundle, its
requests. -/
def Role.sameBut (r r' : Role) : Prop :=
  (r.snap = none → r'.acc = r.acc) ∧
  r' = { r with acc := r'.acc, recent := r'.recent, haltAt := r'.haltAt, xs := r'.xs, qs := r'.qs, ps := r'.ps, flags := r'.flags, ffrec := r'.ffrec, cl := r'.cl, cm := r'.cm,
                cv := r'.cv, cw := r'.cw, lastAct := r'.lastAct, st := r'.st, stop := r'.stop, lastcode := r'.lastcode,
                stopReq := r'.stopReq, snap := r'.snap, frozen := r'.frozen }
/-- The role of no other slot, and nothing outside the roles but the violation log, differs. -/
def State.onlyRole (s t : State) : Prop :=
  t = { s with roles := t.roles, viols := t.viols } ∧ ∀ k, k ≠ s.curKey → t.role k = s.role k

/-- R53: a member of a bundle that writes one register, from what the members of its bundle read: no other effect of its own. -/
def WritesOne (sn : Snap) (body : Iss Flow) (w : Role → Role) : Prop :=
  (∃ d, (∃ v, w = fun r => r.setX d v) ∨ (∃ v, w = fun r => r.setP d v) ∨ ∃ v, w = fun r => r.setV d v) ∧
  ∀ t : State, t.curRole.snap = some sn → t.curRole.acc = [] → t.curRole.nest = none →
    body t = .ok (.fall, t.setRole t.curKey (w t.curRole))

/-! ### Requests -/

/-- R231, R359: a request is sent: it is outstanding, with the role's next number, at its cluster and PC. -/
def Sends (a : Access) (s s' : State) : Prop := Does (sendAcc a) s s'
/-- R227, R228: an operand that accepts virtual addresses only, a multiple of n. -/
def GoodAddr (a : Word) (n : Nat) : Prop := canonical a = true ∧ a.toNat % n = 0
/-- R227: an address operand of a copy. -/
def copyAddrOk (a : Word) : Bool := canonical a || isTileRef a
/-- R237: the operations of ATOM but CAS, with their numbers. -/
def atomOps : List ((Hdr → BitVec 5 → MF → Instr) × Nat) :=
  [(.atomAdd, 0), (.atomAnd, 1), (.atomOr, 2), (.atomXor, 3), (.atomMin, 4), (.atomMax, 5), (.atomMinu, 6), (.atomMaxu, 7),
   (.atomSwap, 8)]
/-- R330: the POOL operations of sources A and B without a destination, with their numbers and orders. -/
def poolOps : List ((Hdr → A2 → Instr) × Nat × Ord) := [(.ppub, 1, .rel), (.pabort, 2, .relaxed), (.prel, 4, .rel)]

/-! ### Rows -/

/-- R147 to R149: what a row result does: the lanes rs (codes and flags) meet the guard: flags of guarded lanes are raised, row
sources are popped, and the destination takes the guarded lanes over its old contents. -/
def RowDone (h : Hdr) (ty : ETy) (srcs : List (RSrc × Bool)) (d : RDst) (rs : List (Nat × Fl)) (s t : State) : Prop :=
  ∃ g old s1 s2, Reads (guardP h) s g ∧ Reads (oldRow d) s old ∧ Does (raiseLanes (rowIdOf d) (laneFlags g rs)) s s1 ∧
    Does (popRows srcs) s1 s2 ∧ Does (wrR d (mergeLanes ty g old (rs.map Prod.fst))) s2 t
/-- R137 at width w, R150, R152, R153 on integers: the exact value that the lane takes modulo 2^n, and its flags, from the signed
lanes. -/
def vecInt : List ((Hdr → V2 → Instr) × (Nat → Int → Int → Int × Fl)) :=
  [(.vadd, fun _ x y => (x + y, 0)), (.vsub, fun _ x y => (x - y, 0)), (.vmul, fun _ x y => (x * y, 0)),
   (.vdiv, fun n x y => if y = 0 then (0, if x = 0 then fIV else fDZ)
      else if x = -2 ^ (n - 1) ∧ y = -1 then (x, fOF) else (Int.tdiv x y, 0)),
   (.vmin, fun _ x y => (min x y, 0)), (.vmax, fun _ x y => (max x y, 0)),
   (.vadds, fun n x y => if x + y < -2 ^ (n - 1) then (-2 ^ (n - 1), fSAT)
      else if 2 ^ (n - 1) - 1 < x + y then (2 ^ (n - 1) - 1, fSAT) else (x + y, 0)),
   (.vsubs, fun n x y => if x - y < -2 ^ (n - 1) then (-2 ^ (n - 1), fSAT)
      else if 2 ^ (n - 1) - 1 < x - y then (2 ^ (n - 1) - 1, fSAT) else (x - y, 0)),
   (.vmulhi, fun n x y => (x * y / 2 ^ n, 0))]
/-- R150, R151: the exact result that a floating lane rounds once, and its flags beyond rounding. -/
def vecFloat : List ((Hdr → V2 → Instr) × (RM → Dyad → Dyad → Dyad × Fl)) :=
  [(.vadd, addNum), (.vsub, fun rm x y => addNum rm x y.neg), (.vmul, fun _ => mulNum), (.vdiv, fun _ => divNum)]
/-- R150: the two fused multiply-adds. -/
def vecFused : List ((Hdr → V3 → Instr) × Bool) := [(.vfma, false), (.vfnma, true)]
/-- R159: the special functions and their numbers. -/
def vecSfu : List ((Hdr → V1 → Instr) × Nat) :=
  [(.vrecip, 0), (.vrsqrt, 1), (.vsqrt, 2), (.vexp2, 3), (.vlog2, 4), (.vtanh, 5), (.vsigm, 6)]
/-- R154: the bits of a lane of n bits from the bits of A and B. -/
def vecBits : List ((Hdr → V2 → Instr) × (Nat → Nat → Nat → Nat)) :=
  [(.vand, fun _ x y => x &&& y), (.vor, fun _ x y => x ||| y), (.vxor, fun _ x y => x ^^^ y),
   (.vandn, fun n x y => x &&& (2 ^ n - 1 - y)), (.vshl, fun n x y => x * 2 ^ (y % n) % 2 ^ n),
   (.vshr, fun n x y => x / 2 ^ (y % n)), (.vsar, fun n x y => uintOf n (sint n x / 2 ^ (y % n)))]
/-- The signed value of lane i. -/
def laneInt (ty : ETy) (v : RowVal) (i : Nat) : Int := sint ty.bits (v.bitsAt ty i)
/-- R101, R155: a condition on two integer lanes, by their signed and their unsigned values. -/
def condInt (cc : Cond) (x y : Int) (a b : Nat) : Bool :=
  match cc with
  | .eq => x == y | .ne => x != y
  | .lt => decide (x < y) | .le => decide (x ≤ y) | .gt => decide (y < x) | .ge => decide (y ≤ x)
  | .ltu => decide (a < b) | .leu => decide (a ≤ b) | .gtu => decide (b < a) | .geu => decide (b ≤ a)

/-- What a vector instruction may write of its role's own registers: a row, a scalar destination, a predicate. None for every
other instruction. -/
structure RowWrites where
  d : Option RDst := none
  sd : Option SDst := none
  p : Option (BitVec 7) := none

def vectorWrites : Instr → Option RowWrites
  | .vadd _ o | .vsub _ o | .vmul _ o | .vdiv _ o | .vmin _ o | .vmax _ o | .vadds _ o | .vsubs _ o | .vmulhi _ o | .vand _ o
  | .vor _ o | .vxor _ o | .vandn _ o | .vshl _ o | .vshr _ o | .vsar _ o | .vperm _ o => some { d := some o.d }
  | .vfma _ o | .vfnma _ o => some { d := some o.d }
  | .vabs _ o | .vneg _ o | .vnot _ o | .vmov _ o | .vrecip _ o | .vrsqrt _ o | .vsqrt _ o | .vexp2 _ o | .vlog2 _ o
  | .vtanh _ o | .vsigm _ o | .vscansum _ o => some { d := some o.d }
  | .vsel _ o => some { d := some o.d }
  | .vbcast _ o | .vrot _ o => some { d := some o.d }
  | .vzip _ o | .vunzip _ o => some { d := some o.d }
  | .vrng _ o => some { d := some o.d }
  | .vcvt _ o => some { d := some o.d }
  | .vquant _ o | .vdeq _ o => some { d := some o.d }
  | .vscale _ o => some { d := some o.d }
  | .vins _ o => some { d := some (.v o.d) }
  | .vlane _ o => some { sd := some o.d }
  | .vredsum _ o | .vredmax _ o | .vredmin _ o => some { sd := some o.d }
  | .vcmp _ _ o => some { p := some o.p }
  | .vrngp _ o => some { p := some o.p }
  | _ => none

/-! ### Nest records -/

/-- The nest records, with their S bit (R94). -/
def nestSync : Instr → Option Bool
  | .mma b _ | .mmas b _ _ _ | .mhad b _ | .mdrain b _ | .mzero b _ _ | .mloada b _ | .mtrans b _ _ => some b
  | _ => none
/-- A nest record as it enters flight at the head of the current cluster (R172). -/
def State.flightOf (s : State) (i : Instr) : Flight := { addr := s.clu.pc, words := encode i, step := 0, raised := [] }
/-- The rows of a row operation: a count of 0 is read as 128 (R97). -/
def rowCount (rows : BitVec 8) : Nat := if rows = 0 then 128 else rows.toNat
/-- R181, R187: a product, exact, with its flag; a position that MMAS did not store gives +0. -/
def prodOf : Pair → Dyad × Fl
  | none => (.fin false 0 0, 0)
  | some (a, b) => mulNum a b
/-- R179, R181, R182: an accumulator takes a group's sum: one rounding of the exact sum, or the sum itself where the row has no value
yet. -/
def accPlus (acc : Option Nat) (g : Nat × Fl) : Nat × Fl :=
  match acc with
  | none => g
  | some a =>
    let v := addNum .rne (decodeNum .fp32 a) (decodeNum .fp32 g.1)
    let r := roundF .fp32 .rne v.1
    (r.1, g.2 ||| v.2 ||| r.2)
/-- R181: m × 2^x truncated towards zero to a multiple of 2^q, in units of 2^q, and whether that changed it. -/
def truncUnits (q : Int) : Dyad → Int × Bool
  | .fin neg m x =>
    let d := (q - x).toNat
    let n := if q ≤ x then m * 2 ^ (x - q).toNat else m / 2 ^ d
    (if neg then -(n : Int) else n, decide (x < q) && m % 2 ^ d != 0)
  | _ => (0, false)
/-- The state after the next step of the record f of role k, with the V rows and flags that the step gives. -/
def State.stepped (s : State) (k : Nat) (f : Flight) (fl : Raised) (s2 : State) : State :=
  s2.setRole k { s2.role k with nest := some { f with step := f.step + 1, raised := f.raised ++ fl }, lastAct := s.cycle }

end Sys2Proof.Machine
end

