-- ==== Sys2Proof/Certificates/Slice0/Obligations.lean ====
section
/-! DEFINITION. The statements for the provers: each is a Prop about the machine, in the order of OBLIGATIONS.json. -/

open Sys2Proof Sys2Proof.Machine

/-! ### Scalar results -/

/-- R136, R57, R68, R119: an ALU minor of two sources without flags writes the value the table gives, pops its marked queues
and goes on.
R136: the ALU minors of one source and of three. -/
def Obligations.AluResults : Prop :=
  (∀ c f, (c, f) ∈ aluTwo → ∀ (h : Hdr) (o : S2) (s s1 s2 : State) (a b : Word), Ready 8 h.s s → Reads (guardS h) s true →
       Reads (rdS o.a.src) s a → Reads (rdS o.b.src) s b → Does (popMarks [msMk o.a, msMk o.b]) s s1 →
       Does (wrS o.d (f a b)) s1 s2 → exec (c h o) s = .next (s2.fell 8)) ∧
  ((∀ c f, (c, f) ∈ aluOne → ∀ (h : Hdr) (o : S1) (s s1 s2 : State) (a : Word), Ready 8 h.s s → Reads (guardS h) s true →
       Reads (rdS o.a.src) s a → Does (popMarks [msMk o.a]) s s1 → Does (wrS o.d (f a)) s1 s2 →
       exec (c h o) s = .next (s2.fell 8)) ∧
     (∀ c f, (c, f) ∈ aluThree → ∀ (h : Hdr) (o : S3) (s s1 s2 : State) (a b x : Word), Ready 8 h.s s →
       Reads (guardS h) s true → Reads (rdS o.a.src) s a → Reads (rdS o.b.src) s b → Reads (rdS o.c.src) s x →
       Does (popMarks [msMk o.a, msMk o.b, csMk o.c]) s s1 → Does (wrS o.d (f a b x)) s1 s2 →
       exec (c h o) s = .next (s2.fell 8)))

/-- R136, R137, R121: the ALU minors with flags: the quotient, remainder or clamped sum, and the flag raised in the role's
flag word for element (core, role, 255, 0). None of the cases traps. -/
def Obligations.AluFlagged : Prop :=
  ∀ c f, (c, f) ∈ aluFlags → ∀ (h : Hdr) (o : S2) (s s1 s2 s3 : State) (a b : Word), Ready 8 h.s s →
    Reads (guardS h) s true → Reads (rdS o.a.src) s a → Reads (rdS o.b.src) s b → Does (raiseI 255 0 (f a b).2) s s1 →
    Does (popMarks [msMk o.a, msMk o.b]) s1 s2 → Does (wrS o.d (f a b).1) s2 s3 → exec (c h o) s = .next (s3.fell 8)

/-- R138, R139, R140: the ALUI minors and LEA on the sign-extended immediate, ALUI ADDS with its flag, MOVK and MOVKH. -/
def Obligations.ImmediateResults : Prop :=
  (∀ c f, (c, f) ∈ aluImm → ∀ (h : Hdr) (o : I1) (s s1 s2 : State) (a : Word), Ready 8 h.s s → Reads (guardS h) s true →
    Reads (rdS o.a) s a → Does (popMarks [(sQueue o.a, o.la)]) s s1 → Does (wrS o.d (f a (o.imm.signExtend 64))) s1 s2 →
    exec (c h o) s = .next (s2.fell 8)) ∧
  (∀ (h : Hdr) (o : I1) (s s1 s2 s3 : State) (a : Word) (f : Word → Word → Word × Fl), (Instr.adds, f) ∈ aluFlags →
    Ready 8 h.s s → Reads (guardS h) s true → Reads (rdS o.a) s a → Does (raiseI 255 0 (f a (o.imm.signExtend 64)).2) s s1 →
    Does (popMarks [(sQueue o.a, o.la)]) s1 s2 → Does (wrS o.d (f a (o.imm.signExtend 64)).1) s2 s3 →
    exec (.aluiAdds h o) s = .next (s3.fell 8)) ∧
  (∀ (h : Hdr) (x : BitVec 5) (imm : BitVec 40) (s s1 : State), Ready 8 h.s s → Reads (guardS h) s true →
    Does (wrX x.toNat (imm.signExtend 64)) s s1 → exec (.movk h x imm) s = .next (s1.fell 8)) ∧
  (∀ (h : Hdr) (x : BitVec 5) (imm : BitVec 24) (s s1 : State) (v : Word), Ready 8 h.s s → Reads (guardS h) s true →
    Reads (rdX x.toNat) s v → Does (wrX x.toNat (imm ++ v.extractLsb' 0 40)) s s1 →
    exec (.movkh h x imm) s = .next (s1.fell 8))

/-- R101, R141, R142, R143: CMP sets all 512 bits to the truth of its condition; the predicate operations; PSETX replaces one
64-bit word.
R142, R144: PGETX, PCNT, PFIRST, PLAST and QLEN. That QLEN counts the filled entries at the head alone, and leaves out those that a load
in flight has reserved, is the model's choice (log 25). -/
def Obligations.PredicateInstructions : Prop :=
  ((∀ (h : Hdr) (cc : Cond) (o : P2) (s s1 s2 : State) (a b : Word), Ready 8 h.s s → Reads (guardS h) s true →
       Reads (rdS o.a.src) s a → Reads (rdS o.b.src) s b →
       Does (wrP o.p.toNat (if condHolds cc a b then BitVec.allOnes 512 else 0)) s s1 →
       Does (popMarks [msMk o.a, msMk o.b]) s1 s2 → exec (.cmp h cc o) s = .next (s2.fell 8)) ∧
     (∀ c f, (c, f) ∈ predTwo → ∀ (h : Hdr) (d a b : BitVec 7) (s s1 : State) (x y : Pred), Ready 8 h.s s →
       Reads (guardS h) s true → Reads (rdP a.toNat) s x → Reads (rdP b.toNat) s y → Does (wrP d.toNat (f x y)) s s1 →
       exec (c h d a b) s = .next (s1.fell 8)) ∧
     (∀ c f, (c, f) ∈ predOne → ∀ (h : Hdr) (d a : BitVec 7) (s s1 : State) (x : Pred), Ready 8 h.s s →
       Reads (guardS h) s true → Reads (rdP a.toNat) s x → Does (wrP d.toNat (f x)) s s1 →
       exec (c h d a) s = .next (s1.fell 8)) ∧
     (∀ (h : Hdr) (o : P2) (s s1 s2 : State) (a b : Word) (old new : Pred), Ready 8 h.s s → Reads (guardS h) s true →
       Reads (rdS o.a.src) s a → Reads (rdS o.b.src) s b → Reads (rdP o.p.toNat) s old →
       (∀ i < 512, new.getLsbD i = if i / 64 = b.toNat % 8 then a.getLsbD (i % 64) else old.getLsbD i) →
       Does (wrP o.p.toNat new) s s1 → Does (popMarks [msMk o.a, msMk o.b]) s1 s2 →
       exec (.psetx h o) s = .next (s2.fell 8))) ∧
  ((∀ (h : Hdr) (d : SDst) (a : BitVec 7) (b : MS) (s s1 s2 : State) (p : Pred) (w : Word), Ready 8 h.s s →
       Reads (guardS h) s true → Reads (rdP a.toNat) s p → Reads (rdS b.src) s w → Does (popMarks [msMk b]) s s1 →
       Does (wrS d (p.extractLsb' (64 * (w.toNat % 8)) 64)) s1 s2 → exec (.pgetx h d a b) s = .next (s2.fell 8)) ∧
     (∀ c f, (c, f) ∈ predLanes → ∀ (h : Hdr) (d : SDst) (a : BitVec 7) (ty : ETy) (s s1 : State) (p : Pred), Ready 8 h.s s →
       Reads (guardS h) s true → Reads (rdP a.toNat) s p →
       Does (wrS d (f ((List.range ty.lanes).filter (fun i => p.getLsbD i)))) s s1 →
       exec (c h d a ty) s = .next (s1.fell 8)) ∧
     (∀ (h : Hdr) (d : SDst) (q : BitVec 4) (u : Bool) (s s1 : State), Ready 8 h.s s → Reads (guardS h) s true →
       Does (wrS d (BitVec.ofNat 64 ((qList (seenQs s.curRole) q.toNat).takeWhile
         (fun e => e.pend.isNone && decide (e.at_ + 2 ≤ s.cycle))).length)) s s1 →
       exec (.qlen h d q u) s = .next (s1.fell 8)))

/-! ### Operands -/

/-- R59, R60, R61, R64, R65: what a scalar source and a predicate deliver: an X register or a predicate that no request in
flight is to write, P0 all ones, a sign-extended constant, a special, the head of a queue pushed two cycles before. An empty
queue makes its reader wait (R48, R58). -/
def Obligations.OperandReads : Prop :=
  ∀ s : State,
  (∀ n : BitVec 5, (∀ a ∈ s.curRole.acc, Dest.x n.toNat ∉ a.dests) → s.curRole.snap = none →
    Reads (rdS (.x n)) s (s.curRole.x n.toNat)) ∧
  (∀ c : BitVec 5, Reads (rdS (.k c)) s (c.signExtend 64)) ∧
  Reads (rdS (.sp .zero)) s 0 ∧
  Reads (rdS (.sp .core)) s (BitVec.ofNat 64 s.cur.core.toNat) ∧
  Reads (rdS (.sp .role)) s (BitVec.ofNat 64 s.cur.slot.toNat) ∧
  Reads (rdS (.sp .ncores)) s (BitVec.ofNat 64 s.curRole.ncores) ∧
  (s.clock = true → Reads (rdS (.sp .dtime)) s (BitVec.ofNat 64 (s.cycle * 4 / 5))) ∧
  (s.clock = false → Reads (rdS (.sp .dtime)) s 0) ∧
  (s.clu.lrec = none → Reads (rdS (.sp .iter)) s 0) ∧
  (∀ (n : BitVec 3) (e : QEnt) (t : List QEnt), s.curRole.snap = none → qList s.curRole.qs n.toNat = e :: t → e.pend = none →
    e.at_ + 2 ≤ s.cycle → Reads (rdS (.q n)) s (e.val.setWidth 64)) ∧
  (∀ n : BitVec 3, s.curRole.snap = none → qList s.curRole.qs n.toNat = [] → rdS (.q n) s = .error .wait) ∧
  (∀ (n : BitVec 3) (e : QEnt) (t : List QEnt), s.curRole.snap = none → qList s.curRole.qs n.toNat = e :: t → e.pend = none →
    s.cycle < e.at_ + 2 → rdS (.q n) s = .error .wait) ∧
  (∀ h : Hdr, (∀ a ∈ seenAcc s.curRole, Dest.p 0 ∉ a.dests) → h.g = 0 → Reads (guardS h) s (!h.gn)) ∧
  (∀ n : BitVec 7, (∀ a ∈ s.curRole.acc, Dest.p n.toNat ∉ a.dests) → n ≠ 0 → s.curRole.snap = none →
    (∀ a ∈ s.curRole.acc, a.cl = s.cur.cl → a.cueerr = n.toNat → mayCueLoad s s.curRole.asid.toNat a = false) →
    Reads (rdP n.toNat) s (s.curRole.p n.toNat)) ∧
  (∀ (n : BitVec 7) (a : Access), (∀ b ∈ s.curRole.acc, Dest.p n.toNat ∉ b.dests) → n ≠ 0 → s.curRole.snap = none →
    s.curRole.acc = [a] → a.cl = s.cur.cl → a.cueerr = n.toNat → mayCueLoad s s.curRole.asid.toNat a = true →
    rdP n.toNat s = if a.stat.open_ then .error .wait else .error (.deferred (faultBehind s.curRole a)))

/-- R53, R56, R57, R58, R60, R61, R68, R119: what a scalar destination and a predicate take (in a bundle, a request that an earlier
member sent delivers to that destination no more), and what a queue does: a push appends
while there is room, waits while the queue is full; marks pop each queue once. -/
def Obligations.OperandWrites : Prop :=
  ∀ s : State,
  (∀ (n : BitVec 5) (v : Word), (∀ a ∈ seenAcc s.curRole, Dest.x n.toNat ∉ a.dests) →
    ∃ t, Does (wrS (.x n) v) s t ∧ t = { s with roles := t.roles } ∧
      t.curRole = { s.curRole with xs := t.curRole.xs, acc := (s.curRole.overtake (.x n.toNat)).acc } ∧
      (∀ k, k ≠ s.curKey → t.role k = s.role k) ∧
      ∀ m, t.curRole.x m = if m = n.toNat then v else s.curRole.x m) ∧
  (∀ (n : BitVec 7) (v : Pred), n ≠ 0 → (∀ a ∈ seenAcc s.curRole, Dest.p n.toNat ∉ a.dests) →
    ∃ t, Does (wrP n.toNat v) s t ∧ t = { s with roles := t.roles } ∧
      t.curRole = { s.curRole with ps := t.curRole.ps, acc := (s.curRole.overtake (.p n.toNat)).acc } ∧
      (∀ k, k ≠ s.curKey → t.role k = s.role k) ∧
      ∀ m, t.curRole.p m = if m = n.toNat then v else s.curRole.p m) ∧
  (∀ (n : BitVec 3) (v : Word), s.curRole.snap = none → (∀ e ∈ qList s.curRole.qs n.toNat, e.pend = none) →
    s.curRole.acc = [] → (qList s.curRole.qs n.toNat).length < 16 →
    ∃ t, Does (wrS (.q n) v) s t ∧ t = { s with roles := t.roles } ∧ t.curRole = { s.curRole with qs := t.curRole.qs } ∧
      (∀ k, k ≠ s.curKey → t.role k = s.role k) ∧
      ∀ q, qList t.curRole.qs q = if q = n.toNat then qList s.curRole.qs q ++ [⟨s.cycle, v.setWidth 4096, none⟩]
        else qList s.curRole.qs q) ∧
  (∀ (n : BitVec 3) (v : Word), s.curRole.snap = none → (∀ e ∈ qList s.curRole.qs n.toNat, e.pend = none) →
    16 ≤ (qList s.curRole.qs n.toNat).length → wrS (.q n) v s = .error .wait) ∧
  (∀ ms : List Mk, ∃ t, Does (popMarks ms) s t ∧ t = { s with roles := t.roles } ∧
    t.curRole = { s.curRole with qs := t.curRole.qs } ∧ (∀ k, k ≠ s.curKey → t.role k = s.role k) ∧
    ∀ q, qList t.curRole.qs q = if (some q, true) ∈ ms then (qList s.curRole.qs q).drop 1 else qList s.curRole.qs q)

/-- R50, R57, R119: a scalar, predicate or control syllable whose guard is false writes no X register or predicate, transfers
no control and raises no flag or trap; it pops its marks and pushes 0 into a queue destination. Each of them but NOP, the hints and
HALT, which take no guard, is named: the ALU and ALUI minors, MOVK, MOVKH, the predicate operations with PGETX, PCNT, PFIRST and
PLAST, QLEN, the branches, CALL, RET, JMPX, the loops, TRAP, TFENCE and YIELD. -/
def Obligations.FalseGuard : Prop :=
  (∀ (h : Hdr) (s s1 s2 : State), Ready 8 h.s s → Reads (guardS h) s false →
    (∀ c, c ∈ aluTwo.map Prod.fst ++ aluFlags.map Prod.fst → ∀ o : S2, Does (needHeads [msMk o.a, msMk o.b]) s s →
      Does (popMarks [msMk o.a, msMk o.b]) s s1 → Does (wrS0 o.d) s1 s2 → exec (c h o) s = .next (s2.fell 8)) ∧
    (∀ c, c ∈ aluOne.map Prod.fst → ∀ o : S1, Does (needHeads [msMk o.a]) s s → Does (popMarks [msMk o.a]) s s1 →
      Does (wrS0 o.d) s1 s2 → exec (c h o) s = .next (s2.fell 8)) ∧
    (∀ c, c ∈ aluThree.map Prod.fst → ∀ o : S3, Does (needHeads [msMk o.a, msMk o.b, csMk o.c]) s s →
      Does (popMarks [msMk o.a, msMk o.b, csMk o.c]) s s1 → Does (wrS0 o.d) s1 s2 → exec (c h o) s = .next (s2.fell 8)) ∧
    (∀ c, c ∈ .aluiAdds :: aluImm.map Prod.fst → ∀ o : I1, Does (needHeads [(sQueue o.a, o.la)]) s s →
      Does (popMarks [(sQueue o.a, o.la)]) s s1 → Does (wrS0 o.d) s1 s2 → exec (c h o) s = .next (s2.fell 8))) ∧
  (∀ (h : Hdr) (s s1 : State), Ready 8 h.s s → Reads (guardS h) s false →
    (∀ (cc : Cond) (o : P2), Does (needHeads [msMk o.a, msMk o.b]) s s → Does (popMarks [msMk o.a, msMk o.b]) s s1 →
      exec (.cmp h cc o) s = .next (s1.fell 8) ∧ exec (.psetx h o) s = .next (s1.fell 8)) ∧
    (∀ c, c ∈ predTwo.map Prod.fst → ∀ d a b, exec (c h d a b) s = .next (s.fell 8)) ∧
    (∀ c, c ∈ predOne.map Prod.fst → ∀ d a, exec (c h d a) s = .next (s.fell 8)) ∧
    (∀ x i, exec (.movk h x i) s = .next (s.fell 8)) ∧ (∀ x i, exec (.movkh h x i) s = .next (s.fell 8)) ∧
    (∀ off, exec (.br h off) s = .next (s.fell 8)) ∧ (∀ x off, exec (.call h x off) s = .next (s.fell 8)) ∧
    (∀ n off, exec (.loopi h n off) s = .next (s.fell 8)) ∧ (∀ n, exec (.trap h n) s = .next (s.fell 8)) ∧
    exec (.tfence h) s = .next (s.fell 8) ∧ exec (.yield h) s = .next (s.fell 8) ∧
    (∀ p ty off, exec (.brpAny h p ty off) s = .next (s.fell 8) ∧ exec (.brpAll h p ty off) s = .next (s.fell 8) ∧
      exec (.brpNone h p ty off) s = .next (s.fell 8)) ∧
    (∀ cc a b off, Does (needHeads [(sQueue a, false), (sQueue b, false)]) s s → exec (.brx h cc a b off) s = .next (s.fell 8)) ∧
    (∀ a off, Does (needHeads [(sQueue a, false)]) s s → exec (.ret h a) s = .next (s.fell 8) ∧
      exec (.jmpx h a off) s = .next (s.fell 8) ∧ exec (.loop h a off) s = .next (s.fell 8))) ∧
  (∀ (h : Hdr) (d : SDst) (s s1 s2 : State), Ready 8 h.s s → Reads (guardS h) s false →
    (∀ a b, Does (needHeads [msMk b]) s s → Does (popMarks [msMk b]) s s1 → Does (wrS0 d) s1 s2 →
      exec (.pgetx h d a b) s = .next (s2.fell 8)) ∧
    (∀ c, c ∈ predLanes.map Prod.fst → ∀ a ty, Does (wrS0 d) s s1 → exec (c h d a ty) s = .next (s1.fell 8)) ∧
    (∀ q u, Does (wrS0 d) s s1 → exec (.qlen h d q u) s = .next (s1.fell 8)))

/-- The frame of the scalar, predicate and control syllables: where one has a next state, memory, tile stores, every other
role and every register are as before, but the X register, predicate and queues it names, the flags, its clusters, and what a
stop writes (R136 to R144, R351). -/
def Obligations.ScalarFrame : Prop :=
  ∀ (i : Instr) (w : Writes) (s t : State), scalarWrites i = some w → exec i s = .next t →
    s.onlyRole t ∧ s.curRole.sameBut t.curRole ∧
    (∀ n : Nat, (∀ m, w.dst = some (.x m) → m.toNat ≠ n) → (∀ m, w.x = some m → m.toNat ≠ n) →
      t.curRole.x n = s.curRole.x n) ∧
    (∀ q : Nat, (∀ m, w.dst = some (.q m) → m.toNat ≠ q) → (some q, true) ∉ w.marks →
      qList t.curRole.qs q = qList s.curRole.qs q) ∧
    (s.clu.lrec = none → ∀ n : Nat, (∀ m, w.p = some m → m.toNat ≠ n) → t.curRole.p n = s.curRole.p n) ∧
    (∀ c, c ≠ s.cur.cl → t.curRole.clu c = s.curRole.clu c)

/-! ### Control -/

/-- R103, R122, R123: NOP and the hints have no effect, whatever their guard. -/
def Obligations.NopHintNoEffect : Prop :=
  ∀ (h : Hdr) (s : State), Ready 8 h.s s →
    exec (.nop h) s = .next (s.fell 8) ∧ (∀ p, exec (.hint h p) s = .next (s.fell 8)) ∧
    (∀ p, exec (.hint7F h p) s = .next (s.fell 8))

/-- R124, R125: a branch whose test holds goes to PC + sext(OFF28) × 8; one whose test fails goes on; CALL links and keeps the
loop stack; RET and JMPX go to A plus the displacement. R99: any of them whose target is no multiple of 8, or on M a payload word of a
nest record, raises ILLEGAL_TARGET and does nothing else. -/
def Obligations.BranchesAndCalls : Prop :=
  ∀ (h : Hdr) (s : State), Ready 8 h.s s → Reads (guardS h) s true →
    (∀ off, TargetOk s (s.branchTo off) → exec (.br h off) s = .next (s.jumped (s.branchTo off) false)) ∧
    (∀ (p : BitVec 7) (ty : ETy) (off : BitVec 28) (v : Pred), Reads (rdP p.toNat) s v →
      (TargetOk s (s.branchTo off) → (∃ i < ty.lanes, v.getLsbD i = true) →
        exec (.brpAny h p ty off) s = .next (s.jumped (s.branchTo off) false)) ∧
      ((¬ ∃ i < ty.lanes, v.getLsbD i = true) → exec (.brpAny h p ty off) s = .next (s.fell 8)) ∧
      (TargetOk s (s.branchTo off) → (∀ i < ty.lanes, v.getLsbD i = true) →
        exec (.brpAll h p ty off) s = .next (s.jumped (s.branchTo off) false)) ∧
      ((¬ ∀ i < ty.lanes, v.getLsbD i = true) → exec (.brpAll h p ty off) s = .next (s.fell 8)) ∧
      (TargetOk s (s.branchTo off) → (∀ i < ty.lanes, v.getLsbD i = false) →
        exec (.brpNone h p ty off) s = .next (s.jumped (s.branchTo off) false)) ∧
      ((¬ ∀ i < ty.lanes, v.getLsbD i = false) → exec (.brpNone h p ty off) s = .next (s.fell 8))) ∧
    (∀ (cc : Cond) (a b : SSrc) (off : BitVec 28) (x y : Word), Reads (rdS a) s x → Reads (rdS b) s y →
      (condHolds cc x y = true → TargetOk s (s.branchTo off) →
        exec (.brx h cc a b off) s = .next (s.jumped (s.branchTo off) false)) ∧
      (condHolds cc x y = false → exec (.brx h cc a b off) s = .next (s.fell 8))) ∧
    (∀ (x : BitVec 5) (off : BitVec 28) (s1 : State), TargetOk s (s.branchTo off) →
      Does (wrX x.toNat (s.clu.pc + 8)) s s1 → exec (.call h x off) s = .next (s1.jumped (s.branchTo off) true)) ∧
    (∀ (a : SSrc) (off : BitVec 28) (v : Word), Reads (rdS a) s v →
      (TargetOk s v → exec (.ret h a) s = .next (s.jumped v false)) ∧
      (v.toNat % 8 ≠ 0 → exec (.ret h a) s = .next (takeTrap s tTGT v 0)) ∧
      (TargetOk s (v + off.signExtend 64 * 8) →
        exec (.jmpx h a off) s = .next (s.jumped (v + off.signExtend 64 * 8) false))) ∧
    (∀ t : Word, ¬ TargetOk s t →
      let bad (i : Instr) : Prop := exec i s = .next (takeTrap s 0x03 t 0)
      (∀ off : BitVec 28, t = s.branchTo off → bad (.br h off) ∧
        (∀ (p : BitVec 7) (ty : ETy) (v : Pred), Reads (rdP p.toNat) s v →
          ((∃ i < ty.lanes, v.getLsbD i = true) → bad (.brpAny h p ty off)) ∧
          ((∀ i < ty.lanes, v.getLsbD i = true) → bad (.brpAll h p ty off)) ∧
          ((∀ i < ty.lanes, v.getLsbD i = false) → bad (.brpNone h p ty off))) ∧
        (∀ (cc : Cond) (a b : SSrc) (x y : Word), Reads (rdS a) s x → Reads (rdS b) s y → condHolds cc x y = true →
          bad (.brx h cc a b off)) ∧
        (∀ (x : BitVec 5) (s1 : State), Does (wrX x.toNat (s.clu.pc + 8)) s s1 → bad (.call h x off))) ∧
      (∀ (a : SSrc) (off : BitVec 28) (v : Word), Reads (rdS a) s v →
        (t = v + off.signExtend 64 * 8 → bad (.jmpx h a off)) ∧ (t = v → bad (.ret h a))))

/-- R126, R127, R99: a LOOP with a count above 0 pushes its body; with a count of 0 the body is skipped to its end, where a loop
around it that goes back to no syllable raises ILLEGAL_TARGET; a body that ends past the one it lies in raises ILLEGAL_TARGET, whatever its count, and a fifth entry LOOP_DEPTH, exactly. -/
def Obligations.LoopInstructions : Prop :=
  ∀ (h : Hdr) (s : State) (off : BitVec 28) (c : Word) (i : Instr), Ready 8 h.s s → Reads (guardS h) s true →
    1 ≤ off.toInt → s.cur.cl ≠ .m → s.clu.lrec = none →
    ((∃ a, i = .loop h a off ∧ Reads (rdS a) s c) ∨ (∃ n : BitVec 16, i = .loopi h n off ∧ c = n.setWidth 64)) →
    let e := s.branchTo off
    let past := ∃ top, s.clu.loops.getLast? = some top ∧ top.start.toNat ≤ s.clu.pc.toNat ∧
      s.clu.pc.toNat ≤ top.stop.toNat ∧ top.stop.toNat < e.toNat
    (past → exec i s = .next (takeTrap s tTGT e 0)) ∧
    (let back := s.clu.advance e 8
     (¬ past → c = 0 → (back.2 = true → back.1.pc.toNat % 8 = 0) → exec i s = .next (s.fellAt e 8)) ∧
     (¬ past → c = 0 → back.2 = true → back.1.pc.toNat % 8 ≠ 0 → exec i s = .next (takeTrap s tTGT back.1.pc 0))) ∧
    (¬ past → c ≠ 0 → s.clu.loops.length = 4 → ∃ w, exec i s = .next (takeTrap s tLOOP w 0)) ∧
    (¬ past → c ≠ 0 → s.clu.loops.length ≠ 4 →
      exec i s = .next ((s.setRole s.curKey (s.curRole.setClu s.cur.cl
        { s.clu with loops := s.clu.loops ++ [{ start := s.clu.pc + 8, stop := e, left := c }] })).fell 8))

/-- R128: after a syllable of n bytes at a, the innermost loop that ends at a goes back with one pass fewer while more than one
is left; otherwise it expires and the next one out is tested; with none that ends at a, the cluster goes on n bytes after a.
And a NOP takes that step, or raises ILLEGAL_TARGET where the loop goes back to no multiple of 8 (R99, R105). -/
def Obligations.LoopEnds : Prop :=
  (∀ (c : Clu) (a : Word) (n : Nat),
    (c.loops = [] → c.advance a n = ({ c with pc := a + BitVec.ofNat 64 n }, false)) ∧
    (∀ (l : List LoopEnt) (e : LoopEnt), c.loops = l ++ [e] →
      (e.stop ≠ a → c.advance a n = ({ c with pc := a + BitVec.ofNat 64 n }, false)) ∧
      (e.stop = a → 1 < e.left.toNat →
        c.advance a n = ({ c with loops := l ++ [{ e with left := e.left - 1 }], pc := e.start }, true)) ∧
      (e.stop = a → e.left.toNat ≤ 1 → c.advance a n = { c with loops := l }.advance a n))) ∧
  (∀ (h : Hdr) (s : State), s.curLive = true → h.s = false → s.clu.lrec = none → s.cur.cl ≠ .m →
    let c := s.clu.advance s.clu.pc 8
    ((c.2 = true → c.1.pc.toNat % 8 = 0) →
      exec (.nop h) s = .next (s.setRole s.curKey (s.curRole.setClu s.cur.cl c.1)).stamp) ∧
    (c.2 = true → c.1.pc.toNat % 8 ≠ 0 → exec (.nop h) s = .next (takeTrap s tTGT c.1.pc 0)))

/-- R129: a taken transfer from a to t pops every loop that ends at a, then every loop around a that does not hold t, and goes to
t; CALL leaves the stack as it is. Outside a loop record nothing else of the cluster changes. -/
def Obligations.TransferSettlesLoops : Prop :=
  ∀ (s : State) (t : Word),
    let a := s.clu.pc
    let l := s.clu.loops.reverse
    let l1 := l.dropWhile (fun e => e.stop == a)
    let l2 := l1.dropWhile (fun e => decide (e.start.toNat ≤ a.toNat) && decide (a.toNat ≤ e.stop.toNat) &&
      !(decide (e.start.toNat ≤ t.toNat) && decide (t.toNat ≤ e.stop.toNat)))
    (s.jumped t false).clu.loops = l2.reverse ∧ (s.jumped t false).clu.pc = t ∧
    (s.jumped t true).clu.loops = s.clu.loops ∧ (s.jumped t true).clu.pc = t ∧
    (s.clu.lrec = none →
      s.jumped t false = (s.setRole s.curKey (s.curRole.setClu s.cur.cl { s.clu with loops := l2.reverse, pc := t })).stamp ∧
      s.jumped t true = (s.setRole s.curKey (s.curRole.setClu s.cur.cl { s.clu with pc := t })).stamp)

/-- R131, R132, R133, R134: HALT halts its cluster once its accesses are performed; YIELD stops the role after it; TRAP stops
it with SOFTWARE, its code and its address; TFENCE goes on unless the flags and their enables share a bit, and then traps
ARITH at itself. -/
def Obligations.HaltYieldTrapTfence : Prop :=
  (∀ (h : Hdr) (s : State), Ready 8 h.s s → ownOpen s false = false → s.curRole.hasFault s.cur.cl = none →
    exec (.halt h) s = .next s.halted) ∧
  (∀ (h : Hdr) (s : State), Ready 8 h.s s → ownOpen s false = true → exec (.halt h) s = .next s) ∧
  (∀ (h : Hdr) (s : State), Ready 8 h.s s → Reads (guardS h) s true →
    exec (.yield h) s = .next (takeStop (s.fell 8) s.curKey 3 0 s.cur.cl 0 0 none) ∧
    (∀ n : BitVec 8, exec (.trap h n) s =
      .next (takeStop (s.fell 8) s.curKey 1 0x70 s.cur.cl (n.setWidth 64) s.clu.pc none))) ∧
  (∀ (h : Hdr) (s : State), Ready 8 h.s s → Reads (guardS h) s true → ownOpen s true = false →
    s.curRole.hasFault s.cur.cl = none → s.curRole.snap = none →
    (s.curRole.flags &&& s.curRole.flagen = 0 → exec (.tfence h) s = .next (s.fell 8)) ∧
    (s.curRole.flags &&& s.curRole.flagen ≠ 0 →
      exec (.tfence h) s = .next (takeTrap s 0x20 ((s.curRole.flags &&& s.curRole.flagen).setWidth 64) s.curRole.ffrec)))

/-! ### Loop records, the sequencer, streams, rings -/

/-- R215, R216, R258: LREC reads its record from memory, whose words give its parts, their lengths, the stages and the rotation
groups, and the cluster starts it (`beginRec`): with a trip count of 0 it goes on after the LREC; with a prologue it goes there;
otherwise to its first kernel iteration, with the stage predicates of that iteration; where I1 < I0, to the epilogue or past the
record. The prologue's end goes to the kernel, or to the epilogue where I1 < I0. The bounds I0 and I1 are those of R216.
R216, R218: where a loop record goes: the stage predicates of kernel iteration i are all ones for s ≤ i < TRIP + s and zero
otherwise; after an iteration below I1 the next one begins at a boundary; after I1 the epilogue, at a boundary too, or the end; and at the end
its stage predicates are zero and the cluster has no record.
R217: in iteration i of a kernel a designator d in a group with base b and length n becomes b + ((d - b + i) mod n); one in no
group stays. -/
def Obligations.LoopRecords : Prop :=
  (∀ (h : Hdr) (a b : SSrc) (off : BitVec 28) (s s1 : State) (va vb : Word) (ws : List Word) (pa : Nat), Ready 8 h.s s →
       Reads (guardS h) s true → s.curRole.hasFault s.cur.cl = none → Reads (rdS a) s va → Reads (rdS b) s vb →
       (b = .sp .zero ∨ vb.toNat < 2 ^ 32) → s.clu.lrec = none →
       let addr := (if a = .sp .zero then s.clu.pc else va) + off.signExtend 64 * 8
       let trip := if b = .sp .zero then (ws.getD 4 0).toNat % 2 ^ 32 else vb.toNat
       let l := lrecOf ws addr (s.clu.pc + 8) trip
       let w3 := (ws.getD 3 0).toNat
       canonical addr = true → addr.toNat % 64 = 0 → readAt s s.cur.core.toNat s.curRole addr .rd 64 = .ok (pa, s1) →
       ws = (List.range 8).map (fun i => s1.memWord (pa + 8 * i)) → lrecOk ws = true → stagesClash s1.curRole s1.cur.cl l = false →
       exec (.lrec h a b off) s =
         .next (s1.leave.setRole s1.leave.curKey (beginRec s1.leave.curRole s1.leave.cur.cl l)).stamp ∧
       l.it = (if ws.getD 1 0 = 0 then 0 else l.stages - 1) ∧
       l.last = (if ws.getD 2 0 = 0 then trip + l.stages - 2 else trip - 1) ∧ l.trip = trip ∧
       l.kernel = ws.getD 0 0 ∧ l.prologue = ws.getD 1 0 ∧ l.epilogue = ws.getD 2 0 ∧ l.ret = s.clu.pc + 8 ∧
       l.ksize = w3 % 2 ^ 16 ∧ l.psize = w3 / 2 ^ 16 % 2 ^ 16 ∧ l.esize = w3 / 2 ^ 32 % 2 ^ 16 ∧ l.stages = w3 / 2 ^ 48 % 2 ^ 8 ∧
       l.pbase = (if w3 / 2 ^ 56 % 2 ^ 7 = 0 then 64 else w3 / 2 ^ 56 % 2 ^ 7) ∧
       (∀ g, g ∈ l.groups ↔ g.2 ≠ 0 ∧ ∃ n < 8, ∃ w : Nat, w = (if n < 4 then ws.getD 5 0 else ws.getD 6 0).toNat / 2 ^ (16 * (n % 4)) ∧
         g = (w % 2 ^ 8, w / 2 ^ 8 % 2 ^ 8))) ∧
  (∀ (r : Role) (cl : Cluster) (l : LRec),
       let c := r.clu cl
       let at_ (r' : Role) (pc : Word) (part : LPart) : Role := r'.setClu cl { c with pc := pc, lrec := some { l with part := part, boundary := false } }
       let ended (r' : Role) : Prop := r' = (clearStages r l).setClu cl ({ c with lrec := none }.advance (l.ret - 8) 8).1
       (l.trip = 0 → beginRec r cl l = r.setClu cl (c.advance (l.ret - 8) 8).1) ∧
       (l.trip ≠ 0 → l.psize ≠ 0 → beginRec r cl l = at_ r l.prologue .prologue) ∧
       (l.trip ≠ 0 → l.psize = 0 → l.it ≤ l.last → beginRec r cl l = at_ (setStages r l l.it) l.kernel .kernel) ∧
       (l.trip ≠ 0 → l.psize = 0 → l.last < l.it → (l.esize ≠ 0 → beginRec r cl l = at_ r l.epilogue .epilogue) ∧
         (l.esize = 0 → ended (beginRec r cl l))) ∧
       (l.part = .prologue → l.it ≤ l.last → partEnd r cl l = at_ (setStages r l l.it) l.kernel .kernel) ∧
       (l.part = .prologue → l.last < l.it → (l.esize ≠ 0 → partEnd r cl l = at_ r l.epilogue .epilogue) ∧
         (l.esize = 0 → ended (partEnd r cl l))) ∧
       (c.loops = [] → (c.advance (l.ret - 8) 8).1 = { c with pc := l.ret })) ∧
  (∀ (r : Role) (cl : Cluster) (l : LRec), 64 ≤ l.pbase →
       (∀ i st : Nat, st < l.stages → (setStages r l i).p (l.pbase + st) = if st ≤ i ∧ i < l.trip + st then BitVec.allOnes 512 else 0) ∧
       (∀ i n : Nat, (n < l.pbase ∨ l.pbase + l.stages ≤ n) → (setStages r l i).p n = r.p n) ∧
       (l.part = .kernel → l.it < l.last →
         partEnd r cl l = (setStages r l (l.it + 1)).setClu cl
           { r.clu cl with pc := l.kernel, lrec := some { l with part := .kernel, it := l.it + 1, boundary := true } }) ∧
       (l.part = .kernel → l.last ≤ l.it → l.esize ≠ 0 →
         partEnd r cl l = r.setClu cl
           { r.clu cl with pc := l.epilogue, lrec := some { l with part := .epilogue, boundary := true } }) ∧
       (l.part = .epilogue → ((partEnd r cl l).clu cl).lrec = none ∧
         ∀ st, st < l.stages → (partEnd r cl l).p (l.pbase + st) = 0)) ∧
  (∀ (gs : List (Nat × Nat)) (i : Nat) (d : BitVec 8),
       (∀ b n, (b, n) ∈ gs → b ≤ d.toNat → d.toNat < b + n → b + n ≤ 256 →
         (∀ x ∈ gs, x ≠ (b, n) → ¬ (x.1 ≤ d.toNat ∧ d.toNat < x.1 + x.2)) →
         (rotDesig gs i d).toNat = b + (d.toNat - b + i) % n) ∧
       ((∀ x ∈ gs, ¬ (x.1 ≤ d.toNat ∧ d.toNat < x.1 + x.2)) → rotDesig gs i d = d))

/-- R219, R220, R221, R256, R257: SEQNEXT takes min(G, end - cursor) iterations from its launch's cursor, a grain of 0 read as
1, and advances it; SEQDEF installs the share that the core holds of the nest in the tile store. On a core outside the launch's
allocation the share is the one numbered by the core, counted from the allocation's first one: that is the model's choice (log 17). -/
def Obligations.SequencerRuns : Prop :=
  (∀ (h : Hdr) (d : SDst) (x : BitVec 5) (s s1 s2 : State) (q : SeqCur), Ready 8 h.s s → Reads (guardS h) s true →
    (s.core (s.curKey / 4)).cursor? s.curRole.part.toNat s.curRole.lid.toNat = some q →
    let n := min (if q.grain = 0 then 1 else q.grain) (q.stop - q.cursor)
    Does (wrS d (BitVec.ofNat 64 q.cursor))
      (s.setCore (s.curKey / 4) ((s.core (s.curKey / 4)).setCursor { q with cursor := q.cursor + n })) s1 →
    Does (wrX x.toNat (BitVec.ofNat 64 n)) s1 s2 → exec (.seqnext h d x) s = .next (s2.fell 8)) ∧
  (∀ (h : Hdr) (a : MS) (s s1 : State) (v : Word) (bs : List Byte) (first count : Nat), Ready 8 h.s s →
    Reads (guardS h) s true → Reads (rdS a.src) s v → v.toNat % 16 = 0 → v.toNat < 2 ^ 23 →
    Reads (tileOrdered true .relaxed) s () → Reads (tileGet v.toNat 16) s bs →
    let byte (i : Nat) : Nat := (bs.getD i 0).toNat
    permOk (byte 8) = true → byte 9 = 0 → byte 12 = 0 → byte 13 = 0 → byte 14 = 0 → byte 15 = 0 →
    s.alloc s.curRole.part.toNat s.curRole.lid.toNat = some (first, count) →
    let trips := [byte 0 + 256 * byte 1, byte 2 + 256 * byte 3, byte 4 + 256 * byte 5, byte 6 + 256 * byte 7]
    let m := (byte 0 + 256 * byte 1) * (byte 2 + 256 * byte 3) * (byte 4 + 256 * byte 5) * (byte 6 + 256 * byte 7)
    let devs := if s.curRole.rank.toNat / 2 ^ 16 = 0 then 1 else s.curRole.rank.toNat / 2 ^ 16
    let dev := s.curRole.rank.toNat % 2 ^ 16
    let mine := m / devs + (if dev < m % devs then 1 else 0)
    let c := s.curKey / 4 - first
    let start := dev * (m / devs) + min dev (m % devs) + (c * (mine / count) + min c (mine % count))
    Does (popMarks [msMk a])
      (s.setCore (s.curKey / 4) ((s.core (s.curKey / 4)).setCursor
        { part := s.curRole.part.toNat, lid := s.curRole.lid.toNat, trips := trips, perm := byte 8,
          grain := byte 10 + 256 * byte 11, stop := start + (mine / count + (if c < mine % count then 1 else 0)),
          cursor := start })) s1 →
    exec (.seqdef h a) s = .next (s1.fell 8))

/-- R208 to R210, R253, R254: SDEF defines a stream from the descriptor in the tile store, SNEST replaces its base and trip
counts, SBIND its binding, all at position 0; SPOS sets the position; SRESET makes a stream undefined; SCOMMIT of a stream
that is bound to no ring changes nothing, and so does that of a sink ring stream at the boundary of a slot.
R210, R253: SCOMMIT of a sink ring stream in the middle of a slot fills the rest of the slot with zeros and publishes it, SRESET
poisons it; the position moves to the next slot. SCOMMIT and SRESET of a source ring stream release the slots that it has passed and
that are not popped yet, and no others. SRESET leaves the stream undefined. That the slot filled is still the stream's, where RPUB or
RPOISON could have taken it, is a premise (log 17). -/
def Obligations.StreamInstructions : Prop :=
  ((∀ (h : Hdr) (o : Str1) (s s1 : State) (v : Word) (bs : List Byte), Ready 8 h.s s → Reads (guardS h) s true →
       s.curRole.nest = none → s.curRole.snap = none → Reads (rdS o.a.src) s v → v.toNat % 64 = 0 → v.toNat < 2 ^ 23 →
       Reads (tileOrdered true .relaxed) s () → Reads (tileGet v.toNat 64) s bs →
       let ws := (List.range 8).map (fun i => leWord ((bs.drop (8 * i)).take 8))
       strmDescOk ws = true → bits (ws.getD 0 0) 1 0 = 0 →
       Does (popMarks [msMk o.a]) (s.setRole s.curKey (s.curRole.setStrm o.d.toNat { words := ws, h0 := 0, c := 0, sp := 0 })) s1 →
       exec (.sdef h o) s = .next (s1.fell 8)) ∧
     (∀ (h : Hdr) (o : Str2) (s s1 : State) (a b : Word) (t : Strm), Ready 8 h.s s → Reads (guardS h) s true →
       s.curRole.nest = none → s.curRole.snap = none → Reads (rdS o.a.src) s a → Reads (rdS o.b.src) s b →
       mfind s.curRole.strms o.d.toNat = some t → t.bind = 0 → t.words.length = 8 →
       let ws := (t.words.set 1 (BitVec.ofNat 64 (t.limit * 2 ^ 32 + a.toNat % 2 ^ 32))).set 2 b
       strmDescOk ws = true →
       Does (popMarks [msMk o.a, msMk o.b])
         (s.setRole s.curKey (s.curRole.setStrm o.d.toNat { words := ws, h0 := 0, c := 0, sp := 0 })) s1 →
       exec (.snest h o) s = .next (s1.fell 8)) ∧
     (∀ (h : Hdr) (o : Str1) (s s1 : State) (a : Word) (t : Strm), Ready 8 h.s s → Reads (guardS h) s true →
       s.curRole.nest = none → s.curRole.snap = none → Reads (rdS o.a.src) s a → mfind s.curRole.strms o.d.toNat = some t →
       t.words.length = 8 →
       let ws := t.words.set 0 (BitVec.ofNat 64 ((t.w 0).toNat / 2 ^ 15 * 2 ^ 15 + a.toNat % 2 ^ 15))
       strmDescOk ws = true → a.toNat % 4 = 0 →
       Does (popMarks [msMk o.a]) (s.setRole s.curKey (s.curRole.setStrm o.d.toNat { words := ws, h0 := 0, c := 0, sp := 0 })) s1 →
       exec (.sbind h o) s = .next (s1.fell 8)) ∧
     (∀ (h : Hdr) (o : Str1) (s s1 : State) (a : Word) (t : Strm), Ready 8 h.s s → Reads (guardS h) s true →
       s.curRole.nest = none → s.curRole.snap = none → Reads (rdS o.a.src) s a → mfind s.curRole.strms o.d.toNat = some t →
       t.bind = 0 → a.toNat ≤ t.vectors →
       Does (popMarks [msMk o.a]) (s.setRole s.curKey (s.curRole.setStrm o.d.toNat { t with c := a.toNat, sp := a.toNat })) s1 →
       exec (.spos h o) s = .next (s1.fell 8)) ∧
     (∀ (h : Hdr) (d : BitVec 4) (s : State) (t : Strm), Ready 8 h.s s → Reads (guardS h) s true → s.curRole.nest = none →
       s.curRole.snap = none → mfind s.curRole.strms d.toNat = some t →
       (t.bind ≠ 1 ∨ t.bind = 1 ∧ t.sink = true ∧ ∃ g, mfind s.curRole.rings t.ring = some g ∧ t.c % (g.slotBytes / 512) = 0) →
       exec (.scommit h d) s = .next (s.fell 8) ∧
       exec (.sreset h d) s =
         .next ((s.setRole s.curKey { s.curRole with strms := mdel s.curRole.strms d.toNat }).fell 8))) ∧
  (∀ (h : Hdr) (d : BitVec 4) (s s1 : State) (t : Strm) (g : Ring), Ready 8 h.s s → Reads (guardS h) s true →
       s.curRole.nest = none → s.curRole.snap = none → mfind s.curRole.strms d.toNat = some t → t.bind = 1 → t.sink = true →
       mfind s.curRole.rings t.ring = some g →
       let v := g.slotBytes / 512
       let settled (x : RSlot) : Role :=
         (s1.curRole.setRing t.ring { g with slots := g.slots.set g.pi x, pub := g.pub + 1, pi := nextIdx g.count g.pi }).setStrm
           d.toNat { t with c := (t.c + v - 1) / v * v, sp := (t.c + v - 1) / v * v }
       t.sp = t.c → t.c % v ≠ 0 → t.slotNo g = g.pub → g.acqd ≠ 0 → g.idxOf g.pub = g.pi →
       Does (tilePut (g.base + g.pi * g.slotBytes + 512 * (t.c % v)) (List.replicate (512 * (v - t.c % v)) 0)) s s1 →
       (Reads releaseOrdered s () → exec (.scommit h d) s = .next ((s1.setRole s1.curKey (settled .published)).fell 8)) ∧
       exec (.sreset h d) s = .next ((s1.setRole s1.curKey { settled .poisoned with strms := mdel s1.curRole.strms d.toNat }).fell 8)) ∧
  (∀ (h : Hdr) (d : BitVec 4) (s : State) (t : Strm) (g : Ring), Ready 8 h.s s → Reads (guardS h) s true →
       s.curRole.nest = none → s.curRole.snap = none → mfind s.curRole.strms d.toNat = some t → t.bind = 1 → t.sink = false →
       mfind s.curRole.rings t.ring = some g → g.hi < g.count → g.slots.length = g.count →
       let passed := (BitVec.ofNat 32 (t.h0 + t.c / (g.slotBytes / 512)) - g.head).toNat
       let n := if 2 ^ 31 ≤ passed then 0 else min passed g.ready
       ∃ g' : Ring, g'.w0 = g.w0 ∧ g'.w1 = g.w1 ∧ g'.head = g.head + BitVec.ofNat 32 n ∧ g'.pub = g.pub ∧ g'.tail = g.tail ∧
         (∀ i < g.count, ((∃ j < n, (g.hi + j) % g.count = i) → g'.slots.getD i .free = .free) ∧
           ((¬ ∃ j < n, (g.hi + j) % g.count = i) → g'.slots.getD i .free = g.slots.getD i .free)) ∧
         exec (.scommit h d) s = .next ((s.setRole s.curKey (s.curRole.setRing t.ring g')).fell 8) ∧
         exec (.sreset h d) s = .next ((s.setRole s.curKey { s.curRole.setRing t.ring g' with strms := mdel s.curRole.strms d.toNat }).fell 8))

/-- R205, R206, R207, R255, R261, R274: RDEF defines a ring with every slot free, unless a slot leaves the window; RPUB waits until
its cluster's earlier accesses are performed; RACQ takes slot TAIL and gives its tile reference, RPUB
publishes slot PUB, RPOISON poisons it, RREL pops slot HEAD; RACQ waits on a full ring and RREL on an empty one; RSTAT gives
head, count, free, acquired and ready. That a fault of RPUB with nothing acquired reports the ring's number in INFO0 is the model's
reading (log 21). -/
def Obligations.RingOperations : Prop :=
  (∀ (h : Hdr) (n : BitVec 5) (b : MS) (s s1 : State) (v : Word) (bs : List Byte), Ready 8 h.s s →
    Reads (guardS h) s true → s.curRole.nest = none → s.curRole.snap = none → Reads (rdS b.src) s v → v.toNat < 2 ^ 23 →
    Reads (tileOrdered true .relaxed) s () → Reads (tileGet v.toNat 64) s bs →
    let ws := (List.range 8).map (fun i => leWord ((bs.drop (8 * i)).take 8))
    let g : Ring := { w0 := ws.getD 0 0, w1 := ws.getD 1 0, head := 0, pub := 0, tail := 0, hi := 0, pi := 0, ti := 0,
                      slots := List.replicate (bits (ws.getD 0 0) 39 32) .free }
    ringDescOk ws = true → s.curRole.strms = [] →
    (g.base + g.count * g.slotBytes ≤ s.curRole.twSize.toNat →
      Does (popMarks [msMk b]) (s.setRole s.curKey (s.curRole.setRing n.toNat g)) s1 →
      exec (.rdef h n b) s = .next (s1.fell 8)) ∧
    (s.curRole.twSize.toNat < g.base + g.count * g.slotBytes →
      exec (.rdef h n b) s = .next (takeTrap s 0x13 (BitVec.ofNat 64 g.base) 0xFFFF))) ∧
  (∀ (h : Hdr) (s : State), Ready 8 h.s s → Reads (guardS h) s true → s.curRole.nest = none → s.curRole.snap = none →
    s.curRole.strms = [] → s.curRole.copies = [] → s.curRole.drainSlot = none → ∀ (n : BitVec 5) (g : Ring), mfind s.curRole.rings n.toNat = some g →
    (∀ (d : SDst) (s1 : State), g.used < g.count →
      Does (wrS d (BitVec.ofNat 64 (0x80 * 2 ^ 56 + (g.base + g.ti * g.slotBytes) % 2 ^ 23)))
        (s.setRole s.curKey (s.curRole.setRing n.toNat
          { g with slots := g.slots.set g.ti .acquired, tail := g.tail + 1, ti := nextIdx g.count g.ti })) s1 →
      exec (.racq h d n) s = .next (s1.fell 8)) ∧
    (∀ d : SDst, g.count ≤ g.used → exec (.racq h d n) s = .next s) ∧
    (g.acqd ≠ 0 →
      (s.curRole.acc.any (fun a => a.cl == s.cur.cl && a.stat.unperformed) = false →
        exec (.rpub h n) s = .next ((s.setRole s.curKey (s.curRole.setRing n.toNat
          { g with slots := g.slots.set g.pi .published, pub := g.pub + 1, pi := nextIdx g.count g.pi })).fell 8)) ∧
      (s.curRole.acc.any (fun a => a.cl == s.cur.cl && a.stat.unperformed) = true → exec (.rpub h n) s = .next s) ∧
      exec (.rpoison h n) s = .next ((s.setRole s.curKey (s.curRole.setRing n.toNat
        { g with slots := g.slots.set g.pi .poisoned, pub := g.pub + 1, pi := nextIdx g.count g.pi })).fell 8)) ∧
    (g.acqd = 0 → exec (.rpub h n) s = .next (takeTrap s 0x13 (BitVec.ofNat 64 n.toNat) 0xFFFF)) ∧
    (g.ready ≠ 0 → exec (.rrel h n) s = .next ((s.setRole s.curKey (s.curRole.setRing n.toNat
        { g with slots := g.slots.set g.hi .free, head := g.head + 1, hi := nextIdx g.count g.hi })).fell 8)) ∧
    (g.ready = 0 → exec (.rrel h n) s = .next s) ∧
    (∀ (d : SDst) (s1 : State), Does (wrS d (BitVec.ofNat 64 (g.head.toNat * 2 ^ 32 + g.count * 2 ^ 24 +
        (g.count - g.used) * 2 ^ 16 + g.acqd * 2 ^ 8 + g.ready))) s s1 → exec (.rstat h d n) s = .next (s1.fell 8)))

/-! ### Requests -/

/-- R231, R343, R353, R359: while fewer than 4,096 requests are outstanding at the core, fewer than 256 entries of the role's
replay queue may be needed and fewer than 8 wide stores wait, a request without a queue destination is appended to the role's
requests; past a limit its syllable waits. That the requests and the copies in flight count together towards the 256 entries is the
model's reading (log 17). -/
def Obligations.RequestsSent : Prop :=
  ∀ (s : State) (a : Access),
    (outstanding s (s.curKey / 4) < 4096 → replayLoad s.curRole < 256 → s.curRole.acc.countP (·.wide) < 8 →
      s.curRole.snap = none → (∀ d ∈ a.dests, (∃ n, d = .x n) ∨ ∃ n, d = .p n) →
      (∀ d ∈ a.dests, ∀ b ∈ s.curRole.acc, d ∉ b.dests) →
      Sends a s (s.setRole s.curKey { s.curRole with
        nextId := s.curRole.nextId + 1,
        acc := s.curRole.acc ++ [{ a with
          id := s.curRole.nextId, cl := s.cur.cl, pc := s.clu.pc, cueerr := s.curRole.cueerr.toNat, eid := s.curRole.eid,
          gen := (s.asid s.curRole.asid.toNat).gen, at_ := s.cycle, stat := .pending }] })) ∧
    (4096 ≤ outstanding s (s.curKey / 4) → sendAcc a s = .error .wait) ∧
    (256 ≤ replayLoad s.curRole → a.kind ≠ .fence → a.kind ≠ .pref → sendAcc a s = .error .wait) ∧
    (8 ≤ s.curRole.acc.countP (·.wide) → a.wide = true → sendAcc a s = .error .wait)

/-- R233 to R236, R246: LD, ST, LDV, STV, GATHER, SCATTER and PREF form their address, check it, send one request and go on.
ST and STV carry their data; a gather its 512 / size indices from the tile store.
R227, R228, R231: the effective address is BASE + IDX + sext(DISP8) × size; an address that is not canonical raises
PROTECTION, a misaligned one ALIGNMENT, exactly at issue, for LD, ST, LDV and STV. -/
def Obligations.MemoryRequestsChecked : Prop :=
  (∀ (h : Hdr) (m : MF) (s s1 s2 : State) (ea : Word), Ready 8 h.s s → Reads (guardS h) s true →
       (Reads (eaOf m) s ea → GoodAddr ea (min m.sz.bytes 64) →
         (∀ t : SDst, Sends { Access.blank .ld ea with size := m.sz, scope := m.scope, ord := m.ord, dests := [sDest t] } s s1 →
           Does (popMarks (mMarks m)) s1 s2 → exec (.ld h t m) s = .next (s2.fell 8)) ∧
         (∀ (t : SSrc) (v : Word), Reads (rdS t) s v →
           Sends { Access.blank .st ea with size := m.sz, scope := m.scope, ord := m.ord, data := natLe m.sz.bytes v.toNat } s s1 →
           Does (popMarks ((sQueue t, false) :: mMarks m)) s1 s2 → exec (.st h t m) s = .next (s2.fell 8)) ∧
         (∀ q : BitVec 3, Sends { Access.blank .ldv ea with size := m.sz, scope := m.scope, ord := m.ord, dests := [.q (8 + q.toNat)] } s s1 →
           Does (popMarks (mMarks m)) s1 s2 → exec (.ldv h q m) s = .next (s2.fell 8)) ∧
         (∀ (q : BitVec 3) (row : Row), Reads (qHead (8 + q.toNat)) s row →
           Sends { Access.blank .stv ea with size := m.sz, scope := m.scope, ord := m.ord, data := (rowLe row).take m.sz.bytes, wide := true } s s1 →
           Does (popMarks ((some (8 + q.toNat), true) :: mMarks m)) s1 s2 → exec (.stv h q m) s = .next (s2.fell 8))) ∧
       (Reads (eaOf m) s ea → Sends { Access.blank .pref ea with size := m.sz } s s1 → Does (popMarks (mMarks m)) s1 s2 →
         ∀ t, exec (.pref h t m) s = .next (s2.fell 8)) ∧
       (∀ (base : Word) (idx : List (BitVec 32)) (i : Word), Reads (tileOrdered true .relaxed) s () →
         Reads (gatherAddr m) s (base, idx) → Reads (rdS m.idx) s i →
         (∀ q : BitVec 3, Sends { Access.blank .gather base with size := m.sz, scope := m.scope, ord := m.ord, idx := idx, listOff := i, dests := [.q (8 + q.toNat)] } s s1 →
           Does (popMarks (mMarks m)) s1 s2 → exec (.gather h q m) s = .next (s2.fell 8)) ∧
         (∀ (q : BitVec 3) (row : Row), Reads (qHead (8 + q.toNat)) s row →
           Sends { Access.blank .scatter base with size := m.sz, scope := m.scope, ord := m.ord, idx := idx, listOff := i, data := rowLe row, wide := true } s s1 →
           Does (popMarks ((some (8 + q.toNat), true) :: mMarks m)) s1 s2 → exec (.scatter h q m) s = .next (s2.fell 8)))) ∧
  ((∀ (m : MF) (s : State) (b i : Word), Reads (rdS m.base) s b → Reads (rdS m.idx) s i →
       Reads (eaOf m) s (b + i + m.disp.signExtend 64 * BitVec.ofNat 64 m.sz.bytes)) ∧
     (∀ (h : Hdr) (m : MF) (s : State) (ea : Word), Ready 8 h.s s → Reads (guardS h) s true → Reads (eaOf m) s ea →
       (canonical ea = false →
         (∀ t, exec (.ld h t m) s = .next (takeTrap s 0x11 ea 0xFFFF)) ∧
         (∀ q, exec (.ldv h q m) s = .next (takeTrap s 0x11 ea 0xFFFF)) ∧
         (∀ t v, Reads (rdS t) s v → exec (.st h t m) s = .next (takeTrap s 0x11 ea 0xFFFF)) ∧
         (∀ q row, Reads (qHead (8 + q.toNat)) s row → exec (.stv h q m) s = .next (takeTrap s 0x11 ea 0xFFFF))) ∧
       (canonical ea = true → ea.toNat % min m.sz.bytes 64 ≠ 0 →
         (∀ t, exec (.ld h t m) s = .next (takeTrap s 0x12 ea 0xFFFF)) ∧
         (∀ q, exec (.ldv h q m) s = .next (takeTrap s 0x12 ea 0xFFFF)) ∧
         (∀ t v, Reads (rdS t) s v → exec (.st h t m) s = .next (takeTrap s 0x12 ea 0xFFFF)) ∧
         (∀ q row, Reads (qHead (8 + q.toNat)) s row → exec (.stv h q m) s = .next (takeTrap s 0x12 ea 0xFFFF)))))

/-- R237 to R241, R222: the atomics send one request with their operand; CAS compares IDX; ATOMF is refused in a deterministic
launch; ATOMF.D carries the role's arrivals at its level and its sequence number.
R201, R233: LDT delivers the bytes of the role's tile window at its offset to a scalar destination or a queue; STT writes
them, from a scalar or from the head of a queue that it pops; an offset outside the window raises TILE_BOUNDS in both (what the bytes
written are and which others stay: StoresAndTranslation). -/
def Obligations.AtomicAndTileRequests : Prop :=
  ((∀ c n, (c, n) ∈ atomOps → ∀ (h : Hdr) (x : BitVec 5) (m : MF) (s s1 s2 : State) (v ea : Word), Ready 8 h.s s →
       Reads (guardS h) s true → Reads (rdX x.toNat) s v → Reads (eaOf m) s ea → GoodAddr ea (min m.sz.bytes 64) →
       Sends { Access.blank (.atom n) ea with size := m.sz, scope := m.scope, ord := m.ord, v := v, dests := [.x x.toNat] } s s1 →
       Does (popMarks (mMarks m)) s1 s2 → exec (c h x m) s = .next (s2.fell 8)) ∧
     (∀ (h : Hdr) (x : BitVec 5) (m : MF) (s s1 s2 : State) (v b c : Word), Ready 8 h.s s → Reads (guardS h) s true →
       Reads (rdX x.toNat) s v → Reads (rdS m.base) s b → Reads (rdS m.idx) s c →
       let ea := b + m.disp.signExtend 64 * BitVec.ofNat 64 m.sz.bytes
       GoodAddr ea (min m.sz.bytes 64) →
       Sends { Access.blank (.atom 9) ea with size := m.sz, scope := m.scope, ord := m.ord, v := v, c := c, dests := [.x x.toNat] } s s1 →
       Does (popMarks (mMarks m)) s1 s2 → exec (.atomCas h x m) s = .next (s2.fell 8)) ∧
     (∀ (h : Hdr) (x : BitVec 5) (m : MF) (s s1 s2 : State) (v ea : Word), Ready 8 h.s s → Reads (guardS h) s true →
       (s.curRole.det = false → Reads (rdX x.toNat) s v → Reads (eaOf m) s ea → GoodAddr ea 4 →
         Sends { Access.blank .atomf ea with size := m.sz, scope := m.scope, ord := m.ord, v := v, dests := [.x x.toNat] } s s1 →
         Does (popMarks (mMarks m)) s1 s2 → exec (.atomf h x m) s = .next (s2.fell 8)) ∧
       (s.curRole.det = true → ∃ w, exec (.atomf h x m) s = .next (takeTrap s 0x01 w 0))) ∧
     (∀ (h : Hdr) (x : BitVec 5) (m : AtomDF) (s s1 s2 : State) (v b : Word), Ready 8 h.s s → Reads (guardS h) s true →
       levelUsed (mget 0 s.curRole.levels m.lvl.toNat) = true → Reads (rdX x.toNat) s v → Reads (rdS m.base) s b →
       let ea := b + m.disp.signExtend 64 * 4
       GoodAddr ea 4 →
       Sends { Access.blank (.atomfD m.lvl.toNat) ea with size := .b4, scope := m.scope, v := v, c := BitVec.ofNat 64 s.curRole.atomSeq, len := BitVec.ofNat 64 (mget 0 s.curRole.barA m.lvl.toNat) } s s1 →
       Does (popMarks [(sQueue m.base, m.lbase)])
         (s1.setRole s1.curKey { s1.curRole with atomSeq := s1.curRole.atomSeq + 1 }) s2 →
       exec (.atomfD h x m) s = .next (s2.fell 8))) ∧
  (∀ (h : Hdr) (m : MF) (s s1 s2 : State) (ea : Word), Ready 8 h.s s → Reads (guardS h) s true → Reads (eaOf m) s ea →
       ea.toNat % min m.sz.bytes 64 = 0 → ea.toNat < 2 ^ 23 →
       (∀ (p : Nat) (bs : List Byte), Reads (tileChk ea.toNat m.sz.bytes) s p → Reads (tileOrdered true m.ord) s () →
         Reads (tileGet ea.toNat m.sz.bytes) s bs →
         (∀ d : SDst, Does (wrS d (leWord bs)) s s1 → Does (popMarks (mMarks m)) s1 s2 →
           exec (.ldt h (.s d) m) s = .next (s2.fell 8)) ∧
         (∀ q : BitVec 3, Does (qPush (8 + q.toNat) (leRow bs)) s s1 → Does (popMarks (mMarks m)) s1 s2 →
           exec (.ldt h (.qw q) m) s = .next (s2.fell 8))) ∧
       (∀ p : Nat, Reads (tileChk ea.toNat m.sz.bytes) s p → Reads (tileOrdered false m.ord) s () →
         (∀ (a : SSrc) (v : Word), Reads (rdS a) s v → Does (tilePut ea.toNat (natLe m.sz.bytes v.toNat)) s s1 →
           Does (popMarks ((sQueue a, false) :: mMarks m)) s1 s2 → exec (.stt h (.s a) m) s = .next (s2.fell 8)) ∧
         (∀ (q : BitVec 3) (row : Row), Reads (qHead (8 + q.toNat)) s row →
           Does (tilePut ea.toNat ((rowLe row).take m.sz.bytes)) s s1 →
           Does (popMarks ((some (8 + q.toNat), true) :: mMarks m)) s1 s2 → exec (.stt h (.qw q) m) s = .next (s2.fell 8))) ∧
       (tileRange s.curRole (s.arrBase (s.curKey / 4)) ea.toNat m.sz.bytes = none →
         ∀ t, exec (.ldt h t m) s = .next (takeTrap s 0x13 ea 0xFFFF))) ∧
  (∀ (h : Hdr) (m : MF) (s : State) (ea : Word), Ready 8 h.s s → Reads (guardS h) s true → Reads (eaOf m) s ea →
       ea.toNat % min m.sz.bytes 64 = 0 → 2 ^ 23 ≤ ea.toNat ∨ tileRange s.curRole (s.arrBase (s.curKey / 4)) ea.toNat m.sz.bytes = none →
       (∀ t, exec (.ldt h t m) s = .next (takeTrap s 0x13 ea 0xFFFF)) ∧
       (∀ (a : SSrc) (v : Word), Reads (rdS a) s v → exec (.stt h (.s a) m) s = .next (takeTrap s 0x13 ea 0xFFFF)) ∧
       (∀ (q : BitVec 3) (row : Row), Reads (qHead (8 + q.toNat)) s row →
         exec (.stt h (.qw q) m) s = .next (takeTrap s 0x13 ea 0xFFFF)))

/-- R245, R266, R267: FENCE sends its entry, ORD 3 an acquire and a release, once no request of its cluster may still fault and
none has; it waits while a request of its cluster is parked, is to be sent again, or would fault if it were served now (that a FENCE
waits for such a request before it issues is the model's reading, log 22), and on M for the nest record in flight.
R247, R248, R251, R252: COPY and COPYS check their operands and hand a copy to the engine; COPYW waits for the copies of its
cluster. -/
def Obligations.FencesAndCopiesIssued : Prop :=
  (∀ (h : Hdr) (sc : Scope) (s s1 s2 : State), Ready 8 h.s s → Reads (guardS h) s true →
       s.curRole.acc.any (fun a => a.cl == s.cur.cl && mayFault s s.curKey a) = false → s.curRole.hasFault s.cur.cl = none →
       s.curRole.snap = none → (s.cur.cl = .m → s.curRole.nest = none) →
       (∀ od : Ord, od ≠ .acqRel → Sends { Access.blank .fence 0 with scope := sc, ord := od } s s1 →
         exec (.fence h sc od) s = .next (s1.fell 8)) ∧
       (Sends { Access.blank .fence 0 with scope := sc, ord := .acq } s s1 →
         Sends { Access.blank .fence 0 with scope := sc, ord := .rel } s1 s2 → exec (.fence h sc .acqRel) s = .next (s2.fell 8))) ∧
  (∀ (h : Hdr) (sc : Scope) (od : Ord) (s : State), Ready 8 h.s s → Reads (guardS h) s true →
       ((∃ a ∈ s.curRole.acc, a.cl = s.cur.cl ∧ mayFault s s.curKey a = true) → exec (.fence h sc od) s = .next s) ∧
       (s.curRole.hasFault s.cur.cl = none → s.curRole.snap = none → s.cur.cl = .m → s.curRole.nest ≠ none → exec (.fence h sc od) s = .next s)) ∧
  (∀ (s : State) (k : Nat) (a : Access),
       ((∃ c t, a.stat = .parked c t) ∨ (∃ t, a.stat = .resend t) → mayFault s k a = true) ∧
       (a.stat.unperformed = false → mayFault s k a = false) ∧
       (∀ c w, (s.role k).acc? a.id = some a → a.stat = .pending → (a.kind = .ld ∧ w = .rd) ∨ (a.kind = .st ∧ w = .wr) →
         translateA s (k / 4) a.afresh (s.role k).asid.toNat (tagNow s (s.role k).asid.toNat a.gen) (a.partAddr a.done) w = .error c →
         mayFault s k a = true)) ∧
  ((∀ (h : Hdr) (o : CopyF) (s s1 s2 : State) (d a b : Word), Ready 8 h.s s → Reads (guardS h) s true →
       Reads (rdX o.d.toNat) s d → Reads (rdS o.a.src) s a → Reads (rdS o.b.src) s b → copyAddrOk d = true → copyAddrOk a = true →
       b.toNat < 2 ^ 32 → Reads (copyTile d b.toNat) s () → Reads (copyTile a b.toNat) s () →
       let job : CopyJob :=
         { id := 0, cl := .l, pc := 0, sparse := false, dst := d, src := a, len := b, index := 0, acq := o.acq, rel := o.rel,
           scope := o.scope, after := [], afterW := [], done := 0, buf := none, multi := false, mdest := 0, fault := none,
           held := false, afresh := false, at_ := 0, passed := 0, kept := [] }
       Does (sendCopy job) s s1 →
       Does (popMarks [msMk o.a, msMk o.b]) s1 s2 → exec (.copy h o) s = .next (s2.fell 8)) ∧
     (∀ (h : Hdr) (o : CopyF) (c : CS) (s s1 s2 : State) (d a b x : Word), Ready 8 h.s s → Reads (guardS h) s true →
       Reads (rdX o.d.toNat) s d → Reads (rdS o.a.src) s a → Reads (rdS o.b.src) s b → Reads (rdS c.src) s x →
       isTileRef d = true → copyAddrOk a = true → copyAddrOk x = true → b.toNat < 2 ^ 35 → b.toNat % 512 = 0 →
       let job : CopyJob :=
         { id := 0, cl := .l, pc := 0, sparse := true, dst := d, src := a, len := b, index := x, acq := o.acq, rel := o.rel,
           scope := o.scope, after := [], afterW := [], done := 0, buf := none, multi := false, mdest := 0, fault := none,
           held := false, afresh := false, at_ := 0, passed := 0, kept := [] }
       Reads (copyTile d (b.toNat % 2 ^ 32)) s () → Reads (copyTile a (b.toNat % 2 ^ 32 / 2)) s () →
       Reads (copyTile x (b.toNat % 2 ^ 32 / (8 * job.width))) s () → Does (sendCopy job) s s1 →
       Does (popMarks [msMk o.a, msMk o.b, csMk c]) s1 s2 → exec (.copys h o c) s = .next (s2.fell 8)) ∧
     (∀ (s : State) (c : CopyJob), (uniq (s.curRole.copies.map (·.id))).length < 32 → replayLoad s.curRole < 256 →
       ∃ x y, Does (sendCopy c) s (s.setRole s.curKey { s.curRole with
         nextId := s.curRole.nextId + 1,
         copies := s.curRole.copies ++ [{ c with id := s.curRole.nextId, cl := s.cur.cl, pc := s.clu.pc, at_ := s.cycle, after := x, afterW := y }] })) ∧
     (∀ (h : Hdr) (s : State), Ready 8 h.s s → Reads (guardS h) s true → s.curRole.hasFault s.cur.cl = none →
       ((∀ c ∈ s.curRole.copies, c.cl ≠ s.cur.cl) → exec (.copyw h) s = .next (s.fell 8)) ∧
       ((∃ c ∈ s.curRole.copies, c.cl = s.cur.cl) → exec (.copyw h) s = .next s)))

/-- R329, R330: the POOL syllables send one request to the unit of their pool, aligned to 256.
R347, R348: the CUE syllables send one request to the home slice of their cell, aligned to 64; CUEMK carries the 64-byte image,
CUERES 8 bytes of value in 64, CUERES.V the first 64 bytes of the queue's head.
R317, R319, R417, R277: LAUNCH and the WIN syllables send their request, at group scope for a source on a peer; LWAIT delivers the completion word of a launch that has
one, and waits while it has none. -/
def Obligations.UnitRequests : Prop :=
  ((∀ c n od, (c, n, od) ∈ poolOps → ∀ (h : Hdr) (o : A2) (s s1 s2 : State) (a b : Word), Ready 8 h.s s →
       Reads (guardS h) s true → Reads (rdS o.a.src) s a → Reads (rdS o.b.src) s b → GoodAddr a 256 →
       Sends { Access.blank (.pool n) a with v := b, ord := od, scope := .device } s s1 →
       Does (popMarks [msMk o.a, msMk o.b]) s1 s2 → exec (c h o) s = .next (s2.fell 8)) ∧
     (∀ (h : Hdr) (o : S1) (s s1 s2 : State) (a : Word), Ready 8 h.s s → Reads (guardS h) s true → Reads (rdS o.a.src) s a →
       GoodAddr a 256 → Sends { Access.blank (.pool 0) a with dests := [sDest o.d], ord := .acq, scope := .device } s s1 →
       Does (popMarks [msMk o.a]) s1 s2 → exec (.pclaim h o) s = .next (s2.fell 8)) ∧
     (∀ (h : Hdr) (o : S2) (s s1 s2 : State) (a b : Word), Ready 8 h.s s → Reads (guardS h) s true → Reads (rdS o.a.src) s a →
       Reads (rdS o.b.src) s b → GoodAddr a 256 →
       Sends { Access.blank (.pool 5) a with v := b, dests := [sDest o.d], scope := .device } s s1 →
       Does (popMarks [msMk o.a, msMk o.b]) s1 s2 → exec (.pstat h o) s = .next (s2.fell 8)) ∧
     (∀ (h : Hdr) (p : BitVec 7) (x : BitVec 5) (b : MS) (s s1 s2 : State) (a : Word), Ready 8 h.s s → Reads (guardS h) s true →
       Reads (rdS b.src) s a → GoodAddr a 256 →
       Sends { Access.blank (.pool 3) a with dests := [.p p.toNat, .x x.toNat, .x (x.toNat + 1), .x (x.toNat + 2)], ord := .acq, scope := .device } s s1 →
       Does (popMarks [msMk b]) s1 s2 → exec (.pgrab h p x b) s = .next (s2.fell 8))) ∧
  ((∀ (h : Hdr) (o : A2) (s s1 s2 : State) (a b : Word), Ready 8 h.s s → Reads (guardS h) s true → Reads (rdS o.a.src) s a →
       Reads (rdS o.b.src) s b → GoodAddr a 64 → Does (popMarks [msMk o.a, msMk o.b]) s1 s2 →
       (∀ bs : List Byte, b.toNat % 64 = 0 → b.toNat < 2 ^ 23 → Reads (tileOrdered true .relaxed) s () →
         Reads (tileGet b.toNat 64) s bs →
         Sends { Access.blank (.cue 0) a with v := b, data := bs, ord := .rel, scope := .device, size := .b64 } s s1 →
         exec (.cuemk h o) s = .next (s2.fell 8)) ∧
       (Sends { Access.blank (.cue 1) a with v := b, data := natLe 8 b.toNat ++ List.replicate 56 0, ord := .rel, scope := .device, size := .b64 } s s1 →
         exec (.cueres h o) s = .next (s2.fell 8)) ∧
       (Sends { Access.blank (.cue 2) a with v := b, ord := .rel, scope := .device, size := .b64 } s s1 →
         exec (.cuefail h o) s = .next (s2.fell 8))) ∧
     (∀ (h : Hdr) (a : MS) (q : BitVec 3) (lb ub : Bool) (s s1 s2 : State) (c : Word) (row : Row), Ready 8 h.s s →
       Reads (guardS h) s true → Reads (rdS a.src) s c → Reads (qHead (8 + q.toNat)) s row → GoodAddr c 64 →
       Sends { Access.blank (.cue 1) c with data := (rowLe row).take 64, ord := .rel, scope := .device, size := .b64, wide := true } s s1 →
       Does (popMarks [msMk a, (some (8 + q.toNat), lb)]) s1 s2 → exec (.cueresV h a q lb ub) s = .next (s2.fell 8)) ∧
     (∀ (h : Hdr) (o : S1) (s s1 s2 : State) (a : Word), Ready 8 h.s s → Reads (guardS h) s true → Reads (rdS o.a.src) s a →
       GoodAddr a 64 → Sends { Access.blank (.cue 3) a with dests := [sDest o.d], scope := .device, size := .b64 } s s1 →
       Does (popMarks [msMk o.a]) s1 s2 → exec (.cuepeek h o) s = .next (s2.fell 8)) ∧
     (∀ (h : Hdr) (o : S2) (s s1 s2 : State) (a b : Word), Ready 8 h.s s → Reads (guardS h) s true → Reads (rdS o.a.src) s a →
       Reads (rdS o.b.src) s b → GoodAddr a 64 →
       Sends { Access.blank (.cue 4) a with v := b, dests := [sDest o.d], scope := .device, size := .b64 } s s1 →
       Does (popMarks [msMk o.a, msMk o.b]) s1 s2 → exec (.cuestat h o) s = .next (s2.fell 8))) ∧
  ((∀ (h : Hdr) (o : S2) (s s1 s2 : State) (a b : Word), Ready 8 h.s s → Reads (guardS h) s true → Reads (rdS o.a.src) s a →
       Reads (rdS o.b.src) s b → Does (popMarks [msMk o.a, msMk o.b]) s1 s2 →
       (GoodAddr a 256 → Sends { Access.blank (.lch 0) a with v := b, dests := [sDest o.d], ord := .rel, scope := .system } s s1 →
         exec (.launch h o) s = .next (s2.fell 8)) ∧
       (∀ (bs : List Byte) (p : Nat), a.toNat % 64 = 0 → a.toNat < 2 ^ 23 → Reads (tileChk a.toNat 64) s p →
         Reads (tileOrdered true .relaxed) s () → Reads (tileGet a.toNat 64) s bs →
         Sends { Access.blank (.win 0) b with v := a, data := bs, dests := [sDest o.d], ord := .rel, scope := if peerSource s.curRole b then .group else .device } s s1 →
         exec (.recapp h o) s = .next (s2.fell 8))) ∧
     (∀ (h : Hdr) (o : S1) (s : State) (a : Word), Ready 8 h.s s → Reads (guardS h) s true → Reads (rdS o.a.src) s a →
       (∀ (w : Word) (s1 s2 : State), lwaitWord (s.partOr s.curRole.part.toNat) a = some w → Does (popMarks [msMk o.a]) s s1 →
         Does (wrS o.d w) s1 s2 → exec (.lwait h o) s = .next (s2.fell 8)) ∧
       (lwaitWord (s.partOr s.curRole.part.toNat) a = none → exec (.lwait h o) s = .next s)) ∧
     (∀ (h : Hdr) (o : A2) (s s1 s2 : State) (a b : Word), Ready 8 h.s s → Reads (guardS h) s true → Reads (rdS o.a.src) s a →
       Reads (rdS o.b.src) s b → Does (popMarks [msMk o.a, msMk o.b]) s1 s2 →
       (Sends { Access.blank (.win 1) a with v := b, ord := .rel, scope := if peerSource s.curRole a then .group else .device } s s1 →
         exec (.wmark h o) s = .next (s2.fell 8)) ∧
       (Sends { Access.blank (.win 4) a with v := b, ord := .rel, scope := .device } s s1 →
         exec (.wpub h o) s = .next (s2.fell 8))) ∧
     (∀ (h : Hdr) (a : MS) (s s1 s2 : State) (v : Word), Ready 8 h.s s → Reads (guardS h) s true → Reads (rdS a.src) s v →
       Sends { Access.blank (.win 2) v with scope := .device } s s1 → Does (popMarks [msMk a]) s1 s2 →
       exec (.sidle h a) s = .next (s2.fell 8)) ∧
     (∀ (h : Hdr) (o : P2) (s s1 s2 : State) (a b : Word) (p : Nat), Ready 8 h.s s → Reads (guardS h) s true →
       Reads (rdS o.a.src) s a → Reads (rdS o.b.src) s b → b.toNat % 64 = 0 → b.toNat < 2 ^ 23 → Reads (tileChk b.toNat 64) s p →
       Does (popMarks [msMk o.a, msMk o.b]) s1 s2 →
       (Sends { Access.blank (.win 3) a with v := b, listOff := b, dests := [.p o.p.toNat], scope := .device } s s1 →
         exec (.wnext h o) s = .next (s2.fell 8)) ∧
       (Sends { Access.blank (.win 5) a with v := b, listOff := b, dests := [.p o.p.toNat], ord := .acq, scope := .device } s s1 →
         exec (.wlate h o) s = .next (s2.fell 8))))

/-- R367, R368, R369, R7, R43, R14: RDCSR reads the register of its number; WRCSR writes the RW ones, and the first-fault record
is cleared when no enabled flag is left; flags raised earlier in the cycle of a write of FLAGS are set after it; RDTIME reads DTIME. -/
def Obligations.CsrAccess : Prop :=
  (∀ (h : Hdr) (d : SDst) (n : BitVec 12) (s s1 : State) (v : Word), Ready 8 h.s s → Reads (guardS h) s true →
    s.curRole.snap = none →
    (n = 0 ∧ v = statusWord s.curRole ∨ n = 1 ∧ v = s.curRole.flags.setWidth 64 ∨ n = 2 ∧ v = s.curRole.flagen.setWidth 64 ∨ n = 3 ∧ v = s.curRole.ffrec ∨
      n = 4 ∧ v = s.curRole.wdlimit.setWidth 64 ∨ n = 5 ∧ v = s.curRole.eid.setWidth 64 ∨
      n = 6 ∧ v = s.curRole.cueerr.setWidth 64 ∨ n = 7 ∧ v = s.curRole.cuewd.setWidth 64 ∨
      n = 8 ∧ v = s.curRole.lid.setWidth 64 ∨ n = 9 ∧ v = s.curRole.rank.setWidth 64 ∨
      16 ≤ n.toNat ∧ n.toNat ≤ 23 ∧ v = mget 0 s.curRole.levels (n.toNat - 16)) →
    Does (wrS d v) s s1 → exec (.rdcsr h d n) s = .next (s1.fell 8)) ∧
  (∀ (h : Hdr) (a : SSrc) (la : Bool) (n : BitVec 12) (s s1 : State) (v : Word) (r : Role), Ready 8 h.s s →
    Reads (guardS h) s true → Reads (rdS a) s v →
    (n = 1 ∧ s.curRole.recent.1 ≠ s.cycle ∧ r = { s.curRole with flags := v.setWidth 6 } ∨ n = 2 ∧ r = { s.curRole with flagen := v.setWidth 6 } ∨
      n = 4 ∧ r = { s.curRole with wdlimit := v.setWidth 32 } ∨ n = 6 ∧ r = { s.curRole with cueerr := v.setWidth 7 } ∨
      n = 7 ∧ r = { s.curRole with cuewd := v.setWidth 32 } ∨
      n.toNat ∉ [1, 2, 4, 6, 7] ∧ r = s.curRole) →
    Does (popMarks [(sQueue a, la)])
      (s.setRole s.curKey (if r.flags &&& r.flagen = 0 then { r with ffrec := 0 } else r)) s1 →
    exec (.wrcsr h a la n) s = .next (s1.fell 8)) ∧
  (∀ (h : Hdr) (a : SSrc) (la : Bool) (s s1 : State) (v : Word) (row lane : Nat) (fl : Fl), Ready 8 h.s s →
    Reads (guardS h) s true → Reads (rdS a) s v → s.curRole.recent = (s.cycle, [(row, lane, fl)]) →
    fl &&& s.curRole.flagen = 0 →
    Does (popMarks [(sQueue a, la)]) (s.setRole s.curKey { s.curRole with
      flags := v.setWidth 6 ||| fl, ffrec := if v.setWidth 6 &&& s.curRole.flagen = 0 then 0 else s.curRole.ffrec }) s1 →
    exec (.wrcsr h a la 1) s = .next (s1.fell 8)) ∧
  (∀ (h : Hdr) (d : SDst) (s s1 : State), Ready 8 h.s s → Reads (guardS h) s true →
    Does (wrS d (if s.clock then BitVec.ofNat 64 (s.cycle * 4 / 5) else 0)) s s1 → exec (.rdtime h d) s = .next (s1.fell 8))

/-- R259, R260, R261: BAR ARRIVE, once its cluster's accesses are performed and the generation its last arrival belongs to has
completed, counts one more arrival; BAR WAIT waits for that generation. A level beyond the launch's table raises
ILLEGAL_SYLLABLE.
R262, R263, R264, R75: MSG hands its payload to the core's message engine while it holds fewer than 16 messages, and waits
otherwise; SPAWN joins its partition's spawn queue while it holds fewer than 256, also where it is for a peer (R388; log 19). Each
carries the sender's identity. -/
def Obligations.BarriersMessagesSpawns : Prop :=
  (∀ (h : Hdr) (l : BitVec 5) (u : Bool) (s : State), Ready 8 h.s s → Reads (guardS h) s true → s.curRole.snap = none →
       let lev := l.toNat
       let a := mget 0 s.curRole.barA lev
       let done := s.barDone s.curRole.part.toNat s.curRole.lid.toNat lev (instOf s.curRole s.curKey lev)
       (levelUsed (mget 0 s.curRole.levels lev) = true → (∀ b ∈ s.curRole.acc, b.cl = s.cur.cl → b.stat.unperformed = false) →
         (a ≤ mget 0 s.curRole.barW lev →
           exec (.barArrive h l u) s =
             .next ((s.setRole s.curKey { s.curRole with barA := mput s.curRole.barA lev (a + 1) }).fell 8) ∧
           exec (.barWait h l u) s = .next (s.fell 8)) ∧
         (mget 0 s.curRole.barW lev < a → a ≤ done →
           exec (.barArrive h l u) s =
             .next ((s.setRole s.curKey { s.curRole with
               barW := mput s.curRole.barW lev a, barA := mput s.curRole.barA lev (a + 1) }).fell 8) ∧
           exec (.barWait h l u) s =
             .next ((s.setRole s.curKey { s.curRole with barW := mput s.curRole.barW lev a }).fell 8)) ∧
         (mget 0 s.curRole.barW lev < a → done < a →
           exec (.barArrive h l u) s = .next s ∧ exec (.barWait h l u) s = .next s)) ∧
       (levelUsed (mget 0 s.curRole.levels lev) = false →
         (∃ w, exec (.barArrive h l u) s = .next (takeTrap s 0x01 w 0)) ∧ ∃ w, exec (.barWait h l u) s = .next (takeTrap s 0x01 w 0))) ∧
  (∀ (h : Hdr) (o : SendF) (s : State) (d a b : Word) (core : Nat) (peer : Option Nat), Ready 8 h.s s → Reads (guardS h) s true →
       Reads (rdS o.d) s d → Reads (rdS o.a.src) s a → Reads (rdS o.b.src) s b → Reads (targetOf d) s (core, peer) →
       a.toNat % 32 = 0 →
       (∀ (c : CS) (n : Word) (p : Nat) (bs : List Byte) (after : List Nat) (s1 : State), Reads (rdS c.src) s n → 1 ≤ n.toNat →
         n.toNat ≤ 4096 → b.toNat < 2 ^ 23 → Reads (tileChk b.toNat n.toNat) s p → Reads (tileOrdered true .relaxed) s () →
         Reads (tileGet b.toNat n.toNat) s bs → Reads (sendAfter o.rel) s after →
         let k := s.curKey
         let x := s.core (k / 4)
         ((x.msgs.length < 16 →
           Does (popMarks [(sQueue o.d, false), msMk o.a, msMk o.b, csMk c]) (s.setCore (k / 4) { x with msgs := x.msgs ++
             [{ slot := k % 4, lid := s.curRole.lid, target := core, peer := peer, after := after,
                arr := { asid := s.curRole.asid, handler := a, payload := bs, sender := senderId k s.curRole, x4 := 0 } }] }) s1 →
           exec (.msg h o c) s = .next (s1.fell 8)) ∧
          (16 ≤ x.msgs.length → exec (.msg h o c) s = .next s))) ∧
       (∀ (after : List Nat) (s1 : State), Reads (sendAfter o.rel) s after →
         let x := s.partOr s.curRole.part.toNat
         ((x.spawns.length < 256 →
           Does (popMarks [(sQueue o.d, false), msMk o.a, msMk o.b]) (s.setPart s.curRole.part.toNat { x with spawns := x.spawns ++
             [{ peer := peer, core := core, lid := s.curRole.lid, asid := s.curRole.asid, handler := a, arg := b,
                sender := senderId s.curKey s.curRole, key := s.curKey, after := after }] }) s1 →
           exec (.spawn h o) s = .next (s1.fell 8)) ∧
          (256 ≤ x.spawns.length → exec (.spawn h o) s = .next s))))

/-! ### Vector instructions -/

/-- R3, R147: a row is its lanes, and the destination takes the new element where the guard bit is 1 and keeps its own
elsewhere; a lane raises its flags only where its guard bit is 1.
R23, R24, R33 to R36: a value that a floating type represents rounds to itself in every mode, with no flag; a NaN rounds to
the canonical NaN. -/
def Obligations.RowsMergeAndRound : Prop :=
  ((∀ (ty : ETy) (g : Pred) (old : Row) (new : List Nat) (i : Nat), new.length = ty.lanes → i < ty.lanes →
       laneOf ty (mergeLanes ty g old new) i = if g.getLsbD i then new.getD i 0 % 2 ^ ty.bits else laneOf ty old i) ∧
     (∀ (ty : ETy) (r r' : Row), (∀ i < ty.lanes, laneOf ty r i = laneOf ty r' i) → r = r') ∧
     (∀ (g : Pred) (rs : List (Nat × Fl)) (i : Nat) (fl : Fl),
       (i, fl) ∈ laneFlags g rs ↔ g.getLsbD i = true ∧ fl ≠ 0 ∧ ∃ x, rs[i]? = some (x, fl))) ∧
  (∀ (ty : ETy) (rm : RM) (n : Nat), ty.isFloat = true → n < 2 ^ ty.bits →
       roundF ty rm (decodeNum ty n) = if decodeNum ty n = .nan then (ty.nanCode, 0) else (n, 0))

/-- R41 to R43, R149: raising flags in an element sets them in the sticky word; where the raised flags meet the enables, the
record takes the element where it is empty or holds one of a higher identifier (row, then lane), adds the flags where it holds
that element, and keeps one of a lower identifier. -/
def Obligations.FlagsRaised : Prop :=
  ∀ (s : State) (row lane : Nat) (fl : Fl), s.curRole.snap = none →
    ∃ t, Does (raiseI row lane fl) s t ∧ t = { s with roles := t.roles } ∧
      (∀ k, k ≠ s.curKey → t.role k = s.role k) ∧
      t.curRole = { s.curRole with flags := s.curRole.flags ||| fl, ffrec := t.curRole.ffrec, recent := t.curRole.recent } ∧
      t.curRole.recent = (if fl = 0 then s.curRole.recent
        else (s.cycle, (if s.curRole.recent.1 = s.cycle then s.curRole.recent.2 else []) ++ [(row, lane, fl)])) ∧
      (fl &&& s.curRole.flagen = 0 → t.curRole.ffrec = s.curRole.ffrec) ∧
      (fl &&& s.curRole.flagen ≠ 0 → ffValid s.curRole.ffrec = false →
        t.curRole.ffrec = BitVec.ofNat 64 (s.curKey / 4 + s.curKey % 4 * 2 ^ 8 + row * 2 ^ 16 + lane * 2 ^ 24 + 2 ^ 33 +
          (fl &&& s.curRole.flagen).toNat * 2 ^ 34)) ∧
      (fl &&& s.curRole.flagen ≠ 0 → ffValid s.curRole.ffrec = true → row < 256 → lane < 512 →
        let was := s.curRole.ffrec.toNat / 2 ^ 16 % 2 ^ 8 * 512 + s.curRole.ffrec.toNat / 2 ^ 24 % 2 ^ 9
        let new : Word := BitVec.ofNat 64 (s.curKey / 4 + s.curKey % 4 * 2 ^ 8 + row * 2 ^ 16 + lane * 2 ^ 24 + 2 ^ 33 +
          (fl &&& s.curRole.flagen).toNat * 2 ^ 34)
        (row * 512 + lane < was → t.curRole.ffrec = new) ∧ (row * 512 + lane = was → t.curRole.ffrec = s.curRole.ffrec ||| new) ∧
        (was < row * 512 + lane → t.curRole.ffrec = s.curRole.ffrec))

/-- R146, R150, R152, R153: VARITH on integers: the table's value of each signed lane, modulo the lane width, with its flag. -/
def Obligations.VectorIntegerResults : Prop :=
  (∀ c f, (c, f) ∈ vecInt → ∀ (h : Hdr) (o : V2) (s t : State) (a b : RowVal), Ready 8 h.s s → o.ty.isFloat = false →
    Reads (rdR o.a.src) s a → Reads (rdR o.b.src) s b →
    RowDone h o.ty [(o.a.src, o.a.mark), (o.b.src, o.b.mark)] o.d ((List.range o.ty.lanes).map (fun i =>
      let r := f o.ty.bits (laneInt o.ty a i) (laneInt o.ty b i)
      (uintOf o.ty.bits r.1, r.2))) s t →
    exec (c h o) s = .next (t.fell 8)) ∧
  (∀ (h : Hdr) (o : V1) (s t : State) (a : RowVal), Ready 8 h.s s → o.ty.isFloat = false → Reads (rdR o.a.src) s a →
    let done (f : Int → Int) : Prop := RowDone h o.ty [(o.a.src, o.a.mark)] o.d
      ((List.range o.ty.lanes).map (fun i => (uintOf o.ty.bits (f (laneInt o.ty a i)), 0))) s t
    (done (fun x => |x|) → exec (.vabs h o) s = .next (t.fell 8)) ∧
    (done (fun x => -x) → exec (.vneg h o) s = .next (t.fell 8)))

/-- R150, R151, R153, R159: VARITH and VSFU on floats: the exact result rounded once, with the flags of the operation and of the
rounding (a faithful FP32 result raises OF only with an infinity, and NX with it). VSQRT, and in BF16 and FP16 every minor of VSFU, rounds the
function's value once in its mode; the others in FP32 deliver one of the two neighbours, or the exact result. The value of VRECIP,
VRSQRT and VSQRT is the exact one, or an odd number of more than 64 bits between the two even ones that bracket it; that of an exact
entry of R160 is exact; that of the others is evaluated with 400 fraction bits, which is taken to round as the exact one (log 14). VMIN and VMAX order -0 below +0 and give NaN for a NaN; VABS and VNEG change the sign bit of the element. That VMIN and
VMAX round a constant to the element type, to nearest and without a flag (log 12), and which neighbour a special function in FP32
delivers (a free value, log 9), are the model's choices. -/
def Obligations.VectorFloatResults : Prop :=
  (∀ c f, (c, f) ∈ vecFloat → ∀ (h : Hdr) (o : V2) (s t : State) (a b : RowVal), Ready 8 h.s s → o.ty.isFloat = true →
    Reads (rdR o.a.src) s a → Reads (rdR o.b.src) s b →
    RowDone h o.ty [(o.a.src, o.a.mark), (o.b.src, o.b.mark)] o.d ((List.range o.ty.lanes).map (fun i =>
      let e := f o.rm (a.numAt o.ty i) (b.numAt o.ty i)
      let r := roundF o.ty o.rm e.1
      (r.1, e.2 ||| r.2))) s t →
    exec (c h o) s = .next (t.fell 8)) ∧
  (∀ c neg, (c, neg) ∈ vecFused → ∀ (h : Hdr) (o : V3) (s t : State) (a b x : RowVal), Ready 8 h.s s →
    Reads (rdR o.a.src) s a → Reads (rdR o.b.src) s b → Reads (rdR o.c.src) s x →
    RowDone h o.ty [(o.a.src, o.a.mark), (o.b.src, o.b.mark), (o.c.src, o.c.mark)] o.d ((List.range o.ty.lanes).map (fun i =>
      let p := mulNum (a.numAt o.ty i) (b.numAt o.ty i)
      let e := addNum o.rm (if neg then p.1.neg else p.1) (x.numAt o.ty i)
      let r := roundF o.ty o.rm e.1
      (r.1, p.2 ||| e.2 ||| r.2))) s t →
    exec (c h o) s = .next (t.fell 8)) ∧
  (∀ (h : Hdr) (o : V2) (s t : State) (a b : RowVal), Ready 8 h.s s → o.ty.isFloat = true →
    Reads (rdR o.a.src) s a → Reads (rdR o.b.src) s b →
    let done (f : Dyad → Dyad → Dyad) : Prop := RowDone h o.ty [(o.a.src, o.a.mark), (o.b.src, o.b.mark)] o.d
      ((List.range o.ty.lanes).map (fun i => ((roundF o.ty .rne (f (a.numAt o.ty i) (b.numAt o.ty i))).1, 0))) s t
    let nan (x y : Dyad) : Bool := x == .nan || y == .nan
    let below (x y : Dyad) : Bool := cmpNum x y == some .lt || (cmpNum x y == some .eq && x.isNeg)
    let above (x y : Dyad) : Bool := cmpNum x y == some .gt || (cmpNum x y == some .eq && !x.isNeg)
    (done (fun x y => if nan x y then .nan else if below x y then x else y) → exec (.vmin h o) s = .next (t.fell 8)) ∧
    (done (fun x y => if nan x y then .nan else if above x y then x else y) → exec (.vmax h o) s = .next (t.fell 8))) ∧
  (∀ (h : Hdr) (o : V1) (s t : State) (a : RowVal), Ready 8 h.s s → o.ty.isFloat = true → Reads (rdR o.a.src) s a →
    let done (f : Nat → Nat) : Prop := RowDone h o.ty [(o.a.src, o.a.mark)] o.d
      ((List.range o.ty.lanes).map (fun i => (f (a.copyAt o.ty i), 0))) s t
    (done (fun x => x % 2 ^ (o.ty.bits - 1)) → exec (.vabs h o) s = .next (t.fell 8)) ∧
    (done (fun x => (x + 2 ^ (o.ty.bits - 1)) % 2 ^ o.ty.bits) → exec (.vneg h o) s = .next (t.fell 8))) ∧
  (∀ c k, (c, k) ∈ vecSfu → ∀ (h : Hdr) (o : V1) (s t : State) (a : RowVal), Ready 8 h.s s → Reads (rdR o.a.src) s a →
    RowDone h o.ty [(o.a.src, o.a.mark)] o.d
      ((List.range o.ty.lanes).map (fun i => sfu k o.ty o.rm (a.copyAt o.ty i) (a.numAt o.ty i))) s t →
    exec (c h o) s = .next (t.fell 8)) ∧
  (∀ (k : Nat) (rm : RM) (n : Nat) (x : Dyad), k ≠ 2 → (sfu k .fp32 rm n x).2 &&& fOF ≠ 0 →
    ((sfu k .fp32 rm n x).1 = 0x7F800000 ∨ (sfu k .fp32 rm n x).1 = 0xFF800000) ∧ (sfu k .fp32 rm n x).2 &&& fNX ≠ 0) ∧
  (∀ (k : Nat) (ty : ETy) (rm : RM) (n : Nat) (x : Dyad), ty ≠ .fp32 ∨ k = 2 →
    sfu k ty rm n x = ((roundF ty rm (sfuNum k x).1).1, (sfuNum k x).2 ||| (roundF ty rm (sfuNum k x).1).2)) ∧
  (∀ (k : Nat) (rm : RM) (n : Nat) (x : Dyad), k ≠ 2 →
    let v := (sfuNum k x).1
    let down := roundF .fp32 .rtz v
    ((sfu k .fp32 rm n x).1 = down.1 ∨ (sfu k .fp32 rm n x).1 = (roundF .fp32 (if v.isNeg then .rdn else .rup) v).1) ∧
    (down.2 = 0 → sfu k .fp32 rm n x = (down.1, (sfuNum k x).2)) ∧ (sfu k .fp32 rm n x).2 &&& fNX = ((sfuNum k x).2 ||| down.2) &&& fNX) ∧
  (∀ (m : Nat) (e : Int), 0 < m →
    let near (neg : Bool) (y : Dyad × Fl) (cmp : Nat → Int → Ordering) : Prop := y.2 = 0 ∧ ∃ r x, y.1 = .fin neg r x ∧
      (cmp r x = .eq ∨ r % 2 = 1 ∧ 2 ^ 64 ≤ r ∧ cmp (r - 1) x = .lt ∧ cmp (r + 1) x = .gt)
    near false (sfuNum 2 (.fin false m e)) (fun r x => cmpMag (r * r) (2 * x) m e) ∧
    near false (sfuNum 1 (.fin false m e)) (fun r x => cmpMag (r * r * m) (2 * x + e) 1 0) ∧
    (∀ neg, near neg (sfuNum 0 (.fin neg m e)) (fun r x => cmpMag (r * m) (x + e) 1 0)) ∧
    (∀ l : Nat, m = 2 ^ l → sfuNum 4 (.fin false m e) = (Dyad.ofInt ((l : Int) + e), 0)) ∧
    (m < 1024 → sfuNum 3 (.fin false m 0) = (.fin false 1 m, 0) ∧ sfuNum 3 (.fin true m 0) = (.fin false 1 (-(m : Int)), 0)))

/-- R160: the special inputs of VSFU, in every type and mode that the format takes. -/
def Obligations.SpecialFunctionInputs : Prop :=
  ∀ (ty : ETy) (rm : RM) (c : Nat), ty = .fp32 ∨ ty = .bf16 ∨ ty = .fp16 →
    let inf : Nat := ty.infCode
    let one : Nat := ty.bias * 2 ^ ty.mbits
    let half : Nat := (ty.bias - 1) * 2 ^ ty.mbits
    let minus (n : Nat) : Nat := 2 ^ (ty.bits - 1) + n
    let row (x : Dyad) : List (Nat × Fl) := (List.range 7).map (fun k => sfu k ty rm c x)
    row .nan = List.replicate 7 (ty.nanCode, 0) ∧
    (∀ e, row (.fin false 0 e) = [(inf, fDZ), (inf, fDZ), (0, 0), (one, 0), (minus inf, fDZ), (0, 0), (half, 0)]) ∧
    (∀ e, row (.fin true 0 e) =
      [(minus inf, fDZ), (minus inf, fDZ), (minus 0, 0), (one, 0), (minus inf, fDZ), (minus 0, 0), (half, 0)]) ∧
    row (.inf false) = [(0, 0), (0, 0), (inf, 0), (inf, 0), (inf, 0), (one, 0), (one, 0)] ∧
    row (.inf true) =
      [(minus 0, 0), (ty.nanCode, fIV), (ty.nanCode, fIV), (0, 0), (ty.nanCode, fIV), (minus one, 0), (0, 0)] ∧
    (∀ m e, 0 < m → sfu 1 ty rm c (.fin true m e) = (ty.nanCode, fIV) ∧ sfu 2 ty rm c (.fin true m e) = (ty.nanCode, fIV) ∧
      sfu 4 ty rm c (.fin true m e) = (ty.nanCode, fIV))

/-- R154, R156, R164: VLOGIC, VSEL, VMOV, VBCAST and the permutes: the lanes' bits, no flag.
R155, R165, R166: VCMP and VRNGP write the guarded lanes of their predicate, keep the others and clear bits 511:n; VRNG draws
from the counter base + lane, and a counter equal to the key delivers 0. -/
def Obligations.VectorLogicPredicatesDraws : Prop :=
  ((∀ c f, (c, f) ∈ vecBits → ∀ (h : Hdr) (o : V2) (s t : State) (a b : RowVal), Ready 8 h.s s →
       Reads (rdR o.a.src) s a → Reads (rdR o.b.src) s b →
       RowDone h o.ty [(o.a.src, o.a.mark), (o.b.src, o.b.mark)] o.d
         ((List.range o.ty.lanes).map (fun i => (f o.ty.bits (a.bitsAt o.ty i) (b.bitsAt o.ty i), 0))) s t →
       exec (c h o) s = .next (t.fell 8)) ∧
     (∀ (h : Hdr) (o : V1) (s t : State) (a : RowVal), Ready 8 h.s s → Reads (rdR o.a.src) s a →
       let done (f : Nat → Nat) : Prop := RowDone h o.ty [(o.a.src, o.a.mark)] o.d
         ((List.range o.ty.lanes).map (fun i => (f i, 0))) s t
       (done (fun i => 2 ^ o.ty.bits - 1 - a.bitsAt o.ty i) → exec (.vnot h o) s = .next (t.fell 8)) ∧
       (done (fun i => a.copyAt o.ty i) → exec (.vmov h o) s = .next (t.fell 8))) ∧
     (∀ (h : Hdr) (o : VSelF) (s t : State) (a b : RowVal) (p : Pred), Ready 8 h.s s → Reads (rdR o.a.src) s a →
       Reads (rdR o.b.src) s b → Reads (rdP o.p.toNat) s p →
       RowDone h o.ty [(o.a.src, o.a.mark), (o.b.src, o.b.mark)] o.d ((List.range o.ty.lanes).map (fun i =>
         (if p.getLsbD i then a.copyAt o.ty i else b.copyAt o.ty i, 0))) s t →
       exec (.vsel h o) s = .next (t.fell 8)) ∧
     (∀ (h : Hdr) (o : VRS) (s t : State) (a : RowVal) (b : Word), Ready 8 h.s s → Reads (rdR o.a.src) s a →
       Reads (rdS o.b.src) s b →
       let done (f : Nat → Nat) : Prop := RowDone h o.ty [(o.a.src, o.a.mark), (.sc o.b.src, o.b.mark)] o.d
         ((List.range o.ty.lanes).map (fun i => (a.copyAt o.ty (f i), 0))) s t
       (done (fun _ => b.toNat % o.ty.lanes) → exec (.vbcast h o) s = .next (t.fell 8)) ∧
       (done (fun i => (i + b.toNat % o.ty.lanes) % o.ty.lanes) → exec (.vrot h o) s = .next (t.fell 8))) ∧
     (∀ (h : Hdr) (o : V2) (s t : State) (a b : RowVal), Ready 8 h.s s → Reads (rdR o.a.src) s a → Reads (rdR o.b.src) s b →
       RowDone h o.ty [(o.a.src, o.a.mark), (o.b.src, o.b.mark)] o.d ((List.range o.ty.lanes).map (fun i =>
         (a.copyAt o.ty (if o.ty.lanes = 512 then i / 256 * 256 + b.bitsAt o.ty i else b.bitsAt o.ty i % o.ty.lanes), 0))) s t →
       exec (.vperm h o) s = .next (t.fell 8)) ∧
     (∀ (h : Hdr) (o : VZipF) (s t : State) (a b : RowVal), Ready 8 h.s s → Reads (rdR o.a.src) s a → Reads (rdR o.b.src) s b →
       let n := o.ty.lanes
       let done (f : Nat → Nat) : Prop := RowDone h o.ty [(o.a.src, o.a.mark), (o.b.src, o.b.mark)] o.d
         ((List.range n).map (fun i => (f i, 0))) s t
       (done (fun i => if i % 2 = 0 then a.copyAt o.ty (o.h.toNat * (n / 2) + i / 2)
           else b.copyAt o.ty (o.h.toNat * (n / 2) + i / 2)) → exec (.vzip h o) s = .next (t.fell 8)) ∧
       (done (fun i => if i < n / 2 then a.copyAt o.ty (2 * i + o.h.toNat)
           else b.copyAt o.ty (2 * (i - n / 2) + o.h.toNat)) → exec (.vunzip h o) s = .next (t.fell 8)))) ∧
  ((∀ (h : Hdr) (cc : Cond) (o : VC) (s s1 s2 : State) (g old new : Pred) (a b : RowVal), Ready 8 h.s s →
       Reads (guardP h) s g → Reads (rdR o.a.src) s a → Reads (rdR o.b.src) s b → Reads (rdP o.p.toNat) s old →
       (∀ i < o.ty.lanes, new.getLsbD i = if g.getLsbD i then
           (if o.ty.isFloat then condOrd cc (cmpNum (a.numAt o.ty i) (b.numAt o.ty i))
            else condInt cc (laneInt o.ty a i) (laneInt o.ty b i) (a.bitsAt o.ty i) (b.bitsAt o.ty i))
         else old.getLsbD i) →
       (∀ i, o.ty.lanes ≤ i → new.getLsbD i = false) →
       Does (popRows [(o.a.src, o.a.mark), (o.b.src, o.b.mark)]) s s1 → Does (wrP o.p.toNat new) s1 s2 →
       exec (.vcmp h cc o) s = .next (s2.fell 8)) ∧
     (∀ (h : Hdr) (o : VRngF) (s t : State) (k b : Word), Ready 8 h.s s → Reads (rdS o.a.src) s k → Reads (rdS o.b.src) s b →
       RowDone h .i32 [(.sc o.a.src, o.a.mark), (.sc o.b.src, o.b.mark)] o.d
         ((List.range 128).map (fun i => (rng k (b + BitVec.ofNat 64 i), 0))) s t →
       exec (.vrng h o) s = .next (t.fell 8)) ∧
     (∀ (h : Hdr) (o : VRngPF) (s s1 s2 : State) (g old new : Pred) (k b c : Word), Ready 8 h.s s → Reads (guardP h) s g →
       Reads (rdS o.a.src) s k → Reads (rdS o.b.src) s b → Reads (rdS o.c.src) s c → Reads (rdP o.p.toNat) s old →
       (∀ i < o.ty.lanes, new.getLsbD i = if g.getLsbD i then decide (rng k (b + BitVec.ofNat 64 i) < c.toNat % 2 ^ 32)
         else old.getLsbD i) →
       (∀ i, o.ty.lanes ≤ i → new.getLsbD i = false) →
       Does (popMarks [msMk o.a, msMk o.b, csMk o.c]) s s1 → Does (wrP o.p.toNat new) s1 s2 →
       exec (.vrngp h o) s = .next (s2.fell 8)) ∧
     (∀ k c : Word, rng k c < 2 ^ 32 ∧ rng k k = 0 ∧
       ∃ f : Word → Word, rng k c = (f (f (f (k ^^^ c)))).toNat / 2 ^ 32 ∧
         ∀ x, ∃ y, y = (x ^^^ (x >>> 29)) * 0x9E6C63D0676A9A99 ∧ f x = y ^^^ (y >>> 32)))

/-- R156 to R158: VLANE widens its lane and VINS replaces it, each only where the lane's guard bit is 1; VCVT converts the part p
of the row, with one rounding. -/
def Obligations.VectorLaneMovesConversions : Prop :=
  (∀ (h : Hdr) (o : VLaneF) (s s1 s2 : State) (g : Pred) (a : RowVal) (b : Word), Ready 8 h.s s → Reads (guardP h) s g →
    Reads (rdR o.a.src) s a → Reads (rdS o.b.src) s b →
    let x := a.copyAt o.ty (b.toNat % o.ty.lanes)
    let v : Word := if o.ty.isFloat then BitVec.ofNat 64 x else BitVec.ofInt 64 (sint o.ty.bits x)
    Does (popRows [(o.a.src, o.a.mark), (.sc o.b.src, o.b.mark)]) s s1 →
    Does (if g.getLsbD (b.toNat % o.ty.lanes) then wrS o.d v else wrS0 o.d) s1 s2 →
    exec (.vlane h o) s = .next (s2.fell 8)) ∧
  (∀ (h : Hdr) (o : VInsF) (s s1 s2 : State) (g : Pred) (a b : Word) (old new : Row), Ready 8 h.s s → Reads (guardP h) s g →
    Reads (rdS o.a.src) s a → Reads (rdS o.b.src) s b → Reads (rdV o.d.toNat) s old →
    Does (popMarks [msMk o.a, msMk o.b]) s s1 →
    (∀ i < o.ty.lanes, laneOf o.ty new i = if i = b.toNat % o.ty.lanes then a.toNat % 2 ^ o.ty.bits else laneOf o.ty old i) →
    (g.getLsbD (b.toNat % o.ty.lanes) = true → Does (wrV o.d.toNat new) s1 s2 → exec (.vins h o) s = .next (s2.fell 8)) ∧
    (g.getLsbD (b.toNat % o.ty.lanes) = false → exec (.vins h o) s = .next (s1.fell 8))) ∧
  (∀ (h : Hdr) (o : VCvtF) (s t : State) (a : RowVal) (old : Row), Ready 8 h.s s → Reads (rdR o.a.src) s a →
    Reads (oldRow o.d) s old →
    let nd := o.dst.lanes
    let ns := o.src.lanes
    let p := o.part.k.toNat
    let cvt (j : Nat) : Nat × Fl :=
      if o.src.isFloat || o.dst.isFloat then roundNum o.dst o.rm (a.numAt o.src j)
      else narrowInt o.dst.bits (laneInt o.src a j)
    RowDone h o.dst [(o.a.src, o.a.mark)] o.d ((List.range nd).map (fun i =>
      if nd < ns then cvt (p * nd + i)
      else if ns < nd then (if p * ns ≤ i ∧ i < p * ns + ns then cvt (i - p * ns) else (laneOf o.dst old i, 0))
      else cvt i)) s t →
    exec (.vcvt h o) s = .next (t.fell 8))

/-- R44, R161 to R163: VREDSUM, VREDMAX and VREDMIN reduce the guarded lanes in the pairwise tree and write the widened result
with the flags of every node; VSCANSUM writes the prefix sums in the steps of R163, at distances 1, 2, 4 and on, each lane with the
flags of its tree: lane 0 is A's, and where no rounding makes the order matter, lane k is lane k - 1 with A's lane k added. That lane 0
moves unchanged, with every bit of its element, is the model's reading (log 12). -/
def Obligations.VectorReductions : Prop :=
  (∀ (h : Hdr) (o : VRedF) (s s1 s2 s3 : State) (g : Pred) (a : RowVal), Ready 8 h.s s → Reads (guardP h) s g →
    Reads (rdR o.a.src) s a →
    let leaves (e : Dyad) : List Dyad := (List.range o.ty.lanes).map (fun i => if g.getLsbD i then a.numAt o.ty i else e)
    let done (f : Dyad → Dyad → Node) (e : Dyad) : Prop :=
      let r := tree f (Nat.log2 o.ty.lanes) (leaves e)
      let x := codeOf o.ty r.1
      Does (raiseI 255 0 r.2) s s1 ∧ Does (popRows [(o.a.src, o.a.mark)]) s1 s2 ∧
      Does (wrS o.d (if o.ty.isFloat then BitVec.ofNat 64 x else BitVec.ofInt 64 (sint o.ty.bits x))) s2 s3
    (done (sumNode o.ty o.rm) (.fin o.ty.isFloat 0 0) → exec (.vredsum h o) s = .next (s3.fell 8)) ∧
    (done (minmaxNode o.ty true) (minmaxId o.ty true) → exec (.vredmax h o) s = .next (s3.fell 8)) ∧
    (done (minmaxNode o.ty false) (minmaxId o.ty false) → exec (.vredmin h o) s = .next (s3.fell 8))) ∧
  (∀ (h : Hdr) (o : V1) (s t : State) (g : Pred) (a : RowVal), Ready 8 h.s s → Reads (guardP h) s g →
    Reads (rdR o.a.src) s a →
    RowDone h o.ty [(o.a.src, o.a.mark)] o.d
      ((scan (sumNode o.ty o.rm) (Nat.log2 o.ty.lanes) 1 ((List.range o.ty.lanes).map (fun i =>
        (if g.getLsbD i then a.numAt o.ty i else .fin o.ty.isFloat 0 0, 0)))).zipIdx.map (fun x =>
        (if x.2 = 0 then (if g.getLsbD 0 then a.copyAt o.ty 0 else codeOf o.ty (.fin o.ty.isFloat 0 0)) else codeOf o.ty x.1.1,
         x.1.2))) s t →
    exec (.vscansum h o) s = .next (t.fell 8)) ∧
  (∀ (f : Dyad → Dyad → Node) (k : Nat) (l r : List Dyad), l.length = 2 ^ k → r.length = 2 ^ k →
    (tree f (k + 1) (l ++ r)).1 = (f (tree f k l).1 (tree f k r).1).1 ∧
    (tree f (k + 1) (l ++ r)).2 = (tree f k l).2 ||| (tree f k r).2 ||| (f (tree f k l).1 (tree f k r).1).2) ∧
  (∀ (f : Dyad → Dyad → Node) (x : Dyad), tree f 0 [x] = (x, 0)) ∧
  (∀ (f : Dyad → Dyad → Node) (d : Nat) (t : List Node), (scanStep f d t).length = t.length ∧
    (∀ i < t.length, i < d → (scanStep f d t)[i]? = t[i]?) ∧
    (∀ x y i, d ≤ i → t[i - d]? = some x → t[i]? = some y →
      (scanStep f d t)[i]? = some ((f x.1 y.1).1, x.2 ||| y.2 ||| (f x.1 y.1).2))) ∧
  (∀ (f : Dyad → Dyad → Node) (d n : Nat) (t : List Node), scan f 0 d t = t ∧ scan f (n + 1) d t = scan f n (2 * d) (scanStep f d t)) ∧
  (∀ (f : Dyad → Dyad → Node) (n : Nat) (t : List Node), (∀ x y z, (f (f x y).1 z).1 = (f x (f y z).1).1) → t.length ≤ 2 ^ n →
    (∀ x, t[0]? = some x → (scan f n 1 t)[0]? = some x) ∧
    (∀ i x y, (scan f n 1 t)[i]? = some x → t[i + 1]? = some y →
      ((scan f n 1 t)[i + 1]?).map Prod.fst = some (f x.1 y.1).1))

/-- R167 to R170: VQUANT quantises each block of 32 lanes whose guard bit is 1, VDEQ decodes each element, and VSCALE changes the
scale words and keeps the element bits; a block that is not written keeps its old contents. -/
def Obligations.SxRowResults : Prop :=
  (∀ (h : Hdr) (o : VSxF) (s s1 s2 s3 : State) (g : Pred) (a : RowVal) (old : Row), Ready 8 h.s s → Reads (guardP h) s g →
    Reads (rdR o.a.src) s a → Reads (oldRow o.d) s old →
    let n := o.ty.lanes
    let m := o.m.toNat
    let q (b : Nat) := sxQuant m o.rm ((List.range 32).map (fun j => a.numAt o.ty (32 * b + j)))
    let on (b : Nat) := g.getLsbD (32 * b)
    Does (raiseLanes (rowIdOf o.d) ((List.range (n / 32)).filterMap (fun b =>
      if on b && (q b).2.2 != 0 then some (32 * b, (q b).2.2) else none))) s s1 →
    Does (popRows [(o.a.src, o.a.mark)]) s1 s2 →
    Does (wrR o.d (sxRow n m ((List.range (n / 32)).map (fun b =>
      if on b then ((q b).2.1, (q b).1) else (sxRowBits m b old, sxRowScale n m b old)))
      (if (List.range (n / 32)).any on then 0 else sxPad n m old))) s2 s3 →
    exec (.vquant h o) s = .next (s3.fell 8)) ∧
  (∀ (h : Hdr) (o : VSxF) (s t : State) (a : RowVal), Ready 8 h.s s → Reads (rdR o.a.src) s a →
    let r := a.asRow o.ty
    RowDone h o.ty [(o.a.src, o.a.mark)] o.d ((List.range o.ty.lanes).map (fun i => roundF o.ty o.rm
      (sxElem o.m.toNat (sxRowScale o.ty.lanes o.m.toNat (i / 32) r) (sxRowBits o.m.toNat (i / 32) r) (i % 32)))) s t →
    exec (.vdeq h o) s = .next (t.fell 8)) ∧
  (∀ (h : Hdr) (o : VScaleF) (s s1 s2 s3 : State) (g : Pred) (a : RowVal) (old : Row) (v : Word), Ready 8 h.s s → Reads (guardP h) s g →
    Reads (rdR o.a.src) s a → Reads (rdS o.b.src) s v → Reads (oldRow o.d) s old →
    let r := a.asRow o.ty
    let n := o.ty.lanes
    let m := o.m.toNat
    let q (b : Nat) := sxScaleWord m v.toInt (sxRowScale n m b r) (sxRowBits m b r)
    let on (b : Nat) := g.getLsbD (32 * b)
    Does (raiseLanes (rowIdOf o.d) ((List.range (n / 32)).filterMap (fun b =>
      if on b && (q b).2 != 0 then some (32 * b, (q b).2) else none))) s s1 →
    Does (popRows [(o.a.src, o.a.mark), (.sc o.b.src, o.b.mark)]) s1 s2 →
    Does (wrR o.d (sxRow n m ((List.range (n / 32)).map (fun b =>
      if on b then (sxRowBits m b r, (q b).1) else (sxRowBits m b old, sxRowScale n m b old))) (sxPad n m r))) s2 s3 →
    exec (.vscale h o) s = .next (s3.fell 8)) ∧
  (∀ (m : Nat) (s : Int) (scale bits : Nat), scale < 2 ^ 16 →
    (sxScaleWord m s scale bits).1 / 256 = scale / 256 ∧
    (scale % 256 = 255 → sxScaleWord m s scale bits = (scale, 0)) ∧
    (scale % 256 ≠ 255 → ((sxScaleWord m s scale bits).1 % 256 : Nat) = max 0 (min 254 (((scale % 256 : Nat) : Int) + s))))

/-- R147, R148, R162: a vector syllable that has a next state leaves device memory, every other role, and every V row, X
register and predicate but those it names as they were; without a stream destination, the tile stores too. -/
def Obligations.VectorFrame : Prop :=
  ∀ (i : Instr) (w : RowWrites) (s t : State), vectorWrites i = some w → exec i s = .next t →
    t.mem = s.mem ∧ t.poison = s.poison ∧ (∀ k, k ≠ s.curKey → t.role k = s.role k) ∧
    (∀ n : Nat, (∀ m, w.d = some (.v m) → m.toNat ≠ n) → t.curRole.v n = s.curRole.v n) ∧
    (∀ n : Nat, (∀ m, w.sd = some (.x m) → m.toNat ≠ n) → t.curRole.x n = s.curRole.x n) ∧
    (s.clu.lrec = none → ∀ n : Nat, (∀ m, w.p = some m → m.toNat ≠ n) → t.curRole.p n = s.curRole.p n) ∧
    ((∀ m, w.d ≠ some (.s m)) → t.tile = s.tile ∧ t.tpoison = s.tpoison) ∧
    (∀ c, c ≠ s.cur.cl → t.curRole.clu c = s.curRole.clu c) ∧
    (s.curRole.snap = none → t.curRole.acc = s.curRole.acc)

/-! ### Nest records -/

/-- R98, R172: a nest record at the head of M waits while the role's previous one is in flight; with the checks of its operation
passed it enters flight at step 0 and the cluster goes on after its 64 bytes; an accumulator row operation that ends at row 127 or
before it passes them; too many steps and too many rows raise ILLEGAL_NEST with their case. -/
def Obligations.NestIssued : Prop :=
  ∀ (i : Instr) (sb : Bool) (s : State), nestSync i = some sb → Ready 64 sb s → s.curRole.snap = none →
    let f := s.flightOf i
    let flying := (s.setRole s.curKey { s.curRole with nest := some f }).fell 64
    (s.curRole.nest ≠ none → exec i s = .next s) ∧
    (s.curRole.nest = none →
      (f.isMma = true → Does (mmaNestChk f) s s → Does (mmaTileChk f) s s → exec i s = .next flying) ∧
      (f.isMma = false → Does (rowChk f) s s → exec i s = .next flying) ∧
      (f.isMma = true → 2 ^ 20 < f.steps → exec i s = .next (takeTrap s 0x04 (f.w 0) 1)) ∧
      (f.isMma = false → f.placeBad = false → 128 < f.acc + f.rowsN → exec i s = .next (takeTrap s 0x04 (f.w 0) 3)) ∧
      (∀ acc rows : BitVec 8, acc.toNat + rowCount rows ≤ 128 →
        (i = .mzero sb acc rows ∨ i = .mtrans sb acc rows ∨ ∃ x y, i = .mhad sb ⟨acc, rows, x, y⟩) →
        exec i s = .next flying))

/-- R178, R198, R196: NEST_STEP_COMMIT, where nothing that the steps before it popped is still to come (log 19): the next step commits with its flags kept for retirement, or leaves all as it was while an
operand is not ready, or stops the role at its last commit; MZERO, MTRANS and MHAD write the rows of their range and no other
register. -/
def Obligations.NestStepsCommit : Prop :=
  ∀ (rs : Slot) (s : State) (f : Flight), (s.role rs.key).nest = some f → nestGoes (s.role rs.key) = true →
    f.step < f.steps → (s.role rs.key).owed = [] →
    (∀ fl s2, nestTry s rs.key f = .ok (fl, s2) → exec (.nestStepCommit rs) s = .next (s.stepped rs.key f fl s2)) ∧
    (nestTry s rs.key f = .error .wait → exec (.nestStepCommit rs) s = .next s) ∧
    (∀ i0 i1, nestTry s rs.key f = .error (.trap 0x14 i0 i1) →
      exec (.nestStepCommit rs) s = .next (takeStop s rs.key 1 0x14 .m i0 (BitVec.ofNat 64 f.step) none)) ∧
    (f.op = 3 ∨ f.op = 5 ∨ f.op = 7 →
      ∃ t, exec (.nestStepCommit rs) s = .next t ∧ t = { s with roles := t.roles } ∧
        (∀ k, k ≠ rs.key → t.role k = s.role k) ∧
        t.role rs.key = { s.role rs.key with vs := (t.role rs.key).vs, nest := (t.role rs.key).nest, lastAct := s.cycle } ∧
        (∀ n, (n < f.acc ∨ f.acc + f.rowsN ≤ n) → (t.role rs.key).v n = (s.role rs.key).v n) ∧
        (∀ i < f.rowsN,
          (f.op = 5 → (t.role rs.key).v (f.acc + i) = 0) ∧
          (f.op = 3 → (t.role rs.key).v (f.acc + i) = (hadRow (f.acc + i) f.hsel f.hk ((s.role rs.key).v (f.acc + i))).1) ∧
          (f.op = 7 → ∀ j < 128, laneOf .fp32 ((t.role rs.key).v (f.acc + i)) j =
            if j < f.rowsN then laneOf .fp32 ((s.role rs.key).v (f.acc + j)) i
            else laneOf .fp32 ((s.role rs.key).v (f.acc + i)) j)))

/-- R173, R174, R179, R191, R192, R194: what a step computes: an MMA step adds the product of its panel and tile, by its profile,
into the 16 rows from its accumulator row, and a row's first write under ZA starts from no value; its factor is 1, or under SCEN the
lane of the scale stream's vector; the flags it raises are those of its elements, by row and lane (R199); a drain to the tile store
writes the image of its rows; a load from it writes the widened rows.
R187: a step of MMAS does the same on the dense panel that the bitmap, the index plane and the half rows describe; a position that
it did not store contributes an exact +0 product.
R181: profiles 1, 2 and 3 take the products group by group, in ascending k: a group's sum of products truncated below its largest
one, times the factor, rounded once, is added to the accumulator with a second rounding. R182: profile 4 adds the pairwise tree of
16 rounded products. R184: profile 6 adds each product with one rounding.
R183: profile 5 adds the exact sum of the products to the INT32 accumulator and clamps, raising SAT when it clamps; under ZA
the first write starts from the sum alone. -/
def Obligations.NestSteps : Prop :=
  ((∀ (f : Flight) (s s2 : State) (fl : Raised) (ab bb : List Byte) (cs : Nat → Dyad), f.op = 1 → 0 ≤ f.arow f.step →
       (f.scen = false → ∀ j, cs j = Dyad.ofInt 1) →
       (f.scen = true → ∃ cb, Reads (unitBytes true f.scs (f.rel 5 f.step) 512) s cb ∧
         ∀ j, cs j = (packedVals (.el .fp32) 128 cb).getD j (Dyad.ofInt 1)) →
       Reads (unitBytes f.aStrm f.aNum (f.rel 2 f.step) f.abytes) s ab →
       Reads (unitBytes f.bStrm f.bNum (f.rel 3 f.step) f.bbytes) s bb → nestStep f s = .ok (fl, s2) →
       let row (fm : Fmt) (bs : List Byte) (n : Nat) := packedVals fm 128 ((bs.drop (fm.rowBytes 128 * n)).take (fm.rowBytes 128))
       let a (r k : Nat) := (row f.afmt ab r).getD k plusZero
       let b (k j : Nat) := if f.bt then (row f.bfmt bb j).getD k plusZero else (row f.bfmt bb k).getD j plusZero
       let n (r : Nat) : Nat := (f.arow f.step + r).toNat
       let el (r j : Nat) := profileElem f.profUsed (cs j)
         (if f.za && f.firstAt f.step (n r) then none else some (laneOf .fp32 (s.curRole.v (n r)) j))
         ((List.range 128).map (fun k => some (a r k, b k j)))
       (∀ r j : Nat, r < 16 → j < 128 → laneOf .fp32 (s2.curRole.v (n r)) j = (el r j).1 % 2 ^ 32) ∧
       fl = (List.range 16).flatMap (fun r => ((List.range 128).filter (fun j => (el r j).2 ≠ 0)).map (fun j => (n r, j, (el r j).2))) ∧
       (∀ n : Nat, ((n : Int) < f.arow f.step ∨ f.arow f.step + 15 < (n : Int)) → s2.curRole.v n = s.curRole.v n)) ∧
     (∀ (f : Flight) (s s2 : State), f.op = 4 → f.dkind = 0 →
       let out := (List.range f.rowsN).map (fun i => drainRow f.dfmt f.drnd (f.acc + i) f.hsel f.hk (s.curRole.v (f.acc + i)))
       Does (tilePut (512 * f.dval) (out.flatMap Prod.fst)) s s2 → nestStep f s = .ok (out.flatMap Prod.snd, s2)) ∧
     (∀ (f : Flight) (s : State) (img : List Byte), f.op = 6 → f.dkind = 0 → Reads (tileGet (512 * f.dval) f.imageBytes) s img →
       ∃ s2, nestStep f s = .ok ([], s2) ∧
         (∀ i < f.rowsN, s2.curRole.v (f.acc + i) =
           loadRow f.dfmt ((img.drop (f.dfmt.rowBytes 128 * i)).take (f.dfmt.rowBytes 128))) ∧
         (∀ n, (n < f.acc ∨ f.acc + f.rowsN ≤ n) → s2.curRole.v n = s.curRole.v n))) ∧
  (∀ (f : Flight) (s s2 : State) (fl : Raised) (bm ix ab bb : List Byte) (cs : Nat → Dyad), f.op = 2 → 0 ≤ f.arow f.step →
       (f.scen = false → ∀ j, cs j = Dyad.ofInt 1) →
       (f.scen = true → ∃ cb, Reads (unitBytes true f.scs (f.rel 5 f.step) 512) s cb ∧
         ∀ j, cs j = (packedVals (.el .fp32) 128 cb).getD j (Dyad.ofInt 1)) →
       Reads (tileGet (f.bmoff + (f.idx 2 f.step).toNat) 1) s bm → Reads (tileGet (f.spidx + 256 * (f.idx 2 f.step).toNat) 256) s ix →
       Reads (unitBytesOf (usesHalf f.afmt (leNat bm)) f.aStrm f.aNum (f.rel 2 f.step) f.abytes) s ab →
       Reads (unitBytesOf (usesTile f.bfmt f.bt (leNat bm)) f.bStrm f.bNum (f.rel 3 f.step) f.bbytes) s bb →
       nestStep f s = .ok (fl, s2) →
       let live (c : Nat) : Prop := leNat bm / 2 ^ c % 2 = 1
       let half (r : Nat) := packedVals f.afmt 64 ((ab.drop (f.afmt.rowBytes 64 * r)).take (f.afmt.rowBytes 64))
       let row (n : Nat) := packedVals f.bfmt 128 ((bb.drop (f.bfmt.rowBytes 128 * n)).take (f.bfmt.rowBytes 128))
       let b (k j : Nat) := if f.bt then (row j).getD k plusZero else (row k).getD j plusZero
       (∀ a : Nat → Nat → Option Dyad,
         (∀ r k n : Nat, r < 16 → k < 128 → let c := k / 16
           let g := k % 16 / 4
           let e := leNat ((ix.drop (2 * (8 * r + c))).take 2) / 16 ^ g % 16
           n = (List.range c).countP (fun x => leNat bm / 2 ^ x % 2 = 1) →
           (¬ live c → a r k = none) ∧ (live c → k % 4 = e % 4 → a r k = (half r)[8 * n + 2 * g]?) ∧
           (live c → k % 4 = e / 4 → e % 4 < e / 4 → a r k = (half r)[8 * n + 2 * g + 1]?) ∧
           (live c → k % 4 ≠ e % 4 → (k % 4 ≠ e / 4 ∨ e / 4 ≤ e % 4) → a r k = none)) →
         let n (r : Nat) : Nat := (f.arow f.step + r).toNat
         let el (r j : Nat) := profileElem f.profUsed (cs j)
           (if f.za && f.firstAt f.step (n r) then none else some (laneOf .fp32 (s.curRole.v (n r)) j))
           ((List.range 128).map (fun k => (a r k).map (fun x => (x, b k j))))
         (∀ r j : Nat, r < 16 → j < 128 → laneOf .fp32 (s2.curRole.v (n r)) j = (el r j).1 % 2 ^ 32) ∧
         fl = (List.range 16).flatMap (fun r => ((List.range 128).filter (fun j => (el r j).2 ≠ 0)).map (fun j => (n r, j, (el r j).2)))) ∧
       (∀ n : Nat, ((n : Int) < f.arow f.step ∨ f.arow f.step + 15 < (n : Int)) → s2.curRole.v n = s.curRole.v n)) ∧
  (∀ (prof G W : Nat), (prof, G, W) ∈ [(1, 16, 36), (2, 32, 44), (3, 128, 52)] → ∀ (c : Dyad) (acc : Option Nat) (g rest : List Pair),
       g.length = G → G ∣ rest.length →
       let ps := g.map prodOf
       let sum (gs : Nat × Fl) : Prop := profileElem prof c acc (g ++ rest) =
         ((profileElem prof c (some (accPlus acc gs).1) rest).1,
          (accPlus acc gs).2 ||| (profileElem prof c (some (accPlus acc gs).1) rest).2)
       let has (x : Dyad) : Prop := ∃ p ∈ ps, p.1 = x
       let both : Prop := has (.inf false) ∧ has (.inf true)
       (both ∨ (∃ p ∈ ps, p.2 ≠ 0) → sum (0x7FC00000, fIV)) ∧ (¬ both → has .nan → (∀ p ∈ ps, p.2 = 0) → sum (0x7FC00000, 0)) ∧
       (¬ both → ¬ has .nan → has (.inf false) → sum (0x7F800000, 0)) ∧ (¬ both → ¬ has .nan → has (.inf true) → sum (0xFF800000, 0)) ∧
       ((∀ p ∈ ps, ∃ s x, p.1 = .fin s 0 x) → sum (0, 0)) ∧
       (∀ e : Int, (∀ p ∈ ps, ∃ s m x, p.1 = .fin s m x ∧ (m ≠ 0 → (Nat.log2 m : Int) + x ≤ e)) →
         (∃ p ∈ ps, ∃ s m x, p.1 = .fin s m x ∧ m ≠ 0 ∧ (Nat.log2 m : Int) + x = e) →
         let q := e - W
         let t := (ps.map (fun p => (truncUnits q p.1).1)).sum
         let v := mulNum c (.fin (t < 0) t.natAbs q)
         let r := roundF .fp32 .rne v.1
         sum (r.1, v.2 ||| r.2 ||| (if ps.any (fun p => (truncUnits q p.1).2) then fNX else 0)))) ∧
  (∀ (c : Dyad) (acc : Option Nat) (g rest : List Pair), g.length = 16 → 16 ∣ rest.length →
       let ts := g.map (fun p => (decodeNum .fp32 (roundF .fp32 .rne (prodOf p).1).1, (prodOf p).2 ||| (roundF .fp32 .rne (prodOf p).1).2))
       let t := tree (sumNode .fp32 .rne) 4 (ts.map Prod.fst)
       let a := accPlus acc (codeOf .fp32 t.1, (ts.map Prod.snd).foldl (· ||| ·) t.2)
       profileElem 4 c acc (g ++ rest) = ((profileElem 4 c (some a.1) rest).1, a.2 ||| (profileElem 4 c (some a.1) rest).2)) ∧
  (∀ (c : Dyad) (acc : Option Nat) (p : Pair) (rest : List Pair),
       let m := prodOf p
       let e := match acc with | none => (m.1, 0) | some x => addNum .rne m.1 (decodeNum .fp32 x)
       let r := roundF .fp32 .rne e.1
       profileElem 6 c acc (p :: rest) = ((profileElem 6 c (some r.1) rest).1, m.2 ||| e.2 ||| r.2 ||| (profileElem 6 c (some r.1) rest).2)) ∧
  (∀ (prof : Nat) (c : Dyad) (x : Nat), prof ∈ [1, 2, 3, 4, 6] → profileElem prof c (some x) [] = (x, 0)) ∧
  (∀ (c : Dyad) (acc : Option Nat) (ps : List (Int × Int)),
       let sum := (acc.map (sint 32)).getD 0 + (ps.map (fun p => p.1 * p.2)).sum
       profileElem 5 c acc (ps.map (fun p => some (Dyad.ofInt p.1, Dyad.ofInt p.2))) =
         if sum < -2 ^ 31 then (2 ^ 31, fSAT) else if 2 ^ 31 - 1 < sum then (2 ^ 31 - 1, fSAT)
         else ((sum % 2 ^ 32).toNat, 0))

/-- R178, R192, R199, R200: NEST_RETIRE raises the record's flags, publishes the slot of a drain into a ring, and leaves the status
word; MWAIT goes on once no record is in flight and waits while one is; MSTAT delivers the status word. That retirement waits while
vectors of a drain over a link wait for room in the channel (log 17), and while units that committed steps pop have not come (log
19), is the model's reading of R192, R211 and R176. -/
def Obligations.NestRetiresAndStatus : Prop :=
  (∀ (rs : Slot) (s : State) (f : Flight), (s.role rs.key).nest = some f → nestGoes (s.role rs.key) = true →
    f.steps ≤ f.step →
    let r := (s.role rs.key).raiseAll s.cycle rs.key f.raised
    let linked (n : Nat → Prop) : Prop := f.op = 4 ∧ f.dkind = 1 ∧ ∃ t, mfind (s.role rs.key).strms f.dval = some t ∧ t.bind = 2 ∧
      n (s.chan (sinkChan rs.key t.link)).length
    let word := BitVec.ofNat 64 (f.step % 2 ^ 24 * 2 ^ 32 + f.op * 2 ^ 24 + f.profUsed * 2 ^ 16)
    let done (r' : Role) : Prop := exec (.nestRetire rs) s =
      .next (s.setRole rs.key { r' with nest := none, drainSlot := none, mstat := word, lastAct := s.cycle })
    (linked (fun n => 8 < n) ∨ (s.role rs.key).owed ≠ [] → exec (.nestRetire rs) s = .next s) ∧
    (¬ linked (fun n => 8 < n) → (s.role rs.key).owed = [] →
      ((s.role rs.key).drainSlot = none → done r) ∧
      (∀ n g, (s.role rs.key).drainSlot = some (n, g.pub) → mfind (s.role rs.key).rings n = some g → g.acqd ≠ 0 →
        done (r.setRing n { g with slots := g.slots.set g.pi .published, pub := g.pub + 1, pi := nextIdx g.count g.pi })))) ∧
  (∀ (h : Hdr) (s : State), Ready 8 h.s s → s.curRole.snap = none →
    (∀ g, Reads (guardS h) s g → (g = false ∨ s.curRole.nest = none) → exec (.mwait h) s = .next (s.fell 8)) ∧
    (Reads (guardS h) s true → s.curRole.nest ≠ none → exec (.mwait h) s = .next s) ∧
    (∀ (d : SDst) (s1 : State) (w : Word), Reads (guardS h) s true →
      (s.curRole.nest = none ∧ w = s.curRole.mstat ∨
        ∃ f, s.curRole.nest = some f ∧ f.steps ≤ f.step ∧
          w = BitVec.ofNat 64 (f.step % 2 ^ 24 * 2 ^ 32 + f.op * 2 ^ 24 + f.profUsed * 2 ^ 16 + if s.curRole.owed = [] then 1 else 3)) →
      Does (wrS d w) s s1 → exec (.mstat h d) s = .next (s1.fell 8)))

/-! ### Requests where they are served -/

/-- R231, R233 to R237, R240, R271, R353: ACCESS_SERVED performs the next part of a request of plain memory: a load delivers the
bytes at its address, a store writes its bytes there, an atomic delivers the old value and writes the new one of R237's table,
and the request then leaves the role; the last part of an LDV or a GATHER delivers the row (R234, R235); an ATOMF.D of a generation
that has not completed leaves its contribution with the home slice, or in the overflow area where the slice holds 65536, and faults
where that has no room either (R241, R243); a translation that fails, a multicast page, and poison fault the request at its address;
a request behind a faulted one is held. Before that the request enters the crossbar (`inject`): it waits while a token budget
that it draws on is used up (R316), while its port has no free tag of the partition's share (R387), and while what stands before it in
the core's injection queue, a request or a copy's granule, goes to the same 64-byte line or home slice or has been overtaken 32 times
(R392); one that enters takes a token of each of its budgets. Which requests draw on which budgets, that a budget refills with its
period, and what holds a tag, are the model's choices (log 44).
R271, R330: REPLY_COMMIT writes the destinations of a performed request and the request leaves the role; one that fills a
queue entry fills it once the earlier loads of its cluster have been performed. -/
def Obligations.RequestsServed : Prop :=
  (∀ (rs : Slot) (id : Nat) (a : Access) (s : State), (s.role rs.key).acc? id = some a →
       performable s (s.role rs.key) a = true →
       let r := s.role rs.key
       let end_ (t : State) (r' : Role) : Prop := exec (.accessServed rs (.acc id)) s = .next (t.setRole rs.key { r' with lastAct := s.cycle })
       let mark (t : State) (st : AStat) : Prop := end_ t (r.setAcc { a with stat := st })
       (meetsStuck s r a.cl a.id a.ranges = true → mark s .held) ∧
       (meetsStuck s r a.cl a.id a.ranges = false → inject s rs.key a = none → end_ s r)) ∧
  (∀ (rs : Slot) (id : Nat) (a : Access) (s s0 : State), (s.role rs.key).acc? id = some a →
       performable s (s.role rs.key) a = true → meetsStuck s (s.role rs.key) a.cl a.id a.ranges = false → inject s rs.key a = some s0 →
         let r := s0.role rs.key
         let n := a.size.bytes
         let rest := r.acc.filter (fun b => b.id ≠ id)
         let to_ (va : Word) (w : Want) : Except Nat Xlat := translateA s0 (rs.key / 4) a.afresh r.asid.toNat (tagNow s0 r.asid.toNat a.gen) va w
         let end_ (t : State) (r' : Role) : Prop := exec (.accessServed rs (.acc id)) s = .next (t.setRole rs.key { r' with lastAct := s.cycle })
         let mark (t : State) (st : AStat) : Prop := end_ t (r.setAcc { a with stat := st })
         (a.kind = .fence ∨ a.kind = .pref → end_ s0 { r with acc := rest }) ∧
         (∀ c w, ((a.kind = .ld ∧ w = .rd) ∨ (a.kind = .st ∧ w = .wr) ∨ ((∃ op, a.kind = .atom op) ∧ w = .rw)) →
           to_ (a.partAddr a.done) w = .error c →
           let r' := r.setAcc { a with stat := .faulted c (a.partAddr a.done) 0 0 }
           (c ≠ 0x60 → end_ s0 r') ∧
           (c = 0x60 → end_ (s0.logViol 0 rs.key (a.partAddr a.done)) { r' with frozen := r.frozen || r.st == .stopped })) ∧
         (∀ x : Xlat, a.kind = .ld → to_ (a.partAddr a.done) .rd = .ok x → x.attr = 3 →
           mark x.st (.faulted 0x11 (a.partAddr a.done) 0 0)) ∧
         (∀ x : Xlat, to_ a.addr .rd = .ok x → x.attr = 0 → paRegion x.pa ≤ 1 → n ≤ 64 → a.done = 0 →
           a.kind = .ld → a.data = [] →
           (memPoisoned x.st x.pa n = true → mark x.st (.faulted 0x14 a.addr 0 0)) ∧
           (memPoisoned x.st x.pa n = false →
             (∀ d, a.dests = [.x d] →
               end_ x.st { r.setX d (BitVec.ofNat 64 (leNat (x.st.memRead x.pa n))) with acc := rest }) ∧
             (∀ q, a.dests = [.q q] →
               let bs := x.st.memRead x.pa n
               end_ x.st (r.setAcc { a with done := 1, data := bs, stat := .replied [(.q q, leRow bs)] })))) ∧
         (∀ x : Xlat, to_ a.addr .wr = .ok x → x.attr = 0 → paRegion x.pa ≤ 1 → n ≤ 64 → a.done = 0 →
           liveBlock x.st x.pa = false → a.kind = .st → end_ (x.st.memWrite x.pa (a.data.take n)) { r with acc := rest }) ∧
         (∀ (x : Xlat) (op d : Nat), to_ a.addr .rw = .ok x → x.attr = 0 → paRegion x.pa ≤ 1 → n ≤ 64 →
           liveBlock x.st x.pa = false → a.done = 0 → a.kind = .atom op → a.data = [] → a.dests = [.x d] → memPoisoned x.st x.pa n = false →
           let m := 2 ^ (8 * n)
           let o := leNat (x.st.memRead x.pa n)
           let v := a.v.toNat % m
           let z (i : Nat) : Int := sint (8 * n) i
           let got : Role := { r.setX d (BitVec.ofNat 64 o) with acc := rest }
           let new (k e : Nat) : Prop := op = k → end_ (x.st.memWrite x.pa (natLe n e)) got
           new 0 ((o + v) % m) ∧ new 1 (o &&& v) ∧ new 2 (o ||| v) ∧ new 3 (o ^^^ v) ∧
           new 4 (if z o ≤ z v then o else v) ∧ new 5 (if z o ≤ z v then v else o) ∧ new 6 (min o v) ∧ new 7 (max o v) ∧ new 8 v ∧
           (op = 9 → (o = a.c.toNat % m → end_ (x.st.memWrite x.pa (natLe n v)) got) ∧ (o ≠ a.c.toNat % m → end_ x.st got))) ∧
         (∀ (x : Xlat) (d : Nat), to_ a.addr .rw = .ok x → x.attr = 0 → paRegion x.pa ≤ 1 → a.size = .b4 →
           liveBlock x.st x.pa = false → a.done = 0 → a.kind = .atomf → a.data = [] → a.dests = [.x d] → memPoisoned x.st x.pa 4 = false →
           let o := leNat (x.st.memRead x.pa 4)
           let sum := addNum .rne (decodeNum .fp32 o) (decodeNum .fp32 (a.v.toNat % 2 ^ 32))
           end_ (x.st.memWrite x.pa (natLe 4 (roundF .fp32 .rne sum.1).1)) { r.setX d (BitVec.ofNat 64 o) with acc := rest }) ∧
         (∀ x : Xlat, a.kind = .gather ∨ a.kind = .ldv → to_ (a.partAddr a.done) .rd = .ok x →
           x.attr = 0 → paRegion x.pa ≤ 1 → memPoisoned x.st x.pa a.partLen = false → a.done + 1 < a.parts →
           end_ x.st (r.setAcc { a with done := a.done + 1, data := a.data ++ x.st.memRead x.pa a.partLen })) ∧
         (∀ x : Xlat, a.kind = .scatter ∨ a.kind = .stv → to_ (a.partAddr a.done) .wr = .ok x →
           x.attr = 0 → paRegion x.pa ≤ 1 → liveBlock x.st x.pa = false →
           let t := x.st.memWrite x.pa ((a.data.drop (a.partLen * a.done)).take a.partLen)
           (a.done + 1 < a.parts → end_ t (r.setAcc { a with done := a.done + 1 })) ∧
           (a.parts ≤ a.done + 1 → end_ t { r with acc := rest })) ∧
         (∀ (x : Xlat) (q : Nat), a.kind = .gather ∨ a.kind = .ldv → to_ (a.partAddr a.done) .rd = .ok x →
           x.attr = 0 → paRegion x.pa ≤ 1 → memPoisoned x.st x.pa a.partLen = false → a.parts ≤ a.done + 1 → a.dests = [.q q] →
           let row := a.data ++ x.st.memRead x.pa a.partLen
           end_ x.st (r.setAcc { a with done := a.done + 1, data := row, stat := .replied [(.q q, leRow row)] })) ∧
         (∀ (x : Xlat) (lev : Nat), a.kind = .atomfD lev → to_ a.addr .rw = .ok x → x.attr = 0 → paRegion x.pa ≤ 1 →
           liveBlock x.st x.pa = false → a.done = 0 →
           let pn := r.part.toNat
           let inst := instOf r rs.key lev
           let full := decide (65536 ≤ x.st.contribs.countP (fun c => !c.spilled && homeSlice c.pa == homeSlice x.pa))
           let room : Prop := (x.st.partOr pn).overflow.getLsbD 0 = true ∧
             x.st.contribs.countP (fun c => c.spilled && c.part == pn) < Config.overflowEntries
           x.st.barDone pn r.lid.toNat lev inst ≤ a.len.toNat →
             (full = false ∨ room → end_ { x.st with contribs := x.st.contribs ++
                 [{ pa := x.pa, part := pn, lid := r.lid.toNat, level := lev, inst := inst, gen := a.len.toNat, core := rs.key / 4,
                    slot := rs.key % 4, seq := a.c.toNat, val := a.v.setWidth 32, spilled := full }] } { r with acc := rest }) ∧
             (full = true → ¬ room → mark x.st (.faulted 0x11 a.addr 0 0)))) ∧
  (∀ (k : Nat) (s : State) (a : Access),
       (∀ y ∈ queueOf s (k / 4), y.before (a.queued s k) = true → a.kind ≠ .fence → a.kind ≠ .pref →
         32 ≤ y.passed ∨ (∃ p q, nextPa s (s.role k) a = some p ∧ q ∈ y.pas ∧
           (p / 64 = q / 64 ∨ paRegion p ≤ 1 ∧ paRegion q ≤ 1 ∧ homeSlice p = homeSlice q)) →
         inject s k a = none) ∧
       (∀ q share : Nat, a.kind ≠ .fence → a.kind ≠ .pref → partPort s (s.role k) a a.done = some q →
         (s.partOr (s.role k).part.toNat).record.ports.find? (fun x => x.1 = q) = some (q, share) →
         1024 * share ≤ tagsHeld s (s.role k).part.toNat q → inject s k a = none) ∧
       (∀ b : Budget, b ∈ (s.partOr (s.role k).part.toNat).record.budgets → b.kind ∈ a.draws s (s.role k) → a.kind ≠ .fence → a.kind ≠ .pref →
         (b.size ≤ spentOf s (s.partOr (s.role k).part.toNat) b → inject s k a = none) ∧
         (∀ s0, (∀ c ∈ (s.partOr (s.role k).part.toNat).record.budgets, c.kind = b.kind → c = b) → inject s k a = some s0 →
           spentOf s0 (s0.partOr (s.role k).part.toNat) b = spentOf s (s.partOr (s.role k).part.toNat) b + 1))) ∧
  (∀ (rs : Slot) (id : Nat) (a : Access) (s : State), (s.role rs.key).acc? id = some a →
       let r := s.role rs.key
       let rest := r.acc.filter (fun b => b.id ≠ id)
       (∀ (n : Nat) (v : Row), a.dests = [.x n] → a.stat = .replied [(.x n, v)] → exec (.replyCommit rs id) s =
         .next (s.setRole rs.key { r.setX n (v.setWidth 64) with acc := rest, lastAct := s.cycle })) ∧
       (∀ (p : Nat) (v : Row), a.dests = [.p p] → a.stat = .replied [(.p p, v)] → exec (.replyCommit rs id) s =
         .next (s.setRole rs.key { r.setP p (if v = 0 then 0 else BitVec.allOnes 512) with acc := rest, lastAct := s.cycle })) ∧
       (∀ (q : Nat) (v : Row), a.dests = [.q q] → a.stat = .replied [(.q q, v)] →
         ((∀ b ∈ earlier r id, b.cl = a.cl → b.stat.unperformed = false) → exec (.replyCommit rs id) s =
           .next (s.setRole rs.key { r.setQ q ((qList r.qs q).map (fun e => if e.pend = some id then { e with val := v, pend := none } else e))
             with acc := rest, lastAct := s.cycle })) ∧
         ((∃ b ∈ earlier r id, b.cl = a.cl ∧ b.stat.unperformed = true ∧ b.isLoad = true) →
           exec (.replyCommit rs id) s = .next s)))

/-- R248, R249, R251, R252, R280, R393, R394, R204: ACCESS_SERVED of a ready copy reads the bytes of its next granule from memory or
from the tile window, each aligned granule of the tile store once (a sparse copy: the values and indices that the granule's image is
made of), or writes the granule that it has read, there or to the destination of its part of a multicast page, each line that it reaches there
checked before any byte is written; a copy with a multicast
page still ahead is first split into as many parts as the largest set of its pages has destinations, which then read, write and fault
each on its own, a lower index first (how many parts, and which granules are read once: the model's readings, log 27); a translation that fails faults the copy; a copy that touches a faulted access of its cluster
is held (R353). R316: a copy's granule draws on the crossbar's budget, on that of HBM or of its port, and the copy waits where one
of them is used up (log 44). COPY_COMPLETE takes out a copy whose parts are all written, and no other.
R242, R244, R260: BARRIER_GENERATION_COMPLETE completes the oldest generation of an instance once every participant has
arrived often enough, or has gone while contributions wait, and no ATOMF.D tagged with it is still to be performed: its contributions, in ascending (core, role, sequence number), are added to memory in FP32, and its
count is one more; until then it does nothing. -/
def Obligations.CopiesAndGenerations : Prop :=
  ((∀ (rs : Slot) (i : Nat) (c : CopyJob) (s : State), (s.role rs.key).copies[i]? = some c → copyReady s (s.role rs.key) c = true →
       let r := s.role rs.key
       let end_ (t : State) (cs : List CopyJob) : Prop := exec (.accessServed rs (.copy i)) s =
         .next (t.setRole rs.key { r with copies := cs, lastAct := s.cycle })
       (copyStuck s r c = true → end_ s (r.copies.set i { c with held := true })) ∧
       (copyStuck s r c = false →
         (∀ n : Nat, c.multi = false → c.buf = none → (∃ j ∈ c.pageStarts, ∃ ds, mcastAt s r c j = some ds ∧ ds.length = n) → 1 ≤ n →
           (∀ j ∈ c.pageStarts, ∀ ds, mcastAt s r c j = some ds → ds.length ≤ n) →
           end_ s (r.copies.set i { c with multi := true } ++
             (List.range (n - 1)).map (fun j => { c with mdest := j + 1, multi := true }))) ∧
         (splits s r c = false → (partBehind s rs.key c = true ∨ copyInject s rs.key c = none) → end_ s r.copies))) ∧
     (∀ (k pa : Nat) (c : CopyJob) (s : State) (b : Budget), (∃ n, (pa, n) ∈ c.places s (s.role k)) →
       let p := s.partOr (s.role k).part.toNat
       b ∈ p.record.budgets → (b.kind = 1 ∨ b.kind = 0 ∧ paRegion pa = 0 ∨
         ∃ q, b.kind = 2 + q ∧ 2 ≤ paRegion pa ∧ paRegion pa ≤ 4 ∧ portOf s (s.role k) pa = some q) →
       b.size ≤ spentOf s p b → copyInject s k c = none) ∧
     (∀ (rs : Slot) (i : Nat) (c : CopyJob) (s s0 : State), (s.role rs.key).copies[i]? = some c →
       copyReady s (s.role rs.key) c = true → copyStuck s (s.role rs.key) c = false → splits s (s.role rs.key) c = false →
       partBehind s rs.key c = false → copyInject s rs.key c = some s0 →
       let r := s0.role rs.key
       let core := rs.key / 4
       let lo := (c.span c.done).1
       let n := (c.span c.done).2
       let to_ (a : Word) (w : Want) : Except Nat Xlat := translateA s0 core c.afresh r.asid.toNat (s0.asid r.asid.toNat).gen a w
       let now : CopyJob := { c with at_ := s.cycle, passed := 0 }
       let end_ (t : State) (c' : CopyJob) : Prop := exec (.accessServed rs (.copy i)) s =
         .next (t.setRole rs.key { r with copies := r.copies.set i c', lastAct := s.cycle })
       let faults (c' : CopyJob) (e : Nat) (a : Word) : Prop :=
         let f : CopyJob := { c' with fault := some (e, a, 0) }
         (e ≠ 0x60 → end_ s0 f) ∧
         (e = 0x60 → exec (.accessServed rs (.copy i)) s = .next ((s0.logViol 0 rs.key a).setRole rs.key
           { r with copies := r.copies.set i f, lastAct := s.cycle, frozen := r.frozen || r.st == .stopped }))
       let got (base : Word) (o m : Nat) (bs : List Byte) : Prop := isTileRef base = true ∧
         (∃ p, tileRange r (s0.arrBase core) (tileOff base + o) m = some p ∧ tilePoisoned s0 (tkey core p) m = false) ∧
         ∃ gr : Nat → List Byte,
           (∀ g, (tileOff base + o) / 64 ≤ g → 64 * g < tileOff base + o + m → (gr g).length = 64 ∧
             (mfind c.kept g = some (gr g) ∨ mfind c.kept g = none ∧
               ∃ p, tileRange r (s0.arrBase core) (64 * g) 64 = some p ∧ gr g = s0.tileRead core p 64)) ∧
           bs = (List.range m).map (fun j => (gr ((tileOff base + o + j) / 64)).getD ((tileOff base + o + j) % 64) 0)
       (c.buf = none → c.sparse = false → isTileRef c.src = false →
         let a := c.src + BitVec.ofNat 64 lo
         (∀ e, to_ a .rd = .error e → faults { now with kept := [] } e a) ∧
         (∀ x : Xlat, a.toNat % 64 + n ≤ 64 → to_ a .rd = .ok x → x.attr = 0 → paRegion x.pa ≤ 1 →
           memPoisoned x.st x.pa n = false → end_ x.st { now with kept := [], buf := some (x.st.memRead x.pa n) })) ∧
       (∀ bs, c.buf = none → c.sparse = false → got c.src lo n bs → end_ s0 { now with kept := c.keeps s0 rs.key, buf := some bs }) ∧
       (∀ vals idx, c.buf = none → c.sparse = true → lo % 64 = 0 → n = 64 → got c.src (32 * (lo / 64)) 32 vals →
         got c.index (8 / c.width * (lo / 64)) (8 / c.width) idx →
         let w := c.width
         ∃ bs, bs.length = 64 ∧ end_ s0 { now with kept := c.keeps s0 rs.key, buf := some bs } ∧
           ∀ e < 64 / w,
             let m := (idx.getD (e / 8) 0).toNat / 16 ^ (e / 4 % 2) % 16
             (bs.drop (w * e)).take w =
               if e % 4 = m % 4 then (vals.drop (e / 4 * 2 * w)).take w
               else if e % 4 = m / 4 ∧ m % 4 < m / 4 then (vals.drop ((e / 4 * 2 + 1) * w)).take w
               else List.replicate w 0) ∧
       (∀ bs, c.buf = some bs →
         let on : CopyJob := { now with done := c.done + 1, buf := none }
         let a := c.dst + BitVec.ofNat 64 lo
         (∀ e, isTileRef c.dst = false → to_ a .wr = .error e → faults now e a) ∧
         (∀ x : Xlat, isTileRef c.dst = false → to_ a .wr = .ok x → x.attr = 0 → paRegion x.pa ≤ 1 → liveBlock x.st x.pa = false →
           c.mdest = 0 → end_ (x.st.memWrite x.pa bs) on) ∧
         (∀ p, isTileRef c.dst = true → tileRange r (s0.arrBase core) (tileOff c.dst + lo) n = some p →
           c.mdest = 0 → end_ (s0.tileWrite core p bs) on) ∧
         (∀ (x : Xlat) (b : Word), isTileRef c.dst = false → to_ a .wr = .ok x →
           x.attr = 3 → (x.st.mset (x.st.asid r.asid.toNat).part.toNat x.pa).dests[c.mdest]? = some b →
           let o := b.toNat + x.pa % 2 ^ 16
           let m := 64 - o % 64
           let ok (p : Nat) : Prop := paRegion p ≤ 1 ∧ inWindows x.st (partOf x.st r) p = true ∧ mappedAs x.st 2 p = false ∧ liveBlock x.st p = false
           (bs.length ≤ m → ok (paNorm o) → end_ (x.st.memWrite (paNorm o) bs) on) ∧
           (m < bs.length → bs.length ≤ 64 → ok (paNorm o) → ok (paNorm (o + m)) →
             end_ ((x.st.memWrite (paNorm o) (bs.take m)).memWrite (paNorm (o + m)) (bs.drop m)) on) ∧
           (m < bs.length → paRegion (paNorm o) ≤ 1 → paRegion (paNorm (o + m)) ≤ 1 →
             inWindows x.st (partOf x.st r) (paNorm (o + m)) = false → faults now 0x60 a) ∧
           (9 ≤ paRegion (paNorm o) → end_ s0 { now with fault := some (0x11, a, 0) })))) ∧
     (∀ (rs : Slot) (id : Nat) (s : State),
       let r := s.role rs.key
       let mine := r.copies.filter (fun c => c.id = id)
       ((mine ≠ [] ∧ ∀ c ∈ mine, c.granules ≤ c.done ∧ c.fault = none) → exec (.copyComplete rs id) s =
         .next (s.setRole rs.key { r with copies := r.copies.filter (fun c => c.id ≠ id), lastAct := s.cycle })) ∧
       ((∃ c ∈ mine, c.done < c.granules ∨ c.fault ≠ none) → exec (.copyComplete rs id) s = .next s))) ∧
  (∀ (l : LKey) (lev inst : Nat) (s : State),
       let g := s.barDone l.part l.lid lev inst
       let arr := instArrivals s l.part l.lid lev inst
       let mine (c : Contrib) : Prop := c.part = l.part ∧ c.lid = l.lid ∧ c.level = lev ∧ c.inst = inst ∧ c.gen = g
       let before (a b : Contrib) : Prop := a.core < b.core ∨ a.core = b.core ∧
         (a.slot < b.slot ∨ a.slot = b.slot ∧ a.seq ≤ b.seq)
       let waits : Prop := ∃ c ∈ s.contribs, c.part = l.part ∧ c.lid = l.lid ∧ c.level = lev ∧ c.inst = inst ∧ g ≤ c.gen
       let tagged : Prop := ∃ a ∈ instRequests s l.part l.lid lev inst, a.kind = .atomfD lev ∧ a.len.toNat = g
       ((∃ n, some n ∈ arr ∧ n ≤ g) ∨ tagged ∨ ((∀ n, some n ∉ arr) ∧ ¬ waits) →
         exec (.barrierGenerationComplete l lev inst) s = .next s) ∧
       ((∀ n, some n ∈ arr → g < n) → ¬ tagged → (∃ n, some n ∈ arr) ∨ waits →
         ∃ (cs keep : List Contrib) (t : State), cs.Pairwise before ∧ (∀ c, c ∈ cs ↔ c ∈ s.contribs ∧ mine c) ∧
           cs.length + keep.length = s.contribs.length ∧ (∀ c, c ∈ keep ↔ c ∈ s.contribs ∧ ¬ mine c) ∧
           t = cs.foldl (fun t c => if memPoisoned t c.pa 4 || liveBlock t c.pa then t else
             t.memWrite c.pa (natLe 4 (roundF .fp32 .rne
               (addNum .rne (decodeNum .fp32 (leNat (t.memRead c.pa 4))) (decodeNum .fp32 c.val.toNat)).1).1)) s ∧
           exec (.barrierGenerationComplete l lev inst) s =
             .next ({ t with contribs := keep }.setBarDone l.part l.lid lev inst (g + 1))))

/-! ### Tile pools and cue cells -/

/-- R321, R322, R325, R331 to R333: what the pool unit does for a request on a live block of the role's partition and scope. PCLAIM
takes the lowest free slot into the lowest free claim entry, or answers 0; PPUB makes its slot the latest one; PGRAB pins the
latest slot and answers its address, sequence number and age, or false; PABORT frees; PREL unpins; PSTAT answers the word that its
selector names; what the role holds is what its hold list says (R326), a slot claimed as long as a claim entry names the role as
its owner; misuse 4, 5, 7 and 9 change nothing at the pool. POOL_RETIRE clears LIVE.
R334, R336 to R338, R340, R341, R343, R345: a load of a cue page delivers a VALUE; a load of a RUNNING cell parks, or reports
the loop it closes; the first load of a CUE cell takes the next EID that no running evaluation holds, makes the cell RUNNING and parks, and its evaluation is
queued where no role qualifies; a load of a FAULTED cell delivers its bytes and sets the error predicate. Resolving a cell
writes it, and no load is parked at it any more. CUEMK, CUERES, CUEFAIL, CUEPEEK and CUESTAT do what R348 and R349 say at the cell, or
fault with PROTECTION. CUE_LOAD_RESEND sends a returned load again after 256 cycles; DEEPWAIT faults a
load parked longer than CUEWD; a queued evaluation and a pending touch go to a core once one can take them. That a full waiter table
returns the first touch too, which address space the evaluation runs in, and that only a plain load touches a cell, are the model's
readings (logs 28, 29). -/
def Obligations.PoolsAndCuesServe : Prop :=
  ((∀ (rs : Slot) (id op : Nat) (a : Access) (s s0 : State) (x : Xlat), (s.role rs.key).acc? id = some a →
       performable s (s.role rs.key) a = true → meetsStuck s (s.role rs.key) a.cl a.id a.ranges = false → inject s rs.key a = some s0 → a.kind = .pool op →
       translateA s0 (rs.key / 4) a.afresh (s.role rs.key).asid.toNat (tagNow s0 (s.role rs.key).asid.toNat a.gen) a.addr .rd = .ok x → x.attr = 1 → paRegion x.pa = 1 →
       memPoisoned x.st x.pa 256 = false → pLive x.st x.pa = true → pPART x.st x.pa = (s.role rs.key).part.toNat →
       inPoolScope x.st x.pa rs.key (s.role rs.key) = true → pNSLOT x.st x.pa ≤ 64 → pWR x.st x.pa ≤ 8 →
       let r := s0.role rs.key
       let p := x.st
       let b := x.pa
       let rank := r.rank.toNat % 2 ^ 16
       let answer (t : State) (vals : List (Dest × Row)) (holds : List Hold) : Prop := t = { p with mem := t.mem } ∧
         exec (.accessServed rs (.acc id)) s =
           .next (t.setRole rs.key { ({ r with holds := holds } : Role).setAcc { a with stat := .replied vals } with lastAct := s.cycle })
       let misuse (n : Nat) : Prop := exec (.accessServed rs (.acc id)) s = .next (p.setRole rs.key
         { r.setAcc { a with stat := .faulted 0x38 a.addr (BitVec.ofNat 64 n) n } with lastAct := s.cycle })
       let free (j : Nat) : Prop := slotState (pSLOT p b j) = 0
       let none_ (w : Nat) : Prop := bits (pCLAIM p b w) 7 0 = 0xFF
       let claim (j : Nat) : Word := BitVec.ofNat 64 (j + rs.core.toNat * 2 ^ 8 + rs.slot.toNat * 2 ^ 16 + rank * 2 ^ 32)
       let claims (h : Hold) : Prop := h.pool = a.addr ∧ h.pin = false ∧ ∃ w < 8, pCLAIM p b w = claim h.slot
       (∀ d, op = 0 → a.dests = [d] →
         ((∃ h ∈ r.holds, claims h) → misuse 4) ∧
         ((∀ h ∈ r.holds, ¬ claims h) → 16 ≤ r.holds.length → misuse 7) ∧
         ((∀ h ∈ r.holds, ¬ claims h) → r.holds.length < 16 →
           (∀ j w, j < pNSLOT p b → free j → (∀ i < j, ¬ free i) → w < pWR p b → none_ w → (∀ i < w, ¬ none_ i) →
             ∃ t, answer t [(d, widen (BitVec.ofNat 64 (pBASE p b + j * pBYTES p b)))]
                 (r.holds ++ [{ pool := a.addr, slot := j, pin := false }]) ∧
               pSLOT t b j = 1 ∧
               pCLAIM t b w = claim j ∧
               (∀ i, i < 64 → i ≠ j → pSLOT t b i = pSLOT p b i) ∧ (∀ v, v < 8 → v ≠ w → pCLAIM t b v = pCLAIM p b v) ∧
               pSEQ t b = pSEQ p b ∧ pLATEST t b = pLATEST p b) ∧
           (((∀ j < pNSLOT p b, ¬ free j) ∨ (∀ w < pWR p b, ¬ none_ w)) →
             ∃ t, answer t [(d, 0)] r.holds ∧ pCLAIMFAIL t b = (pCLAIMFAIL p b + 1) % 2 ^ 32 ∧
               (∀ i < 64, pSLOT t b i = pSLOT p b i) ∧ pSEQ t b = pSEQ p b))) ∧
       (∀ j w, a.dests = [] → slotOfB p b a.v = some j → j < 64 → ({ pool := a.addr, slot := j, pin := false } : Hold) ∈ r.holds →
         w < 8 → pCLAIM p b w = claim j → (∀ v < w, pCLAIM p b v ≠ claim j) →
         let old := pLATEST p b
         let pins := slotPins (pSLOT p b old)
         (op = 1 → (old = 0xFF ∨ old < 64 ∧ old ≠ j) → ∃ t, answer t [] (unhold r.holds { pool := a.addr, slot := j, pin := false }) ∧
           pSLOT t b j = 2 ∧ pLATEST t b = j ∧ pSEQ t b = (pSEQ p b + 1) % 2 ^ 64 ∧ pPTIME t b = s.dtime % 2 ^ 64 ∧
           pCLAIM t b w = 0xFF ∧ (old ≠ 0xFF → pSLOT t b old = if pins = 0 then 0 else 3 + 4 * pins) ∧
           (∀ i < 64, i ≠ j → i ≠ old → pSLOT t b i = pSLOT p b i)) ∧
         (op = 2 → ∃ t, answer t [] (unhold r.holds { pool := a.addr, slot := j, pin := false }) ∧
           pSLOT t b j = 0 ∧ pCLAIM t b w = 0xFF ∧ pSEQ t b = pSEQ p b ∧ pLATEST t b = pLATEST p b ∧
           (∀ i < 64, i ≠ j → pSLOT t b i = pSLOT p b i))) ∧
       (∀ j, (op = 1 ∨ op = 2) → slotOfB p b a.v = some j →
         (({ pool := a.addr, slot := j, pin := false } : Hold) ∉ r.holds ∨ ∀ w < 8, pCLAIM p b w ≠ claim j) → misuse 5) ∧
       (∀ q n, op = 3 → a.dests = [.p q, .x n, .x (n + 1), .x (n + 2)] →
         (16 ≤ r.holds.length → misuse 7) ∧
         (r.holds.length < 16 → (pLATEST p b = 0xFF ∨ pPINS p b = pPN p b) →
           ∃ t, answer t [(.p q, 0)] r.holds ∧ pGRABFAIL t b = (pGRABFAIL p b + 1) % 2 ^ 32 ∧ pPINS t b = pPINS p b) ∧
         (r.holds.length < 16 → pLATEST p b < 64 → pPINS p b ≠ pPN p b →
           let j := pLATEST p b
           ∃ t, answer t [(.p q, 1), (.x n, widen (BitVec.ofNat 64 (pBASE p b + j * pBYTES p b))),
               (.x (n + 1), widen (BitVec.ofNat 64 (pSEQ p b))), (.x (n + 2), widen (BitVec.ofNat 64 (s.dtime - pPTIME p b)))]
               (r.holds ++ [{ pool := a.addr, slot := j, pin := true }]) ∧
             pPINS t b = (pPINS p b + 1) % 2 ^ 8 ∧ pLATEST t b = j ∧ pSEQ t b = pSEQ p b ∧
             (slotPins (pSLOT p b j) < 63 → slotPins (pSLOT t b j) = slotPins (pSLOT p b j) + 1 ∧
               slotState (pSLOT t b j) = slotState (pSLOT p b j)))) ∧
       (∀ j, op = 4 → slotOfB p b a.v = some j → j < 64 → ({ pool := a.addr, slot := j, pin := true } : Hold) ∈ r.holds →
         let pins := slotPins (pSLOT p b j)
         ∃ t, answer t [] (unhold r.holds { pool := a.addr, slot := j, pin := true }) ∧ slotPins (pSLOT t b j) = pins - 1 ∧
           slotState (pSLOT t b j) = (if slotState (pSLOT p b j) = 3 ∧ pins ≤ 1 then 0 else slotState (pSLOT p b j)) ∧
           pPINS t b = pPINS p b - 1 ∧ pLATEST t b = pLATEST p b) ∧
       (∀ d, op = 5 → a.dests = [d] →
         let gives (v : Nat) : Prop := answer p [(d, widen (BitVec.ofNat 64 v))] r.holds
         let slot := pSLOT p b a.v.toNat
         (∀ w, a.v.toNat < pNSLOT p b → slotState slot = 1 → w < 8 → bits (pCLAIM p b w) 7 0 = a.v.toNat →
           (∀ v < w, bits (pCLAIM p b v) 7 0 ≠ a.v.toNat) →
           gives (bits (pCLAIM p b w) 47 32 * 2 ^ 48 + bits (pCLAIM p b w) 17 16 * 2 ^ 16 + bits (pCLAIM p b w) 15 8 * 2 ^ 8 + slot % 2 ^ 8)) ∧
         (a.v.toNat < pNSLOT p b → slotState slot ≠ 1 → gives (slot % 2 ^ 8)) ∧
         (a.v = -1 → gives (pLATEST p b + pNSLOT p b * 2 ^ 8 + (List.range 8).countP (fun w => bits (pCLAIM p b w) 7 0 ≠ 0xFF) * 2 ^ 16 +
           pPINS p b * 2 ^ 24 + pGRABFAIL p b * 2 ^ 32)) ∧
         (a.v = -2 → gives (pSEQ p b)) ∧ (a.v = -3 → gives (pPTIME p b)) ∧
         (pNSLOT p b ≤ a.v.toNat → a.v ≠ -1 → a.v ≠ -2 → a.v ≠ -3 → misuse 9))) ∧
     (∀ (by_ : Master) (pa pn : Nat) (s : State), awake s by_ = true → masterPart s by_ = some pn → paNorm pa = pa →
       paRegion pa = 1 → pa % 256 = 0 → inWindows s (s.partOr pn).record pa = true →
       ∃ t, exec (.poolRetire by_ pa) s = .next t ∧ pLive t pa = false ∧
         (∀ a, a ≠ pa + 17 → readByte t.mem a = readByte s.mem a))) ∧
  ((∀ (rs : Slot) (id d : Nat) (a : Access) (s s0 : State) (x : Xlat), (s.role rs.key).acc? id = some a →
       performable s (s.role rs.key) a = true → meetsStuck s (s.role rs.key) a.cl a.id a.ranges = false → inject s rs.key a = some s0 → a.kind = .ld →
       a.size.bytes ≤ 8 → a.done = 0 → a.data = [] → a.dests = [.x d] →
       translateA s0 (rs.key / 4) a.afresh (s.role rs.key).asid.toNat (tagNow s0 (s.role rs.key).asid.toNat a.gen) a.addr .rd = .ok x → x.attr = 2 → paRegion x.pa ≤ 1 →
       memPoisoned x.st x.pa a.size.bytes = false →
       let r := s0.role rs.key
       let p := x.st
       let v : Word := BitVec.ofNat 64 (leNat (p.memRead x.pa a.size.bytes))
       let cell := x.pa / 64 * 64
       let sl := homeSlice x.pa
       let end_ (t : State) (r' : Role) : Prop := exec (.accessServed rs (.acc id)) s =
         .next (t.setRole rs.key { r' with lastAct := s.cycle })
       let rest := r.acc.filter (fun b => b.id ≠ id)
       let parked : Access := { a with stat := .parked cell s.cycle }
       (p.tag x.pa = 0 → end_ p { r.setX d v with acc := rest }) ∧
       (p.tag x.pa = 3 → a.cueerr = 0 → end_ p (r.setAcc { a with stat := .faulted 0x14 a.addr 0 0 })) ∧
       (p.tag x.pa = 3 → a.cueerr ≠ 0 → end_ p (({ r.setX d v with acc := rest } : Role).setP a.cueerr (BitVec.allOnes 512))) ∧
       (p.tag x.pa = 1 ∨ p.tag x.pa = 2 → 1024 ≤ p.wused sl → end_ p (r.setAcc { a with stat := .resend (s.cycle + 256) })) ∧
       (p.tag x.pa = 2 → p.wused sl < 1024 → loopLen p rs.key cell = none → end_ p (r.setAcc parked)) ∧
       (∀ n, p.tag x.pa = 2 → p.wused sl < 1024 → loopLen p rs.key cell = some n →
         end_ p (r.setAcc { a with stat := .faulted 0x30 (a.addr &&& ~~~63) (BitVec.ofNat 64 n) n })) ∧
       (p.tag x.pa = 1 → p.wused sl < 1024 → (∀ e ∈ (p.prompter sl).touches, e.cell ≠ cell) → (p.prompter sl).lq.length < 64 →
         (∀ e : Eval, placeFor p e = none) →
         ∃ t e c, end_ t (r.setAcc parked) ∧ t.tag x.pa = 2 ∧
           e.eid = BitVec.ofNat 32 (sl * 2 ^ 26 + (p.prompter sl).count) ∧ e.cell = cell ∧ e.handler = p.cellWord cell 0 ∧
           e.arg = p.cellWord cell 1 ∧ e.hint = p.cellWord cell 2 ∧ e.asid = r.asid ∧ t.cellWord cell 7 = e.eid.setWidth 64 ∧
           t.prompter sl = { (p.prompter sl) with count := c, evals := (p.prompter sl).evals + 1, lq := (p.prompter sl).lq ++ [e] } ∧
           0 < c ∧ c < 2 ^ 26 ∧ ((countsHeld t sl).length + 2 ≤ 2 ^ 26 → c ∉ countsHeld t sl) ∧
           (let n := ((p.prompter sl).count + 1) % 2 ^ 26
            n ≠ 0 → n ∉ countsHeld t sl → c = n))) ∧
     (∀ (rs : Slot) (id op : Nat) (a : Access) (s s0 : State) (x : Xlat) (w : Want), (s.role rs.key).acc? id = some a →
       performable s (s.role rs.key) a = true → meetsStuck s (s.role rs.key) a.cl a.id a.ranges = false → inject s rs.key a = some s0 → a.kind = .cue op →
       (op = 0 ∧ w = .wr ∨ (op = 1 ∨ op = 2) ∧ w = .rw ∨ (op = 3 ∨ op = 4) ∧ w = .rd) →
       translateA s0 (rs.key / 4) a.afresh (s.role rs.key).asid.toNat (tagNow s0 (s.role rs.key).asid.toNat a.gen) a.addr w = .ok x → paRegion x.pa ≤ 1 →
       memPoisoned x.st x.pa 64 = false →
       let r := s0.role rs.key
       let p := x.st
       let img (i : Nat) : Word := leWord ((a.data.drop (8 * i)).take 8)
       let w7 : BitVec 32 := (p.cellWord x.pa 7).setWidth 32
       let open_ : Prop := p.tag x.pa = 1 ∨ (p.tag x.pa = 2 ∧ w7 = a.eid ∧ a.eid ≠ 0)
       let good : Prop := (∀ i ∈ [3, 4, 5, 6, 7], img i = 0) ∧ (img 0).toNat % 32 = 0 ∧ bits (img 2) 63 10 = 0 ∧
         (bits (img 2) 9 8 = 2 → bits (img 2) 7 0 < 8) ∧ (bits (img 2) 9 8 = 3 → bits (img 2) 7 0 < 4)
       let done (t : State) (v : Word) : Prop := exec (.accessServed rs (.acc id)) s = .next (t.setRole rs.key
         { (t.role rs.key).setAcc { a with stat := .replied (a.dests.map (fun d => (d, widen v))) } with lastAct := s.cycle })
       let bad : Prop := exec (.accessServed rs (.acc id)) s = .next (p.setRole rs.key
         { r.setAcc { a with stat := .faulted 0x11 a.addr 0 0 } with lastAct := s.cycle })
       (x.attr ≠ 2 → bad) ∧
       (x.attr = 2 →
         (op = 0 → p.tag x.pa ≠ 2 → good → done ((p.setCell x.pa
           [img 0, img 1, img 2, BitVec.ofNat 64 (r.asid.toNat + (p.asid r.asid.toNat).gen.toNat * 2 ^ 16), 0, 0, 0, 0]).setTag x.pa 1) 0) ∧
         (op = 0 → (p.tag x.pa = 2 ∨ ¬ good) → bad) ∧
         (op = 1 → open_ → done (resolveCell p x.pa ((List.range 8).map img) 0) 0) ∧
         (op = 2 → open_ → done (resolveCell p x.pa [BitVec.ofNat 64 (rs.core.toNat + rs.slot.toNat * 2 ^ 8 + r.rank.toNat % 2 ^ 16 * 2 ^ 16 +
           a.v.toNat % 2 ^ 8 * 2 ^ 40), 0, 0, 0, 0, 0, 0, 0] 3) 0) ∧
         ((op = 1 ∨ op = 2) → ¬ open_ → bad) ∧
         (op = 3 → done p (BitVec.ofNat 64 ((p.tag x.pa).toNat + if p.tag x.pa = 2 then w7.toNat * 2 ^ 32 else 0))) ∧
         (op = 4 → (∀ i < 8, a.v = BitVec.ofNat 64 (8 + i) → done p (p.cellWord x.pa i)) ∧
           (let cell := x.pa / 64 * 64
            let q := p.prompter (homeSlice x.pa)
            (a.v = 0 → done p (BitVec.ofNat 64 ((if p.tag x.pa = 2 then w7.toNat else 0) * 2 ^ 32 + p.waiters cell * 2 ^ 16 +
              (if ∃ e ∈ q.lq, e.cell = cell then 8 else 0) + (if ∃ e ∈ q.touches, e.cell = cell then 4 else 0) + (p.tag x.pa).toNat))) ∧
            (a.v = 1 → done p (BitVec.ofNat 64 (q.evals.toNat * 2 ^ 32 + p.wused (homeSlice x.pa) * 2 ^ 16 + q.lq.length))) ∧
            (1 < a.v.toNat → (a.v.toNat < 8 ∨ 15 < a.v.toNat) → bad))))) ∧
     (∀ (s : State) (pa : Nat) (ws : List Word) (t : BitVec 2), ws.length = 8 → (s.roles.map Prod.fst).Nodup →
       let u := resolveCell s pa ws t
       let cell := pa / 64 * 64
       u.tag pa = t ∧ (∀ i < 8, u.cellWord pa i = ws.getD i 0) ∧ (∀ e ∈ (u.prompter (homeSlice cell)).touches, e.cell ≠ cell) ∧
       (∀ k, ∀ a ∈ (u.role k).acc, ∀ c, a.stat ≠ .parked cell c) ∧
       (∀ k a bs d since, t = 0 → (s.role k).acc = bs ++ [a] → (∀ b ∈ bs, b.id ≠ a.id ∧ ∀ c, b.stat ≠ .parked cell c) →
         a.stat = .parked cell since → a.dests = [.x d] → a.size.bytes ≤ 8 → a.addr.toNat % 64 + a.size.bytes ≤ 64 →
         ((u.role k).xs = ((s.role k).setX d
           (BitVec.ofNat 64 (leNat (((ws.flatMap (fun w => natLe 8 w.toNat)).drop (a.addr.toNat % 64)).take a.size.bytes)))).xs ∧
           (u.role k).acc = bs))) ∧
     (∀ (rs : Slot) (id : Nat) (a : Access) (s : State), (s.role rs.key).acc? id = some a →
       let r := s.role rs.key
       (∀ at_, a.stat = .resend at_ → at_ ≤ s.cycle → exec (.cueLoadResend rs id) s =
         .next (s.setRole rs.key (r.setAcc { a with stat := .pending }))) ∧
       (∀ cell since, a.stat = .parked cell since →
         (r.st = .running → r.cuewd ≠ 0 → r.cuewd.toNat * 1250 < s.cycle - since → exec (.deepwait rs id) s = .next (s.setRole rs.key
           { r.setAcc { a with stat := .faulted 0x31 (a.addr &&& ~~~63) (BitVec.ofNat 64 ((s.cycle - since) / 1250)) 0 } with
             lastAct := s.cycle })) ∧
         ((r.st ≠ .running ∨ r.cuewd = 0 ∨ s.cycle - since ≤ r.cuewd.toNat * 1250) → exec (.deepwait rs id) s = .next s))) ∧
     (∀ (sl : Nat) (s : State) (e : Eval) (rest : List Eval),
       (∀ c s', (s.prompter sl).lq = e :: rest → placeFor s e = some c →
         s.accept c (evalArrival e (rankAt s c e.asid e.handler)) = some s' →
         exec (.prompterQueueDispatch sl) s = .next (s'.setPrompter sl
           { s.prompter sl with lq := (e :: rest).filter (fun y => y.eid ≠ e.eid) })) ∧
       ((s.prompter sl).touches = e :: rest → homeSlice e.cell = sl → (s.prompter sl).lq.length < 64 →
         ∃ t, exec (.pendingTouchTake sl) s = .next t ∧ t.tag e.cell = 2 ∧ (t.prompter sl).touches = rest ∧
           t.cellWord e.cell 7 = BitVec.ofNat 64 ((sl * 2 ^ 26 + (s.prompter sl).count) % 2 ^ 32))))

/-! ### Arrivals, messages, spawns -/

/-- R72 to R75: an arrival is accepted when its core has a free area entry: its payload goes to the lowest one and it joins the
queue, among those of its cycle in ascending order of sender; without one it is refused. The arrival at the head of a queue starts the lowest role that qualifies, at the entries of
the handler block, with X1 to X4; a handler block that cannot be read stops the role exactly.
R211, R263, R264, R305: a message whose earlier requests are done becomes an arrival at its target, and waits in the engine
while the target refuses it; one to a peer leaves over its port once the link is up and not frozen (R385) and the port has a tag for it; each
waits while a budget of the crossbar or of the port is used up (R316); a vector reaches its neighbour 4 cycles after its push, in order, while fewer than 8 are there; a waiting spawn is bound in a
free slot of its launch, with its argument in X1 and its sender in X3, or leaves for the peer that it names; the arrival at the head of a queue for which no role
qualifies gets, in a cycle after the one in which it entered, a DORMANT role of the launch that covers its handler, or is dropped with
notice 2. Which port the hash picks (log 16), the order in which what waits leaves, that a SPAWN for a peer waits for its link (logs 19, 33),
what draws on a budget (log 44), and that nothing starts or binds during an emergency stop (log 32), are the model's choices. -/
def Obligations.ArrivalsAndEngines : Prop :=
  ((∀ (core : BitVec 8) (a : Arrival) (s : State),
       let c := s.core core.toNat
       (∀ n < 16, n ∉ c.areas → (∀ i < n, i ∈ c.areas) → exec (.arrivalAccept core a) s =
         .next ((s.tileWrite core.toNat (c.arrBase.toNat + 4096 * n) a.payload).setCore core.toNat
           { c with areas := linsert c.areas n, arrq := queueArr c.arrq { area := n, arr := a, at_ := s.cycle } })) ∧
       ((∀ n < 16, n ∈ c.areas) → exec (.arrivalAccept core a) s = .next s)) ∧
     (∀ (q : List ArrEnt) (e : ArrEnt),
       let later (x : ArrEnt) : Prop := x.at_ = e.at_ ∧ e.arr.sender.toNat < x.arr.sender.toNat
       ∃ l1 l2, q = l1 ++ l2 ∧ queueArr q e = l1 ++ e :: l2 ∧ (∀ x ∈ l1, ¬ later x) ∧ ∀ x, l2.head? = some x → later x) ∧
     (∀ (core : BitVec 8) (s : State) (e : ArrEnt) (t : List ArrEnt) (k : Nat), (s.core core.toNat).arrq = e :: t →
       k / 4 = core.toNat → e.at_ < s.cycle → s.emergency = false → (s.role k).qualifies e.arr.asid e.arr.handler = true →
       (∀ j, j / 4 = core.toNat → j < k → (s.role j).qualifies e.arr.asid e.arr.handler = false) → bits e.arr.sender 35 32 ≠ 2 →
       (∀ (es : List Word) (s1 : State), handlerBlock s core.toNat (s.role k) e.arr.handler = .ok (es, s1) →
         ∃ u, exec (.arrivalStart core) s = .next u ∧ u.mem = s1.mem ∧ (u.core core.toNat).arrq = t ∧
           (u.role k).st = .running ∧ (u.role k).x 1 = BitVec.ofNat 64 (0x400000 + 4096 * e.area) ∧
           (u.role k).x 2 = BitVec.ofNat 64 e.arr.payload.length ∧ (u.role k).x 3 = e.arr.sender ∧ (u.role k).x 4 = e.arr.x4 ∧
           (u.role k).arrival = some e.area ∧ (u.role k).qs = [] ∧
           (∀ n, (n < 1 ∨ 4 < n) → (u.role k).x n = (s.role k).x n) ∧ (u.role k).ps = (s.role k).ps ∧
           (u.role k).vs = (s.role k).vs ∧
           (u.role k).eid = (if bits e.arr.sender 35 32 = 1 then e.arr.x4.setWidth 32 else 0) ∧
           (∀ c : Cluster, (u.role k).clu c = { pc := es.getD c.num 0, halted := es.getD c.num 0 == 0, loops := [], lrec := none }) ∧
           ∀ j, j ≠ k → u.role j = s.role j) ∧
       (∀ code i1, handlerBlock s core.toNat (s.role k) e.arr.handler = .error (code, i1) → ∃ u, exec (.arrivalStart core) s = .next u ∧
         (u.role k).st = .stopped ∧ (u.role k).entryPend = e.arr.handler ∧ (u.role k).lastcode = BitVec.ofNat 8 code)) ∧
     (∀ (core : BitVec 8) (s : State) (e : ArrEnt) (t : List ArrEnt), (s.core core.toNat).arrq = e :: t →
       s.cycle ≤ e.at_ ∨ s.emergency = true → exec (.arrivalStart core) s = .next s)) ∧
  ((∀ (core : BitVec 8) (s : State) (m : MsgJob) (rest : List MsgJob), (s.core core.toNat).msgs = m :: rest →
       (∀ a ∈ (s.role (4 * core.toNat + m.slot)).acc, a.id ∈ m.after → a.stat.unperformed = false) →
       let pn := (s.asid m.arr.asid.toNat).part
       let spent (q : Nat) : Prop := ∃ b ∈ (s.partOr pn.toNat).record.budgets, (b.kind = 1 ∨ b.kind = 2 + q ∧ m.peer ≠ none) ∧
         b.size ≤ spentOf s (s.partOr pn.toNat) b
       (∀ s1, m.peer = none → ¬ spent 0 → s.accept m.target m.arr = some s1 → ∃ u, exec (.msgDelivery core 0) s = .next u ∧
         (u.core core.toNat).msgs = rest ∧ u.tile = s1.tile ∧ u.mem = s.mem ∧
         (∃ n, (u.core m.target).arrq = queueArr (s.core m.target).arrq { area := n, arr := m.arr, at_ := s.cycle })) ∧
       (m.peer = none → (spent 0 ∨ s.accept m.target m.arr = none) → exec (.msgDelivery core 0) s = .next s) ∧
       (∀ rank, m.peer = some rank →
         let port := portTo s { Role.reset with part := pn, lid := m.lid } rank m.target
         let shut (q : Nat) : Prop := (s.port q).up = false ∨ (s.port q).frozen = true ∨ noTag s pn.toNat q = true ∨ spent q
         ((∃ q, port = some q ∧ ¬ shut q) → ∃ u, exec (.msgDelivery core 0) s = .next u ∧
           (u.core core.toNat).msgs = rest ∧ u.tile = s.tile ∧ u.mem = s.mem) ∧
         ((∀ q, port = some q → shut q) → exec (.msgDelivery core 0) s = .next s))) ∧
     (∀ (core : BitVec 8) (dir : Nat) (slot : BitVec 2) (s : State) (l1 l2 : List ChanVec) (v : ChanVec),
       let c := chanKey (4 * core.toNat + slot.toNat) dir
       s.chan c = l1 ++ v :: l2 → (∀ w ∈ l1, w.arrived = true) → v.arrived = false →
       (v.at_ + 4 ≤ s.cycle → l1.length < 8 → exec (.linkVectorArrive core dir slot) s =
         .next (s.setChan c (l1 ++ { v with arrived := true } :: l2))) ∧
       (s.cycle < v.at_ + 4 ∨ 8 ≤ l1.length → exec (.linkVectorArrive core dir slot) s = .next (s.setChan c (s.chan c)))) ∧
     (∀ (pn : Nat) (s : State) (x : SpawnReq) (rest : List SpawnReq) (l : Launch) (k o : Nat) (ps : List (Nat × Nat)),
       (s.partOr pn).spawns = x :: rest → x.after = [] → s.launch? pn x.lid.toNat = some l →
       (∀ rank, x.peer = some rank →
         let port := portTo s { Role.reset with part := BitVec.ofNat 8 pn, lid := x.lid } rank x.core
         let shut (q : Nat) : Prop := (s.port q).up = false ∨ (s.port q).frozen = true ∨ noTag s pn q = true ∨
           ∃ b ∈ (s.partOr pn).record.budgets, (b.kind = 1 ∨ b.kind = 2 + q) ∧ b.size ≤ spentOf s (s.partOr pn) b
         ((∃ q, port = some q ∧ ¬ shut q) → ∃ u, exec (.spawnBind pn) s = .next u ∧ (u.partOr pn).spawns = rest ∧
           u.mem = s.mem ∧ u.tile = s.tile ∧ u.roles = s.roles) ∧
         ((∀ q, port = some q → shut q) → rest = [] → exec (.spawnBind pn) s = .next s)) ∧
       (x.peer = none → l.st = .bound → s.emergency = false → s.up = true →
       planCore s x.core pn (recPrio l.rec_) 1 (recTwin l.rec_) = .place ((k, o) :: ps) → s.kindAt k = 0 → pn < 256 → o < 2 ^ 32 →
       ∃ u, exec (.spawnBind pn) s = .next u ∧ (u.partOr pn).spawns = rest ∧
         ((u.role k).st = .running ∨ (u.role k).st = .stopped ∧ (u.role k).entryPend = x.handler) ∧
         (u.role k).x 1 = x.arg ∧ (u.role k).x 3 = x.sender ∧ (u.role k).lid = l.id ∧ (u.role k).part.toNat = pn ∧
         (u.role k).asid = l.asid ∧ (u.role k).twBase.toNat = o ∧ (u.role k).participant = false)) ∧
     (∀ (core : BitVec 8) (s : State) (pn : Nat) (l : Launch),
       (∀ (k o : Nat) (ps : List (Nat × Nat)), askOf s core.toNat = .bind pn l → s.emergency = false → s.up = true →
         planCore s core.toNat pn (recPrio l.rec_) 1 (recTwin l.rec_) = .place ((k, o) :: ps) → s.kindAt k = 0 → pn < 256 → o < 2 ^ 32 →
         ∃ u, exec (.bindRequest core) s = .next u ∧ (u.role k).st = .dormant ∧ (u.role k).lid = l.id ∧
           (u.role k).asid = l.asid ∧ (u.role k).hwStart = BitVec.ofNat 64 (recN l.rec_ 48 8) ∧ (u.role k).twBase.toNat = o ∧
           (u.core core.toNat).arrq = (s.core core.toNat).arrq) ∧
       (∀ (e : ArrEnt) (t : List ArrEnt), (s.core core.toNat).arrq = e :: t → s.cycle ≤ e.at_ → exec (.bindRequest core) s = .next s) ∧
       (∀ (e : ArrEnt) (t : List ArrEnt) (lid : Nat), (s.core core.toNat).arrq = e :: t → askOf s core.toNat = .drop pn lid →
         exec (.bindRequest core) s = .next ((s.setCore core.toNat
           { s.core core.toNat with arrq := t, areas := lremove (s.core core.toNat).areas e.area }).notice
             pn core.toNat 2 core.toNat lid))))

/-! ### Roles: binding, leaving, bundles -/

/-- R21, R46, R302: a bind record acts on a FREE slot, when its KIND changes: its role starts at its entries, or DORMANT with its
handler window, every register at its reset value but X1, and the units of its window that another address space occupied last
read as zero. Otherwise the record only stands in the slot table.
R46, R76, R212, R313, R344, R361, R395: a role whose clusters have halted and whose engines have drained raises its line and
goes DORMANT, keeping its registers and no loop, or FREE; FREE_SLOT and KILL free a slot: every register at its reset value, its channels
empty, its line raised by a kill, and the cells that run under its EID FAULTED with the reason. KILL is refused in FREE and
ignored while BUSY. R311, R361: WINFREE and WINREADY report for a slot that notice 8, or notice 9, has named that the kernel has saved, or
restored, its window; for another slot they are refused with ERR 1. That WINREADY ends what WINFREE and the notices said, so that the
space is asked for anew before it is handed out again, is the model's reading (log 32). -/
def Obligations.RolesBoundAndLeave : Prop :=
  (∀ (rs : Slot) (b : BindRec) (s : State),
       let bound (run : Bool) (u : State) : Prop :=
         let r := u.role rs.key
         r.part = b.part ∧ r.asid = b.asid ∧ r.lid = b.lid ∧ r.twBase = b.twBase ∧ r.twSize = b.twSize ∧ r.save = b.save ∧
         r.hwStart = b.hwStart ∧ r.hwLen = b.hwLen ∧ r.blk = (s.role rs.key).blk ∧ r.lastAct = s.cycle ∧
         (∀ n, r.x n = if run = true ∧ n = 1 then b.arg else 0) ∧ (∀ n, 1 ≤ n → r.p n = 0) ∧ (∀ n, r.v n = 0) ∧ r.qs = [] ∧ r.strms = [] ∧
         r.rings = [] ∧ r.flags = 0 ∧ r.flagen = 0 ∧ r.ffrec = 0 ∧ r.wdlimit = 0x00800000 ∧ r.cueerr = 0 ∧ r.cuewd = 10000 ∧
         r.eid = 0 ∧ r.mstat = 0 ∧ r.acc = [] ∧ r.copies = [] ∧ r.holds = [] ∧ r.nest = none ∧ r.stop = none ∧
         (∀ c : Cluster, (r.clu c).loops = [] ∧ (r.clu c).lrec = none) ∧
         (∀ a, (∃ i, i < (b.twSize.toNat + 65535) / 65536 ∧ a / 65536 = 64 * (rs.key / 4) + b.twBase.toNat / 65536 + i) →
           readByte u.tile a = if mget 0 s.owners (a / 65536) = b.asid.toNat + 1 then readByte s.tile a else 0) ∧
         (∀ a, (∀ i, i < (b.twSize.toNat + 65535) / 65536 → a / 65536 ≠ 64 * (rs.key / 4) + b.twBase.toNat / 65536 + i) →
           readByte u.tile a = readByte s.tile a) ∧
         u.mem = s.mem ∧ ∀ j, j ≠ rs.key → u.role j = s.role j
       ((s.role rs.key).st = .free →
         (s.kindAt rs.key ≠ 1 → ∃ u, exec (.bindRunning rs b) s = .next u ∧ bound true u ∧ (u.role rs.key).st = .running ∧
           ∀ c : Cluster, let e := [b.entL, b.entM, b.entV, b.entW].getD c.num 0
             ((u.role rs.key).clu c).pc = e ∧ ((u.role rs.key).clu c).halted = decide (e = 0)) ∧
         (s.kindAt rs.key ≠ 2 → ∃ u, exec (.bindDormant rs b) s = .next u ∧ bound false u ∧ (u.role rs.key).st = .dormant ∧
           ∀ c : Cluster, ((u.role rs.key).clu c).halted = true)) ∧
       ((s.role rs.key).st ≠ .free ∨ s.kindAt rs.key = 1 → exec (.bindRunning rs b) s =
         .next { s with slotTab := mput s.slotTab rs.key (1, b) }) ∧
       ((s.role rs.key).st ≠ .free ∨ s.kindAt rs.key = 2 → exec (.bindDormant rs b) s =
         .next { s with slotTab := mput s.slotTab rs.key (2, b) })) ∧
  ((∀ (rs : Slot) (s : State), (s.role rs.key).st = .running → (s.role rs.key).allHalted = true →
       let r := s.role rs.key
       let k := rs.key
       (drained s k = true → r.hwLen ≠ 0 → r.eid = 0 → s.wins = [] → exec (.retirement rs) s =
         .next (((raiseLine s k).freeAreaOf (k / 4) r.arrival).setRole k
           { r with st := .dormant, qs := [], arrival := none, eid := 0, stopReq := none,
                     cl := { r.cl with loops := [], lrec := none }, cm := { r.cm with loops := [], lrec := none },
                     cv := { r.cv with loops := [], lrec := none }, cw := { r.cw with loops := [], lrec := none } })) ∧
       (drained s k = true → r.hwLen = 0 → ∃ u, exec (.retirement rs) s = .next u ∧
         u.role k = { Role.reset with blk := r.blk, err := r.err }) ∧
       (r.anyFault = none → drained s k = false → exec (.retirement rs) s = .next s)) ∧
     (∀ (rs : Slot) (s : State), (s.role rs.key).st = .running → (s.role rs.key).allHalted = false →
       exec (.retirement rs) s = .next s) ∧
     (∀ (by_ : Master) (rs : Slot) (s : State),
       let r := s.role rs.key
       let k := rs.key
       (r.st ≠ .free → ∃ u, exec (.freeSlot rs) s = .next u ∧ u.role k = { Role.reset with blk := r.blk, err := r.err } ∧
         ∀ d < 4, u.chan (srcChan k d) = [] ∧ u.chan (sinkChan k d) = []) ∧
       (r.st = .free → exec (.freeSlot rs) s = .next s) ∧
       (awake s by_ = true → reachesSlot s by_ k = true →
         (r.busy = true → exec (.kill by_ rs) s = .next s) ∧
         (r.busy = false → r.st = .free → exec (.kill by_ rs) s = .next (s.setRole k { r with err := 1 })) ∧
         (r.busy = false → r.st ≠ .free → ∃ u, exec (.kill by_ rs) s = .next u ∧
           u.role k = { Role.reset with blk := r.blk, err := 0 } ∧ (∀ d < 4, u.chan (srcChan k d) = [] ∧ u.chan (sinkChan k d) = []) ∧
           (∀ l ∈ (u.partOr r.part.toNat).launches, l.id = r.lid → l.word = none → ∀ x ∈ l.lines, x.key = k → x.raised = true) ∧
           (r.eid ≠ 0 → r.copies = [] → r.holds = [] → s.wins = [] → (s.tags.map Prod.fst).Nodup →
             ∀ g, (g, (2 : BitVec 2)) ∈ s.tags → (s.cellWord (64 * g) 7).setWidth 32 = r.eid →
               u.tag (64 * g) = 3 ∧ u.cellWord (64 * g) 0 = BitVec.ofNat 64 (rs.core.toNat + rs.slot.toNat * 2 ^ 8 +
                 r.rank.toNat % 2 ^ 16 * 2 ^ 16 + 2 ^ 32))))) ∧
     (∀ (n pn : Nat) (rs : Slot) (s : State) (p : Part), (s.svcPart n) = some pn → (s.svc n).frozen = false →
       mfind s.parts pn = some p → p.record.cores.contains (rs.key / 4) = true → (s.role rs.key).st = .free →
       (s.role rs.key).busy = false →
       ((∃ l ∈ p.launches, l.word = none ∧ ∃ w ∈ l.swapped, w.key = rs.key ∧ w.notice8 = true ∧ w.winfree = false) →
         ∃ u, exec (.winfree (.svc n) rs) s = .next u ∧ (u.role rs.key).err = 0 ∧
           ∀ l ∈ (u.partOr pn).launches, l.word = none → ∀ w ∈ l.swapped, w.key = rs.key → w.notice8 = true → w.winfree = true) ∧
       ((∃ l ∈ p.launches, l.word = none ∧ ∃ w ∈ l.swapped, w.key = rs.key ∧ w.notice9 = true ∧ w.winready = false) →
         ∃ u, exec (.winready (.svc n) rs) s = .next u ∧ (u.role rs.key).err = 0 ∧
           (∀ l ∈ (u.partOr pn).launches, l.word = none → ∀ w ∈ l.swapped, w.key = rs.key → w.notice9 = true → w.winready = true) ∧
           ∀ l ∈ p.launches, l.word = none → ∀ w ∈ l.swapped, w.key = rs.key → w.notice9 = true → w.winready = false →
             ∃ m ∈ (u.partOr pn).launches, m.id = l.id ∧
               { w with winready := true, winfree := false, notice8 := false, notice9 := false } ∈ m.swapped) ∧
       ((∀ l ∈ p.launches, ∀ w ∈ l.swapped, w.key ≠ rs.key) →
         exec (.winfree (.svc n) rs) s = .next (s.setRole rs.key { s.role rs.key with err := 1 }) ∧
         exec (.winready (.svc n) rs) s = .next (s.setRole rs.key { s.role rs.key with err := 1 }))))

/-- R51 to R54: a bundle issues once every cluster of the role has arrived and is ready and its earlier accesses have been performed: any two
members that each write one register write them both, the later of L, M, V, W last, and both clusters go on, so where an L and a W
syllable write one X register, W's value remains. A bundle of which a member is not ready waits, and so does one whose role has an access to
perform; one whose role has an access that has faulted stops it. The watchdog stops a quiet role whose count has reached its limit.
R350, R351, R385: an exact trap stops its role with its code, its cluster and its information, at the trapping syllable; a
VIOLATION also freezes the role and is logged. The stop record, once what is in flight has settled, holds the header of R357
and R358 and an entry for each request that has not been performed, and writes nothing else; the report follows it to the
service core or the scheduler; a read of a stop queue pops its oldest entry. -/
def Obligations.BundlesWatchdogStops : Prop :=
  ((∀ (rs : Slot) (s s1 s2 : State) (hl hw : Hdr) (x : BitVec 5) (i j : BitVec 40),
       let r := s.role rs.key
       r.st = .running → r.acc = [] → r.copies = [] → r.cm.halted = true → r.cv.halted = true → r.cl.halted = false →
       r.cw.halted = false → hl.s = true → hw.s = true → hl.g = 0 → hl.gn = false → hw.g = 0 → hw.gn = false →
       r.cl.loops = [] → r.cw.loops = [] → r.cl.lrec = none → r.cw.lrec = none →
       head s rs.key .l = .instr s1 (.movk hl x i) → head s1 rs.key .w = .instr s2 (.movk hw x j) →
       ∃ u, exec (.bundleIssue rs) s = .next u ∧ (u.role rs.key).x x.toNat = j.signExtend 64 ∧
         (∀ n, n ≠ x.toNat → (u.role rs.key).x n = r.x n) ∧ (u.role rs.key).cl = { r.cl with pc := r.cl.pc + 8 } ∧
         (u.role rs.key).cw = { r.cw with pc := r.cw.pc + 8 } ∧ (u.role rs.key).cm = r.cm ∧ (u.role rs.key).cv = r.cv ∧
         (u.role rs.key).st = .running ∧ u.mem = s2.mem ∧ (∀ k, k ≠ rs.key → u.role k = s.role k)) ∧
     (∀ (rs : Slot) (s s1 : State) (c1 c2 : Cluster) (n1 n2 : Nat) (b1 b2 : Iss Flow) (w1 w2 : Role → Role),
       let r := s.role rs.key
       r.st = .running → r.acc = [] → r.copies = [] → r.nest = none → (∀ c, (r.clu c).loops = [] ∧ (r.clu c).lrec = none) →
       gatherBundle rs.key clusters s = some (s1, [(c1, n1, b1), (c2, n2, b2)]) →
       WritesOne (snapOf r) b1 w1 → WritesOne (snapOf r) b2 w2 →
       ∃ u, exec (.bundleIssue rs) s = .next u ∧ (u.role rs.key).xs = (w2 (w1 r)).xs ∧ (u.role rs.key).ps = (w2 (w1 r)).ps ∧
         (u.role rs.key).vs = (w2 (w1 r)).vs ∧ (u.role rs.key).qs = r.qs ∧ (u.role rs.key).st = .running ∧
         (u.role rs.key).clu c1 = { r.clu c1 with pc := (r.clu c1).pc + BitVec.ofNat 64 n1 } ∧
         (u.role rs.key).clu c2 = { r.clu c2 with pc := (r.clu c2).pc + BitVec.ofNat 64 n2 } ∧
         (∀ c, c ≠ c1 → c ≠ c2 → (u.role rs.key).clu c = r.clu c) ∧ u.mem = s1.mem ∧ u.tile = s.tile ∧
         ∀ k, k ≠ rs.key → u.role k = s.role k) ∧
     (∀ (rs : Slot) (s : State), (s.role rs.key).performed = false → (s.role rs.key).anyFault = none →
       exec (.bundleIssue rs) s = .next s) ∧
     (∀ (rs : Slot) (s s1 : State) (ms : List Member) (c : Cluster) (id : Nat), (s.role rs.key).st = .running →
       (s.role rs.key).anyFault = some (c, id) → gatherBundle rs.key clusters s = some (s1, ms) → ms ≠ [] →
       let ready := allReady rs.key ms (s1.setRole rs.key { s1.role rs.key with snap := some (snapOf (s1.role rs.key)) })
       (ready = true → exec (.bundleIssue rs) s = .next (deferredAt s rs.key (stopCluster (s.role rs.key) c ms) id)) ∧
       (ready = false → exec (.bundleIssue rs) s = .next s)) ∧
     (∀ (rs : Slot) (s : State),
       let r := s.role rs.key
       (∀ c : Cluster, ((r.clu c).halted = false ∧ ∀ d : Cluster, d.num < c.num → (r.clu d).halted = true) ∨
           (c = .l ∧ ∀ d : Cluster, (r.clu d).halted = true) →
         quiet s rs.key = true → r.wdlimit ≠ 0 → r.lastAct + r.wdlimit.toNat ≤ s.cycle → exec (.watchdog rs) s =
         .next (takeStop s rs.key 1 0x50 c (r.wdlimit.setWidth 64) 0 none)) ∧
       ((quiet s rs.key = false ∨ r.wdlimit = 0 ∨ s.cycle < r.lastAct + r.wdlimit.toNat) → exec (.watchdog rs) s = .next s))) ∧
  ((∀ (s : State) (code : Nat) (i0 i1 : Word),
       let info : StopInfo := { kind := 1, code := code, cl := s.cur.cl, i0 := i0, i1 := i1, acc := none, written := false,
                                posted := false, entries := [], at_ := s.cycle, later := [] }
       let r := { s.curRole with st := .stopped, stop := some info, lastcode := BitVec.ofNat 8 code, stopReq := none, snap := none,
                                 frozen := s.curRole.frozen || s.curRole.violated }
       (code ≠ 0x60 → takeTrap s code i0 i1 = s.setRole s.curKey r) ∧
       (code = 0x60 → ∃ l, takeTrap s code i0 i1 = { s.setRole s.curKey { r with frozen := true } with
         viols := l ++ [{ kind := 0, who := s.curKey, addr := i0 }] })) ∧
     (∀ (rs : Slot) (s : State) (i : StopInfo), (s.role rs.key).st = .stopped → (s.role rs.key).stop = some i → i.written = false →
       settled s rs.key = true → (s.role rs.key).copies = [] → (s.role rs.key).holds.length ≤ 16 → (s.role rs.key).nest = none →
       saveOk s (s.role rs.key).part.toNat (s.role rs.key).save = true →
       let r := s.role rs.key
       let b := saveBase r.save + 0x18000
       let header (u : State) (n : Nat) (i1 : Word) : Prop :=
         u.memWord b = BitVec.ofNat 64 (i.kind + i.code * 2 ^ 8 + i.cl.num * 2 ^ 16 + n * 2 ^ 23) ∧ u.memWord (b + 8) = i.i0 ∧
         u.memWord (b + 0x10) = i1 ∧ u.memWord (b + 0x18) = BitVec.ofNat 64 s.dtime ∧
         (∀ c : Cluster, u.memWord (b + 0x20 + 8 * c.num) = if (r.clu c).halted then ((r.clu c).pc &&& ~~~1) ||| 1 else (r.clu c).pc) ∧
         u.memWord (b + 0x40) = 0 ∧ (∀ c : Cluster, leNat (u.memRead (b + 0x50 + c.num) 1) = (r.clu c).loops.length % 256) ∧
         u.memWord (b + 0x58) = r.entryPend
       (r.acc = [] → i.acc = none → ∃ u, exec (.stopRecord rs) s = .next u ∧ header u 0 i.i1 ∧
         u.role rs.key = { r with stop := some { i with entries := [], written := true } } ∧
         (∀ a, (a < b ∨ b + 0x800 ≤ a) → readByte u.mem a = readByte s.mem a) ∧ ∀ j, j ≠ rs.key → u.role j = s.role j) ∧
       (∀ (a : Access) (j1 : Word) (n : Nat), r.acc = [a] → a.kind = .ld → a.wide = false → (∀ d ∈ a.dests, d.code < 256) →
          a.stat = .faulted i.code i.i0 j1 n →
         i.acc = some a.id → (i.code = 0x10 ∨ i.code = 0x11 ∨ i.code = 0x14) → i.i1 ≠ 0xFFFE → ∃ u, exec (.stopRecord rs) s = .next u ∧ header u 1 0 ∧
           u.role rs.key = { r with stop := some { i with entries := [(a.id, 0)], i1 := 0, written := true } } ∧
           u.memWord (b + 0x800) = a.addr ∧ u.memWord (b + 0x808) = a.pc ∧
           bits (u.memWord (b + 0x810)) 1 0 = a.cl.num ∧ bits (u.memWord (b + 0x810)) 5 2 = 0 ∧
           bits (u.memWord (b + 0x810)) 39 32 = i.code ∧
           (∀ x, (x < b ∨ b + 0x840 ≤ x) → readByte u.mem x = readByte s.mem x))) ∧
     (∀ (rs : Slot) (s : State) (i : StopInfo), (s.role rs.key).stop = some i → i.written = true → i.posted = false →
       let r := s.role rs.key
       let e : Word := BitVec.ofNat 64 (rs.core.toNat + rs.slot.toNat * 2 ^ 8 + 2 ^ 15 + i.code * 2 ^ 16 + i.kind * 2 ^ 24 + r.lid.toNat * 2 ^ 32)
       let t := s.setRole rs.key { r with stop := some { i with posted := true } }
       (i.kind = 2 ∨ i.kind = 3 → exec (.stopReportPost rs) s = .next { t with schedq := s.schedq ++ [e] }) ∧
       (∀ n, i.kind = 1 → s.reporter r.part.toNat (rs.key / 4) = some n → (s.svc n).waiting = [] → (s.svc n).queue.length < 256 →
         exec (.stopReportPost rs) s = .next (t.setSvc n { s.svc n with queue := (s.svc n).queue ++ [e] })) ∧
       (∀ n, i.kind = 1 → s.reporter r.part.toNat (rs.key / 4) = some n → 256 ≤ (s.svc n).queue.length →
         exec (.stopReportPost rs) s = .next (t.setSvc n { s.svc n with waiting := (s.svc n).waiting ++ [e] }))) ∧
     (∀ (n : Nat) (s : State), (s.svc n).frozen = false →
       ((s.svc n).queue = [] → exec (.stopQueueRead n) s = .next (s.setSvc n { s.svc n with lastRead := 0 })) ∧
       (∀ e t, (s.svc n).queue = e :: t → exec (.stopQueueRead n) s = .next (s.setSvc n
         { s.svc n with lastRead := e, queue := t ++ (s.svc n).waiting.take 1, waiting := (s.svc n).waiting.drop 1 }))))

/-! ### Stops and contexts -/

/-- R311, R361, R362, R364 to R366, R437: RESTART takes the PCs of the stop record as the kernel left it and the role runs on, its streams
back at their committed positions, or is stopped hard again while a condition of R437 holds; it is refused with ERR 1, 2, 4 or 5. SWITCHOUT writes the register image and the slot is FREE,
with nothing of what the role holds given back, and the stop record stays as the kernel left it where no fault of a copy came
after it; while copies of the role still run it is BUSY, when every other command is ignored and a SWITCHOUT goes on with the one that waits;
the scheduler core switches out only a stopped role that its launch's
pre-emption lets go (`mayLeave`; log 18); RESTORE binds the role of the image STOPPED, and of no address space but its partition's (R378;
log 35). A stop that the last bundle asked for besides the one recorded is made as the role runs again (R355; log 21). That a RESTART while
a condition of R437 holds is followed by a hard stop is the model's reading (log 32). -/
def Obligations.ContextCommands : Prop :=
  (∀ (by_ : Master) (rs : Slot) (s : State) (i : StopInfo), awake s by_ = true → reachesSlot s by_ rs.key = true →
    (s.role rs.key).busy = true →
    exec (.restart by_ rs) s = .next s ∧ exec (.restore by_ rs) s = .next s ∧
    ((s.role rs.key).st = .stopped → (s.role rs.key).stop = some i → i.written = true → (s.role rs.key).frozen = false →
      linksEmpty s rs.key = true → saveOk s (s.role rs.key).part.toNat (s.role rs.key).save = true →
      (copiesStill s rs.key = false → exec (.switchout by_ rs) s = .next s) ∧
      (copiesStill s rs.key = true → ∃ u, exec (.switchout by_ rs) s = .next u ∧
        u.role rs.key = { Role.reset with blk := (s.role rs.key).blk }))) ∧
  ∀ (by_ : Master) (rs : Slot) (s : State), awake s by_ = true → reachesSlot s by_ rs.key = true → (s.role rs.key).busy = false →
    let r := s.role rs.key
    let k := rs.key
    let b := saveBase r.save
    let bad (e : Nat) : State := s.setRole k { r with err := e }
    let leaves : Prop := mayLeave s by_ k = true
    (r.st ≠ .stopped → exec (.restart by_ rs) s = .next (bad 1) ∧ exec (.switchout by_ rs) s = .next (bad 1)) ∧
    (r.st = .stopped → ¬ leaves → exec (.switchout by_ rs) s = .next s) ∧
    (∀ i, r.st = .stopped → r.stop = some i → i.written = true →
      (r.frozen = true → exec (.restart by_ rs) s = .next (bad 2) ∧ (leaves → exec (.switchout by_ rs) s = .next (bad 2))) ∧
      (r.frozen = false → saveOk s r.part.toNat r.save = false → exec (.restart by_ rs) s = .next (bad 5)) ∧
      (r.frozen = false → saveOk s r.part.toNat r.save = true → memPoisoned s (b + 0x18000) 0x5800 = false →
        (recordFrom s k i = none → exec (.restart by_ rs) s = .next (bad 4)) ∧
        (recordFrom s k i ≠ none → r.acc = [] → r.copies = [] → i.entries = [] → r.nest = none → r.entryPend = 0 →
          (∀ c : Cluster, s.memWord (b + 0x18300 + 32 * c.num) = 0) → ∃ u, exec (.restart by_ rs) s = .next u ∧
            (s.emergency = false → i.later = [] → (u.role k).st = .running ∧ (u.role k).stop = none) ∧
            (s.emergency = true → i.later = [] → (u.role k).st = .stopped ∧ (u.role k).lastcode = 0x7F) ∧
            (∀ c kind code i0 i1 t, i.later = (c, kind, code, i0, i1) :: t → (u.role k).st = .stopped ∧
              ∃ j, (u.role k).stop = some j ∧ j.cl = c ∧ j.kind = kind ∧ j.code = code ∧ j.i0 = i0 ∧ j.i1 = i1 ∧ j.later = t ∧
                j.written = false) ∧ (u.role k).err = 0 ∧
            (u.role k).lastAct = s.cycle ∧ (u.role k).xs = r.xs ∧ (u.role k).ps = r.ps ∧ (u.role k).vs = r.vs ∧
            (∀ c : Cluster, ((u.role k).clu c).pc = s.memWord (b + 0x18020 + 8 * c.num) &&& ~~~1 ∧
              ((u.role k).clu c).halted = (s.memWord (b + 0x18020 + 8 * c.num)).getLsbD 0 ∧
              ((u.role k).clu c).loops.length = leNat (s.memRead (b + 0x18050 + c.num) 1)) ∧
            ∀ n t, mfind r.strms n = some t → mfind (u.role k).strms n = some { t with sp := t.c })) ∧
      (leaves → r.frozen = false → linksEmpty s k = false → exec (.switchout by_ rs) s = .next (bad 3)) ∧
      (leaves → r.frozen = false → linksEmpty s k = true → saveOk s r.part.toNat r.save = true → copiesStill s k = false →
        exec (.switchout by_ rs) s = .next (s.setRole k { r with busy := true })) ∧
      (leaves → r.frozen = false → linksEmpty s k = true → saveOk s r.part.toNat r.save = true → copiesStill s k = true →
        ∃ u, exec (.switchout by_ rs) s = .next u ∧ u.role k = { Role.reset with blk := r.blk } ∧
          (∀ n, n < 32 → u.memWord (b + 0x16400 + 8 * n) = r.x n) ∧ u.memWord (b + 0x16608) = r.flags.setWidth 64 ∧
          u.tile = s.tile ∧ u.tags = s.tags ∧
          (∀ j, j ≠ k → u.role j = s.role j) ∧
          (r.copies = [] → r.replays = i.entries → (recW s (b + 0x18000) 0).toNat / 2 ^ 23 % 2 ^ 9 = i.entries.length →
            ∀ a, b + 0x18000 ≤ a → a < b + 0x1D800 → readByte u.mem a = readByte s.mem a) ∧
          ∀ a, (a < b ∨ b + 0x1D800 ≤ a) → (∀ l w, s.launch? r.part.toNat r.lid.toNat = some l → w ∈ l.swapped → w.key / 4 = k / 4 →
              (a < saveBase w.save + 0x17680 ∨ saveBase w.save + 0x176C0 ≤ a)) →
            readByte u.mem a = readByte s.mem a)) ∧
    let own : Prop := (s.asid r.blk.asid.toNat).valid = true ∧ (s.asid r.blk.asid.toNat).part = r.blk.part
    (∀ m, by_ = .svc m → s.svcPart m = some r.blk.part.toNat → ¬ own → ∃ u, exec (.restore by_ rs) s = .next u ∧ (u.svc m).frozen = true ∧
      u = { s with svcs := u.svcs, viols := u.viols }) ∧
    (∀ m, by_ = .sched ∨ (by_ = .svc m ∧ s.svcPart m = some r.blk.part.toNat ∧ own) →
      (r.st ≠ .free → exec (.restore by_ rs) s = .next (bad 1)) ∧
      (r.st = .free → ¬ own → exec (.restore by_ rs) s = .next (bad 4)) ∧
      (r.st = .free → own → saveOk s r.blk.part.toNat r.blk.save = false → exec (.restore by_ rs) s = .next (bad 5)) ∧
      (r.st = .free → own → saveOk s r.blk.part.toNat r.blk.save = true → memPoisoned s (saveBase r.blk.save) 0x1D800 = false →
        ∃ u, exec (.restore by_ rs) s = .next u ∧ (u.role k).st = .stopped ∧ (u.role k).part = r.blk.part ∧
          (u.role k).asid = r.blk.asid ∧ (u.role k).lid = r.blk.lid ∧ (u.role k).twBase = r.blk.twBase ∧
          (u.role k).twSize = r.blk.twSize ∧ (u.role k).save = r.blk.save ∧ u.mem = s.mem ∧
          (∀ n, n < 32 → (u.role k).x n = s.memWord (saveBase r.blk.save + 0x16400 + 8 * n)) ∧
          (u.role k).flags = (s.memWord (saveBase r.blk.save + 0x16608)).setWidth 6))

/-- R364 to R366, R6: a role that SWITCHOUT saves and RESTORE brings back into its slot, its control block as the kernel set it from
the role, has the X, P and V registers, the flags, the enables and the EID that it had, and the defined bits of its first-fault
record. -/
def Obligations.SwitchoutRestoreKeepsRegisters : Prop :=
  ∀ (rs : Slot) (s : State) (i : StopInfo),
    let r := s.role rs.key
    let b := saveBase r.save
    r.st = .stopped → r.stop = some i → i.written = true → r.frozen = false → r.busy = false → copiesStill s rs.key = true →
    mayLeave s .sched rs.key = true → linksEmpty s rs.key = true → saveOk s r.part.toNat r.save = true → memPoisoned s b 0x1D800 = false →
    (s.asid r.asid.toNat).valid = true → (s.asid r.asid.toNat).part = r.part →
    r.blk = { save := r.save, twBase := r.twBase, twSize := r.twSize, asid := r.asid, part := r.part, lid := r.lid } →
    ∃ u v, exec (.switchout .sched rs) s = .next u ∧ exec (.restore .sched rs) u = .next v ∧
      (u.role rs.key).st = .free ∧ (v.role rs.key).st = .stopped ∧
      (∀ n, n < 32 → (v.role rs.key).x n = r.x n) ∧ (∀ n, n < 128 → (v.role rs.key).p n = r.p n) ∧
      (∀ n, n < 128 → (v.role rs.key).v n = r.v n) ∧ (v.role rs.key).flags = r.flags ∧ (v.role rs.key).flagen = r.flagen ∧
      (v.role rs.key).ffrec = r.ffrec &&& 0xFFFFFF03FF ∧ (v.role rs.key).eid = r.eid

/-! ### Launches -/

/-- The rules' own, but for what logs 21 (which cluster a clean or hard stop names; YIELD and HALT at the head), 32 (windows, whom the
scheduler favours), 33 (how stopped roles come back), 34 (completion words that cannot be written) and 47 (that a quantum due begins
again where what waits meets no condition of R307) deduce or choose.
R294, R295, R302 to R304, R314, R317, R318: a LAUNCH that is served queues a copy of its record under the next id and answers
the id, or answers 2^63 and the lowest refusal code; the next launch of a partition is bound as a gang when each of its cores has
room: each role RUNNING at the record's entries, with ARGS in X1, or DORMANT for a STANDING one; and a TDECL larger than TWIN
ends it with STATUS 3.
R307 to R310, R312: at the end of a quantum the RUNNING roles of a launch that contends with a waiting one are asked to stop;
without contention its quantum begins again; a launch being stopped is pre-empted once no role of it is RUNNING or STOPPED in its
slot. A role asked to stop, all of whose clusters stand at pre-emptible points and whose nest record has retired, stops clean;
after 100 µs it is stopped hard, with code 0x7F, at once while a condition of R437 holds. A yield is taken as the end of the quantum, where a launch that has waited since
then contends for the role's core or a condition of R437 holds, or the role resumes.
R310, R311, R313 to R315: a pre-empted launch whose places are free is bound again, its roles back in their slots; where roles of other
launches have left bytes in its window space, notice 8 asks for these first; one whose
window space was handed out waits for notice 9 and WINREADY. A launch completes when its lines are raised and no role of it
runs: its DORMANT roles are freed and its completion word is written with STATUS 0, in memory too; a kill frees its roles and
writes STATUS 2. -/
def Obligations.LaunchesRun : Prop :=
  ((∀ (rs : Slot) (id d : Nat) (a : Access) (s s0 : State) (x : Xlat) (sub : Nat), (s.role rs.key).acc? id = some a →
       performable s (s.role rs.key) a = true → meetsStuck s (s.role rs.key) a.cl a.id a.ranges = false → inject s rs.key a = some s0 → a.kind = .lch sub →
       a.dests = [.x d] → translateA s0 (rs.key / 4) a.afresh (s.role rs.key).asid.toNat (tagNow s0 (s.role rs.key).asid.toNat a.gen) a.addr .rd = .ok x → x.attr = 0 → paRegion x.pa ≤ 1 → memPoisoned x.st x.pa 256 = false →
       let r := s0.role rs.key
       let pn := r.part.toNat
       let p := s0.partOr pn
       let bs := x.st.memRead x.pa 256
       let answer (t : State) (v : Word) : Prop := exec (.accessServed rs (.acc id)) s =
         .next (t.setRole rs.key { r.setAcc { a with stat := .replied [(.x d, widen v)] } with lastAct := s.cycle })
       (∀ c, refusal p bs a.v = some c → answer x.st (BitVec.ofNat 64 (2 ^ 63 + c))) ∧
       (∀ f n, refusal p bs a.v = none → allocWord p.record a.v = some (f, n) →
         let new : BitVec 32 := if p.lastId + 1 = 0 then 1 else p.lastId + 1
         let l : Launch := { id := new, ordinal := p.accepted + 1, rec_ := bs, recAddr := a.addr, asid := r.asid, first := f,
                             count := n, rank := 0, groups := 1, masks := [], st := .queued, lines := [], swapped := [],
                             qstart := 0, since := s.cycle, word := none }
         answer (x.st.setPart pn { p with launches := p.launches ++ [l], lastId := new, accepted := p.accepted + 1 }) (new.setWidth 64))) ∧
     (∀ (p : Part) (bs : List Byte) (b : Word),
       (recN bs 0 2 ≠ 1 → refusal p bs b = some 1) ∧
       (refusal p bs b = none → recN bs 0 2 = 1 ∧ 1 ≤ recN bs 4 1 ∧ recN bs 4 1 ≤ 4 ∧ recN bs 5 1 ≤ 6 ∧ recN bs 8 4 % 65536 = 0 ∧
         65536 ≤ recN bs 8 4 ∧ recN bs 4 1 * recN bs 8 4 ≤ 4 * 2 ^ 20 - 65536 ∧
         (recN bs 12 4 = 0 ∨ 100 ≤ recN bs 12 4 ∧ recN bs 12 4 ≤ 1000000) ∧ recN bs 168 8 % 8 = 0 ∧
         (∀ i < 4, recN bs (16 + 8 * i) 8 % 8 = 0) ∧ recN bs 48 8 % 32 = 0 ∧
         b.toNat / 2 ^ 17 = 0 ∧ 1 ≤ b.toNat / 2 ^ 8 ∧ b.toNat % 2 ^ 8 + b.toNat / 2 ^ 8 ≤ 256 ∧
         (∀ i, i < b.toNat / 2 ^ 8 → b.toNat % 2 ^ 8 + i ∈ p.record.cores) ∧
         p.launches.countP (fun l => l.st == .queued || l.st == .preempted) < 256)) ∧
     (∀ (pn : Nat) (s : State) (l : Launch), (s.partOr pn).next? = some l → l.st = .queued → l.word = none → mayBind s pn l = true →
       l ∈ (s.partOr pn).launches →
       (recN l.rec_ 8 4 < recN l.rec_ 6 2 * 65536 → ∃ u, exec (.launchBind pn) s = .next u ∧
         ∃ m ∈ (u.partOr pn).launches, m.id = l.id ∧ m.st = .done ∧ m.word = some (BitVec.ofNat 64 (l.id.toNat * 2 ^ 32 + 3 * 2 ^ 4 + 1))) ∧
       (∀ pl : Nat → List (Nat × Nat), recN l.rec_ 6 2 * 65536 ≤ recN l.rec_ 8 4 → recN l.rec_ 144 8 = 0 → pn < 256 →
         (∀ i < l.count, (∀ q ∈ pl i, s.kindAt q.1 = 0) ∧ bindWaits s pn (l.first + i) = false ∧
           planCore s (l.first + i) pn (recPrio l.rec_) (recRoles l.rec_) (recTwin l.rec_) = .place (pl i)) →
         ∃ u, exec (.launchBind pn) s = .next u ∧
           (∃ m ∈ (u.partOr pn).launches, m.id = l.id ∧ m.st = .bound ∧ m.qstart = s.cycle) ∧
           ∀ i < l.count, ∀ q ∈ pl i, (s.role q.1).st = .free ∧ (u.role q.1).lid = l.id ∧ (u.role q.1).asid = l.asid ∧
             (u.role q.1).part.toNat = pn ∧
             (recN l.rec_ 2 2 / 2 % 2 = 0 → (u.role q.1).st = .running ∧ (u.role q.1).x 1 = BitVec.ofNat 64 (recN l.rec_ 152 8) ∧
               ∀ c : Cluster, ((u.role q.1).clu c).pc = BitVec.ofNat 64 (recN l.rec_ (16 + 8 * c.num) 8)) ∧
             (recN l.rec_ 2 2 / 2 % 2 = 1 → (u.role q.1).st = .dormant)))) ∧
  ((∀ (q : LKey) (s : State) (l : Launch), s.launch? q.part q.lid = some l → l.st = .bound →
       let due := l.qstart + (if recN l.rec_ 12 4 = 0 then 1000 else recN l.rec_ 12 4) * 1250
       (s.cycle < due → exec (.quantumExpiry q) s = .next s) ∧
       (due ≤ s.cycle → contended s q.part l s.cycle = true →
         ∃ u, exec (.quantumExpiry q) s = .next u ∧
           (∃ m ∈ (u.partOr q.part).launches, m.id = l.id ∧ m.st = .stopping) ∧
           (∀ k, (s.role k).st = .running → (s.role k).part.toNat = q.part → (s.role k).lid.toNat = q.lid →
             (s.role k).stopReq = none → u.role k = { s.role k with stopReq := some s.cycle }) ∧
           (∀ k, ((s.role k).st ≠ .running ∨ (s.role k).part.toNat ≠ q.part ∨ (s.role k).lid.toNat ≠ q.lid) → u.role k = s.role k)) ∧
       (due ≤ s.cycle → contended s q.part l s.cycle = false → ∃ u, exec (.quantumExpiry q) s = .next u ∧ u.roles = s.roles ∧
         ∃ m ∈ (u.partOr q.part).launches, m.id = l.id ∧ m.st = .bound ∧ m.qstart = s.cycle)) ∧
     (∀ (q : LKey) (s : State) (l : Launch), s.launch? q.part q.lid = some l → l.st = .stopping → ∃ u, exec (.quantumExpiry q) s = .next u ∧
       (∀ k, (s.role k).st = .running → (s.role k).part.toNat = q.part → (s.role k).lid.toNat = q.lid →
         u.role k = { s.role k with stopReq := some ((s.role k).stopReq.getD s.cycle) }) ∧
       ∃ m ∈ (u.partOr q.part).launches, m.id = l.id ∧ m.st = if launchActive s q.part q.lid = true then .stopping
         else if l.swapped = [] then .bound else .preempted) ∧
     (∀ (rs : Slot) (s : State) (t : Nat), (s.role rs.key).st = .running → (s.role rs.key).stopReq = some t → retires s rs.key = false →
       let still (c : Cluster) : Prop :=
         let x := (s.role rs.key).clu c
         x.halted = true ∨ (∃ l, x.lrec = some l ∧ l.boundary = true) ∨
         (∃ st h, head s rs.key c = .instr st (.yield h)) ∨ ∃ st h, head s rs.key c = .instr st (.halt h)
       let gone (c : Cluster) : Prop := ((s.role rs.key).clu c).halted = true
       let front (c : Cluster) : Prop := (¬ gone c ∧ ∀ d : Cluster, d.num < c.num → gone d) ∨ (c = .l ∧ ∀ d, gone d)
       (∀ c, front c → (∀ c, still c) → (s.role rs.key).nest = none → exec (.cleanStop rs) s = .next (takeStop s rs.key 2 0 c 0 0 none)) ∧
       ((∃ c, ¬ still c) ∨ (s.role rs.key).nest ≠ none → exec (.cleanStop rs) s = .next s) ∧
       (∀ c, front c → s.emergency = false → t + 125000 ≤ s.cycle → exec (.hardStop rs) s = .next (takeStop s rs.key 4 0x7F c 0 0 none)) ∧
       (s.emergency = false → s.cycle < t + 125000 → exec (.hardStop rs) s = .next s) ∧
       (∀ c, front c → s.emergency = true →
         ∃ u, exec (.hardStop rs) s = .next u ∧ u = { takeStop s rs.key 4 0x7F c 0 0 none with parts := u.parts })) ∧
     (∀ (rs : Slot) (s : State) (i : StopInfo) (e : Word) (l : Launch), s.schedq = [e] → bits e 7 0 = rs.core.toNat →
       bits e 9 8 = rs.slot.toNat → bits e 27 24 = 3 → (s.role rs.key).st = .stopped → (s.role rs.key).stop = some i → i.kind = 3 →
       s.launch? (s.role rs.key).part.toNat (s.role rs.key).lid.toNat = some l → l.st ≠ .stopping →
       let t := { s with schedq := [] }
       (s.emergency = false → contendedOn t (s.role rs.key).part.toNat l (· = rs.key / 4) i.at_ = false → exec (.yieldReport rs) s = .next (restartRole t rs.key)) ∧
       (s.emergency = true ∨ contendedOn t (s.role rs.key).part.toNat l (· = rs.key / 4) i.at_ = true → ∃ u, exec (.yieldReport rs) s = .next u ∧
         u.schedq = [] ∧ u.role rs.key = s.role rs.key ∧
         ∃ m ∈ (u.partOr (s.role rs.key).part.toNat).launches, m.id = l.id ∧ m.st = .stopping))) ∧
  (∀ (q : LKey) (s : State) (l : Launch), s.launch? q.part q.lid = some l →
       let word (st : Nat) : Word := BitVec.ofNat 64 (q.lid * 2 ^ 32 + st * 2 ^ 4 + 1)
       let ended (u : State) (st : Nat) : Prop :=
         (∃ m ∈ (u.partOr q.part).launches, m.id = l.id ∧ m.st = .done ∧ m.word = some (word st) ∧ m.swapped = []) ∧
         (∀ m ∈ (u.partOr q.part).launches, m.id.toNat = q.lid → m.word ≠ none) ∧
         ∀ k, (s.role k).part.toNat = q.part → (s.role k).lid.toNat = q.lid → (u.role k).st = .free
       (∀ w : Swapped, l.st = .preempted → mayBind s q.part l = true → arrivalFirst s q.part l = false → l.swapped = [w] →
         placeFree s q.part l w = true → (overKept s q.part l w).all (·.saved) = true → q.part < 256 →
         (w.winfree = false ∨ w.notice9 = true ∧ w.winready = true) → saveOk s q.part w.save = true →
         memPoisoned s (saveBase w.save) 0x1D800 = false → (s.asid w.asid.toNat).valid = true → (s.asid w.asid.toNat).part.toNat = q.part →
         ∃ u, exec (.preemptedRebind q) s = .next u ∧
           (∃ m ∈ (u.partOr q.part).launches, m.id = l.id ∧ m.st = .bound ∧ m.qstart = s.cycle) ∧
           ((u.role w.key).st = .running ∨ (u.role w.key).st = .stopped) ∧ (u.role w.key).lid = l.id ∧
           (u.role w.key).asid = w.asid ∧ (u.role w.key).twBase = w.twBase ∧ (u.role w.key).twSize = w.twSize) ∧
       (∀ w : Swapped, l.st = .preempted → mayBind s q.part l = true → arrivalFirst s q.part l = false → l.swapped = [w] →
         placeFree s q.part l w = true →
         (∀ x ∈ overKept s q.part l w, x.saved = false → exec (.preemptedRebind q) s =
           .next (askFor s ((overKept s q.part l w).filter (fun x => !x.saved)))) ∧
         ((overKept s q.part l w).all (·.saved) = true → w.winfree = true →
           (w.notice9 = false → ∃ u, exec (.preemptedRebind q) s = .next u ∧ u.roles = s.roles ∧
             ∃ m ∈ (u.partOr q.part).launches, m.id = l.id ∧ m.st = .preempted ∧
               m.swapped = [{ w with notice9 := true, winready := false }]) ∧
           (w.notice9 = true → w.winready = false → exec (.preemptedRebind q) s = .next s))) ∧
       (completes s q.part l = true → recN l.rec_ 2 2 / 64 % 2 = 0 →
         (∃ u, exec (.launchComplete q) s = .next u ∧ ended u 0) ∧
         (∀ x : Xlat, s.contribs = [] → (∀ kr ∈ s.roles, kr.2.st = .free ∨ kr.2.part.toNat ≠ q.part ∨ kr.2.lid.toNat ≠ q.lid) →
           canonical (BitVec.ofNat 64 (recN l.rec_ 168 8)) = true →
           translate s 256 l.asid.toNat (BitVec.ofNat 64 (recN l.rec_ 168 8)) .wr = .ok x →
           dieMay (dieRole q.part l) x = true → writeFault s x = false → linkUp s (dieRole q.part l) x.pa = true →
           ∃ u, exec (.launchComplete q) s = .next u ∧ u.mem = writeBytes x.st.mem x.pa (natLe 8 (word 0).toNat))) ∧
       (completes s q.part l = false → exec (.launchComplete q) s = .next s) ∧
       (∃ u, exec (.launchKill q) s = .next u ∧ ended u 2 ∧ ∀ y ∈ (u.partOr q.part).spawns, y.lid.toNat ≠ q.lid))

/-! ### The control die -/

/-- The rules' own, but for what logs 11 (which tags and cached entries the completion of a bump ends), 35 (which control blocks a service
core reaches), 37 (a core's tile store at a change of place, kernels that run), 39 (what memory given up reads) and 43 (image entries,
`lastRead`, which accesses fault) deduce or choose.
R361, R375, R376, R384, R385, R393, R243: a service core writes the registers of its own partition and no others: another write
is not performed, is logged and freezes the service core. A bump advances GEN and takes the root written last, and is ignored
while BUSY; its completion ends BUSY; the tag window stores RUNNING as CUE; the overflow register keeps its defined bits; a write of RCMD gives its
command, and the other registers are written at their addresses.
R7, R361, R375, R384, R429: a service core's load of a register gets its current value, RCMD and BUMP read as zero, and a load or a
store of memory reaches its partition's windows only; a load, an atomic or a fetch of a poisoned byte, and any access to a reserved region,
takes the access fault.
R18, R378 to R381, R385, R432, R434: the root monitor's steps. A place table changes only where the unit's new place is free and
nothing of it is in use; a physical unit's third error in 24 hours wears it out, and a worn one is replaced by a spare; a partition
takes its record, and what the record gives it, only where no other partition holds it, and goes only without roles, and in
recovery there is none; what memory it gives up reads 0; an image whose signature fails is refused, and a service core
starts in HS-mode at the entry of its image, with the partition's number in a0; a kernel that runs is replaced by
KERNEL_IMAGE_SWITCH alone, core by core (R441); a frozen service core runs again. R440: a repair map's or an image's version below
the highest accepted is refused, and an accepted one becomes the highest. -/
def Obligations.ControlPlaneSteps : Prop :=
  (∀ (n pn : Nat) (s : State), s.svcPart n = some pn → (s.svc n).frozen = false →
       let by_ : Master := .svc n
       let refused (addr : Nat) (i : Instr) : Prop := ∃ u, exec i s = .next u ∧ (u.svc n).frozen = true ∧
         u.viols.getLast? = some { kind := 1, who := n, addr := BitVec.ofNat 64 addr } ∧ u = { s with svcs := u.svcs, viols := u.viols }
       (∀ a, (s.asid a).valid = true → (s.asid a).part.toNat = pn →
         ((s.asid a).busy = false → exec (.bump by_ a) s = .next { s with asids := mput s.asids a { (s.asid a) with
           gen := (s.asid a).gen + 1, busy := true, root := (s.asid a).rootNext.getD (s.asid a).root, rootNext := none,
           rootOld := (s.asid a).root } }) ∧
         ((s.asid a).busy = true → exec (.bump by_ a) s = .next s ∧
           (tagRemains s a ((s.asid a).gen - 2) = true → exec (.bumpComplete a) s = .next s) ∧
           (tagRemains s a ((s.asid a).gen - 2) = false → ∃ u, exec (.bumpComplete a) s = .next u ∧
             u = { s with asids := mput s.asids a { (s.asid a) with busy := false }, tlb := u.tlb, tags := u.tags } ∧
             (∀ e ∈ u.tlb, e ∈ s.tlb ∧ (e.asid = a → e.gen = (s.asid a).gen)) ∧
             ∀ pa, u.tag pa = if mappedAs s 2 (64 * (pa / 64)) = true then s.tag pa else 0)) ∧
         (∀ v, a < 2 ^ 16 → exec (.registerWrite by_ (0xF0200000 + 32 * a) v) s =
           .next { s with asids := mput s.asids a { (s.asid a) with rootNext := some v } })) ∧
       (∀ a, (s.asid a).valid = false ∨ (s.asid a).part.toNat ≠ pn → refused (0xF0200000 + 32 * a + 16) (.bump by_ a)) ∧
       (∀ pa, exec (.tagWindowSelect by_ pa) s = .next { s with tagWin := BitVec.ofNat 64 pa }) ∧
       (∀ (off : Nat) (v : Byte), off < 256 → tagPage s % 65536 = 0 → paRegion (tagPage s) ≤ 1 →
         inWindows s (s.partOr pn).record (tagPage s) = true → ∃ u, exec (.tagWindowWrite by_ off v) s = .next u ∧
           u = { s with tags := u.tags } ∧
           (∀ i < 4, u.tag (tagPage s + 64 * (4 * off + i)) =
             if v.toNat / 4 ^ i % 4 = 2 then 1 else BitVec.ofNat 2 (v.toNat / 4 ^ i % 4)) ∧
           (∀ a, (∀ i < 4, a / 64 ≠ tagPage s / 64 + 4 * off + i) → u.tag a = s.tag a)) ∧
       (∀ v : Word, let w := v &&& 0x00FFFFFFFC000001
         let base := w.toNat / 2 ^ 26 * 2 ^ 26
         (w.getLsbD 0 = false ∨ paRegion base = 0 ∧ paNorm base = base ∧ inWindows s (s.partOr pn).record base = true →
           exec (.overflowRegisterWrite by_ pn v) s = .next (s.setPart pn { s.partOr pn with overflow := w })) ∧
         (w.getLsbD 0 = true ∧ paRegion base = 0 ∧ inWindows s (s.partOr pn).record base = false →
           exec (.overflowRegisterWrite by_ pn v) s = .next s) ∧
         ∀ m, m ≠ pn → refused (0xF0090000 + 8 * m) (.overflowRegisterWrite by_ m v)) ∧
       (∀ (rs : Slot) (v : Word), let at_ := 0xF0000000 + 64 * rs.key
         (v.toNat % 16 = 1 → exec (.registerWrite by_ at_ v) s = exec (.restart by_ rs) s) ∧
         (v.toNat % 16 = 2 → exec (.registerWrite by_ at_ v) s = exec (.switchout by_ rs) s) ∧
         (v.toNat % 16 = 3 → exec (.registerWrite by_ at_ v) s = exec (.restore by_ rs) s) ∧
         (v.toNat % 16 = 4 → exec (.registerWrite by_ at_ v) s = exec (.kill by_ rs) s) ∧
         (v.toNat % 16 = 5 → exec (.registerWrite by_ at_ v) s = exec (.winfree by_ rs) s) ∧
         (v.toNat % 16 = 6 → exec (.registerWrite by_ at_ v) s = exec (.winready by_ rs) s) ∧
         (7 ≤ v.toNat % 16 ∨ v.toNat % 16 = 0 →
           (reachesSlot s by_ rs.key = true → exec (.registerWrite by_ at_ v) s = .next s) ∧
           (reachesSlot s by_ rs.key = false → refused at_ (.registerWrite by_ at_ v))) ∧
         (reachesSlot s by_ rs.key = true → exec (.registerWrite by_ (at_ + 16) v) s = .next (s.setRole rs.key
           { s.role rs.key with blk := { (s.role rs.key).blk with save := v } })) ∧
         (reachesSlot s by_ rs.key = false → refused (at_ + 16) (.registerWrite by_ (at_ + 16) v))) ∧
       (∀ (rest : List Turn) (a : Nat) (rs : Slot), s.sched = { dt := 0, what := .die by_ (.load a 8) } :: rest → a < 2 ^ 32 → a % 8 = 0 →
         a ≠ 0xF0010000 →
         let u := { s with sched := rest }
         let r := s.role rs.key
         (readBarred s by_ a = false → step s = .next (u.setSvc n { s.svc n with lastRead := BitVec.ofNat 64 (regValue s a) })) ∧
         (readBarred s by_ a = true → step s = .next (violate u by_ (BitVec.ofNat 64 a))) ∧
         regValue s (0xF0000000 + 64 * rs.key) = 0 ∧
         regValue s (0xF0000008 + 64 * rs.key) = (match r.st with | .free => 0 | .dormant => 1 | .running => 2 | .stopped => 3) +
           (if r.frozen then 4 else 0) + (if r.busy then 8 else 0) + r.err % 2 ^ 8 * 2 ^ 8 ∧
         regValue s (0xF0000010 + 64 * rs.key) = r.blk.save.toNat ∧
         regValue s 0xF0030008 = (if tagBusy s then 1 else 0) ∧
         ∀ m, m < 2 ^ 16 → regValue s (0xF0200000 + 32 * m) = ((s.asid m).rootNext.getD (s.asid m).root).toNat ∧
           regValue s (0xF0200008 + 32 * m) = (s.asid m).gen.toNat ∧ regValue s (0xF0200010 + 32 * m) = 0) ∧
       (∀ (rest : List Turn) (pa k cause : Nat) (bs : List Byte) (op : DieOp), k ≤ 8 → bs.length = k →
         (op = .load pa k ∧ cause = 5 ∨ op = .store pa bs ∧ cause = 7 ∨ op = .amo pa bs ∧ cause = 7 ∨ op = .fetch pa k ∧ cause = 1) →
         s.sched = { dt := 0, what := .die by_ op } :: rest →
         let u := { s with sched := rest }
         let at_ := diePa pa
         let inside : Prop := noRegion pa = false ∧ rangeIn s (s.partOr pn).record at_ k = true
         let faults : Prop := step s = .next (u.setSvc n
           { s.svc n with cause := cause, tval := BitVec.ofNat 64 pa, epc := (s.svc n).pc, pc := (s.svc n).tvec,
                          mode := if (s.svc n).deleg then .hs else .machine })
         (pa < 2 ^ 32 → cause ≠ 5 → op ≠ .store pa bs → readBarred s by_ (pa / 8 * 8) = true →
           step s = .next (violate u by_ (BitVec.ofNat 64 pa))) ∧
         (2 ^ 32 ≤ pa →
           (noRegion pa = true → faults) ∧
           (noRegion pa = false → rangeIn s (s.partOr pn).record at_ k = false → step s = .next (violate u by_ (BitVec.ofNat 64 pa))) ∧
           (inside → memPoisoned s at_ k = true → op ≠ .store pa bs → faults) ∧
           (inside → liveIn s at_ k = false → op = .store pa bs → step s = .next (u.memWrite at_ bs)) ∧
           (inside → memPoisoned s at_ k = false → op = .fetch pa k → step s = .next u) ∧
           (inside → memPoisoned s at_ k = false → op = .load pa k → step s = .next (u.setSvc n
             { s.svc n with lastRead := BitVec.ofNat 64 (leNat (s.memRead at_ k)) }))))) ∧
  ((∀ (k : UnitKind) (l p ver : Nat) (s : State),
       (l < unitCount k → placeFreeFor s k l p = true → placeQuiet s k l = true →
         ∃ u, exec (.placeTableChange k l p) s = .next u ∧ placeAt u k l = p ∧ u = { s with place := u.place } ∧
           ∀ m, m ≠ l → m < 2 ^ 16 → l < 2 ^ 16 → placeAt u k m = placeAt s k m) ∧
       ((unitCount k ≤ l ∨ placeFreeFor s k l p = false ∨ placeQuiet s k l = false) → exec (.placeTableChange k l p) s = .next s) ∧
       ((unitCode k, placeAt s k l) ∉ s.worn ∨ ver < mget 0 s.versions 3 → exec (.spareReplace k ⟨l, ver⟩) s = .next s) ∧
       (l < unitCount k → mget 0 s.versions 3 ≤ ver → (unitCode k, placeAt s k l) ∈ s.worn → placeQuiet s k l = true → p ∈ placesOf k l → placeFreeFor s k l p = true →
         placeAt s k l ≠ p → (unitCode k, p) ∉ s.replaced → ∃ u p', exec (.spareReplace k ⟨l, ver⟩) s = .next u ∧ mget 0 u.versions 3 = ver ∧ mget 0 u.flashVer 3 = ver ∧ placeAt u k l = p' ∧
           p' ∈ placesOf k l ∧ p' ≠ placeAt s k l ∧ (unitCode k, p') ∉ s.replaced ∧ recentErrors u (unitCode k) (placeAt s k l) = 0 ∧
           (unitCode k, placeAt s k l) ∉ u.worn ∧ u.flash = u.place ∧
           u.replaced = s.replaced ++ [(unitCode k, placeAt s k l)] ∧ u.mem = s.mem) ∧
       (let e := countError s k l
        e.errors = s.errors ++ [(unitCode k, placeAt s k l, s.cycle)] ∧ e = { s with errors := e.errors, worn := e.worn } ∧
        (2 ≤ recentErrors s (unitCode k) (placeAt s k l) → (unitCode k, placeAt s k l) ∈ e.worn) ∧
        (recentErrors s (unitCode k) (placeAt s k l) < 2 → e.worn = s.worn))) ∧
     (∀ (pn : Nat) (p : Partition) (s : State), s.up = false →
       exec (.partitionChange pn (some p)) s = .next s ∧ exec (.partitionChange pn none) s = .next s) ∧
     (∀ (pn : Nat) (p : Partition) (s : State), pn < 16 → s.up = true →
       let old := (s.partOr pn).record
       let cleared (keep : Partition) (u : State) : Prop := ∀ a, readByte u.mem a = if lostPa s old keep a = true then 0 else readByte s.mem a
       (p.svcs ≠ [] → partitionOk s pn p = true → ∃ u, exec (.partitionChange pn (some p)) s = .next u ∧
         let rec_ := (u.partOr pn).record
         let high := mget 0 s.versions 1
         let ran (m : Nat) : Prop := (s.svc m).running = true
         let starts (m image : Nat) : Prop := let v := u.svc m
           v.running = true ∧ v.image = image ∧ v.mode = .hs ∧ v.pc = Config.imageEntry image ∧ v.a0 = BitVec.ofNat 64 pn
         { rec_ with image := p.image, version := p.version, imageOk := p.imageOk } = p ∧
         (∀ m ∈ p.svcs, ran m → u.svc m = s.svc m) ∧
         (old.imageOk = false → p.imageOk = true → high ≤ p.version → mget 0 u.versions 1 = p.version ∧
           (∀ m ∈ p.svcs, ¬ ran m → starts m p.image) ∧ ((∀ m ∈ p.svcs, ¬ ran m) → rec_ = p)) ∧
         (old.imageOk = false → p.imageOk = false ∨ p.version < high → mget 0 u.versions 1 = high ∧
           (∀ m ∈ p.svcs, u.svc m = s.svc m) ∧ ((∀ m ∈ p.svcs, ¬ ran m) → rec_.imageOk = false)) ∧
         (old.imageOk = true → mget 0 u.versions 1 = max high old.version ∧
           (∀ m ∈ p.svcs, ¬ ran m → high ≤ old.version → starts m old.image) ∧
           (∀ m ∈ p.svcs, ¬ ran m → old.version < high → u.svc m = s.svc m) ∧
           (∀ i, (∃ m ∈ p.svcs, ran m) → (∀ m ∈ p.svcs, ran m ∧ (s.svc m).image = i) → rec_.image = i ∧ rec_.imageOk = true) ∧
           ((∃ m ∈ p.svcs, ∃ n ∈ p.svcs, ran m ∧ ran n ∧ (s.svc m).image ≠ (s.svc n).image) →
             rec_.image = old.image ∧ rec_.version = old.version ∧ rec_.imageOk = true)) ∧ (u.partOr pn).launches = (s.partOr pn).launches ∧ cleared p u ∧ u.roles = s.roles ∧
         (∀ a ∈ p.asids, (u.asid a).valid = true ∧ (u.asid a).part.toNat = pn) ∧
         (∀ a ∈ (s.partOr pn).record.asids, a ∉ p.asids → (u.asid a).valid = false) ∧
         ∀ q, q ≠ pn → u.partOr q = s.partOr q) ∧
       ((p.svcs = [] ∨ partitionOk s pn p = false) → exec (.partitionChange pn (some p)) s = .next s) ∧
       ((∃ kr ∈ s.roles, kr.2.st ≠ .free ∧ kr.2.part.toNat = pn) → exec (.partitionChange pn none) s = .next s) ∧
       ((∀ kr ∈ s.roles, kr.2.st = .free ∨ kr.2.part.toNat ≠ pn) → ∃ u, exec (.partitionChange pn none) s = .next u ∧
         u.part? pn = none ∧ cleared Machine.Part.none.record u)) ∧
     (∀ (n image version pn : Nat) (s : State), s.svcPart n = some pn → n ∈ (s.partOr pn).record.svcs →
       let hs (image : Nat) (v : Svc) : Prop := v.running = true ∧ v.image = image ∧ v.mode = .hs ∧ v.pc = Config.imageEntry image ∧
         v.a0 = BitVec.ofNat 64 pn
       (mget 0 s.versions 1 ≤ version → (s.svc n).frozen = false → ∃ u, exec (.kernelImageSwitch n image version true) s = .next u ∧
         hs image (u.svc n) ∧ (u.partOr pn).record.imageOk = true ∧ mget 0 u.versions 1 = version ∧
         ((∀ m ∈ (s.partOr pn).record.svcs, m ≠ n → (s.svc m).running = true → (s.svc m).image = image) → (u.partOr pn).record.image = image) ∧
         ((∃ m ∈ (s.partOr pn).record.svcs, m ≠ n ∧ (s.svc m).running = true ∧ (s.svc m).image ≠ image) →
           (u.partOr pn).record = { (s.partOr pn).record with imageOk := true }) ∧
         (∀ m, m ≠ n → u.svc m = s.svc m) ∧
         (u.svc n).queue.head? = some (BitVec.ofNat 64 (n + 4 * 2 ^ 16))) ∧
       (version < mget 0 s.versions 1 → ∀ ok, exec (.kernelImageSwitch n image version ok) s = .next s) ∧
       exec (.kernelImageSwitch n image version false) s = .next s ∧
       ((s.svc n).frozen = true → (s.partOr pn).record.imageOk = true → ∃ u, exec (.serviceCoreRestart n) s = .next u ∧
         hs (s.svc n).image (u.svc n) ∧ (u.svc n).frozen = false ∧ u = { s with svcs := u.svcs } ∧ ∀ m, m ≠ n → u.svc m = s.svc m) ∧
       ((s.svc n).frozen = true → (s.partOr pn).record.imageOk = false → exec (.serviceCoreRestart n) s =
         .next (s.setSvc n { s.svc n with frozen := false, running := false })) ∧
       ((s.svc n).frozen = false → exec (.serviceCoreRestart n) s = .next s)))

/-! ### The Curtain unit -/

/-- The rules' own, but that a window which a record opens takes the lowest free slot and its buffer's lowest free page (log 30), and what a
peer's Curtain unit answers (log 19), which is in no clause here.
R20, R407, R408, R410, R412, R414: OPEN copies the specification, sets WM and every source watermark to 0 and every source ACTIVE, or
fails with its ERR and changes nothing else; CLOSE frees the stream's windows and ends its watermarks; the combined watermark never falls, and while some
source is ACTIVE it is the larger of itself and the least watermark of the ACTIVE ones; the timer test turns silent sources IDLE;
the oldest arrival that a role can take goes to it.
R411, R413 to R418, R420: the windows that cover a time; where a record goes at a window; the firings that a watermark makes due,
in order of end, start and stream; and what RECAPP, WMARK, SIDLE, WNEXT, WLATE and WPUB do where they are served, with their misuses
and the poison of a record (R429): WLATE takes the next record of the encore list, WPUB publishes the slot at the pool unit, writes
the header, and leaves the window published, closed where its lateness has passed, or queued again where its encore list is not empty. -/
def Obligations.EventWindows : Prop :=
  ((∀ (n m pn : Nat) (s : State), s.svcPart m = some pn → (s.svc m).frozen = false → (s.cstream n).part.toNat = pn → pn ≠ 255 →
       let c := s.cstream n
       let spec := s.memRead c.specPa.toNat 64
       let err (e : Nat) : State := s.setCstream n { c with err := e }
       (c.isOpen = true → exec (.streamOpen (.svc m) n) s = .next (err 4)) ∧
       (c.isOpen = false → openFields s c = false → exec (.streamOpen (.svc m) n) s = .next (err 1)) ∧
       (c.isOpen = false → openFields s c = true → memPoisoned s c.specPa.toNat 64 = true →
         exec (.streamOpen (.svc m) n) s = .next (err 2)) ∧
       (c.isOpen = false → openFields s c = true → memPoisoned s c.specPa.toNat 64 = false → specOk { c with spec := spec } = false →
         exec (.streamOpen (.svc m) n) s = .next (err 1)) ∧
       (c.isOpen = false → openFields s c = true → memPoisoned s c.specPa.toNat 64 = false → specOk { c with spec := spec } = true →
         exec (.streamOpen (.svc m) n) s = .next (s.setCstream n { c with
           spec := spec, isOpen := true, err := 0, wm := 0, srcs := List.replicate c.nsrc.toNat { sw := 0, active := true, last := s.dtime } })) ∧
       (c.isOpen = false → exec (.streamClose (.svc m) n) s = .next (err 4)) ∧
       (c.isOpen = true → (∃ w ∈ s.wins, w.2.stream = n ∧ (w.2.st = .firing ∨ w.2.st = .amending)) →
         exec (.streamClose (.svc m) n) s = .next (err 3)) ∧
       (c.isOpen = true → (∀ w ∈ s.wins, w.2.stream = n → w.2.st ≠ .firing ∧ w.2.st ≠ .amending) →
         ∃ u, exec (.streamClose (.svc m) n) s = .next u ∧ u.cstream n = { c with isOpen := false, err := 0, wm := 0, srcs := [], spec := [] } ∧
           (∀ w ∈ u.wins, w.2.stream ≠ n) ∧ (∀ w ∈ s.wins, w.2.stream ≠ n → w ∈ u.wins) ∧ u.mem = s.mem)) ∧
     (∀ (c : CStream) (now : Nat), c.wm ≤ newWm c now ∧
       (∀ x ∈ c.srcs, x.active = true → (∀ y ∈ c.srcs, y.active = true → x.sw ≤ y.sw) → newWm c now = max c.wm x.sw) ∧
       ((∀ x ∈ c.srcs, x.active = false) → newWm c now =
         if c.fl.getLsbD 0 = true ∧ c.fbdelay.toNat < now then max c.wm (now - c.fbdelay.toNat) else c.wm)) ∧
     (∀ s : State, s.cycle % 1250 ≠ 0 → exec .idleTimerTest s = .next s) ∧
     (∀ (s : State) (n : Nat) (c : CStream), mfind s.strms n = some c → c.isOpen = true → s.cycle % 1250 = 0 →
       ∃ u, exec .idleTimerTest s = .next u ∧
       (u.cstream n).srcs = c.srcs.map (fun x => if x.active ∧ c.idle ≠ 0 ∧ c.idle.toNat ≤ s.dtime - x.last then { x with active := false } else x) ∧
       (u.cstream n).wm = newWm { c with srcs := (u.cstream n).srcs } s.dtime) ∧
     (∀ (s s1 : State) (e : CArr) (rest : List CArr) (core : Nat) (a : Arrival), s.curq = e :: rest →
       winPlace s e = some (core, a) → s.accept core a = some s1 → exec .curtainArrivalDispatch s =
         .next { s1 with curq := (e :: rest).filter (fun x => x.win ≠ e.win) }) ∧
     (∀ s : State, (∀ e ∈ s.curq, winPlace s e = none) → exec .curtainArrivalDispatch s = .next s)) ∧
  ((∀ (c : CStream) (t k : Nat), 0 < c.slide → c.size % c.slide = 0 →
       (k ∈ covers c t ↔ k * c.slide ≤ t ∧ t < k * c.slide + c.size)) ∧
     (∀ (s : State) (n t k : Nat), let c := s.cstream n
       (∀ i w, winSlot s n k = some i → s.win? i = some w →
         (w.st = .open_ → routeOf s n t k = .append) ∧
         (w.st = .firing ∨ w.st = .published ∨ w.st = .amending → routeOf s n t k = if c.wm ≤ t + c.late then .encore else .drop) ∧
         (w.st = .stalled → routeOf s n t k = .drop)) ∧
       (winSlot s n k = none → routeOf s n t k =
         if c.wm < k * c.slide + c.size then .append else if c.wm ≤ t + c.late then .fire else .drop)) ∧
     (∀ (s : State) (i : Nat) (w : CWin), (s.wins.map Prod.fst).Nodup → (s.wins.all (fun x => x.2.st == .open_)) = true → (i, w) ∈ s.wins →
       let due (x : CWin) : Prop := x.k * (s.cstream x.stream).slide + (s.cstream x.stream).size ≤ (s.cstream x.stream).wm
       let u := settleWindows s
       (due w → (u.win? i).map (·.st) = some .firing ∧ (∃ e ∈ u.curq, e.win = i)) ∧ (¬ due w → u.win? i = some w) ∧
       ∃ new, u.curq = s.curq ++ new ∧ new.Pairwise (fun a b => ∀ x y, (a.win, x) ∈ s.wins → (b.win, y) ∈ s.wins →
         x.k * (s.cstream x.stream).slide + (s.cstream x.stream).size ≤ y.k * (s.cstream y.stream).slide + (s.cstream y.stream).size)) ∧
     (∀ (rs : Slot) (id op : Nat) (a : Access) (s s0 : State), (s.role rs.key).acc? id = some a →
       performable s (s.role rs.key) a = true → meetsStuck s (s.role rs.key) a.cl a.id a.ranges = false → inject s rs.key a = some s0 → a.kind = .win op →
       let r := s0.role rs.key
       let n := a.addr.toNat % 2 ^ 8
       let i := a.addr.toNat / 2 ^ 8 % 2 ^ 6
       let c := s.cstream n
       let answer (t : State) (vals : List (Dest × Row)) : Prop := exec (.accessServed rs (.acc id)) s =
         .next (t.setRole rs.key { (t.role rs.key).setAcc { a with stat := .replied vals } with lastAct := s.cycle })
       let misuse (code k : Nat) : Prop := exec (.accessServed rs (.acc id)) s =
         .next (s0.setRole rs.key { r.setAcc { a with stat := .faulted code a.addr (BitVec.ofNat 64 k) k } with lastAct := s.cycle })
       (op ≤ 2 → a.addr.toNat / 2 ^ 32 ≠ 0 → misuse 0x40 1) ∧
       (op ≤ 2 → a.addr.toNat / 2 ^ 32 = 0 → a.addr.toNat / 2 ^ 14 % 4 = 0 → a.addr.toNat / 2 ^ 16 = 0xFFFF →
         (c.part.toNat ≠ r.part.toNat → exec (.accessServed rs (.acc id)) s = .next ((s0.logViol 0 rs.key a.addr).setRole rs.key
           { r.setAcc { a with stat := .faulted 0x60 a.addr 0 0 } with frozen := r.frozen || r.st == .stopped, lastAct := s.cycle })) ∧
         (c.part.toNat = r.part.toNat → c.isOpen = false → misuse 0x40 1) ∧
         (c.part.toNat = r.part.toNat → c.isOpen = true → c.nsrc.toNat ≤ i → misuse 0x40 2) ∧
         (c.part.toNat = r.part.toNat → c.isOpen = true → i < c.nsrc.toNat →
           (∀ d, op = 0 → a.dests = [d] → s.wins = [] → c.size = c.slide → 0 < c.slide → 0 < c.bufPages.toNat →
             let t := leNat (a.data.take 8)
             let k := t / c.slide
             let w : CWin := { pages := [0], stream := n, k := k, st := .open_, recs := [a.data], encore := [], taken := [], cursor := 0, rev := 0, holder := none }
             c.wm < k * c.slide + c.size → (∀ x ∈ c.srcs, x.sw ≤ c.wm) → i < c.srcs.length →
               ∃ u, answer u [(d, 1)] ∧ (u.cstream n).wm = c.wm ∧ u.win? 0 = some w ∧
                 ∀ j, j < a.data.length → readByte u.mem (paNorm c.buf.toNat + j) = a.data.getD j 0) ∧
           (op = 1 → a.dests = [] → i < c.srcs.length → ∃ u, answer u [] ∧
             ((u.cstream n).srcs[i]?).map (fun x => (x.sw, x.active)) =
               some (max ((c.srcs.getD i { sw := 0, active := false, last := 0 }).sw)
                 (let up := (mget 0 c.up i).toNat
                  if up ≠ 255 ∧ (s.cstream up).isOpen = true then min a.v.toNat (s.cstream up).wm else a.v.toNat), true) ∧
             (u.cstream n).wm = newWm { c with srcs := (u.cstream n).srcs } s.dtime) ∧
           (op = 2 → a.dests = [] → i < c.srcs.length → ∃ u, answer u [] ∧
             ((u.cstream n).srcs[i]?).map (·.active) = some false))) ∧
       (op = 3 → a.addr.toNat / 2 ^ 20 = 0 →
         let c := s.cstream (a.addr.toNat / 2 ^ 12)
         let slot := a.addr.toNat % 2 ^ 12
         c.part.toNat = r.part.toNat →
         (s.win? slot = none → misuse 0x40 3) ∧
         (∀ w d, s.win? slot = some w → w.stream = a.addr.toNat / 2 ^ 12 → a.dests = [.p d] →
           (w.holder ≠ some (rs.key, r.lid) → misuse 0x40 4) ∧
           (w.holder = some (rs.key, r.lid) → w.recs.length ≤ w.cursor → answer s0 [(.p d, 0)]) ∧
           (∀ rec_, w.holder = some (rs.key, r.lid) → w.recs[w.cursor]? = some rec_ → recPoisoned s0 w w.cursor = true → misuse 0x14 0) ∧
           (∀ rec_ p, w.holder = some (rs.key, r.lid) → w.recs[w.cursor]? = some rec_ → recPoisoned s0 w w.cursor = false →
             tileRange r (s.arrBase (rs.key / 4)) a.listOff.toNat 64 = some p →
             answer ((s0.setWin slot { w with cursor := w.cursor + 1 }).tileWrite (rs.key / 4) p rec_) [(.p d, 1)]))) ∧
       (op = 5 → a.addr.toNat / 2 ^ 20 = 0 →
         let slot := a.addr.toNat % 2 ^ 12
         (s.cstream (a.addr.toNat / 2 ^ 12)).part.toNat = r.part.toNat →
         (s.win? slot = none → misuse 0x40 3) ∧
         (∀ w d, s.win? slot = some w → w.stream = a.addr.toNat / 2 ^ 12 → a.dests = [.p d] →
           let bad := recPoisoned s0 w (w.recs.length + w.taken.length)
           (w.holder ≠ some (rs.key, r.lid) → misuse 0x40 4) ∧
           (w.holder = some (rs.key, r.lid) → w.encore = [] → answer s0 [(.p d, 0)]) ∧
           (∀ x t, w.holder = some (rs.key, r.lid) → w.encore = x :: t → bad = true → misuse 0x14 0) ∧
           (∀ x t p, w.holder = some (rs.key, r.lid) → w.encore = x :: t → bad = false →
             tileRange r (s.arrBase (rs.key / 4)) a.listOff.toNat 64 = some p →
             answer ((s0.setWin slot { w with encore := t, taken := w.taken ++ [x] }).tileWrite (rs.key / 4) p x) [(.p d, 1)]))) ∧
       (op = 4 → a.addr.toNat / 2 ^ 20 = 0 →
         let c := s.cstream (a.addr.toNat / 2 ^ 12)
         let slot := a.addr.toNat % 2 ^ 12
         let to_ (t : State) (va : Word) (want : Want) : Except Nat Xlat :=
           translateA t (rs.key / 4) a.afresh r.asid.toNat (t.asid r.asid.toNat).gen va want
         c.part.toNat = r.part.toNat →
         (s.win? slot = none → misuse 0x40 3) ∧
         (∀ w, s.win? slot = some w → w.stream = a.addr.toNat / 2 ^ 12 → a.dests = [] →
           (w.holder ≠ some (rs.key, r.lid) → misuse 0x40 4) ∧
           (w.holder = some (rs.key, r.lid) → w.st ≠ .firing → w.st ≠ .amending → misuse 0x40 5) ∧
           (∀ (x y : Xlat) (j e : Nat), w.holder = some (rs.key, r.lid) → (w.st = .firing ∨ w.st = .amending) →
             to_ s0 c.pool .rd = .ok x → x.attr = 1 → memPoisoned x.st x.pa 256 = false → pLive x.st x.pa = true →
             pPART x.st x.pa = r.part.toNat → inPoolScope x.st x.pa rs.key r = true → slotOfB x.st x.pa a.v = some j →
             let h : Hold := { pool := c.pool, slot := j, pin := false }
             let mine : Word := BitVec.ofNat 64 (j + rs.core.toNat * 2 ^ 8 + rs.slot.toNat * 2 ^ 16 + r.rank.toNat % 2 ^ 16 * 2 ^ 32)
             h ∈ r.holds → e < 8 → pCLAIM x.st x.pa e = mine → (∀ v < e, pCLAIM x.st x.pa v ≠ mine) →
             to_ (poolPublish x.st x.pa e j) a.v .wr = .ok y → y.attr = 0 → paRegion y.pa ≤ 1 → liveBlock y.st y.pa = false →
             let from_ := w.k * c.slide
             let until_ := from_ + c.size
             let head := natLe 8 from_ ++ natLe 8 until_ ++ natLe 4 (w.rev + 1) ++ natLe 4 (w.recs.length + w.taken.length) ++
               natLe 4 (slot + w.stream * 2 ^ 12) ++ natLe 4 0
             let t := (y.st.memWrite y.pa head).setRole rs.key { r with holds := unhold r.holds h }
             let v : CWin := { w with rev := w.rev + 1, recs := w.recs ++ w.taken, taken := [], st := .published }
             (w.encore = [] → c.wm < until_ + c.late → answer (t.setWin slot v) []) ∧
             (w.encore = [] → until_ + c.late ≤ c.wm → ∃ u, answer u [] ∧ u.win? slot = none ∧ u.mem = t.mem) ∧
             (w.encore ≠ [] → answer { t.setWin slot { v with st := .amending, cursor := 0, holder := none } with
               curq := t.curq ++ [{ win := slot, wm := c.wm }] } []))))))

/-! ### The outside -/

/-- The rules' own, but for what logs 5 (which ports are HOST and PEER at reset), 10 (the quote entry of a partition without an accepted
image), 36 (that the notice of a malformed doorbell goes to core 0's reporter), 16 (what a host may not touch, the unit to which an error
counts), 37 (how outstanding accesses meet a link error, what a power reset keeps) and 38 (drives, live pool blocks) deduce or choose.
R279, R334, R383, R385, R389 to R391, R428 to R430, R435, R387: an uncorrectable error poisons its granule, or stops the role
whose registers it strikes; a scrub changes nothing. A posted host write lands in the port's window or is a violation that
freezes the port; a host read gets the bytes, or an error for poison; a doorbell write becomes an arrival, is held while it is
refused, and is dropped with notice 2 where it is malformed. A link that goes down faults what is under way, requests and copies, with INFO1 0xFFFE, and so does a hot reset of a host;
a drive's transfer stays in the windows and the namespaces of the partition that owns the queue.
R386, R431, R436 to R438, R441: management ownership is claimed, handed over and taken over after 2 s in which the owner has sent
nothing, and another's write is refused; throttling and a heater
change timing only, and give notices 6 and 7; an emergency stops every RUNNING role hard and no launch is bound until it has
cleared; a power reset clears the part, and its release brings it up, or leaves it in recovery where a step fails; a signed update replaces a
record of module flash (R20, R440); a quote is 30,448 bytes over its nonce, its kernel-list entries zero where no kernel runs. -/
def Obligations.OutsideWorld : Prop :=
  ((∀ (s : State),
       (∀ pa, paRegion pa ≤ 1 → ∃ u, exec (.uncorrectableError (.mem pa)) s = .next u ∧
         u = { s with poison := u.poison, errors := u.errors, worn := u.worn } ∧
         memPoisoned u (paNorm pa / 64 * 64) 64 = true ∧ (∀ g, g ≠ paNorm pa / 64 → (g ∈ u.poison ↔ g ∈ s.poison)) ∧
         u.errors.length = s.errors.length + 1) ∧
       (∀ core off, core < 256 → off < 2 ^ 22 → ∃ u, exec (.uncorrectableError (.tile core off)) s = .next u ∧
         u = { s with tpoison := u.tpoison, errors := u.errors, worn := u.worn } ∧ tilePoisoned u (tkey core off / 64 * 64) 64 = true) ∧
       (∀ (rs : Slot) (c : Cluster), (s.role rs.key).st = .running → ((s.role rs.key).clu c).halted = false →
         exec (.uncorrectableError (.regs rs c)) s = .next (takeStop
           (countError s .core (rs.key / 4)) rs.key 1 0x14 c 0 0xFFFF none)) ∧
       (∀ (rs : Slot) (c : Cluster), ((s.role rs.key).st ≠ .running ∨ ((s.role rs.key).clu c).halted = true) →
         exec (.uncorrectableError (.regs rs c)) s = .next (countError s .core (rs.key / 4))) ∧
       exec .scrub s = .next s ∧ ∀ p, exec (.flitResend p) s = .next s) ∧
     (∀ (p off : Nat) (data : List Byte) (s : State), let q := s.port p
       q.peer = false → q.up = true → q.frozen = false → q.held = none →
       let pa := q.winBase + off
       let part := (s.partOr q.part).record
       let inside (n : Nat) : Prop := off + n ≤ q.winLen ∧ rangeIn s part pa n = true
       let violates : State := ((failOver s p).logViol 2 p (BitVec.ofNat 64 off)).setPort p { q with frozen := true }
       ((¬ (q.dbOff ≤ off ∧ off < q.dbOff + 65536)) → data ≠ [] → data.length ≤ 256 →
         (inside data.length → hostBarred s pa data.length = false → liveIn s pa data.length = false →
           exec (.hostWrite p off data) s = .next (s.memWrite pa data)) ∧
         (inside data.length → hostBarred s pa data.length = true ∨ liveIn s pa data.length = true → exec (.hostWrite p off data) s = .next s) ∧
         (¬ inside data.length → exec (.hostWrite p off data) s = .next violates)) ∧
       (off = q.dbOff → off < q.winLen →
         let t := leNat (data.take 8)
         let h : Word := BitVec.ofNat 64 (leNat ((data.drop 8).take 8))
         let a : Arrival := { asid := q.dbAsid, handler := h, payload := data.drop 16, sender := BitVec.ofNat 64 (p + 3 * 2 ^ 32), x4 := 0 }
         let good : Prop := 17 ≤ data.length ∧ data.length ≤ 256 ∧ t < 256 ∧ t ∈ part.cores ∧ h.toNat % 32 = 0
         (∀ u, good → s.accept t a = some u → exec (.hostDoorbell p off data) s = .next u) ∧
         (good → s.accept t a = none → exec (.hostDoorbell p off data) s = .next (s.setPort p { q with held := some (t, a) })) ∧
         (¬ good → exec (.hostDoorbell p off data) s = .next (s.notice q.part 0 2 p 0))) ∧
       (∀ n, 0 < n → n ≤ 256 →
         (inside n → hostBarred s pa n = false → memPoisoned s pa n = false →
           exec (.hostRead p off n) s = .next { s with hostReads := s.hostReads ++ [s.memRead pa n] }) ∧
         (inside n → hostBarred s pa n = true ∨ memPoisoned s pa n = true → exec (.hostRead p off n) s = .next { s with hostReads := s.hostReads ++ [[]] }) ∧
         (¬ inside n → exec (.hostRead p off n) s = .next violates))) ∧
     (∀ (p : Nat) (s : State), p < 12 →
       let failed (u : State) : Prop := ∀ k,
         (u.role k).acc = (s.role k).acc.map (fun a => match overPort s (s.role k) a p with
           | some i => { a with stat := .faulted 0x14 (match a.kind with | .win _ => a.addr | _ => a.partAddr i) 0xFFFE 0 }
           | none => a) ∧
         (u.role k).copies = (s.role k).copies.map (fun c => match c.overPort s (s.role k) p with
           | some a => { c with fault := some (0x14, a, 0xFFFE) }
           | none => c)
       ((s.port p).up = true → ∃ u, exec (.linkDown p) s = .next u ∧ u.port p = { s.port p with up := false } ∧
         u = { s with roles := u.roles, ports := u.ports } ∧ failed u) ∧
       ((s.port p).up = false → exec (.linkDown p) s = .next s) ∧
       exec (.linkTrained p) s = .next (s.setPort p { s.port p with up := true }) ∧
       exec (.portReenable p) s = .next (s.setPort p { s.port p with frozen := false }) ∧
       ((s.port p).peer = false → ∃ u, exec (.hostHotReset p) s = .next u ∧ u.port p = { s.port p with up := false, frozen := false } ∧
         failed u ∧
         u.mem = s.mem)) ∧
     (∀ (drive queue pa len : Nat) (ns : Option Nat) (d : Option (List Byte)) (s : State), queueOwner s drive queue = none →
       exec (.nvmeDma ⟨drive, queue, ns⟩ pa len d) s = .next s) ∧
     (∀ (drive queue pn pa len : Nat) (ns : Option Nat) (d : List Byte) (s : State), queueOwner s drive queue = some pn →
       let p := (s.partOr pn).record
       let own : Prop := ∀ x, ns = some x → (drive, x) ∈ p.namespaces
       let ends (o : Option (List Byte)) (t : State) (b : Bool) : Prop :=
         exec (.nvmeDma ⟨drive, queue, ns⟩ pa len o) s = .next { t with nvmeLog := s.nvmeLog ++ [b] }
       (own → d ≠ [] → rangeIn s p pa d.length = true → liveIn s pa d.length = false → ends (some d) (s.memWrite pa d) true) ∧
       (own → 0 < len → rangeIn s p pa len = true → ends none s (!memPoisoned s pa len)) ∧
       (¬ own ∨ rangeIn s p pa d.length = false ∨ liveIn s pa d.length = true → ends (some d) s false) ∧
       (¬ own ∨ rangeIn s p pa len = false → ends none s false))) ∧
  ((∀ (m next : Nat) (s : State), m < 4 → next < 4 →
       (s.mgmtOwner = none → exec (.mgmtClaim m) s = .next { s with mgmtOwner := some m, mgmtLast := s.cycle }) ∧
       (∀ o, s.mgmtOwner = some o → o ≠ m →
         (s.cycle < s.mgmtLast + 2500000000 → exec (.mgmtClaim m) s = .next { s with mgmtRefused := s.mgmtRefused + 1 }) ∧
         (s.mgmtLast + 2500000000 ≤ s.cycle → exec (.mgmtClaim m) s = .next { s with mgmtOwner := some m, mgmtLast := s.cycle }) ∧
         exec (.mgmtHandover m next) s = .next { s with mgmtRefused := s.mgmtRefused + 1 } ∧
         (s.mgmtLast + 2500000000 ≤ s.cycle → exec (.mgmtOwnerTimeout m) s =
           .next { s with mgmtOwner := some m, mgmtLast := s.cycle }) ∧
         (s.cycle < s.mgmtLast + 2500000000 → exec (.mgmtOwnerTimeout m) s = .next s)) ∧
       (s.mgmtOwner = some m → exec (.mgmtHandover m next) s = .next { s with mgmtOwner := some next, mgmtLast := s.cycle })) ∧
     (∀ (m : Nat) (s : State) (w : Bool) (rest : List Turn), m < 4 → s.sched = { dt := 0, what := .mgmt m w } :: rest →
       let u := { s with sched := rest }
       (s.mgmtOwner = some m → step s = .next { u with mgmtLast := s.cycle }) ∧
       (s.mgmtOwner ≠ some m → step s = .next (if w then { u with mgmtRefused := s.mgmtRefused + 1 } else u))) ∧
     (∀ s : State, exec .heaterRetune s = .next s ∧ exec .conditionCleared s = .next { s with emergency := false } ∧
       (s.throttled = false → ∃ u, exec .throttleBegin s = .next u ∧ u.throttled = true ∧ u = { s with throttled := true, svcs := u.svcs }) ∧
       (s.throttled = true → exec .throttleBegin s = .next s) ∧
       (s.throttled = true → ∃ u, exec .throttleEnd s = .next u ∧ u.throttled = false ∧ u = { s with throttled := false, svcs := u.svcs }) ∧
       (s.throttled = false → exec .throttleEnd s = .next s)) ∧
     (∀ s : State, (s.roles.map Prod.fst).Nodup → ∃ u, exec .emergencyStop s = .next u ∧ u.emergency = true ∧ u.mem = s.mem ∧
       (∀ k, (s.role k).st = .running → retires s k = false → (u.role k).st = .stopped ∧ (u.role k).lastcode = 0x7F ∧
         ((u.role k).stop.map (·.kind)) = some 4) ∧
       (∀ k, (s.role k).st ≠ .running → u.role k = s.role k) ∧
       ∀ pn l, mayBind u pn l = false) ∧
     (∀ (s : State) (mon sch : Img) (fail : Option Nat) (peers : List Nat),
       (∃ u, exec .powerReset s = .next u ∧ u.up = false ∧ u.roles = [] ∧ u.tile = [] ∧ u.cycle = 0 ∧ u.parts = [] ∧ u.place = [] ∧
         u.flash = s.flash ∧ u.grade = s.grade ∧ u.certs = s.certs ∧ u.versions = s.versions ∧ (∀ p < 12, (u.port p).up = false) ∧
         ∀ a, paRegion a ≤ 1 → readByte u.mem a = 0) ∧
       (s.up = false → imgOk s 0 mon = true → recordsOk s = true → imgOk s 2 sch = true → fail = none →
         ∃ u, exec (.resetRelease ⟨mon, sch, fail⟩ peers) s = .next u ∧ u.up = true ∧ u.clock = true ∧ u.roles = [] ∧ u.cycle = 0 ∧
           u.place = s.flash ∧ u.monImage = mon.num ∧ u.schImage = sch.num ∧ mget 0 u.versions 0 = mon.version ∧
           mget 0 u.versions 2 = sch.version ∧ (∀ k, k = 3 ∨ k = 4 ∨ k = 5 → mget 0 u.versions k = mget 0 s.flashVer k) ∧
           (∀ p, p < 12 → (u.port p).up = true ∧ (u.port p).peer = decide (p ∈ peers)) ∧ ∀ a, paRegion a ≤ 1 → readByte u.mem a = 0) ∧
       (∀ n, s.up = false → imgOk s 0 mon = false ∧ n = 1 ∨ recordsOk s = false ∧ n = 2 ∨ imgOk s 2 sch = false ∧ n = 7 ∨
           fail = some n ∧ 1 ≤ n ∧ n ≤ 7 →
         ∃ u, exec (.resetRelease ⟨mon, sch, fail⟩ peers) s = .next u ∧ u.up = false ∧ u.roles = [] ∧
           (n = 1 → exec .powerReset s = .next u) ∧ (n ≤ 3 → u.place = []) ∧ (n ≤ 5 → ∀ p, p < 12 → (u.port p).up = false) ∧
           (n ≤ 6 → u.clock = false)) ∧
       (s.up = true → exec (.resetRelease ⟨mon, sch, fail⟩ peers) s = .next s)) ∧
     (∀ (s : State) (x : Update) (kind : Nat) (rest : List Turn), s.sched = { dt := 0, what := .update x } :: rest →
       (x.record = .repair s.flash ∧ kind = 3 ∨ x.record = .grade s.grade ∧ kind = 4 ∨ x.record = .certs s.certs ∧ kind = 5) →
       let u := { s with sched := rest }
       (x.sigOk = false ∨ x.version < mget 0 s.versions kind → step s = .next u) ∧
       (x.sigOk = true → mget 0 s.versions kind ≤ x.version → step s =
         .next { u with flashVer := mput s.flashVer kind x.version, versions := mput s.versions kind x.version })) ∧
     (∀ (s : State) (n v : Nat) (bs : List Byte) (m : SMap Nat) (rest : List Turn),
       ((s.sched = { dt := 0, what := .update { record := .grade n, version := v, sigOk := true } } :: rest → mget 0 s.versions 4 ≤ v →
           ∃ u, step s = .next u ∧ u.grade = n ∧ u.certs = s.certs ∧ u.flash = s.flash) ∧
        (s.sched = { dt := 0, what := .update { record := .certs bs, version := v, sigOk := true } } :: rest → mget 0 s.versions 5 ≤ v →
           ∃ u, step s = .next u ∧ u.certs = bs ∧ u.grade = s.grade ∧ u.flash = s.flash) ∧
        (s.sched = { dt := 0, what := .update { record := .repair m, version := v, sigOk := true } } :: rest → mget 0 s.versions 3 ≤ v →
           ∃ u, step s = .next u ∧ u.flash = m ∧ u.place = s.place ∧ u.grade = s.grade))) ∧
     (∀ (nonce : List Byte) (s : State) (o : Nat), nonce.length = 32 → s.mgmtOwner = some o →
       ∃ q, exec (.quote .monitor nonce) s = .next { s with quotes := s.quotes ++ [q], mgmtLast := s.cycle } ∧ q.length = 30448 ∧
         (q.drop 8).take 32 = nonce ∧ (q.drop 136).take 8 = natLe 8 s.dtime ∧
         ∀ p < 16, (∀ x, s.part? p = some x → x.record.imageOk = false) → (q.drop (144 + 32 * p)).take 32 = natLe 32 0))

/-! ### Memory, translation, and the machine as a whole -/

/-- R429, R372 to R374, R201: a store changes its own bytes and no others, and clears the poison of the granules that it covers
whole, of no other, in memory and in a tile store, where a role's offset names a byte of its window or of its arrival entry and any other
traps; a read of the tile store delivers its bytes; a translation, beside caching what it read, changes at most the A and D bits of one entry of eight bytes, the one that a fresh walk ends at or
that the core has cached (R377), and fails with PAGE_FAULT,
PROTECTION, POISON or VIOLATION; a root entry with V = 0 faults, one that is a leaf is refused. A node outside the partition's windows is a
VIOLATION (log 11). -/
def Obligations.StoresAndTranslation : Prop :=
  (∀ (s : State) (a : Nat) (bs : List Byte), let u := s.memWrite a bs
    u = { s with mem := u.mem, poison := u.poison } ∧ (∀ i, i < bs.length → readByte u.mem (a + i) = bs.getD i 0) ∧
    (∀ b, (b < a ∨ a + bs.length ≤ b) → readByte u.mem b = readByte s.mem b) ∧
    (∀ g, g ∈ u.poison ↔ g ∈ s.poison ∧ ¬ (a ≤ 64 * g ∧ 64 * g + 64 ≤ a + bs.length)) ∧
    (Memory.wf s.mem = true → Memory.wf u.mem = true)) ∧
  (∀ (s : State) (core off : Nat) (bs : List Byte), let u := s.tileWrite core off bs
    let a := core * 2 ^ 22 + off
    u = { s with tile := u.tile, tpoison := u.tpoison } ∧ (∀ i, i < bs.length → readByte u.tile (a + i) = bs.getD i 0) ∧
    (∀ b, (b < a ∨ a + bs.length ≤ b) → readByte u.tile b = readByte s.tile b) ∧
    (∀ g, g ∈ u.tpoison ↔ g ∈ s.tpoison ∧ ¬ (a ≤ 64 * g ∧ 64 * g + 64 ≤ a + bs.length)) ∧
    (Memory.wf s.tile = true → Memory.wf u.tile = true)) ∧
  (∀ (s : State) (o : Nat) (bs : List Byte),
    let core := s.curKey / 4
    let at_ := tileRange s.curRole (s.arrBase core) o bs.length
    (∀ p, at_ = some p → Does (tilePut o bs) s (s.tileWrite core p bs)) ∧
    (at_ = none → tilePut o bs s = .error (.trap 0x13 (BitVec.ofNat 64 o) 0xFFFF)) ∧
    (∀ p, at_ = some p → tilePoisoned s (core * 2 ^ 22 + p) bs.length = false → ∃ l, Reads (tileGet o bs.length) s l ∧ l.length = bs.length ∧
      ∀ i, i < bs.length → l.getD i 0 = readByte s.tile (core * 2 ^ 22 + p + i))) ∧
  (∀ (s : State) (core n : Nat) (va : Word) (want : Want) (x : Xlat), translate s core n va want = .ok x →
    let cached := cachedLeaf s core n (s.asid n).gen va
    let fresh := freshLeaf s n (s.asid n).gen va
    x.st = { s with mem := x.st.mem, tlb := x.st.tlb } ∧ x.attr ≤ 3 ∧
    ∃ l : Leaf, (fresh = .ok l ∨ cached = some l) ∧ (cached = none → fresh = .ok l) ∧ (fresh = .ok l → 16 ≤ l.lo ∧ l.lo ≤ 30) ∧
      (16 ≤ l.lo → l.lo ≤ 30 → (x.attr = 1 → paRegion x.pa = 1) ∧ (x.attr = 2 → paRegion x.pa ≤ 1) ∧ x.pa % 2 ^ 16 = va.toNat % 2 ^ 16) ∧
      (∀ b, (b < l.epa ∨ l.epa + 8 ≤ b) → readByte x.st.mem b = readByte s.mem b) ∧
      (x.st.memWord l.epa ||| 0x300 = s.memWord l.epa ||| 0x300) ∧
      (fresh = .ok l → cached = none → l.word = s.memWord l.epa ∧ (s.memWord l.epa).getLsbD 0 = true ∧ (x.st.memWord l.epa).getLsbD 8 = true ∧
        (want = .wr ∨ want = .rw → (x.st.memWord l.epa).getLsbD 9 = true ∧ (s.memWord l.epa).getLsbD 3 = true) ∧
        (want = .rd ∨ want = .rw → (s.memWord l.epa).getLsbD 2 = true) ∧ (want = .fetch → (s.memWord l.epa).getLsbD 4 = true))) ∧
  (∀ (s : State) (core n : Nat) (va : Word) (want : Want) (c : Nat), translate s core n va want = .error c →
    c = 0x10 ∨ c = 0x11 ∨ c = 0x14 ∨ c = 0x60) ∧
  (∀ (s : State) (core n : Nat) (va : Word) (want : Want), let r := (s.asid n).root.toNat
    let e := r + 8 * (va.toNat / 2 ^ 48 % 512)
    r % 4096 = 0 → r < 2 ^ 40 - 4096 → cachedLeaf s core n (s.asid n).gen va = none →
    (inWindows s (s.partOr (s.asid n).part.toNat).record e = false → translate s core n va want = .error 0x60) ∧
    (inWindows s (s.partOr (s.asid n).part.toNat).record e = true →
      (memPoisoned s e 8 = true → translate s core n va want = .error 0x14) ∧
      (memPoisoned s e 8 = false → (s.memWord e).getLsbD 0 = false → translate s core n va want = .error 0x10) ∧
      (memPoisoned s e 8 = false → (s.memWord e).getLsbD 0 = true → (s.memWord e).getLsbD 1 = true →
        translate s core n va want = .error 0x11)))

/-- R46, R48, R351: every step of a live cluster, every turn of a cluster, and every step that no turn decides, ends in a
next state. -/
def Obligations.MachineGoesOn : Prop :=
  (∀ (i : Instr) (s : State), s.curLive = true → ∃ t, exec i s = .next t) ∧
  (∀ (s : State) (n : Nat) (c : Cur) (rest : List Turn), s.sched = { dt := n, what := .syl c } :: rest → ∃ t, step s = .next t) ∧
  ∀ s : State, s.sched = [] → ∃ t, step s = .next t

/-- The model's own invariant (log 2): in every state, a step that answers a next state keeps both memories in their canonical form. -/
def Obligations.StepKeepsMemories : Prop :=
  ∀ s t : State, s.Inv → step s = .next t → t.Inv

/-- The invariant of StepKeepsMemories holds after bring-up (log 2). -/
def Obligations.ResetMemoriesCanonical : Prop :=
  State.reset.Inv

/-- R82 to R101: the words of a well-formed instruction decode to it, with every operand at every value, and the first of
them tells how many there are. -/
def Obligations.DecodeReadsEncode : Prop :=
  ∀ i : Instr, i.wf = true → encode i ≠ [] →
    decode (encode i) = .ok i ∧ lengthOf ((encode i).headD 0) = (encode i).length ∧
    ∀ j : Instr, j.wf = true → encode j = encode i → j = i

/-- R83, R99, R104, R105, R374, R391, R429: a turn of a cluster runs the instruction that the words at its PC decode to; where they decode to
none it takes the trap of the decoder, and where the PC cannot be fetched from, that of the fetch: a page that cannot be fetched, a
multicast page, host memory, a link that is down, poison. That a peer outside the process group gives PROTECTION is the model's reading of
R388 (log 16). A turn is taken in its cycle, and
in the next one where another turn of the cycle should have come after it (log 1); cycles pass with the watchdogs' counts (R54).
Without a turn a step is the first one that is due, or the next cluster's. -/
def Obligations.StepRunsDecoded : Prop :=
  (∀ (s u : State) (n : Nat) (c : Cur) (rest : List Turn), s.sched = { dt := n, what := .syl c } :: rest →
    u = { ({ s with sched := rest } : State).toTurn { dt := n, what := .syl c } with cur := c } → u.curLive = true →
    let pc := u.clu.pc
    (pc.toNat % 8 ≠ 0 → step s = .next (takeTrap u 0x03 pc 0)) ∧
    (pc.toNat % 8 = 0 → canonical pc = false → step s = .next (takeTrap u 0x11 pc 0xFFFF)) ∧
    (pc.toNat % 8 = 0 → canonical pc = true →
      (∀ code i1, readAt u (u.curKey / 4) u.curRole pc .fetch 8 = .error (code, i1) → step s = .next (takeTrap u code pc i1)) ∧
      ∀ pa st, readAt u (u.curKey / 4) u.curRole pc .fetch 8 = .ok (pa, st) →
        let w := st.memWord pa
        let ws := if (majOf w).toNat = 0x30 then w :: codeWords st (u.curKey / 4) u.curRole.asid.toNat (pc + 8) 7 else [rewritten u.clu w]
        (∀ i, decodeFor u.cur.cl ws = .instr i → ((majOf w).toNat = 0x30 → pc.toNat % 64 = 0) → step s = exec i st) ∧
        (decodeFor u.cur.cl ws = .illegalSyllable → step s = .next (takeTrap st 0x01 w 0)) ∧
        (decodeFor u.cur.cl ws = .illegalCluster → step s = .next (takeTrap st 0x02 w 0)) ∧
        (∀ k, decodeFor u.cur.cl ws = .illegalNest k → pc.toNat % 64 = 0 →
          step s = .next (takeTrap st 0x04 w (BitVec.ofNat 64 k))) ∧
        ((majOf w).toNat = 0x30 → pc.toNat % 64 ≠ 0 → decodeFor u.cur.cl ws ≠ .illegalSyllable →
          decodeFor u.cur.cl ws ≠ .illegalCluster → step s = .next (takeTrap st 0x04 w 7)))) ∧
  (∀ (s : State) (core : Nat) (r : Role) (va : Word) (n : Nat) (x : Xlat),
    (∀ c, translate s core r.asid.toNat va .fetch = .error c → readAt s core r va .fetch n = .error (c, if c = 0x60 then 0 else 0xFFFF)) ∧
    (translate s core r.asid.toNat va .fetch = .ok x →
      (x.attr = 3 ∨ paRegion x.pa = 4 ∨ inGroup r x.pa = false → readAt s core r va .fetch n = .error (0x11, 0xFFFF)) ∧
      (x.attr ≠ 3 → paRegion x.pa ≠ 4 → inGroup r x.pa = true → linkUp s r x.pa = false →
        readAt s core r va .fetch n = .error (0x14, 0xFFFE)) ∧
      (x.attr ≠ 3 → paRegion x.pa ≤ 1 → readAt s core r va .fetch n =
        if memPoisoned x.st x.pa n then .error (0x14, 0xFFFF) else .ok (x.pa, x.st)))) ∧
  (∀ (s : State) (t : Turn) (i : Instr) (rest : List Turn), s.sched = t :: rest → t.what = .ev i →
    step s = exec i (({ s with sched := rest } : State).toTurn t)) ∧
  (∀ (s : State) (w : What), s.follows (orderOf s w) = true → s.toTurn { dt := 0, what := w } = s.mark (orderOf s w)) ∧
  (∀ (s : State) (w : What), s.follows (orderOf s w) = false → s.toTurn { dt := 0, what := w } = (s.pass 1).mark (orderOf s w)) ∧
  (∀ (s : State) (n : Nat), 0 < n → s.strms = [] → ∃ rs, s.pass n = { s with roles := rs, cycle := s.cycle + n, seen := [] } ∧
    ∀ k r, mfind s.roles k = some r → mfind rs k =
      some { r with lastAct := if r.st = .running ∧ quiet s k = false then s.cycle + n - 1 else r.lastAct }) ∧
  (∀ s u : State, s.sched = [] → u = s.pass 1 →
    (∀ d, autoEvent u = some d → step s = d.run u) ∧
    (autoEvent u = none → step s = passOn (doWhat (.syl u.cur) u)))

/-- R438, R21, R367, R14: after bring-up memory and tile stores read 0 with no poison, DTIME is 0, every role slot is FREE with
its registers 0, the watchdog limit 0x0080_0000 and the cue watchdog 10,000 µs, and nothing is queued. What the spec does not state
of these (that an unlisted byte reads 0, log 2; the registers of log 3) is the model's choice. -/
def Obligations.ResetState : Prop :=
  (∀ a, readByte State.reset.mem a = 0 ∧ readByte State.reset.tile a = 0) ∧ State.reset.poison = [] ∧ State.reset.tpoison = [] ∧
  State.reset.dtime = 0 ∧ State.reset.viols = [] ∧
  (∀ k, (State.reset.role k).st = .free ∧ (State.reset.role k).frozen = false ∧ (State.reset.role k).wdlimit = 0x00800000 ∧
    (State.reset.role k).cuewd = 10000 ∧ (State.reset.role k).flags = 0 ∧ (State.reset.role k).flagen = 0 ∧
    (∀ n, (State.reset.role k).x n = 0) ∧ (State.reset.role k).acc = [] ∧ (State.reset.role k).copies = []) ∧
  (∀ n, (State.reset.partOr n).launches = [] ∧ (State.reset.asid n).valid = false ∧ State.reset.tag n = tagVALUE)

/-- 05_encoding's worked encodings and those of 06, 07, 08, 10, 14 to 16 and 21: each word is read as the instruction it stands
for. -/
def Obligations.WordsReadRight : Prop :=
  let h : Hdr := { s := false, g := 0, gn := false }
  let x (n : BitVec 5) : MS := { src := .x n, mark := false, reuse := false }
  let v (n : BitVec 7) : MR := { src := .v n, mark := false, reuse := false }
  let at_ (b : BitVec 5) (sc : Scope) (o : Ord) (d : BitVec 8) : MF :=
    { base := .x b, idx := .sp .zero, scope := sc, ord := o, sz := .b8, lbase := false, lidx := false, disp := d }
  decode [0] = .ok (.nop h) ∧
  decode [0xA000000C04080009] = .ok (.vadd { h with s := true } { d := .v 3, a := v 1, b := v 2, ty := .bf16, rm := .rtz }) ∧
  decode [0x230B040F80000000] = .ok (.vmov { h with g := 5, gn := true }
    { d := .v 3, a := { src := .sc (.sp .zero), mark := false, reuse := false }, ty := .fp32, rm := .rne }) ∧
  decode [0x4000021607800C01] = .ok (.ld h (.x 5) (at_ 1 .role .relaxed 1)) ∧
  decode [0x400006626781CC00] = .ok (.st h (.x 24) (at_ 25 .device .rel 0)) ∧
  decode [0x040008BE00000005] = .ok (.brx h .eq (.x 11) (.sp .zero) 5) ∧
  decode [0x020000000FFFFFFD] = .ok (.br h (-3)) ∧
  decode [0x120085FFFFFFFFFE] = .ok (.movk h 5 (-2)) ∧
  decode [0x1100022625FFFF9C] = .ok (.aluiAdd h { d := .x 9, a := .x 9, la := false, imm := -100 }) ∧
  decode [0x1800000C04080000] = .ok (.pand h 3 1 2) ∧
  decode [0x08000800A8000000] = .ok (.trap h 42) ∧
  decode [0x4600000000026000] = .ok (.fence h .group .acqRel) ∧
  decode [0x4A0008000C000000] = .ok (.rpub h 3) ∧
  decode [0x500004022E300000] = .ok (.ppub h { a := x 11, b := x 12 }) ∧
  decode [0x510004022AA40101] = .ok (.cueresV h (x 10) 1 true false) ∧
  decode [0x520002161A1C0000] = .ok (.launch h { d := .x 5, a := x 6, b := x 7 }) ∧
  decode [0x58000C1A122C0000] = .ok (.wnext h { p := 6, a := x 4, b := x 11 }) ∧
  decode [0x3000040000000000, 0, 0, 0, 0, 0, 0x00000002A4F10000, 0x40] =
    .ok (.mdrain false { acc := 0, rows := 64, hsel := 1, hk := 7, fmt := .sx4, rnd := .rne, kind := 1, val := 5, acq := false, rel := false, scp := .role })

/-- R45, R48, R49, R60, R266: what the issue of any syllable leaves alone, where it has a next state. Device memory, but for what
the translation of LREC's record changes (its A bit): stores are performed later, by their requests. The other roles, the other
cores' own state, the launches, time, address spaces, ports and everything else outside the core. The tile stores, but for the bytes
that STT stores, those that settle the slot a sink stream stands in the middle of (SCOMMIT and SRESET, R253), and those of a row
sent to a stream: its 512 bytes of a ring's slot (R210), or the places of its region (R209); poison goes only where every byte of a
granule is among these. -/
def Obligations.IssueFrame : Prop :=
  ∀ (i : Instr) (s t : State), encode i ≠ [] → exec i s = .next t →
    t = { s with mem := t.mem, tlb := t.tlb, tile := t.tile, tpoison := t.tpoison, roles := t.roles, cores := t.cores, chans := t.chans,
                 parts := t.parts, viols := t.viols } ∧
    (∀ k, k ≠ s.curKey → t.role k = s.role k) ∧ (∀ c, c ≠ s.curKey / 4 → t.core c = s.core c) ∧
    (∀ p, t.partOr p = { s.partOr p with spawns := (t.partOr p).spawns }) ∧
    let r := s.curRole
    let core := s.curKey / 4
    let spans (o n q : Nat) : Prop := ∃ p, tileRange r (s.arrBase core) o n = some p ∧ tkey core p ≤ q ∧ q < tkey core p + n
    let settles (y : Strm) (g : Ring) (q : Nat) : Prop := y.bind = 1 ∧ y.sink = true ∧ r.ring? y.ring = some g ∧ y.c % slotVecs g ≠ 0 ∧
      spans (g.slotOff (g.idxOf (y.slotNo g)) + 512 * (y.c % slotVecs g)) (512 * (slotVecs g - y.c % slotVecs g)) q
    let pushes (y : Strm) (q : Nat) : Prop := y.sink = true ∧
      ((∃ g, y.bind = 1 ∧ r.ring? y.ring = some g ∧
          spans (g.slotOff (g.idxOf ((y.rebase g).slotNo g)) + 512 * (y.sp % slotVecs g)) 512 q) ∨
        (y.bind = 0 ∧ ∃ j < 512, ∃ x b, let e := 512 * (if y.sp < y.vectors then y.sp else y.sp % y.vectors) + j
          e < y.seqLen ∧ y.offAt e = some x ∧ tileByte r (s.arrBase core) x.toNat = some b ∧ q = tkey core b))
    let stored (q : Nat) : Prop :=
      (∃ h x m ea, i = .stt h x m ∧ Reads (eaOf m) s ea ∧ spans ea.toNat m.sz.bytes q) ∨
      (∃ h d y g, (i = .scommit h d ∨ i = .sreset h d) ∧ r.strm? d.toNat = some y ∧ settles y g q) ∨
      (∃ w n y, vectorWrites i = some w ∧ w.d = some (.s n) ∧ r.strm? n.toNat = some y ∧ pushes y q)
    ((∀ h a b off, i ≠ .lrec h a b off) → ∀ a, readByte t.mem a = readByte s.mem a) ∧
    (∀ h a b off, i = .lrec h a b off → t.mem = s.mem ∨ ∃ va x, (if a = .sp .zero then va = s.clu.pc else Reads (rdS a) s va) ∧
      translate s core r.asid.toNat (va + off.signExtend 64 * 8) .rd = .ok x ∧ t.mem = x.st.mem) ∧
    (∀ q, ¬ stored q → readByte t.tile q = readByte s.tile q) ∧
    (∀ g, (∃ j < 64, ¬ stored (64 * g + j)) → (g ∈ t.tpoison ↔ g ∈ s.tpoison)) ∧ (∀ g ∈ t.tpoison, g ∈ s.tpoison) ∧
    ((∀ h x m, i ≠ .stt h x m) → (∀ h d, i ≠ .scommit h d ∧ i ≠ .sreset h d) →
      (∀ w, vectorWrites i = some w → ∀ n, w.d ≠ some (.s n)) → t.tile = s.tile ∧ t.tpoison = s.tpoison)
end

