-- ==== Sys2Proof/Laws/Encode.lean ====
section
/-! SUPPORT. The laws of the encoding: every field of a format reads back from the word it was written into, and every
operand shape decodes from its encoding (05_encoding R64, R82 to R97). -/

namespace Sys2Proof

/-! ### Designators -/

theorem decX_enc (n : BitVec 5) : decX (encX n) = some n := by revert n; decide
theorem decK_enc (n : BitVec 5) : decK (encK n) = some n := by revert n; decide
theorem decQw_enc (n : BitVec 3) : decQw (encQw n) = some n := by revert n; decide
theorem decQ_enc (n : BitVec 4) : decQ ((0xA#4) ++ n) = some n := by revert n; decide
theorem decStr_enc (n : BitVec 4) : decStr (encStr n) = some n := by revert n; decide
theorem decP_enc (n : BitVec 7) : decP (encP n) = some n := by revert n; decide
theorem decP_encV (n : BitVec 7) : decP (encV n) = some n := decP_enc n
theorem decRing_enc (n : BitVec 5) : decRing (encRing n) = some n := by revert n; decide
theorem decSSrc_enc (a : SSrc) : decSSrc (encSSrc a) = some a := by
  cases a with
  | x n => revert n; decide
  | q n => revert n; decide
  | k n => revert n; decide
  | sp s => cases s <;> decide
theorem decSDst_enc (a : SDst) : decSDst (encSDst a) = some a := by
  cases a with
  | x n => revert n; decide
  | q n => revert n; decide
theorem decP_encStr (n : BitVec 4) : decP (encStr n) = none := by revert n; decide
theorem decP_encQw (n : BitVec 3) : decP (encQw n) = none := by revert n; decide
theorem decStr_encQw (n : BitVec 3) : decStr (encQw n) = none := by revert n; decide
/-- A scalar designator is none of the row designators. -/
theorem scalar_not_row (a : SSrc) : decP (encSSrc a) = none ∧ decStr (encSSrc a) = none ∧ decQw (encSSrc a) = none ∧
    encSSrc a ≠ 0xE1 := by
  cases a with
  | x n => revert n; decide
  | q n => revert n; decide
  | k n => revert n; decide
  | sp s => cases s <;> decide
theorem decQw_encSDst (a : SDst) : decQw (encSDst a) = none := by
  cases a with
  | x n => revert n; decide
  | q n => revert n; decide
theorem decRSrc_enc (a : RSrc) : decRSrc (encRSrc a) = some a := by
  cases a with
  | v n => simp only [encRSrc, decRSrc, decP_encV]
  | s n => simp only [encRSrc, decRSrc, decP_encStr, decStr_enc]
  | qw n => simp only [encRSrc, decRSrc, decP_encQw, decStr_encQw, decQw_enc]
  | lane => decide
  | sc a =>
    obtain ⟨h1, h2, h3, h4⟩ := scalar_not_row a
    simp only [encRSrc, decRSrc, h1, h2, h3, if_neg h4, decSSrc_enc, Option.map_some]
theorem decRDst_enc (a : RDst) : decRDst (encRDst a) = some a := by
  cases a with
  | v n => simp only [encRDst, decRDst, decP_encV]
  | s n => simp only [encRDst, decRDst, decP_encStr, decStr_enc]
  | qw n => simp only [encRDst, decRDst, decP_encQw, decStr_encQw, decQw_enc, Option.map_some]
theorem decTDst_enc (a : TDst) : decTDst (encTDst a) = some a := by
  cases a with
  | s d => simp only [encTDst, decTDst, decQw_encSDst, decSDst_enc, Option.map_some]
  | qw n => simp only [encTDst, decTDst, decQw_enc]
theorem decTSrc_enc (a : TSrc) : decTSrc (encTSrc a) = some a := by
  cases a with
  | s d => simp only [encTSrc, decTSrc, (scalar_not_row d).2.2.1, decSSrc_enc, Option.map_some]
  | qw n => simp only [encTSrc, decTSrc, decQw_enc]

/-! ### Coded fields -/

theorem decETy_code (t : ETy) : decETy t.code = t := by cases t <;> rfl
theorem decRM_code (t : RM) : decRM t.code = t := by cases t <;> rfl
theorem decOrd_code (t : Ord) : decOrd t.code = t := by cases t <;> rfl
theorem decScope_code (t : Scope) : decScope t.code = some t := by cases t <;> rfl
theorem decSize_code (t : Size) : decSize t.code = some t := by cases t <;> rfl
theorem decTy8_enc (t : ETy) : decTy8 (encTy8 t) = some t := by cases t <;> rfl
theorem decFmt_code (t : Fmt) : decFmt t.code = some t := by
  cases t with
  | el t => cases t <;> rfl
  | _ => rfl
theorem decCond_code (c : Cond) : decCond c.code.toNat = some c := by cases c <;> rfl
theorem decCond_code4 (c : Cond) : decCond (c.code.extractLsb' 0 4).toNat = some c := by cases c <;> rfl
theorem mod5_ty (ty : ETy) (rm : RM) : decETy ((mod5 ty rm).extractLsb' 0 3) = ty := by cases ty <;> cases rm <;> rfl
theorem mod5_rm (ty : ETy) (rm : RM) : decRM ((mod5 ty rm).extractLsb' 3 2) = rm := by cases ty <;> cases rm <;> rfl
theorem tyMod_ty (ty : ETy) : decETy ((tyMod ty).extractLsb' 0 3) = ty := by cases ty <;> rfl
theorem tyMod_rm (ty : ETy) : ((tyMod ty).extractLsb' 3 2 == 0) = true := by cases ty <;> rfl
theorem copyMod_back (o : CopyF) : decScope ((copyMod o).extractLsb' 0 3) = some o.scope ∧ (copyMod o).getLsbD 3 = o.acq ∧
    (copyMod o).getLsbD 4 = o.rel := by
  simp only [copyMod, bit]
  refine ⟨?_, ?_, ?_⟩
  · simp (disch := omega) only [BitVec.extractLsb'_append_eq_of_add_le]; simp [decScope_code]
  · simp only [BitVec.getLsbD_append]; simp
  · simp only [BitVec.getLsbD_append]; simp
theorem sendMod_back (o : SendF) : decScope ((sendMod o).extractLsb' 0 3) = some o.scope ∧ (sendMod o).getLsbD 3 = false ∧
    (sendMod o).getLsbD 4 = o.rel := by
  simp only [sendMod, bit]
  refine ⟨?_, ?_, ?_⟩
  · simp (disch := omega) only [BitVec.extractLsb'_append_eq_of_add_le]; simp [decScope_code]
  · simp only [BitVec.getLsbD_append]; simp
  · simp only [BitVec.getLsbD_append]; simp

/-! ### The fields of each format -/
theorem hdrOf_encR (h : Hdr) (maj mn f) : hdrOf (encR h maj mn f) = h := by
  rcases h with ⟨s, g, gn⟩
  simp only [hdrOf, encR, bitAt, bit, Hdr.mk.injEq]
  refine ⟨?_, ?_, ?_⟩
  · simp only [BitVec.getLsbD_append]; simp
  · simp (disch := omega) only [BitVec.extractLsb'_append_eq_of_le, BitVec.extractLsb'_append_eq_of_add_le]; simp
  · simp only [BitVec.getLsbD_append]; simp
theorem majOf_encR (h : Hdr) (maj mn f) : majOf (encR h maj mn f) = maj := by
  simp only [majOf, encR, bit]
  simp (disch := omega) only [BitVec.extractLsb'_append_eq_of_le, BitVec.extractLsb'_append_eq_of_add_le]; simp
theorem min6_encR (h : Hdr) (maj mn f) : min6 (encR h maj mn f) = mn := by
  simp only [min6, encR, bit]
  simp (disch := omega) only [BitVec.extractLsb'_append_eq_of_le, BitVec.extractLsb'_append_eq_of_add_le]; simp
theorem hdrOf_encI (h : Hdr) (maj mn o) : hdrOf (encI h maj mn o) = h := by
  rcases h with ⟨s, g, gn⟩
  simp only [hdrOf, encI, bitAt, bit, Hdr.mk.injEq]
  refine ⟨?_, ?_, ?_⟩
  · simp only [BitVec.getLsbD_append]; simp
  · simp (disch := omega) only [BitVec.extractLsb'_append_eq_of_le, BitVec.extractLsb'_append_eq_of_add_le]; simp
  · simp only [BitVec.getLsbD_append]; simp
theorem majOf_encI (h : Hdr) (maj mn o) : majOf (encI h maj mn o) = maj := by
  simp only [majOf, encI, bit]
  simp (disch := omega) only [BitVec.extractLsb'_append_eq_of_le, BitVec.extractLsb'_append_eq_of_add_le]; simp
theorem min6_encI (h : Hdr) (maj mn o) : min6 (encI h maj mn o) = mn := by
  simp only [min6, encI, bit]
  simp (disch := omega) only [BitVec.extractLsb'_append_eq_of_le, BitVec.extractLsb'_append_eq_of_add_le]; simp
theorem iD_encI (h : Hdr) (maj mn o) : iD (encI h maj mn o) = encSDst o.d := by
  simp only [iD, encI, bit]
  simp (disch := omega) only [BitVec.extractLsb'_append_eq_of_le, BitVec.extractLsb'_append_eq_of_add_le]; simp
theorem iA_encI (h : Hdr) (maj mn o) : iA (encI h maj mn o) = encSSrc o.a := by
  simp only [iA, encI, bit]
  simp (disch := omega) only [BitVec.extractLsb'_append_eq_of_le, BitVec.extractLsb'_append_eq_of_add_le]; simp
theorem iLA_encI (h : Hdr) (maj mn o) : iLA (encI h maj mn o) = o.la := by
  simp only [iLA, encI, bit, bitAt]
  simp only [BitVec.getLsbD_append]; simp
theorem iImm_encI (h : Hdr) (maj mn o) : iImm (encI h maj mn o) = o.imm := by
  simp only [iImm, encI, bit]
  simp (disch := omega) only [BitVec.extractLsb'_append_eq_of_add_le]; simp
theorem hdrOf_encCsr (h : Hdr) (mn d a la imm) : hdrOf (encCsr h mn d a la imm) = h := by
  rcases h with ⟨s, g, gn⟩
  simp only [hdrOf, encCsr, bitAt, bit, Hdr.mk.injEq]
  refine ⟨?_, ?_, ?_⟩
  · simp only [BitVec.getLsbD_append]; simp
  · simp (disch := omega) only [BitVec.extractLsb'_append_eq_of_le, BitVec.extractLsb'_append_eq_of_add_le]; simp
  · simp only [BitVec.getLsbD_append]; simp
theorem majOf_encCsr (h : Hdr) (mn d a la imm) : majOf (encCsr h mn d a la imm) = 0x53 := by
  simp only [majOf, encCsr, bit]
  simp (disch := omega) only [BitVec.extractLsb'_append_eq_of_le, BitVec.extractLsb'_append_eq_of_add_le]; simp
theorem min6_encCsr (h : Hdr) (mn d a la imm) : min6 (encCsr h mn d a la imm) = mn := by
  simp only [min6, encCsr, bit]
  simp (disch := omega) only [BitVec.extractLsb'_append_eq_of_le, BitVec.extractLsb'_append_eq_of_add_le]; simp
theorem iD_encCsr (h : Hdr) (mn d a la imm) : iD (encCsr h mn d a la imm) = d := by
  simp only [iD, encCsr, bit]
  simp (disch := omega) only [BitVec.extractLsb'_append_eq_of_le, BitVec.extractLsb'_append_eq_of_add_le]; simp
theorem iA_encCsr (h : Hdr) (mn d a la imm) : iA (encCsr h mn d a la imm) = a := by
  simp only [iA, encCsr, bit]
  simp (disch := omega) only [BitVec.extractLsb'_append_eq_of_le, BitVec.extractLsb'_append_eq_of_add_le]; simp
theorem iLA_encCsr (h : Hdr) (mn d a la imm) : iLA (encCsr h mn d a la imm) = la := by
  simp only [iLA, encCsr, bit, bitAt]
  simp only [BitVec.getLsbD_append]; simp
theorem iImm_encCsr (h : Hdr) (mn d a la imm) : iImm (encCsr h mn d a la imm) = imm := by
  simp only [iImm, encCsr, bit]
  simp (disch := omega) only [BitVec.extractLsb'_append_eq_of_add_le]; simp
theorem hdrOf_encKf (h : Hdr) (maj x imm) : hdrOf (encKf h maj x imm) = h := by
  rcases h with ⟨s, g, gn⟩
  simp only [hdrOf, encKf, bitAt, bit, Hdr.mk.injEq]
  refine ⟨?_, ?_, ?_⟩
  · simp only [BitVec.getLsbD_append]; simp
  · simp (disch := omega) only [BitVec.extractLsb'_append_eq_of_le, BitVec.extractLsb'_append_eq_of_add_le]; simp
  · simp only [BitVec.getLsbD_append]; simp
theorem majOf_encKf (h : Hdr) (maj x imm) : majOf (encKf h maj x imm) = maj := by
  simp only [majOf, encKf, bit]
  simp (disch := omega) only [BitVec.extractLsb'_append_eq_of_le, BitVec.extractLsb'_append_eq_of_add_le]; simp
theorem kD_encKf (h : Hdr) (maj x imm) : kD (encKf h maj x imm) = encX x := by
  simp only [kD, encKf, bit]
  simp (disch := omega) only [BitVec.extractLsb'_append_eq_of_le, BitVec.extractLsb'_append_eq_of_add_le]; simp
theorem kImm_encKf (h : Hdr) (maj x imm) : kImm (encKf h maj x imm) = imm := by
  simp only [kImm, encKf, bit]
  simp (disch := omega) only [BitVec.extractLsb'_append_eq_of_add_le]; simp
theorem hdrOf_encB (h : Hdr) (maj mn a b off) : hdrOf (encB h maj mn a b off) = h := by
  rcases h with ⟨s, g, gn⟩
  simp only [hdrOf, encB, bitAt, bit, Hdr.mk.injEq]
  refine ⟨?_, ?_, ?_⟩
  · simp only [BitVec.getLsbD_append]; simp
  · simp (disch := omega) only [BitVec.extractLsb'_append_eq_of_le, BitVec.extractLsb'_append_eq_of_add_le]; simp
  · simp only [BitVec.getLsbD_append]; simp
theorem majOf_encB (h : Hdr) (maj mn a b off) : majOf (encB h maj mn a b off) = maj := by
  simp only [majOf, encB, bit]
  simp (disch := omega) only [BitVec.extractLsb'_append_eq_of_le, BitVec.extractLsb'_append_eq_of_add_le]; simp
theorem bMin_encB (h : Hdr) (maj mn a b off) : bMin (encB h maj mn a b off) = mn := by
  simp only [bMin, encB, bit]
  simp (disch := omega) only [BitVec.extractLsb'_append_eq_of_le, BitVec.extractLsb'_append_eq_of_add_le]; simp
theorem bA_encB (h : Hdr) (maj mn a b off) : bA (encB h maj mn a b off) = a := by
  simp only [bA, encB, bit]
  simp (disch := omega) only [BitVec.extractLsb'_append_eq_of_le, BitVec.extractLsb'_append_eq_of_add_le]; simp
theorem bB_encB (h : Hdr) (maj mn a b off) : bB (encB h maj mn a b off) = b := by
  simp only [bB, encB, bit]
  simp (disch := omega) only [BitVec.extractLsb'_append_eq_of_le, BitVec.extractLsb'_append_eq_of_add_le]; simp
theorem bOff_encB (h : Hdr) (maj mn a b off) : bOff (encB h maj mn a b off) = off := by
  simp only [bOff, encB, bit]
  simp (disch := omega) only [BitVec.extractLsb'_append_eq_of_add_le]; simp
theorem hdrOf_encM (h : Hdr) (maj mn t m) : hdrOf (encM h maj mn t m) = h := by
  rcases h with ⟨s, g, gn⟩
  simp only [hdrOf, encM, bitAt, bit, Hdr.mk.injEq]
  refine ⟨?_, ?_, ?_⟩
  · simp only [BitVec.getLsbD_append]; simp
  · simp (disch := omega) only [BitVec.extractLsb'_append_eq_of_le, BitVec.extractLsb'_append_eq_of_add_le]; simp
  · simp only [BitVec.getLsbD_append]; simp
theorem majOf_encM (h : Hdr) (maj mn t m) : majOf (encM h maj mn t m) = maj := by
  simp only [majOf, encM, bit]
  simp (disch := omega) only [BitVec.extractLsb'_append_eq_of_le, BitVec.extractLsb'_append_eq_of_add_le]; simp
theorem min6_encM (h : Hdr) (maj mn t m) : min6 (encM h maj mn t m) = mn := by
  simp only [min6, encM, bit]
  simp (disch := omega) only [BitVec.extractLsb'_append_eq_of_le, BitVec.extractLsb'_append_eq_of_add_le]; simp
theorem mT_encM (h : Hdr) (maj mn t m) : mT (encM h maj mn t m) = t := by
  simp only [mT, encM, bit]
  simp (disch := omega) only [BitVec.extractLsb'_append_eq_of_le, BitVec.extractLsb'_append_eq_of_add_le]; simp
theorem mBase_encM (h : Hdr) (maj mn t m) : mBase (encM h maj mn t m) = encSSrc m.base := by
  simp only [mBase, encM, bit]
  simp (disch := omega) only [BitVec.extractLsb'_append_eq_of_le, BitVec.extractLsb'_append_eq_of_add_le]; simp
theorem mIdx_encM (h : Hdr) (maj mn t m) : mIdx (encM h maj mn t m) = encSSrc m.idx := by
  simp only [mIdx, encM, bit]
  simp (disch := omega) only [BitVec.extractLsb'_append_eq_of_le, BitVec.extractLsb'_append_eq_of_add_le]; simp
theorem hdrOf_encAtomD (h : Hdr) (x m) : hdrOf (encAtomD h x m) = h := by
  rcases h with ⟨s, g, gn⟩
  simp only [hdrOf, encAtomD, bitAt, bit, Hdr.mk.injEq]
  refine ⟨?_, ?_, ?_⟩
  · simp only [BitVec.getLsbD_append]; simp
  · simp (disch := omega) only [BitVec.extractLsb'_append_eq_of_le, BitVec.extractLsb'_append_eq_of_add_le]; simp
  · simp only [BitVec.getLsbD_append]; simp
theorem majOf_encAtomD (h : Hdr) (x m) : majOf (encAtomD h x m) = 0x45 := by
  simp only [majOf, encAtomD, bit]
  simp (disch := omega) only [BitVec.extractLsb'_append_eq_of_le, BitVec.extractLsb'_append_eq_of_add_le]; simp
theorem min6_encAtomD (h : Hdr) (x m) : min6 (encAtomD h x m) = 1 := by
  simp only [min6, encAtomD, bit]
  simp (disch := omega) only [BitVec.extractLsb'_append_eq_of_le, BitVec.extractLsb'_append_eq_of_add_le]; simp
theorem mT_encAtomD (h : Hdr) (x m) : mT (encAtomD h x m) = encX x := by
  simp only [mT, encAtomD, bit]
  simp (disch := omega) only [BitVec.extractLsb'_append_eq_of_le, BitVec.extractLsb'_append_eq_of_add_le]; simp
theorem mBase_encAtomD (h : Hdr) (x m) : mBase (encAtomD h x m) = encSSrc m.base := by
  simp only [mBase, encAtomD, bit]
  simp (disch := omega) only [BitVec.extractLsb'_append_eq_of_le, BitVec.extractLsb'_append_eq_of_add_le]; simp
theorem mIdx_encAtomD (h : Hdr) (x m) : mIdx (encAtomD h x m) = encK m.lvl := by
  simp only [mIdx, encAtomD, bit]
  simp (disch := omega) only [BitVec.extractLsb'_append_eq_of_le, BitVec.extractLsb'_append_eq_of_add_le]; simp
theorem hdrOf_encFence (h : Hdr) (sc od) : hdrOf (encFence h sc od) = h := by
  rcases h with ⟨s, g, gn⟩
  simp only [hdrOf, encFence, bitAt, bit, Hdr.mk.injEq]
  refine ⟨?_, ?_, ?_⟩
  · simp only [BitVec.getLsbD_append]; simp
  · simp (disch := omega) only [BitVec.extractLsb'_append_eq_of_le, BitVec.extractLsb'_append_eq_of_add_le]; simp
  · simp only [BitVec.getLsbD_append]; simp
theorem majOf_encFence (h : Hdr) (sc od) : majOf (encFence h sc od) = 0x46 := by
  simp only [majOf, encFence, bit]
  simp (disch := omega) only [BitVec.extractLsb'_append_eq_of_le, BitVec.extractLsb'_append_eq_of_add_le]; simp
theorem min6_encFence (h : Hdr) (sc od) : min6 (encFence h sc od) = 0 := by
  simp only [min6, encFence, bit]
  simp (disch := omega) only [BitVec.extractLsb'_append_eq_of_le, BitVec.extractLsb'_append_eq_of_add_le]; simp
theorem hdrOf_encHint (h : Hdr) (maj p) : hdrOf (encHint h maj p) = h := by
  rcases h with ⟨s, g, gn⟩
  simp only [hdrOf, encHint, bitAt, bit, Hdr.mk.injEq]
  refine ⟨?_, ?_, ?_⟩
  · simp only [BitVec.getLsbD_append]; simp
  · simp (disch := omega) only [BitVec.extractLsb'_append_eq_of_le, BitVec.extractLsb'_append_eq_of_add_le]; simp
  · simp only [BitVec.getLsbD_append]; simp
theorem majOf_encHint (h : Hdr) (maj p) : majOf (encHint h maj p) = maj := by
  simp only [majOf, encHint, bit]
  simp (disch := omega) only [BitVec.extractLsb'_append_eq_of_le, BitVec.extractLsb'_append_eq_of_add_le]; simp
theorem rfOf_encR (h : Hdr) (maj mn f) : rfOf (encR h maj mn f) = f := by
  rcases f with ⟨d, a, b, c, la, lb, lc, ua, ub, m⟩
  simp only [rfOf, encR, bitAt, bit, RF.mk.injEq]
  refine ⟨?_, ?_, ?_, ?_, ?_, ?_, ?_, ?_, ?_, ?_⟩ <;>
  first
  | (simp only [BitVec.getLsbD_append]; simp)
  | (simp (disch := omega) only [BitVec.extractLsb'_append_eq_of_le, BitVec.extractLsb'_append_eq_of_add_le]; simp)
theorem decI1_enc (h : Hdr) (maj mn o) : decI1 (encI h maj mn o) = some o := by
  rcases o with ⟨d, a, la, i⟩
  simp [decI1, iD_encI, iA_encI, iLA_encI, iImm_encI, decSDst_enc, decSSrc_enc]
theorem decMF_enc (h : Hdr) (maj mn t m) : decMF (encM h maj mn t m) = some m := by
  rcases m with ⟨base, idx, sc, od, sz, lb, li, disp⟩
  have h1 : (encM h maj mn t ⟨base, idx, sc, od, sz, lb, li, disp⟩).extractLsb' 15 3 = sc.code := by
    simp only [encM, bit]
    simp (disch := omega) only [BitVec.extractLsb'_append_eq_of_le, BitVec.extractLsb'_append_eq_of_add_le]; simp
  have h2 : (encM h maj mn t ⟨base, idx, sc, od, sz, lb, li, disp⟩).extractLsb' 13 2 = od.code := by
    simp only [encM, bit]
    simp (disch := omega) only [BitVec.extractLsb'_append_eq_of_le, BitVec.extractLsb'_append_eq_of_add_le]; simp
  have h3 : (encM h maj mn t ⟨base, idx, sc, od, sz, lb, li, disp⟩).extractLsb' 10 3 = sz.code := by
    simp only [encM, bit]
    simp (disch := omega) only [BitVec.extractLsb'_append_eq_of_le, BitVec.extractLsb'_append_eq_of_add_le]; simp
  have h4 : (encM h maj mn t ⟨base, idx, sc, od, sz, lb, li, disp⟩).extractLsb' 0 8 = disp := by
    simp only [encM, bit]
    simp (disch := omega) only [BitVec.extractLsb'_append_eq_of_add_le]; simp
  have h5 : bitAt (encM h maj mn t ⟨base, idx, sc, od, sz, lb, li, disp⟩) 9 = lb := by
    simp only [encM, bit, bitAt]
    simp only [BitVec.getLsbD_append]; simp
  have h6 : bitAt (encM h maj mn t ⟨base, idx, sc, od, sz, lb, li, disp⟩) 8 = li := by
    simp only [encM, bit, bitAt]
    simp only [BitVec.getLsbD_append]; simp
  simp [decMF, mBase_encM, mIdx_encM, decSSrc_enc, h1, h2, h3, h4, h5, h6, decScope_code, decSize_code, decOrd_code]
theorem decAtomD_enc (h : Hdr) (x m) : decAtomD (encAtomD h x m) = some m := by
  rcases m with ⟨base, lvl, sc, lb, li, disp⟩
  have h1 : (encAtomD h x ⟨base, lvl, sc, lb, li, disp⟩).extractLsb' 15 3 = sc.code := by
    simp only [encAtomD, bit]
    simp (disch := omega) only [BitVec.extractLsb'_append_eq_of_le, BitVec.extractLsb'_append_eq_of_add_le]; simp
  have h2 : (encAtomD h x ⟨base, lvl, sc, lb, li, disp⟩).extractLsb' 13 2 = 0 := by
    simp only [encAtomD, bit]
    simp (disch := omega) only [BitVec.extractLsb'_append_eq_of_le, BitVec.extractLsb'_append_eq_of_add_le]; simp
  have h3 : (encAtomD h x ⟨base, lvl, sc, lb, li, disp⟩).extractLsb' 10 3 = 2 := by
    simp only [encAtomD, bit]
    simp (disch := omega) only [BitVec.extractLsb'_append_eq_of_le, BitVec.extractLsb'_append_eq_of_add_le]; simp
  have h4 : (encAtomD h x ⟨base, lvl, sc, lb, li, disp⟩).extractLsb' 0 8 = disp := by
    simp only [encAtomD, bit]
    simp (disch := omega) only [BitVec.extractLsb'_append_eq_of_add_le]; simp
  have h5 : bitAt (encAtomD h x ⟨base, lvl, sc, lb, li, disp⟩) 9 = lb := by
    simp only [encAtomD, bit, bitAt]
    simp only [BitVec.getLsbD_append]; simp
  have h6 : bitAt (encAtomD h x ⟨base, lvl, sc, lb, li, disp⟩) 8 = li := by
    simp only [encAtomD, bit, bitAt]
    simp only [BitVec.getLsbD_append]; simp
  simp [decAtomD, mBase_encAtomD, mIdx_encAtomD, decSSrc_enc, decK_enc, h1, h2, h3, h4, h5, h6, decScope_code]
theorem decFence_enc (h : Hdr) (sc od) : decFence (encFence h sc od) = some (sc, od) := by
  have h1 : (encFence h sc od).extractLsb' 15 3 = sc.code := by
    simp only [encFence, bit]
    simp (disch := omega) only [BitVec.extractLsb'_append_eq_of_le, BitVec.extractLsb'_append_eq_of_add_le]; simp
  have h2 : (encFence h sc od).extractLsb' 13 2 = od.code := by
    simp only [encFence, bit]
    simp (disch := omega) only [BitVec.extractLsb'_append_eq_of_le, BitVec.extractLsb'_append_eq_of_add_le]; simp
  have h3 : (encFence h sc od).extractLsb' 18 30 = 0 := by
    simp only [encFence, bit]
    simp (disch := omega) only [BitVec.extractLsb'_append_eq_of_le, BitVec.extractLsb'_append_eq_of_add_le]; simp
  have h4 : (encFence h sc od).extractLsb' 0 13 = 0 := by
    simp only [encFence, bit]
    simp (disch := omega) only [BitVec.extractLsb'_append_eq_of_add_le]; simp
  simp [decFence, h1, h2, h3, h4, decScope_code, decOrd_code]
theorem hint_payload (h : Hdr) (maj p) : (encHint h maj p).extractLsb' 0 48 = p := by
  simp only [encHint, bit]
  simp (disch := omega) only [BitVec.extractLsb'_append_eq_of_add_le]; simp

/-! ### Operand shapes -/

theorem none_zero : RF.zero.none = true := by decide
theorem s1_enc (o : S1) : (rS1 o).s1 = some o := by
  rcases o with ⟨d, ⟨a, la, ua⟩⟩
  simp [RF.s1, rS1, RF.zero, RF.wD, RF.wA, RF.noB, RF.noC, RF.noMod, ok, decSSrc_enc, decSDst_enc, RF.msA]
theorem s2_enc (o : S2) : (rS2 o).s2 = some o := by
  rcases o with ⟨d, ⟨a, la, ua⟩, ⟨b, lb, ub⟩⟩
  simp [RF.s2, rS2, RF.zero, RF.wD, RF.wA, RF.wB, RF.noC, RF.noMod, ok, decSSrc_enc, decSDst_enc, RF.msA, RF.msB]
theorem s3_enc (o : S3) : (rS3 o).s3 = some o := by
  rcases o with ⟨d, ⟨a, la, ua⟩, ⟨b, lb, ub⟩, ⟨c, lc⟩⟩
  simp [RF.s3, rS3, RF.zero, RF.wD, RF.wA, RF.wB, RF.wC, RF.noMod, ok, decSSrc_enc, decSDst_enc, RF.msA, RF.msB, RF.csC]
theorem a1_enc (a : MS) : (rA1 a).a1 = some a := by
  rcases a with ⟨a, la, ua⟩
  simp [RF.a1, rA1, RF.zero, RF.wA, RF.noD, RF.noB, RF.noC, RF.noMod, ok, decSSrc_enc, RF.msA]
theorem a2_enc (o : A2) : (rA2 o).a2 = some o := by
  rcases o with ⟨⟨a, la, ua⟩, ⟨b, lb, ub⟩⟩
  simp [RF.a2, rA2, RF.zero, RF.wA, RF.wB, RF.noD, RF.noC, RF.noMod, ok, decSSrc_enc, RF.msA, RF.msB]
theorem p2_enc (o : P2) : (rP2 o).p2 = some o := by
  rcases o with ⟨p, ⟨a, la, ua⟩, ⟨b, lb, ub⟩⟩
  simp [RF.p2, rP2, RF.zero, RF.wD, RF.wA, RF.wB, RF.noC, RF.noMod, ok, decSSrc_enc, decP_enc, RF.msA, RF.msB]
theorem ppp_enc (d a b : BitVec 7) : (rPPP d a b).ppp = some (d, a, b) := by
  simp [RF.ppp, rPPP, RF.zero, RF.noMA, RF.noMB, RF.noC, RF.noMod, ok, decP_enc]
theorem pp_enc (d a : BitVec 7) : (rPP d a).pp = some (d, a) := by
  simp [RF.pp, rPP, RF.zero, RF.noMA, RF.noB, RF.noC, RF.noMod, ok, decP_enc]
theorem pgetx_enc (d : SDst) (a : BitVec 7) (b : MS) : (rPgetx d a b).pgetx = some (d, a, b) := by
  rcases b with ⟨b, lb, ub⟩
  simp [RF.pgetx, rPgetx, RF.zero, RF.wB, RF.noMA, RF.noC, RF.noMod, ok, decP_enc, decSDst_enc, decSSrc_enc, RF.msB]
theorem pcnt_enc (d : SDst) (a : BitVec 7) (ty : ETy) : (rPcnt d a ty).pcnt = some (d, a, ty) := by
  simp only [RF.pcnt, rPcnt, RF.zero, RF.noMA, RF.noB, RF.noC, RF.noRm, RF.ty, ok, decP_enc, decSDst_enc, tyMod_ty, tyMod_rm]
  rfl
theorem v1_enc (o : V1) : (rV1 o).v1 = some o := by
  rcases o with ⟨d, ⟨a, la, ua⟩, ty, rm⟩
  simp [RF.v1, rV1, RF.zero, RF.wD, RF.wRA, RF.wMod, RF.noB, RF.noC, ok, decRDst_enc, decRSrc_enc, RF.mrA, RF.ty, RF.rm, mod5_ty, mod5_rm]
theorem v2_enc (o : V2) : (rV2 o).v2 = some o := by
  rcases o with ⟨d, ⟨a, la, ua⟩, ⟨b, lb, ub⟩, ty, rm⟩
  simp [RF.v2, rV2, RF.zero, RF.wD, RF.wRA, RF.wRB, RF.wMod, RF.noC, ok, decRDst_enc, decRSrc_enc, RF.mrA, RF.mrB, RF.ty, RF.rm, mod5_ty, mod5_rm]
theorem v3_enc (o : V3) : (rV3 o).v3 = some o := by
  rcases o with ⟨d, ⟨a, la, ua⟩, ⟨b, lb, ub⟩, ⟨c, lc⟩, ty, rm⟩
  simp [RF.v3, rV3, RF.zero, RF.wD, RF.wRA, RF.wRB, RF.wRC, RF.wMod, decRDst_enc, decRSrc_enc, RF.mrA, RF.mrB, RF.crC, RF.ty, RF.rm, mod5_ty, mod5_rm]
theorem vc_enc (o : VC) : (rVC o).vc = some o := by
  rcases o with ⟨p, ⟨a, la, ua⟩, ⟨b, lb, ub⟩, ty⟩
  have := tyMod_rm ty
  simp_all [RF.vc, rVC, RF.zero, RF.wD, RF.wRA, RF.wRB, RF.wMod, RF.noC, RF.noRm, ok, decP_enc, decRSrc_enc, RF.mrA, RF.mrB, RF.ty, tyMod_ty]
theorem vsel_enc (o : VSelF) : (rVSel o).vsel = some o := by
  rcases o with ⟨d, ⟨a, la, ua⟩, ⟨b, lb, ub⟩, p, ty⟩
  have := tyMod_rm ty
  simp_all [RF.vsel, rVSel, RF.zero, RF.wD, RF.wRA, RF.wRB, RF.wMod, RF.noRm, ok, decP_enc, decRDst_enc, decRSrc_enc, RF.mrA, RF.mrB, RF.ty, tyMod_ty]
theorem vrs_enc (o : VRS) : (rVRS o).vrs = some o := by
  rcases o with ⟨d, ⟨a, la, ua⟩, ⟨b, lb, ub⟩, ty⟩
  have := tyMod_rm ty
  simp_all [RF.vrs, rVRS, RF.zero, RF.wD, RF.wRA, RF.wB, RF.wMod, RF.noC, RF.noRm, ok, decRDst_enc, decRSrc_enc, decSSrc_enc, RF.mrA, RF.msB, RF.ty, tyMod_ty]
theorem vlane_enc (o : VLaneF) : (rVLane o).vlane = some o := by
  rcases o with ⟨d, ⟨a, la, ua⟩, ⟨b, lb, ub⟩, ty⟩
  have := tyMod_rm ty
  simp_all [RF.vlane, rVLane, RF.zero, RF.wD, RF.wRA, RF.wB, RF.wMod, RF.noC, RF.noRm, ok, decSDst_enc, decRSrc_enc, decSSrc_enc, RF.mrA, RF.msB, RF.ty, tyMod_ty]
theorem vins_enc (o : VInsF) : (rVIns o).vins = some o := by
  rcases o with ⟨d, ⟨a, la, ua⟩, ⟨b, lb, ub⟩, ty⟩
  have := tyMod_rm ty
  simp_all [RF.vins, rVIns, RF.zero, RF.wD, RF.wA, RF.wB, RF.wMod, RF.noC, RF.noRm, ok, decP_encV, decSSrc_enc, RF.msA, RF.msB, RF.ty, tyMod_ty]
theorem vcvt_enc (o : VCvtF) : (rVCvt o).vcvt = some o := by
  rcases o with ⟨d, ⟨a, la, ua⟩, ⟨k, lk, uk⟩, t1, t2, rm⟩
  simp [RF.vcvt, rVCvt, RF.zero, RF.wD, RF.wRA, RF.wMod, ok, decRDst_enc, decRSrc_enc, decK_enc, decTy8_enc, RF.kB, RF.mrA, RF.ty, RF.rm, mod5_ty, mod5_rm]
theorem vred_enc (o : VRedF) : (rVRed o).vred = some o := by
  rcases o with ⟨d, ⟨a, la, ua⟩, ty, rm⟩
  simp [RF.vred, rVRed, RF.zero, RF.wD, RF.wRA, RF.wMod, RF.noB, RF.noC, ok, decSDst_enc, decRSrc_enc, RF.mrA, RF.ty, RF.rm, mod5_ty, mod5_rm]
theorem vzip_enc (o : VZipF) : (rVZip o).vzip = some o := by
  rcases o with ⟨d, ⟨a, la, ua⟩, ⟨b, lb, ub⟩, k, lc, ty⟩
  have := tyMod_rm ty
  simp_all [RF.vzip, rVZip, RF.zero, RF.wD, RF.wRA, RF.wRB, RF.wMod, RF.noRm, ok, decRDst_enc, decRSrc_enc, decK_enc, RF.mrA, RF.mrB, RF.ty, tyMod_ty]
theorem vrng_enc (o : VRngF) : (rVRng o).vrng = some o := by
  rcases o with ⟨d, ⟨a, la, ua⟩, ⟨b, lb, ub⟩⟩
  simp [RF.vrng, rVRng, RF.zero, RF.wD, RF.wA, RF.wB, RF.wMod, RF.noC, ok, decRDst_enc, decSSrc_enc, RF.msA, RF.msB]
theorem vrngp_enc (o : VRngPF) : (rVRngP o).vrngp = some o := by
  rcases o with ⟨p, ⟨a, la, ua⟩, ⟨b, lb, ub⟩, ⟨c, lc⟩, ty⟩
  have := tyMod_rm ty
  simp_all [RF.vrngp, rVRngP, RF.zero, RF.wD, RF.wA, RF.wB, RF.wC, RF.wMod, RF.noRm, ok, decP_enc, decSSrc_enc, RF.msA, RF.msB, RF.csC, RF.ty, tyMod_ty]
theorem vsx_enc (o : VSxF) : (rVSx o).vsx = some o := by
  rcases o with ⟨d, ⟨a, la, ua⟩, m, lc, ty, rm⟩
  simp [RF.vsx, rVSx, RF.zero, RF.wD, RF.wRA, RF.wMod, RF.noB, ok, decRDst_enc, decRSrc_enc, decK_enc, RF.mrA, RF.ty, RF.rm, mod5_ty, mod5_rm]
theorem vscale_enc (o : VScaleF) : (rVScale o).vscale = some o := by
  rcases o with ⟨d, ⟨a, la, ua⟩, ⟨b, lb, ub⟩, m, lc, ty⟩
  have := tyMod_rm ty
  simp_all [RF.vscale, rVScale, RF.zero, RF.wD, RF.wRA, RF.wB, RF.wMod, RF.noRm, ok, decRDst_enc, decRSrc_enc, decSSrc_enc, decK_enc, RF.mrA, RF.msB, RF.ty, tyMod_ty]
theorem dOnly_enc (d : SDst) : (rD d).dOnly = some d := by
  simp [RF.dOnly, rD, RF.zero, RF.wD, RF.noA, RF.noB, RF.noC, RF.noMod, ok, decSDst_enc]
theorem copyF_enc (o : CopyF) : (rCopy o).copyF = some o := by
  have h := copyMod_back o
  rcases o with ⟨d, ⟨a, la, ua⟩, ⟨b, lb, ub⟩, q, l, sc⟩
  simp_all [RF.copyF, RF.copyRaw, rCopy, RF.zero, RF.wD, RF.wA, RF.wB, RF.wMod, RF.noC, ok, decX_enc, decSSrc_enc, RF.msA, RF.msB]
theorem copysF_enc (o : CopyF) (c : CS) : (rCopys o c).copysF = some (o, c) := by
  have h := copyMod_back o
  rcases o with ⟨d, ⟨a, la, ua⟩, ⟨b, lb, ub⟩, q, l, sc⟩
  simp_all [RF.copysF, RF.copyRaw, rCopys, rCopy, RF.zero, RF.wD, RF.wA, RF.wB, RF.wC, RF.wMod, decX_enc, decSSrc_enc, RF.msA, RF.msB, RF.csC]
theorem str0_enc (d : BitVec 4) : (rStr0 d).str0 = some d := by
  simp [RF.str0, rStr0, RF.zero, RF.wD, RF.noA, RF.noB, RF.noC, RF.noMod, ok, decStr_enc]
theorem str1_enc (o : Str1) : (rStr1 o).str1 = some o := by
  rcases o with ⟨d, ⟨a, la, ua⟩⟩
  simp [RF.str1, rStr1, RF.zero, RF.wD, RF.wA, RF.noB, RF.noC, RF.noMod, ok, decSSrc_enc, decStr_enc, RF.msA]
theorem str2_enc (o : Str2) : (rStr2 o).str2 = some o := by
  rcases o with ⟨d, ⟨a, la, ua⟩, ⟨b, lb, ub⟩⟩
  simp [RF.str2, rStr2, RF.zero, RF.wD, RF.wA, RF.wB, RF.noC, RF.noMod, ok, decSSrc_enc, decStr_enc, RF.msA, RF.msB]
theorem rdef_enc (r : BitVec 5) (b : MS) : (rRdef r b).rdef = some (r, b) := by
  rcases b with ⟨b, lb, ub⟩
  simp [RF.rdef, rRdef, RF.zero, RF.wB, RF.noD, RF.noMA, RF.noC, RF.noMod, ok, decRing_enc, decSSrc_enc, RF.msB]
theorem rd_enc (d : SDst) (r : BitVec 5) : (rRD d r).rd = some (d, r) := by
  simp [RF.rd, rRD, RF.zero, RF.noMA, RF.noB, RF.noC, RF.noMod, ok, decRing_enc, decSDst_enc]
theorem rg_enc (r : BitVec 5) : (rRG r).rg = some r := by
  simp [RF.rg, rRG, RF.zero, RF.noD, RF.noMA, RF.noB, RF.noC, RF.noMod, ok, decRing_enc]
theorem bar_enc (l : BitVec 5) (u : Bool) : (rBar l u).bar = some (l, u) := by
  simp [RF.bar, rBar, RF.zero, RF.noD, RF.noB, RF.noC, RF.noMod, ok, decK_enc]
theorem spawn_enc (o : SendF) : (rSpawn o).spawn = some o := by
  have h := sendMod_back o
  rcases o with ⟨d, ⟨a, la, ua⟩, ⟨b, lb, ub⟩, l, sc⟩
  simp_all [RF.spawn, RF.sendRaw, rSpawn, RF.zero, RF.wD, RF.wA, RF.wB, RF.wMod, RF.noC, ok, decSSrc_enc, RF.msA, RF.msB]
theorem msg_enc (o : SendF) (c : CS) : (rMsg o c).msg = some (o, c) := by
  have h := sendMod_back o
  rcases o with ⟨d, ⟨a, la, ua⟩, ⟨b, lb, ub⟩, l, sc⟩
  simp_all [RF.msg, RF.sendRaw, rMsg, rSpawn, RF.zero, RF.wD, RF.wA, RF.wB, RF.wC, RF.wMod, ok, decSSrc_enc, RF.msA, RF.msB, RF.csC]
theorem pgrab_enc (p : BitVec 7) (x : BitVec 5) (b : MS) : (rPgrab p x b).pgrab = some (p, x, b) := by
  rcases b with ⟨b, lb, ub⟩
  simp [RF.pgrab, rPgrab, RF.zero, RF.wB, RF.noMA, RF.noC, RF.noMod, ok, decP_enc, decX_enc, decSSrc_enc, RF.msB]
theorem cueV_enc (a : MS) (q : BitVec 3) (lb ub : Bool) : (rCueV a q lb ub).cueV = some (a, q, lb, ub) := by
  rcases a with ⟨a, la, ua⟩
  simp [RF.cueV, rCueV, RF.zero, RF.wA, RF.noD, RF.noC, ok, decQw_enc, decSSrc_enc, RF.msA]
theorem cueV_mod (a : MS) (q : BitVec 3) (lb ub : Bool) : (rCueV a q lb ub).mod = 1 := rfl
theorem rA2_mod (o : A2) : (rA2 o).mod = 0 := rfl
theorem trapN_enc (n : BitVec 8) : (rTrap n).trapN = some n := by
  simp [RF.trapN, rTrap, RF.zero, RF.noD, RF.noMA, RF.noB, RF.noC, RF.noMod, ok]
theorem seqnext_enc (d : SDst) (x : BitVec 5) : (rSeqnext d x).seqnext = some (d, x) := by
  simp [RF.seqnext, rSeqnext, RF.zero, RF.noMA, RF.noB, RF.noC, RF.noMod, ok, decX_enc, decSDst_enc]
theorem qlen_enc (d : SDst) (q : BitVec 4) (u : Bool) : (rQlen d q u).qlen = some (d, q, u) := by
  simp [RF.qlen, rQlen, RF.zero, RF.noB, RF.noC, RF.noMod, ok, decQ_enc, decSDst_enc]
theorem csrNum_enc (h : Hdr) (mn d a la) (n : BitVec 12) : csrNum (encCsr h mn d a la (n.zeroExtend 25)) = some n := by
  simp only [csrNum, iImm_encCsr]
  have h1 : (n.zeroExtend 25).extractLsb' 12 13 = 0 := by
    ext i hi
    simp
  have h2 : (n.zeroExtend 25).extractLsb' 0 12 = n := by
    ext i hi
    simp [hi]
    omega
  rw [if_pos h1, h2]

/-! ### Nest records -/

theorem append_and_zero {w v : Nat} {a b : BitVec w} {c d : BitVec v} (h : a &&& b = 0#w) (k : c &&& d = 0#v) :
    ((a ++ c) &&& (b ++ d)) = 0#(w + v) := by
  rw [BitVec.and_append, h, k]
  ext i
  simp
theorem w6_bm (bm hsel hk dfmt rnd dk dv scen scs acq rel scp) : (nestW6 bm hsel hk dfmt rnd dk dv scen scs acq rel scp).extractLsb' 0 16 = bm := by
  simp only [nestW6, bit]
  simp (disch := omega) only [BitVec.extractLsb'_append_eq_of_add_le]; simp
theorem w6_hsel (bm hsel hk dfmt rnd dk dv scen scs acq rel scp) : (nestW6 bm hsel hk dfmt rnd dk dv scen scs acq rel scp).extractLsb' 16 4 = hsel := by
  simp only [nestW6, bit]
  simp (disch := omega) only [BitVec.extractLsb'_append_eq_of_le, BitVec.extractLsb'_append_eq_of_add_le]; simp
theorem w6_hk (bm hsel hk dfmt rnd dk dv scen scs acq rel scp) : (nestW6 bm hsel hk dfmt rnd dk dv scen scs acq rel scp).extractLsb' 20 3 = hk := by
  simp only [nestW6, bit]
  simp (disch := omega) only [BitVec.extractLsb'_append_eq_of_le, BitVec.extractLsb'_append_eq_of_add_le]; simp
theorem w6_dfmt (bm hsel hk dfmt rnd dk dv scen scs acq rel scp) : (nestW6 bm hsel hk dfmt rnd dk dv scen scs acq rel scp).extractLsb' 23 4 = dfmt := by
  simp only [nestW6, bit]
  simp (disch := omega) only [BitVec.extractLsb'_append_eq_of_le, BitVec.extractLsb'_append_eq_of_add_le]; simp
theorem w6_rnd (bm hsel hk dfmt rnd dk dv scen scs acq rel scp) : (nestW6 bm hsel hk dfmt rnd dk dv scen scs acq rel scp).extractLsb' 27 2 = rnd := by
  simp only [nestW6, bit]
  simp (disch := omega) only [BitVec.extractLsb'_append_eq_of_le, BitVec.extractLsb'_append_eq_of_add_le]; simp
theorem w6_dk (bm hsel hk dfmt rnd dk dv scen scs acq rel scp) : (nestW6 bm hsel hk dfmt rnd dk dv scen scs acq rel scp).extractLsb' 29 2 = dk := by
  simp only [nestW6, bit]
  simp (disch := omega) only [BitVec.extractLsb'_append_eq_of_le, BitVec.extractLsb'_append_eq_of_add_le]; simp
theorem w6_dv (bm hsel hk dfmt rnd dk dv scen scs acq rel scp) : (nestW6 bm hsel hk dfmt rnd dk dv scen scs acq rel scp).extractLsb' 31 13 = dv := by
  simp only [nestW6, bit]
  simp (disch := omega) only [BitVec.extractLsb'_append_eq_of_le, BitVec.extractLsb'_append_eq_of_add_le]; simp
theorem w6_scs (bm hsel hk dfmt rnd dk dv scen scs acq rel scp) : (nestW6 bm hsel hk dfmt rnd dk dv scen scs acq rel scp).extractLsb' 45 4 = scs := by
  simp only [nestW6, bit]
  simp (disch := omega) only [BitVec.extractLsb'_append_eq_of_le, BitVec.extractLsb'_append_eq_of_add_le]; simp
theorem w6_scp (bm hsel hk dfmt rnd dk dv scen scs acq rel scp) : (nestW6 bm hsel hk dfmt rnd dk dv scen scs acq rel scp).extractLsb' 51 3 = scp := by
  simp only [nestW6, bit]
  simp (disch := omega) only [BitVec.extractLsb'_append_eq_of_le, BitVec.extractLsb'_append_eq_of_add_le]; simp
theorem w6_scen (bm hsel hk dfmt rnd dk dv scen scs acq rel scp) : bitAt (nestW6 bm hsel hk dfmt rnd dk dv scen scs acq rel scp) 44 = scen := by
  simp only [nestW6, bit, bitAt]
  simp only [BitVec.getLsbD_append]; simp
theorem w6_acq (bm hsel hk dfmt rnd dk dv scen scs acq rel scp) : bitAt (nestW6 bm hsel hk dfmt rnd dk dv scen scs acq rel scp) 49 = acq := by
  simp only [nestW6, bit, bitAt]
  simp only [BitVec.getLsbD_append]; simp
theorem w6_rel (bm hsel hk dfmt rnd dk dv scen scs acq rel scp) : bitAt (nestW6 bm hsel hk dfmt rnd dk dv scen scs acq rel scp) 50 = rel := by
  simp only [nestW6, bit, bitAt]
  simp only [BitVec.getLsbD_append]; simp
theorem w7_sp (sp bf af rows) : (nestW7 sp bf af rows).extractLsb' 16 16 = sp := by
  simp only [nestW7]
  simp (disch := omega) only [BitVec.extractLsb'_append_eq_of_le, BitVec.extractLsb'_append_eq_of_add_le]; simp
theorem w7_bf (sp bf af rows) : (nestW7 sp bf af rows).extractLsb' 12 4 = bf := by
  simp only [nestW7]
  simp (disch := omega) only [BitVec.extractLsb'_append_eq_of_le, BitVec.extractLsb'_append_eq_of_add_le]; simp
theorem w7_af (sp bf af rows) : (nestW7 sp bf af rows).extractLsb' 8 4 = af := by
  simp only [nestW7]
  simp (disch := omega) only [BitVec.extractLsb'_append_eq_of_le, BitVec.extractLsb'_append_eq_of_add_le]; simp
theorem w7_rows (sp bf af rows) : (nestW7 sp bf af rows).extractLsb' 0 8 = rows := by
  simp only [nestW7]
  simp (disch := omega) only [BitVec.extractLsb'_append_eq_of_add_le]; simp
theorem nestHdr_op (s op prof ar br acc fl) : (nestHdr s op prof ar br acc fl).extractLsb' 40 8 = op := by
  simp only [nestHdr, bit]
  simp (disch := omega) only [BitVec.extractLsb'_append_eq_of_le, BitVec.extractLsb'_append_eq_of_add_le]; simp
theorem nestHdr_prof (s op prof ar br acc fl) : (nestHdr s op prof ar br acc fl).extractLsb' 32 8 = prof := by
  simp only [nestHdr, bit]
  simp (disch := omega) only [BitVec.extractLsb'_append_eq_of_le, BitVec.extractLsb'_append_eq_of_add_le]; simp
theorem nestHdr_ar (s op prof ar br acc fl) : (nestHdr s op prof ar br acc fl).extractLsb' 24 8 = ar := by
  simp only [nestHdr, bit]
  simp (disch := omega) only [BitVec.extractLsb'_append_eq_of_le, BitVec.extractLsb'_append_eq_of_add_le]; simp
theorem nestHdr_br (s op prof ar br acc fl) : (nestHdr s op prof ar br acc fl).extractLsb' 16 8 = br := by
  simp only [nestHdr, bit]
  simp (disch := omega) only [BitVec.extractLsb'_append_eq_of_le, BitVec.extractLsb'_append_eq_of_add_le]; simp
theorem nestHdr_acc (s op prof ar br acc fl) : (nestHdr s op prof ar br acc fl).extractLsb' 8 8 = acc := by
  simp only [nestHdr, bit]
  simp (disch := omega) only [BitVec.extractLsb'_append_eq_of_le, BitVec.extractLsb'_append_eq_of_add_le]; simp
theorem nestHdr_fl (s op prof ar br acc fl) : (nestHdr s op prof ar br acc fl).extractLsb' 0 8 = fl := by
  simp only [nestHdr, bit]
  simp (disch := omega) only [BitVec.extractLsb'_append_eq_of_add_le]; simp
theorem nestHdr_g (s op prof ar br acc fl) : (nestHdr s op prof ar br acc fl).extractLsb' 48 8 = 0 := by
  simp only [nestHdr, bit]
  simp (disch := omega) only [BitVec.extractLsb'_append_eq_of_le, BitVec.extractLsb'_append_eq_of_add_le]; simp
theorem nestHdr_s (s op prof ar br acc fl) : bitAt (nestHdr s op prof ar br acc fl) 63 = s := by
  simp only [nestHdr, bit, bitAt]
  simp only [BitVec.getLsbD_append]; simp
theorem nestHdr_maj (s op prof ar br acc fl) : majOf (nestHdr s op prof ar br acc fl) = 0x30 := by
  simp only [majOf, nestHdr, bit]
  simp (disch := omega) only [BitVec.extractLsb'_append_eq_of_le, BitVec.extractLsb'_append_eq_of_add_le]; simp
theorem quad_back (q : Quad) : quadOf q.word = q := by
  rcases q with ⟨a, b, c, d⟩
  simp only [quadOf, Quad.word, Quad.mk.injEq]
  refine ⟨?_, ?_, ?_, ?_⟩ <;> (simp (disch := omega) only [BitVec.extractLsb'_append_eq_of_le, BitVec.extractLsb'_append_eq_of_add_le]; simp)
theorem w6_mask1 (scen : Bool) (scs : BitVec 4) (acq : Bool) (rel : Bool) (scp : BitVec 3) : (nestW6 0 0 0 0 0 0 0 scen scs acq rel scp &&& ~~~ w6Mask 1) = 0 := by
  rw [show ~~~ w6Mask 1 = (1023#10) ++ (0#3) ++ (0#1) ++ (0#1) ++ (0#4) ++ (0#1) ++ (8191#13) ++ (3#2) ++ (3#2) ++ (15#4) ++ (7#3) ++ (15#4) ++ (65535#16) by decide]
  unfold nestW6
  repeat' refine append_and_zero ?_ ?_
  all_goals simp [bit]
theorem w6_mask2 (bm : BitVec 16) (scen : Bool) (scs : BitVec 4) (acq : Bool) (rel : Bool) (scp : BitVec 3) : (nestW6 bm 0 0 0 0 0 0 scen scs acq rel scp &&& ~~~ w6Mask 2) = 0 := by
  rw [show ~~~ w6Mask 2 = (1023#10) ++ (0#3) ++ (0#1) ++ (0#1) ++ (0#4) ++ (0#1) ++ (8191#13) ++ (3#2) ++ (3#2) ++ (15#4) ++ (7#3) ++ (15#4) ++ (0#16) by decide]
  unfold nestW6
  repeat' refine append_and_zero ?_ ?_
  all_goals simp [bit]
theorem w6_mask3 (hsel : BitVec 4) (hk : BitVec 3) : (nestW6 0 hsel hk 0 0 0 0 false 0 false false 0 &&& ~~~ w6Mask 3) = 0 := by
  rw [show ~~~ w6Mask 3 = (1023#10) ++ (7#3) ++ (1#1) ++ (1#1) ++ (15#4) ++ (1#1) ++ (8191#13) ++ (3#2) ++ (3#2) ++ (15#4) ++ (0#3) ++ (0#4) ++ (65535#16) by decide]
  unfold nestW6
  repeat' refine append_and_zero ?_ ?_
  all_goals simp [bit]
theorem w6_mask4 (hsel : BitVec 4) (hk : BitVec 3) (dfmt : BitVec 4) (rnd : BitVec 2) (dk : BitVec 2) (dv : BitVec 13) (acq : Bool) (rel : Bool) (scp : BitVec 3) : (nestW6 0 hsel hk dfmt rnd dk dv false 0 acq rel scp &&& ~~~ w6Mask 4) = 0 := by
  rw [show ~~~ w6Mask 4 = (1023#10) ++ (0#3) ++ (0#1) ++ (0#1) ++ (15#4) ++ (1#1) ++ (0#13) ++ (0#2) ++ (0#2) ++ (0#4) ++ (0#3) ++ (0#4) ++ (65535#16) by decide]
  unfold nestW6
  repeat' refine append_and_zero ?_ ?_
  all_goals simp [bit]
theorem w6_mask6 (dfmt : BitVec 4) (dk : BitVec 2) (dv : BitVec 13) (acq : Bool) (scp : BitVec 3) : (nestW6 0 0 0 dfmt 0 dk dv false 0 acq false scp &&& ~~~ w6Mask 6) = 0 := by
  rw [show ~~~ w6Mask 6 = (1023#10) ++ (0#3) ++ (1#1) ++ (0#1) ++ (15#4) ++ (1#1) ++ (0#13) ++ (0#2) ++ (3#2) ++ (0#4) ++ (7#3) ++ (15#4) ++ (65535#16) by decide]
  unfold nestW6
  repeat' refine append_and_zero ?_ ?_
  all_goals simp [bit]
theorem w6_mask5  : (nestW6 0 0 0 0 0 0 0 false 0 false false 0 &&& ~~~ w6Mask 5) = 0 := by
  rw [show ~~~ w6Mask 5 = (1023#10) ++ (7#3) ++ (1#1) ++ (1#1) ++ (15#4) ++ (1#1) ++ (8191#13) ++ (3#2) ++ (3#2) ++ (15#4) ++ (7#3) ++ (15#4) ++ (65535#16) by decide]
  unfold nestW6
  repeat' refine append_and_zero ?_ ?_
  all_goals simp [bit]
theorem w6_mask7  : (nestW6 0 0 0 0 0 0 0 false 0 false false 0 &&& ~~~ w6Mask 7) = 0 := by
  rw [show ~~~ w6Mask 7 = (1023#10) ++ (7#3) ++ (1#1) ++ (1#1) ++ (15#4) ++ (1#1) ++ (8191#13) ++ (3#2) ++ (3#2) ++ (15#4) ++ (7#3) ++ (15#4) ++ (65535#16) by decide]
  unfold nestW6
  repeat' refine append_and_zero ?_ ?_
  all_goals simp [bit]
theorem w7_mask1 (bf af : BitVec 4) : (nestW7 0 bf af 0 &&& ~~~ w7Mask 1) = 0 := by
  rw [show ~~~ w7Mask 1 = (4294967295#32) ++ (65535#16) ++ (0#4) ++ (0#4) ++ (255#8) by decide]
  unfold nestW7
  repeat' refine append_and_zero ?_ ?_
  all_goals simp
theorem w7_mask2 (sp : BitVec 16) (bf af : BitVec 4) : (nestW7 sp bf af 0 &&& ~~~ w7Mask 2) = 0 := by
  rw [show ~~~ w7Mask 2 = (4294967295#32) ++ (0#16) ++ (0#4) ++ (0#4) ++ (255#8) by decide]
  unfold nestW7
  repeat' refine append_and_zero ?_ ?_
  all_goals simp
theorem w7_mask3 (rows : BitVec 8) : (nestW7 0 0 0 rows &&& ~~~ w7Mask 3) = 0 := by
  rw [show ~~~ w7Mask 3 = (4294967295#32) ++ (65535#16) ++ (15#4) ++ (15#4) ++ (0#8) by decide]
  unfold nestW7
  repeat' refine append_and_zero ?_ ?_
  all_goals simp
theorem w7_mask4 (rows : BitVec 8) : (nestW7 0 0 0 rows &&& ~~~ w7Mask 4) = 0 := by
  rw [show ~~~ w7Mask 4 = (4294967295#32) ++ (65535#16) ++ (15#4) ++ (15#4) ++ (0#8) by decide]
  unfold nestW7
  repeat' refine append_and_zero ?_ ?_
  all_goals simp
theorem w7_mask5 (rows : BitVec 8) : (nestW7 0 0 0 rows &&& ~~~ w7Mask 5) = 0 := by
  rw [show ~~~ w7Mask 5 = (4294967295#32) ++ (65535#16) ++ (15#4) ++ (15#4) ++ (0#8) by decide]
  unfold nestW7
  repeat' refine append_and_zero ?_ ?_
  all_goals simp
theorem w7_mask6 (rows : BitVec 8) : (nestW7 0 0 0 rows &&& ~~~ w7Mask 6) = 0 := by
  rw [show ~~~ w7Mask 6 = (4294967295#32) ++ (65535#16) ++ (15#4) ++ (15#4) ++ (0#8) by decide]
  unfold nestW7
  repeat' refine append_and_zero ?_ ?_
  all_goals simp
theorem w7_mask7 (rows : BitVec 8) : (nestW7 0 0 0 rows &&& ~~~ w7Mask 7) = 0 := by
  rw [show ~~~ w7Mask 7 = (4294967295#32) ++ (65535#16) ++ (15#4) ++ (15#4) ++ (0#8) by decide]
  unfold nestW7
  repeat' refine append_and_zero ?_ ?_
  all_goals simp
theorem mmaFlags_bits (f : MmaF) : (mmaFlags f).getLsbD 0 = f.za ∧ (mmaFlags f).getLsbD 1 = f.as ∧
    (mmaFlags f).getLsbD 2 = f.bs ∧ (mmaFlags f).getLsbD 3 = f.bt ∧ (mmaFlags f).extractLsb' 4 4 = 0 := by
  simp only [mmaFlags, bit]
  refine ⟨?_, ?_, ?_, ?_, ?_⟩
  · simp only [BitVec.getLsbD_append]; simp
  · simp only [BitVec.getLsbD_append]; simp
  · simp only [BitVec.getLsbD_append]; simp
  · simp only [BitVec.getLsbD_append]; simp
  · simp (disch := omega) only [BitVec.extractLsb'_append_eq_of_le]; simp

theorem decodeNest_mma (s : Bool) (f : MmaF) (h : f.prof.toNat ≤ 6) : decodeNest (encMma s 1 f 0 0) = .ok (.mma s f) := by
  obtain ⟨h0, h1, h2, h3, h4⟩ := mmaFlags_bits f
  have hk : NF.fieldsOk ⟨s, 0, 1, f.prof, f.aring, f.bring, f.acc, mmaFlags f, f.trip.word, f.sa.word, f.sb.word, f.sc.word,
      f.ss.word, nestW6 0 0 0 0 0 0 0 f.scen f.scs f.acq f.rel f.scp.code, nestW7 0 f.bfmt.code f.afmt.code 0⟩ = true := by
    simp only [NF.fieldsOk, h4, show (1 : BitVec 8).toNat = 1 from rfl, w6_mask1, w7_mask1]
    rfl
  simp only [encMma, decodeNest, nfOf, nestHdr_s, nestHdr_g, nestHdr_op, nestHdr_prof, nestHdr_ar, nestHdr_br, nestHdr_acc,
    nestHdr_fl, hk, NF.scp, NF.afmt, NF.bfmt, NF.mma, w6_scp, w6_scen, w6_scs, w6_acq, w6_rel, w7_af, w7_bf, decFmt_code,
    decScope_code, quad_back, h0, h1, h2, h3]
  simp [show ¬ 6 < f.prof.toNat by omega]
theorem decodeNest_mmas (s : Bool) (f : MmaF) (bm sp : BitVec 16) (h : f.prof.toNat ≤ 6) :
    decodeNest (encMma s 2 f bm sp) = .ok (.mmas s f bm sp) := by
  obtain ⟨h0, h1, h2, h3, h4⟩ := mmaFlags_bits f
  have hk : NF.fieldsOk ⟨s, 0, 2, f.prof, f.aring, f.bring, f.acc, mmaFlags f, f.trip.word, f.sa.word, f.sb.word, f.sc.word,
      f.ss.word, nestW6 bm 0 0 0 0 0 0 f.scen f.scs f.acq f.rel f.scp.code, nestW7 sp f.bfmt.code f.afmt.code 0⟩ = true := by
    simp only [NF.fieldsOk, h4, show (2 : BitVec 8).toNat = 2 from rfl, w6_mask2, w7_mask2]
    rfl
  simp only [encMma, decodeNest, nfOf, nestHdr_s, nestHdr_g, nestHdr_op, nestHdr_prof, nestHdr_ar, nestHdr_br, nestHdr_acc,
    nestHdr_fl, hk, NF.scp, NF.afmt, NF.bfmt, NF.mma, w6_scp, w6_scen, w6_scs, w6_acq, w6_rel, w6_bm, w7_sp, w7_af, w7_bf,
    decFmt_code, decScope_code, quad_back, h0, h1, h2, h3]
  simp [show ¬ 6 < f.prof.toNat by omega]
theorem decodeNest_mhad (s : Bool) (f : RowF) : decodeNest (encRowOp s 3 f.acc f.rows f.hsel f.hk) = .ok (.mhad s f) := by
  have hk : NF.fieldsOk ⟨s, 0, 3, 0, 0, 0, f.acc, 0, 0, 0, 0, 0, 0, nestW6 0 f.hsel f.hk 0 0 0 0 false 0 false false 0,
      nestW7 0 0 0 f.rows⟩ = true := by
    simp only [NF.fieldsOk, show (3 : BitVec 8).toNat = 3 from rfl, w6_mask3, w7_mask3]
    rfl
  simp only [encRowOp, decodeNest, nfOf, nestHdr_s, nestHdr_g, nestHdr_op, nestHdr_prof, nestHdr_ar, nestHdr_br, nestHdr_acc,
    nestHdr_fl, hk, NF.scp, NF.rows, NF.hsel, NF.hk, w6_scp, w6_hsel, w6_hk, w7_rows]
  rfl
theorem decodeNest_mdrain (s : Bool) (f : DrainF) : decodeNest (encDrain s f) = .ok (.mdrain s f) := by
  have hk : NF.fieldsOk ⟨s, 0, 4, 0, 0, 0, f.acc, 0, 0, 0, 0, 0, 0, nestW6 0 f.hsel f.hk f.fmt.code f.rnd.code f.kind f.val
      false 0 f.acq f.rel f.scp.code, nestW7 0 0 0 f.rows⟩ = true := by
    simp only [NF.fieldsOk, show (4 : BitVec 8).toNat = 4 from rfl, w6_mask4, w7_mask4]
    rfl
  simp only [encDrain, decodeNest, nfOf, nestHdr_s, nestHdr_g, nestHdr_op, nestHdr_prof, nestHdr_ar, nestHdr_br, nestHdr_acc,
    nestHdr_fl, hk, NF.scp, NF.rows, NF.hsel, NF.hk, NF.dfmt, NF.kind, NF.val, w6_scp, w6_hsel, w6_hk, w6_dfmt, w6_rnd, w6_dk,
    w6_dv, w6_acq, w6_rel, w7_rows, decFmt_code, decScope_code, decRM_code]
  rfl
theorem decodeNest_mzero (s : Bool) (acc rows : BitVec 8) : decodeNest (encRowOp s 5 acc rows 0 0) = .ok (.mzero s acc rows) := by
  have hk : NF.fieldsOk ⟨s, 0, 5, 0, 0, 0, acc, 0, 0, 0, 0, 0, 0, nestW6 0 0 0 0 0 0 0 false 0 false false 0,
      nestW7 0 0 0 rows⟩ = true := by
    simp only [NF.fieldsOk, show (5 : BitVec 8).toNat = 5 from rfl, w6_mask5, w7_mask5]
    rfl
  simp only [encRowOp, decodeNest, nfOf, nestHdr_s, nestHdr_g, nestHdr_op, nestHdr_prof, nestHdr_ar, nestHdr_br, nestHdr_acc,
    nestHdr_fl, hk, NF.scp, NF.rows, w6_scp, w7_rows]
  rfl
theorem decodeNest_mloada (s : Bool) (f : LoadAF) : decodeNest (encLoadA s f) = .ok (.mloada s f) := by
  have hk : NF.fieldsOk ⟨s, 0, 6, 0, 0, 0, f.acc, 0, 0, 0, 0, 0, 0, nestW6 0 0 0 f.fmt.code 0 f.kind f.val
      false 0 f.acq false f.scp.code, nestW7 0 0 0 f.rows⟩ = true := by
    simp only [NF.fieldsOk, show (6 : BitVec 8).toNat = 6 from rfl, w6_mask6, w7_mask6]
    rfl
  simp only [encLoadA, decodeNest, nfOf, nestHdr_s, nestHdr_g, nestHdr_op, nestHdr_prof, nestHdr_ar, nestHdr_br, nestHdr_acc,
    nestHdr_fl, hk, NF.scp, NF.rows, NF.dfmt, NF.kind, NF.val, w6_scp, w6_dfmt, w6_dk, w6_dv, w6_acq, w7_rows, decFmt_code,
    decScope_code]
  rfl
theorem decodeNest_mtrans (s : Bool) (acc rows : BitVec 8) :
    decodeNest (encRowOp s 7 acc rows 0 0) = .ok (.mtrans s acc rows) := by
  have hk : NF.fieldsOk ⟨s, 0, 7, 0, 0, 0, acc, 0, 0, 0, 0, 0, 0, nestW6 0 0 0 0 0 0 0 false 0 false false 0,
      nestW7 0 0 0 rows⟩ = true := by
    simp only [NF.fieldsOk, show (7 : BitVec 8).toNat = 7 from rfl, w6_mask7, w7_mask7]
    rfl
  simp only [encRowOp, decodeNest, nfOf, nestHdr_s, nestHdr_g, nestHdr_op, nestHdr_prof, nestHdr_ar, nestHdr_br, nestHdr_acc,
    nestHdr_fl, hk, NF.scp, NF.rows, w6_scp, w7_rows]
  rfl
/-- A list of words whose first is a nest header decodes as a nest record. -/
theorem decode_nest (s : Bool) (op prof ar br acc fl : BitVec 8) (ws : List Word) :
    decode (nestHdr s op prof ar br acc fl :: ws) = decodeNest (nestHdr s op prof ar br acc fl :: ws) := by
  simp only [decode, nestHdr_maj]
  rfl

end Sys2Proof
end

