-- ==== Sys2Proof/Laws/Maps.lean ====
section
/-! SUPPORT. The laws of maps and of memory: a read after a write, a write elsewhere, and the canonical form that every memory
operation keeps. -/

namespace Sys2Proof.Machine

theorem mget_mput_same {α : Type} (d : α) (m : SMap α) (k : Nat) (v : α) : mget d (mput m k v) k = v := by
  induction m with
  | nil => simp [mput, mget]
  | cons h t ih =>
    rcases h with ⟨k', v'⟩
    simp only [mput]
    split
    · simp [mget]
    · split
      · simp [mget]
      · simp [mget, *]

theorem mget_mput_other {α : Type} (d : α) (m : SMap α) (k j : Nat) (v : α) (h : j ≠ k) :
    mget d (mput m k v) j = mget d m j := by
  induction m with
  | nil => simp [mput, mget, Ne.symm h]
  | cons x t ih =>
    rcases x with ⟨k', v'⟩
    simp only [mput]
    split
    · next e => subst e; simp [mget, Ne.symm h]
    · split
      · simp [mget, Ne.symm h]
      · simp [mget, ih]

theorem mget_mput {α : Type} (d : α) (m : SMap α) (k j : Nat) (v : α) :
    mget d (mput m k v) j = if j = k then v else mget d m j := by
  split
  · next e => subst e; exact mget_mput_same ..
  · next e => exact mget_mput_other _ _ _ _ _ e

theorem mput_mput {α : Type} (m : SMap α) (k : Nat) (v w : α) : mput (mput m k v) k w = mput m k w := by
  induction m with
  | nil => simp [mput]
  | cons x t ih =>
    rcases x with ⟨k', v'⟩
    simp only [mput]
    split
    · simp [mput]
    · split
      · simp [mput]
      · simp [mput, *]

theorem mget_mdel_same {α : Type} (d : α) (m : SMap α) (k : Nat) : mget d (mdel m k) k = d := by
  induction m with
  | nil => rfl
  | cons x t ih =>
    rcases x with ⟨k', v'⟩
    simp only [mdel]
    split
    · exact ih
    · simp [mget, *]

theorem mget_mdel_other {α : Type} (d : α) (m : SMap α) (k j : Nat) (h : j ≠ k) : mget d (mdel m k) j = mget d m j := by
  induction m with
  | nil => rfl
  | cons x t ih =>
    rcases x with ⟨k', v'⟩
    simp only [mdel]
    split
    · next e => subst e; simp [mget, Ne.symm h, ih]
    · simp [mget, ih]

theorem mget_mset_same {α : Type} [DecidableEq α] (d : α) (m : SMap α) (k : Nat) (v : α) : mget d (mset d m k v) k = v := by
  unfold mset
  split
  · next e => rw [mget_mdel_same, e]
  · exact mget_mput_same ..

theorem mget_mset_other {α : Type} [DecidableEq α] (d : α) (m : SMap α) (k j : Nat) (v : α) (h : j ≠ k) :
    mget d (mset d m k v) j = mget d m j := by
  unfold mset
  split
  · exact mget_mdel_other _ _ _ _ h
  · exact mget_mput_other _ _ _ _ _ h

theorem mget_mset {α : Type} [DecidableEq α] (d : α) (m : SMap α) (k j : Nat) (v : α) :
    mget d (mset d m k v) j = if j = k then v else mget d m j := by
  split
  · next e => subst e; exact mget_mset_same ..
  · next e => exact mget_mset_other _ _ _ _ _ e

theorem mfind_mput_same {α : Type} (m : SMap α) (k : Nat) (v : α) : mfind (mput m k v) k = some v := by
  induction m with
  | nil => simp [mput, mfind]
  | cons h t ih =>
    rcases h with ⟨k', v'⟩
    simp only [mput]
    split
    · simp [mfind]
    · split
      · simp [mfind]
      · simp [mfind, *]

theorem mfind_mput_other {α : Type} (m : SMap α) (k j : Nat) (v : α) (h : j ≠ k) : mfind (mput m k v) j = mfind m j := by
  induction m with
  | nil => simp [mput, mfind, Ne.symm h]
  | cons x t ih =>
    rcases x with ⟨k', v'⟩
    simp only [mput]
    split
    · next e => subst e; simp [mfind, Ne.symm h]
    · split
      · simp [mfind, Ne.symm h]
      · simp [mfind, ih]

/-! ### The canonical form -/

theorem mwfFrom_mono {α : Type} [DecidableEq α] (d : α) (m : SMap α) (a b : Nat) (h : a ≤ b) :
    mwfFrom d b m = true → mwfFrom d a m = true := by
  cases m with
  | nil => intro; rfl
  | cons x t =>
    rcases x with ⟨k, v⟩
    simp only [mwfFrom, Bool.and_eq_true, decide_eq_true_eq]
    rintro ⟨⟨h1, h2⟩, h3⟩
    exact ⟨⟨by omega, h2⟩, h3⟩

theorem mwfFrom_mput {α : Type} [DecidableEq α] (d : α) (m : SMap α) (b k : Nat) (v : α) (hb : b ≤ k) (hv : v ≠ d) :
    mwfFrom d b m = true → mwfFrom d b (mput m k v) = true := by
  induction m generalizing b with
  | nil => intro; simp [mput, mwfFrom, hb, hv]
  | cons x t ih =>
    rcases x with ⟨k', v'⟩
    simp only [mwfFrom, Bool.and_eq_true, decide_eq_true_eq]
    rintro ⟨⟨h1, h2⟩, h3⟩
    simp only [mput]
    split
    · next e => subst e; simp [mwfFrom, hb, hv, h3]
    · split
      · next e =>
        simp only [mwfFrom, Bool.and_eq_true, decide_eq_true_eq]
        exact ⟨⟨hb, by simpa using hv⟩, ⟨⟨by omega, h2⟩, h3⟩⟩
      · simp only [mwfFrom, Bool.and_eq_true, decide_eq_true_eq]
        exact ⟨⟨h1, h2⟩, ih (k' + 1) (by omega) h3⟩

theorem mwfFrom_mdel {α : Type} [DecidableEq α] (d : α) (m : SMap α) (b k : Nat) :
    mwfFrom d b m = true → mwfFrom d b (mdel m k) = true := by
  induction m generalizing b with
  | nil => intro; rfl
  | cons x t ih =>
    rcases x with ⟨k', v'⟩
    simp only [mwfFrom, Bool.and_eq_true, decide_eq_true_eq]
    rintro ⟨⟨h1, h2⟩, h3⟩
    simp only [mdel]
    split
    · exact mwfFrom_mono d _ b (k' + 1) (by omega) (ih _ h3)
    · simp only [mwfFrom, Bool.and_eq_true, decide_eq_true_eq]
      exact ⟨⟨h1, h2⟩, ih _ h3⟩

theorem mwf_mset {α : Type} [DecidableEq α] (d : α) (m : SMap α) (k : Nat) (v : α) :
    mwfFrom d 0 m = true → mwfFrom d 0 (mset d m k v) = true := by
  intro h
  unfold mset
  split
  · exact mwfFrom_mdel _ _ _ _ h
  · next e => exact mwfFrom_mput _ _ _ _ _ (Nat.zero_le _) e h

/-! ### Memory -/

theorem readByte_writeByte (m : List Host.Cell) (a b : Nat) (v : Byte) :
    readByte (writeByte m a v) b = if b = a then v else readByte m b := mget_mset ..

theorem wf_writeByte (m : List Host.Cell) (a : Nat) (v : Byte) (h : Memory.wf m = true) : Memory.wf (writeByte m a v) = true :=
  mwf_mset _ _ _ _ h

theorem wf_writeBytes (m : List Host.Cell) (a : Nat) (bs : List Byte) (h : Memory.wf m = true) :
    Memory.wf (writeBytes m a bs) = true := by
  induction bs generalizing m a with
  | nil => exact h
  | cons b t ih => exact ih _ _ (wf_writeByte _ _ _ h)

/-- A write of bytes leaves every byte outside its range alone. -/
theorem readByte_writeBytes_outside (m : List Host.Cell) (a b : Nat) (bs : List Byte) (h : b < a ∨ a + bs.length ≤ b) :
    readByte (writeBytes m a bs) b = readByte m b := by
  induction bs generalizing m a with
  | nil => rfl
  | cons x t ih =>
    simp only [List.length_cons] at h
    rw [writeBytes, ih _ _ (by omega), readByte_writeByte, if_neg (by omega)]

/-- A read of the bytes just written. -/
theorem readByte_writeBytes_inside (m : List Host.Cell) (a i : Nat) (bs : List Byte) (h : i < bs.length) :
    readByte (writeBytes m a bs) (a + i) = bs[i] := by
  induction bs generalizing m a i with
  | nil => exact absurd h (Nat.not_lt_zero _)
  | cons x t ih =>
    rw [writeBytes]
    cases i with
    | zero =>
      rw [readByte_writeBytes_outside _ _ _ _ (by omega), readByte_writeByte, if_pos (by omega)]
      rfl
    | succ j =>
      have := ih (writeByte m a x) (a + 1) j (by simpa using h)
      rw [show a + (j + 1) = a + 1 + j by omega, this]
      rfl

theorem readBytes_writeBytes_same (m : List Host.Cell) (a : Nat) (bs : List Byte) :
    readBytes (writeBytes m a bs) a bs.length = bs := by
  induction bs generalizing m a with
  | nil => rfl
  | cons x t ih =>
    rw [List.length_cons, readBytes, writeBytes, ih, readByte_writeBytes_outside _ _ _ _ (by omega), readByte_writeByte,
      if_pos rfl]

theorem readBytes_writeBytes_outside (m : List Host.Cell) (a b n : Nat) (bs : List Byte)
    (h : b + n ≤ a ∨ a + bs.length ≤ b) : readBytes (writeBytes m a bs) b n = readBytes m b n := by
  induction n generalizing b with
  | zero => rfl
  | succ n ih => rw [readBytes, readBytes, readByte_writeBytes_outside _ _ _ _ (by omega), ih _ (by omega)]

theorem readBytes_length (m : List Host.Cell) (a n : Nat) : (readBytes m a n).length = n := by
  induction n generalizing a with
  | zero => rfl
  | succ n ih => rw [readBytes, List.length_cons, ih]

theorem natLe_length (k n : Nat) : (natLe k n).length = k := by
  induction k generalizing n with
  | zero => rfl
  | succ k ih => rw [natLe, List.length_cons, ih]

/-- R2: the bytes of a number and the number of bytes agree. -/
theorem leNat_natLe (k n : Nat) : leNat (natLe k n) = n % 256 ^ k := by
  induction k generalizing n with
  | zero => simp [natLe, leNat, Nat.mod_one]
  | succ k ih =>
    rw [natLe, leNat, ih, BitVec.toNat_ofNat, show 256 ^ (k + 1) = 256 * 256 ^ k from by rw [Nat.pow_succ, Nat.mul_comm],
      Nat.mod_mul]

theorem wf_memWrite (s : State) (a : Nat) (bs : List Byte) (h : Memory.wf s.mem = true) :
    Memory.wf (s.memWrite a bs).mem = true := wf_writeBytes _ _ _ h

theorem wf_tileWrite (s : State) (c o : Nat) (bs : List Byte) (h : Memory.wf s.tile = true) :
    Memory.wf (s.tileWrite c o bs).tile = true := wf_writeBytes _ _ _ h

/-- A restriction of a canonical memory is canonical. -/
theorem wf_filter (m : List Host.Cell) (p : Host.Cell → Bool) (h : Memory.wf m = true) : Memory.wf (m.filter p) = true := by
  unfold Memory.wf at *
  generalize 0 = b at h ⊢
  induction m generalizing b with
  | nil => rfl
  | cons x t ih =>
    rcases x with ⟨k, v⟩
    simp only [mwfFrom, Bool.and_eq_true, decide_eq_true_eq] at h
    simp only [List.filter]
    split
    · simp only [mwfFrom, Bool.and_eq_true, decide_eq_true_eq]
      exact ⟨h.1, ih _ h.2⟩
    · exact mwfFrom_mono _ _ b (k + 1) (by omega) (ih _ h.2)

/-! ### Roles -/

theorem role_setRole (s : State) (k j : Nat) (r : Role) : (s.setRole k r).role j = if j = k then r else s.role j := mget_mput ..
@[simp] theorem role_setRole_same (s : State) (k : Nat) (r : Role) : (s.setRole k r).role k = r := mget_mput_same ..
theorem role_setRole_other (s : State) (k j : Nat) (r : Role) (h : j ≠ k) : (s.setRole k r).role j = s.role j :=
  mget_mput_other _ _ _ _ _ h
@[simp] theorem setRole_setRole (s : State) (k : Nat) (r q : Role) : (s.setRole k r).setRole k q = s.setRole k q := by
  simp only [State.setRole, mput_mput]
@[simp] theorem curRole_setRole (s : State) (r : Role) : (s.setRole s.curKey r).curRole = r := mget_mput_same ..
@[simp] theorem curKey_setRole (s : State) (k : Nat) (r : Role) : (s.setRole k r).curKey = s.curKey := rfl
@[simp] theorem clu_setClu_same (r : Role) (c : Cluster) (x : Clu) : (r.setClu c x).clu c = x := by cases c <;> rfl
theorem clu_setClu_other (r : Role) (c d : Cluster) (x : Clu) (h : d ≠ c) : (r.setClu c x).clu d = r.clu d := by
  cases c <;> cases d <;> first | exact absurd rfl h | rfl
@[simp] theorem setClu_setClu (r : Role) (c : Cluster) (x y : Clu) : (r.setClu c x).setClu c y = r.setClu c y := by
  cases c <;> rfl
@[simp] theorem setClu_clu (r : Role) (c : Cluster) : r.setClu c (r.clu c) = r := by cases c <;> rfl

end Sys2Proof.Machine
end

