-- ==== Sys2Proof/Laws/Issue.lean ====
section
/-! SUPPORT. The laws of the issue monad, and what issuing a syllable does: it commits and goes on, waits, or stops the role. -/

namespace Sys2Proof.Machine

/-! ### The monad -/

theorem bind_ok {α β : Type} {m : Iss α} {f : α → Iss β} {s s1 : State} {a : α} (h : m s = .ok (a, s1)) :
    (m >>= f) s = f a s1 := by
  show (StateT.bind m f) s = _
  simp only [StateT.bind, h]
  rfl
theorem bind_error {α β : Type} {m : Iss α} {f : α → Iss β} {s : State} {e : Stop} (h : m s = .error e) :
    (m >>= f) s = .error e := by
  show (StateT.bind m f) s = _
  simp only [StateT.bind, h]
  rfl
/-- A sequence that succeeds, taken apart. -/
theorem bind_split {α β : Type} {m : Iss α} {f : α → Iss β} {s s2 : State} {b : β} (h : (m >>= f) s = .ok (b, s2)) :
    ∃ a s1, m s = .ok (a, s1) ∧ f a s1 = .ok (b, s2) := by
  rcases hm : m s with e | ⟨a, s1⟩
  · rw [bind_error hm] at h; cases h
  · exact ⟨a, s1, rfl, by rw [bind_ok hm] at h; exact h⟩
@[simp] theorem pure_run {α : Type} (a : α) (s : State) : (pure a : Iss α) s = .ok (a, s) := rfl
@[simp] theorem getRole_run (s : State) : getRole s = .ok (s.curRole, s) := rfl
@[simp] theorem getSt_run (s : State) : getSt s = .ok (s, s) := rfl
@[simp] theorem getClu_run (s : State) : getClu s = .ok (s.clu, s) := rfl
@[simp] theorem modRole_run (f : Role → Role) (s : State) : modRole f s = .ok ((), s.setRole s.curKey (f s.curRole)) := rfl
@[simp] theorem modSt_run (f : State → State) (s : State) : modSt f s = .ok ((), f s) := rfl
@[simp] theorem modClu_run (f : Clu → Clu) (s : State) :
    modClu f s = .ok ((), s.setRole s.curKey (s.curRole.setClu s.cur.cl (f s.clu))) := rfl
@[simp] theorem waitIf_false (s : State) : waitIf false s = .ok ((), s) := rfl
@[simp] theorem waitIf_true (s : State) : waitIf true s = .error .wait := rfl
@[simp] theorem trapIf_false (c : Nat) (i j : Word) (s : State) : trapIf false c i j s = .ok ((), s) := rfl
@[simp] theorem trapIf_true (c : Nat) (i j : Word) (s : State) : trapIf true c i j s = .error (.trap c i j) := rfl

/-! ### Issuing -/

theorem stopPoint_ok {s : State} (h : s.curRole.hasFault s.cur.cl = none) : stopPoint s = .ok ((), s) := by
  unfold stopPoint
  rw [bind_ok (getSt_run s)]
  simp [h]

theorem hasFault_of_anyFault {r : Role} (h : r.anyFault = none) (c : Cluster) : r.hasFault c = none := by
  unfold Role.anyFault at h
  rw [List.findSome?_eq_none_iff] at h
  have := h c (by cases c <;> decide)
  simpa using this

theorem syncGate_ok {α : Type} {body : Iss α} {s : State} (h : SyncOk s) : syncGate body s = .ok ((), s) := by
  unfold syncGate
  rw [bind_ok (getSt_run s)]
  simp only [h.2.2, Bool.not_true]
  rw [bind_ok (waitIf_false s), h.1, h.2.1]
  rfl

theorem gate_ok {n : Nat} {b : Bool} {s : State} (h : Ready n b s) : boundaryGate s = .ok ((), s) := by
  unfold boundaryGate
  rw [bind_ok (getRole_run s), bind_ok (getClu_run s)]
  have hw : waitIf (atBoundary s.clu && s.curRole.stopReq.isSome) s = .ok ((), s) := by
    cases e : atBoundary s.clu
    · rfl
    · rw [h.gate e]; rfl
  split
  · next e => rw [bind_ok (stopPoint_ok (h.again e))]; exact hw
  · exact hw

/-! ### Going on -/

theorem clu_setP (r : Role) (n : Nat) (v : Pred) (c : Cluster) : (r.setP n v).clu c = r.clu c := by
  unfold Role.setP
  split
  · rfl
  · cases c <;> rfl
theorem clu_foldP (l : List Nat) (f : Nat → Nat) (g : Nat → Pred) (r : Role) (c : Cluster) :
    (l.foldl (fun r x => r.setP (f x) (g x)) r).clu c = r.clu c := by
  induction l generalizing r with
  | nil => rfl
  | cons x t ih => rw [List.foldl_cons, ih, clu_setP]
@[simp] theorem clu_setStages (r : Role) (l : LRec) (i : Nat) (c : Cluster) : (setStages r l i).clu c = r.clu c :=
  clu_foldP (List.range l.stages) (fun s => l.pbase + s) (fun s => boolPred (decide (s ≤ i) && decide (i < l.trip + s))) r c
@[simp] theorem clu_clearStages (r : Role) (l : LRec) (c : Cluster) : (clearStages r l).clu c = r.clu c :=
  clu_foldP (List.range l.stages) (fun s => l.pbase + s) (fun _ => 0) r c

/-- How a cluster goes on where its part of a loop record ends (R216). -/
def partClu (c : Clu) (l : LRec) : Clu :=
  let epi (b : Bool) : Clu :=
    if l.esize = 0 then ({ c with lrec := none }.advance (l.ret - 8) 8).1
    else { c with pc := l.epilogue, lrec := some { l with part := .epilogue, boundary := b } }
  let kern (i : Nat) (b : Bool) : Clu := { c with pc := l.kernel, lrec := some { l with part := .kernel, it := i, boundary := b } }
  match l.part with
  | .prologue => if l.it ≤ l.last then kern l.it false else epi false
  | .kernel => if l.it < l.last then kern (l.it + 1) true else epi true
  | .epilogue => ({ c with lrec := none }.advance (l.ret - 8) 8).1
/-- The cluster of fallFrom, which is a matter of the cluster alone. -/
def fallClu (c : Clu) (a : Word) (n : Nat) : Clu :=
  let p := c.advance a n
  match p.1.lrec with
  | some l => if !p.2 && l.inside a && !l.inside p.1.pc then partClu p.1 l else p.1
  | none => p.1

theorem partEnd_clu (r : Role) (cl : Cluster) (l : LRec) : (partEnd r cl l).clu cl = partClu (r.clu cl) l := by
  unfold partEnd partClu
  cases l.part <;> simp only [enterKernel, enterEpilogue, endRec] <;> repeat (first | split | simp)
theorem fallFrom_clu (r : Role) (cl : Cluster) (a : Word) (n : Nat) : (fallFrom r cl a n).clu cl = fallClu (r.clu cl) a n := by
  unfold fallFrom fallClu
  rcases (r.clu cl).advance a n with ⟨c, b⟩
  rcases hl : c.lrec with _ | l
  · simp [hl, clu_setClu_same]
  · simp only [hl]
    split
    · rw [partEnd_clu, clu_setClu_same]
    · rw [clu_setClu_same]

/-- The cluster without the mark of an iteration boundary. -/
def Clu.unbound (c : Clu) : Clu := { c with lrec := c.lrec.map (fun l => { l with boundary := false }) }
theorem advance_lrec (c : Clu) (x : Option LRec) (a : Word) (n : Nat) :
    ({ c with lrec := x }.advance a n) = ({ (c.advance a n).1 with lrec := x }, (c.advance a n).2) := by
  unfold Clu.advance
  rcases loopBack a c.loops.reverse with ⟨l, _ | t⟩ <;> rfl
theorem advance_keeps (c : Clu) (a : Word) (n : Nat) : (c.advance a n).1.lrec = c.lrec := by
  unfold Clu.advance
  rcases loopBack a c.loops.reverse with ⟨l, _ | t⟩ <;> rfl
theorem partClu_unbound (c : Clu) (l : LRec) (x : Option LRec) :
    ((partClu { c with lrec := x } { l with boundary := false }).lrec.isNone = (partClu c l).lrec.isNone) ∧
    (partClu { c with lrec := x } { l with boundary := false }).pc = (partClu c l).pc := by
  unfold partClu
  rcases l with ⟨_, _, _, _, _, _, _, _, _, _, _, _, _, part, _, _⟩
  cases part <;> simp only <;>
    first | exact ⟨rfl, rfl⟩ | simp
theorem fallClu_unbound (c : Clu) (a : Word) (n : Nat) :
    (fallClu c.unbound a n).lrec.isNone = (fallClu c a n).lrec.isNone ∧ (fallClu c.unbound a n).pc = (fallClu c a n).pc := by
  unfold fallClu Clu.unbound
  rw [advance_lrec]
  simp only [advance_keeps]
  rcases hl : c.lrec with _ | l
  · simp [advance_keeps, hl]
  · simp only [Option.map_some]
    have hi : ∀ t, ({ l with boundary := false } : LRec).inside t = l.inside t := fun _ => rfl
    simp only [hi]
    split
    · exact partClu_unbound _ _ _
    · exact ⟨by simp [advance_keeps, hl], rfl⟩

/-- R128: a cluster goes back exactly where a loop of its stack does. -/
theorem advance_back (c : Clu) (a : Word) (n : Nat) : (c.advance a n).2 = (loopBack a c.loops.reverse).2.isSome := by
  unfold Clu.advance
  rcases loopBack a c.loops.reverse with ⟨l, _ | t⟩ <;> rfl

/-- Where no loop goes back, the cluster goes on. -/
theorem goOn_ok {s : State} {a : Word} {n : Nat} (hb : (s.clu.advance a n).2 = false)
    (he : ∀ l, s.clu.lrec = some l → (fallClu s.clu a n).lrec = none → (fallClu s.clu a n).pc = l.ret) :
    goOn a n s = .ok ((), s.setRole s.curKey (fallFrom s.curRole s.cur.cl a n)) := by
  have h1 : chkBack a s = .ok ((), s) := by
    have h8 : (s.clu.advance a 8).2 = false := by rw [advance_back] at hb ⊢; exact hb
    unfold chkBack
    rw [bind_ok (getClu_run s)]
    rcases ha : s.clu.advance a 8 with ⟨c, b⟩
    rw [ha] at h8
    cases h8
    rfl
  unfold goOn
  rw [bind_ok (getSt_run s), bind_ok h1]
  have hs : (s.curRole.clu s.cur.cl).lrec = s.clu.lrec := rfl
  rw [hs]
  rcases hl : s.clu.lrec with _ | l
  · rfl
  · have h2 : chkRecEnd l.ret ((fallFrom s.curRole s.cur.cl a n).clu s.cur.cl) s = .ok ((), s) := by
      rw [fallFrom_clu]
      change chkRecEnd l.ret (fallClu s.clu a n) s = _
      unfold chkRecEnd
      rcases hn : (fallClu s.clu a n).lrec with _ | m
      · rw [if_neg (by simp [he l hl hn])]; rfl
      · rw [if_neg (by simp)]; rfl
    exact bind_ok h2

/-- What follows the gates of a ready syllable. -/
theorem issueN_ready {n : Nat} {b : Bool} {body : Iss Flow} {s : State} (h : Ready n b s) :
    issueN n b body s = match (commit n body : Iss Post) s with
      | .ok (p, s') => .next (applyPost s' s'.curKey s'.cur.cl p)
      | .error .wait => .next s
      | .error (.trap c i0 i1) => .next (takeTrap s c i0 i1)
      | .error (.deferred id) => .next (takeDeferred s id) := by
  unfold issueN
  rw [if_neg (by simp [h.live])]
  cases b with
  | false => rfl
  | true => rw [if_pos rfl, bind_ok (syncGate_ok (h.sync rfl))] <;> rfl

/-- A ready syllable whose body transfers nothing commits, and its cluster goes on. -/
theorem issueN_fall {n : Nat} {b : Bool} {body : Iss Flow} {s s' : State} (h : Ready n b s)
    (hb : body s = .ok (.fall, s')) (hl : s'.clu = s.clu) :
    issueN n b body s = .next (s'.fell n) := by
  rw [issueN_ready h]
  have h2 : (commit n body : Iss Post) s = .ok (none, s'.fell n) := by
    unfold commit
    rw [bind_ok (gate_ok h), bind_ok hb, bind_ok (modClu_run _ s')]
    have hc : s'.leave.clu = s.clu.unbound := by
      rw [← hl]
      simp only [State.leave, State.clu, curRole_setRole, Clu.unbound]
      simp [State.setRole, clu_setClu_same]
    have hg : goOn s'.leave.clu.pc n s'.leave =
        .ok ((), s'.leave.setRole s'.leave.curKey (fallFrom s'.leave.curRole s'.leave.cur.cl s'.leave.clu.pc n)) := by
      refine goOn_ok ?_ ?_
      · have := h.onward
        rw [hc, advance_back] at *
        exact this
      · intro l h1 h2
        rw [hc] at h1 h2 ⊢
        obtain ⟨k, hk, rfl⟩ := Option.map_eq_some_iff.mp h1
        have := h.ends k hk
        rw [fallFrom_clu] at this
        have hu := fallClu_unbound s.clu s.clu.pc n
        refine (hu.2.trans (this ?_))
        rw [← Option.isNone_iff_eq_none] at h2 ⊢
        exact hu.1.symm.trans h2
    have hs : settle n Flow.fall s'.leave =
        .ok (none, s'.leave.setRole s'.leave.curKey (fallFrom s'.leave.curRole s'.leave.cur.cl s'.leave.clu.pc n)) := by
      unfold settle
      rw [bind_ok (getSt_run _)]
      exact bind_ok hg
    have hs' := bind_ok (f := fun p => (modSt (fun s => s.setRole s.curKey { s.curRole with lastAct := s.cycle }) >>=
      fun _ => pure p : Iss Post)) hs
    exact hs'.trans (show _ = Except.ok (none, s'.fell n) from rfl)
  rw [h2]
  rfl

/-- A ready syllable whose body waits changes nothing. -/
theorem issueN_wait {n : Nat} {b : Bool} {body : Iss Flow} {s : State} (h : Ready n b s) (hb : body s = .error .wait) :
    issueN n b body s = .next s := by
  rw [issueN_ready h]
  unfold commit
  rw [bind_ok (gate_ok h), bind_error hb]

/-- A ready syllable whose body traps stops its role, exactly (R351). -/
theorem issueN_trap {n : Nat} {b : Bool} {body : Iss Flow} {s : State} {c : Nat} {i j : Word} (h : Ready n b s)
    (hb : body s = .error (.trap c i j)) : issueN n b body s = .next (takeTrap s c i j) := by
  rw [issueN_ready h]
  unfold commit
  rw [bind_ok (gate_ok h), bind_error hb]

end Sys2Proof.Machine
end

