-- ==== Sys2Proof/Laws/State.lean ====
section
/-! SUPPORT. The fields of State and of Role under each named update: one lemma for each field an update leaves alone, and
one for the field it writes. -/

namespace Sys2Proof.Machine

/-! ### State.setRole -/

@[simp] theorem State.setRole_mem (s : State) (k : Nat) (r : Role) : (s.setRole k r).mem = s.mem := rfl
@[simp] theorem State.setRole_poison (s : State) (k : Nat) (r : Role) : (s.setRole k r).poison = s.poison := rfl
@[simp] theorem State.setRole_tile (s : State) (k : Nat) (r : Role) : (s.setRole k r).tile = s.tile := rfl
@[simp] theorem State.setRole_tpoison (s : State) (k : Nat) (r : Role) : (s.setRole k r).tpoison = s.tpoison := rfl
@[simp] theorem State.setRole_owners (s : State) (k : Nat) (r : Role) : (s.setRole k r).owners = s.owners := rfl
@[simp] theorem State.setRole_tags (s : State) (k : Nat) (r : Role) : (s.setRole k r).tags = s.tags := rfl
@[simp] theorem State.setRole_prompters (s : State) (k : Nat) (r : Role) : (s.setRole k r).prompters = s.prompters := rfl
@[simp] theorem State.setRole_cycle (s : State) (k : Nat) (r : Role) : (s.setRole k r).cycle = s.cycle := rfl
@[simp] theorem State.setRole_roles (s : State) (k : Nat) (r : Role) : (s.setRole k r).roles = mput s.roles k r := rfl
@[simp] theorem State.setRole_cores (s : State) (k : Nat) (r : Role) : (s.setRole k r).cores = s.cores := rfl
@[simp] theorem State.setRole_chans (s : State) (k : Nat) (r : Role) : (s.setRole k r).chans = s.chans := rfl
@[simp] theorem State.setRole_parts (s : State) (k : Nat) (r : Role) : (s.setRole k r).parts = s.parts := rfl
@[simp] theorem State.setRole_spans (s : State) (k : Nat) (r : Role) : (s.setRole k r).spans = s.spans := rfl
@[simp] theorem State.setRole_contribs (s : State) (k : Nat) (r : Role) : (s.setRole k r).contribs = s.contribs := rfl
@[simp] theorem State.setRole_bars (s : State) (k : Nat) (r : Role) : (s.setRole k r).bars = s.bars := rfl
@[simp] theorem State.setRole_asids (s : State) (k : Nat) (r : Role) : (s.setRole k r).asids = s.asids := rfl
@[simp] theorem State.setRole_tlb (s : State) (k : Nat) (r : Role) : (s.setRole k r).tlb = s.tlb := rfl
@[simp] theorem State.setRole_slotTab (s : State) (k : Nat) (r : Role) : (s.setRole k r).slotTab = s.slotTab := rfl
@[simp] theorem State.setRole_msets (s : State) (k : Nat) (r : Role) : (s.setRole k r).msets = s.msets := rfl
@[simp] theorem State.setRole_tagWin (s : State) (k : Nat) (r : Role) : (s.setRole k r).tagWin = s.tagWin := rfl
@[simp] theorem State.setRole_svcs (s : State) (k : Nat) (r : Role) : (s.setRole k r).svcs = s.svcs := rfl
@[simp] theorem State.setRole_monitor (s : State) (k : Nat) (r : Role) : (s.setRole k r).monitor = s.monitor := rfl
@[simp] theorem State.setRole_scheduler (s : State) (k : Nat) (r : Role) : (s.setRole k r).scheduler = s.scheduler := rfl
@[simp] theorem State.setRole_monImage (s : State) (k : Nat) (r : Role) : (s.setRole k r).monImage = s.monImage := rfl
@[simp] theorem State.setRole_schImage (s : State) (k : Nat) (r : Role) : (s.setRole k r).schImage = s.schImage := rfl
@[simp] theorem State.setRole_schedq (s : State) (k : Nat) (r : Role) : (s.setRole k r).schedq = s.schedq := rfl
@[simp] theorem State.setRole_viols (s : State) (k : Nat) (r : Role) : (s.setRole k r).viols = s.viols := rfl
@[simp] theorem State.setRole_strms (s : State) (k : Nat) (r : Role) : (s.setRole k r).strms = s.strms := rfl
@[simp] theorem State.setRole_wins (s : State) (k : Nat) (r : Role) : (s.setRole k r).wins = s.wins := rfl
@[simp] theorem State.setRole_curq (s : State) (k : Nat) (r : Role) : (s.setRole k r).curq = s.curq := rfl
@[simp] theorem State.setRole_ports (s : State) (k : Nat) (r : Role) : (s.setRole k r).ports = s.ports := rfl
@[simp] theorem State.setRole_mgmtOwner (s : State) (k : Nat) (r : Role) : (s.setRole k r).mgmtOwner = s.mgmtOwner := rfl
@[simp] theorem State.setRole_mgmtLast (s : State) (k : Nat) (r : Role) : (s.setRole k r).mgmtLast = s.mgmtLast := rfl
@[simp] theorem State.setRole_mgmtRefused (s : State) (k : Nat) (r : Role) : (s.setRole k r).mgmtRefused = s.mgmtRefused := rfl
@[simp] theorem State.setRole_place (s : State) (k : Nat) (r : Role) : (s.setRole k r).place = s.place := rfl
@[simp] theorem State.setRole_errors (s : State) (k : Nat) (r : Role) : (s.setRole k r).errors = s.errors := rfl
@[simp] theorem State.setRole_replaced (s : State) (k : Nat) (r : Role) : (s.setRole k r).replaced = s.replaced := rfl
@[simp] theorem State.setRole_worn (s : State) (k : Nat) (r : Role) : (s.setRole k r).worn = s.worn := rfl
@[simp] theorem State.setRole_flash (s : State) (k : Nat) (r : Role) : (s.setRole k r).flash = s.flash := rfl
@[simp] theorem State.setRole_grade (s : State) (k : Nat) (r : Role) : (s.setRole k r).grade = s.grade := rfl
@[simp] theorem State.setRole_certs (s : State) (k : Nat) (r : Role) : (s.setRole k r).certs = s.certs := rfl
@[simp] theorem State.setRole_flashVer (s : State) (k : Nat) (r : Role) : (s.setRole k r).flashVer = s.flashVer := rfl
@[simp] theorem State.setRole_versions (s : State) (k : Nat) (r : Role) : (s.setRole k r).versions = s.versions := rfl
@[simp] theorem State.setRole_clock (s : State) (k : Nat) (r : Role) : (s.setRole k r).clock = s.clock := rfl
@[simp] theorem State.setRole_throttled (s : State) (k : Nat) (r : Role) : (s.setRole k r).throttled = s.throttled := rfl
@[simp] theorem State.setRole_emergency (s : State) (k : Nat) (r : Role) : (s.setRole k r).emergency = s.emergency := rfl
@[simp] theorem State.setRole_up (s : State) (k : Nat) (r : Role) : (s.setRole k r).up = s.up := rfl
@[simp] theorem State.setRole_nvmeLog (s : State) (k : Nat) (r : Role) : (s.setRole k r).nvmeLog = s.nvmeLog := rfl
@[simp] theorem State.setRole_hostReads (s : State) (k : Nat) (r : Role) : (s.setRole k r).hostReads = s.hostReads := rfl
@[simp] theorem State.setRole_quotes (s : State) (k : Nat) (r : Role) : (s.setRole k r).quotes = s.quotes := rfl
@[simp] theorem State.setRole_cur (s : State) (k : Nat) (r : Role) : (s.setRole k r).cur = s.cur := rfl
@[simp] theorem State.setRole_sched (s : State) (k : Nat) (r : Role) : (s.setRole k r).sched = s.sched := rfl
@[simp] theorem State.setRole_seen (s : State) (k : Nat) (r : Role) : (s.setRole k r).seen = s.seen := rfl
@[simp] theorem State.setRole_fresh (s : State) (k : Nat) (r : Role) : (s.setRole k r).fresh = s.fresh := rfl

/-! ### State.setCore -/

@[simp] theorem State.setCore_mem (s : State) (c : Nat) (x : CoreSt) : (s.setCore c x).mem = s.mem := rfl
@[simp] theorem State.setCore_poison (s : State) (c : Nat) (x : CoreSt) : (s.setCore c x).poison = s.poison := rfl
@[simp] theorem State.setCore_tile (s : State) (c : Nat) (x : CoreSt) : (s.setCore c x).tile = s.tile := rfl
@[simp] theorem State.setCore_tpoison (s : State) (c : Nat) (x : CoreSt) : (s.setCore c x).tpoison = s.tpoison := rfl
@[simp] theorem State.setCore_owners (s : State) (c : Nat) (x : CoreSt) : (s.setCore c x).owners = s.owners := rfl
@[simp] theorem State.setCore_tags (s : State) (c : Nat) (x : CoreSt) : (s.setCore c x).tags = s.tags := rfl
@[simp] theorem State.setCore_prompters (s : State) (c : Nat) (x : CoreSt) : (s.setCore c x).prompters = s.prompters := rfl
@[simp] theorem State.setCore_cycle (s : State) (c : Nat) (x : CoreSt) : (s.setCore c x).cycle = s.cycle := rfl
@[simp] theorem State.setCore_roles (s : State) (c : Nat) (x : CoreSt) : (s.setCore c x).roles = s.roles := rfl
@[simp] theorem State.setCore_cores (s : State) (c : Nat) (x : CoreSt) : (s.setCore c x).cores = mput s.cores c x := rfl
@[simp] theorem State.setCore_chans (s : State) (c : Nat) (x : CoreSt) : (s.setCore c x).chans = s.chans := rfl
@[simp] theorem State.setCore_parts (s : State) (c : Nat) (x : CoreSt) : (s.setCore c x).parts = s.parts := rfl
@[simp] theorem State.setCore_spans (s : State) (c : Nat) (x : CoreSt) : (s.setCore c x).spans = s.spans := rfl
@[simp] theorem State.setCore_contribs (s : State) (c : Nat) (x : CoreSt) : (s.setCore c x).contribs = s.contribs := rfl
@[simp] theorem State.setCore_bars (s : State) (c : Nat) (x : CoreSt) : (s.setCore c x).bars = s.bars := rfl
@[simp] theorem State.setCore_asids (s : State) (c : Nat) (x : CoreSt) : (s.setCore c x).asids = s.asids := rfl
@[simp] theorem State.setCore_tlb (s : State) (c : Nat) (x : CoreSt) : (s.setCore c x).tlb = s.tlb := rfl
@[simp] theorem State.setCore_slotTab (s : State) (c : Nat) (x : CoreSt) : (s.setCore c x).slotTab = s.slotTab := rfl
@[simp] theorem State.setCore_msets (s : State) (c : Nat) (x : CoreSt) : (s.setCore c x).msets = s.msets := rfl
@[simp] theorem State.setCore_tagWin (s : State) (c : Nat) (x : CoreSt) : (s.setCore c x).tagWin = s.tagWin := rfl
@[simp] theorem State.setCore_svcs (s : State) (c : Nat) (x : CoreSt) : (s.setCore c x).svcs = s.svcs := rfl
@[simp] theorem State.setCore_monitor (s : State) (c : Nat) (x : CoreSt) : (s.setCore c x).monitor = s.monitor := rfl
@[simp] theorem State.setCore_scheduler (s : State) (c : Nat) (x : CoreSt) : (s.setCore c x).scheduler = s.scheduler := rfl
@[simp] theorem State.setCore_monImage (s : State) (c : Nat) (x : CoreSt) : (s.setCore c x).monImage = s.monImage := rfl
@[simp] theorem State.setCore_schImage (s : State) (c : Nat) (x : CoreSt) : (s.setCore c x).schImage = s.schImage := rfl
@[simp] theorem State.setCore_schedq (s : State) (c : Nat) (x : CoreSt) : (s.setCore c x).schedq = s.schedq := rfl
@[simp] theorem State.setCore_viols (s : State) (c : Nat) (x : CoreSt) : (s.setCore c x).viols = s.viols := rfl
@[simp] theorem State.setCore_strms (s : State) (c : Nat) (x : CoreSt) : (s.setCore c x).strms = s.strms := rfl
@[simp] theorem State.setCore_wins (s : State) (c : Nat) (x : CoreSt) : (s.setCore c x).wins = s.wins := rfl
@[simp] theorem State.setCore_curq (s : State) (c : Nat) (x : CoreSt) : (s.setCore c x).curq = s.curq := rfl
@[simp] theorem State.setCore_ports (s : State) (c : Nat) (x : CoreSt) : (s.setCore c x).ports = s.ports := rfl
@[simp] theorem State.setCore_mgmtOwner (s : State) (c : Nat) (x : CoreSt) : (s.setCore c x).mgmtOwner = s.mgmtOwner := rfl
@[simp] theorem State.setCore_mgmtLast (s : State) (c : Nat) (x : CoreSt) : (s.setCore c x).mgmtLast = s.mgmtLast := rfl
@[simp] theorem State.setCore_mgmtRefused (s : State) (c : Nat) (x : CoreSt) : (s.setCore c x).mgmtRefused = s.mgmtRefused := rfl
@[simp] theorem State.setCore_place (s : State) (c : Nat) (x : CoreSt) : (s.setCore c x).place = s.place := rfl
@[simp] theorem State.setCore_errors (s : State) (c : Nat) (x : CoreSt) : (s.setCore c x).errors = s.errors := rfl
@[simp] theorem State.setCore_replaced (s : State) (c : Nat) (x : CoreSt) : (s.setCore c x).replaced = s.replaced := rfl
@[simp] theorem State.setCore_worn (s : State) (c : Nat) (x : CoreSt) : (s.setCore c x).worn = s.worn := rfl
@[simp] theorem State.setCore_flash (s : State) (c : Nat) (x : CoreSt) : (s.setCore c x).flash = s.flash := rfl
@[simp] theorem State.setCore_grade (s : State) (c : Nat) (x : CoreSt) : (s.setCore c x).grade = s.grade := rfl
@[simp] theorem State.setCore_certs (s : State) (c : Nat) (x : CoreSt) : (s.setCore c x).certs = s.certs := rfl
@[simp] theorem State.setCore_flashVer (s : State) (c : Nat) (x : CoreSt) : (s.setCore c x).flashVer = s.flashVer := rfl
@[simp] theorem State.setCore_versions (s : State) (c : Nat) (x : CoreSt) : (s.setCore c x).versions = s.versions := rfl
@[simp] theorem State.setCore_clock (s : State) (c : Nat) (x : CoreSt) : (s.setCore c x).clock = s.clock := rfl
@[simp] theorem State.setCore_throttled (s : State) (c : Nat) (x : CoreSt) : (s.setCore c x).throttled = s.throttled := rfl
@[simp] theorem State.setCore_emergency (s : State) (c : Nat) (x : CoreSt) : (s.setCore c x).emergency = s.emergency := rfl
@[simp] theorem State.setCore_up (s : State) (c : Nat) (x : CoreSt) : (s.setCore c x).up = s.up := rfl
@[simp] theorem State.setCore_nvmeLog (s : State) (c : Nat) (x : CoreSt) : (s.setCore c x).nvmeLog = s.nvmeLog := rfl
@[simp] theorem State.setCore_hostReads (s : State) (c : Nat) (x : CoreSt) : (s.setCore c x).hostReads = s.hostReads := rfl
@[simp] theorem State.setCore_quotes (s : State) (c : Nat) (x : CoreSt) : (s.setCore c x).quotes = s.quotes := rfl
@[simp] theorem State.setCore_cur (s : State) (c : Nat) (x : CoreSt) : (s.setCore c x).cur = s.cur := rfl
@[simp] theorem State.setCore_sched (s : State) (c : Nat) (x : CoreSt) : (s.setCore c x).sched = s.sched := rfl
@[simp] theorem State.setCore_seen (s : State) (c : Nat) (x : CoreSt) : (s.setCore c x).seen = s.seen := rfl
@[simp] theorem State.setCore_fresh (s : State) (c : Nat) (x : CoreSt) : (s.setCore c x).fresh = s.fresh := rfl

/-! ### State.setPart -/

@[simp] theorem State.setPart_mem (s : State) (p : Nat) (x : Part) : (s.setPart p x).mem = s.mem := rfl
@[simp] theorem State.setPart_poison (s : State) (p : Nat) (x : Part) : (s.setPart p x).poison = s.poison := rfl
@[simp] theorem State.setPart_tile (s : State) (p : Nat) (x : Part) : (s.setPart p x).tile = s.tile := rfl
@[simp] theorem State.setPart_tpoison (s : State) (p : Nat) (x : Part) : (s.setPart p x).tpoison = s.tpoison := rfl
@[simp] theorem State.setPart_owners (s : State) (p : Nat) (x : Part) : (s.setPart p x).owners = s.owners := rfl
@[simp] theorem State.setPart_tags (s : State) (p : Nat) (x : Part) : (s.setPart p x).tags = s.tags := rfl
@[simp] theorem State.setPart_prompters (s : State) (p : Nat) (x : Part) : (s.setPart p x).prompters = s.prompters := rfl
@[simp] theorem State.setPart_cycle (s : State) (p : Nat) (x : Part) : (s.setPart p x).cycle = s.cycle := rfl
@[simp] theorem State.setPart_roles (s : State) (p : Nat) (x : Part) : (s.setPart p x).roles = s.roles := rfl
@[simp] theorem State.setPart_cores (s : State) (p : Nat) (x : Part) : (s.setPart p x).cores = s.cores := rfl
@[simp] theorem State.setPart_chans (s : State) (p : Nat) (x : Part) : (s.setPart p x).chans = s.chans := rfl
@[simp] theorem State.setPart_parts (s : State) (p : Nat) (x : Part) : (s.setPart p x).parts = mput s.parts p x := rfl
@[simp] theorem State.setPart_spans (s : State) (p : Nat) (x : Part) : (s.setPart p x).spans = s.spans := rfl
@[simp] theorem State.setPart_contribs (s : State) (p : Nat) (x : Part) : (s.setPart p x).contribs = s.contribs := rfl
@[simp] theorem State.setPart_bars (s : State) (p : Nat) (x : Part) : (s.setPart p x).bars = s.bars := rfl
@[simp] theorem State.setPart_asids (s : State) (p : Nat) (x : Part) : (s.setPart p x).asids = s.asids := rfl
@[simp] theorem State.setPart_tlb (s : State) (p : Nat) (x : Part) : (s.setPart p x).tlb = s.tlb := rfl
@[simp] theorem State.setPart_slotTab (s : State) (p : Nat) (x : Part) : (s.setPart p x).slotTab = s.slotTab := rfl
@[simp] theorem State.setPart_msets (s : State) (p : Nat) (x : Part) : (s.setPart p x).msets = s.msets := rfl
@[simp] theorem State.setPart_tagWin (s : State) (p : Nat) (x : Part) : (s.setPart p x).tagWin = s.tagWin := rfl
@[simp] theorem State.setPart_svcs (s : State) (p : Nat) (x : Part) : (s.setPart p x).svcs = s.svcs := rfl
@[simp] theorem State.setPart_monitor (s : State) (p : Nat) (x : Part) : (s.setPart p x).monitor = s.monitor := rfl
@[simp] theorem State.setPart_scheduler (s : State) (p : Nat) (x : Part) : (s.setPart p x).scheduler = s.scheduler := rfl
@[simp] theorem State.setPart_monImage (s : State) (p : Nat) (x : Part) : (s.setPart p x).monImage = s.monImage := rfl
@[simp] theorem State.setPart_schImage (s : State) (p : Nat) (x : Part) : (s.setPart p x).schImage = s.schImage := rfl
@[simp] theorem State.setPart_schedq (s : State) (p : Nat) (x : Part) : (s.setPart p x).schedq = s.schedq := rfl
@[simp] theorem State.setPart_viols (s : State) (p : Nat) (x : Part) : (s.setPart p x).viols = s.viols := rfl
@[simp] theorem State.setPart_strms (s : State) (p : Nat) (x : Part) : (s.setPart p x).strms = s.strms := rfl
@[simp] theorem State.setPart_wins (s : State) (p : Nat) (x : Part) : (s.setPart p x).wins = s.wins := rfl
@[simp] theorem State.setPart_curq (s : State) (p : Nat) (x : Part) : (s.setPart p x).curq = s.curq := rfl
@[simp] theorem State.setPart_ports (s : State) (p : Nat) (x : Part) : (s.setPart p x).ports = s.ports := rfl
@[simp] theorem State.setPart_mgmtOwner (s : State) (p : Nat) (x : Part) : (s.setPart p x).mgmtOwner = s.mgmtOwner := rfl
@[simp] theorem State.setPart_mgmtLast (s : State) (p : Nat) (x : Part) : (s.setPart p x).mgmtLast = s.mgmtLast := rfl
@[simp] theorem State.setPart_mgmtRefused (s : State) (p : Nat) (x : Part) : (s.setPart p x).mgmtRefused = s.mgmtRefused := rfl
@[simp] theorem State.setPart_place (s : State) (p : Nat) (x : Part) : (s.setPart p x).place = s.place := rfl
@[simp] theorem State.setPart_errors (s : State) (p : Nat) (x : Part) : (s.setPart p x).errors = s.errors := rfl
@[simp] theorem State.setPart_replaced (s : State) (p : Nat) (x : Part) : (s.setPart p x).replaced = s.replaced := rfl
@[simp] theorem State.setPart_worn (s : State) (p : Nat) (x : Part) : (s.setPart p x).worn = s.worn := rfl
@[simp] theorem State.setPart_flash (s : State) (p : Nat) (x : Part) : (s.setPart p x).flash = s.flash := rfl
@[simp] theorem State.setPart_grade (s : State) (p : Nat) (x : Part) : (s.setPart p x).grade = s.grade := rfl
@[simp] theorem State.setPart_certs (s : State) (p : Nat) (x : Part) : (s.setPart p x).certs = s.certs := rfl
@[simp] theorem State.setPart_flashVer (s : State) (p : Nat) (x : Part) : (s.setPart p x).flashVer = s.flashVer := rfl
@[simp] theorem State.setPart_versions (s : State) (p : Nat) (x : Part) : (s.setPart p x).versions = s.versions := rfl
@[simp] theorem State.setPart_clock (s : State) (p : Nat) (x : Part) : (s.setPart p x).clock = s.clock := rfl
@[simp] theorem State.setPart_throttled (s : State) (p : Nat) (x : Part) : (s.setPart p x).throttled = s.throttled := rfl
@[simp] theorem State.setPart_emergency (s : State) (p : Nat) (x : Part) : (s.setPart p x).emergency = s.emergency := rfl
@[simp] theorem State.setPart_up (s : State) (p : Nat) (x : Part) : (s.setPart p x).up = s.up := rfl
@[simp] theorem State.setPart_nvmeLog (s : State) (p : Nat) (x : Part) : (s.setPart p x).nvmeLog = s.nvmeLog := rfl
@[simp] theorem State.setPart_hostReads (s : State) (p : Nat) (x : Part) : (s.setPart p x).hostReads = s.hostReads := rfl
@[simp] theorem State.setPart_quotes (s : State) (p : Nat) (x : Part) : (s.setPart p x).quotes = s.quotes := rfl
@[simp] theorem State.setPart_cur (s : State) (p : Nat) (x : Part) : (s.setPart p x).cur = s.cur := rfl
@[simp] theorem State.setPart_sched (s : State) (p : Nat) (x : Part) : (s.setPart p x).sched = s.sched := rfl
@[simp] theorem State.setPart_seen (s : State) (p : Nat) (x : Part) : (s.setPart p x).seen = s.seen := rfl
@[simp] theorem State.setPart_fresh (s : State) (p : Nat) (x : Part) : (s.setPart p x).fresh = s.fresh := rfl

/-! ### State.setSvc -/

@[simp] theorem State.setSvc_mem (s : State) (n : Nat) (x : Svc) : (s.setSvc n x).mem = s.mem := rfl
@[simp] theorem State.setSvc_poison (s : State) (n : Nat) (x : Svc) : (s.setSvc n x).poison = s.poison := rfl
@[simp] theorem State.setSvc_tile (s : State) (n : Nat) (x : Svc) : (s.setSvc n x).tile = s.tile := rfl
@[simp] theorem State.setSvc_tpoison (s : State) (n : Nat) (x : Svc) : (s.setSvc n x).tpoison = s.tpoison := rfl
@[simp] theorem State.setSvc_owners (s : State) (n : Nat) (x : Svc) : (s.setSvc n x).owners = s.owners := rfl
@[simp] theorem State.setSvc_tags (s : State) (n : Nat) (x : Svc) : (s.setSvc n x).tags = s.tags := rfl
@[simp] theorem State.setSvc_prompters (s : State) (n : Nat) (x : Svc) : (s.setSvc n x).prompters = s.prompters := rfl
@[simp] theorem State.setSvc_cycle (s : State) (n : Nat) (x : Svc) : (s.setSvc n x).cycle = s.cycle := rfl
@[simp] theorem State.setSvc_roles (s : State) (n : Nat) (x : Svc) : (s.setSvc n x).roles = s.roles := rfl
@[simp] theorem State.setSvc_cores (s : State) (n : Nat) (x : Svc) : (s.setSvc n x).cores = s.cores := rfl
@[simp] theorem State.setSvc_chans (s : State) (n : Nat) (x : Svc) : (s.setSvc n x).chans = s.chans := rfl
@[simp] theorem State.setSvc_parts (s : State) (n : Nat) (x : Svc) : (s.setSvc n x).parts = s.parts := rfl
@[simp] theorem State.setSvc_spans (s : State) (n : Nat) (x : Svc) : (s.setSvc n x).spans = s.spans := rfl
@[simp] theorem State.setSvc_contribs (s : State) (n : Nat) (x : Svc) : (s.setSvc n x).contribs = s.contribs := rfl
@[simp] theorem State.setSvc_bars (s : State) (n : Nat) (x : Svc) : (s.setSvc n x).bars = s.bars := rfl
@[simp] theorem State.setSvc_asids (s : State) (n : Nat) (x : Svc) : (s.setSvc n x).asids = s.asids := rfl
@[simp] theorem State.setSvc_tlb (s : State) (n : Nat) (x : Svc) : (s.setSvc n x).tlb = s.tlb := rfl
@[simp] theorem State.setSvc_slotTab (s : State) (n : Nat) (x : Svc) : (s.setSvc n x).slotTab = s.slotTab := rfl
@[simp] theorem State.setSvc_msets (s : State) (n : Nat) (x : Svc) : (s.setSvc n x).msets = s.msets := rfl
@[simp] theorem State.setSvc_tagWin (s : State) (n : Nat) (x : Svc) : (s.setSvc n x).tagWin = s.tagWin := rfl
@[simp] theorem State.setSvc_svcs (s : State) (n : Nat) (x : Svc) : (s.setSvc n x).svcs = mput s.svcs n x := rfl
@[simp] theorem State.setSvc_monitor (s : State) (n : Nat) (x : Svc) : (s.setSvc n x).monitor = s.monitor := rfl
@[simp] theorem State.setSvc_scheduler (s : State) (n : Nat) (x : Svc) : (s.setSvc n x).scheduler = s.scheduler := rfl
@[simp] theorem State.setSvc_monImage (s : State) (n : Nat) (x : Svc) : (s.setSvc n x).monImage = s.monImage := rfl
@[simp] theorem State.setSvc_schImage (s : State) (n : Nat) (x : Svc) : (s.setSvc n x).schImage = s.schImage := rfl
@[simp] theorem State.setSvc_schedq (s : State) (n : Nat) (x : Svc) : (s.setSvc n x).schedq = s.schedq := rfl
@[simp] theorem State.setSvc_viols (s : State) (n : Nat) (x : Svc) : (s.setSvc n x).viols = s.viols := rfl
@[simp] theorem State.setSvc_strms (s : State) (n : Nat) (x : Svc) : (s.setSvc n x).strms = s.strms := rfl
@[simp] theorem State.setSvc_wins (s : State) (n : Nat) (x : Svc) : (s.setSvc n x).wins = s.wins := rfl
@[simp] theorem State.setSvc_curq (s : State) (n : Nat) (x : Svc) : (s.setSvc n x).curq = s.curq := rfl
@[simp] theorem State.setSvc_ports (s : State) (n : Nat) (x : Svc) : (s.setSvc n x).ports = s.ports := rfl
@[simp] theorem State.setSvc_mgmtOwner (s : State) (n : Nat) (x : Svc) : (s.setSvc n x).mgmtOwner = s.mgmtOwner := rfl
@[simp] theorem State.setSvc_mgmtLast (s : State) (n : Nat) (x : Svc) : (s.setSvc n x).mgmtLast = s.mgmtLast := rfl
@[simp] theorem State.setSvc_mgmtRefused (s : State) (n : Nat) (x : Svc) : (s.setSvc n x).mgmtRefused = s.mgmtRefused := rfl
@[simp] theorem State.setSvc_place (s : State) (n : Nat) (x : Svc) : (s.setSvc n x).place = s.place := rfl
@[simp] theorem State.setSvc_errors (s : State) (n : Nat) (x : Svc) : (s.setSvc n x).errors = s.errors := rfl
@[simp] theorem State.setSvc_replaced (s : State) (n : Nat) (x : Svc) : (s.setSvc n x).replaced = s.replaced := rfl
@[simp] theorem State.setSvc_worn (s : State) (n : Nat) (x : Svc) : (s.setSvc n x).worn = s.worn := rfl
@[simp] theorem State.setSvc_flash (s : State) (n : Nat) (x : Svc) : (s.setSvc n x).flash = s.flash := rfl
@[simp] theorem State.setSvc_grade (s : State) (n : Nat) (x : Svc) : (s.setSvc n x).grade = s.grade := rfl
@[simp] theorem State.setSvc_certs (s : State) (n : Nat) (x : Svc) : (s.setSvc n x).certs = s.certs := rfl
@[simp] theorem State.setSvc_flashVer (s : State) (n : Nat) (x : Svc) : (s.setSvc n x).flashVer = s.flashVer := rfl
@[simp] theorem State.setSvc_versions (s : State) (n : Nat) (x : Svc) : (s.setSvc n x).versions = s.versions := rfl
@[simp] theorem State.setSvc_clock (s : State) (n : Nat) (x : Svc) : (s.setSvc n x).clock = s.clock := rfl
@[simp] theorem State.setSvc_throttled (s : State) (n : Nat) (x : Svc) : (s.setSvc n x).throttled = s.throttled := rfl
@[simp] theorem State.setSvc_emergency (s : State) (n : Nat) (x : Svc) : (s.setSvc n x).emergency = s.emergency := rfl
@[simp] theorem State.setSvc_up (s : State) (n : Nat) (x : Svc) : (s.setSvc n x).up = s.up := rfl
@[simp] theorem State.setSvc_nvmeLog (s : State) (n : Nat) (x : Svc) : (s.setSvc n x).nvmeLog = s.nvmeLog := rfl
@[simp] theorem State.setSvc_hostReads (s : State) (n : Nat) (x : Svc) : (s.setSvc n x).hostReads = s.hostReads := rfl
@[simp] theorem State.setSvc_quotes (s : State) (n : Nat) (x : Svc) : (s.setSvc n x).quotes = s.quotes := rfl
@[simp] theorem State.setSvc_cur (s : State) (n : Nat) (x : Svc) : (s.setSvc n x).cur = s.cur := rfl
@[simp] theorem State.setSvc_sched (s : State) (n : Nat) (x : Svc) : (s.setSvc n x).sched = s.sched := rfl
@[simp] theorem State.setSvc_seen (s : State) (n : Nat) (x : Svc) : (s.setSvc n x).seen = s.seen := rfl
@[simp] theorem State.setSvc_fresh (s : State) (n : Nat) (x : Svc) : (s.setSvc n x).fresh = s.fresh := rfl

/-! ### State.setChan -/

@[simp] theorem State.setChan_mem (s : State) (k : Nat) (l : List ChanVec) : (s.setChan k l).mem = s.mem := rfl
@[simp] theorem State.setChan_poison (s : State) (k : Nat) (l : List ChanVec) : (s.setChan k l).poison = s.poison := rfl
@[simp] theorem State.setChan_tile (s : State) (k : Nat) (l : List ChanVec) : (s.setChan k l).tile = s.tile := rfl
@[simp] theorem State.setChan_tpoison (s : State) (k : Nat) (l : List ChanVec) : (s.setChan k l).tpoison = s.tpoison := rfl
@[simp] theorem State.setChan_owners (s : State) (k : Nat) (l : List ChanVec) : (s.setChan k l).owners = s.owners := rfl
@[simp] theorem State.setChan_tags (s : State) (k : Nat) (l : List ChanVec) : (s.setChan k l).tags = s.tags := rfl
@[simp] theorem State.setChan_prompters (s : State) (k : Nat) (l : List ChanVec) : (s.setChan k l).prompters = s.prompters := rfl
@[simp] theorem State.setChan_cycle (s : State) (k : Nat) (l : List ChanVec) : (s.setChan k l).cycle = s.cycle := rfl
@[simp] theorem State.setChan_roles (s : State) (k : Nat) (l : List ChanVec) : (s.setChan k l).roles = s.roles := rfl
@[simp] theorem State.setChan_cores (s : State) (k : Nat) (l : List ChanVec) : (s.setChan k l).cores = s.cores := rfl
@[simp] theorem State.setChan_chans (s : State) (k : Nat) (l : List ChanVec) : (s.setChan k l).chans = Machine.mset [] s.chans k l := rfl
@[simp] theorem State.setChan_parts (s : State) (k : Nat) (l : List ChanVec) : (s.setChan k l).parts = s.parts := rfl
@[simp] theorem State.setChan_spans (s : State) (k : Nat) (l : List ChanVec) : (s.setChan k l).spans = s.spans := rfl
@[simp] theorem State.setChan_contribs (s : State) (k : Nat) (l : List ChanVec) : (s.setChan k l).contribs = s.contribs := rfl
@[simp] theorem State.setChan_bars (s : State) (k : Nat) (l : List ChanVec) : (s.setChan k l).bars = s.bars := rfl
@[simp] theorem State.setChan_asids (s : State) (k : Nat) (l : List ChanVec) : (s.setChan k l).asids = s.asids := rfl
@[simp] theorem State.setChan_tlb (s : State) (k : Nat) (l : List ChanVec) : (s.setChan k l).tlb = s.tlb := rfl
@[simp] theorem State.setChan_slotTab (s : State) (k : Nat) (l : List ChanVec) : (s.setChan k l).slotTab = s.slotTab := rfl
@[simp] theorem State.setChan_msets (s : State) (k : Nat) (l : List ChanVec) : (s.setChan k l).msets = s.msets := rfl
@[simp] theorem State.setChan_tagWin (s : State) (k : Nat) (l : List ChanVec) : (s.setChan k l).tagWin = s.tagWin := rfl
@[simp] theorem State.setChan_svcs (s : State) (k : Nat) (l : List ChanVec) : (s.setChan k l).svcs = s.svcs := rfl
@[simp] theorem State.setChan_monitor (s : State) (k : Nat) (l : List ChanVec) : (s.setChan k l).monitor = s.monitor := rfl
@[simp] theorem State.setChan_scheduler (s : State) (k : Nat) (l : List ChanVec) : (s.setChan k l).scheduler = s.scheduler := rfl
@[simp] theorem State.setChan_monImage (s : State) (k : Nat) (l : List ChanVec) : (s.setChan k l).monImage = s.monImage := rfl
@[simp] theorem State.setChan_schImage (s : State) (k : Nat) (l : List ChanVec) : (s.setChan k l).schImage = s.schImage := rfl
@[simp] theorem State.setChan_schedq (s : State) (k : Nat) (l : List ChanVec) : (s.setChan k l).schedq = s.schedq := rfl
@[simp] theorem State.setChan_viols (s : State) (k : Nat) (l : List ChanVec) : (s.setChan k l).viols = s.viols := rfl
@[simp] theorem State.setChan_strms (s : State) (k : Nat) (l : List ChanVec) : (s.setChan k l).strms = s.strms := rfl
@[simp] theorem State.setChan_wins (s : State) (k : Nat) (l : List ChanVec) : (s.setChan k l).wins = s.wins := rfl
@[simp] theorem State.setChan_curq (s : State) (k : Nat) (l : List ChanVec) : (s.setChan k l).curq = s.curq := rfl
@[simp] theorem State.setChan_ports (s : State) (k : Nat) (l : List ChanVec) : (s.setChan k l).ports = s.ports := rfl
@[simp] theorem State.setChan_mgmtOwner (s : State) (k : Nat) (l : List ChanVec) : (s.setChan k l).mgmtOwner = s.mgmtOwner := rfl
@[simp] theorem State.setChan_mgmtLast (s : State) (k : Nat) (l : List ChanVec) : (s.setChan k l).mgmtLast = s.mgmtLast := rfl
@[simp] theorem State.setChan_mgmtRefused (s : State) (k : Nat) (l : List ChanVec) : (s.setChan k l).mgmtRefused = s.mgmtRefused := rfl
@[simp] theorem State.setChan_place (s : State) (k : Nat) (l : List ChanVec) : (s.setChan k l).place = s.place := rfl
@[simp] theorem State.setChan_errors (s : State) (k : Nat) (l : List ChanVec) : (s.setChan k l).errors = s.errors := rfl
@[simp] theorem State.setChan_replaced (s : State) (k : Nat) (l : List ChanVec) : (s.setChan k l).replaced = s.replaced := rfl
@[simp] theorem State.setChan_worn (s : State) (k : Nat) (l : List ChanVec) : (s.setChan k l).worn = s.worn := rfl
@[simp] theorem State.setChan_flash (s : State) (k : Nat) (l : List ChanVec) : (s.setChan k l).flash = s.flash := rfl
@[simp] theorem State.setChan_grade (s : State) (k : Nat) (l : List ChanVec) : (s.setChan k l).grade = s.grade := rfl
@[simp] theorem State.setChan_certs (s : State) (k : Nat) (l : List ChanVec) : (s.setChan k l).certs = s.certs := rfl
@[simp] theorem State.setChan_flashVer (s : State) (k : Nat) (l : List ChanVec) : (s.setChan k l).flashVer = s.flashVer := rfl
@[simp] theorem State.setChan_versions (s : State) (k : Nat) (l : List ChanVec) : (s.setChan k l).versions = s.versions := rfl
@[simp] theorem State.setChan_clock (s : State) (k : Nat) (l : List ChanVec) : (s.setChan k l).clock = s.clock := rfl
@[simp] theorem State.setChan_throttled (s : State) (k : Nat) (l : List ChanVec) : (s.setChan k l).throttled = s.throttled := rfl
@[simp] theorem State.setChan_emergency (s : State) (k : Nat) (l : List ChanVec) : (s.setChan k l).emergency = s.emergency := rfl
@[simp] theorem State.setChan_up (s : State) (k : Nat) (l : List ChanVec) : (s.setChan k l).up = s.up := rfl
@[simp] theorem State.setChan_nvmeLog (s : State) (k : Nat) (l : List ChanVec) : (s.setChan k l).nvmeLog = s.nvmeLog := rfl
@[simp] theorem State.setChan_hostReads (s : State) (k : Nat) (l : List ChanVec) : (s.setChan k l).hostReads = s.hostReads := rfl
@[simp] theorem State.setChan_quotes (s : State) (k : Nat) (l : List ChanVec) : (s.setChan k l).quotes = s.quotes := rfl
@[simp] theorem State.setChan_cur (s : State) (k : Nat) (l : List ChanVec) : (s.setChan k l).cur = s.cur := rfl
@[simp] theorem State.setChan_sched (s : State) (k : Nat) (l : List ChanVec) : (s.setChan k l).sched = s.sched := rfl
@[simp] theorem State.setChan_seen (s : State) (k : Nat) (l : List ChanVec) : (s.setChan k l).seen = s.seen := rfl
@[simp] theorem State.setChan_fresh (s : State) (k : Nat) (l : List ChanVec) : (s.setChan k l).fresh = s.fresh := rfl

/-! ### State.setAsid -/

@[simp] theorem State.setAsid_mem (s : State) (a : Nat) (x : AsidBlk) : (s.setAsid a x).mem = s.mem := rfl
@[simp] theorem State.setAsid_poison (s : State) (a : Nat) (x : AsidBlk) : (s.setAsid a x).poison = s.poison := rfl
@[simp] theorem State.setAsid_tile (s : State) (a : Nat) (x : AsidBlk) : (s.setAsid a x).tile = s.tile := rfl
@[simp] theorem State.setAsid_tpoison (s : State) (a : Nat) (x : AsidBlk) : (s.setAsid a x).tpoison = s.tpoison := rfl
@[simp] theorem State.setAsid_owners (s : State) (a : Nat) (x : AsidBlk) : (s.setAsid a x).owners = s.owners := rfl
@[simp] theorem State.setAsid_tags (s : State) (a : Nat) (x : AsidBlk) : (s.setAsid a x).tags = s.tags := rfl
@[simp] theorem State.setAsid_prompters (s : State) (a : Nat) (x : AsidBlk) : (s.setAsid a x).prompters = s.prompters := rfl
@[simp] theorem State.setAsid_cycle (s : State) (a : Nat) (x : AsidBlk) : (s.setAsid a x).cycle = s.cycle := rfl
@[simp] theorem State.setAsid_roles (s : State) (a : Nat) (x : AsidBlk) : (s.setAsid a x).roles = s.roles := rfl
@[simp] theorem State.setAsid_cores (s : State) (a : Nat) (x : AsidBlk) : (s.setAsid a x).cores = s.cores := rfl
@[simp] theorem State.setAsid_chans (s : State) (a : Nat) (x : AsidBlk) : (s.setAsid a x).chans = s.chans := rfl
@[simp] theorem State.setAsid_parts (s : State) (a : Nat) (x : AsidBlk) : (s.setAsid a x).parts = s.parts := rfl
@[simp] theorem State.setAsid_spans (s : State) (a : Nat) (x : AsidBlk) : (s.setAsid a x).spans = s.spans := rfl
@[simp] theorem State.setAsid_contribs (s : State) (a : Nat) (x : AsidBlk) : (s.setAsid a x).contribs = s.contribs := rfl
@[simp] theorem State.setAsid_bars (s : State) (a : Nat) (x : AsidBlk) : (s.setAsid a x).bars = s.bars := rfl
@[simp] theorem State.setAsid_asids (s : State) (a : Nat) (x : AsidBlk) : (s.setAsid a x).asids = mput s.asids a x := rfl
@[simp] theorem State.setAsid_tlb (s : State) (a : Nat) (x : AsidBlk) : (s.setAsid a x).tlb = s.tlb := rfl
@[simp] theorem State.setAsid_slotTab (s : State) (a : Nat) (x : AsidBlk) : (s.setAsid a x).slotTab = s.slotTab := rfl
@[simp] theorem State.setAsid_msets (s : State) (a : Nat) (x : AsidBlk) : (s.setAsid a x).msets = s.msets := rfl
@[simp] theorem State.setAsid_tagWin (s : State) (a : Nat) (x : AsidBlk) : (s.setAsid a x).tagWin = s.tagWin := rfl
@[simp] theorem State.setAsid_svcs (s : State) (a : Nat) (x : AsidBlk) : (s.setAsid a x).svcs = s.svcs := rfl
@[simp] theorem State.setAsid_monitor (s : State) (a : Nat) (x : AsidBlk) : (s.setAsid a x).monitor = s.monitor := rfl
@[simp] theorem State.setAsid_scheduler (s : State) (a : Nat) (x : AsidBlk) : (s.setAsid a x).scheduler = s.scheduler := rfl
@[simp] theorem State.setAsid_monImage (s : State) (a : Nat) (x : AsidBlk) : (s.setAsid a x).monImage = s.monImage := rfl
@[simp] theorem State.setAsid_schImage (s : State) (a : Nat) (x : AsidBlk) : (s.setAsid a x).schImage = s.schImage := rfl
@[simp] theorem State.setAsid_schedq (s : State) (a : Nat) (x : AsidBlk) : (s.setAsid a x).schedq = s.schedq := rfl
@[simp] theorem State.setAsid_viols (s : State) (a : Nat) (x : AsidBlk) : (s.setAsid a x).viols = s.viols := rfl
@[simp] theorem State.setAsid_strms (s : State) (a : Nat) (x : AsidBlk) : (s.setAsid a x).strms = s.strms := rfl
@[simp] theorem State.setAsid_wins (s : State) (a : Nat) (x : AsidBlk) : (s.setAsid a x).wins = s.wins := rfl
@[simp] theorem State.setAsid_curq (s : State) (a : Nat) (x : AsidBlk) : (s.setAsid a x).curq = s.curq := rfl
@[simp] theorem State.setAsid_ports (s : State) (a : Nat) (x : AsidBlk) : (s.setAsid a x).ports = s.ports := rfl
@[simp] theorem State.setAsid_mgmtOwner (s : State) (a : Nat) (x : AsidBlk) : (s.setAsid a x).mgmtOwner = s.mgmtOwner := rfl
@[simp] theorem State.setAsid_mgmtLast (s : State) (a : Nat) (x : AsidBlk) : (s.setAsid a x).mgmtLast = s.mgmtLast := rfl
@[simp] theorem State.setAsid_mgmtRefused (s : State) (a : Nat) (x : AsidBlk) : (s.setAsid a x).mgmtRefused = s.mgmtRefused := rfl
@[simp] theorem State.setAsid_place (s : State) (a : Nat) (x : AsidBlk) : (s.setAsid a x).place = s.place := rfl
@[simp] theorem State.setAsid_errors (s : State) (a : Nat) (x : AsidBlk) : (s.setAsid a x).errors = s.errors := rfl
@[simp] theorem State.setAsid_replaced (s : State) (a : Nat) (x : AsidBlk) : (s.setAsid a x).replaced = s.replaced := rfl
@[simp] theorem State.setAsid_worn (s : State) (a : Nat) (x : AsidBlk) : (s.setAsid a x).worn = s.worn := rfl
@[simp] theorem State.setAsid_flash (s : State) (a : Nat) (x : AsidBlk) : (s.setAsid a x).flash = s.flash := rfl
@[simp] theorem State.setAsid_grade (s : State) (a : Nat) (x : AsidBlk) : (s.setAsid a x).grade = s.grade := rfl
@[simp] theorem State.setAsid_certs (s : State) (a : Nat) (x : AsidBlk) : (s.setAsid a x).certs = s.certs := rfl
@[simp] theorem State.setAsid_flashVer (s : State) (a : Nat) (x : AsidBlk) : (s.setAsid a x).flashVer = s.flashVer := rfl
@[simp] theorem State.setAsid_versions (s : State) (a : Nat) (x : AsidBlk) : (s.setAsid a x).versions = s.versions := rfl
@[simp] theorem State.setAsid_clock (s : State) (a : Nat) (x : AsidBlk) : (s.setAsid a x).clock = s.clock := rfl
@[simp] theorem State.setAsid_throttled (s : State) (a : Nat) (x : AsidBlk) : (s.setAsid a x).throttled = s.throttled := rfl
@[simp] theorem State.setAsid_emergency (s : State) (a : Nat) (x : AsidBlk) : (s.setAsid a x).emergency = s.emergency := rfl
@[simp] theorem State.setAsid_up (s : State) (a : Nat) (x : AsidBlk) : (s.setAsid a x).up = s.up := rfl
@[simp] theorem State.setAsid_nvmeLog (s : State) (a : Nat) (x : AsidBlk) : (s.setAsid a x).nvmeLog = s.nvmeLog := rfl
@[simp] theorem State.setAsid_hostReads (s : State) (a : Nat) (x : AsidBlk) : (s.setAsid a x).hostReads = s.hostReads := rfl
@[simp] theorem State.setAsid_quotes (s : State) (a : Nat) (x : AsidBlk) : (s.setAsid a x).quotes = s.quotes := rfl
@[simp] theorem State.setAsid_cur (s : State) (a : Nat) (x : AsidBlk) : (s.setAsid a x).cur = s.cur := rfl
@[simp] theorem State.setAsid_sched (s : State) (a : Nat) (x : AsidBlk) : (s.setAsid a x).sched = s.sched := rfl
@[simp] theorem State.setAsid_seen (s : State) (a : Nat) (x : AsidBlk) : (s.setAsid a x).seen = s.seen := rfl
@[simp] theorem State.setAsid_fresh (s : State) (a : Nat) (x : AsidBlk) : (s.setAsid a x).fresh = s.fresh := rfl

/-! ### State.setPort -/

@[simp] theorem State.setPort_mem (s : State) (p : Nat) (x : Port) : (s.setPort p x).mem = s.mem := rfl
@[simp] theorem State.setPort_poison (s : State) (p : Nat) (x : Port) : (s.setPort p x).poison = s.poison := rfl
@[simp] theorem State.setPort_tile (s : State) (p : Nat) (x : Port) : (s.setPort p x).tile = s.tile := rfl
@[simp] theorem State.setPort_tpoison (s : State) (p : Nat) (x : Port) : (s.setPort p x).tpoison = s.tpoison := rfl
@[simp] theorem State.setPort_owners (s : State) (p : Nat) (x : Port) : (s.setPort p x).owners = s.owners := rfl
@[simp] theorem State.setPort_tags (s : State) (p : Nat) (x : Port) : (s.setPort p x).tags = s.tags := rfl
@[simp] theorem State.setPort_prompters (s : State) (p : Nat) (x : Port) : (s.setPort p x).prompters = s.prompters := rfl
@[simp] theorem State.setPort_cycle (s : State) (p : Nat) (x : Port) : (s.setPort p x).cycle = s.cycle := rfl
@[simp] theorem State.setPort_roles (s : State) (p : Nat) (x : Port) : (s.setPort p x).roles = s.roles := rfl
@[simp] theorem State.setPort_cores (s : State) (p : Nat) (x : Port) : (s.setPort p x).cores = s.cores := rfl
@[simp] theorem State.setPort_chans (s : State) (p : Nat) (x : Port) : (s.setPort p x).chans = s.chans := rfl
@[simp] theorem State.setPort_parts (s : State) (p : Nat) (x : Port) : (s.setPort p x).parts = s.parts := rfl
@[simp] theorem State.setPort_spans (s : State) (p : Nat) (x : Port) : (s.setPort p x).spans = s.spans := rfl
@[simp] theorem State.setPort_contribs (s : State) (p : Nat) (x : Port) : (s.setPort p x).contribs = s.contribs := rfl
@[simp] theorem State.setPort_bars (s : State) (p : Nat) (x : Port) : (s.setPort p x).bars = s.bars := rfl
@[simp] theorem State.setPort_asids (s : State) (p : Nat) (x : Port) : (s.setPort p x).asids = s.asids := rfl
@[simp] theorem State.setPort_tlb (s : State) (p : Nat) (x : Port) : (s.setPort p x).tlb = s.tlb := rfl
@[simp] theorem State.setPort_slotTab (s : State) (p : Nat) (x : Port) : (s.setPort p x).slotTab = s.slotTab := rfl
@[simp] theorem State.setPort_msets (s : State) (p : Nat) (x : Port) : (s.setPort p x).msets = s.msets := rfl
@[simp] theorem State.setPort_tagWin (s : State) (p : Nat) (x : Port) : (s.setPort p x).tagWin = s.tagWin := rfl
@[simp] theorem State.setPort_svcs (s : State) (p : Nat) (x : Port) : (s.setPort p x).svcs = s.svcs := rfl
@[simp] theorem State.setPort_monitor (s : State) (p : Nat) (x : Port) : (s.setPort p x).monitor = s.monitor := rfl
@[simp] theorem State.setPort_scheduler (s : State) (p : Nat) (x : Port) : (s.setPort p x).scheduler = s.scheduler := rfl
@[simp] theorem State.setPort_monImage (s : State) (p : Nat) (x : Port) : (s.setPort p x).monImage = s.monImage := rfl
@[simp] theorem State.setPort_schImage (s : State) (p : Nat) (x : Port) : (s.setPort p x).schImage = s.schImage := rfl
@[simp] theorem State.setPort_schedq (s : State) (p : Nat) (x : Port) : (s.setPort p x).schedq = s.schedq := rfl
@[simp] theorem State.setPort_viols (s : State) (p : Nat) (x : Port) : (s.setPort p x).viols = s.viols := rfl
@[simp] theorem State.setPort_strms (s : State) (p : Nat) (x : Port) : (s.setPort p x).strms = s.strms := rfl
@[simp] theorem State.setPort_wins (s : State) (p : Nat) (x : Port) : (s.setPort p x).wins = s.wins := rfl
@[simp] theorem State.setPort_curq (s : State) (p : Nat) (x : Port) : (s.setPort p x).curq = s.curq := rfl
@[simp] theorem State.setPort_ports (s : State) (p : Nat) (x : Port) : (s.setPort p x).ports = mput s.ports p x := rfl
@[simp] theorem State.setPort_mgmtOwner (s : State) (p : Nat) (x : Port) : (s.setPort p x).mgmtOwner = s.mgmtOwner := rfl
@[simp] theorem State.setPort_mgmtLast (s : State) (p : Nat) (x : Port) : (s.setPort p x).mgmtLast = s.mgmtLast := rfl
@[simp] theorem State.setPort_mgmtRefused (s : State) (p : Nat) (x : Port) : (s.setPort p x).mgmtRefused = s.mgmtRefused := rfl
@[simp] theorem State.setPort_place (s : State) (p : Nat) (x : Port) : (s.setPort p x).place = s.place := rfl
@[simp] theorem State.setPort_errors (s : State) (p : Nat) (x : Port) : (s.setPort p x).errors = s.errors := rfl
@[simp] theorem State.setPort_replaced (s : State) (p : Nat) (x : Port) : (s.setPort p x).replaced = s.replaced := rfl
@[simp] theorem State.setPort_worn (s : State) (p : Nat) (x : Port) : (s.setPort p x).worn = s.worn := rfl
@[simp] theorem State.setPort_flash (s : State) (p : Nat) (x : Port) : (s.setPort p x).flash = s.flash := rfl
@[simp] theorem State.setPort_grade (s : State) (p : Nat) (x : Port) : (s.setPort p x).grade = s.grade := rfl
@[simp] theorem State.setPort_certs (s : State) (p : Nat) (x : Port) : (s.setPort p x).certs = s.certs := rfl
@[simp] theorem State.setPort_flashVer (s : State) (p : Nat) (x : Port) : (s.setPort p x).flashVer = s.flashVer := rfl
@[simp] theorem State.setPort_versions (s : State) (p : Nat) (x : Port) : (s.setPort p x).versions = s.versions := rfl
@[simp] theorem State.setPort_clock (s : State) (p : Nat) (x : Port) : (s.setPort p x).clock = s.clock := rfl
@[simp] theorem State.setPort_throttled (s : State) (p : Nat) (x : Port) : (s.setPort p x).throttled = s.throttled := rfl
@[simp] theorem State.setPort_emergency (s : State) (p : Nat) (x : Port) : (s.setPort p x).emergency = s.emergency := rfl
@[simp] theorem State.setPort_up (s : State) (p : Nat) (x : Port) : (s.setPort p x).up = s.up := rfl
@[simp] theorem State.setPort_nvmeLog (s : State) (p : Nat) (x : Port) : (s.setPort p x).nvmeLog = s.nvmeLog := rfl
@[simp] theorem State.setPort_hostReads (s : State) (p : Nat) (x : Port) : (s.setPort p x).hostReads = s.hostReads := rfl
@[simp] theorem State.setPort_quotes (s : State) (p : Nat) (x : Port) : (s.setPort p x).quotes = s.quotes := rfl
@[simp] theorem State.setPort_cur (s : State) (p : Nat) (x : Port) : (s.setPort p x).cur = s.cur := rfl
@[simp] theorem State.setPort_sched (s : State) (p : Nat) (x : Port) : (s.setPort p x).sched = s.sched := rfl
@[simp] theorem State.setPort_seen (s : State) (p : Nat) (x : Port) : (s.setPort p x).seen = s.seen := rfl
@[simp] theorem State.setPort_fresh (s : State) (p : Nat) (x : Port) : (s.setPort p x).fresh = s.fresh := rfl

/-! ### State.setPrompter -/

@[simp] theorem State.setPrompter_mem (s : State) (n : Nat) (p : Prompter) : (s.setPrompter n p).mem = s.mem := rfl
@[simp] theorem State.setPrompter_poison (s : State) (n : Nat) (p : Prompter) : (s.setPrompter n p).poison = s.poison := rfl
@[simp] theorem State.setPrompter_tile (s : State) (n : Nat) (p : Prompter) : (s.setPrompter n p).tile = s.tile := rfl
@[simp] theorem State.setPrompter_tpoison (s : State) (n : Nat) (p : Prompter) : (s.setPrompter n p).tpoison = s.tpoison := rfl
@[simp] theorem State.setPrompter_owners (s : State) (n : Nat) (p : Prompter) : (s.setPrompter n p).owners = s.owners := rfl
@[simp] theorem State.setPrompter_tags (s : State) (n : Nat) (p : Prompter) : (s.setPrompter n p).tags = s.tags := rfl
@[simp] theorem State.setPrompter_prompters (s : State) (n : Nat) (p : Prompter) : (s.setPrompter n p).prompters = mput s.prompters n p := rfl
@[simp] theorem State.setPrompter_cycle (s : State) (n : Nat) (p : Prompter) : (s.setPrompter n p).cycle = s.cycle := rfl
@[simp] theorem State.setPrompter_roles (s : State) (n : Nat) (p : Prompter) : (s.setPrompter n p).roles = s.roles := rfl
@[simp] theorem State.setPrompter_cores (s : State) (n : Nat) (p : Prompter) : (s.setPrompter n p).cores = s.cores := rfl
@[simp] theorem State.setPrompter_chans (s : State) (n : Nat) (p : Prompter) : (s.setPrompter n p).chans = s.chans := rfl
@[simp] theorem State.setPrompter_parts (s : State) (n : Nat) (p : Prompter) : (s.setPrompter n p).parts = s.parts := rfl
@[simp] theorem State.setPrompter_spans (s : State) (n : Nat) (p : Prompter) : (s.setPrompter n p).spans = s.spans := rfl
@[simp] theorem State.setPrompter_contribs (s : State) (n : Nat) (p : Prompter) : (s.setPrompter n p).contribs = s.contribs := rfl
@[simp] theorem State.setPrompter_bars (s : State) (n : Nat) (p : Prompter) : (s.setPrompter n p).bars = s.bars := rfl
@[simp] theorem State.setPrompter_asids (s : State) (n : Nat) (p : Prompter) : (s.setPrompter n p).asids = s.asids := rfl
@[simp] theorem State.setPrompter_tlb (s : State) (n : Nat) (p : Prompter) : (s.setPrompter n p).tlb = s.tlb := rfl
@[simp] theorem State.setPrompter_slotTab (s : State) (n : Nat) (p : Prompter) : (s.setPrompter n p).slotTab = s.slotTab := rfl
@[simp] theorem State.setPrompter_msets (s : State) (n : Nat) (p : Prompter) : (s.setPrompter n p).msets = s.msets := rfl
@[simp] theorem State.setPrompter_tagWin (s : State) (n : Nat) (p : Prompter) : (s.setPrompter n p).tagWin = s.tagWin := rfl
@[simp] theorem State.setPrompter_svcs (s : State) (n : Nat) (p : Prompter) : (s.setPrompter n p).svcs = s.svcs := rfl
@[simp] theorem State.setPrompter_monitor (s : State) (n : Nat) (p : Prompter) : (s.setPrompter n p).monitor = s.monitor := rfl
@[simp] theorem State.setPrompter_scheduler (s : State) (n : Nat) (p : Prompter) : (s.setPrompter n p).scheduler = s.scheduler := rfl
@[simp] theorem State.setPrompter_monImage (s : State) (n : Nat) (p : Prompter) : (s.setPrompter n p).monImage = s.monImage := rfl
@[simp] theorem State.setPrompter_schImage (s : State) (n : Nat) (p : Prompter) : (s.setPrompter n p).schImage = s.schImage := rfl
@[simp] theorem State.setPrompter_schedq (s : State) (n : Nat) (p : Prompter) : (s.setPrompter n p).schedq = s.schedq := rfl
@[simp] theorem State.setPrompter_viols (s : State) (n : Nat) (p : Prompter) : (s.setPrompter n p).viols = s.viols := rfl
@[simp] theorem State.setPrompter_strms (s : State) (n : Nat) (p : Prompter) : (s.setPrompter n p).strms = s.strms := rfl
@[simp] theorem State.setPrompter_wins (s : State) (n : Nat) (p : Prompter) : (s.setPrompter n p).wins = s.wins := rfl
@[simp] theorem State.setPrompter_curq (s : State) (n : Nat) (p : Prompter) : (s.setPrompter n p).curq = s.curq := rfl
@[simp] theorem State.setPrompter_ports (s : State) (n : Nat) (p : Prompter) : (s.setPrompter n p).ports = s.ports := rfl
@[simp] theorem State.setPrompter_mgmtOwner (s : State) (n : Nat) (p : Prompter) : (s.setPrompter n p).mgmtOwner = s.mgmtOwner := rfl
@[simp] theorem State.setPrompter_mgmtLast (s : State) (n : Nat) (p : Prompter) : (s.setPrompter n p).mgmtLast = s.mgmtLast := rfl
@[simp] theorem State.setPrompter_mgmtRefused (s : State) (n : Nat) (p : Prompter) : (s.setPrompter n p).mgmtRefused = s.mgmtRefused := rfl
@[simp] theorem State.setPrompter_place (s : State) (n : Nat) (p : Prompter) : (s.setPrompter n p).place = s.place := rfl
@[simp] theorem State.setPrompter_errors (s : State) (n : Nat) (p : Prompter) : (s.setPrompter n p).errors = s.errors := rfl
@[simp] theorem State.setPrompter_replaced (s : State) (n : Nat) (p : Prompter) : (s.setPrompter n p).replaced = s.replaced := rfl
@[simp] theorem State.setPrompter_worn (s : State) (n : Nat) (p : Prompter) : (s.setPrompter n p).worn = s.worn := rfl
@[simp] theorem State.setPrompter_flash (s : State) (n : Nat) (p : Prompter) : (s.setPrompter n p).flash = s.flash := rfl
@[simp] theorem State.setPrompter_grade (s : State) (n : Nat) (p : Prompter) : (s.setPrompter n p).grade = s.grade := rfl
@[simp] theorem State.setPrompter_certs (s : State) (n : Nat) (p : Prompter) : (s.setPrompter n p).certs = s.certs := rfl
@[simp] theorem State.setPrompter_flashVer (s : State) (n : Nat) (p : Prompter) : (s.setPrompter n p).flashVer = s.flashVer := rfl
@[simp] theorem State.setPrompter_versions (s : State) (n : Nat) (p : Prompter) : (s.setPrompter n p).versions = s.versions := rfl
@[simp] theorem State.setPrompter_clock (s : State) (n : Nat) (p : Prompter) : (s.setPrompter n p).clock = s.clock := rfl
@[simp] theorem State.setPrompter_throttled (s : State) (n : Nat) (p : Prompter) : (s.setPrompter n p).throttled = s.throttled := rfl
@[simp] theorem State.setPrompter_emergency (s : State) (n : Nat) (p : Prompter) : (s.setPrompter n p).emergency = s.emergency := rfl
@[simp] theorem State.setPrompter_up (s : State) (n : Nat) (p : Prompter) : (s.setPrompter n p).up = s.up := rfl
@[simp] theorem State.setPrompter_nvmeLog (s : State) (n : Nat) (p : Prompter) : (s.setPrompter n p).nvmeLog = s.nvmeLog := rfl
@[simp] theorem State.setPrompter_hostReads (s : State) (n : Nat) (p : Prompter) : (s.setPrompter n p).hostReads = s.hostReads := rfl
@[simp] theorem State.setPrompter_quotes (s : State) (n : Nat) (p : Prompter) : (s.setPrompter n p).quotes = s.quotes := rfl
@[simp] theorem State.setPrompter_cur (s : State) (n : Nat) (p : Prompter) : (s.setPrompter n p).cur = s.cur := rfl
@[simp] theorem State.setPrompter_sched (s : State) (n : Nat) (p : Prompter) : (s.setPrompter n p).sched = s.sched := rfl
@[simp] theorem State.setPrompter_seen (s : State) (n : Nat) (p : Prompter) : (s.setPrompter n p).seen = s.seen := rfl
@[simp] theorem State.setPrompter_fresh (s : State) (n : Nat) (p : Prompter) : (s.setPrompter n p).fresh = s.fresh := rfl

/-! ### State.setTag -/

@[simp] theorem State.setTag_mem (s : State) (a : Nat) (t : BitVec 2) : (s.setTag a t).mem = s.mem := rfl
@[simp] theorem State.setTag_poison (s : State) (a : Nat) (t : BitVec 2) : (s.setTag a t).poison = s.poison := rfl
@[simp] theorem State.setTag_tile (s : State) (a : Nat) (t : BitVec 2) : (s.setTag a t).tile = s.tile := rfl
@[simp] theorem State.setTag_tpoison (s : State) (a : Nat) (t : BitVec 2) : (s.setTag a t).tpoison = s.tpoison := rfl
@[simp] theorem State.setTag_owners (s : State) (a : Nat) (t : BitVec 2) : (s.setTag a t).owners = s.owners := rfl
@[simp] theorem State.setTag_tags (s : State) (a : Nat) (t : BitVec 2) : (s.setTag a t).tags = Machine.mset tagVALUE s.tags (a / 64) t := rfl
@[simp] theorem State.setTag_prompters (s : State) (a : Nat) (t : BitVec 2) : (s.setTag a t).prompters = s.prompters := rfl
@[simp] theorem State.setTag_cycle (s : State) (a : Nat) (t : BitVec 2) : (s.setTag a t).cycle = s.cycle := rfl
@[simp] theorem State.setTag_roles (s : State) (a : Nat) (t : BitVec 2) : (s.setTag a t).roles = s.roles := rfl
@[simp] theorem State.setTag_cores (s : State) (a : Nat) (t : BitVec 2) : (s.setTag a t).cores = s.cores := rfl
@[simp] theorem State.setTag_chans (s : State) (a : Nat) (t : BitVec 2) : (s.setTag a t).chans = s.chans := rfl
@[simp] theorem State.setTag_parts (s : State) (a : Nat) (t : BitVec 2) : (s.setTag a t).parts = s.parts := rfl
@[simp] theorem State.setTag_spans (s : State) (a : Nat) (t : BitVec 2) : (s.setTag a t).spans = s.spans := rfl
@[simp] theorem State.setTag_contribs (s : State) (a : Nat) (t : BitVec 2) : (s.setTag a t).contribs = s.contribs := rfl
@[simp] theorem State.setTag_bars (s : State) (a : Nat) (t : BitVec 2) : (s.setTag a t).bars = s.bars := rfl
@[simp] theorem State.setTag_asids (s : State) (a : Nat) (t : BitVec 2) : (s.setTag a t).asids = s.asids := rfl
@[simp] theorem State.setTag_tlb (s : State) (a : Nat) (t : BitVec 2) : (s.setTag a t).tlb = s.tlb := rfl
@[simp] theorem State.setTag_slotTab (s : State) (a : Nat) (t : BitVec 2) : (s.setTag a t).slotTab = s.slotTab := rfl
@[simp] theorem State.setTag_msets (s : State) (a : Nat) (t : BitVec 2) : (s.setTag a t).msets = s.msets := rfl
@[simp] theorem State.setTag_tagWin (s : State) (a : Nat) (t : BitVec 2) : (s.setTag a t).tagWin = s.tagWin := rfl
@[simp] theorem State.setTag_svcs (s : State) (a : Nat) (t : BitVec 2) : (s.setTag a t).svcs = s.svcs := rfl
@[simp] theorem State.setTag_monitor (s : State) (a : Nat) (t : BitVec 2) : (s.setTag a t).monitor = s.monitor := rfl
@[simp] theorem State.setTag_scheduler (s : State) (a : Nat) (t : BitVec 2) : (s.setTag a t).scheduler = s.scheduler := rfl
@[simp] theorem State.setTag_monImage (s : State) (a : Nat) (t : BitVec 2) : (s.setTag a t).monImage = s.monImage := rfl
@[simp] theorem State.setTag_schImage (s : State) (a : Nat) (t : BitVec 2) : (s.setTag a t).schImage = s.schImage := rfl
@[simp] theorem State.setTag_schedq (s : State) (a : Nat) (t : BitVec 2) : (s.setTag a t).schedq = s.schedq := rfl
@[simp] theorem State.setTag_viols (s : State) (a : Nat) (t : BitVec 2) : (s.setTag a t).viols = s.viols := rfl
@[simp] theorem State.setTag_strms (s : State) (a : Nat) (t : BitVec 2) : (s.setTag a t).strms = s.strms := rfl
@[simp] theorem State.setTag_wins (s : State) (a : Nat) (t : BitVec 2) : (s.setTag a t).wins = s.wins := rfl
@[simp] theorem State.setTag_curq (s : State) (a : Nat) (t : BitVec 2) : (s.setTag a t).curq = s.curq := rfl
@[simp] theorem State.setTag_ports (s : State) (a : Nat) (t : BitVec 2) : (s.setTag a t).ports = s.ports := rfl
@[simp] theorem State.setTag_mgmtOwner (s : State) (a : Nat) (t : BitVec 2) : (s.setTag a t).mgmtOwner = s.mgmtOwner := rfl
@[simp] theorem State.setTag_mgmtLast (s : State) (a : Nat) (t : BitVec 2) : (s.setTag a t).mgmtLast = s.mgmtLast := rfl
@[simp] theorem State.setTag_mgmtRefused (s : State) (a : Nat) (t : BitVec 2) : (s.setTag a t).mgmtRefused = s.mgmtRefused := rfl
@[simp] theorem State.setTag_place (s : State) (a : Nat) (t : BitVec 2) : (s.setTag a t).place = s.place := rfl
@[simp] theorem State.setTag_errors (s : State) (a : Nat) (t : BitVec 2) : (s.setTag a t).errors = s.errors := rfl
@[simp] theorem State.setTag_replaced (s : State) (a : Nat) (t : BitVec 2) : (s.setTag a t).replaced = s.replaced := rfl
@[simp] theorem State.setTag_worn (s : State) (a : Nat) (t : BitVec 2) : (s.setTag a t).worn = s.worn := rfl
@[simp] theorem State.setTag_flash (s : State) (a : Nat) (t : BitVec 2) : (s.setTag a t).flash = s.flash := rfl
@[simp] theorem State.setTag_grade (s : State) (a : Nat) (t : BitVec 2) : (s.setTag a t).grade = s.grade := rfl
@[simp] theorem State.setTag_certs (s : State) (a : Nat) (t : BitVec 2) : (s.setTag a t).certs = s.certs := rfl
@[simp] theorem State.setTag_flashVer (s : State) (a : Nat) (t : BitVec 2) : (s.setTag a t).flashVer = s.flashVer := rfl
@[simp] theorem State.setTag_versions (s : State) (a : Nat) (t : BitVec 2) : (s.setTag a t).versions = s.versions := rfl
@[simp] theorem State.setTag_clock (s : State) (a : Nat) (t : BitVec 2) : (s.setTag a t).clock = s.clock := rfl
@[simp] theorem State.setTag_throttled (s : State) (a : Nat) (t : BitVec 2) : (s.setTag a t).throttled = s.throttled := rfl
@[simp] theorem State.setTag_emergency (s : State) (a : Nat) (t : BitVec 2) : (s.setTag a t).emergency = s.emergency := rfl
@[simp] theorem State.setTag_up (s : State) (a : Nat) (t : BitVec 2) : (s.setTag a t).up = s.up := rfl
@[simp] theorem State.setTag_nvmeLog (s : State) (a : Nat) (t : BitVec 2) : (s.setTag a t).nvmeLog = s.nvmeLog := rfl
@[simp] theorem State.setTag_hostReads (s : State) (a : Nat) (t : BitVec 2) : (s.setTag a t).hostReads = s.hostReads := rfl
@[simp] theorem State.setTag_quotes (s : State) (a : Nat) (t : BitVec 2) : (s.setTag a t).quotes = s.quotes := rfl
@[simp] theorem State.setTag_cur (s : State) (a : Nat) (t : BitVec 2) : (s.setTag a t).cur = s.cur := rfl
@[simp] theorem State.setTag_sched (s : State) (a : Nat) (t : BitVec 2) : (s.setTag a t).sched = s.sched := rfl
@[simp] theorem State.setTag_seen (s : State) (a : Nat) (t : BitVec 2) : (s.setTag a t).seen = s.seen := rfl
@[simp] theorem State.setTag_fresh (s : State) (a : Nat) (t : BitVec 2) : (s.setTag a t).fresh = s.fresh := rfl

/-! ### State.setCstream -/

@[simp] theorem State.setCstream_mem (s : State) (n : Nat) (x : CStream) : (s.setCstream n x).mem = s.mem := rfl
@[simp] theorem State.setCstream_poison (s : State) (n : Nat) (x : CStream) : (s.setCstream n x).poison = s.poison := rfl
@[simp] theorem State.setCstream_tile (s : State) (n : Nat) (x : CStream) : (s.setCstream n x).tile = s.tile := rfl
@[simp] theorem State.setCstream_tpoison (s : State) (n : Nat) (x : CStream) : (s.setCstream n x).tpoison = s.tpoison := rfl
@[simp] theorem State.setCstream_owners (s : State) (n : Nat) (x : CStream) : (s.setCstream n x).owners = s.owners := rfl
@[simp] theorem State.setCstream_tags (s : State) (n : Nat) (x : CStream) : (s.setCstream n x).tags = s.tags := rfl
@[simp] theorem State.setCstream_prompters (s : State) (n : Nat) (x : CStream) : (s.setCstream n x).prompters = s.prompters := rfl
@[simp] theorem State.setCstream_cycle (s : State) (n : Nat) (x : CStream) : (s.setCstream n x).cycle = s.cycle := rfl
@[simp] theorem State.setCstream_roles (s : State) (n : Nat) (x : CStream) : (s.setCstream n x).roles = s.roles := rfl
@[simp] theorem State.setCstream_cores (s : State) (n : Nat) (x : CStream) : (s.setCstream n x).cores = s.cores := rfl
@[simp] theorem State.setCstream_chans (s : State) (n : Nat) (x : CStream) : (s.setCstream n x).chans = s.chans := rfl
@[simp] theorem State.setCstream_parts (s : State) (n : Nat) (x : CStream) : (s.setCstream n x).parts = s.parts := rfl
@[simp] theorem State.setCstream_spans (s : State) (n : Nat) (x : CStream) : (s.setCstream n x).spans = s.spans := rfl
@[simp] theorem State.setCstream_contribs (s : State) (n : Nat) (x : CStream) : (s.setCstream n x).contribs = s.contribs := rfl
@[simp] theorem State.setCstream_bars (s : State) (n : Nat) (x : CStream) : (s.setCstream n x).bars = s.bars := rfl
@[simp] theorem State.setCstream_asids (s : State) (n : Nat) (x : CStream) : (s.setCstream n x).asids = s.asids := rfl
@[simp] theorem State.setCstream_tlb (s : State) (n : Nat) (x : CStream) : (s.setCstream n x).tlb = s.tlb := rfl
@[simp] theorem State.setCstream_slotTab (s : State) (n : Nat) (x : CStream) : (s.setCstream n x).slotTab = s.slotTab := rfl
@[simp] theorem State.setCstream_msets (s : State) (n : Nat) (x : CStream) : (s.setCstream n x).msets = s.msets := rfl
@[simp] theorem State.setCstream_tagWin (s : State) (n : Nat) (x : CStream) : (s.setCstream n x).tagWin = s.tagWin := rfl
@[simp] theorem State.setCstream_svcs (s : State) (n : Nat) (x : CStream) : (s.setCstream n x).svcs = s.svcs := rfl
@[simp] theorem State.setCstream_monitor (s : State) (n : Nat) (x : CStream) : (s.setCstream n x).monitor = s.monitor := rfl
@[simp] theorem State.setCstream_scheduler (s : State) (n : Nat) (x : CStream) : (s.setCstream n x).scheduler = s.scheduler := rfl
@[simp] theorem State.setCstream_monImage (s : State) (n : Nat) (x : CStream) : (s.setCstream n x).monImage = s.monImage := rfl
@[simp] theorem State.setCstream_schImage (s : State) (n : Nat) (x : CStream) : (s.setCstream n x).schImage = s.schImage := rfl
@[simp] theorem State.setCstream_schedq (s : State) (n : Nat) (x : CStream) : (s.setCstream n x).schedq = s.schedq := rfl
@[simp] theorem State.setCstream_viols (s : State) (n : Nat) (x : CStream) : (s.setCstream n x).viols = s.viols := rfl
@[simp] theorem State.setCstream_strms (s : State) (n : Nat) (x : CStream) : (s.setCstream n x).strms = mput s.strms n x := rfl
@[simp] theorem State.setCstream_wins (s : State) (n : Nat) (x : CStream) : (s.setCstream n x).wins = s.wins := rfl
@[simp] theorem State.setCstream_curq (s : State) (n : Nat) (x : CStream) : (s.setCstream n x).curq = s.curq := rfl
@[simp] theorem State.setCstream_ports (s : State) (n : Nat) (x : CStream) : (s.setCstream n x).ports = s.ports := rfl
@[simp] theorem State.setCstream_mgmtOwner (s : State) (n : Nat) (x : CStream) : (s.setCstream n x).mgmtOwner = s.mgmtOwner := rfl
@[simp] theorem State.setCstream_mgmtLast (s : State) (n : Nat) (x : CStream) : (s.setCstream n x).mgmtLast = s.mgmtLast := rfl
@[simp] theorem State.setCstream_mgmtRefused (s : State) (n : Nat) (x : CStream) : (s.setCstream n x).mgmtRefused = s.mgmtRefused := rfl
@[simp] theorem State.setCstream_place (s : State) (n : Nat) (x : CStream) : (s.setCstream n x).place = s.place := rfl
@[simp] theorem State.setCstream_errors (s : State) (n : Nat) (x : CStream) : (s.setCstream n x).errors = s.errors := rfl
@[simp] theorem State.setCstream_replaced (s : State) (n : Nat) (x : CStream) : (s.setCstream n x).replaced = s.replaced := rfl
@[simp] theorem State.setCstream_worn (s : State) (n : Nat) (x : CStream) : (s.setCstream n x).worn = s.worn := rfl
@[simp] theorem State.setCstream_flash (s : State) (n : Nat) (x : CStream) : (s.setCstream n x).flash = s.flash := rfl
@[simp] theorem State.setCstream_grade (s : State) (n : Nat) (x : CStream) : (s.setCstream n x).grade = s.grade := rfl
@[simp] theorem State.setCstream_certs (s : State) (n : Nat) (x : CStream) : (s.setCstream n x).certs = s.certs := rfl
@[simp] theorem State.setCstream_flashVer (s : State) (n : Nat) (x : CStream) : (s.setCstream n x).flashVer = s.flashVer := rfl
@[simp] theorem State.setCstream_versions (s : State) (n : Nat) (x : CStream) : (s.setCstream n x).versions = s.versions := rfl
@[simp] theorem State.setCstream_clock (s : State) (n : Nat) (x : CStream) : (s.setCstream n x).clock = s.clock := rfl
@[simp] theorem State.setCstream_throttled (s : State) (n : Nat) (x : CStream) : (s.setCstream n x).throttled = s.throttled := rfl
@[simp] theorem State.setCstream_emergency (s : State) (n : Nat) (x : CStream) : (s.setCstream n x).emergency = s.emergency := rfl
@[simp] theorem State.setCstream_up (s : State) (n : Nat) (x : CStream) : (s.setCstream n x).up = s.up := rfl
@[simp] theorem State.setCstream_nvmeLog (s : State) (n : Nat) (x : CStream) : (s.setCstream n x).nvmeLog = s.nvmeLog := rfl
@[simp] theorem State.setCstream_hostReads (s : State) (n : Nat) (x : CStream) : (s.setCstream n x).hostReads = s.hostReads := rfl
@[simp] theorem State.setCstream_quotes (s : State) (n : Nat) (x : CStream) : (s.setCstream n x).quotes = s.quotes := rfl
@[simp] theorem State.setCstream_cur (s : State) (n : Nat) (x : CStream) : (s.setCstream n x).cur = s.cur := rfl
@[simp] theorem State.setCstream_sched (s : State) (n : Nat) (x : CStream) : (s.setCstream n x).sched = s.sched := rfl
@[simp] theorem State.setCstream_seen (s : State) (n : Nat) (x : CStream) : (s.setCstream n x).seen = s.seen := rfl
@[simp] theorem State.setCstream_fresh (s : State) (n : Nat) (x : CStream) : (s.setCstream n x).fresh = s.fresh := rfl

/-! ### State.setWin -/

@[simp] theorem State.setWin_mem (s : State) (i : Nat) (w : CWin) : (s.setWin i w).mem = s.mem := rfl
@[simp] theorem State.setWin_poison (s : State) (i : Nat) (w : CWin) : (s.setWin i w).poison = s.poison := rfl
@[simp] theorem State.setWin_tile (s : State) (i : Nat) (w : CWin) : (s.setWin i w).tile = s.tile := rfl
@[simp] theorem State.setWin_tpoison (s : State) (i : Nat) (w : CWin) : (s.setWin i w).tpoison = s.tpoison := rfl
@[simp] theorem State.setWin_owners (s : State) (i : Nat) (w : CWin) : (s.setWin i w).owners = s.owners := rfl
@[simp] theorem State.setWin_tags (s : State) (i : Nat) (w : CWin) : (s.setWin i w).tags = s.tags := rfl
@[simp] theorem State.setWin_prompters (s : State) (i : Nat) (w : CWin) : (s.setWin i w).prompters = s.prompters := rfl
@[simp] theorem State.setWin_cycle (s : State) (i : Nat) (w : CWin) : (s.setWin i w).cycle = s.cycle := rfl
@[simp] theorem State.setWin_roles (s : State) (i : Nat) (w : CWin) : (s.setWin i w).roles = s.roles := rfl
@[simp] theorem State.setWin_cores (s : State) (i : Nat) (w : CWin) : (s.setWin i w).cores = s.cores := rfl
@[simp] theorem State.setWin_chans (s : State) (i : Nat) (w : CWin) : (s.setWin i w).chans = s.chans := rfl
@[simp] theorem State.setWin_parts (s : State) (i : Nat) (w : CWin) : (s.setWin i w).parts = s.parts := rfl
@[simp] theorem State.setWin_spans (s : State) (i : Nat) (w : CWin) : (s.setWin i w).spans = s.spans := rfl
@[simp] theorem State.setWin_contribs (s : State) (i : Nat) (w : CWin) : (s.setWin i w).contribs = s.contribs := rfl
@[simp] theorem State.setWin_bars (s : State) (i : Nat) (w : CWin) : (s.setWin i w).bars = s.bars := rfl
@[simp] theorem State.setWin_asids (s : State) (i : Nat) (w : CWin) : (s.setWin i w).asids = s.asids := rfl
@[simp] theorem State.setWin_tlb (s : State) (i : Nat) (w : CWin) : (s.setWin i w).tlb = s.tlb := rfl
@[simp] theorem State.setWin_slotTab (s : State) (i : Nat) (w : CWin) : (s.setWin i w).slotTab = s.slotTab := rfl
@[simp] theorem State.setWin_msets (s : State) (i : Nat) (w : CWin) : (s.setWin i w).msets = s.msets := rfl
@[simp] theorem State.setWin_tagWin (s : State) (i : Nat) (w : CWin) : (s.setWin i w).tagWin = s.tagWin := rfl
@[simp] theorem State.setWin_svcs (s : State) (i : Nat) (w : CWin) : (s.setWin i w).svcs = s.svcs := rfl
@[simp] theorem State.setWin_monitor (s : State) (i : Nat) (w : CWin) : (s.setWin i w).monitor = s.monitor := rfl
@[simp] theorem State.setWin_scheduler (s : State) (i : Nat) (w : CWin) : (s.setWin i w).scheduler = s.scheduler := rfl
@[simp] theorem State.setWin_monImage (s : State) (i : Nat) (w : CWin) : (s.setWin i w).monImage = s.monImage := rfl
@[simp] theorem State.setWin_schImage (s : State) (i : Nat) (w : CWin) : (s.setWin i w).schImage = s.schImage := rfl
@[simp] theorem State.setWin_schedq (s : State) (i : Nat) (w : CWin) : (s.setWin i w).schedq = s.schedq := rfl
@[simp] theorem State.setWin_viols (s : State) (i : Nat) (w : CWin) : (s.setWin i w).viols = s.viols := rfl
@[simp] theorem State.setWin_strms (s : State) (i : Nat) (w : CWin) : (s.setWin i w).strms = s.strms := rfl
@[simp] theorem State.setWin_wins (s : State) (i : Nat) (w : CWin) : (s.setWin i w).wins = mput s.wins i w := rfl
@[simp] theorem State.setWin_curq (s : State) (i : Nat) (w : CWin) : (s.setWin i w).curq = s.curq := rfl
@[simp] theorem State.setWin_ports (s : State) (i : Nat) (w : CWin) : (s.setWin i w).ports = s.ports := rfl
@[simp] theorem State.setWin_mgmtOwner (s : State) (i : Nat) (w : CWin) : (s.setWin i w).mgmtOwner = s.mgmtOwner := rfl
@[simp] theorem State.setWin_mgmtLast (s : State) (i : Nat) (w : CWin) : (s.setWin i w).mgmtLast = s.mgmtLast := rfl
@[simp] theorem State.setWin_mgmtRefused (s : State) (i : Nat) (w : CWin) : (s.setWin i w).mgmtRefused = s.mgmtRefused := rfl
@[simp] theorem State.setWin_place (s : State) (i : Nat) (w : CWin) : (s.setWin i w).place = s.place := rfl
@[simp] theorem State.setWin_errors (s : State) (i : Nat) (w : CWin) : (s.setWin i w).errors = s.errors := rfl
@[simp] theorem State.setWin_replaced (s : State) (i : Nat) (w : CWin) : (s.setWin i w).replaced = s.replaced := rfl
@[simp] theorem State.setWin_worn (s : State) (i : Nat) (w : CWin) : (s.setWin i w).worn = s.worn := rfl
@[simp] theorem State.setWin_flash (s : State) (i : Nat) (w : CWin) : (s.setWin i w).flash = s.flash := rfl
@[simp] theorem State.setWin_grade (s : State) (i : Nat) (w : CWin) : (s.setWin i w).grade = s.grade := rfl
@[simp] theorem State.setWin_certs (s : State) (i : Nat) (w : CWin) : (s.setWin i w).certs = s.certs := rfl
@[simp] theorem State.setWin_flashVer (s : State) (i : Nat) (w : CWin) : (s.setWin i w).flashVer = s.flashVer := rfl
@[simp] theorem State.setWin_versions (s : State) (i : Nat) (w : CWin) : (s.setWin i w).versions = s.versions := rfl
@[simp] theorem State.setWin_clock (s : State) (i : Nat) (w : CWin) : (s.setWin i w).clock = s.clock := rfl
@[simp] theorem State.setWin_throttled (s : State) (i : Nat) (w : CWin) : (s.setWin i w).throttled = s.throttled := rfl
@[simp] theorem State.setWin_emergency (s : State) (i : Nat) (w : CWin) : (s.setWin i w).emergency = s.emergency := rfl
@[simp] theorem State.setWin_up (s : State) (i : Nat) (w : CWin) : (s.setWin i w).up = s.up := rfl
@[simp] theorem State.setWin_nvmeLog (s : State) (i : Nat) (w : CWin) : (s.setWin i w).nvmeLog = s.nvmeLog := rfl
@[simp] theorem State.setWin_hostReads (s : State) (i : Nat) (w : CWin) : (s.setWin i w).hostReads = s.hostReads := rfl
@[simp] theorem State.setWin_quotes (s : State) (i : Nat) (w : CWin) : (s.setWin i w).quotes = s.quotes := rfl
@[simp] theorem State.setWin_cur (s : State) (i : Nat) (w : CWin) : (s.setWin i w).cur = s.cur := rfl
@[simp] theorem State.setWin_sched (s : State) (i : Nat) (w : CWin) : (s.setWin i w).sched = s.sched := rfl
@[simp] theorem State.setWin_seen (s : State) (i : Nat) (w : CWin) : (s.setWin i w).seen = s.seen := rfl
@[simp] theorem State.setWin_fresh (s : State) (i : Nat) (w : CWin) : (s.setWin i w).fresh = s.fresh := rfl

/-! ### State.memWrite -/

@[simp] theorem State.memWrite_mem (s : State) (a : Nat) (bs : List Byte) : (s.memWrite a bs).mem = writeBytes s.mem a bs := rfl
@[simp] theorem State.memWrite_tile (s : State) (a : Nat) (bs : List Byte) : (s.memWrite a bs).tile = s.tile := rfl
@[simp] theorem State.memWrite_tpoison (s : State) (a : Nat) (bs : List Byte) : (s.memWrite a bs).tpoison = s.tpoison := rfl
@[simp] theorem State.memWrite_owners (s : State) (a : Nat) (bs : List Byte) : (s.memWrite a bs).owners = s.owners := rfl
@[simp] theorem State.memWrite_tags (s : State) (a : Nat) (bs : List Byte) : (s.memWrite a bs).tags = s.tags := rfl
@[simp] theorem State.memWrite_prompters (s : State) (a : Nat) (bs : List Byte) : (s.memWrite a bs).prompters = s.prompters := rfl
@[simp] theorem State.memWrite_cycle (s : State) (a : Nat) (bs : List Byte) : (s.memWrite a bs).cycle = s.cycle := rfl
@[simp] theorem State.memWrite_roles (s : State) (a : Nat) (bs : List Byte) : (s.memWrite a bs).roles = s.roles := rfl
@[simp] theorem State.memWrite_cores (s : State) (a : Nat) (bs : List Byte) : (s.memWrite a bs).cores = s.cores := rfl
@[simp] theorem State.memWrite_chans (s : State) (a : Nat) (bs : List Byte) : (s.memWrite a bs).chans = s.chans := rfl
@[simp] theorem State.memWrite_parts (s : State) (a : Nat) (bs : List Byte) : (s.memWrite a bs).parts = s.parts := rfl
@[simp] theorem State.memWrite_spans (s : State) (a : Nat) (bs : List Byte) : (s.memWrite a bs).spans = s.spans := rfl
@[simp] theorem State.memWrite_contribs (s : State) (a : Nat) (bs : List Byte) : (s.memWrite a bs).contribs = s.contribs := rfl
@[simp] theorem State.memWrite_bars (s : State) (a : Nat) (bs : List Byte) : (s.memWrite a bs).bars = s.bars := rfl
@[simp] theorem State.memWrite_asids (s : State) (a : Nat) (bs : List Byte) : (s.memWrite a bs).asids = s.asids := rfl
@[simp] theorem State.memWrite_tlb (s : State) (a : Nat) (bs : List Byte) : (s.memWrite a bs).tlb = s.tlb := rfl
@[simp] theorem State.memWrite_slotTab (s : State) (a : Nat) (bs : List Byte) : (s.memWrite a bs).slotTab = s.slotTab := rfl
@[simp] theorem State.memWrite_msets (s : State) (a : Nat) (bs : List Byte) : (s.memWrite a bs).msets = s.msets := rfl
@[simp] theorem State.memWrite_tagWin (s : State) (a : Nat) (bs : List Byte) : (s.memWrite a bs).tagWin = s.tagWin := rfl
@[simp] theorem State.memWrite_svcs (s : State) (a : Nat) (bs : List Byte) : (s.memWrite a bs).svcs = s.svcs := rfl
@[simp] theorem State.memWrite_monitor (s : State) (a : Nat) (bs : List Byte) : (s.memWrite a bs).monitor = s.monitor := rfl
@[simp] theorem State.memWrite_scheduler (s : State) (a : Nat) (bs : List Byte) : (s.memWrite a bs).scheduler = s.scheduler := rfl
@[simp] theorem State.memWrite_monImage (s : State) (a : Nat) (bs : List Byte) : (s.memWrite a bs).monImage = s.monImage := rfl
@[simp] theorem State.memWrite_schImage (s : State) (a : Nat) (bs : List Byte) : (s.memWrite a bs).schImage = s.schImage := rfl
@[simp] theorem State.memWrite_schedq (s : State) (a : Nat) (bs : List Byte) : (s.memWrite a bs).schedq = s.schedq := rfl
@[simp] theorem State.memWrite_viols (s : State) (a : Nat) (bs : List Byte) : (s.memWrite a bs).viols = s.viols := rfl
@[simp] theorem State.memWrite_strms (s : State) (a : Nat) (bs : List Byte) : (s.memWrite a bs).strms = s.strms := rfl
@[simp] theorem State.memWrite_wins (s : State) (a : Nat) (bs : List Byte) : (s.memWrite a bs).wins = s.wins := rfl
@[simp] theorem State.memWrite_curq (s : State) (a : Nat) (bs : List Byte) : (s.memWrite a bs).curq = s.curq := rfl
@[simp] theorem State.memWrite_ports (s : State) (a : Nat) (bs : List Byte) : (s.memWrite a bs).ports = s.ports := rfl
@[simp] theorem State.memWrite_mgmtOwner (s : State) (a : Nat) (bs : List Byte) : (s.memWrite a bs).mgmtOwner = s.mgmtOwner := rfl
@[simp] theorem State.memWrite_mgmtLast (s : State) (a : Nat) (bs : List Byte) : (s.memWrite a bs).mgmtLast = s.mgmtLast := rfl
@[simp] theorem State.memWrite_mgmtRefused (s : State) (a : Nat) (bs : List Byte) : (s.memWrite a bs).mgmtRefused = s.mgmtRefused := rfl
@[simp] theorem State.memWrite_place (s : State) (a : Nat) (bs : List Byte) : (s.memWrite a bs).place = s.place := rfl
@[simp] theorem State.memWrite_errors (s : State) (a : Nat) (bs : List Byte) : (s.memWrite a bs).errors = s.errors := rfl
@[simp] theorem State.memWrite_replaced (s : State) (a : Nat) (bs : List Byte) : (s.memWrite a bs).replaced = s.replaced := rfl
@[simp] theorem State.memWrite_worn (s : State) (a : Nat) (bs : List Byte) : (s.memWrite a bs).worn = s.worn := rfl
@[simp] theorem State.memWrite_flash (s : State) (a : Nat) (bs : List Byte) : (s.memWrite a bs).flash = s.flash := rfl
@[simp] theorem State.memWrite_grade (s : State) (a : Nat) (bs : List Byte) : (s.memWrite a bs).grade = s.grade := rfl
@[simp] theorem State.memWrite_certs (s : State) (a : Nat) (bs : List Byte) : (s.memWrite a bs).certs = s.certs := rfl
@[simp] theorem State.memWrite_flashVer (s : State) (a : Nat) (bs : List Byte) : (s.memWrite a bs).flashVer = s.flashVer := rfl
@[simp] theorem State.memWrite_versions (s : State) (a : Nat) (bs : List Byte) : (s.memWrite a bs).versions = s.versions := rfl
@[simp] theorem State.memWrite_clock (s : State) (a : Nat) (bs : List Byte) : (s.memWrite a bs).clock = s.clock := rfl
@[simp] theorem State.memWrite_throttled (s : State) (a : Nat) (bs : List Byte) : (s.memWrite a bs).throttled = s.throttled := rfl
@[simp] theorem State.memWrite_emergency (s : State) (a : Nat) (bs : List Byte) : (s.memWrite a bs).emergency = s.emergency := rfl
@[simp] theorem State.memWrite_up (s : State) (a : Nat) (bs : List Byte) : (s.memWrite a bs).up = s.up := rfl
@[simp] theorem State.memWrite_nvmeLog (s : State) (a : Nat) (bs : List Byte) : (s.memWrite a bs).nvmeLog = s.nvmeLog := rfl
@[simp] theorem State.memWrite_hostReads (s : State) (a : Nat) (bs : List Byte) : (s.memWrite a bs).hostReads = s.hostReads := rfl
@[simp] theorem State.memWrite_quotes (s : State) (a : Nat) (bs : List Byte) : (s.memWrite a bs).quotes = s.quotes := rfl
@[simp] theorem State.memWrite_cur (s : State) (a : Nat) (bs : List Byte) : (s.memWrite a bs).cur = s.cur := rfl
@[simp] theorem State.memWrite_sched (s : State) (a : Nat) (bs : List Byte) : (s.memWrite a bs).sched = s.sched := rfl
@[simp] theorem State.memWrite_seen (s : State) (a : Nat) (bs : List Byte) : (s.memWrite a bs).seen = s.seen := rfl
@[simp] theorem State.memWrite_fresh (s : State) (a : Nat) (bs : List Byte) : (s.memWrite a bs).fresh = s.fresh := rfl

/-! ### State.tileWrite -/

@[simp] theorem State.tileWrite_mem (s : State) (c o : Nat) (bs : List Byte) : (s.tileWrite c o bs).mem = s.mem := rfl
@[simp] theorem State.tileWrite_poison (s : State) (c o : Nat) (bs : List Byte) : (s.tileWrite c o bs).poison = s.poison := rfl
@[simp] theorem State.tileWrite_tile (s : State) (c o : Nat) (bs : List Byte) : (s.tileWrite c o bs).tile = writeBytes s.tile (tkey c o) bs := rfl
@[simp] theorem State.tileWrite_owners (s : State) (c o : Nat) (bs : List Byte) : (s.tileWrite c o bs).owners = s.owners := rfl
@[simp] theorem State.tileWrite_tags (s : State) (c o : Nat) (bs : List Byte) : (s.tileWrite c o bs).tags = s.tags := rfl
@[simp] theorem State.tileWrite_prompters (s : State) (c o : Nat) (bs : List Byte) : (s.tileWrite c o bs).prompters = s.prompters := rfl
@[simp] theorem State.tileWrite_cycle (s : State) (c o : Nat) (bs : List Byte) : (s.tileWrite c o bs).cycle = s.cycle := rfl
@[simp] theorem State.tileWrite_roles (s : State) (c o : Nat) (bs : List Byte) : (s.tileWrite c o bs).roles = s.roles := rfl
@[simp] theorem State.tileWrite_cores (s : State) (c o : Nat) (bs : List Byte) : (s.tileWrite c o bs).cores = s.cores := rfl
@[simp] theorem State.tileWrite_chans (s : State) (c o : Nat) (bs : List Byte) : (s.tileWrite c o bs).chans = s.chans := rfl
@[simp] theorem State.tileWrite_parts (s : State) (c o : Nat) (bs : List Byte) : (s.tileWrite c o bs).parts = s.parts := rfl
@[simp] theorem State.tileWrite_spans (s : State) (c o : Nat) (bs : List Byte) : (s.tileWrite c o bs).spans = s.spans := rfl
@[simp] theorem State.tileWrite_contribs (s : State) (c o : Nat) (bs : List Byte) : (s.tileWrite c o bs).contribs = s.contribs := rfl
@[simp] theorem State.tileWrite_bars (s : State) (c o : Nat) (bs : List Byte) : (s.tileWrite c o bs).bars = s.bars := rfl
@[simp] theorem State.tileWrite_asids (s : State) (c o : Nat) (bs : List Byte) : (s.tileWrite c o bs).asids = s.asids := rfl
@[simp] theorem State.tileWrite_tlb (s : State) (c o : Nat) (bs : List Byte) : (s.tileWrite c o bs).tlb = s.tlb := rfl
@[simp] theorem State.tileWrite_slotTab (s : State) (c o : Nat) (bs : List Byte) : (s.tileWrite c o bs).slotTab = s.slotTab := rfl
@[simp] theorem State.tileWrite_msets (s : State) (c o : Nat) (bs : List Byte) : (s.tileWrite c o bs).msets = s.msets := rfl
@[simp] theorem State.tileWrite_tagWin (s : State) (c o : Nat) (bs : List Byte) : (s.tileWrite c o bs).tagWin = s.tagWin := rfl
@[simp] theorem State.tileWrite_svcs (s : State) (c o : Nat) (bs : List Byte) : (s.tileWrite c o bs).svcs = s.svcs := rfl
@[simp] theorem State.tileWrite_monitor (s : State) (c o : Nat) (bs : List Byte) : (s.tileWrite c o bs).monitor = s.monitor := rfl
@[simp] theorem State.tileWrite_scheduler (s : State) (c o : Nat) (bs : List Byte) : (s.tileWrite c o bs).scheduler = s.scheduler := rfl
@[simp] theorem State.tileWrite_monImage (s : State) (c o : Nat) (bs : List Byte) : (s.tileWrite c o bs).monImage = s.monImage := rfl
@[simp] theorem State.tileWrite_schImage (s : State) (c o : Nat) (bs : List Byte) : (s.tileWrite c o bs).schImage = s.schImage := rfl
@[simp] theorem State.tileWrite_schedq (s : State) (c o : Nat) (bs : List Byte) : (s.tileWrite c o bs).schedq = s.schedq := rfl
@[simp] theorem State.tileWrite_viols (s : State) (c o : Nat) (bs : List Byte) : (s.tileWrite c o bs).viols = s.viols := rfl
@[simp] theorem State.tileWrite_strms (s : State) (c o : Nat) (bs : List Byte) : (s.tileWrite c o bs).strms = s.strms := rfl
@[simp] theorem State.tileWrite_wins (s : State) (c o : Nat) (bs : List Byte) : (s.tileWrite c o bs).wins = s.wins := rfl
@[simp] theorem State.tileWrite_curq (s : State) (c o : Nat) (bs : List Byte) : (s.tileWrite c o bs).curq = s.curq := rfl
@[simp] theorem State.tileWrite_ports (s : State) (c o : Nat) (bs : List Byte) : (s.tileWrite c o bs).ports = s.ports := rfl
@[simp] theorem State.tileWrite_mgmtOwner (s : State) (c o : Nat) (bs : List Byte) : (s.tileWrite c o bs).mgmtOwner = s.mgmtOwner := rfl
@[simp] theorem State.tileWrite_mgmtLast (s : State) (c o : Nat) (bs : List Byte) : (s.tileWrite c o bs).mgmtLast = s.mgmtLast := rfl
@[simp] theorem State.tileWrite_mgmtRefused (s : State) (c o : Nat) (bs : List Byte) : (s.tileWrite c o bs).mgmtRefused = s.mgmtRefused := rfl
@[simp] theorem State.tileWrite_place (s : State) (c o : Nat) (bs : List Byte) : (s.tileWrite c o bs).place = s.place := rfl
@[simp] theorem State.tileWrite_errors (s : State) (c o : Nat) (bs : List Byte) : (s.tileWrite c o bs).errors = s.errors := rfl
@[simp] theorem State.tileWrite_replaced (s : State) (c o : Nat) (bs : List Byte) : (s.tileWrite c o bs).replaced = s.replaced := rfl
@[simp] theorem State.tileWrite_worn (s : State) (c o : Nat) (bs : List Byte) : (s.tileWrite c o bs).worn = s.worn := rfl
@[simp] theorem State.tileWrite_flash (s : State) (c o : Nat) (bs : List Byte) : (s.tileWrite c o bs).flash = s.flash := rfl
@[simp] theorem State.tileWrite_grade (s : State) (c o : Nat) (bs : List Byte) : (s.tileWrite c o bs).grade = s.grade := rfl
@[simp] theorem State.tileWrite_certs (s : State) (c o : Nat) (bs : List Byte) : (s.tileWrite c o bs).certs = s.certs := rfl
@[simp] theorem State.tileWrite_flashVer (s : State) (c o : Nat) (bs : List Byte) : (s.tileWrite c o bs).flashVer = s.flashVer := rfl
@[simp] theorem State.tileWrite_versions (s : State) (c o : Nat) (bs : List Byte) : (s.tileWrite c o bs).versions = s.versions := rfl
@[simp] theorem State.tileWrite_clock (s : State) (c o : Nat) (bs : List Byte) : (s.tileWrite c o bs).clock = s.clock := rfl
@[simp] theorem State.tileWrite_throttled (s : State) (c o : Nat) (bs : List Byte) : (s.tileWrite c o bs).throttled = s.throttled := rfl
@[simp] theorem State.tileWrite_emergency (s : State) (c o : Nat) (bs : List Byte) : (s.tileWrite c o bs).emergency = s.emergency := rfl
@[simp] theorem State.tileWrite_up (s : State) (c o : Nat) (bs : List Byte) : (s.tileWrite c o bs).up = s.up := rfl
@[simp] theorem State.tileWrite_nvmeLog (s : State) (c o : Nat) (bs : List Byte) : (s.tileWrite c o bs).nvmeLog = s.nvmeLog := rfl
@[simp] theorem State.tileWrite_hostReads (s : State) (c o : Nat) (bs : List Byte) : (s.tileWrite c o bs).hostReads = s.hostReads := rfl
@[simp] theorem State.tileWrite_quotes (s : State) (c o : Nat) (bs : List Byte) : (s.tileWrite c o bs).quotes = s.quotes := rfl
@[simp] theorem State.tileWrite_cur (s : State) (c o : Nat) (bs : List Byte) : (s.tileWrite c o bs).cur = s.cur := rfl
@[simp] theorem State.tileWrite_sched (s : State) (c o : Nat) (bs : List Byte) : (s.tileWrite c o bs).sched = s.sched := rfl
@[simp] theorem State.tileWrite_seen (s : State) (c o : Nat) (bs : List Byte) : (s.tileWrite c o bs).seen = s.seen := rfl
@[simp] theorem State.tileWrite_fresh (s : State) (c o : Nat) (bs : List Byte) : (s.tileWrite c o bs).fresh = s.fresh := rfl

/-! ### Role.setX -/

@[simp] theorem Role.setX_st (s : Role) (n : Nat) (v : Word) : (s.setX n v).st = s.st := rfl
@[simp] theorem Role.setX_frozen (s : Role) (n : Nat) (v : Word) : (s.setX n v).frozen = s.frozen := rfl
@[simp] theorem Role.setX_busy (s : Role) (n : Nat) (v : Word) : (s.setX n v).busy = s.busy := rfl
@[simp] theorem Role.setX_err (s : Role) (n : Nat) (v : Word) : (s.setX n v).err = s.err := rfl
@[simp] theorem Role.setX_blk (s : Role) (n : Nat) (v : Word) : (s.setX n v).blk = s.blk := rfl
@[simp] theorem Role.setX_part (s : Role) (n : Nat) (v : Word) : (s.setX n v).part = s.part := rfl
@[simp] theorem Role.setX_asid (s : Role) (n : Nat) (v : Word) : (s.setX n v).asid = s.asid := rfl
@[simp] theorem Role.setX_lid (s : Role) (n : Nat) (v : Word) : (s.setX n v).lid = s.lid := rfl
@[simp] theorem Role.setX_twBase (s : Role) (n : Nat) (v : Word) : (s.setX n v).twBase = s.twBase := rfl
@[simp] theorem Role.setX_twSize (s : Role) (n : Nat) (v : Word) : (s.setX n v).twSize = s.twSize := rfl
@[simp] theorem Role.setX_save (s : Role) (n : Nat) (v : Word) : (s.setX n v).save = s.save := rfl
@[simp] theorem Role.setX_hwStart (s : Role) (n : Nat) (v : Word) : (s.setX n v).hwStart = s.hwStart := rfl
@[simp] theorem Role.setX_hwLen (s : Role) (n : Nat) (v : Word) : (s.setX n v).hwLen = s.hwLen := rfl
@[simp] theorem Role.setX_recAddr (s : Role) (n : Nat) (v : Word) : (s.setX n v).recAddr = s.recAddr := rfl
@[simp] theorem Role.setX_det (s : Role) (n : Nat) (v : Word) : (s.setX n v).det = s.det := rfl
@[simp] theorem Role.setX_ncores (s : Role) (n : Nat) (v : Word) : (s.setX n v).ncores = s.ncores := rfl
@[simp] theorem Role.setX_participant (s : Role) (n : Nat) (v : Word) : (s.setX n v).participant = s.participant := rfl
@[simp] theorem Role.setX_arrival (s : Role) (n : Nat) (v : Word) : (s.setX n v).arrival = s.arrival := rfl
@[simp] theorem Role.setX_arrStart (s : Role) (n : Nat) (v : Word) : (s.setX n v).arrStart = s.arrStart := rfl
@[simp] theorem Role.setX_cl (s : Role) (n : Nat) (v : Word) : (s.setX n v).cl = s.cl := rfl
@[simp] theorem Role.setX_cm (s : Role) (n : Nat) (v : Word) : (s.setX n v).cm = s.cm := rfl
@[simp] theorem Role.setX_cv (s : Role) (n : Nat) (v : Word) : (s.setX n v).cv = s.cv := rfl
@[simp] theorem Role.setX_cw (s : Role) (n : Nat) (v : Word) : (s.setX n v).cw = s.cw := rfl
@[simp] theorem Role.setX_xs (s : Role) (n : Nat) (v : Word) : (s.setX n v).xs = mset (0 : Word) s.xs n v := rfl
@[simp] theorem Role.setX_ps (s : Role) (n : Nat) (v : Word) : (s.setX n v).ps = s.ps := rfl
@[simp] theorem Role.setX_vs (s : Role) (n : Nat) (v : Word) : (s.setX n v).vs = s.vs := rfl
@[simp] theorem Role.setX_qs (s : Role) (n : Nat) (v : Word) : (s.setX n v).qs = s.qs := rfl
@[simp] theorem Role.setX_strms (s : Role) (n : Nat) (v : Word) : (s.setX n v).strms = s.strms := rfl
@[simp] theorem Role.setX_rings (s : Role) (n : Nat) (v : Word) : (s.setX n v).rings = s.rings := rfl
@[simp] theorem Role.setX_flags (s : Role) (n : Nat) (v : Word) : (s.setX n v).flags = s.flags := rfl
@[simp] theorem Role.setX_flagen (s : Role) (n : Nat) (v : Word) : (s.setX n v).flagen = s.flagen := rfl
@[simp] theorem Role.setX_ffrec (s : Role) (n : Nat) (v : Word) : (s.setX n v).ffrec = s.ffrec := rfl
@[simp] theorem Role.setX_recent (s : Role) (n : Nat) (v : Word) : (s.setX n v).recent = s.recent := rfl
@[simp] theorem Role.setX_wdlimit (s : Role) (n : Nat) (v : Word) : (s.setX n v).wdlimit = s.wdlimit := rfl
@[simp] theorem Role.setX_eid (s : Role) (n : Nat) (v : Word) : (s.setX n v).eid = s.eid := rfl
@[simp] theorem Role.setX_cueerr (s : Role) (n : Nat) (v : Word) : (s.setX n v).cueerr = s.cueerr := rfl
@[simp] theorem Role.setX_cuewd (s : Role) (n : Nat) (v : Word) : (s.setX n v).cuewd = s.cuewd := rfl
@[simp] theorem Role.setX_rank (s : Role) (n : Nat) (v : Word) : (s.setX n v).rank = s.rank := rfl
@[simp] theorem Role.setX_levels (s : Role) (n : Nat) (v : Word) : (s.setX n v).levels = s.levels := rfl
@[simp] theorem Role.setX_lastcode (s : Role) (n : Nat) (v : Word) : (s.setX n v).lastcode = s.lastcode := rfl
@[simp] theorem Role.setX_nest (s : Role) (n : Nat) (v : Word) : (s.setX n v).nest = s.nest := rfl
@[simp] theorem Role.setX_owed (s : Role) (n : Nat) (v : Word) : (s.setX n v).owed = s.owed := rfl
@[simp] theorem Role.setX_drainSlot (s : Role) (n : Nat) (v : Word) : (s.setX n v).drainSlot = s.drainSlot := rfl
@[simp] theorem Role.setX_mstat (s : Role) (n : Nat) (v : Word) : (s.setX n v).mstat = s.mstat := rfl
@[simp] theorem Role.setX_acc (s : Role) (n : Nat) (v : Word) : (s.setX n v).acc = s.acc := rfl
@[simp] theorem Role.setX_copies (s : Role) (n : Nat) (v : Word) : (s.setX n v).copies = s.copies := rfl
@[simp] theorem Role.setX_nextId (s : Role) (n : Nat) (v : Word) : (s.setX n v).nextId = s.nextId := rfl
@[simp] theorem Role.setX_holds (s : Role) (n : Nat) (v : Word) : (s.setX n v).holds = s.holds := rfl
@[simp] theorem Role.setX_barA (s : Role) (n : Nat) (v : Word) : (s.setX n v).barA = s.barA := rfl
@[simp] theorem Role.setX_barW (s : Role) (n : Nat) (v : Word) : (s.setX n v).barW = s.barW := rfl
@[simp] theorem Role.setX_atomSeq (s : Role) (n : Nat) (v : Word) : (s.setX n v).atomSeq = s.atomSeq := rfl
@[simp] theorem Role.setX_lastAct (s : Role) (n : Nat) (v : Word) : (s.setX n v).lastAct = s.lastAct := rfl
@[simp] theorem Role.setX_haltAt (s : Role) (n : Nat) (v : Word) : (s.setX n v).haltAt = s.haltAt := rfl
@[simp] theorem Role.setX_stopReq (s : Role) (n : Nat) (v : Word) : (s.setX n v).stopReq = s.stopReq := rfl
@[simp] theorem Role.setX_stop (s : Role) (n : Nat) (v : Word) : (s.setX n v).stop = s.stop := rfl
@[simp] theorem Role.setX_recN (s : Role) (n : Nat) (v : Word) : (s.setX n v).recN = s.recN := rfl
@[simp] theorem Role.setX_entryPend (s : Role) (n : Nat) (v : Word) : (s.setX n v).entryPend = s.entryPend := rfl
@[simp] theorem Role.setX_snap (s : Role) (n : Nat) (v : Word) : (s.setX n v).snap = s.snap := rfl

/-! ### Role.setV -/

@[simp] theorem Role.setV_st (s : Role) (n : Nat) (v : Row) : (s.setV n v).st = s.st := rfl
@[simp] theorem Role.setV_frozen (s : Role) (n : Nat) (v : Row) : (s.setV n v).frozen = s.frozen := rfl
@[simp] theorem Role.setV_busy (s : Role) (n : Nat) (v : Row) : (s.setV n v).busy = s.busy := rfl
@[simp] theorem Role.setV_err (s : Role) (n : Nat) (v : Row) : (s.setV n v).err = s.err := rfl
@[simp] theorem Role.setV_blk (s : Role) (n : Nat) (v : Row) : (s.setV n v).blk = s.blk := rfl
@[simp] theorem Role.setV_part (s : Role) (n : Nat) (v : Row) : (s.setV n v).part = s.part := rfl
@[simp] theorem Role.setV_asid (s : Role) (n : Nat) (v : Row) : (s.setV n v).asid = s.asid := rfl
@[simp] theorem Role.setV_lid (s : Role) (n : Nat) (v : Row) : (s.setV n v).lid = s.lid := rfl
@[simp] theorem Role.setV_twBase (s : Role) (n : Nat) (v : Row) : (s.setV n v).twBase = s.twBase := rfl
@[simp] theorem Role.setV_twSize (s : Role) (n : Nat) (v : Row) : (s.setV n v).twSize = s.twSize := rfl
@[simp] theorem Role.setV_save (s : Role) (n : Nat) (v : Row) : (s.setV n v).save = s.save := rfl
@[simp] theorem Role.setV_hwStart (s : Role) (n : Nat) (v : Row) : (s.setV n v).hwStart = s.hwStart := rfl
@[simp] theorem Role.setV_hwLen (s : Role) (n : Nat) (v : Row) : (s.setV n v).hwLen = s.hwLen := rfl
@[simp] theorem Role.setV_recAddr (s : Role) (n : Nat) (v : Row) : (s.setV n v).recAddr = s.recAddr := rfl
@[simp] theorem Role.setV_det (s : Role) (n : Nat) (v : Row) : (s.setV n v).det = s.det := rfl
@[simp] theorem Role.setV_ncores (s : Role) (n : Nat) (v : Row) : (s.setV n v).ncores = s.ncores := rfl
@[simp] theorem Role.setV_participant (s : Role) (n : Nat) (v : Row) : (s.setV n v).participant = s.participant := rfl
@[simp] theorem Role.setV_arrival (s : Role) (n : Nat) (v : Row) : (s.setV n v).arrival = s.arrival := rfl
@[simp] theorem Role.setV_arrStart (s : Role) (n : Nat) (v : Row) : (s.setV n v).arrStart = s.arrStart := rfl
@[simp] theorem Role.setV_cl (s : Role) (n : Nat) (v : Row) : (s.setV n v).cl = s.cl := rfl
@[simp] theorem Role.setV_cm (s : Role) (n : Nat) (v : Row) : (s.setV n v).cm = s.cm := rfl
@[simp] theorem Role.setV_cv (s : Role) (n : Nat) (v : Row) : (s.setV n v).cv = s.cv := rfl
@[simp] theorem Role.setV_cw (s : Role) (n : Nat) (v : Row) : (s.setV n v).cw = s.cw := rfl
@[simp] theorem Role.setV_xs (s : Role) (n : Nat) (v : Row) : (s.setV n v).xs = s.xs := rfl
@[simp] theorem Role.setV_ps (s : Role) (n : Nat) (v : Row) : (s.setV n v).ps = s.ps := rfl
@[simp] theorem Role.setV_vs (s : Role) (n : Nat) (v : Row) : (s.setV n v).vs = mset (0 : Row) s.vs n v := rfl
@[simp] theorem Role.setV_qs (s : Role) (n : Nat) (v : Row) : (s.setV n v).qs = s.qs := rfl
@[simp] theorem Role.setV_strms (s : Role) (n : Nat) (v : Row) : (s.setV n v).strms = s.strms := rfl
@[simp] theorem Role.setV_rings (s : Role) (n : Nat) (v : Row) : (s.setV n v).rings = s.rings := rfl
@[simp] theorem Role.setV_flags (s : Role) (n : Nat) (v : Row) : (s.setV n v).flags = s.flags := rfl
@[simp] theorem Role.setV_flagen (s : Role) (n : Nat) (v : Row) : (s.setV n v).flagen = s.flagen := rfl
@[simp] theorem Role.setV_ffrec (s : Role) (n : Nat) (v : Row) : (s.setV n v).ffrec = s.ffrec := rfl
@[simp] theorem Role.setV_recent (s : Role) (n : Nat) (v : Row) : (s.setV n v).recent = s.recent := rfl
@[simp] theorem Role.setV_wdlimit (s : Role) (n : Nat) (v : Row) : (s.setV n v).wdlimit = s.wdlimit := rfl
@[simp] theorem Role.setV_eid (s : Role) (n : Nat) (v : Row) : (s.setV n v).eid = s.eid := rfl
@[simp] theorem Role.setV_cueerr (s : Role) (n : Nat) (v : Row) : (s.setV n v).cueerr = s.cueerr := rfl
@[simp] theorem Role.setV_cuewd (s : Role) (n : Nat) (v : Row) : (s.setV n v).cuewd = s.cuewd := rfl
@[simp] theorem Role.setV_rank (s : Role) (n : Nat) (v : Row) : (s.setV n v).rank = s.rank := rfl
@[simp] theorem Role.setV_levels (s : Role) (n : Nat) (v : Row) : (s.setV n v).levels = s.levels := rfl
@[simp] theorem Role.setV_lastcode (s : Role) (n : Nat) (v : Row) : (s.setV n v).lastcode = s.lastcode := rfl
@[simp] theorem Role.setV_nest (s : Role) (n : Nat) (v : Row) : (s.setV n v).nest = s.nest := rfl
@[simp] theorem Role.setV_owed (s : Role) (n : Nat) (v : Row) : (s.setV n v).owed = s.owed := rfl
@[simp] theorem Role.setV_drainSlot (s : Role) (n : Nat) (v : Row) : (s.setV n v).drainSlot = s.drainSlot := rfl
@[simp] theorem Role.setV_mstat (s : Role) (n : Nat) (v : Row) : (s.setV n v).mstat = s.mstat := rfl
@[simp] theorem Role.setV_acc (s : Role) (n : Nat) (v : Row) : (s.setV n v).acc = s.acc := rfl
@[simp] theorem Role.setV_copies (s : Role) (n : Nat) (v : Row) : (s.setV n v).copies = s.copies := rfl
@[simp] theorem Role.setV_nextId (s : Role) (n : Nat) (v : Row) : (s.setV n v).nextId = s.nextId := rfl
@[simp] theorem Role.setV_holds (s : Role) (n : Nat) (v : Row) : (s.setV n v).holds = s.holds := rfl
@[simp] theorem Role.setV_barA (s : Role) (n : Nat) (v : Row) : (s.setV n v).barA = s.barA := rfl
@[simp] theorem Role.setV_barW (s : Role) (n : Nat) (v : Row) : (s.setV n v).barW = s.barW := rfl
@[simp] theorem Role.setV_atomSeq (s : Role) (n : Nat) (v : Row) : (s.setV n v).atomSeq = s.atomSeq := rfl
@[simp] theorem Role.setV_lastAct (s : Role) (n : Nat) (v : Row) : (s.setV n v).lastAct = s.lastAct := rfl
@[simp] theorem Role.setV_haltAt (s : Role) (n : Nat) (v : Row) : (s.setV n v).haltAt = s.haltAt := rfl
@[simp] theorem Role.setV_stopReq (s : Role) (n : Nat) (v : Row) : (s.setV n v).stopReq = s.stopReq := rfl
@[simp] theorem Role.setV_stop (s : Role) (n : Nat) (v : Row) : (s.setV n v).stop = s.stop := rfl
@[simp] theorem Role.setV_recN (s : Role) (n : Nat) (v : Row) : (s.setV n v).recN = s.recN := rfl
@[simp] theorem Role.setV_entryPend (s : Role) (n : Nat) (v : Row) : (s.setV n v).entryPend = s.entryPend := rfl
@[simp] theorem Role.setV_snap (s : Role) (n : Nat) (v : Row) : (s.setV n v).snap = s.snap := rfl

/-! ### Role.setQ -/

@[simp] theorem Role.setQ_st (s : Role) (q : Nat) (l : List QEnt) : (s.setQ q l).st = s.st := rfl
@[simp] theorem Role.setQ_frozen (s : Role) (q : Nat) (l : List QEnt) : (s.setQ q l).frozen = s.frozen := rfl
@[simp] theorem Role.setQ_busy (s : Role) (q : Nat) (l : List QEnt) : (s.setQ q l).busy = s.busy := rfl
@[simp] theorem Role.setQ_err (s : Role) (q : Nat) (l : List QEnt) : (s.setQ q l).err = s.err := rfl
@[simp] theorem Role.setQ_blk (s : Role) (q : Nat) (l : List QEnt) : (s.setQ q l).blk = s.blk := rfl
@[simp] theorem Role.setQ_part (s : Role) (q : Nat) (l : List QEnt) : (s.setQ q l).part = s.part := rfl
@[simp] theorem Role.setQ_asid (s : Role) (q : Nat) (l : List QEnt) : (s.setQ q l).asid = s.asid := rfl
@[simp] theorem Role.setQ_lid (s : Role) (q : Nat) (l : List QEnt) : (s.setQ q l).lid = s.lid := rfl
@[simp] theorem Role.setQ_twBase (s : Role) (q : Nat) (l : List QEnt) : (s.setQ q l).twBase = s.twBase := rfl
@[simp] theorem Role.setQ_twSize (s : Role) (q : Nat) (l : List QEnt) : (s.setQ q l).twSize = s.twSize := rfl
@[simp] theorem Role.setQ_save (s : Role) (q : Nat) (l : List QEnt) : (s.setQ q l).save = s.save := rfl
@[simp] theorem Role.setQ_hwStart (s : Role) (q : Nat) (l : List QEnt) : (s.setQ q l).hwStart = s.hwStart := rfl
@[simp] theorem Role.setQ_hwLen (s : Role) (q : Nat) (l : List QEnt) : (s.setQ q l).hwLen = s.hwLen := rfl
@[simp] theorem Role.setQ_recAddr (s : Role) (q : Nat) (l : List QEnt) : (s.setQ q l).recAddr = s.recAddr := rfl
@[simp] theorem Role.setQ_det (s : Role) (q : Nat) (l : List QEnt) : (s.setQ q l).det = s.det := rfl
@[simp] theorem Role.setQ_ncores (s : Role) (q : Nat) (l : List QEnt) : (s.setQ q l).ncores = s.ncores := rfl
@[simp] theorem Role.setQ_participant (s : Role) (q : Nat) (l : List QEnt) : (s.setQ q l).participant = s.participant := rfl
@[simp] theorem Role.setQ_arrival (s : Role) (q : Nat) (l : List QEnt) : (s.setQ q l).arrival = s.arrival := rfl
@[simp] theorem Role.setQ_arrStart (s : Role) (q : Nat) (l : List QEnt) : (s.setQ q l).arrStart = s.arrStart := rfl
@[simp] theorem Role.setQ_cl (s : Role) (q : Nat) (l : List QEnt) : (s.setQ q l).cl = s.cl := rfl
@[simp] theorem Role.setQ_cm (s : Role) (q : Nat) (l : List QEnt) : (s.setQ q l).cm = s.cm := rfl
@[simp] theorem Role.setQ_cv (s : Role) (q : Nat) (l : List QEnt) : (s.setQ q l).cv = s.cv := rfl
@[simp] theorem Role.setQ_cw (s : Role) (q : Nat) (l : List QEnt) : (s.setQ q l).cw = s.cw := rfl
@[simp] theorem Role.setQ_xs (s : Role) (q : Nat) (l : List QEnt) : (s.setQ q l).xs = s.xs := rfl
@[simp] theorem Role.setQ_ps (s : Role) (q : Nat) (l : List QEnt) : (s.setQ q l).ps = s.ps := rfl
@[simp] theorem Role.setQ_vs (s : Role) (q : Nat) (l : List QEnt) : (s.setQ q l).vs = s.vs := rfl
@[simp] theorem Role.setQ_qs (s : Role) (q : Nat) (l : List QEnt) : (s.setQ q l).qs = mset [] s.qs q l := rfl
@[simp] theorem Role.setQ_strms (s : Role) (q : Nat) (l : List QEnt) : (s.setQ q l).strms = s.strms := rfl
@[simp] theorem Role.setQ_rings (s : Role) (q : Nat) (l : List QEnt) : (s.setQ q l).rings = s.rings := rfl
@[simp] theorem Role.setQ_flags (s : Role) (q : Nat) (l : List QEnt) : (s.setQ q l).flags = s.flags := rfl
@[simp] theorem Role.setQ_flagen (s : Role) (q : Nat) (l : List QEnt) : (s.setQ q l).flagen = s.flagen := rfl
@[simp] theorem Role.setQ_ffrec (s : Role) (q : Nat) (l : List QEnt) : (s.setQ q l).ffrec = s.ffrec := rfl
@[simp] theorem Role.setQ_recent (s : Role) (q : Nat) (l : List QEnt) : (s.setQ q l).recent = s.recent := rfl
@[simp] theorem Role.setQ_wdlimit (s : Role) (q : Nat) (l : List QEnt) : (s.setQ q l).wdlimit = s.wdlimit := rfl
@[simp] theorem Role.setQ_eid (s : Role) (q : Nat) (l : List QEnt) : (s.setQ q l).eid = s.eid := rfl
@[simp] theorem Role.setQ_cueerr (s : Role) (q : Nat) (l : List QEnt) : (s.setQ q l).cueerr = s.cueerr := rfl
@[simp] theorem Role.setQ_cuewd (s : Role) (q : Nat) (l : List QEnt) : (s.setQ q l).cuewd = s.cuewd := rfl
@[simp] theorem Role.setQ_rank (s : Role) (q : Nat) (l : List QEnt) : (s.setQ q l).rank = s.rank := rfl
@[simp] theorem Role.setQ_levels (s : Role) (q : Nat) (l : List QEnt) : (s.setQ q l).levels = s.levels := rfl
@[simp] theorem Role.setQ_lastcode (s : Role) (q : Nat) (l : List QEnt) : (s.setQ q l).lastcode = s.lastcode := rfl
@[simp] theorem Role.setQ_nest (s : Role) (q : Nat) (l : List QEnt) : (s.setQ q l).nest = s.nest := rfl
@[simp] theorem Role.setQ_owed (s : Role) (q : Nat) (l : List QEnt) : (s.setQ q l).owed = s.owed := rfl
@[simp] theorem Role.setQ_drainSlot (s : Role) (q : Nat) (l : List QEnt) : (s.setQ q l).drainSlot = s.drainSlot := rfl
@[simp] theorem Role.setQ_mstat (s : Role) (q : Nat) (l : List QEnt) : (s.setQ q l).mstat = s.mstat := rfl
@[simp] theorem Role.setQ_acc (s : Role) (q : Nat) (l : List QEnt) : (s.setQ q l).acc = s.acc := rfl
@[simp] theorem Role.setQ_copies (s : Role) (q : Nat) (l : List QEnt) : (s.setQ q l).copies = s.copies := rfl
@[simp] theorem Role.setQ_nextId (s : Role) (q : Nat) (l : List QEnt) : (s.setQ q l).nextId = s.nextId := rfl
@[simp] theorem Role.setQ_holds (s : Role) (q : Nat) (l : List QEnt) : (s.setQ q l).holds = s.holds := rfl
@[simp] theorem Role.setQ_barA (s : Role) (q : Nat) (l : List QEnt) : (s.setQ q l).barA = s.barA := rfl
@[simp] theorem Role.setQ_barW (s : Role) (q : Nat) (l : List QEnt) : (s.setQ q l).barW = s.barW := rfl
@[simp] theorem Role.setQ_atomSeq (s : Role) (q : Nat) (l : List QEnt) : (s.setQ q l).atomSeq = s.atomSeq := rfl
@[simp] theorem Role.setQ_lastAct (s : Role) (q : Nat) (l : List QEnt) : (s.setQ q l).lastAct = s.lastAct := rfl
@[simp] theorem Role.setQ_haltAt (s : Role) (q : Nat) (l : List QEnt) : (s.setQ q l).haltAt = s.haltAt := rfl
@[simp] theorem Role.setQ_stopReq (s : Role) (q : Nat) (l : List QEnt) : (s.setQ q l).stopReq = s.stopReq := rfl
@[simp] theorem Role.setQ_stop (s : Role) (q : Nat) (l : List QEnt) : (s.setQ q l).stop = s.stop := rfl
@[simp] theorem Role.setQ_recN (s : Role) (q : Nat) (l : List QEnt) : (s.setQ q l).recN = s.recN := rfl
@[simp] theorem Role.setQ_entryPend (s : Role) (q : Nat) (l : List QEnt) : (s.setQ q l).entryPend = s.entryPend := rfl
@[simp] theorem Role.setQ_snap (s : Role) (q : Nat) (l : List QEnt) : (s.setQ q l).snap = s.snap := rfl

/-! ### Role.setRing -/

@[simp] theorem Role.setRing_st (s : Role) (n : Nat) (g : Ring) : (s.setRing n g).st = s.st := rfl
@[simp] theorem Role.setRing_frozen (s : Role) (n : Nat) (g : Ring) : (s.setRing n g).frozen = s.frozen := rfl
@[simp] theorem Role.setRing_busy (s : Role) (n : Nat) (g : Ring) : (s.setRing n g).busy = s.busy := rfl
@[simp] theorem Role.setRing_err (s : Role) (n : Nat) (g : Ring) : (s.setRing n g).err = s.err := rfl
@[simp] theorem Role.setRing_blk (s : Role) (n : Nat) (g : Ring) : (s.setRing n g).blk = s.blk := rfl
@[simp] theorem Role.setRing_part (s : Role) (n : Nat) (g : Ring) : (s.setRing n g).part = s.part := rfl
@[simp] theorem Role.setRing_asid (s : Role) (n : Nat) (g : Ring) : (s.setRing n g).asid = s.asid := rfl
@[simp] theorem Role.setRing_lid (s : Role) (n : Nat) (g : Ring) : (s.setRing n g).lid = s.lid := rfl
@[simp] theorem Role.setRing_twBase (s : Role) (n : Nat) (g : Ring) : (s.setRing n g).twBase = s.twBase := rfl
@[simp] theorem Role.setRing_twSize (s : Role) (n : Nat) (g : Ring) : (s.setRing n g).twSize = s.twSize := rfl
@[simp] theorem Role.setRing_save (s : Role) (n : Nat) (g : Ring) : (s.setRing n g).save = s.save := rfl
@[simp] theorem Role.setRing_hwStart (s : Role) (n : Nat) (g : Ring) : (s.setRing n g).hwStart = s.hwStart := rfl
@[simp] theorem Role.setRing_hwLen (s : Role) (n : Nat) (g : Ring) : (s.setRing n g).hwLen = s.hwLen := rfl
@[simp] theorem Role.setRing_recAddr (s : Role) (n : Nat) (g : Ring) : (s.setRing n g).recAddr = s.recAddr := rfl
@[simp] theorem Role.setRing_det (s : Role) (n : Nat) (g : Ring) : (s.setRing n g).det = s.det := rfl
@[simp] theorem Role.setRing_ncores (s : Role) (n : Nat) (g : Ring) : (s.setRing n g).ncores = s.ncores := rfl
@[simp] theorem Role.setRing_participant (s : Role) (n : Nat) (g : Ring) : (s.setRing n g).participant = s.participant := rfl
@[simp] theorem Role.setRing_arrival (s : Role) (n : Nat) (g : Ring) : (s.setRing n g).arrival = s.arrival := rfl
@[simp] theorem Role.setRing_arrStart (s : Role) (n : Nat) (g : Ring) : (s.setRing n g).arrStart = s.arrStart := rfl
@[simp] theorem Role.setRing_cl (s : Role) (n : Nat) (g : Ring) : (s.setRing n g).cl = s.cl := rfl
@[simp] theorem Role.setRing_cm (s : Role) (n : Nat) (g : Ring) : (s.setRing n g).cm = s.cm := rfl
@[simp] theorem Role.setRing_cv (s : Role) (n : Nat) (g : Ring) : (s.setRing n g).cv = s.cv := rfl
@[simp] theorem Role.setRing_cw (s : Role) (n : Nat) (g : Ring) : (s.setRing n g).cw = s.cw := rfl
@[simp] theorem Role.setRing_xs (s : Role) (n : Nat) (g : Ring) : (s.setRing n g).xs = s.xs := rfl
@[simp] theorem Role.setRing_ps (s : Role) (n : Nat) (g : Ring) : (s.setRing n g).ps = s.ps := rfl
@[simp] theorem Role.setRing_vs (s : Role) (n : Nat) (g : Ring) : (s.setRing n g).vs = s.vs := rfl
@[simp] theorem Role.setRing_qs (s : Role) (n : Nat) (g : Ring) : (s.setRing n g).qs = s.qs := rfl
@[simp] theorem Role.setRing_strms (s : Role) (n : Nat) (g : Ring) : (s.setRing n g).strms = s.strms := rfl
@[simp] theorem Role.setRing_rings (s : Role) (n : Nat) (g : Ring) : (s.setRing n g).rings = mput s.rings n g := rfl
@[simp] theorem Role.setRing_flags (s : Role) (n : Nat) (g : Ring) : (s.setRing n g).flags = s.flags := rfl
@[simp] theorem Role.setRing_flagen (s : Role) (n : Nat) (g : Ring) : (s.setRing n g).flagen = s.flagen := rfl
@[simp] theorem Role.setRing_ffrec (s : Role) (n : Nat) (g : Ring) : (s.setRing n g).ffrec = s.ffrec := rfl
@[simp] theorem Role.setRing_recent (s : Role) (n : Nat) (g : Ring) : (s.setRing n g).recent = s.recent := rfl
@[simp] theorem Role.setRing_wdlimit (s : Role) (n : Nat) (g : Ring) : (s.setRing n g).wdlimit = s.wdlimit := rfl
@[simp] theorem Role.setRing_eid (s : Role) (n : Nat) (g : Ring) : (s.setRing n g).eid = s.eid := rfl
@[simp] theorem Role.setRing_cueerr (s : Role) (n : Nat) (g : Ring) : (s.setRing n g).cueerr = s.cueerr := rfl
@[simp] theorem Role.setRing_cuewd (s : Role) (n : Nat) (g : Ring) : (s.setRing n g).cuewd = s.cuewd := rfl
@[simp] theorem Role.setRing_rank (s : Role) (n : Nat) (g : Ring) : (s.setRing n g).rank = s.rank := rfl
@[simp] theorem Role.setRing_levels (s : Role) (n : Nat) (g : Ring) : (s.setRing n g).levels = s.levels := rfl
@[simp] theorem Role.setRing_lastcode (s : Role) (n : Nat) (g : Ring) : (s.setRing n g).lastcode = s.lastcode := rfl
@[simp] theorem Role.setRing_nest (s : Role) (n : Nat) (g : Ring) : (s.setRing n g).nest = s.nest := rfl
@[simp] theorem Role.setRing_owed (s : Role) (n : Nat) (g : Ring) : (s.setRing n g).owed = s.owed := rfl
@[simp] theorem Role.setRing_drainSlot (s : Role) (n : Nat) (g : Ring) : (s.setRing n g).drainSlot = s.drainSlot := rfl
@[simp] theorem Role.setRing_mstat (s : Role) (n : Nat) (g : Ring) : (s.setRing n g).mstat = s.mstat := rfl
@[simp] theorem Role.setRing_acc (s : Role) (n : Nat) (g : Ring) : (s.setRing n g).acc = s.acc := rfl
@[simp] theorem Role.setRing_copies (s : Role) (n : Nat) (g : Ring) : (s.setRing n g).copies = s.copies := rfl
@[simp] theorem Role.setRing_nextId (s : Role) (n : Nat) (g : Ring) : (s.setRing n g).nextId = s.nextId := rfl
@[simp] theorem Role.setRing_holds (s : Role) (n : Nat) (g : Ring) : (s.setRing n g).holds = s.holds := rfl
@[simp] theorem Role.setRing_barA (s : Role) (n : Nat) (g : Ring) : (s.setRing n g).barA = s.barA := rfl
@[simp] theorem Role.setRing_barW (s : Role) (n : Nat) (g : Ring) : (s.setRing n g).barW = s.barW := rfl
@[simp] theorem Role.setRing_atomSeq (s : Role) (n : Nat) (g : Ring) : (s.setRing n g).atomSeq = s.atomSeq := rfl
@[simp] theorem Role.setRing_lastAct (s : Role) (n : Nat) (g : Ring) : (s.setRing n g).lastAct = s.lastAct := rfl
@[simp] theorem Role.setRing_haltAt (s : Role) (n : Nat) (g : Ring) : (s.setRing n g).haltAt = s.haltAt := rfl
@[simp] theorem Role.setRing_stopReq (s : Role) (n : Nat) (g : Ring) : (s.setRing n g).stopReq = s.stopReq := rfl
@[simp] theorem Role.setRing_stop (s : Role) (n : Nat) (g : Ring) : (s.setRing n g).stop = s.stop := rfl
@[simp] theorem Role.setRing_recN (s : Role) (n : Nat) (g : Ring) : (s.setRing n g).recN = s.recN := rfl
@[simp] theorem Role.setRing_entryPend (s : Role) (n : Nat) (g : Ring) : (s.setRing n g).entryPend = s.entryPend := rfl
@[simp] theorem Role.setRing_snap (s : Role) (n : Nat) (g : Ring) : (s.setRing n g).snap = s.snap := rfl

/-! ### Role.setStrm -/

@[simp] theorem Role.setStrm_st (s : Role) (n : Nat) (t : Strm) : (s.setStrm n t).st = s.st := rfl
@[simp] theorem Role.setStrm_frozen (s : Role) (n : Nat) (t : Strm) : (s.setStrm n t).frozen = s.frozen := rfl
@[simp] theorem Role.setStrm_busy (s : Role) (n : Nat) (t : Strm) : (s.setStrm n t).busy = s.busy := rfl
@[simp] theorem Role.setStrm_err (s : Role) (n : Nat) (t : Strm) : (s.setStrm n t).err = s.err := rfl
@[simp] theorem Role.setStrm_blk (s : Role) (n : Nat) (t : Strm) : (s.setStrm n t).blk = s.blk := rfl
@[simp] theorem Role.setStrm_part (s : Role) (n : Nat) (t : Strm) : (s.setStrm n t).part = s.part := rfl
@[simp] theorem Role.setStrm_asid (s : Role) (n : Nat) (t : Strm) : (s.setStrm n t).asid = s.asid := rfl
@[simp] theorem Role.setStrm_lid (s : Role) (n : Nat) (t : Strm) : (s.setStrm n t).lid = s.lid := rfl
@[simp] theorem Role.setStrm_twBase (s : Role) (n : Nat) (t : Strm) : (s.setStrm n t).twBase = s.twBase := rfl
@[simp] theorem Role.setStrm_twSize (s : Role) (n : Nat) (t : Strm) : (s.setStrm n t).twSize = s.twSize := rfl
@[simp] theorem Role.setStrm_save (s : Role) (n : Nat) (t : Strm) : (s.setStrm n t).save = s.save := rfl
@[simp] theorem Role.setStrm_hwStart (s : Role) (n : Nat) (t : Strm) : (s.setStrm n t).hwStart = s.hwStart := rfl
@[simp] theorem Role.setStrm_hwLen (s : Role) (n : Nat) (t : Strm) : (s.setStrm n t).hwLen = s.hwLen := rfl
@[simp] theorem Role.setStrm_recAddr (s : Role) (n : Nat) (t : Strm) : (s.setStrm n t).recAddr = s.recAddr := rfl
@[simp] theorem Role.setStrm_det (s : Role) (n : Nat) (t : Strm) : (s.setStrm n t).det = s.det := rfl
@[simp] theorem Role.setStrm_ncores (s : Role) (n : Nat) (t : Strm) : (s.setStrm n t).ncores = s.ncores := rfl
@[simp] theorem Role.setStrm_participant (s : Role) (n : Nat) (t : Strm) : (s.setStrm n t).participant = s.participant := rfl
@[simp] theorem Role.setStrm_arrival (s : Role) (n : Nat) (t : Strm) : (s.setStrm n t).arrival = s.arrival := rfl
@[simp] theorem Role.setStrm_arrStart (s : Role) (n : Nat) (t : Strm) : (s.setStrm n t).arrStart = s.arrStart := rfl
@[simp] theorem Role.setStrm_cl (s : Role) (n : Nat) (t : Strm) : (s.setStrm n t).cl = s.cl := rfl
@[simp] theorem Role.setStrm_cm (s : Role) (n : Nat) (t : Strm) : (s.setStrm n t).cm = s.cm := rfl
@[simp] theorem Role.setStrm_cv (s : Role) (n : Nat) (t : Strm) : (s.setStrm n t).cv = s.cv := rfl
@[simp] theorem Role.setStrm_cw (s : Role) (n : Nat) (t : Strm) : (s.setStrm n t).cw = s.cw := rfl
@[simp] theorem Role.setStrm_xs (s : Role) (n : Nat) (t : Strm) : (s.setStrm n t).xs = s.xs := rfl
@[simp] theorem Role.setStrm_ps (s : Role) (n : Nat) (t : Strm) : (s.setStrm n t).ps = s.ps := rfl
@[simp] theorem Role.setStrm_vs (s : Role) (n : Nat) (t : Strm) : (s.setStrm n t).vs = s.vs := rfl
@[simp] theorem Role.setStrm_qs (s : Role) (n : Nat) (t : Strm) : (s.setStrm n t).qs = s.qs := rfl
@[simp] theorem Role.setStrm_strms (s : Role) (n : Nat) (t : Strm) : (s.setStrm n t).strms = mput s.strms n t := rfl
@[simp] theorem Role.setStrm_rings (s : Role) (n : Nat) (t : Strm) : (s.setStrm n t).rings = s.rings := rfl
@[simp] theorem Role.setStrm_flags (s : Role) (n : Nat) (t : Strm) : (s.setStrm n t).flags = s.flags := rfl
@[simp] theorem Role.setStrm_flagen (s : Role) (n : Nat) (t : Strm) : (s.setStrm n t).flagen = s.flagen := rfl
@[simp] theorem Role.setStrm_ffrec (s : Role) (n : Nat) (t : Strm) : (s.setStrm n t).ffrec = s.ffrec := rfl
@[simp] theorem Role.setStrm_recent (s : Role) (n : Nat) (t : Strm) : (s.setStrm n t).recent = s.recent := rfl
@[simp] theorem Role.setStrm_wdlimit (s : Role) (n : Nat) (t : Strm) : (s.setStrm n t).wdlimit = s.wdlimit := rfl
@[simp] theorem Role.setStrm_eid (s : Role) (n : Nat) (t : Strm) : (s.setStrm n t).eid = s.eid := rfl
@[simp] theorem Role.setStrm_cueerr (s : Role) (n : Nat) (t : Strm) : (s.setStrm n t).cueerr = s.cueerr := rfl
@[simp] theorem Role.setStrm_cuewd (s : Role) (n : Nat) (t : Strm) : (s.setStrm n t).cuewd = s.cuewd := rfl
@[simp] theorem Role.setStrm_rank (s : Role) (n : Nat) (t : Strm) : (s.setStrm n t).rank = s.rank := rfl
@[simp] theorem Role.setStrm_levels (s : Role) (n : Nat) (t : Strm) : (s.setStrm n t).levels = s.levels := rfl
@[simp] theorem Role.setStrm_lastcode (s : Role) (n : Nat) (t : Strm) : (s.setStrm n t).lastcode = s.lastcode := rfl
@[simp] theorem Role.setStrm_nest (s : Role) (n : Nat) (t : Strm) : (s.setStrm n t).nest = s.nest := rfl
@[simp] theorem Role.setStrm_owed (s : Role) (n : Nat) (t : Strm) : (s.setStrm n t).owed = s.owed := rfl
@[simp] theorem Role.setStrm_drainSlot (s : Role) (n : Nat) (t : Strm) : (s.setStrm n t).drainSlot = s.drainSlot := rfl
@[simp] theorem Role.setStrm_mstat (s : Role) (n : Nat) (t : Strm) : (s.setStrm n t).mstat = s.mstat := rfl
@[simp] theorem Role.setStrm_acc (s : Role) (n : Nat) (t : Strm) : (s.setStrm n t).acc = s.acc := rfl
@[simp] theorem Role.setStrm_copies (s : Role) (n : Nat) (t : Strm) : (s.setStrm n t).copies = s.copies := rfl
@[simp] theorem Role.setStrm_nextId (s : Role) (n : Nat) (t : Strm) : (s.setStrm n t).nextId = s.nextId := rfl
@[simp] theorem Role.setStrm_holds (s : Role) (n : Nat) (t : Strm) : (s.setStrm n t).holds = s.holds := rfl
@[simp] theorem Role.setStrm_barA (s : Role) (n : Nat) (t : Strm) : (s.setStrm n t).barA = s.barA := rfl
@[simp] theorem Role.setStrm_barW (s : Role) (n : Nat) (t : Strm) : (s.setStrm n t).barW = s.barW := rfl
@[simp] theorem Role.setStrm_atomSeq (s : Role) (n : Nat) (t : Strm) : (s.setStrm n t).atomSeq = s.atomSeq := rfl
@[simp] theorem Role.setStrm_lastAct (s : Role) (n : Nat) (t : Strm) : (s.setStrm n t).lastAct = s.lastAct := rfl
@[simp] theorem Role.setStrm_haltAt (s : Role) (n : Nat) (t : Strm) : (s.setStrm n t).haltAt = s.haltAt := rfl
@[simp] theorem Role.setStrm_stopReq (s : Role) (n : Nat) (t : Strm) : (s.setStrm n t).stopReq = s.stopReq := rfl
@[simp] theorem Role.setStrm_stop (s : Role) (n : Nat) (t : Strm) : (s.setStrm n t).stop = s.stop := rfl
@[simp] theorem Role.setStrm_recN (s : Role) (n : Nat) (t : Strm) : (s.setStrm n t).recN = s.recN := rfl
@[simp] theorem Role.setStrm_entryPend (s : Role) (n : Nat) (t : Strm) : (s.setStrm n t).entryPend = s.entryPend := rfl
@[simp] theorem Role.setStrm_snap (s : Role) (n : Nat) (t : Strm) : (s.setStrm n t).snap = s.snap := rfl

/-! ### Role.setP -/

@[simp] theorem Role.setP_st (s : Role) (n : Nat) (v : Pred) : (s.setP n v).st = s.st := by
  unfold Role.setP; split <;> rfl
@[simp] theorem Role.setP_frozen (s : Role) (n : Nat) (v : Pred) : (s.setP n v).frozen = s.frozen := by
  unfold Role.setP; split <;> rfl
@[simp] theorem Role.setP_busy (s : Role) (n : Nat) (v : Pred) : (s.setP n v).busy = s.busy := by
  unfold Role.setP; split <;> rfl
@[simp] theorem Role.setP_err (s : Role) (n : Nat) (v : Pred) : (s.setP n v).err = s.err := by
  unfold Role.setP; split <;> rfl
@[simp] theorem Role.setP_blk (s : Role) (n : Nat) (v : Pred) : (s.setP n v).blk = s.blk := by
  unfold Role.setP; split <;> rfl
@[simp] theorem Role.setP_part (s : Role) (n : Nat) (v : Pred) : (s.setP n v).part = s.part := by
  unfold Role.setP; split <;> rfl
@[simp] theorem Role.setP_asid (s : Role) (n : Nat) (v : Pred) : (s.setP n v).asid = s.asid := by
  unfold Role.setP; split <;> rfl
@[simp] theorem Role.setP_lid (s : Role) (n : Nat) (v : Pred) : (s.setP n v).lid = s.lid := by
  unfold Role.setP; split <;> rfl
@[simp] theorem Role.setP_twBase (s : Role) (n : Nat) (v : Pred) : (s.setP n v).twBase = s.twBase := by
  unfold Role.setP; split <;> rfl
@[simp] theorem Role.setP_twSize (s : Role) (n : Nat) (v : Pred) : (s.setP n v).twSize = s.twSize := by
  unfold Role.setP; split <;> rfl
@[simp] theorem Role.setP_save (s : Role) (n : Nat) (v : Pred) : (s.setP n v).save = s.save := by
  unfold Role.setP; split <;> rfl
@[simp] theorem Role.setP_hwStart (s : Role) (n : Nat) (v : Pred) : (s.setP n v).hwStart = s.hwStart := by
  unfold Role.setP; split <;> rfl
@[simp] theorem Role.setP_hwLen (s : Role) (n : Nat) (v : Pred) : (s.setP n v).hwLen = s.hwLen := by
  unfold Role.setP; split <;> rfl
@[simp] theorem Role.setP_recAddr (s : Role) (n : Nat) (v : Pred) : (s.setP n v).recAddr = s.recAddr := by
  unfold Role.setP; split <;> rfl
@[simp] theorem Role.setP_det (s : Role) (n : Nat) (v : Pred) : (s.setP n v).det = s.det := by
  unfold Role.setP; split <;> rfl
@[simp] theorem Role.setP_ncores (s : Role) (n : Nat) (v : Pred) : (s.setP n v).ncores = s.ncores := by
  unfold Role.setP; split <;> rfl
@[simp] theorem Role.setP_participant (s : Role) (n : Nat) (v : Pred) : (s.setP n v).participant = s.participant := by
  unfold Role.setP; split <;> rfl
@[simp] theorem Role.setP_arrival (s : Role) (n : Nat) (v : Pred) : (s.setP n v).arrival = s.arrival := by
  unfold Role.setP; split <;> rfl
@[simp] theorem Role.setP_arrStart (s : Role) (n : Nat) (v : Pred) : (s.setP n v).arrStart = s.arrStart := by
  unfold Role.setP; split <;> rfl
@[simp] theorem Role.setP_cl (s : Role) (n : Nat) (v : Pred) : (s.setP n v).cl = s.cl := by
  unfold Role.setP; split <;> rfl
@[simp] theorem Role.setP_cm (s : Role) (n : Nat) (v : Pred) : (s.setP n v).cm = s.cm := by
  unfold Role.setP; split <;> rfl
@[simp] theorem Role.setP_cv (s : Role) (n : Nat) (v : Pred) : (s.setP n v).cv = s.cv := by
  unfold Role.setP; split <;> rfl
@[simp] theorem Role.setP_cw (s : Role) (n : Nat) (v : Pred) : (s.setP n v).cw = s.cw := by
  unfold Role.setP; split <;> rfl
@[simp] theorem Role.setP_xs (s : Role) (n : Nat) (v : Pred) : (s.setP n v).xs = s.xs := by
  unfold Role.setP; split <;> rfl
@[simp] theorem Role.setP_vs (s : Role) (n : Nat) (v : Pred) : (s.setP n v).vs = s.vs := by
  unfold Role.setP; split <;> rfl
@[simp] theorem Role.setP_qs (s : Role) (n : Nat) (v : Pred) : (s.setP n v).qs = s.qs := by
  unfold Role.setP; split <;> rfl
@[simp] theorem Role.setP_strms (s : Role) (n : Nat) (v : Pred) : (s.setP n v).strms = s.strms := by
  unfold Role.setP; split <;> rfl
@[simp] theorem Role.setP_rings (s : Role) (n : Nat) (v : Pred) : (s.setP n v).rings = s.rings := by
  unfold Role.setP; split <;> rfl
@[simp] theorem Role.setP_flags (s : Role) (n : Nat) (v : Pred) : (s.setP n v).flags = s.flags := by
  unfold Role.setP; split <;> rfl
@[simp] theorem Role.setP_flagen (s : Role) (n : Nat) (v : Pred) : (s.setP n v).flagen = s.flagen := by
  unfold Role.setP; split <;> rfl
@[simp] theorem Role.setP_ffrec (s : Role) (n : Nat) (v : Pred) : (s.setP n v).ffrec = s.ffrec := by
  unfold Role.setP; split <;> rfl
@[simp] theorem Role.setP_recent (s : Role) (n : Nat) (v : Pred) : (s.setP n v).recent = s.recent := by
  unfold Role.setP; split <;> rfl
@[simp] theorem Role.setP_wdlimit (s : Role) (n : Nat) (v : Pred) : (s.setP n v).wdlimit = s.wdlimit := by
  unfold Role.setP; split <;> rfl
@[simp] theorem Role.setP_eid (s : Role) (n : Nat) (v : Pred) : (s.setP n v).eid = s.eid := by
  unfold Role.setP; split <;> rfl
@[simp] theorem Role.setP_cueerr (s : Role) (n : Nat) (v : Pred) : (s.setP n v).cueerr = s.cueerr := by
  unfold Role.setP; split <;> rfl
@[simp] theorem Role.setP_cuewd (s : Role) (n : Nat) (v : Pred) : (s.setP n v).cuewd = s.cuewd := by
  unfold Role.setP; split <;> rfl
@[simp] theorem Role.setP_rank (s : Role) (n : Nat) (v : Pred) : (s.setP n v).rank = s.rank := by
  unfold Role.setP; split <;> rfl
@[simp] theorem Role.setP_levels (s : Role) (n : Nat) (v : Pred) : (s.setP n v).levels = s.levels := by
  unfold Role.setP; split <;> rfl
@[simp] theorem Role.setP_lastcode (s : Role) (n : Nat) (v : Pred) : (s.setP n v).lastcode = s.lastcode := by
  unfold Role.setP; split <;> rfl
@[simp] theorem Role.setP_nest (s : Role) (n : Nat) (v : Pred) : (s.setP n v).nest = s.nest := by
  unfold Role.setP; split <;> rfl
@[simp] theorem Role.setP_owed (s : Role) (n : Nat) (v : Pred) : (s.setP n v).owed = s.owed := by
  unfold Role.setP; split <;> rfl
@[simp] theorem Role.setP_drainSlot (s : Role) (n : Nat) (v : Pred) : (s.setP n v).drainSlot = s.drainSlot := by
  unfold Role.setP; split <;> rfl
@[simp] theorem Role.setP_mstat (s : Role) (n : Nat) (v : Pred) : (s.setP n v).mstat = s.mstat := by
  unfold Role.setP; split <;> rfl
@[simp] theorem Role.setP_acc (s : Role) (n : Nat) (v : Pred) : (s.setP n v).acc = s.acc := by
  unfold Role.setP; split <;> rfl
@[simp] theorem Role.setP_copies (s : Role) (n : Nat) (v : Pred) : (s.setP n v).copies = s.copies := by
  unfold Role.setP; split <;> rfl
@[simp] theorem Role.setP_nextId (s : Role) (n : Nat) (v : Pred) : (s.setP n v).nextId = s.nextId := by
  unfold Role.setP; split <;> rfl
@[simp] theorem Role.setP_holds (s : Role) (n : Nat) (v : Pred) : (s.setP n v).holds = s.holds := by
  unfold Role.setP; split <;> rfl
@[simp] theorem Role.setP_barA (s : Role) (n : Nat) (v : Pred) : (s.setP n v).barA = s.barA := by
  unfold Role.setP; split <;> rfl
@[simp] theorem Role.setP_barW (s : Role) (n : Nat) (v : Pred) : (s.setP n v).barW = s.barW := by
  unfold Role.setP; split <;> rfl
@[simp] theorem Role.setP_atomSeq (s : Role) (n : Nat) (v : Pred) : (s.setP n v).atomSeq = s.atomSeq := by
  unfold Role.setP; split <;> rfl
@[simp] theorem Role.setP_lastAct (s : Role) (n : Nat) (v : Pred) : (s.setP n v).lastAct = s.lastAct := by
  unfold Role.setP; split <;> rfl
@[simp] theorem Role.setP_haltAt (s : Role) (n : Nat) (v : Pred) : (s.setP n v).haltAt = s.haltAt := by
  unfold Role.setP; split <;> rfl
@[simp] theorem Role.setP_stopReq (s : Role) (n : Nat) (v : Pred) : (s.setP n v).stopReq = s.stopReq := by
  unfold Role.setP; split <;> rfl
@[simp] theorem Role.setP_stop (s : Role) (n : Nat) (v : Pred) : (s.setP n v).stop = s.stop := by
  unfold Role.setP; split <;> rfl
@[simp] theorem Role.setP_recN (s : Role) (n : Nat) (v : Pred) : (s.setP n v).recN = s.recN := by
  unfold Role.setP; split <;> rfl
@[simp] theorem Role.setP_entryPend (s : Role) (n : Nat) (v : Pred) : (s.setP n v).entryPend = s.entryPend := by
  unfold Role.setP; split <;> rfl
@[simp] theorem Role.setP_snap (s : Role) (n : Nat) (v : Pred) : (s.setP n v).snap = s.snap := by
  unfold Role.setP; split <;> rfl

/-! ### Role.setClu -/

@[simp] theorem Role.setClu_st (s : Role) (c : Cluster) (x : Clu) : (s.setClu c x).st = s.st := by
  cases c <;> rfl
@[simp] theorem Role.setClu_frozen (s : Role) (c : Cluster) (x : Clu) : (s.setClu c x).frozen = s.frozen := by
  cases c <;> rfl
@[simp] theorem Role.setClu_busy (s : Role) (c : Cluster) (x : Clu) : (s.setClu c x).busy = s.busy := by
  cases c <;> rfl
@[simp] theorem Role.setClu_err (s : Role) (c : Cluster) (x : Clu) : (s.setClu c x).err = s.err := by
  cases c <;> rfl
@[simp] theorem Role.setClu_blk (s : Role) (c : Cluster) (x : Clu) : (s.setClu c x).blk = s.blk := by
  cases c <;> rfl
@[simp] theorem Role.setClu_part (s : Role) (c : Cluster) (x : Clu) : (s.setClu c x).part = s.part := by
  cases c <;> rfl
@[simp] theorem Role.setClu_asid (s : Role) (c : Cluster) (x : Clu) : (s.setClu c x).asid = s.asid := by
  cases c <;> rfl
@[simp] theorem Role.setClu_lid (s : Role) (c : Cluster) (x : Clu) : (s.setClu c x).lid = s.lid := by
  cases c <;> rfl
@[simp] theorem Role.setClu_twBase (s : Role) (c : Cluster) (x : Clu) : (s.setClu c x).twBase = s.twBase := by
  cases c <;> rfl
@[simp] theorem Role.setClu_twSize (s : Role) (c : Cluster) (x : Clu) : (s.setClu c x).twSize = s.twSize := by
  cases c <;> rfl
@[simp] theorem Role.setClu_save (s : Role) (c : Cluster) (x : Clu) : (s.setClu c x).save = s.save := by
  cases c <;> rfl
@[simp] theorem Role.setClu_hwStart (s : Role) (c : Cluster) (x : Clu) : (s.setClu c x).hwStart = s.hwStart := by
  cases c <;> rfl
@[simp] theorem Role.setClu_hwLen (s : Role) (c : Cluster) (x : Clu) : (s.setClu c x).hwLen = s.hwLen := by
  cases c <;> rfl
@[simp] theorem Role.setClu_recAddr (s : Role) (c : Cluster) (x : Clu) : (s.setClu c x).recAddr = s.recAddr := by
  cases c <;> rfl
@[simp] theorem Role.setClu_det (s : Role) (c : Cluster) (x : Clu) : (s.setClu c x).det = s.det := by
  cases c <;> rfl
@[simp] theorem Role.setClu_ncores (s : Role) (c : Cluster) (x : Clu) : (s.setClu c x).ncores = s.ncores := by
  cases c <;> rfl
@[simp] theorem Role.setClu_participant (s : Role) (c : Cluster) (x : Clu) : (s.setClu c x).participant = s.participant := by
  cases c <;> rfl
@[simp] theorem Role.setClu_arrival (s : Role) (c : Cluster) (x : Clu) : (s.setClu c x).arrival = s.arrival := by
  cases c <;> rfl
@[simp] theorem Role.setClu_arrStart (s : Role) (c : Cluster) (x : Clu) : (s.setClu c x).arrStart = s.arrStart := by
  cases c <;> rfl
@[simp] theorem Role.setClu_xs (s : Role) (c : Cluster) (x : Clu) : (s.setClu c x).xs = s.xs := by
  cases c <;> rfl
@[simp] theorem Role.setClu_ps (s : Role) (c : Cluster) (x : Clu) : (s.setClu c x).ps = s.ps := by
  cases c <;> rfl
@[simp] theorem Role.setClu_vs (s : Role) (c : Cluster) (x : Clu) : (s.setClu c x).vs = s.vs := by
  cases c <;> rfl
@[simp] theorem Role.setClu_qs (s : Role) (c : Cluster) (x : Clu) : (s.setClu c x).qs = s.qs := by
  cases c <;> rfl
@[simp] theorem Role.setClu_strms (s : Role) (c : Cluster) (x : Clu) : (s.setClu c x).strms = s.strms := by
  cases c <;> rfl
@[simp] theorem Role.setClu_rings (s : Role) (c : Cluster) (x : Clu) : (s.setClu c x).rings = s.rings := by
  cases c <;> rfl
@[simp] theorem Role.setClu_flags (s : Role) (c : Cluster) (x : Clu) : (s.setClu c x).flags = s.flags := by
  cases c <;> rfl
@[simp] theorem Role.setClu_flagen (s : Role) (c : Cluster) (x : Clu) : (s.setClu c x).flagen = s.flagen := by
  cases c <;> rfl
@[simp] theorem Role.setClu_ffrec (s : Role) (c : Cluster) (x : Clu) : (s.setClu c x).ffrec = s.ffrec := by
  cases c <;> rfl
@[simp] theorem Role.setClu_recent (s : Role) (c : Cluster) (x : Clu) : (s.setClu c x).recent = s.recent := by
  cases c <;> rfl
@[simp] theorem Role.setClu_wdlimit (s : Role) (c : Cluster) (x : Clu) : (s.setClu c x).wdlimit = s.wdlimit := by
  cases c <;> rfl
@[simp] theorem Role.setClu_eid (s : Role) (c : Cluster) (x : Clu) : (s.setClu c x).eid = s.eid := by
  cases c <;> rfl
@[simp] theorem Role.setClu_cueerr (s : Role) (c : Cluster) (x : Clu) : (s.setClu c x).cueerr = s.cueerr := by
  cases c <;> rfl
@[simp] theorem Role.setClu_cuewd (s : Role) (c : Cluster) (x : Clu) : (s.setClu c x).cuewd = s.cuewd := by
  cases c <;> rfl
@[simp] theorem Role.setClu_rank (s : Role) (c : Cluster) (x : Clu) : (s.setClu c x).rank = s.rank := by
  cases c <;> rfl
@[simp] theorem Role.setClu_levels (s : Role) (c : Cluster) (x : Clu) : (s.setClu c x).levels = s.levels := by
  cases c <;> rfl
@[simp] theorem Role.setClu_lastcode (s : Role) (c : Cluster) (x : Clu) : (s.setClu c x).lastcode = s.lastcode := by
  cases c <;> rfl
@[simp] theorem Role.setClu_nest (s : Role) (c : Cluster) (x : Clu) : (s.setClu c x).nest = s.nest := by
  cases c <;> rfl
@[simp] theorem Role.setClu_owed (s : Role) (c : Cluster) (x : Clu) : (s.setClu c x).owed = s.owed := by
  cases c <;> rfl
@[simp] theorem Role.setClu_drainSlot (s : Role) (c : Cluster) (x : Clu) : (s.setClu c x).drainSlot = s.drainSlot := by
  cases c <;> rfl
@[simp] theorem Role.setClu_mstat (s : Role) (c : Cluster) (x : Clu) : (s.setClu c x).mstat = s.mstat := by
  cases c <;> rfl
@[simp] theorem Role.setClu_acc (s : Role) (c : Cluster) (x : Clu) : (s.setClu c x).acc = s.acc := by
  cases c <;> rfl
@[simp] theorem Role.setClu_copies (s : Role) (c : Cluster) (x : Clu) : (s.setClu c x).copies = s.copies := by
  cases c <;> rfl
@[simp] theorem Role.setClu_nextId (s : Role) (c : Cluster) (x : Clu) : (s.setClu c x).nextId = s.nextId := by
  cases c <;> rfl
@[simp] theorem Role.setClu_holds (s : Role) (c : Cluster) (x : Clu) : (s.setClu c x).holds = s.holds := by
  cases c <;> rfl
@[simp] theorem Role.setClu_barA (s : Role) (c : Cluster) (x : Clu) : (s.setClu c x).barA = s.barA := by
  cases c <;> rfl
@[simp] theorem Role.setClu_barW (s : Role) (c : Cluster) (x : Clu) : (s.setClu c x).barW = s.barW := by
  cases c <;> rfl
@[simp] theorem Role.setClu_atomSeq (s : Role) (c : Cluster) (x : Clu) : (s.setClu c x).atomSeq = s.atomSeq := by
  cases c <;> rfl
@[simp] theorem Role.setClu_lastAct (s : Role) (c : Cluster) (x : Clu) : (s.setClu c x).lastAct = s.lastAct := by
  cases c <;> rfl
@[simp] theorem Role.setClu_haltAt (s : Role) (c : Cluster) (x : Clu) : (s.setClu c x).haltAt = s.haltAt := by
  cases c <;> rfl
@[simp] theorem Role.setClu_stopReq (s : Role) (c : Cluster) (x : Clu) : (s.setClu c x).stopReq = s.stopReq := by
  cases c <;> rfl
@[simp] theorem Role.setClu_stop (s : Role) (c : Cluster) (x : Clu) : (s.setClu c x).stop = s.stop := by
  cases c <;> rfl
@[simp] theorem Role.setClu_recN (s : Role) (c : Cluster) (x : Clu) : (s.setClu c x).recN = s.recN := by
  cases c <;> rfl
@[simp] theorem Role.setClu_entryPend (s : Role) (c : Cluster) (x : Clu) : (s.setClu c x).entryPend = s.entryPend := by
  cases c <;> rfl
@[simp] theorem Role.setClu_snap (s : Role) (c : Cluster) (x : Clu) : (s.setClu c x).snap = s.snap := by
  cases c <;> rfl

end Sys2Proof.Machine
end

