-- ==== Sys2Proof/Laws/Operands.lean ====
section
/-! SUPPORT. What operands do: reads change nothing; writes, pops and flags leave the clusters of every role and whose syllable
issues alone. -/

namespace Sys2Proof.Machine

/-- A computation that, where it succeeds, relates the state before and after by R. -/
def Keeps {α : Type} (R : State → State → Prop) (m : Iss α) : Prop := ∀ s a s', m s = .ok (a, s') → R s s'

theorem Keeps.bind {α β : Type} {R : State → State → Prop} (ht : ∀ a b c, R a b → R b c → R a c) {m : Iss α} {f : α → Iss β}
    (h1 : Keeps R m) (h2 : ∀ a, Keeps R (f a)) : Keeps R (m >>= f) := by
  intro s b s2 h
  obtain ⟨a, s1, h3, h4⟩ := bind_split h
  exact ht _ _ _ (h1 _ _ _ h3) (h2 _ _ _ _ h4)

/-- The same syllable issues, and its cluster stands where it stood. -/
def SameClu (s s' : State) : Prop := s'.cur = s.cur ∧ s'.cycle = s.cycle ∧ ∀ c, s'.curRole.clu c = s.curRole.clu c

theorem SameClu.refl (s : State) : SameClu s s := ⟨rfl, rfl, fun _ => rfl⟩
theorem SameClu.trans (a b c : State) (h : SameClu a b) (k : SameClu b c) : SameClu a c :=
  ⟨k.1.trans h.1, k.2.1.trans h.2.1, fun x => (k.2.2 x).trans (h.2.2 x)⟩
theorem SameClu.clu {s s' : State} (h : SameClu s s') : s'.clu = s.clu := by
  unfold State.clu
  rw [h.1, h.2.2]

/-- A computation that changes nothing where it succeeds. -/
def Pure {α : Type} (m : Iss α) : Prop := Keeps (fun s s' => s' = s) m
theorem Pure.bind {α β : Type} {m : Iss α} {f : α → Iss β} (h1 : Pure m) (h2 : ∀ a, Pure (f a)) : Pure (m >>= f) :=
  Keeps.bind (fun _ _ _ h k => k.trans h) h1 h2
theorem pure_pure {α : Type} (a : α) : Pure (pure a : Iss α) := by
  intro s b s' h; cases h; rfl
theorem pure_getSt : Pure getSt := by intro s b s' h; cases h; rfl
theorem pure_getRole : Pure getRole := by intro s b s' h; cases h; rfl
theorem pure_getClu : Pure getClu := by intro s b s' h; cases h; rfl
theorem pure_waitIf (b : Bool) : Pure (waitIf b) := by
  intro s a s' h
  cases b
  · cases h; rfl
  · cases h
theorem pure_trapIf (b : Bool) (c : Nat) (i j : Word) : Pure (trapIf b c i j) := by
  intro s a s' h
  cases b
  · cases h; rfl
  · cases h
theorem pure_stop {α : Type} (x : Stop) : Pure (stopWith x : Iss α) := by intro s a s' h; cases h

theorem pure_needAcc (r : Role) (a : Access) : Pure (needAcc r a) := by
  unfold needAcc
  split
  · exact pure_stop _
  · exact pure_stop _
theorem pure_chkDest (d : Dest) : Pure (chkDest d) := by
  unfold chkDest
  refine pure_getRole.bind fun r => ?_
  split
  · exact pure_pure _
  · exact pure_needAcc _ _
theorem pure_rdX (n : Nat) : Pure (rdX n) := (pure_chkDest _).bind fun _ => pure_getRole.bind fun _ => pure_pure _
theorem pure_rdP (n : Nat) : Pure (rdP n) := by
  unfold rdP
  refine (pure_chkDest _).bind fun _ => pure_getSt.bind fun s => pure_getRole.bind fun r => ?_
  generalize (seenAcc r).find? _ = o
  cases o
  · exact pure_pure _
  · exact (pure_needAcc _ _).bind fun _ => pure_pure _
theorem pure_guardP (h : Hdr) : Pure (guardP h) := (pure_rdP _).bind fun _ => pure_pure _
theorem pure_guardS (h : Hdr) : Pure (guardS h) := (pure_guardP _).bind fun _ => pure_pure _
theorem pure_qHead (q : Nat) : Pure (qHead q) := by
  unfold qHead
  refine pure_getSt.bind fun s => pure_getRole.bind fun r => ?_
  split
  · exact pure_stop _
  · split
    · split
      · exact (pure_needAcc _ _).bind fun _ => pure_stop _
      · exact pure_stop _
    · split
      · exact pure_stop _
      · exact pure_pure _
theorem pure_rdS (a : SSrc) : Pure (rdS a) := by
  cases a with
  | x n => exact pure_rdX _
  | q n => exact (pure_qHead _).bind fun _ => pure_pure _
  | k c => exact pure_pure _
  | sp s => exact pure_getSt.bind fun _ => pure_pure _

/-! ### Writes -/

theorem sameClu_modRole (f : Role → Role) (h : ∀ r c, (f r).clu c = r.clu c) : Keeps SameClu (modRole f) := by
  intro s a s' e
  cases e
  exact ⟨rfl, rfl, fun c => by rw [curRole_setRole, h]⟩
theorem sameClu_of_pure {α : Type} {m : Iss α} (h : Pure m) : Keeps SameClu m := by
  intro s a s' e
  rw [h _ _ _ e]
  exact SameClu.refl _
theorem SameClu.bind {α β : Type} {m : Iss α} {f : α → Iss β} (h1 : Keeps SameClu m) (h2 : ∀ a, Keeps SameClu (f a)) :
    Keeps SameClu (m >>= f) := Keeps.bind SameClu.trans h1 h2

theorem clu_setX (r : Role) (n : Nat) (v : Word) (c : Cluster) : (r.setX n v).clu c = r.clu c := by cases c <;> rfl
theorem clu_setV (r : Role) (n : Nat) (v : Row) (c : Cluster) : (r.setV n v).clu c = r.clu c := by cases c <;> rfl
theorem clu_setQ (r : Role) (q : Nat) (l : List QEnt) (c : Cluster) : (r.setQ q l).clu c = r.clu c := by cases c <;> rfl
theorem clu_raiseAt (r : Role) (now k row lane : Nat) (fl : Fl) (c : Cluster) :
    (r.raiseAt now k row lane fl).clu c = r.clu c := by cases c <;> rfl
theorem clu_overtake (r : Role) (d : Dest) (c : Cluster) : (r.overtake d).clu c = r.clu c := by
  unfold Role.overtake
  split
  · rfl
  · cases c <;> rfl

theorem sameClu_wrX (n : Nat) (v : Word) : Keeps SameClu (wrX n v) :=
  SameClu.bind (sameClu_of_pure (pure_chkDest _)) fun _ => sameClu_modRole _ fun r c => by rw [clu_setX, clu_overtake]
theorem sameClu_wrP (n : Nat) (v : Pred) : Keeps SameClu (wrP n v) :=
  SameClu.bind (sameClu_of_pure (pure_chkDest _)) fun _ => sameClu_modRole _ fun r c => by rw [clu_setP, clu_overtake]
theorem sameClu_qPut (q : Nat) (e : QEnt) : Keeps SameClu (qPut q e) := sameClu_modRole _ fun _ _ => clu_setQ ..
theorem pure_qRoom (q : Nat) : Pure (qRoom q) := by
  unfold qRoom
  refine pure_getRole.bind fun r => ?_
  split
  · exact pure_stop _
  · exact pure_waitIf _
theorem pure_pushOrdered : Pure pushOrdered := pure_getSt.bind fun _ => pure_getRole.bind fun _ => pure_waitIf _
theorem sameClu_qPush (q : Nat) (v : Row) : Keeps SameClu (qPush q v) :=
  SameClu.bind (sameClu_of_pure (pure_qRoom _)) fun _ => SameClu.bind (sameClu_of_pure pure_pushOrdered) fun _ =>
    SameClu.bind (sameClu_of_pure pure_getSt) fun _ => sameClu_qPut _ _
theorem sameClu_wrS (d : SDst) (v : Word) : Keeps SameClu (wrS d v) := by
  cases d with
  | x n => exact sameClu_wrX _ _
  | q n => exact sameClu_qPush _ _
theorem sameClu_wrS0 (d : SDst) : Keeps SameClu (wrS0 d) := by
  cases d with
  | x n => exact sameClu_of_pure (pure_pure _)
  | q n => exact sameClu_qPush _ _
theorem sameClu_qPop (q : Nat) : Keeps SameClu (qPop q) := sameClu_modRole _ fun _ _ => clu_setQ ..
theorem sameClu_popAll (l : List Nat) : Keeps SameClu (popAll l) := by
  induction l with
  | nil => exact sameClu_of_pure (pure_pure _)
  | cons q t ih => exact SameClu.bind (sameClu_qPop q) fun _ => ih
theorem sameClu_popMarks (l : List Mk) : Keeps SameClu (popMarks l) := sameClu_popAll _
theorem sameClu_raiseI (row lane : Nat) (fl : Fl) : Keeps SameClu (raiseI row lane fl) := by
  unfold raiseI
  split
  · exact sameClu_of_pure (pure_pure _)
  · intro s a s' e
    cases e
    refine ⟨rfl, rfl, fun c => ?_⟩
    rw [curRole_setRole]
    split
    · exact clu_raiseAt ..
    · cases c <;> rfl

/-- What a body that keeps its cluster does when it transfers nothing. -/
theorem issueN_falls {n : Nat} {b : Bool} {body : Iss Flow} {s s' : State} (h : Ready n b s)
    (hb : body s = .ok (.fall, s')) (hk : SameClu s s') : issueN n b body s = .next (s'.fell n) :=
  issueN_fall h hb hk.clu

/-! ### The shapes of scalar syllables -/

/-- R50, R57, R119: a scalar result with its guard true. -/
theorem scalarOp_true {h : Hdr} {ms : List Mk} {d : SDst} {f : Iss Word} {s s1 s2 s3 : State} {v : Word}
    (hg : Reads (guardS h) s true) (hf : f s = .ok (v, s1)) (hp : Does (popMarks ms) s1 s2) (hw : Does (wrS d v) s2 s3) :
    scalarOp h ms d f s = .ok (.fall, s3) := by
  unfold scalarOp
  rw [bind_ok hg, if_pos rfl, bind_ok hf, bind_ok hp, bind_ok hw]
  rfl

/-- R57, R119: with its guard false it reads nothing but the heads of its queues, pops its marks and pushes 0. -/
theorem scalarOp_false {h : Hdr} {ms : List Mk} {d : SDst} {f : Iss Word} {s s1 s2 : State}
    (hg : Reads (guardS h) s false) (hn : Does (needHeads ms) s s) (hp : Does (popMarks ms) s s1) (hw : Does (wrS0 d) s1 s2) :
    scalarOp h ms d f s = .ok (.fall, s2) := by
  unfold scalarOp
  rw [bind_ok hg, if_neg Bool.false_ne_true, bind_ok hn, bind_ok hp, bind_ok hw]
  rfl

theorem guarded_true {h : Hdr} {ms : List Mk} {f : Iss Unit} {s s1 s2 : State}
    (hg : Reads (guardS h) s true) (hf : Does f s s1) (hp : Does (popMarks ms) s1 s2) :
    guarded h ms f s = .ok (.fall, s2) := by
  unfold guarded
  rw [bind_ok hg, if_pos rfl, bind_ok hf, bind_ok hp]
  rfl

theorem guarded_false {h : Hdr} {ms : List Mk} {f : Iss Unit} {s s1 : State}
    (hg : Reads (guardS h) s false) (hn : Does (needHeads ms) s s) (hp : Does (popMarks ms) s s1) :
    guarded h ms f s = .ok (.fall, s1) := by
  unfold guarded
  rw [bind_ok hg, if_neg Bool.false_ne_true, bind_ok hn, bind_ok hp]
  rfl

end Sys2Proof.Machine
end

