-- ==== Sys2Proof/Laws/PerInstr.lean ====
section
/-! SUPPORT. The family RoundTrip: for every instruction, the words that the encoder writes for a well-formed term decode to
that term (05_encoding R82 to R105). One lemma for each constructor; a step that is no syllable has no words. -/

namespace Sys2Proof

/-- What the family says of an instruction: where it is well-formed and has words, they decode to it. -/
def Laws.RoundTrip.Statement (i : Instr) : Prop := i.wf = true → encode i ≠ [] → decode (encode i) = .ok i

theorem some_bind {α β : Type} {x : Option α} {a : α} {g : α → Option β} {r : Option β} (hx : x = some a) (hg : g a = r) :
    (x >>= g) = r := by subst hx; exact hg
theorem some_map {α β : Type} {x : Option α} {a : α} {g : α → β} (hx : x = some a) : x.map g = some (g a) := by
  subst hx; rfl
theorem halves16 (n : BitVec 16) : n.extractLsb' 8 8 ++ n.extractLsb' 0 8 = n := by
  ext i hi
  simp only [BitVec.getElem_append, BitVec.getElem_extractLsb']
  split
  · simp [BitVec.getLsbD_eq_getElem hi]
  · rw [show 8 + (i - 8) = i by omega, BitVec.getLsbD_eq_getElem hi]
theorem high24 (n : BitVec 24) : (n.zeroExtend 40).extractLsb' 24 16 = 0 := by
  ext i hi
  simp
theorem low24 (n : BitVec 24) : (n.zeroExtend 40).extractLsb' 0 24 = n := by
  ext i hi
  simp [hi]
  omega

theorem Laws.RoundTrip.of_raw {w : Word} {i : Instr} (hm : majOf w ≠ 0x30) (hr : decodeRaw w = some i) (hw : i.wf = true) :
    decode [w] = .ok i := by
  have h : ¬ (majOf w).toNat = 0x30 := fun e => hm (BitVec.eq_of_toNat_eq e)
  simp [decode, decodeSyl, if_neg h, hr, hw]

theorem Laws.RoundTrip.nop h : Laws.RoundTrip.Statement (.nop h) := fun hw _ => Laws.RoundTrip.of_raw (by rw [majOf_encR]; decide) (by
  unfold decodeRaw
  rw [majOf_encR, min6_encR, rfOf_encR, hdrOf_encR]
  exact if_pos none_zero) hw
theorem Laws.RoundTrip.hint h payload : Laws.RoundTrip.Statement (.hint h payload) := fun hw _ => Laws.RoundTrip.of_raw (by rw [majOf_encHint]; decide) (by
  unfold decodeRaw
  rw [majOf_encHint, hdrOf_encHint, hint_payload]
  rfl) hw
theorem Laws.RoundTrip.hint7F h payload : Laws.RoundTrip.Statement (.hint7F h payload) := fun hw _ => Laws.RoundTrip.of_raw (by rw [majOf_encHint]; decide) (by
  unfold decodeRaw
  rw [majOf_encHint, hdrOf_encHint, hint_payload]
  rfl) hw
theorem Laws.RoundTrip.br h off : Laws.RoundTrip.Statement (.br h off) := fun hw _ => Laws.RoundTrip.of_raw (by rw [majOf_encB]; decide) (by
  unfold decodeRaw
  rw [majOf_encB, hdrOf_encB, bMin_encB, bA_encB, bB_encB, bOff_encB]
  rfl) hw
theorem Laws.RoundTrip.brpAny h p ty off : Laws.RoundTrip.Statement (.brpAny h p ty off) := fun hw _ => Laws.RoundTrip.of_raw (by rw [majOf_encB]; decide) (by
  unfold decodeRaw
  rw [majOf_encB, hdrOf_encB, bMin_encB, bA_encB, bB_encB, bOff_encB]
  exact some_bind (decP_enc p) (some_bind (decTy8_enc ty) rfl)) hw
theorem Laws.RoundTrip.brpAll h p ty off : Laws.RoundTrip.Statement (.brpAll h p ty off) := fun hw _ => Laws.RoundTrip.of_raw (by rw [majOf_encB]; decide) (by
  unfold decodeRaw
  rw [majOf_encB, hdrOf_encB, bMin_encB, bA_encB, bB_encB, bOff_encB]
  exact some_bind (decP_enc p) (some_bind (decTy8_enc ty) rfl)) hw
theorem Laws.RoundTrip.brpNone h p ty off : Laws.RoundTrip.Statement (.brpNone h p ty off) := fun hw _ => Laws.RoundTrip.of_raw (by rw [majOf_encB]; decide) (by
  unfold decodeRaw
  rw [majOf_encB, hdrOf_encB, bMin_encB, bA_encB, bB_encB, bOff_encB]
  exact some_bind (decP_enc p) (some_bind (decTy8_enc ty) rfl)) hw
theorem Laws.RoundTrip.brx h cc a b off : Laws.RoundTrip.Statement (.brx h cc a b off) := fun hw _ => Laws.RoundTrip.of_raw (by rw [majOf_encB]; decide) (by
  unfold decodeRaw
  rw [majOf_encB, hdrOf_encB, bMin_encB, bA_encB, bB_encB, bOff_encB]
  exact some_bind (decCond_code4 cc) (some_bind (decSSrc_enc a) (some_bind (decSSrc_enc b) rfl))) hw
theorem Laws.RoundTrip.call h x off : Laws.RoundTrip.Statement (.call h x off) := fun hw _ => Laws.RoundTrip.of_raw (by rw [majOf_encB]; decide) (by
  unfold decodeRaw
  rw [majOf_encB, hdrOf_encB, bMin_encB, bA_encB, bB_encB, bOff_encB]
  exact some_bind (decX_enc x) rfl) hw
theorem Laws.RoundTrip.ret h a : Laws.RoundTrip.Statement (.ret h a) := fun hw _ => Laws.RoundTrip.of_raw (by rw [majOf_encB]; decide) (by
  unfold decodeRaw
  rw [majOf_encB, hdrOf_encB, bMin_encB, bA_encB, bB_encB, bOff_encB]
  exact some_bind (decSSrc_enc a) rfl) hw
theorem Laws.RoundTrip.jmpx h a off : Laws.RoundTrip.Statement (.jmpx h a off) := fun hw _ => Laws.RoundTrip.of_raw (by rw [majOf_encB]; decide) (by
  unfold decodeRaw
  rw [majOf_encB, hdrOf_encB, bMin_encB, bA_encB, bB_encB, bOff_encB]
  exact some_bind (decSSrc_enc a) rfl) hw
theorem Laws.RoundTrip.loop h a off : Laws.RoundTrip.Statement (.loop h a off) := fun hw _ => Laws.RoundTrip.of_raw (by rw [majOf_encB]; decide) (by
  unfold decodeRaw
  rw [majOf_encB, hdrOf_encB, bMin_encB, bA_encB, bB_encB, bOff_encB]
  exact some_bind (decSSrc_enc a) rfl) hw
theorem Laws.RoundTrip.loopi h n off : Laws.RoundTrip.Statement (.loopi h n off) := fun hw _ => Laws.RoundTrip.of_raw (by rw [majOf_encB]; decide) (by
  unfold decodeRaw
  rw [majOf_encB, hdrOf_encB, bMin_encB, bA_encB, bB_encB, bOff_encB]
  exact congrArg (fun n => some (Instr.loopi h n off)) (halves16 n)) hw
theorem Laws.RoundTrip.lrec h a b off : Laws.RoundTrip.Statement (.lrec h a b off) := fun hw _ => Laws.RoundTrip.of_raw (by rw [majOf_encB]; decide) (by
  unfold decodeRaw
  rw [majOf_encB, hdrOf_encB, bMin_encB, bA_encB, bB_encB, bOff_encB]
  exact some_bind (decSSrc_enc a) (some_bind (decSSrc_enc b) rfl)) hw
theorem Laws.RoundTrip.halt h : Laws.RoundTrip.Statement (.halt h) := fun hw _ => Laws.RoundTrip.of_raw (by rw [majOf_encR]; decide) (by
  unfold decodeRaw
  rw [majOf_encR, min6_encR, rfOf_encR, hdrOf_encR]
  exact if_pos none_zero) hw
theorem Laws.RoundTrip.yield h : Laws.RoundTrip.Statement (.yield h) := fun hw _ => Laws.RoundTrip.of_raw (by rw [majOf_encR]; decide) (by
  unfold decodeRaw
  rw [majOf_encR, min6_encR, rfOf_encR, hdrOf_encR]
  exact if_pos none_zero) hw
theorem Laws.RoundTrip.trap h n : Laws.RoundTrip.Statement (.trap h n) := fun hw _ => Laws.RoundTrip.of_raw (by rw [majOf_encR]; decide) (by
  unfold decodeRaw
  rw [majOf_encR, min6_encR, rfOf_encR, hdrOf_encR]
  exact some_map (trapN_enc ..)) hw
theorem Laws.RoundTrip.tfence h : Laws.RoundTrip.Statement (.tfence h) := fun hw _ => Laws.RoundTrip.of_raw (by rw [majOf_encR]; decide) (by
  unfold decodeRaw
  rw [majOf_encR, min6_encR, rfOf_encR, hdrOf_encR]
  exact if_pos none_zero) hw
theorem Laws.RoundTrip.seqdef h a : Laws.RoundTrip.Statement (.seqdef h a) := fun hw _ => Laws.RoundTrip.of_raw (by rw [majOf_encR]; decide) (by
  unfold decodeRaw
  rw [majOf_encR, min6_encR, rfOf_encR, hdrOf_encR]
  exact some_map (a1_enc ..)) hw
theorem Laws.RoundTrip.seqnext h d x : Laws.RoundTrip.Statement (.seqnext h d x) := fun hw _ => Laws.RoundTrip.of_raw (by rw [majOf_encR]; decide) (by
  unfold decodeRaw
  rw [majOf_encR, min6_encR, rfOf_encR, hdrOf_encR]
  exact some_map (seqnext_enc ..)) hw
theorem Laws.RoundTrip.add h o : Laws.RoundTrip.Statement (.add h o) := fun hw _ => Laws.RoundTrip.of_raw (by rw [majOf_encR]; decide) (by
  unfold decodeRaw
  rw [majOf_encR, min6_encR, rfOf_encR, hdrOf_encR]
  exact some_map (s2_enc ..)) hw
theorem Laws.RoundTrip.sub h o : Laws.RoundTrip.Statement (.sub h o) := fun hw _ => Laws.RoundTrip.of_raw (by rw [majOf_encR]; decide) (by
  unfold decodeRaw
  rw [majOf_encR, min6_encR, rfOf_encR, hdrOf_encR]
  exact some_map (s2_enc ..)) hw
theorem Laws.RoundTrip.mul h o : Laws.RoundTrip.Statement (.mul h o) := fun hw _ => Laws.RoundTrip.of_raw (by rw [majOf_encR]; decide) (by
  unfold decodeRaw
  rw [majOf_encR, min6_encR, rfOf_encR, hdrOf_encR]
  exact some_map (s2_enc ..)) hw
theorem Laws.RoundTrip.mulh h o : Laws.RoundTrip.Statement (.mulh h o) := fun hw _ => Laws.RoundTrip.of_raw (by rw [majOf_encR]; decide) (by
  unfold decodeRaw
  rw [majOf_encR, min6_encR, rfOf_encR, hdrOf_encR]
  exact some_map (s2_enc ..)) hw
theorem Laws.RoundTrip.mulhu h o : Laws.RoundTrip.Statement (.mulhu h o) := fun hw _ => Laws.RoundTrip.of_raw (by rw [majOf_encR]; decide) (by
  unfold decodeRaw
  rw [majOf_encR, min6_encR, rfOf_encR, hdrOf_encR]
  exact some_map (s2_enc ..)) hw
theorem Laws.RoundTrip.madd h o : Laws.RoundTrip.Statement (.madd h o) := fun hw _ => Laws.RoundTrip.of_raw (by rw [majOf_encR]; decide) (by
  unfold decodeRaw
  rw [majOf_encR, min6_encR, rfOf_encR, hdrOf_encR]
  exact some_map (s3_enc ..)) hw
theorem Laws.RoundTrip.div h o : Laws.RoundTrip.Statement (.div h o) := fun hw _ => Laws.RoundTrip.of_raw (by rw [majOf_encR]; decide) (by
  unfold decodeRaw
  rw [majOf_encR, min6_encR, rfOf_encR, hdrOf_encR]
  exact some_map (s2_enc ..)) hw
theorem Laws.RoundTrip.divu h o : Laws.RoundTrip.Statement (.divu h o) := fun hw _ => Laws.RoundTrip.of_raw (by rw [majOf_encR]; decide) (by
  unfold decodeRaw
  rw [majOf_encR, min6_encR, rfOf_encR, hdrOf_encR]
  exact some_map (s2_enc ..)) hw
theorem Laws.RoundTrip.rem h o : Laws.RoundTrip.Statement (.rem h o) := fun hw _ => Laws.RoundTrip.of_raw (by rw [majOf_encR]; decide) (by
  unfold decodeRaw
  rw [majOf_encR, min6_encR, rfOf_encR, hdrOf_encR]
  exact some_map (s2_enc ..)) hw
theorem Laws.RoundTrip.remu h o : Laws.RoundTrip.Statement (.remu h o) := fun hw _ => Laws.RoundTrip.of_raw (by rw [majOf_encR]; decide) (by
  unfold decodeRaw
  rw [majOf_encR, min6_encR, rfOf_encR, hdrOf_encR]
  exact some_map (s2_enc ..)) hw
theorem Laws.RoundTrip.and h o : Laws.RoundTrip.Statement (.and h o) := fun hw _ => Laws.RoundTrip.of_raw (by rw [majOf_encR]; decide) (by
  unfold decodeRaw
  rw [majOf_encR, min6_encR, rfOf_encR, hdrOf_encR]
  exact some_map (s2_enc ..)) hw
theorem Laws.RoundTrip.or h o : Laws.RoundTrip.Statement (.or h o) := fun hw _ => Laws.RoundTrip.of_raw (by rw [majOf_encR]; decide) (by
  unfold decodeRaw
  rw [majOf_encR, min6_encR, rfOf_encR, hdrOf_encR]
  exact some_map (s2_enc ..)) hw
theorem Laws.RoundTrip.xor h o : Laws.RoundTrip.Statement (.xor h o) := fun hw _ => Laws.RoundTrip.of_raw (by rw [majOf_encR]; decide) (by
  unfold decodeRaw
  rw [majOf_encR, min6_encR, rfOf_encR, hdrOf_encR]
  exact some_map (s2_enc ..)) hw
theorem Laws.RoundTrip.andn h o : Laws.RoundTrip.Statement (.andn h o) := fun hw _ => Laws.RoundTrip.of_raw (by rw [majOf_encR]; decide) (by
  unfold decodeRaw
  rw [majOf_encR, min6_encR, rfOf_encR, hdrOf_encR]
  exact some_map (s2_enc ..)) hw
theorem Laws.RoundTrip.shl h o : Laws.RoundTrip.Statement (.shl h o) := fun hw _ => Laws.RoundTrip.of_raw (by rw [majOf_encR]; decide) (by
  unfold decodeRaw
  rw [majOf_encR, min6_encR, rfOf_encR, hdrOf_encR]
  exact some_map (s2_enc ..)) hw
theorem Laws.RoundTrip.shr h o : Laws.RoundTrip.Statement (.shr h o) := fun hw _ => Laws.RoundTrip.of_raw (by rw [majOf_encR]; decide) (by
  unfold decodeRaw
  rw [majOf_encR, min6_encR, rfOf_encR, hdrOf_encR]
  exact some_map (s2_enc ..)) hw
theorem Laws.RoundTrip.sar h o : Laws.RoundTrip.Statement (.sar h o) := fun hw _ => Laws.RoundTrip.of_raw (by rw [majOf_encR]; decide) (by
  unfold decodeRaw
  rw [majOf_encR, min6_encR, rfOf_encR, hdrOf_encR]
  exact some_map (s2_enc ..)) hw
theorem Laws.RoundTrip.rol h o : Laws.RoundTrip.Statement (.rol h o) := fun hw _ => Laws.RoundTrip.of_raw (by rw [majOf_encR]; decide) (by
  unfold decodeRaw
  rw [majOf_encR, min6_encR, rfOf_encR, hdrOf_encR]
  exact some_map (s2_enc ..)) hw
theorem Laws.RoundTrip.ror h o : Laws.RoundTrip.Statement (.ror h o) := fun hw _ => Laws.RoundTrip.of_raw (by rw [majOf_encR]; decide) (by
  unfold decodeRaw
  rw [majOf_encR, min6_encR, rfOf_encR, hdrOf_encR]
  exact some_map (s2_enc ..)) hw
theorem Laws.RoundTrip.min h o : Laws.RoundTrip.Statement (.min h o) := fun hw _ => Laws.RoundTrip.of_raw (by rw [majOf_encR]; decide) (by
  unfold decodeRaw
  rw [majOf_encR, min6_encR, rfOf_encR, hdrOf_encR]
  exact some_map (s2_enc ..)) hw
theorem Laws.RoundTrip.max h o : Laws.RoundTrip.Statement (.max h o) := fun hw _ => Laws.RoundTrip.of_raw (by rw [majOf_encR]; decide) (by
  unfold decodeRaw
  rw [majOf_encR, min6_encR, rfOf_encR, hdrOf_encR]
  exact some_map (s2_enc ..)) hw
theorem Laws.RoundTrip.minu h o : Laws.RoundTrip.Statement (.minu h o) := fun hw _ => Laws.RoundTrip.of_raw (by rw [majOf_encR]; decide) (by
  unfold decodeRaw
  rw [majOf_encR, min6_encR, rfOf_encR, hdrOf_encR]
  exact some_map (s2_enc ..)) hw
theorem Laws.RoundTrip.maxu h o : Laws.RoundTrip.Statement (.maxu h o) := fun hw _ => Laws.RoundTrip.of_raw (by rw [majOf_encR]; decide) (by
  unfold decodeRaw
  rw [majOf_encR, min6_encR, rfOf_encR, hdrOf_encR]
  exact some_map (s2_enc ..)) hw
theorem Laws.RoundTrip.clz h o : Laws.RoundTrip.Statement (.clz h o) := fun hw _ => Laws.RoundTrip.of_raw (by rw [majOf_encR]; decide) (by
  unfold decodeRaw
  rw [majOf_encR, min6_encR, rfOf_encR, hdrOf_encR]
  exact some_map (s1_enc ..)) hw
theorem Laws.RoundTrip.ctz h o : Laws.RoundTrip.Statement (.ctz h o) := fun hw _ => Laws.RoundTrip.of_raw (by rw [majOf_encR]; decide) (by
  unfold decodeRaw
  rw [majOf_encR, min6_encR, rfOf_encR, hdrOf_encR]
  exact some_map (s1_enc ..)) hw
theorem Laws.RoundTrip.popc h o : Laws.RoundTrip.Statement (.popc h o) := fun hw _ => Laws.RoundTrip.of_raw (by rw [majOf_encR]; decide) (by
  unfold decodeRaw
  rw [majOf_encR, min6_encR, rfOf_encR, hdrOf_encR]
  exact some_map (s1_enc ..)) hw
theorem Laws.RoundTrip.sel h o : Laws.RoundTrip.Statement (.sel h o) := fun hw _ => Laws.RoundTrip.of_raw (by rw [majOf_encR]; decide) (by
  unfold decodeRaw
  rw [majOf_encR, min6_encR, rfOf_encR, hdrOf_encR]
  exact some_map (s3_enc ..)) hw
theorem Laws.RoundTrip.sext h o : Laws.RoundTrip.Statement (.sext h o) := fun hw _ => Laws.RoundTrip.of_raw (by rw [majOf_encR]; decide) (by
  unfold decodeRaw
  rw [majOf_encR, min6_encR, rfOf_encR, hdrOf_encR]
  exact some_map (s2_enc ..)) hw
theorem Laws.RoundTrip.zext h o : Laws.RoundTrip.Statement (.zext h o) := fun hw _ => Laws.RoundTrip.of_raw (by rw [majOf_encR]; decide) (by
  unfold decodeRaw
  rw [majOf_encR, min6_encR, rfOf_encR, hdrOf_encR]
  exact some_map (s2_enc ..)) hw
theorem Laws.RoundTrip.adds h o : Laws.RoundTrip.Statement (.adds h o) := fun hw _ => Laws.RoundTrip.of_raw (by rw [majOf_encR]; decide) (by
  unfold decodeRaw
  rw [majOf_encR, min6_encR, rfOf_encR, hdrOf_encR]
  exact some_map (s2_enc ..)) hw
theorem Laws.RoundTrip.subs h o : Laws.RoundTrip.Statement (.subs h o) := fun hw _ => Laws.RoundTrip.of_raw (by rw [majOf_encR]; decide) (by
  unfold decodeRaw
  rw [majOf_encR, min6_encR, rfOf_encR, hdrOf_encR]
  exact some_map (s2_enc ..)) hw
theorem Laws.RoundTrip.msub h o : Laws.RoundTrip.Statement (.msub h o) := fun hw _ => Laws.RoundTrip.of_raw (by rw [majOf_encR]; decide) (by
  unfold decodeRaw
  rw [majOf_encR, min6_encR, rfOf_encR, hdrOf_encR]
  exact some_map (s3_enc ..)) hw
theorem Laws.RoundTrip.aluiAdd h o : Laws.RoundTrip.Statement (.aluiAdd h o) := fun hw _ => Laws.RoundTrip.of_raw (by rw [majOf_encI]; decide) (by
  unfold decodeRaw
  rw [majOf_encI, min6_encI, hdrOf_encI, decI1_enc]
  rfl) hw
theorem Laws.RoundTrip.aluiMul h o : Laws.RoundTrip.Statement (.aluiMul h o) := fun hw _ => Laws.RoundTrip.of_raw (by rw [majOf_encI]; decide) (by
  unfold decodeRaw
  rw [majOf_encI, min6_encI, hdrOf_encI, decI1_enc]
  rfl) hw
theorem Laws.RoundTrip.aluiAnd h o : Laws.RoundTrip.Statement (.aluiAnd h o) := fun hw _ => Laws.RoundTrip.of_raw (by rw [majOf_encI]; decide) (by
  unfold decodeRaw
  rw [majOf_encI, min6_encI, hdrOf_encI, decI1_enc]
  rfl) hw
theorem Laws.RoundTrip.aluiOr h o : Laws.RoundTrip.Statement (.aluiOr h o) := fun hw _ => Laws.RoundTrip.of_raw (by rw [majOf_encI]; decide) (by
  unfold decodeRaw
  rw [majOf_encI, min6_encI, hdrOf_encI, decI1_enc]
  rfl) hw
theorem Laws.RoundTrip.aluiXor h o : Laws.RoundTrip.Statement (.aluiXor h o) := fun hw _ => Laws.RoundTrip.of_raw (by rw [majOf_encI]; decide) (by
  unfold decodeRaw
  rw [majOf_encI, min6_encI, hdrOf_encI, decI1_enc]
  rfl) hw
theorem Laws.RoundTrip.aluiShl h o : Laws.RoundTrip.Statement (.aluiShl h o) := fun hw _ => Laws.RoundTrip.of_raw (by rw [majOf_encI]; decide) (by
  unfold decodeRaw
  rw [majOf_encI, min6_encI, hdrOf_encI, decI1_enc]
  rfl) hw
theorem Laws.RoundTrip.aluiShr h o : Laws.RoundTrip.Statement (.aluiShr h o) := fun hw _ => Laws.RoundTrip.of_raw (by rw [majOf_encI]; decide) (by
  unfold decodeRaw
  rw [majOf_encI, min6_encI, hdrOf_encI, decI1_enc]
  rfl) hw
theorem Laws.RoundTrip.aluiSar h o : Laws.RoundTrip.Statement (.aluiSar h o) := fun hw _ => Laws.RoundTrip.of_raw (by rw [majOf_encI]; decide) (by
  unfold decodeRaw
  rw [majOf_encI, min6_encI, hdrOf_encI, decI1_enc]
  rfl) hw
theorem Laws.RoundTrip.aluiRol h o : Laws.RoundTrip.Statement (.aluiRol h o) := fun hw _ => Laws.RoundTrip.of_raw (by rw [majOf_encI]; decide) (by
  unfold decodeRaw
  rw [majOf_encI, min6_encI, hdrOf_encI, decI1_enc]
  rfl) hw
theorem Laws.RoundTrip.aluiRor h o : Laws.RoundTrip.Statement (.aluiRor h o) := fun hw _ => Laws.RoundTrip.of_raw (by rw [majOf_encI]; decide) (by
  unfold decodeRaw
  rw [majOf_encI, min6_encI, hdrOf_encI, decI1_enc]
  rfl) hw
theorem Laws.RoundTrip.aluiMin h o : Laws.RoundTrip.Statement (.aluiMin h o) := fun hw _ => Laws.RoundTrip.of_raw (by rw [majOf_encI]; decide) (by
  unfold decodeRaw
  rw [majOf_encI, min6_encI, hdrOf_encI, decI1_enc]
  rfl) hw
theorem Laws.RoundTrip.aluiMax h o : Laws.RoundTrip.Statement (.aluiMax h o) := fun hw _ => Laws.RoundTrip.of_raw (by rw [majOf_encI]; decide) (by
  unfold decodeRaw
  rw [majOf_encI, min6_encI, hdrOf_encI, decI1_enc]
  rfl) hw
theorem Laws.RoundTrip.aluiMinu h o : Laws.RoundTrip.Statement (.aluiMinu h o) := fun hw _ => Laws.RoundTrip.of_raw (by rw [majOf_encI]; decide) (by
  unfold decodeRaw
  rw [majOf_encI, min6_encI, hdrOf_encI, decI1_enc]
  rfl) hw
theorem Laws.RoundTrip.aluiMaxu h o : Laws.RoundTrip.Statement (.aluiMaxu h o) := fun hw _ => Laws.RoundTrip.of_raw (by rw [majOf_encI]; decide) (by
  unfold decodeRaw
  rw [majOf_encI, min6_encI, hdrOf_encI, decI1_enc]
  rfl) hw
theorem Laws.RoundTrip.aluiAdds h o : Laws.RoundTrip.Statement (.aluiAdds h o) := fun hw _ => Laws.RoundTrip.of_raw (by rw [majOf_encI]; decide) (by
  unfold decodeRaw
  rw [majOf_encI, min6_encI, hdrOf_encI, decI1_enc]
  rfl) hw
theorem Laws.RoundTrip.movk h x imm : Laws.RoundTrip.Statement (.movk h x imm) := fun hw _ => Laws.RoundTrip.of_raw (by rw [majOf_encKf]; decide) (by
  unfold decodeRaw
  rw [majOf_encKf, hdrOf_encKf]
  exact some_bind ((congrArg _ (kD_encKf ..)).trans (decX_enc _)) (by rw [kImm_encKf])) hw
theorem Laws.RoundTrip.movkh h x imm : Laws.RoundTrip.Statement (.movkh h x imm) := fun hw _ => Laws.RoundTrip.of_raw (by rw [majOf_encKf]; decide) (by
  unfold decodeRaw
  rw [majOf_encKf, hdrOf_encKf]
  exact some_bind ((congrArg _ (kD_encKf ..)).trans (decX_enc _)) (by
    rw [kImm_encKf]
    exact (if_pos (high24 imm)).trans (by rw [low24]))) hw
theorem Laws.RoundTrip.lea h o : Laws.RoundTrip.Statement (.lea h o) := fun hw _ => Laws.RoundTrip.of_raw (by rw [majOf_encI]; decide) (by
  unfold decodeRaw
  rw [majOf_encI, min6_encI, hdrOf_encI, decI1_enc]
  rfl) hw
theorem Laws.RoundTrip.cmp h cc o : Laws.RoundTrip.Statement (.cmp h cc o) := fun hw _ => Laws.RoundTrip.of_raw (by rw [majOf_encR]; decide) (by
  unfold decodeRaw
  rw [majOf_encR, min6_encR, rfOf_encR, hdrOf_encR]
  exact some_bind (decCond_code cc) (some_bind (p2_enc o) rfl)) hw
theorem Laws.RoundTrip.pand h d a b : Laws.RoundTrip.Statement (.pand h d a b) := fun hw _ => Laws.RoundTrip.of_raw (by rw [majOf_encR]; decide) (by
  unfold decodeRaw
  rw [majOf_encR, min6_encR, rfOf_encR, hdrOf_encR]
  exact some_map (ppp_enc ..)) hw
theorem Laws.RoundTrip.por h d a b : Laws.RoundTrip.Statement (.por h d a b) := fun hw _ => Laws.RoundTrip.of_raw (by rw [majOf_encR]; decide) (by
  unfold decodeRaw
  rw [majOf_encR, min6_encR, rfOf_encR, hdrOf_encR]
  exact some_map (ppp_enc ..)) hw
theorem Laws.RoundTrip.pxor h d a b : Laws.RoundTrip.Statement (.pxor h d a b) := fun hw _ => Laws.RoundTrip.of_raw (by rw [majOf_encR]; decide) (by
  unfold decodeRaw
  rw [majOf_encR, min6_encR, rfOf_encR, hdrOf_encR]
  exact some_map (ppp_enc ..)) hw
theorem Laws.RoundTrip.pandn h d a b : Laws.RoundTrip.Statement (.pandn h d a b) := fun hw _ => Laws.RoundTrip.of_raw (by rw [majOf_encR]; decide) (by
  unfold decodeRaw
  rw [majOf_encR, min6_encR, rfOf_encR, hdrOf_encR]
  exact some_map (ppp_enc ..)) hw
theorem Laws.RoundTrip.pnot h d a : Laws.RoundTrip.Statement (.pnot h d a) := fun hw _ => Laws.RoundTrip.of_raw (by rw [majOf_encR]; decide) (by
  unfold decodeRaw
  rw [majOf_encR, min6_encR, rfOf_encR, hdrOf_encR]
  exact some_map (pp_enc ..)) hw
theorem Laws.RoundTrip.pmov h d a : Laws.RoundTrip.Statement (.pmov h d a) := fun hw _ => Laws.RoundTrip.of_raw (by rw [majOf_encR]; decide) (by
  unfold decodeRaw
  rw [majOf_encR, min6_encR, rfOf_encR, hdrOf_encR]
  exact some_map (pp_enc ..)) hw
theorem Laws.RoundTrip.psetx h o : Laws.RoundTrip.Statement (.psetx h o) := fun hw _ => Laws.RoundTrip.of_raw (by rw [majOf_encR]; decide) (by
  unfold decodeRaw
  rw [majOf_encR, min6_encR, rfOf_encR, hdrOf_encR]
  exact some_map (p2_enc ..)) hw
theorem Laws.RoundTrip.pgetx h d a b : Laws.RoundTrip.Statement (.pgetx h d a b) := fun hw _ => Laws.RoundTrip.of_raw (by rw [majOf_encR]; decide) (by
  unfold decodeRaw
  rw [majOf_encR, min6_encR, rfOf_encR, hdrOf_encR]
  exact some_map (pgetx_enc ..)) hw
theorem Laws.RoundTrip.pcnt h d a ty : Laws.RoundTrip.Statement (.pcnt h d a ty) := fun hw _ => Laws.RoundTrip.of_raw (by rw [majOf_encR]; decide) (by
  unfold decodeRaw
  rw [majOf_encR, min6_encR, rfOf_encR, hdrOf_encR]
  exact some_map (pcnt_enc ..)) hw
theorem Laws.RoundTrip.pfirst h d a ty : Laws.RoundTrip.Statement (.pfirst h d a ty) := fun hw _ => Laws.RoundTrip.of_raw (by rw [majOf_encR]; decide) (by
  unfold decodeRaw
  rw [majOf_encR, min6_encR, rfOf_encR, hdrOf_encR]
  exact some_map (pcnt_enc ..)) hw
theorem Laws.RoundTrip.plast h d a ty : Laws.RoundTrip.Statement (.plast h d a ty) := fun hw _ => Laws.RoundTrip.of_raw (by rw [majOf_encR]; decide) (by
  unfold decodeRaw
  rw [majOf_encR, min6_encR, rfOf_encR, hdrOf_encR]
  exact some_map (pcnt_enc ..)) hw
theorem Laws.RoundTrip.qlen h d q ua : Laws.RoundTrip.Statement (.qlen h d q ua) := fun hw _ => Laws.RoundTrip.of_raw (by rw [majOf_encR]; decide) (by
  unfold decodeRaw
  rw [majOf_encR, min6_encR, rfOf_encR, hdrOf_encR]
  exact some_map (qlen_enc ..)) hw
theorem Laws.RoundTrip.vadd h o : Laws.RoundTrip.Statement (.vadd h o) := fun hw _ => Laws.RoundTrip.of_raw (by rw [majOf_encR]; decide) (by
  unfold decodeRaw
  rw [majOf_encR, min6_encR, rfOf_encR, hdrOf_encR]
  exact some_map (v2_enc ..)) hw
theorem Laws.RoundTrip.vsub h o : Laws.RoundTrip.Statement (.vsub h o) := fun hw _ => Laws.RoundTrip.of_raw (by rw [majOf_encR]; decide) (by
  unfold decodeRaw
  rw [majOf_encR, min6_encR, rfOf_encR, hdrOf_encR]
  exact some_map (v2_enc ..)) hw
theorem Laws.RoundTrip.vmul h o : Laws.RoundTrip.Statement (.vmul h o) := fun hw _ => Laws.RoundTrip.of_raw (by rw [majOf_encR]; decide) (by
  unfold decodeRaw
  rw [majOf_encR, min6_encR, rfOf_encR, hdrOf_encR]
  exact some_map (v2_enc ..)) hw
theorem Laws.RoundTrip.vfma h o : Laws.RoundTrip.Statement (.vfma h o) := fun hw _ => Laws.RoundTrip.of_raw (by rw [majOf_encR]; decide) (by
  unfold decodeRaw
  rw [majOf_encR, min6_encR, rfOf_encR, hdrOf_encR]
  exact some_map (v3_enc ..)) hw
theorem Laws.RoundTrip.vfnma h o : Laws.RoundTrip.Statement (.vfnma h o) := fun hw _ => Laws.RoundTrip.of_raw (by rw [majOf_encR]; decide) (by
  unfold decodeRaw
  rw [majOf_encR, min6_encR, rfOf_encR, hdrOf_encR]
  exact some_map (v3_enc ..)) hw
theorem Laws.RoundTrip.vdiv h o : Laws.RoundTrip.Statement (.vdiv h o) := fun hw _ => Laws.RoundTrip.of_raw (by rw [majOf_encR]; decide) (by
  unfold decodeRaw
  rw [majOf_encR, min6_encR, rfOf_encR, hdrOf_encR]
  exact some_map (v2_enc ..)) hw
theorem Laws.RoundTrip.vmin h o : Laws.RoundTrip.Statement (.vmin h o) := fun hw _ => Laws.RoundTrip.of_raw (by rw [majOf_encR]; decide) (by
  unfold decodeRaw
  rw [majOf_encR, min6_encR, rfOf_encR, hdrOf_encR]
  exact some_map (v2_enc ..)) hw
theorem Laws.RoundTrip.vmax h o : Laws.RoundTrip.Statement (.vmax h o) := fun hw _ => Laws.RoundTrip.of_raw (by rw [majOf_encR]; decide) (by
  unfold decodeRaw
  rw [majOf_encR, min6_encR, rfOf_encR, hdrOf_encR]
  exact some_map (v2_enc ..)) hw
theorem Laws.RoundTrip.vabs h o : Laws.RoundTrip.Statement (.vabs h o) := fun hw _ => Laws.RoundTrip.of_raw (by rw [majOf_encR]; decide) (by
  unfold decodeRaw
  rw [majOf_encR, min6_encR, rfOf_encR, hdrOf_encR]
  exact some_map (v1_enc ..)) hw
theorem Laws.RoundTrip.vneg h o : Laws.RoundTrip.Statement (.vneg h o) := fun hw _ => Laws.RoundTrip.of_raw (by rw [majOf_encR]; decide) (by
  unfold decodeRaw
  rw [majOf_encR, min6_encR, rfOf_encR, hdrOf_encR]
  exact some_map (v1_enc ..)) hw
theorem Laws.RoundTrip.vadds h o : Laws.RoundTrip.Statement (.vadds h o) := fun hw _ => Laws.RoundTrip.of_raw (by rw [majOf_encR]; decide) (by
  unfold decodeRaw
  rw [majOf_encR, min6_encR, rfOf_encR, hdrOf_encR]
  exact some_map (v2_enc ..)) hw
theorem Laws.RoundTrip.vsubs h o : Laws.RoundTrip.Statement (.vsubs h o) := fun hw _ => Laws.RoundTrip.of_raw (by rw [majOf_encR]; decide) (by
  unfold decodeRaw
  rw [majOf_encR, min6_encR, rfOf_encR, hdrOf_encR]
  exact some_map (v2_enc ..)) hw
theorem Laws.RoundTrip.vmulhi h o : Laws.RoundTrip.Statement (.vmulhi h o) := fun hw _ => Laws.RoundTrip.of_raw (by rw [majOf_encR]; decide) (by
  unfold decodeRaw
  rw [majOf_encR, min6_encR, rfOf_encR, hdrOf_encR]
  exact some_map (v2_enc ..)) hw
theorem Laws.RoundTrip.vand h o : Laws.RoundTrip.Statement (.vand h o) := fun hw _ => Laws.RoundTrip.of_raw (by rw [majOf_encR]; decide) (by
  unfold decodeRaw
  rw [majOf_encR, min6_encR, rfOf_encR, hdrOf_encR]
  exact some_map (v2_enc ..)) hw
theorem Laws.RoundTrip.vor h o : Laws.RoundTrip.Statement (.vor h o) := fun hw _ => Laws.RoundTrip.of_raw (by rw [majOf_encR]; decide) (by
  unfold decodeRaw
  rw [majOf_encR, min6_encR, rfOf_encR, hdrOf_encR]
  exact some_map (v2_enc ..)) hw
theorem Laws.RoundTrip.vxor h o : Laws.RoundTrip.Statement (.vxor h o) := fun hw _ => Laws.RoundTrip.of_raw (by rw [majOf_encR]; decide) (by
  unfold decodeRaw
  rw [majOf_encR, min6_encR, rfOf_encR, hdrOf_encR]
  exact some_map (v2_enc ..)) hw
theorem Laws.RoundTrip.vandn h o : Laws.RoundTrip.Statement (.vandn h o) := fun hw _ => Laws.RoundTrip.of_raw (by rw [majOf_encR]; decide) (by
  unfold decodeRaw
  rw [majOf_encR, min6_encR, rfOf_encR, hdrOf_encR]
  exact some_map (v2_enc ..)) hw
theorem Laws.RoundTrip.vnot h o : Laws.RoundTrip.Statement (.vnot h o) := fun hw _ => Laws.RoundTrip.of_raw (by rw [majOf_encR]; decide) (by
  unfold decodeRaw
  rw [majOf_encR, min6_encR, rfOf_encR, hdrOf_encR]
  exact some_map (v1_enc ..)) hw
theorem Laws.RoundTrip.vshl h o : Laws.RoundTrip.Statement (.vshl h o) := fun hw _ => Laws.RoundTrip.of_raw (by rw [majOf_encR]; decide) (by
  unfold decodeRaw
  rw [majOf_encR, min6_encR, rfOf_encR, hdrOf_encR]
  exact some_map (v2_enc ..)) hw
theorem Laws.RoundTrip.vshr h o : Laws.RoundTrip.Statement (.vshr h o) := fun hw _ => Laws.RoundTrip.of_raw (by rw [majOf_encR]; decide) (by
  unfold decodeRaw
  rw [majOf_encR, min6_encR, rfOf_encR, hdrOf_encR]
  exact some_map (v2_enc ..)) hw
theorem Laws.RoundTrip.vsar h o : Laws.RoundTrip.Statement (.vsar h o) := fun hw _ => Laws.RoundTrip.of_raw (by rw [majOf_encR]; decide) (by
  unfold decodeRaw
  rw [majOf_encR, min6_encR, rfOf_encR, hdrOf_encR]
  exact some_map (v2_enc ..)) hw
theorem Laws.RoundTrip.vcmp h cc o : Laws.RoundTrip.Statement (.vcmp h cc o) := fun hw _ => Laws.RoundTrip.of_raw (by rw [majOf_encR]; decide) (by
  unfold decodeRaw
  rw [majOf_encR, min6_encR, rfOf_encR, hdrOf_encR]
  exact some_bind (decCond_code cc) (some_bind (vc_enc o) rfl)) hw
theorem Laws.RoundTrip.vsel h o : Laws.RoundTrip.Statement (.vsel h o) := fun hw _ => Laws.RoundTrip.of_raw (by rw [majOf_encR]; decide) (by
  unfold decodeRaw
  rw [majOf_encR, min6_encR, rfOf_encR, hdrOf_encR]
  exact some_map (vsel_enc ..)) hw
theorem Laws.RoundTrip.vmov h o : Laws.RoundTrip.Statement (.vmov h o) := fun hw _ => Laws.RoundTrip.of_raw (by rw [majOf_encR]; decide) (by
  unfold decodeRaw
  rw [majOf_encR, min6_encR, rfOf_encR, hdrOf_encR]
  exact some_map (v1_enc ..)) hw
theorem Laws.RoundTrip.vbcast h o : Laws.RoundTrip.Statement (.vbcast h o) := fun hw _ => Laws.RoundTrip.of_raw (by rw [majOf_encR]; decide) (by
  unfold decodeRaw
  rw [majOf_encR, min6_encR, rfOf_encR, hdrOf_encR]
  exact some_map (vrs_enc ..)) hw
theorem Laws.RoundTrip.vlane h o : Laws.RoundTrip.Statement (.vlane h o) := fun hw _ => Laws.RoundTrip.of_raw (by rw [majOf_encR]; decide) (by
  unfold decodeRaw
  rw [majOf_encR, min6_encR, rfOf_encR, hdrOf_encR]
  exact some_map (vlane_enc ..)) hw
theorem Laws.RoundTrip.vins h o : Laws.RoundTrip.Statement (.vins h o) := fun hw _ => Laws.RoundTrip.of_raw (by rw [majOf_encR]; decide) (by
  unfold decodeRaw
  rw [majOf_encR, min6_encR, rfOf_encR, hdrOf_encR]
  exact some_map (vins_enc ..)) hw
theorem Laws.RoundTrip.vcvt h o : Laws.RoundTrip.Statement (.vcvt h o) := fun hw _ => Laws.RoundTrip.of_raw (by rw [majOf_encR]; decide) (by
  unfold decodeRaw
  rw [majOf_encR, min6_encR, rfOf_encR, hdrOf_encR]
  exact some_map (vcvt_enc ..)) hw
theorem Laws.RoundTrip.vrecip h o : Laws.RoundTrip.Statement (.vrecip h o) := fun hw _ => Laws.RoundTrip.of_raw (by rw [majOf_encR]; decide) (by
  unfold decodeRaw
  rw [majOf_encR, min6_encR, rfOf_encR, hdrOf_encR]
  exact some_map (v1_enc ..)) hw
theorem Laws.RoundTrip.vrsqrt h o : Laws.RoundTrip.Statement (.vrsqrt h o) := fun hw _ => Laws.RoundTrip.of_raw (by rw [majOf_encR]; decide) (by
  unfold decodeRaw
  rw [majOf_encR, min6_encR, rfOf_encR, hdrOf_encR]
  exact some_map (v1_enc ..)) hw
theorem Laws.RoundTrip.vsqrt h o : Laws.RoundTrip.Statement (.vsqrt h o) := fun hw _ => Laws.RoundTrip.of_raw (by rw [majOf_encR]; decide) (by
  unfold decodeRaw
  rw [majOf_encR, min6_encR, rfOf_encR, hdrOf_encR]
  exact some_map (v1_enc ..)) hw
theorem Laws.RoundTrip.vexp2 h o : Laws.RoundTrip.Statement (.vexp2 h o) := fun hw _ => Laws.RoundTrip.of_raw (by rw [majOf_encR]; decide) (by
  unfold decodeRaw
  rw [majOf_encR, min6_encR, rfOf_encR, hdrOf_encR]
  exact some_map (v1_enc ..)) hw
theorem Laws.RoundTrip.vlog2 h o : Laws.RoundTrip.Statement (.vlog2 h o) := fun hw _ => Laws.RoundTrip.of_raw (by rw [majOf_encR]; decide) (by
  unfold decodeRaw
  rw [majOf_encR, min6_encR, rfOf_encR, hdrOf_encR]
  exact some_map (v1_enc ..)) hw
theorem Laws.RoundTrip.vtanh h o : Laws.RoundTrip.Statement (.vtanh h o) := fun hw _ => Laws.RoundTrip.of_raw (by rw [majOf_encR]; decide) (by
  unfold decodeRaw
  rw [majOf_encR, min6_encR, rfOf_encR, hdrOf_encR]
  exact some_map (v1_enc ..)) hw
theorem Laws.RoundTrip.vsigm h o : Laws.RoundTrip.Statement (.vsigm h o) := fun hw _ => Laws.RoundTrip.of_raw (by rw [majOf_encR]; decide) (by
  unfold decodeRaw
  rw [majOf_encR, min6_encR, rfOf_encR, hdrOf_encR]
  exact some_map (v1_enc ..)) hw
theorem Laws.RoundTrip.vredsum h o : Laws.RoundTrip.Statement (.vredsum h o) := fun hw _ => Laws.RoundTrip.of_raw (by rw [majOf_encR]; decide) (by
  unfold decodeRaw
  rw [majOf_encR, min6_encR, rfOf_encR, hdrOf_encR]
  exact some_map (vred_enc ..)) hw
theorem Laws.RoundTrip.vredmax h o : Laws.RoundTrip.Statement (.vredmax h o) := fun hw _ => Laws.RoundTrip.of_raw (by rw [majOf_encR]; decide) (by
  unfold decodeRaw
  rw [majOf_encR, min6_encR, rfOf_encR, hdrOf_encR]
  exact some_map (vred_enc ..)) hw
theorem Laws.RoundTrip.vredmin h o : Laws.RoundTrip.Statement (.vredmin h o) := fun hw _ => Laws.RoundTrip.of_raw (by rw [majOf_encR]; decide) (by
  unfold decodeRaw
  rw [majOf_encR, min6_encR, rfOf_encR, hdrOf_encR]
  exact some_map (vred_enc ..)) hw
theorem Laws.RoundTrip.vscansum h o : Laws.RoundTrip.Statement (.vscansum h o) := fun hw _ => Laws.RoundTrip.of_raw (by rw [majOf_encR]; decide) (by
  unfold decodeRaw
  rw [majOf_encR, min6_encR, rfOf_encR, hdrOf_encR]
  exact some_map (v1_enc ..)) hw
theorem Laws.RoundTrip.vperm h o : Laws.RoundTrip.Statement (.vperm h o) := fun hw _ => Laws.RoundTrip.of_raw (by rw [majOf_encR]; decide) (by
  unfold decodeRaw
  rw [majOf_encR, min6_encR, rfOf_encR, hdrOf_encR]
  exact some_map (v2_enc ..)) hw
theorem Laws.RoundTrip.vrot h o : Laws.RoundTrip.Statement (.vrot h o) := fun hw _ => Laws.RoundTrip.of_raw (by rw [majOf_encR]; decide) (by
  unfold decodeRaw
  rw [majOf_encR, min6_encR, rfOf_encR, hdrOf_encR]
  exact some_map (vrs_enc ..)) hw
theorem Laws.RoundTrip.vzip h o : Laws.RoundTrip.Statement (.vzip h o) := fun hw _ => Laws.RoundTrip.of_raw (by rw [majOf_encR]; decide) (by
  unfold decodeRaw
  rw [majOf_encR, min6_encR, rfOf_encR, hdrOf_encR]
  exact some_map (vzip_enc ..)) hw
theorem Laws.RoundTrip.vunzip h o : Laws.RoundTrip.Statement (.vunzip h o) := fun hw _ => Laws.RoundTrip.of_raw (by rw [majOf_encR]; decide) (by
  unfold decodeRaw
  rw [majOf_encR, min6_encR, rfOf_encR, hdrOf_encR]
  exact some_map (vzip_enc ..)) hw
theorem Laws.RoundTrip.vrng h o : Laws.RoundTrip.Statement (.vrng h o) := fun hw _ => Laws.RoundTrip.of_raw (by rw [majOf_encR]; decide) (by
  unfold decodeRaw
  rw [majOf_encR, min6_encR, rfOf_encR, hdrOf_encR]
  exact some_map (vrng_enc ..)) hw
theorem Laws.RoundTrip.vrngp h o : Laws.RoundTrip.Statement (.vrngp h o) := fun hw _ => Laws.RoundTrip.of_raw (by rw [majOf_encR]; decide) (by
  unfold decodeRaw
  rw [majOf_encR, min6_encR, rfOf_encR, hdrOf_encR]
  exact some_map (vrngp_enc ..)) hw
theorem Laws.RoundTrip.vquant h o : Laws.RoundTrip.Statement (.vquant h o) := fun hw _ => Laws.RoundTrip.of_raw (by rw [majOf_encR]; decide) (by
  unfold decodeRaw
  rw [majOf_encR, min6_encR, rfOf_encR, hdrOf_encR]
  exact some_map (vsx_enc ..)) hw
theorem Laws.RoundTrip.vdeq h o : Laws.RoundTrip.Statement (.vdeq h o) := fun hw _ => Laws.RoundTrip.of_raw (by rw [majOf_encR]; decide) (by
  unfold decodeRaw
  rw [majOf_encR, min6_encR, rfOf_encR, hdrOf_encR]
  exact some_map (vsx_enc ..)) hw
theorem Laws.RoundTrip.vscale h o : Laws.RoundTrip.Statement (.vscale h o) := fun hw _ => Laws.RoundTrip.of_raw (by rw [majOf_encR]; decide) (by
  unfold decodeRaw
  rw [majOf_encR, min6_encR, rfOf_encR, hdrOf_encR]
  exact some_map (vscale_enc ..)) hw
theorem Laws.RoundTrip.mma s f : Laws.RoundTrip.Statement (.mma s f) := fun hw _ => by
  have hw : f.prof.toNat ≤ 6 := of_decide_eq_true hw
  exact (decode_nest ..).trans (decodeNest_mma s f hw)
theorem Laws.RoundTrip.mmas s f bmoff spidx : Laws.RoundTrip.Statement (.mmas s f bmoff spidx) := fun hw _ => by
  have hw : f.prof.toNat ≤ 6 := of_decide_eq_true hw
  exact (decode_nest ..).trans (decodeNest_mmas s f bmoff spidx hw)
theorem Laws.RoundTrip.mhad s f : Laws.RoundTrip.Statement (.mhad s f) := fun _ _ => by
  exact (decode_nest ..).trans (decodeNest_mhad s f)
theorem Laws.RoundTrip.mdrain s f : Laws.RoundTrip.Statement (.mdrain s f) := fun _ _ => by
  exact (decode_nest ..).trans (decodeNest_mdrain s f)
theorem Laws.RoundTrip.mzero s acc rows : Laws.RoundTrip.Statement (.mzero s acc rows) := fun _ _ => by
  exact (decode_nest ..).trans (decodeNest_mzero s acc rows)
theorem Laws.RoundTrip.mloada s f : Laws.RoundTrip.Statement (.mloada s f) := fun _ _ => by
  exact (decode_nest ..).trans (decodeNest_mloada s f)
theorem Laws.RoundTrip.mtrans s acc rows : Laws.RoundTrip.Statement (.mtrans s acc rows) := fun _ _ => by
  exact (decode_nest ..).trans (decodeNest_mtrans s acc rows)
theorem Laws.RoundTrip.nestStepCommit r : Laws.RoundTrip.Statement (.nestStepCommit r) := fun _ h => absurd rfl h
theorem Laws.RoundTrip.nestRetire r : Laws.RoundTrip.Statement (.nestRetire r) := fun _ h => absurd rfl h
theorem Laws.RoundTrip.mwait h : Laws.RoundTrip.Statement (.mwait h) := fun hw _ => Laws.RoundTrip.of_raw (by rw [majOf_encR]; decide) (by
  unfold decodeRaw
  rw [majOf_encR, min6_encR, rfOf_encR, hdrOf_encR]
  exact if_pos none_zero) hw
theorem Laws.RoundTrip.mstat h d : Laws.RoundTrip.Statement (.mstat h d) := fun hw _ => Laws.RoundTrip.of_raw (by rw [majOf_encR]; decide) (by
  unfold decodeRaw
  rw [majOf_encR, min6_encR, rfOf_encR, hdrOf_encR]
  exact some_map (dOnly_enc ..)) hw
theorem Laws.RoundTrip.ld h t m : Laws.RoundTrip.Statement (.ld h t m) := fun hw _ => Laws.RoundTrip.of_raw (by rw [majOf_encM]; decide) (by
  unfold decodeRaw
  rw [majOf_encM, min6_encM, hdrOf_encM]
  exact some_bind ((congrArg _ (mT_encM ..)).trans (decSDst_enc _)) (some_bind (decMF_enc ..) rfl)) hw
theorem Laws.RoundTrip.st h t m : Laws.RoundTrip.Statement (.st h t m) := fun hw _ => Laws.RoundTrip.of_raw (by rw [majOf_encM]; decide) (by
  unfold decodeRaw
  rw [majOf_encM, min6_encM, hdrOf_encM]
  exact some_bind ((congrArg _ (mT_encM ..)).trans (decSSrc_enc _)) (some_bind (decMF_enc ..) rfl)) hw
theorem Laws.RoundTrip.ldt h t m : Laws.RoundTrip.Statement (.ldt h t m) := fun hw _ => Laws.RoundTrip.of_raw (by rw [majOf_encM]; decide) (by
  unfold decodeRaw
  rw [majOf_encM, min6_encM, hdrOf_encM]
  exact some_bind ((congrArg _ (mT_encM ..)).trans (decTDst_enc _)) (some_bind (decMF_enc ..) rfl)) hw
theorem Laws.RoundTrip.stt h t m : Laws.RoundTrip.Statement (.stt h t m) := fun hw _ => Laws.RoundTrip.of_raw (by rw [majOf_encM]; decide) (by
  unfold decodeRaw
  rw [majOf_encM, min6_encM, hdrOf_encM]
  exact some_bind ((congrArg _ (mT_encM ..)).trans (decTSrc_enc _)) (some_bind (decMF_enc ..) rfl)) hw
theorem Laws.RoundTrip.ldv h q m : Laws.RoundTrip.Statement (.ldv h q m) := fun hw _ => Laws.RoundTrip.of_raw (by rw [majOf_encM]; decide) (by
  unfold decodeRaw
  rw [majOf_encM, min6_encM, hdrOf_encM]
  exact some_bind ((congrArg _ (mT_encM ..)).trans (decQw_enc _)) (some_bind (decMF_enc ..) rfl)) hw
theorem Laws.RoundTrip.stv h q m : Laws.RoundTrip.Statement (.stv h q m) := fun hw _ => Laws.RoundTrip.of_raw (by rw [majOf_encM]; decide) (by
  unfold decodeRaw
  rw [majOf_encM, min6_encM, hdrOf_encM]
  exact some_bind ((congrArg _ (mT_encM ..)).trans (decQw_enc _)) (some_bind (decMF_enc ..) rfl)) hw
theorem Laws.RoundTrip.gather h q m : Laws.RoundTrip.Statement (.gather h q m) := fun hw _ => Laws.RoundTrip.of_raw (by rw [majOf_encM]; decide) (by
  unfold decodeRaw
  rw [majOf_encM, min6_encM, hdrOf_encM]
  exact some_bind ((congrArg _ (mT_encM ..)).trans (decQw_enc _)) (some_bind (decMF_enc ..) rfl)) hw
theorem Laws.RoundTrip.scatter h q m : Laws.RoundTrip.Statement (.scatter h q m) := fun hw _ => Laws.RoundTrip.of_raw (by rw [majOf_encM]; decide) (by
  unfold decodeRaw
  rw [majOf_encM, min6_encM, hdrOf_encM]
  exact some_bind ((congrArg _ (mT_encM ..)).trans (decQw_enc _)) (some_bind (decMF_enc ..) rfl)) hw
theorem Laws.RoundTrip.atomAdd h x m : Laws.RoundTrip.Statement (.atomAdd h x m) := fun hw _ => Laws.RoundTrip.of_raw (by rw [majOf_encM]; decide) (by
  unfold decodeRaw
  rw [majOf_encM, min6_encM, hdrOf_encM]
  exact some_bind ((congrArg _ (mT_encM ..)).trans (decX_enc _)) (some_bind (decMF_enc ..) rfl)) hw
theorem Laws.RoundTrip.atomAnd h x m : Laws.RoundTrip.Statement (.atomAnd h x m) := fun hw _ => Laws.RoundTrip.of_raw (by rw [majOf_encM]; decide) (by
  unfold decodeRaw
  rw [majOf_encM, min6_encM, hdrOf_encM]
  exact some_bind ((congrArg _ (mT_encM ..)).trans (decX_enc _)) (some_bind (decMF_enc ..) rfl)) hw
theorem Laws.RoundTrip.atomOr h x m : Laws.RoundTrip.Statement (.atomOr h x m) := fun hw _ => Laws.RoundTrip.of_raw (by rw [majOf_encM]; decide) (by
  unfold decodeRaw
  rw [majOf_encM, min6_encM, hdrOf_encM]
  exact some_bind ((congrArg _ (mT_encM ..)).trans (decX_enc _)) (some_bind (decMF_enc ..) rfl)) hw
theorem Laws.RoundTrip.atomXor h x m : Laws.RoundTrip.Statement (.atomXor h x m) := fun hw _ => Laws.RoundTrip.of_raw (by rw [majOf_encM]; decide) (by
  unfold decodeRaw
  rw [majOf_encM, min6_encM, hdrOf_encM]
  exact some_bind ((congrArg _ (mT_encM ..)).trans (decX_enc _)) (some_bind (decMF_enc ..) rfl)) hw
theorem Laws.RoundTrip.atomMin h x m : Laws.RoundTrip.Statement (.atomMin h x m) := fun hw _ => Laws.RoundTrip.of_raw (by rw [majOf_encM]; decide) (by
  unfold decodeRaw
  rw [majOf_encM, min6_encM, hdrOf_encM]
  exact some_bind ((congrArg _ (mT_encM ..)).trans (decX_enc _)) (some_bind (decMF_enc ..) rfl)) hw
theorem Laws.RoundTrip.atomMax h x m : Laws.RoundTrip.Statement (.atomMax h x m) := fun hw _ => Laws.RoundTrip.of_raw (by rw [majOf_encM]; decide) (by
  unfold decodeRaw
  rw [majOf_encM, min6_encM, hdrOf_encM]
  exact some_bind ((congrArg _ (mT_encM ..)).trans (decX_enc _)) (some_bind (decMF_enc ..) rfl)) hw
theorem Laws.RoundTrip.atomMinu h x m : Laws.RoundTrip.Statement (.atomMinu h x m) := fun hw _ => Laws.RoundTrip.of_raw (by rw [majOf_encM]; decide) (by
  unfold decodeRaw
  rw [majOf_encM, min6_encM, hdrOf_encM]
  exact some_bind ((congrArg _ (mT_encM ..)).trans (decX_enc _)) (some_bind (decMF_enc ..) rfl)) hw
theorem Laws.RoundTrip.atomMaxu h x m : Laws.RoundTrip.Statement (.atomMaxu h x m) := fun hw _ => Laws.RoundTrip.of_raw (by rw [majOf_encM]; decide) (by
  unfold decodeRaw
  rw [majOf_encM, min6_encM, hdrOf_encM]
  exact some_bind ((congrArg _ (mT_encM ..)).trans (decX_enc _)) (some_bind (decMF_enc ..) rfl)) hw
theorem Laws.RoundTrip.atomSwap h x m : Laws.RoundTrip.Statement (.atomSwap h x m) := fun hw _ => Laws.RoundTrip.of_raw (by rw [majOf_encM]; decide) (by
  unfold decodeRaw
  rw [majOf_encM, min6_encM, hdrOf_encM]
  exact some_bind ((congrArg _ (mT_encM ..)).trans (decX_enc _)) (some_bind (decMF_enc ..) rfl)) hw
theorem Laws.RoundTrip.atomCas h x m : Laws.RoundTrip.Statement (.atomCas h x m) := fun hw _ => Laws.RoundTrip.of_raw (by rw [majOf_encM]; decide) (by
  unfold decodeRaw
  rw [majOf_encM, min6_encM, hdrOf_encM]
  exact some_bind ((congrArg _ (mT_encM ..)).trans (decX_enc _)) (some_bind (decMF_enc ..) rfl)) hw
theorem Laws.RoundTrip.atomf h x m : Laws.RoundTrip.Statement (.atomf h x m) := fun hw _ => Laws.RoundTrip.of_raw (by rw [majOf_encM]; decide) (by
  unfold decodeRaw
  rw [majOf_encM, min6_encM, hdrOf_encM]
  exact some_bind ((congrArg _ (mT_encM ..)).trans (decX_enc _)) (some_bind (decMF_enc ..) rfl)) hw
theorem Laws.RoundTrip.atomfD h x m : Laws.RoundTrip.Statement (.atomfD h x m) := fun hw _ => Laws.RoundTrip.of_raw (by rw [majOf_encAtomD]; decide) (by
  unfold decodeRaw
  rw [majOf_encAtomD, min6_encAtomD, hdrOf_encAtomD]
  exact some_bind ((congrArg _ (mT_encAtomD ..)).trans (decX_enc _)) (some_bind (decAtomD_enc ..) rfl)) hw
theorem Laws.RoundTrip.barrierGenerationComplete l level inst : Laws.RoundTrip.Statement (.barrierGenerationComplete l level inst) := fun _ h => absurd rfl h
theorem Laws.RoundTrip.fence h scope ord : Laws.RoundTrip.Statement (.fence h scope ord) := fun hw _ => Laws.RoundTrip.of_raw (by rw [majOf_encFence]; decide) (by
  unfold decodeRaw
  rw [majOf_encFence, min6_encFence, hdrOf_encFence]
  exact some_map (decFence_enc ..)) hw
theorem Laws.RoundTrip.pref h t m : Laws.RoundTrip.Statement (.pref h t m) := fun hw _ => Laws.RoundTrip.of_raw (by rw [majOf_encM]; decide) (by
  unfold decodeRaw
  rw [majOf_encM, min6_encM, hdrOf_encM]
  exact some_bind ((congrArg _ (mT_encM ..)).trans (decK_enc _)) (some_bind (decMF_enc ..) rfl)) hw
theorem Laws.RoundTrip.copy h o : Laws.RoundTrip.Statement (.copy h o) := fun hw _ => Laws.RoundTrip.of_raw (by rw [majOf_encR]; decide) (by
  unfold decodeRaw
  rw [majOf_encR, min6_encR, rfOf_encR, hdrOf_encR]
  exact some_map (copyF_enc ..)) hw
theorem Laws.RoundTrip.copyComplete r k : Laws.RoundTrip.Statement (.copyComplete r k) := fun _ h => absurd rfl h
theorem Laws.RoundTrip.copyw h : Laws.RoundTrip.Statement (.copyw h) := fun hw _ => Laws.RoundTrip.of_raw (by rw [majOf_encR]; decide) (by
  unfold decodeRaw
  rw [majOf_encR, min6_encR, rfOf_encR, hdrOf_encR]
  exact if_pos none_zero) hw
theorem Laws.RoundTrip.copys h o c : Laws.RoundTrip.Statement (.copys h o c) := fun hw _ => Laws.RoundTrip.of_raw (by rw [majOf_encR]; decide) (by
  unfold decodeRaw
  rw [majOf_encR, min6_encR, rfOf_encR, hdrOf_encR]
  exact some_map (copysF_enc ..)) hw
theorem Laws.RoundTrip.sdef h o : Laws.RoundTrip.Statement (.sdef h o) := fun hw _ => Laws.RoundTrip.of_raw (by rw [majOf_encR]; decide) (by
  unfold decodeRaw
  rw [majOf_encR, min6_encR, rfOf_encR, hdrOf_encR]
  exact some_map (str1_enc ..)) hw
theorem Laws.RoundTrip.snest h o : Laws.RoundTrip.Statement (.snest h o) := fun hw _ => Laws.RoundTrip.of_raw (by rw [majOf_encR]; decide) (by
  unfold decodeRaw
  rw [majOf_encR, min6_encR, rfOf_encR, hdrOf_encR]
  exact some_map (str2_enc ..)) hw
theorem Laws.RoundTrip.sbind h o : Laws.RoundTrip.Statement (.sbind h o) := fun hw _ => Laws.RoundTrip.of_raw (by rw [majOf_encR]; decide) (by
  unfold decodeRaw
  rw [majOf_encR, min6_encR, rfOf_encR, hdrOf_encR]
  exact some_map (str1_enc ..)) hw
theorem Laws.RoundTrip.spos h o : Laws.RoundTrip.Statement (.spos h o) := fun hw _ => Laws.RoundTrip.of_raw (by rw [majOf_encR]; decide) (by
  unfold decodeRaw
  rw [majOf_encR, min6_encR, rfOf_encR, hdrOf_encR]
  exact some_map (str1_enc ..)) hw
theorem Laws.RoundTrip.scommit h d : Laws.RoundTrip.Statement (.scommit h d) := fun hw _ => Laws.RoundTrip.of_raw (by rw [majOf_encR]; decide) (by
  unfold decodeRaw
  rw [majOf_encR, min6_encR, rfOf_encR, hdrOf_encR]
  exact some_map (str0_enc ..)) hw
theorem Laws.RoundTrip.sreset h d : Laws.RoundTrip.Statement (.sreset h d) := fun hw _ => Laws.RoundTrip.of_raw (by rw [majOf_encR]; decide) (by
  unfold decodeRaw
  rw [majOf_encR, min6_encR, rfOf_encR, hdrOf_encR]
  exact some_map (str0_enc ..)) hw
theorem Laws.RoundTrip.linkVectorArrive core dir slot : Laws.RoundTrip.Statement (.linkVectorArrive core dir slot) := fun _ h => absurd rfl h
theorem Laws.RoundTrip.rdef h r b : Laws.RoundTrip.Statement (.rdef h r b) := fun hw _ => Laws.RoundTrip.of_raw (by rw [majOf_encR]; decide) (by
  unfold decodeRaw
  rw [majOf_encR, min6_encR, rfOf_encR, hdrOf_encR]
  exact some_map (rdef_enc ..)) hw
theorem Laws.RoundTrip.racq h d r : Laws.RoundTrip.Statement (.racq h d r) := fun hw _ => Laws.RoundTrip.of_raw (by rw [majOf_encR]; decide) (by
  unfold decodeRaw
  rw [majOf_encR, min6_encR, rfOf_encR, hdrOf_encR]
  exact some_map (rd_enc ..)) hw
theorem Laws.RoundTrip.rpub h r : Laws.RoundTrip.Statement (.rpub h r) := fun hw _ => Laws.RoundTrip.of_raw (by rw [majOf_encR]; decide) (by
  unfold decodeRaw
  rw [majOf_encR, min6_encR, rfOf_encR, hdrOf_encR]
  exact some_map (rg_enc ..)) hw
theorem Laws.RoundTrip.rrel h r : Laws.RoundTrip.Statement (.rrel h r) := fun hw _ => Laws.RoundTrip.of_raw (by rw [majOf_encR]; decide) (by
  unfold decodeRaw
  rw [majOf_encR, min6_encR, rfOf_encR, hdrOf_encR]
  exact some_map (rg_enc ..)) hw
theorem Laws.RoundTrip.rpoison h r : Laws.RoundTrip.Statement (.rpoison h r) := fun hw _ => Laws.RoundTrip.of_raw (by rw [majOf_encR]; decide) (by
  unfold decodeRaw
  rw [majOf_encR, min6_encR, rfOf_encR, hdrOf_encR]
  exact some_map (rg_enc ..)) hw
theorem Laws.RoundTrip.rstat h d r : Laws.RoundTrip.Statement (.rstat h d r) := fun hw _ => Laws.RoundTrip.of_raw (by rw [majOf_encR]; decide) (by
  unfold decodeRaw
  rw [majOf_encR, min6_encR, rfOf_encR, hdrOf_encR]
  exact some_map (rd_enc ..)) hw
theorem Laws.RoundTrip.barArrive h lvl ua : Laws.RoundTrip.Statement (.barArrive h lvl ua) := fun hw _ => Laws.RoundTrip.of_raw (by rw [majOf_encR]; decide) (by
  unfold decodeRaw
  rw [majOf_encR, min6_encR, rfOf_encR, hdrOf_encR]
  exact some_map (bar_enc ..)) hw
theorem Laws.RoundTrip.barWait h lvl ua : Laws.RoundTrip.Statement (.barWait h lvl ua) := fun hw _ => Laws.RoundTrip.of_raw (by rw [majOf_encR]; decide) (by
  unfold decodeRaw
  rw [majOf_encR, min6_encR, rfOf_encR, hdrOf_encR]
  exact some_map (bar_enc ..)) hw
theorem Laws.RoundTrip.msg h o c : Laws.RoundTrip.Statement (.msg h o c) := fun hw _ => Laws.RoundTrip.of_raw (by rw [majOf_encR]; decide) (by
  unfold decodeRaw
  rw [majOf_encR, min6_encR, rfOf_encR, hdrOf_encR]
  exact some_map (msg_enc ..)) hw
theorem Laws.RoundTrip.msgDelivery core k : Laws.RoundTrip.Statement (.msgDelivery core k) := fun _ h => absurd rfl h
theorem Laws.RoundTrip.spawn h o : Laws.RoundTrip.Statement (.spawn h o) := fun hw _ => Laws.RoundTrip.of_raw (by rw [majOf_encR]; decide) (by
  unfold decodeRaw
  rw [majOf_encR, min6_encR, rfOf_encR, hdrOf_encR]
  exact some_map (spawn_enc ..)) hw
theorem Laws.RoundTrip.spawnBind part : Laws.RoundTrip.Statement (.spawnBind part) := fun _ h => absurd rfl h
theorem Laws.RoundTrip.pclaim h o : Laws.RoundTrip.Statement (.pclaim h o) := fun hw _ => Laws.RoundTrip.of_raw (by rw [majOf_encR]; decide) (by
  unfold decodeRaw
  rw [majOf_encR, min6_encR, rfOf_encR, hdrOf_encR]
  exact some_map (s1_enc ..)) hw
theorem Laws.RoundTrip.ppub h o : Laws.RoundTrip.Statement (.ppub h o) := fun hw _ => Laws.RoundTrip.of_raw (by rw [majOf_encR]; decide) (by
  unfold decodeRaw
  rw [majOf_encR, min6_encR, rfOf_encR, hdrOf_encR]
  exact some_map (a2_enc ..)) hw
theorem Laws.RoundTrip.pabort h o : Laws.RoundTrip.Statement (.pabort h o) := fun hw _ => Laws.RoundTrip.of_raw (by rw [majOf_encR]; decide) (by
  unfold decodeRaw
  rw [majOf_encR, min6_encR, rfOf_encR, hdrOf_encR]
  exact some_map (a2_enc ..)) hw
theorem Laws.RoundTrip.pgrab h p x b : Laws.RoundTrip.Statement (.pgrab h p x b) := fun hw _ => Laws.RoundTrip.of_raw (by rw [majOf_encR]; decide) (by
  unfold decodeRaw
  rw [majOf_encR, min6_encR, rfOf_encR, hdrOf_encR]
  exact some_map (pgrab_enc ..)) hw
theorem Laws.RoundTrip.prel h o : Laws.RoundTrip.Statement (.prel h o) := fun hw _ => Laws.RoundTrip.of_raw (by rw [majOf_encR]; decide) (by
  unfold decodeRaw
  rw [majOf_encR, min6_encR, rfOf_encR, hdrOf_encR]
  exact some_map (a2_enc ..)) hw
theorem Laws.RoundTrip.pstat h o : Laws.RoundTrip.Statement (.pstat h o) := fun hw _ => Laws.RoundTrip.of_raw (by rw [majOf_encR]; decide) (by
  unfold decodeRaw
  rw [majOf_encR, min6_encR, rfOf_encR, hdrOf_encR]
  exact some_map (s2_enc ..)) hw
theorem Laws.RoundTrip.poolRetire by_ pa : Laws.RoundTrip.Statement (.poolRetire by_ pa) := fun _ h => absurd rfl h
theorem Laws.RoundTrip.replyCommit r k : Laws.RoundTrip.Statement (.replyCommit r k) := fun _ h => absurd rfl h
theorem Laws.RoundTrip.cuemk h o : Laws.RoundTrip.Statement (.cuemk h o) := fun hw _ => Laws.RoundTrip.of_raw (by rw [majOf_encR]; decide) (by
  unfold decodeRaw
  rw [majOf_encR, min6_encR, rfOf_encR, hdrOf_encR]
  exact some_map (a2_enc ..)) hw
theorem Laws.RoundTrip.cueres h o : Laws.RoundTrip.Statement (.cueres h o) := fun hw _ => Laws.RoundTrip.of_raw (by rw [majOf_encR]; decide) (by
  unfold decodeRaw
  rw [majOf_encR, min6_encR, rfOf_encR, hdrOf_encR]
  exact (if_pos (rA2_mod o)).trans (some_map (a2_enc o))) hw
theorem Laws.RoundTrip.cueresV h a q lb ub : Laws.RoundTrip.Statement (.cueresV h a q lb ub) := fun hw _ => Laws.RoundTrip.of_raw (by rw [majOf_encR]; decide) (by
  unfold decodeRaw
  rw [majOf_encR, min6_encR, rfOf_encR, hdrOf_encR]
  exact (if_neg (by rw [cueV_mod]; decide)).trans (some_map (cueV_enc a q lb ub))) hw
theorem Laws.RoundTrip.cuefail h o : Laws.RoundTrip.Statement (.cuefail h o) := fun hw _ => Laws.RoundTrip.of_raw (by rw [majOf_encR]; decide) (by
  unfold decodeRaw
  rw [majOf_encR, min6_encR, rfOf_encR, hdrOf_encR]
  exact some_map (a2_enc ..)) hw
theorem Laws.RoundTrip.cuepeek h o : Laws.RoundTrip.Statement (.cuepeek h o) := fun hw _ => Laws.RoundTrip.of_raw (by rw [majOf_encR]; decide) (by
  unfold decodeRaw
  rw [majOf_encR, min6_encR, rfOf_encR, hdrOf_encR]
  exact some_map (s1_enc ..)) hw
theorem Laws.RoundTrip.cuestat h o : Laws.RoundTrip.Statement (.cuestat h o) := fun hw _ => Laws.RoundTrip.of_raw (by rw [majOf_encR]; decide) (by
  unfold decodeRaw
  rw [majOf_encR, min6_encR, rfOf_encR, hdrOf_encR]
  exact some_map (s2_enc ..)) hw
theorem Laws.RoundTrip.accessServed r p : Laws.RoundTrip.Statement (.accessServed r p) := fun _ h => absurd rfl h
theorem Laws.RoundTrip.cueLoadResend r k : Laws.RoundTrip.Statement (.cueLoadResend r k) := fun _ h => absurd rfl h
theorem Laws.RoundTrip.pendingTouchTake slice : Laws.RoundTrip.Statement (.pendingTouchTake slice) := fun _ h => absurd rfl h
theorem Laws.RoundTrip.prompterQueueDispatch slice : Laws.RoundTrip.Statement (.prompterQueueDispatch slice) := fun _ h => absurd rfl h
theorem Laws.RoundTrip.deepwait r k : Laws.RoundTrip.Statement (.deepwait r k) := fun _ h => absurd rfl h
theorem Laws.RoundTrip.launch h o : Laws.RoundTrip.Statement (.launch h o) := fun hw _ => Laws.RoundTrip.of_raw (by rw [majOf_encR]; decide) (by
  unfold decodeRaw
  rw [majOf_encR, min6_encR, rfOf_encR, hdrOf_encR]
  exact some_map (s2_enc ..)) hw
theorem Laws.RoundTrip.lwait h o : Laws.RoundTrip.Statement (.lwait h o) := fun hw _ => Laws.RoundTrip.of_raw (by rw [majOf_encR]; decide) (by
  unfold decodeRaw
  rw [majOf_encR, min6_encR, rfOf_encR, hdrOf_encR]
  exact some_map (s1_enc ..)) hw
theorem Laws.RoundTrip.rdcsr h d csr : Laws.RoundTrip.Statement (.rdcsr h d csr) := fun hw _ => Laws.RoundTrip.of_raw (by rw [majOf_encCsr]; decide) (by
  unfold decodeRaw
  rw [majOf_encCsr, min6_encCsr, hdrOf_encCsr]
  exact some_bind (csrNum_enc ..) (some_bind ((congrArg _ (iD_encCsr ..)).trans (decSDst_enc d)) (by
    rw [iA_encCsr, iLA_encCsr]; rfl))) hw
theorem Laws.RoundTrip.wrcsr h a la csr : Laws.RoundTrip.Statement (.wrcsr h a la csr) := fun hw _ => Laws.RoundTrip.of_raw (by rw [majOf_encCsr]; decide) (by
  unfold decodeRaw
  rw [majOf_encCsr, min6_encCsr, hdrOf_encCsr]
  exact some_bind (csrNum_enc ..) (some_bind ((congrArg _ (iA_encCsr ..)).trans (decSSrc_enc a)) (by
    rw [iD_encCsr, iLA_encCsr]; rfl))) hw
theorem Laws.RoundTrip.rdtime h d : Laws.RoundTrip.Statement (.rdtime h d) := fun hw _ => Laws.RoundTrip.of_raw (by rw [majOf_encCsr]; decide) (by
  unfold decodeRaw
  rw [majOf_encCsr, min6_encCsr, hdrOf_encCsr]
  exact some_bind ((congrArg _ (iD_encCsr ..)).trans (decSDst_enc d)) (by
    rw [iA_encCsr, iLA_encCsr, iImm_encCsr]; rfl)) hw
theorem Laws.RoundTrip.recapp h o : Laws.RoundTrip.Statement (.recapp h o) := fun hw _ => Laws.RoundTrip.of_raw (by rw [majOf_encR]; decide) (by
  unfold decodeRaw
  rw [majOf_encR, min6_encR, rfOf_encR, hdrOf_encR]
  exact some_map (s2_enc ..)) hw
theorem Laws.RoundTrip.wmark h o : Laws.RoundTrip.Statement (.wmark h o) := fun hw _ => Laws.RoundTrip.of_raw (by rw [majOf_encR]; decide) (by
  unfold decodeRaw
  rw [majOf_encR, min6_encR, rfOf_encR, hdrOf_encR]
  exact some_map (a2_enc ..)) hw
theorem Laws.RoundTrip.sidle h a : Laws.RoundTrip.Statement (.sidle h a) := fun hw _ => Laws.RoundTrip.of_raw (by rw [majOf_encR]; decide) (by
  unfold decodeRaw
  rw [majOf_encR, min6_encR, rfOf_encR, hdrOf_encR]
  exact some_map (a1_enc ..)) hw
theorem Laws.RoundTrip.wnext h o : Laws.RoundTrip.Statement (.wnext h o) := fun hw _ => Laws.RoundTrip.of_raw (by rw [majOf_encR]; decide) (by
  unfold decodeRaw
  rw [majOf_encR, min6_encR, rfOf_encR, hdrOf_encR]
  exact some_map (p2_enc ..)) hw
theorem Laws.RoundTrip.wpub h o : Laws.RoundTrip.Statement (.wpub h o) := fun hw _ => Laws.RoundTrip.of_raw (by rw [majOf_encR]; decide) (by
  unfold decodeRaw
  rw [majOf_encR, min6_encR, rfOf_encR, hdrOf_encR]
  exact some_map (a2_enc ..)) hw
theorem Laws.RoundTrip.wlate h o : Laws.RoundTrip.Statement (.wlate h o) := fun hw _ => Laws.RoundTrip.of_raw (by rw [majOf_encR]; decide) (by
  unfold decodeRaw
  rw [majOf_encR, min6_encR, rfOf_encR, hdrOf_encR]
  exact some_map (p2_enc ..)) hw
theorem Laws.RoundTrip.idleTimerTest : Laws.RoundTrip.Statement .idleTimerTest := fun _ h => absurd rfl h
theorem Laws.RoundTrip.curtainArrivalDispatch : Laws.RoundTrip.Statement .curtainArrivalDispatch := fun _ h => absurd rfl h
theorem Laws.RoundTrip.streamOpen by_ n : Laws.RoundTrip.Statement (.streamOpen by_ n) := fun _ h => absurd rfl h
theorem Laws.RoundTrip.streamClose by_ n : Laws.RoundTrip.Statement (.streamClose by_ n) := fun _ h => absurd rfl h
theorem Laws.RoundTrip.bundleIssue r : Laws.RoundTrip.Statement (.bundleIssue r) := fun _ h => absurd rfl h
theorem Laws.RoundTrip.watchdog r : Laws.RoundTrip.Statement (.watchdog r) := fun _ h => absurd rfl h
theorem Laws.RoundTrip.bindRunning r b : Laws.RoundTrip.Statement (.bindRunning r b) := fun _ h => absurd rfl h
theorem Laws.RoundTrip.bindDormant r b : Laws.RoundTrip.Statement (.bindDormant r b) := fun _ h => absurd rfl h
theorem Laws.RoundTrip.freeSlot r : Laws.RoundTrip.Statement (.freeSlot r) := fun _ h => absurd rfl h
theorem Laws.RoundTrip.arrivalAccept core a : Laws.RoundTrip.Statement (.arrivalAccept core a) := fun _ h => absurd rfl h
theorem Laws.RoundTrip.arrivalStart core : Laws.RoundTrip.Statement (.arrivalStart core) := fun _ h => absurd rfl h
theorem Laws.RoundTrip.bindRequest core : Laws.RoundTrip.Statement (.bindRequest core) := fun _ h => absurd rfl h
theorem Laws.RoundTrip.retirement r : Laws.RoundTrip.Statement (.retirement r) := fun _ h => absurd rfl h
theorem Laws.RoundTrip.stopRecord r : Laws.RoundTrip.Statement (.stopRecord r) := fun _ h => absurd rfl h
theorem Laws.RoundTrip.stopReportPost r : Laws.RoundTrip.Statement (.stopReportPost r) := fun _ h => absurd rfl h
theorem Laws.RoundTrip.stopQueueRead svc : Laws.RoundTrip.Statement (.stopQueueRead svc) := fun _ h => absurd rfl h
theorem Laws.RoundTrip.restart by_ r : Laws.RoundTrip.Statement (.restart by_ r) := fun _ h => absurd rfl h
theorem Laws.RoundTrip.switchout by_ r : Laws.RoundTrip.Statement (.switchout by_ r) := fun _ h => absurd rfl h
theorem Laws.RoundTrip.restore by_ r : Laws.RoundTrip.Statement (.restore by_ r) := fun _ h => absurd rfl h
theorem Laws.RoundTrip.kill by_ r : Laws.RoundTrip.Statement (.kill by_ r) := fun _ h => absurd rfl h
theorem Laws.RoundTrip.winfree by_ r : Laws.RoundTrip.Statement (.winfree by_ r) := fun _ h => absurd rfl h
theorem Laws.RoundTrip.winready by_ r : Laws.RoundTrip.Statement (.winready by_ r) := fun _ h => absurd rfl h
theorem Laws.RoundTrip.launchBind part : Laws.RoundTrip.Statement (.launchBind part) := fun _ h => absurd rfl h
theorem Laws.RoundTrip.quantumExpiry l : Laws.RoundTrip.Statement (.quantumExpiry l) := fun _ h => absurd rfl h
theorem Laws.RoundTrip.cleanStop r : Laws.RoundTrip.Statement (.cleanStop r) := fun _ h => absurd rfl h
theorem Laws.RoundTrip.hardStop r : Laws.RoundTrip.Statement (.hardStop r) := fun _ h => absurd rfl h
theorem Laws.RoundTrip.yieldReport r : Laws.RoundTrip.Statement (.yieldReport r) := fun _ h => absurd rfl h
theorem Laws.RoundTrip.preemptedRebind l : Laws.RoundTrip.Statement (.preemptedRebind l) := fun _ h => absurd rfl h
theorem Laws.RoundTrip.launchComplete l : Laws.RoundTrip.Statement (.launchComplete l) := fun _ h => absurd rfl h
theorem Laws.RoundTrip.launchKill l : Laws.RoundTrip.Statement (.launchKill l) := fun _ h => absurd rfl h
theorem Laws.RoundTrip.overflowRegisterWrite by_ part v : Laws.RoundTrip.Statement (.overflowRegisterWrite by_ part v) := fun _ h => absurd rfl h
theorem Laws.RoundTrip.bump by_ asid : Laws.RoundTrip.Statement (.bump by_ asid) := fun _ h => absurd rfl h
theorem Laws.RoundTrip.bumpComplete asid : Laws.RoundTrip.Statement (.bumpComplete asid) := fun _ h => absurd rfl h
theorem Laws.RoundTrip.tagWindowSelect by_ pa : Laws.RoundTrip.Statement (.tagWindowSelect by_ pa) := fun _ h => absurd rfl h
theorem Laws.RoundTrip.tagWindowWrite by_ off v : Laws.RoundTrip.Statement (.tagWindowWrite by_ off v) := fun _ h => absurd rfl h
theorem Laws.RoundTrip.registerWrite by_ addr v : Laws.RoundTrip.Statement (.registerWrite by_ addr v) := fun _ h => absurd rfl h
theorem Laws.RoundTrip.placeTableChange k logical physical : Laws.RoundTrip.Statement (.placeTableChange k logical physical) := fun _ h => absurd rfl h
theorem Laws.RoundTrip.uncorrectableError e : Laws.RoundTrip.Statement (.uncorrectableError e) := fun _ h => absurd rfl h
theorem Laws.RoundTrip.spareReplace k spare : Laws.RoundTrip.Statement (.spareReplace k spare) := fun _ h => absurd rfl h
theorem Laws.RoundTrip.scrub : Laws.RoundTrip.Statement .scrub := fun _ h => absurd rfl h
theorem Laws.RoundTrip.partitionChange part p : Laws.RoundTrip.Statement (.partitionChange part p) := fun _ h => absurd rfl h
theorem Laws.RoundTrip.kernelImageSwitch svc image version sigOk : Laws.RoundTrip.Statement (.kernelImageSwitch svc image version sigOk) := fun _ h => absurd rfl h
theorem Laws.RoundTrip.hostWrite port off data : Laws.RoundTrip.Statement (.hostWrite port off data) := fun _ h => absurd rfl h
theorem Laws.RoundTrip.hostRead port off len : Laws.RoundTrip.Statement (.hostRead port off len) := fun _ h => absurd rfl h
theorem Laws.RoundTrip.hostDoorbell port off data : Laws.RoundTrip.Statement (.hostDoorbell port off data) := fun _ h => absurd rfl h
theorem Laws.RoundTrip.linkDown port : Laws.RoundTrip.Statement (.linkDown port) := fun _ h => absurd rfl h
theorem Laws.RoundTrip.hostHotReset port : Laws.RoundTrip.Statement (.hostHotReset port) := fun _ h => absurd rfl h
theorem Laws.RoundTrip.flitResend port : Laws.RoundTrip.Statement (.flitResend port) := fun _ h => absurd rfl h
theorem Laws.RoundTrip.nvmeDma cmd pa len data : Laws.RoundTrip.Statement (.nvmeDma cmd pa len data) := fun _ h => absurd rfl h
theorem Laws.RoundTrip.mgmtClaim m : Laws.RoundTrip.Statement (.mgmtClaim m) := fun _ h => absurd rfl h
theorem Laws.RoundTrip.mgmtHandover m next : Laws.RoundTrip.Statement (.mgmtHandover m next) := fun _ h => absurd rfl h
theorem Laws.RoundTrip.mgmtOwnerTimeout claimant : Laws.RoundTrip.Statement (.mgmtOwnerTimeout claimant) := fun _ h => absurd rfl h
theorem Laws.RoundTrip.heaterRetune : Laws.RoundTrip.Statement .heaterRetune := fun _ h => absurd rfl h
theorem Laws.RoundTrip.throttleBegin : Laws.RoundTrip.Statement .throttleBegin := fun _ h => absurd rfl h
theorem Laws.RoundTrip.throttleEnd : Laws.RoundTrip.Statement .throttleEnd := fun _ h => absurd rfl h
theorem Laws.RoundTrip.emergencyStop : Laws.RoundTrip.Statement .emergencyStop := fun _ h => absurd rfl h
theorem Laws.RoundTrip.powerReset : Laws.RoundTrip.Statement .powerReset := fun _ h => absurd rfl h
theorem Laws.RoundTrip.resetRelease fw peers : Laws.RoundTrip.Statement (.resetRelease fw peers) := fun _ h => absurd rfl h
theorem Laws.RoundTrip.quote by_ nonce : Laws.RoundTrip.Statement (.quote by_ nonce) := fun _ h => absurd rfl h
theorem Laws.RoundTrip.linkTrained port : Laws.RoundTrip.Statement (.linkTrained port) := fun _ h => absurd rfl h
theorem Laws.RoundTrip.serviceCoreRestart svc : Laws.RoundTrip.Statement (.serviceCoreRestart svc) := fun _ h => absurd rfl h
theorem Laws.RoundTrip.portReenable port : Laws.RoundTrip.Statement (.portReenable port) := fun _ h => absurd rfl h
theorem Laws.RoundTrip.conditionCleared : Laws.RoundTrip.Statement .conditionCleared := fun _ h => absurd rfl h

end Sys2Proof
end

