-- ==== Sys2Proof/Tests/Slice0.lean ====
section
/-! SUPPORT. The model's own tests: words of the spec's worked encodings, terms that the checks refuse, worked results of the
spec, and for every statement a state that meets its hypotheses. -/

namespace Sys2Proof.Tests

open Sys2Proof.Machine

set_option Elab.async false

/-! ### Encodings that the spec works out -/

def hd : Hdr := { s := false, g := 0, gn := false }
def x (n : BitVec 5) : MS := { src := .x n, mark := false, reuse := false }
def k (c : BitVec 5) : MS := { src := .k c, mark := false, reuse := false }
def v (n : BitVec 7) : MR := { src := .v n, mark := false, reuse := false }
def mem (base : BitVec 5) (sc : Scope) (o : Ord) (sz : Size) (d : BitVec 8) : MF :=
  { base := .x base, idx := .sp .zero, scope := sc, ord := o, sz := sz, lbase := false, lidx := false, disp := d }

/-- 06_isa_control_scalar: `brp.none p5, quiet`, `call x31, fn`, `ret x31`, `loop #2`, `halt`, `trap #0x2A`, `&tfence`. -/
theorem test_decode_control :
    decode [0x0300205000000003] = .ok (.brpNone hd 5 .fp32 3) ∧ decode [0x050009F000000014] = .ok (.call hd 31 20) ∧
    decode [0x050019F000000000] = .ok (.ret hd (.x 31)) ∧ decode [0x0600100020000003] = .ok (.loopi hd 2 3) ∧
    decode [0x0800000000000000] = .ok (.halt hd) ∧ decode [0x08000800A8000000] = .ok (.trap hd 0x2A) ∧
    decode [0x88000C0000000000] = .ok (.tfence { hd with s := true }) := by decide
/-- 06: `add x7, x7, #1`, `add x9, x9, #4096`, `movk`, `movkh`, `cmp.lt p7, x3, #10`, `pand p3, p1, p2`, `qlen x4, q8`. -/
theorem test_decode_scalar :
    decode [0x1000021E1F040000] = .ok (.add hd { d := .x 7, a := x 7, b := k 1 }) ∧
    decode [0x1100022624001000] = .ok (.aluiAdd hd { d := .x 9, a := .x 9, la := false, imm := 4096 }) ∧
    decode [0x120085789ABCDEF0] = .ok (.movk hd 5 0x789ABCDEF0) ∧ decode [0x1300850000123456] = .ok (.movkh hd 5 0x123456) ∧
    decode [0x1500081E0F280000] = .ok (.cmp hd .lt { p := 7, a := x 3, b := k 10 }) ∧
    decode [0x1800000C04080000] = .ok (.pand hd 3 1 2) ∧ decode [0x1C000212A0000000] = .ok (.qlen hd (.x 4) 8 false) := by decide
/-- 07_isa_vector: the compare of idiom 8, the worked VCVT, VRNGP and VQUANT. -/
theorem test_decode_vector :
    decode [0x220010140F800000] = .ok (.vcmp hd .gt { p := 5, a := v 3, b := { src := .sc (.sp .zero), mark := false, reuse := false }, ty := .fp32 }) ∧
    decode [0x240000140F040001] = .ok (.vcvt hd { d := .v 5, a := v 3, part := { k := 1, mark := false, reuse := false }, src := .fp32, dst := .bf16, rm := .rne }) ∧
    decode [0x2800041A52565801] = .ok (.vrngp hd { p := 6, a := x 20, b := x 21, c := { src := .x 22, mark := false }, ty := .bf16 }) ∧
    decode [0x290000240C031000] = .ok (.vquant hd { d := .v 9, a := v 3, m := 4, lc := false, ty := .fp32, rm := .rne }) := by decide
/-- 08_isa_matrix and 05_encoding: `mwait`, `mstat x4`, and the MMA of idiom 4. -/
theorem test_decode_matrix :
    decode [0x3100000000000000] = .ok (.mwait hd) ∧ decode [0x3100061000000000] = .ok (.mstat hd (.x 4)) ∧
    ∃ f, decode [0x3000010203040000, 0x0001000100010010, 0, 0, 0, 0, 0, 0] = .ok (.mma false f) ∧ f.prof = 2 ∧ f.aring = 3 ∧
      f.bring = 4 ∧ f.acc = 0 ∧ f.trip = ⟨16, 1, 1, 1⟩ ∧ f.afmt = .el .fp32 ∧ f.za = false :=
  ⟨by decide, by decide, _, rfl, rfl, rfl, rfl, rfl, rfl, rfl, rfl⟩
/-- 10_isa_memory: the worked encodings of loads, stores, atomics, fences, copies, streams, rings, barriers and messages. -/
theorem test_decode_memory :
    decode [0x4000026A6781AC00] = .ok (.ld hd (.x 26) (mem 25 .device .acq .b8 0)) ∧
    decode [0x4400021653800C00] = .ok (.atomAdd hd 5 (mem 20 .role .relaxed .b8 0)) ∧
    decode [0x4400261652180C00] = .ok (.atomCas hd 5 { mem 20 .role .relaxed .b8 0 with idx := .x 6 }) ∧
    decode [0x4500061653040800] = .ok (.atomfD hd 5 { base := .x 20, lvl := 1, scope := .role, lbase := false, lidx := false, disp := 0 }) ∧
    decode [0x4600000000018000] = .ok (.fence hd .device .relaxed) ∧
    decode [0x4800022226280011] = .ok (.copy hd { d := 8, a := x 9, b := x 10, acq := false, rel := true, scope := .core }) ∧
    decode [0x490002CA1C000000] = .ok (.sdef hd { d := 2, a := x 7 }) ∧ decode [0x4A0006200C000000] = .ok (.racq hd (.x 8) 3) ∧
    decode [0x4B00000304000000] = .ok (.barArrive hd 1 false) ∧ decode [0x4B00040304000000] = .ok (.barWait hd 1 false) ∧
    decode [0x4C000246524A4C00] = .ok (.msg hd { d := .x 17, a := x 20, b := x 18, rel := false, scope := .role } { src := .x 19, mark := false }) := by decide
/-- 14 to 16 and 21: the worked encodings of the units' syllables. -/
theorem test_decode_units :
    decode [0x500002322C000000] = .ok (.pclaim hd { d := .x 12, a := x 11 }) ∧
    decode [0x50000C1A3E2C0000] = .ok (.pgrab hd 6 15 (x 11)) ∧ decode [0x500016122F7C0000] = .ok (.pstat hd { d := .x 4, a := x 11, b := k (-1) }) ∧
    decode [0x510000022A2C0000] = .ok (.cuemk hd { a := x 10, b := x 11 }) ∧ decode [0x51000E1228000000] = .ok (.cuepeek hd { d := .x 4, a := x 10 }) ∧
    decode [0x510012122B040000] = .ok (.cuestat hd { d := .x 4, a := x 10, b := k 1 }) ∧
    decode [0x5200061618000000] = .ok (.lwait hd { d := .x 5, a := x 6 }) ∧
    decode [0x5800021622240000] = .ok (.recapp hd { d := .x 5, a := x 8, b := x 9 }) := by decide
/-- R102, R100, R90, R101, R94: an unassigned major, an unlisted minor, a reserved field, P0 as a destination, a condition code of 10,
an empty nest operation, a profile of 7. -/
theorem test_decode_refuses :
    decode [0x0100000000000000] = .error .syllable ∧ decode [0x0800100000000000] = .error .syllable ∧
    decode [0x0800000000000001] = .error .syllable ∧ decode [0x1800000004080000] = .error .syllable ∧
    decode [0x1500281E0F280000] = .error .syllable ∧ decode [0x3000000000000000, 0, 0, 0, 0, 0, 0, 0] = .error .syllable ∧
    decode [0x3000010703040000, 0x0001000100010010, 0, 0, 0, 0, 0, 0] = .error (.nest 8) := by decide

/-! ### Ill-formed terms, one for each check -/

def m1 (o : Ord) (sz : Size) : MF := mem 1 .role o sz 0
def v2 (ty : ETy) (rm : RM) : V2 := { d := .v 1, a := v 2, b := v 3, ty := ty, rm := rm }
def v1 (ty : ETy) (rm : RM) : V1 := { d := .v 1, a := v 2, ty := ty, rm := rm }
def badControl : List Instr :=
  [.halt { hd with s := true }, .halt { hd with g := 1 }, .halt { hd with gn := true }, .yield hd, .loop hd (.x 1) 0, .loopi hd 1 (-1),
   .cmp hd .eq { p := 0, a := x 1, b := x 2 }, .psetx hd { p := 0, a := x 1, b := x 2 }, .pand hd 0 1 2, .por hd 0 1 2, .pxor hd 0 1 2,
   .pandn hd 0 1 2, .pnot hd 0 1, .pmov hd 0 1, .rdcsr hd (.x 1) 10, .rdcsr hd (.x 1) 24, .wrcsr hd (.x 1) false 15]
def badVector : List Instr :=
  [.vadd hd (v2 .i32 .rtz), .vdiv hd (v2 .i8 .rtz), .vfma hd { d := .v 1, a := v 2, b := v 3, c := { src := .v 4, mark := false }, ty := .i32, rm := .rne },
   .vmin hd (v2 .fp32 .rtz), .vperm hd (v2 .fp32 .rtz), .vabs hd (v1 .fp32 .rtz), .vadds hd (v2 .fp32 .rne), .vshl hd (v2 .bf16 .rne),
   .vmulhi hd (v2 .i32 .rtz), .vcmp hd .ltu { p := 1, a := v 1, b := v 2, ty := .fp32 }, .vcmp hd .lt { p := 0, a := v 1, b := v 2, ty := .fp32 },
   .vcvt hd { d := .v 1, a := v 2, part := { k := 0, mark := false, reuse := false }, src := .fp32, dst := .fp32, rm := .rne },
   .vcvt hd { d := .v 1, a := v 2, part := { k := 2, mark := false, reuse := false }, src := .fp32, dst := .bf16, rm := .rne },
   .vrecip hd (v1 .f8a .rne), .vexp2 hd (v1 .fp32 .rtz), .vsqrt hd (v1 .i32 .rne), .vredsum hd { d := .x 1, a := v 2, ty := .i32, rm := .rtz },
   .vredmax hd { d := .x 1, a := v 2, ty := .fp32, rm := .rtz }, .vscansum hd (v1 .i16 .rtz),
   .vrngp hd { p := 0, a := x 1, b := x 2, c := { src := .x 3, mark := false }, ty := .fp32 },
   .vquant hd { d := .v 1, a := v 2, m := 3, lc := false, ty := .fp32, rm := .rne }, .vdeq hd { d := .v 1, a := v 2, m := 4, lc := false, ty := .i32, rm := .rne }]
def badMemory : List Instr :=
  [.ld hd (.x 1) (m1 .rel .b8), .ld hd (.x 1) (m1 .relaxed .b64), .st hd (.x 1) (m1 .acq .b8), .st hd (.x 1) (m1 .relaxed .b512),
   .ldt hd (.s (.x 1)) (m1 .relaxed .b64), .ldt hd (.qw 0) (m1 .relaxed .b8), .stt hd (.qw 1) (m1 .relaxed .b4), .stt hd (.s (.x 1)) (m1 .acq .b8),
   .ldv hd 0 (m1 .relaxed .b8), .stv hd 1 (m1 .acq .b64), .gather hd 0 (m1 .relaxed .b512), .scatter hd 1 (m1 .acq .b4),
   .atomAdd hd 1 (m1 .relaxed .b2), .atomCas hd 1 (m1 .relaxed .b1), .atomf hd 1 (m1 .relaxed .b8),
   .atomfD hd 1 { base := .x 1, lvl := 8, scope := .role, lbase := false, lidx := false, disp := 0 }, .pref hd 2 (m1 .relaxed .b64),
   .pref hd 0 (m1 .relaxed .b8), .barArrive hd 8 false, .barWait hd 9 false, .pgrab hd 0 1 (x 2), .pgrab hd 1 30 (x 2), .cueresV hd (x 1) 0 false false,
   .wnext hd { p := 0, a := x 1, b := x 2 }, .wlate hd { p := 0, a := x 1, b := x 2 }]
theorem test_wf_refuses : (badControl ++ badVector ++ badMemory).all (fun i => !i.wf) = true := by decide
/-- R105 step 4: a push into Q0 by V, which reads it, and a pop of it by L; and majors of other clusters. -/
theorem test_cluster_refuses :
    decodeFor .v [0x1000028207040000] = .illegalCluster ∧ decodeFor .l [0x5000020200000000] = .illegalCluster ∧
    decodeFor .m [0x20000C0C04080000] = .illegalCluster := by decide


/-! ### Results of single scalar syllables, from the tables and worked cases of 06_isa_control_scalar -/

/-- A machine with one running role, in slot 0 of core 0, whose cluster c stands at 0x1_0000; the other clusters have halted. -/
def one (c : Cluster) (f : Role → Role) : State :=
  { State.reset with roles := [(0, f (fetchRole c))], cur := { core := 0, slot := 0, cl := c } }
def nextOf : Host.Outcome State Fault Refusal → State
  | .next t => t
  | _ => State.reset
def outX (o : Host.Outcome State Fault Refusal) (n : Nat) : Word := (nextOf o).curRole.x n
def outP (o : Host.Outcome State Fault Refusal) (n : Nat) : Pred := (nextOf o).curRole.p n
def outFlags (o : Host.Outcome State Fault Refusal) : BitVec 6 := (nextOf o).curRole.flags
/-- X1 and X2 as given. -/
def sx (a b : Word) : State := one .l (fun r => { r with xs := [(1, a), (2, b)] })
def d12 : S2 := { d := .x 3, a := x 1, b := x 2 }

theorem test_sub_wraps : outX (exec (.sub hd d12) (sx 3 5)) 3 = -2 := by decide +kernel
theorem test_mulh : outX (exec (.mulh hd d12) (sx (-1) (-1))) 3 = 0 ∧ outX (exec (.mulhu hd d12) (sx (-1) (-1))) 3 = -2 := by decide +kernel
theorem test_div_overflow :
    outX (exec (.div hd d12) (sx 0x8000000000000000 (-1))) 3 = 0x8000000000000000 ∧
    outFlags (exec (.div hd d12) (sx 0x8000000000000000 (-1))) = 0x04 ∧ outX (exec (.div hd d12) (sx (-7) 2)) 3 = -3 := by decide +kernel
theorem test_rem_zero :
    outX (exec (.rem hd d12) (sx 9 0)) 3 = 9 ∧ outFlags (exec (.rem hd d12) (sx 9 0)) = 0x02 ∧
    outFlags (exec (.remu hd d12) (sx 0 0)) = 0x01 ∧ outX (exec (.rem hd d12) (sx (-7) 2)) 3 = -1 := by decide +kernel
theorem test_adds_clamps :
    outX (exec (.adds hd d12) (sx 0x7FFFFFFFFFFFFFFF 1)) 3 = 0x7FFFFFFFFFFFFFFF ∧
    outFlags (exec (.adds hd d12) (sx 0x7FFFFFFFFFFFFFFF 1)) = 0x20 ∧ outX (exec (.subs hd d12) (sx 1 2)) 3 = -1 := by decide +kernel
theorem test_shifts :
    outX (exec (.shl hd d12) (sx 1 65)) 3 = 2 ∧ outX (exec (.sar hd d12) (sx (-4) 1)) 3 = -2 ∧
    outX (exec (.rol hd d12) (sx 0x8000000000000001 1)) 3 = 3 ∧ outX (exec (.ror hd d12) (sx 1 1)) 3 = 0x8000000000000000 := by decide +kernel
theorem test_extend :
    outX (exec (.sext hd d12) (sx 0x80 8)) 3 = -128 ∧ outX (exec (.zext hd d12) (sx 0x180 8)) 3 = 0x80 ∧
    outX (exec (.sext hd d12) (sx (-5) 64)) 3 = -5 := by decide +kernel
theorem test_counts :
    outX (exec (.clz hd { d := .x 3, a := x 1 }) (sx 0 0)) 3 = 64 ∧ outX (exec (.ctz hd { d := .x 3, a := x 1 }) (sx 8 0)) 3 = 3 ∧
    outX (exec (.popc hd { d := .x 3, a := x 1 }) (sx (-1) 0)) 3 = 64 := by decide +kernel
theorem test_minmax :
    outX (exec (.min hd d12) (sx (-1) 1)) 3 = -1 ∧ outX (exec (.minu hd d12) (sx (-1) 1)) 3 = 1 ∧
    outX (exec (.maxu hd d12) (sx (-1) 1)) 3 = -1 := by decide +kernel
theorem test_three :
    outX (exec (.madd hd { d := .x 3, a := x 1, b := x 2, c := { src := .x 1, mark := false } }) (sx 3 4)) 3 = 15 ∧
    outX (exec (.msub hd { d := .x 3, a := x 1, b := x 2, c := { src := .x 1, mark := false } }) (sx 3 4)) 3 = -9 ∧
    outX (exec (.sel hd { d := .x 3, a := x 1, b := x 2, c := { src := .k 0, mark := false } }) (sx 3 4)) 3 = 4 := by decide +kernel
/-- R139: the two halves of `mov x5, #0x1234_5678_9ABC_DEF0`. -/
theorem test_movkh :
    outX (exec (.movk hd 1 0x789ABCDEF0) (sx 0 0)) 1 = 0x789ABCDEF0 ∧
    outX (exec (.movkh hd 1 0x123456) (sx 0x789ABCDEF0 0)) 1 = 0x123456789ABCDEF0 := by decide +kernel
/-- R140: bit 56 is copied into bits 63:57. -/
theorem test_lea : outX (exec (.lea hd { d := .x 3, a := .x 1, la := false, imm := 1 }) (sx 0x00FFFFFFFFFFFFFF 0)) 3 = 0xFF00000000000000 := by
  decide +kernel
theorem test_cmp :
    outP (exec (.cmp hd .ltu { p := 7, a := x 1, b := x 2 }) (sx 1 (-1))) 7 = BitVec.allOnes 512 ∧
    outP (exec (.cmp hd .lt { p := 7, a := x 1, b := x 2 }) (sx 1 (-1))) 7 = 0 := by decide +kernel
/-- R142: w is B mod 8. -/
theorem test_psetx : outP (exec (.psetx hd { p := 7, a := x 1, b := x 2 }) (sx 5 9)) 7 = 5 <<< 64 := by decide +kernel
theorem test_pfirst :
    outX (exec (.pfirst hd (.x 3) 4 .fp32) (one .l (fun r => { r with ps := [(4, 0x50)] }))) 3 = 4 ∧
    outX (exec (.plast hd (.x 3) 4 .fp32) (one .l (fun r => { r with ps := [(4, 0x50)] }))) 3 = 6 ∧
    outX (exec (.pfirst hd (.x 3) 4 .fp32) (one .l (fun r => { r with ps := [(4, 1 <<< 128)] }))) 3 = -1 := by decide +kernel
/-- R128's worked program: steps 7, 8 and 13. -/
def at28 (o i : Word) : Clu :=
  { Clu.at_ 0x10028 with loops := [{ start := 0x10018, stop := 0x10028, left := o }, { start := 0x10028, stop := 0x10028, left := i }] }
theorem test_loop_ends :
    (at28 2 2).advance 0x10028 8 = ({ Clu.at_ 0x10028 with loops := (at28 2 1).loops }, true) ∧
    (at28 2 1).advance 0x10028 8 = ({ Clu.at_ 0x10018 with loops := [{ start := 0x10018, stop := 0x10028, left := 1 }] }, true) ∧
    (at28 1 1).advance 0x10028 8 = (Clu.at_ 0x10030, false) := by decide +kernel
/-- R124: three syllables back; R125: the link. -/
theorem test_branches :
    (nextOf (exec (.br hd (-3)) (sx 0 0))).clu.pc = 0xFFE8 ∧ (nextOf (exec (.call hd 31 20) (sx 0 0))).clu.pc = 0x100A0 ∧
    outX (exec (.call hd 31 20) (sx 0 0)) 31 = 0x10008 := by decide +kernel
/-- R133: the code of TRAP is recorded, and the cluster has gone on; R125: a target that is no multiple of 8 traps where it stands. -/
theorem test_trap :
    (nextOf (exec (.trap hd 0x2A) (sx 0 0))).curRole.stop.map (fun i => (i.kind, i.code, i.i0, i.i1)) = some (1, 0x70, 0x2A, 0x10000) ∧
    (nextOf (exec (.trap hd 0x2A) (sx 0 0))).clu.pc = 0x10008 ∧
    (nextOf (exec (.ret hd (.x 1)) (sx 0x1001 0))).curRole.lastcode = 0x03 ∧ (nextOf (exec (.ret hd (.x 1)) (sx 0x1001 0))).clu.pc = 0x10000 := by
  decide +kernel
/-- R134: an enabled flag traps ARITH at the TFENCE. -/
theorem test_tfence :
    (nextOf (exec (.tfence hd) (one .l (fun r => { r with flags := 0x12, flagen := 0x02 })))).curRole.lastcode = 0x20 ∧
    (nextOf (exec (.tfence hd) (one .l (fun r => { r with flags := 0x12, flagen := 0x04 })))).clu.pc = 0x10008 := by decide +kernel

/-! ### States that meet the hypotheses of the statements

Each w_ theorem shows that the hypotheses of the statement of its name, or of one of its clauses, hold together somewhere. -/

def after (m : Iss Unit) (s : State) : State := match m s with | .ok (_, t) => t | .error _ => s
def fine (m : Iss Unit) (s : State) : Bool := match m s with | .ok _ => true | .error _ => false
theorem does_of {m : Iss Unit} {s : State} (h : fine m s = true) : Does m s (after m s) := by
  unfold fine at h
  unfold Does after
  split at h
  · next e => rw [e]
  · cases h
def reads {α : Type} [DecidableEq α] (m : Iss α) (s : State) (a : α) : Bool :=
  match m s with | .ok (b, t) => decide (b = a ∧ t = s) | .error _ => false
theorem reads_of {α : Type} [DecidableEq α] {m : Iss α} {s : State} {a : α} (h : reads m s a = true) : Reads m s a := by
  unfold reads at h
  split at h
  · next e => obtain ⟨rfl, rfl⟩ := of_decide_eq_true h; exact e
  · cases h
def waits {α : Type} (m : Iss α) (s : State) : Bool := match m s with | .error .wait => true | _ => false
theorem waits_of {α : Type} {m : Iss α} {s : State} (h : waits m s = true) : m s = .error .wait := by
  unfold waits at h
  split at h
  · assumption
  · cases h
def goes (o : Host.Outcome State Fault Refusal) : Bool := match o with | .next _ => true | _ => false
theorem goes_of {o : Host.Outcome State Fault Refusal} (h : goes o = true) : o = .next (nextOf o) := by
  unfold goes at h
  split at h
  · rfl
  · cases h
def isOk {ε α : Type} [DecidableEq α] (e : Except ε α) (a : α) : Bool := match e with | .ok b => decide (b = a) | .error _ => false
/-- A result with a new state. -/
def gives {ε α β : Type} [DecidableEq α] (e : Except ε (α × β)) (a : α) : Bool := match e with | .ok b => decide (b.1 = a) | .error _ => false
theorem gives_of {ε α β : Type} [DecidableEq α] {e : Except ε (α × β)} {a : α} (h : gives e a = true) : ∃ t, e = .ok (a, t) := by
  unfold gives at h
  split at h
  · next b => exact ⟨b.2, by rw [← of_decide_eq_true h]⟩
  · cases h
theorem ok_of {ε α : Type} [DecidableEq α] {e : Except ε α} {a : α} (h : isOk e a = true) : e = .ok a := by
  unfold isOk at h
  split at h
  · rw [of_decide_eq_true h]
  · cases h
def isErr {α : Type} (e : Except Nat α) (c : Nat) : Bool := match e with | .ok _ => false | .error d => decide (d = c)
theorem err_of {α : Type} {e : Except Nat α} {c : Nat} (h : isErr e c = true) : e = .error c := by
  unfold isErr at h
  split at h
  · cases h
  · rw [of_decide_eq_true h]
def readyB (n : Nat) (b : Bool) (s : State) : Bool :=
  s.curLive && (!b || (decide (s.curRole.anyFault = none) && s.curRole.performed && alone s)) &&
  (!atBoundary s.clu || decide (s.curRole.stopReq = none)) && (!nextIteration s.clu || decide (s.curRole.hasFault s.cur.cl = none)) &&
  !(s.clu.advance s.clu.pc n).2 && s.clu.lrec.isNone
theorem ready_of {n : Nat} {b : Bool} {s : State} (h : readyB n b s = true) : Ready n b s := by
  simp only [readyB, Bool.and_eq_true, Bool.or_eq_true, Bool.not_eq_true', decide_eq_true_eq, Option.isNone_iff_eq_none] at h
  obtain ⟨⟨⟨⟨⟨h1, h2⟩, h3⟩, h4⟩, h5⟩, h6⟩ := h
  refine ⟨h1, fun hb => ?_, fun hg => ?_, fun hn => ?_, h5, fun l hl => ?_⟩
  · rcases h2 with h2 | h2
    · rw [hb] at h2; cases h2
    · exact ⟨h2.1.1, h2.1.2, h2.2⟩
  · rcases h3 with h3 | h3
    · rw [hg] at h3; cases h3
    · exact h3
  · rcases h4 with h4 | h4
    · rw [hn] at h4; cases h4
    · exact h4
  · rw [h6] at hl; cases hl
theorem target_of {s : State} {t : Word} (h : decide (t.toNat % 8 = 0 ∧ (s.cur.cl = .m → inNestPayload s s.cur.core.toNat s.curRole.asid.toNat t = false)) = true) :
    TargetOk s t := by
  have e := of_decide_eq_true h
  exact e

def s53 : State := sx 5 3
def wr3 (a : Word) : Iss Unit := wrS (.x 3) a
def pop12 : Iss Unit := popMarks [msMk (x 1), msMk (x 2)]

theorem w_AluResults :
    Ready 8 false s53 ∧ Reads (guardS hd) s53 true ∧ Reads (rdS (.x 1)) s53 5 ∧ Reads (rdS (.x 2)) s53 3 ∧
    Does pop12 s53 (after pop12 s53) ∧ Does (wr3 8) (after pop12 s53) (after (wr3 8) (after pop12 s53)) := by
  refine ⟨ready_of ?_, reads_of ?_, reads_of ?_, reads_of ?_, does_of ?_, does_of ?_⟩ <;> decide +kernel
theorem w_AluFlagged :
    Ready 8 false (sx 5 0) ∧ Reads (guardS hd) (sx 5 0) true ∧ Reads (rdS (.x 1)) (sx 5 0) 5 ∧ Reads (rdS (.x 2)) (sx 5 0) 0 ∧
    Does (raiseI 255 0 fDZ) (sx 5 0) (after (raiseI 255 0 fDZ) (sx 5 0)) ∧
    Does pop12 (after (raiseI 255 0 fDZ) (sx 5 0)) (after pop12 (after (raiseI 255 0 fDZ) (sx 5 0))) ∧
    Does (wr3 0) (after pop12 (after (raiseI 255 0 fDZ) (sx 5 0)))
      (after (wr3 0) (after pop12 (after (raiseI 255 0 fDZ) (sx 5 0)))) := by
  refine ⟨ready_of ?_, reads_of ?_, reads_of ?_, reads_of ?_, does_of ?_, does_of ?_, does_of ?_⟩ <;> decide +kernel
theorem w_ImmediateResults :
    Ready 8 false s53 ∧ Reads (guardS hd) s53 true ∧ Reads (rdS (.x 1)) s53 5 ∧ Reads (rdX 1) s53 5 ∧
    Does (popMarks [(none, false)]) s53 (after (popMarks [(none, false)]) s53) ∧ Does (wrX 1 9) s53 (after (wrX 1 9) s53) := by
  refine ⟨ready_of ?_, reads_of ?_, reads_of ?_, reads_of ?_, does_of ?_, does_of ?_⟩ <;> decide +kernel
/-- CMP, the predicate operations and PSETX, whose new predicate is the word 5 in place of word 1. -/
theorem w_PredicateInstructions :
    Ready 8 false s53 ∧ Reads (guardS hd) s53 true ∧ Reads (rdS (.x 1)) s53 5 ∧ Reads (rdS (.k 9)) s53 9 ∧ Reads (rdP 4) s53 0 ∧
    (∀ i < 512, (5 <<< 64 : Pred).getLsbD i = if i / 64 = (9 : Word).toNat % 8 then (5 : Word).getLsbD (i % 64) else (0 : Pred).getLsbD i) ∧
    Does (wrP 4 (5 <<< 64)) s53 (after (wrP 4 (5 <<< 64)) s53) ∧
    Does pop12 (after (wrP 4 (5 <<< 64)) s53) (after pop12 (after (wrP 4 (5 <<< 64)) s53)) := by
  refine ⟨ready_of ?_, reads_of ?_, reads_of ?_, reads_of ?_, reads_of ?_, ?_, does_of ?_, does_of ?_⟩ <;> decide +kernel

/-- Queue Q1, which L reads, with entries pushed at the given cycles. -/
def q1 (l : List Nat) (now : Nat) : State :=
  { one .l (fun r => { r with qs := [(1, l.map (fun c => { at_ := c, val := 7, pend := none }))] }) with cycle := now }
theorem w_OperandReads :
    (q1 [3] 5).curRole.snap = none ∧ qList (q1 [3] 5).curRole.qs 1 = [{ at_ := 3, val := 7, pend := none }] ∧ 3 + 2 ≤ (q1 [3] 5).cycle ∧
    qList (q1 [] 5).curRole.qs 1 = [] ∧ (q1 [4] 5).cycle < 4 + 2 ∧ (q1 [3] 5).curRole.acc = [] ∧ (q1 [3] 5).clu.lrec = none := by
  decide +kernel
theorem w_OperandReads_clock : s53.clock = true ∧ { s53 with clock := false }.clock = false := by decide +kernel
/-- A role with a request that may set its error predicate, or may not. -/
theorem w_OperandReads_pred :
    (let s := one .l (fun r => { r with acc := [{ Access.blank .ld 0x10000 with dests := [.x 7], cueerr := 6 }], nextId := 1 });
      mayCueLoad s s.curRole.asid.toNat { Access.blank .ld 0x10000 with dests := [.x 7], cueerr := 6 } = true) ∧
    (let s := one .l (fun r => { r with acc := [{ Access.blank .st 0x10000 with cueerr := 6 }], nextId := 1 });
      mayCueLoad s s.curRole.asid.toNat { Access.blank .st 0x10000 with cueerr := 6 } = false) := by decide +kernel
/-- A queue with room, and a full one. -/
theorem w_OperandWrites :
    (q1 [1, 2] 5).curRole.snap = none ∧ (∀ e ∈ qList (q1 [1, 2] 5).curRole.qs 1, e.pend = none) ∧ (q1 [1, 2] 5).curRole.acc = [] ∧
    (qList (q1 [1, 2] 5).curRole.qs 1).length < 16 ∧ 16 ≤ (qList (q1 (List.replicate 16 1) 5).curRole.qs 1).length ∧
    (∀ e ∈ qList (q1 (List.replicate 16 1) 5).curRole.qs 1, e.pend = none) := by decide +kernel
theorem w_FalseGuard :
    Ready 8 false s53 ∧ Reads (guardS { hd with gn := true }) s53 false ∧ Does (needHeads [msMk (x 1), msMk (x 2)]) s53 s53 ∧
    Does pop12 s53 (after pop12 s53) ∧ Does (wrS0 (.x 3)) (after pop12 s53) (after (wrS0 (.x 3)) (after pop12 s53)) := by
  refine ⟨ready_of ?_, reads_of ?_, ?_, does_of ?_, does_of ?_⟩
  · decide +kernel
  · decide +kernel
  · exact reads_of (a := ()) (by decide +kernel)
  · decide +kernel
  · decide +kernel
theorem w_FalseGuard_one :
    Does (needHeads [(none, false), (none, false)]) s53 s53 ∧ Does (needHeads [msMk (x 2)]) s53 s53 ∧
    Does (popMarks [msMk (x 2)]) s53 (after (popMarks [msMk (x 2)]) s53) ∧ Does (wrS0 (.x 3)) s53 (after (wrS0 (.x 3)) s53) :=
  ⟨reads_of (a := ()) (by decide +kernel), reads_of (a := ()) (by decide +kernel), does_of (by decide +kernel), does_of (by decide +kernel)⟩
theorem w_ScalarFrame :
    scalarWrites (.add hd d12) = some { marks := [msMk (x 1), msMk (x 2)], dst := some (.x 3) } ∧
    exec (.add hd d12) s53 = .next (nextOf (exec (.add hd d12) s53)) := ⟨rfl, goes_of (by decide +kernel)⟩
theorem w_NopHintNoEffect : Ready 8 false s53 ∧ Ready 8 true s53 := by
  refine ⟨ready_of ?_, ready_of ?_⟩ <;> decide +kernel
theorem w_BranchesAndCalls :
    Ready 8 false s53 ∧ Reads (guardS hd) s53 true ∧ TargetOk s53 (s53.branchTo (-3)) ∧ Reads (rdP 0) s53 (BitVec.allOnes 512) ∧
    (∃ i < ETy.lanes .fp32, (BitVec.allOnes 512).getLsbD i = true) ∧ (∀ i < ETy.lanes .i8, (BitVec.allOnes 512).getLsbD i = true) ∧
    Reads (rdP 4) s53 0 ∧ (∀ i < ETy.lanes .i8, (0 : Pred).getLsbD i = false) ∧ Reads (rdS (.x 1)) s53 5 ∧ Reads (rdS (.x 2)) s53 3 ∧
    condHolds .gt 5 3 = true ∧ condHolds .lt 5 3 = false ∧ Does (wrX 31 0x10008) s53 (after (wrX 31 0x10008) s53) ∧
    TargetOk (sx 0x20000 3) 0x20000 ∧ (5 : Word).toNat % 8 ≠ 0 := by
  refine ⟨ready_of ?_, reads_of ?_, target_of ?_, reads_of ?_, ⟨0, ?_⟩, ?_, reads_of ?_, ?_, reads_of ?_, reads_of ?_, ?_, ?_, does_of ?_,
    target_of ?_, ?_⟩ <;> decide +kernel
/-- A cluster at 0x1_0000 with a loop stack. -/
def looped (l : List LoopEnt) : State := one .l (fun r => { r with cl := { r.cl with loops := l } })
def around : LoopEnt := { start := 0xFFF0, stop := 0x10008, left := 2 }
/-- A body past its outer body; a count of 0; a full stack; room. -/
theorem w_LoopInstructions :
    (Ready 8 false (looped [around]) ∧ Reads (guardS hd) (looped [around]) true ∧ (looped [around]).clu.lrec = none) ∧
    (around.start.toNat ≤ (looped [around]).clu.pc.toNat ∧ (looped [around]).clu.pc.toNat ≤ around.stop.toNat ∧
      around.stop.toNat < ((looped [around]).branchTo 3).toNat) ∧
    Reads (rdS (.k 0)) s53 0 ∧ 1 ≤ (3 : BitVec 28).toInt ∧ s53.cur.cl ≠ .m ∧ s53.clu.loops.getLast? = none ∧
    Ready 8 false (looped (List.replicate 4 { around with stop := 0x20000 })) ∧
    (looped (List.replicate 4 { around with stop := 0x20000 })).clu.loops.length = 4 := by
  refine ⟨⟨ready_of ?_, reads_of ?_, ?_⟩, ?_, reads_of ?_, ?_, ?_, ?_, ready_of ?_, ?_⟩ <;> decide +kernel
/-- A count of 0 whose body ends where a loop around it goes back, to a syllable and to none. -/
def backTo (a : Word) : LoopEnt := { start := a, stop := 0x10018, left := 2 }
theorem w_LoopInstructions_back :
    (∀ a : Word, a ∈ [0xFFF0, 0xFFF4] → Ready 8 false (looped [backTo a]) ∧ (looped [backTo a]).branchTo 3 = 0x10018 ∧
      ((looped [backTo a]).clu.advance 0x10018 8).2 = true ∧ ((looped [backTo a]).clu.advance 0x10018 8).1.pc = a) := by
  intro a h
  rcases List.mem_pair.mp h with rfl | rfl <;> exact ⟨ready_of (by decide +kernel), by decide +kernel⟩
theorem w_LoopEnds :
    (at28 2 1).loops = [{ start := 0x10018, stop := 0x10028, left := 2 }] ++ [{ start := 0x10028, stop := 0x10028, left := 1 }] ∧
    s53.curLive = true ∧ s53.clu.lrec = none ∧ s53.cur.cl ≠ .m ∧ s53.clu.pc.toNat % 8 = 0 ∧ (∀ e ∈ s53.clu.loops, e.start.toNat % 8 = 0) := by
  decide +kernel
theorem w_TransferSettlesLoops : (looped [around]).clu.lrec = none := by decide +kernel
/-- A role of cluster L with one outstanding request. -/
def asking (a : Access) : State := one .l (fun r => { r with acc := [a], nextId := 1 })
def ldX : Access := { Access.blank .ld 0x10000 with dests := [.x 7] }
theorem w_HaltYieldTrapTfence :
    Ready 8 false s53 ∧ ownOpen s53 false = false ∧ ownOpen s53 true = false ∧ s53.curRole.hasFault s53.cur.cl = none ∧
    Ready 8 false (asking ldX) ∧ ownOpen (asking ldX) false = true ∧ Reads (guardS hd) s53 true ∧ s53.curRole.snap = none ∧
    (let r := (one .l (fun r => { r with flags := 2, flagen := 2 })).curRole; r.flags &&& r.flagen ≠ 0) := by
  refine ⟨ready_of ?_, ?_, ?_, ?_, ready_of ?_, ?_, reads_of ?_, ?_, ?_⟩ <;> decide +kernel

/-- The page of virtual address 0x1_0000 mapped by a leaf, its frame holding some bytes; one running role of cluster c. -/
def paged (leaf frame : Nat) (bs : List Byte) (c : Cluster) (f : Role → Role) : State :=
  let s := (((layOut State.reset [0]).memWrite 0x14008 (natLe 8 leaf)).memWrite frame bs)
  let p := s.partOr 0
  { s with
    roles := [(0, f (fetchRole c))]
    cur := { core := 0, slot := 0, cl := c }
    sched := []
    parts := [(0, { p with record := { p.record with svcs := [0], hbm := [0], slice := [0], cores := [0], imageOk := true } })] }
/-- A normal page, a pool page, a cue page and a multicast page, each with its A and D bits set. -/
def plainLeaf : Nat := 0x2031F
def poolLeaf : Nat := 2 ^ 52 + 0x33F
def cueLeaf : Nat := 0x2035F
def plain (bs : List Byte) (c : Cluster) (f : Role → Role) : State := paged plainLeaf 0x20000 bs c f
def pa0 : Nat := 0x20000

def recWords : List Word := [0x10040, 0, 0, 0x0001000000000001, 3, 0, 0, 0]
def lrecState : State := plain (recWords.flatMap wordLe) .l id
/-- An LREC that reads its record at its own address; the parts of a running record; a rotation group. -/
theorem w_LoopRecords_starts :
    Ready 8 false lrecState ∧ Reads (guardS hd) lrecState true ∧ lrecState.curRole.hasFault .l = none ∧
    Reads (rdS (.sp .zero)) lrecState 0 ∧ lrecState.clu.lrec = none ∧ canonical 0x10000 = true ∧
    (∃ t, readAt lrecState 0 lrecState.curRole 0x10000 .rd 64 = .ok (0x20000, t)) ∧
    (List.range 8).map (fun i => lrecState.memWord (0x20000 + 8 * i)) = recWords ∧ lrecOk recWords = true ∧
    stagesClash lrecState.curRole .l (lrecOf recWords 0x10000 0x10008 3) = false := by
  refine ⟨ready_of ?_, reads_of ?_, ?_, reads_of ?_, ?_, ?_, gives_of ?_, ?_, ?_, ?_⟩ <;> decide +kernel
def runningRec : LRec := { lrecOf recWords 0x10000 0x10008 3 with part := .kernel, it := 1, esize := 2, epilogue := 0x10080 }
/-- A record at its beginning: no trip, a prologue, a kernel at once, none, with an epilogue and without; a prologue's end. -/
theorem w_LoopRecords_begins :
    let l := lrecOf recWords 0x10000 0x10008 3
    { l with trip := 0 }.trip = 0 ∧ l.trip ≠ 0 ∧ { l with psize := 2 }.psize ≠ 0 ∧ l.psize = 0 ∧ l.it ≤ l.last ∧
    { l with last := 0, it := 1 }.last < { l with last := 0, it := 1 }.it ∧ l.esize = 0 ∧ runningRec.esize ≠ 0 ∧
    { l with part := .prologue }.part = .prologue ∧ (lrecState.curRole.clu .l).loops = [] := by decide +kernel
theorem w_LoopRecords_runs :
    64 ≤ runningRec.pbase ∧ runningRec.it < runningRec.last ∧ 0 < runningRec.stages ∧ runningRec.esize ≠ 0 ∧
    { runningRec with it := 2 }.last ≤ { runningRec with it := 2 }.it ∧ (8, 4) ∈ [(8, 4), (0x80, 2)] ∧ 8 ≤ (9 : BitVec 8).toNat ∧
    (9 : BitVec 8).toNat < 8 + 4 ∧ (∀ y ∈ [(8, 4), (0x80, 2)], y ≠ (8, 4) → ¬ (y.1 ≤ (9 : BitVec 8).toNat ∧ (9 : BitVec 8).toNat < y.1 + y.2)) ∧
    (∀ y ∈ [(8, 4)], ¬ (y.1 ≤ (20 : BitVec 8).toNat ∧ (20 : BitVec 8).toNat < y.1 + y.2)) := by decide +kernel

/-- A launch of partition 0 with id 0 on core 0. -/
def launch0 : Launch :=
  { id := 0, ordinal := 1, rec_ := [], recAddr := 0, asid := 1, first := 0, count := 1, rank := 0, groups := 1, st := .bound, lines := [],
    swapped := [], qstart := 0, word := none, masks := [], since := 0 }
def withLaunch (l : Launch) (s : State) : State :=
  { s with parts := [(0, { s.partOr 0 with launches := [l], accepted := 1, record := { (s.partOr 0).record with cores := [0], imageOk := true } })] }
def tiled (bs : List Byte) (c : Cluster) (f : Role → Role) : State := (one c f).tileWrite 0 0 bs
/-- A nest of 6 iterations, grain 2. -/
def seqBytes : List Byte := [6, 0, 1, 0, 1, 0, 1, 0, 0, 0, 2, 0, 0, 0, 0, 0]
def seqState : State := withLaunch launch0 (tiled seqBytes .l id)
def cur0 : SeqCur := { part := 0, lid := 0, trips := [6, 1, 1, 1], perm := 0, grain := 2, stop := 6, cursor := 4 }
def nextState : State := (one .l id).setCore 0 (CoreSt.reset.setCursor cur0)
theorem w_SequencerRuns :
    Ready 8 false seqState ∧ Reads (guardS hd) seqState true ∧ Reads (rdS (.k 0)) seqState 0 ∧ Reads (tileGet 0 16) seqState seqBytes ∧ Reads (tileOrdered true .relaxed) seqState () ∧
    permOk 0 = true ∧ seqState.alloc 0 0 = some (0, 1) ∧ Does (popMarks [msMk (k 0)]) seqState (after (popMarks [msMk (k 0)]) seqState) ∧
    Ready 8 false nextState ∧ (nextState.core 0).cursor? 0 0 = some cur0 ∧ Does (wrX 3 2) nextState (after (wrX 3 2) nextState) := by
  refine ⟨ready_of ?_, reads_of ?_, reads_of ?_, reads_of ?_, reads_of ?_, ?_, ?_, does_of ?_, ready_of ?_, ?_, does_of ?_⟩ <;> decide +kernel

/-- A tensor of one 512-byte row at offset 0: a region stream; a ring of two slots of 1,024 bytes at 0x1000, and a sink stream on it. -/
def strmWords : List Word := [0x0000000002000000, 0x0000020000000000, 1, 0, 0, 0, 0, 0]
def regStrm : Strm := { words := strmWords, h0 := 0, c := 0, sp := 0 }
def ringWords : List Word := [0x0000000200001000, 0x400, 0, 0, 0, 0, 0, 0]
def ring0 : Ring := { w0 := 0x0000000200001000, w1 := 0x400, head := 0, pub := 0, tail := 1, hi := 0, pi := 0, ti := 1, slots := [.acquired, .free] }
def sinkStrm : Strm := { words := [5, 0, 0, 0, 0, 0, 0, 0], h0 := 0, c := 1, sp := 1 }
def descState (ws : List Word) : State := tiled (ws.flatMap wordLe) .l id
def strmState : State := one .l (fun r => { r with strms := [(2, regStrm)] })
def sinkState : State := one .l (fun r => { r with strms := [(2, sinkStrm)], rings := [(0, ring0)] })
theorem w_StreamInstructions :
    Ready 8 false (descState strmWords) ∧ Reads (guardS hd) (descState strmWords) true ∧ (descState strmWords).curRole.nest = none ∧
    (descState strmWords).curRole.snap = none ∧ Reads (rdS (.k 0)) (descState strmWords) 0 ∧
    Reads (tileGet 0 64) (descState strmWords) (strmWords.flatMap wordLe) ∧
    (List.range 8).map (fun i => leWord (((strmWords.flatMap wordLe).drop (8 * i)).take 8)) = strmWords ∧ strmDescOk strmWords = true ∧
    bits (strmWords.getD 0 0) 1 0 = 0 := by
  refine ⟨ready_of ?_, reads_of ?_, ?_, ?_, reads_of ?_, reads_of ?_, ?_, ?_, ?_⟩ <;> decide +kernel
theorem w_StreamInstructions_defined :
    Ready 8 false strmState ∧ Reads (guardS hd) strmState true ∧ mfind strmState.curRole.strms 2 = some regStrm ∧ regStrm.bind = 0 ∧
    regStrm.words.length = 8 ∧ Reads (rdS (.k 1)) strmState 1 ∧ Reads (rdS (.k 0)) strmState 0 ∧ (1 : Word).toNat ≤ regStrm.vectors ∧
    strmDescOk ((regStrm.words.set 1 (BitVec.ofNat 64 (regStrm.limit * 2 ^ 32))).set 2 1) = true ∧
    strmDescOk (regStrm.words.set 0 (BitVec.ofNat 64 ((regStrm.w 0).toNat / 2 ^ 15 * 2 ^ 15 + 4))) = true := by
  refine ⟨ready_of ?_, reads_of ?_, ?_, ?_, ?_, reads_of ?_, reads_of ?_, ?_, ?_, ?_⟩ <;> decide +kernel
theorem w_StreamInstructions_ordered :
    Reads (tileOrdered true .relaxed) (descState strmWords) () ∧ Reads releaseOrdered sinkState () ∧ sinkStrm.words.length = 8 ∧
    (4 : Word).toNat % 4 = 0 ∧ strmState.curRole.nest = none ∧ strmState.curRole.snap = none ∧ sinkState.curRole.nest = none := by
  refine ⟨reads_of ?_, reads_of ?_, ?_, ?_, ?_, ?_, ?_⟩ <;> decide +kernel
theorem w_StreamInstructions_slot :
    Ready 8 false sinkState ∧ Reads (guardS hd) sinkState true ∧ mfind sinkState.curRole.strms 2 = some sinkStrm ∧ sinkStrm.bind = 1 ∧
    sinkStrm.sink = true ∧ mfind sinkState.curRole.rings sinkStrm.ring = some ring0 ∧ sinkStrm.c % (ring0.slotBytes / 512) ≠ 0 ∧
    Does (tilePut 0x1200 (List.replicate 512 0)) sinkState (after (tilePut 0x1200 (List.replicate 512 0)) sinkState) := by
  refine ⟨ready_of ?_, reads_of ?_, ?_, ?_, ?_, ?_, ?_, does_of ?_⟩ <;> decide +kernel
/-- The rest of the slot that the stream has begun is its own; at the boundary; a source that has passed its ring's one ready slot. -/
def srcStrm : Strm := { words := [1, 0, 0, 0, 0, 0, 0, 0], h0 := 0, c := 2, sp := 2 }
def readyRing : Ring := { ring0 with pub := 1, pi := 1, slots := [.published, .free] }
theorem w_StreamInstructions_rings :
    (sinkStrm.sp = sinkStrm.c ∧ sinkStrm.slotNo ring0 = ring0.pub ∧ ring0.acqd ≠ 0 ∧ ring0.idxOf ring0.pub = ring0.pi) ∧
    ({ sinkStrm with c := 2 }.c % (ring0.slotBytes / 512) = 0 ∧ regStrm.bind ≠ 1) ∧
    (let s := one .l (fun r => { r with strms := [(2, srcStrm)], rings := [(0, readyRing)] });
      mfind s.curRole.strms 2 = some srcStrm ∧ srcStrm.bind = 1 ∧ srcStrm.sink = false ∧ mfind s.curRole.rings srcStrm.ring = some readyRing ∧
      readyRing.hi < readyRing.count ∧ readyRing.slots.length = readyRing.count ∧ readyRing.ready = 1 ∧
      (BitVec.ofNat 32 (srcStrm.h0 + srcStrm.c / (readyRing.slotBytes / 512)) - readyRing.head).toNat = 1) := by decide +kernel
/-- Rings in the states that the clauses ask for. -/
def ringOf (h p t : Nat) : Ring :=
  { ring0 with head := BitVec.ofNat 32 h, pub := BitVec.ofNat 32 p, tail := BitVec.ofNat 32 t, slots := [.free, .free] }
theorem w_RingOperations :
    Ready 8 false (descState ringWords) ∧ Reads (tileGet 0 64) (descState ringWords) (ringWords.flatMap wordLe) ∧
    Reads (tileOrdered true .relaxed) (descState ringWords) () ∧ ringDescOk ringWords = true ∧
    ring0.base + ring0.count * ring0.slotBytes ≤ (descState ringWords).curRole.twSize.toNat ∧
    (let s := tiled (ringWords.flatMap wordLe) .l (fun r => { r with twSize := 0x1000 });
      s.curRole.twSize.toNat < ring0.base + ring0.count * ring0.slotBytes) ∧ (descState ringWords).curRole.strms = [] ∧ (descState ringWords).curRole.drainSlot = none ∧
    (ringOf 0 0 1).used < (ringOf 0 0 1).count ∧ (ringOf 0 0 2).count ≤ (ringOf 0 0 2).used ∧ (ringOf 0 0 1).acqd ≠ 0 ∧ (ringOf 0 1 1).acqd = 0 ∧
    (ringOf 0 1 1).ready ≠ 0 ∧ (ringOf 0 0 1).ready = 0 := by
  refine ⟨ready_of ?_, reads_of ?_, reads_of ?_, ?_, ?_, ?_, ?_, ?_, ?_, ?_, ?_, ?_, ?_, ?_⟩ <;> decide +kernel
/-- A ring of a role, with and without a request of its cluster that is to be performed. -/
theorem w_RingOperations_defined :
    (let s := one .l (fun r => { r with rings := [(0, ringOf 0 0 1)] });
      mfind s.curRole.rings 0 = some (ringOf 0 0 1) ∧ s.curRole.copies = [] ∧ s.curRole.nest = none ∧ s.curRole.snap = none ∧
      s.curRole.acc.any (fun a => a.cl == s.cur.cl && a.stat.unperformed) = false) ∧
    (let s := one .l (fun r => { r with rings := [(0, ringOf 0 0 1)], acc := [{ Access.blank .ld 0x10000 with dests := [.x 7] }] });
      s.curRole.acc.any (fun a => a.cl == s.cur.cl && a.stat.unperformed) = true) := by decide +kernel

/-- A role at 0x1_0000 with a request, or eight wide ones. -/
def wideSt : Access := { Access.blank .stv 0x10000 with wide := true, size := .b512 }
theorem w_RequestsSent :
    (outstanding s53 0 < 4096 ∧ replayLoad s53.curRole < 256 ∧ s53.curRole.acc.countP (·.wide) < 8 ∧ s53.curRole.snap = none ∧
      (∀ d ∈ ldX.dests, ∀ b ∈ s53.curRole.acc, d ∉ b.dests)) ∧ (∃ n, Dest.x 7 = .x n) ∧
    8 ≤ (one .l (fun r => { r with acc := List.replicate 8 wideSt })).curRole.acc.countP (·.wide) ∧
    256 ≤ replayLoad (one .l (fun r => { r with acc := List.replicate 256 ldX })).curRole ∧ ldX.kind ≠ .fence := by
  refine ⟨?_, ⟨7, rfl⟩, ?_, ?_, ?_⟩ <;> decide +kernel
theorem w_RequestsSent_core : ∀ n, outstanding (one .l (fun r => { r with acc := List.replicate n ldX })) 0 = n := by
  intro n
  have h : ldX.stat.open_ = true := rfl
  simp [outstanding, State.role, one, mget, fetchRole, Role.reset, List.range, List.range.loop, List.countP_replicate, h]
/-- X1 holds an address of the mapped page, X2 a datum, Q9 a row; the tile window holds zeros, as offsets of a gather. -/
def memState : State :=
  plain [1, 2, 3, 4, 5, 6, 7, 8] .l (fun r => { r with xs := [(1, 0x10040), (2, 0x40)], qs := [(10, [{ at_ := 0, val := 9, pend := none }])] })
def memNow : State := { memState with cycle := 10 }
def mf (sz : Size) (d : BitVec 8) : MF := mem 1 .role .relaxed sz d
def sent (a : Access) : Iss Unit := sendAcc a
theorem w_MemoryRequestsChecked :
    Ready 8 false memNow ∧ Reads (guardS hd) memNow true ∧ Reads (eaOf (mf .b8 1)) memNow 0x10048 ∧ GoodAddr 0x10048 8 ∧
    Reads (eaOf (mf .b512 0)) memNow 0x10040 ∧ GoodAddr 0x10040 64 ∧ Reads (rdS (.x 2)) memNow 0x40 ∧ Reads (qHead 10) memNow 9 ∧
    Sends { Access.blank .ld 0x10048 with dests := [.x 7] } memNow (after (sent { Access.blank .ld 0x10048 with dests := [.x 7] }) memNow) ∧
    Does (popMarks (mMarks (mf .b8 1))) memNow (after (popMarks (mMarks (mf .b8 1))) memNow) ∧
    canonical 0x0200000000000000 = false ∧ (0x10041 : Word).toNat % min (Size.bytes .b8) 64 ≠ 0 := by
  refine ⟨ready_of ?_, reads_of ?_, reads_of ?_, ?_, reads_of ?_, ?_, reads_of ?_, reads_of ?_, does_of ?_, does_of ?_, ?_, ?_⟩ <;>
    first
    | decide +kernel
    | exact ⟨by decide +kernel, by decide +kernel⟩
theorem w_MemoryRequestsChecked_gather :
    Reads (tileOrdered true .relaxed) memNow () ∧
    Reads (gatherAddr { mf .b4 0 with idx := .x 2 }) memNow (0x10040, List.replicate 128 0) ∧
    Does (sent { Access.blank .gather 0x10040 with size := .b4, idx := List.replicate 128 0, listOff := 0x40, dests := [.q 8] }) memNow
      (after (sent { Access.blank .gather 0x10040 with size := .b4, idx := List.replicate 128 0, listOff := 0x40, dests := [.q 8] }) memNow) := by
  refine ⟨reads_of ?_, reads_of ?_, does_of ?_⟩ <;> decide +kernel
def detState : State := one .l (fun r => { r with det := true, levels := [(1, 0x0001000000000000)], xs := [(1, 0x10040), (2, 5)] })
theorem w_AtomicAndTileRequests :
    Reads (rdX 2) memNow 0x40 ∧ Reads (eaOf (mf .b8 0)) memNow 0x10040 ∧ GoodAddr 0x10040 8 ∧ memNow.curRole.det = false ∧
    Ready 8 false detState ∧ detState.curRole.det = true ∧ levelUsed (mget 0 detState.curRole.levels 1) = true ∧
    Sends { Access.blank (.atom 0) 0x10040 with v := 0x40, dests := [.x 2] } memNow
      (after (sent { Access.blank (.atom 0) 0x10040 with v := 0x40, dests := [.x 2] }) memNow) := by
  refine ⟨reads_of ?_, reads_of ?_, ⟨?_, ?_⟩, ?_, ready_of ?_, ?_, ?_, does_of ?_⟩ <;> decide +kernel
/-- LDT and STT at offset 0x40, and an offset past the window. -/
def tileState : State := { tiled (List.replicate 64 1) .l (fun r => { r with xs := [(1, 0x40), (2, 0x20000)] }) with cycle := 10 }
theorem w_AtomicAndTileRequests_tile :
    Ready 8 false tileState ∧ Reads (eaOf (mf .b8 0)) tileState 0x40 ∧ Reads (tileChk 0x40 8) tileState 0x40 ∧
    Reads (tileOrdered true .relaxed) tileState () ∧ Reads (tileOrdered false .relaxed) tileState () ∧
    Reads (tileGet 0x40 8) tileState (List.replicate 8 0) ∧ Does (wr3 0) tileState (after (wr3 0) tileState) ∧
    Does (tilePut 0x40 (natLe 8 5)) tileState (after (tilePut 0x40 (natLe 8 5)) tileState) ∧
    tileRange tileState.curRole (tileState.arrBase 0) 0x20000 8 = none := by
  refine ⟨ready_of ?_, reads_of ?_, reads_of ?_, reads_of ?_, reads_of ?_, reads_of ?_, does_of ?_, does_of ?_, ?_⟩ <;> decide +kernel
/-- Copies of 64 bytes within the tile window, and a copy under way. -/
def job (d a b : Word) : CopyJob :=
  { id := 0, cl := .l, pc := 0, sparse := false, dst := d, src := a, len := b, index := 0, acq := false, rel := false,
    scope := .role, after := [], afterW := [], done := 0, buf := none, multi := false, mdest := 0, fault := none, held := false,
    afresh := false, at_ := 0, passed := 0, kept := [] }
def tref (o : Nat) : Word := BitVec.ofNat 64 (2 ^ 63 + o)
def copyState : State := one .l (fun r => { r with xs := [(1, tref 0), (2, tref 64), (3, 64)] })
def copying : State := one .l (fun r => { r with copies := [job (tref 0) (tref 64) 64] })
theorem w_FencesAndCopiesIssued :
    (s53.curRole.acc.any (fun a => a.cl == s53.cur.cl && mayFault s53 s53.curKey a) = false ∧ s53.curRole.snap = none) ∧
    Sends { Access.blank .fence 0 with ord := .acq } s53 (after (sent { Access.blank .fence 0 with ord := .acq }) s53) ∧
    Ready 8 false copyState ∧ Reads (rdX 1) copyState (tref 0) ∧ Reads (rdS (.x 2)) copyState (tref 64) ∧ Reads (rdS (.x 3)) copyState 64 ∧
    copyAddrOk (tref 0) = true ∧ Reads (copyTile (tref 0) 64) copyState () ∧ Reads (copyTile (tref 64) 64) copyState () ∧
    Does (sendCopy (job (tref 0) (tref 64) 64)) copyState (after (sendCopy (job (tref 0) (tref 64) 64)) copyState) ∧
    Ready 8 false copying ∧ (∃ c ∈ copying.curRole.copies, c.cl = copying.cur.cl) ∧ copying.curRole.hasFault .l = none := by
  refine ⟨?_, does_of ?_, ready_of ?_, reads_of ?_, reads_of ?_, reads_of ?_, ?_, reads_of ?_, reads_of ?_, does_of ?_, ready_of ?_, ?_, ?_⟩ <;>
    decide +kernel
def spJob : CopyJob := { job (tref 0) 0x10000 512 with sparse := true, index := 0x10040 }
theorem w_FencesAndCopiesIssued_sparse :
    isTileRef (tref 0) = true ∧ copyAddrOk 0x10000 = true ∧ (512 : Word).toNat % 512 = 0 ∧ Reads (copyTile (tref 0) 512) copyState () ∧
    Reads (copyTile 0x10000 256) copyState () ∧ Does (sendCopy spJob) copyState (after (sendCopy spJob) copyState) ∧
    (uniq (copyState.curRole.copies.map (·.id))).length < 32 := by
  refine ⟨?_, ?_, ?_, reads_of ?_, reads_of ?_, does_of ?_, ?_⟩ <;> decide +kernel

/-- A W cluster, which issues the units' syllables: X1 a block, X2 a tile offset. -/
def unitState : State :=
  { one .w (fun r => { r with xs := [(1, 0x10000), (2, 0x40)], qs := [(9, [{ at_ := 0, val := 5, pend := none }])], lid := 7 }) with cycle := 10 }
def poolA : Access := { Access.blank (.pool 1) 0x10000 with v := 0x40, ord := .rel, scope := .device }
def cueA : Access := { Access.blank (.cue 0) 0x10000 with v := 0x40, data := List.replicate 64 0, ord := .rel, scope := .device, size := .b64 }
def winA : Access := { Access.blank (.win 3) 0x10000 with v := 0x40, listOff := 0x40, dests := [.p 6], scope := .device }
theorem w_UnitRequests :
    Ready 8 false unitState ∧ Reads (guardS hd) unitState true ∧ Reads (rdS (.x 1)) unitState 0x10000 ∧ Reads (rdS (.x 2)) unitState 0x40 ∧
    GoodAddr 0x10000 256 ∧ Sends poolA unitState (after (sent poolA) unitState) ∧
    Does pop12 (after (sent poolA) unitState) (after pop12 (after (sent poolA) unitState)) ∧
    Reads (tileOrdered true .relaxed) unitState () ∧ Reads (tileGet 0x40 64) unitState (List.replicate 64 0) ∧
    Sends cueA unitState (after (sent cueA) unitState) ∧ Reads (qHead 9) unitState 5 ∧ Reads (tileChk 0x40 64) unitState 0x40 ∧
    Sends winA unitState (after (sent winA) unitState) := by
  refine ⟨ready_of ?_, reads_of ?_, reads_of ?_, reads_of ?_, ⟨?_, ?_⟩, does_of ?_, does_of ?_, reads_of ?_, reads_of ?_, does_of ?_, reads_of ?_,
    reads_of ?_, does_of ?_⟩ <;> decide +kernel
/-- LWAIT of a launch that has its word, and of one that has none. -/
theorem w_UnitRequests_lwait :
    lwaitWord ((withLaunch { launch0 with id := 3, word := some 0x300000001 } unitState).partOr 0) 3 = some 0x300000001 ∧
    lwaitWord ((withLaunch { launch0 with id := 3 } unitState).partOr 0) 3 = none := by decide +kernel
theorem w_CsrAccess :
    Ready 8 false s53 ∧ Reads (guardS hd) s53 true ∧ Reads (rdS (.x 1)) s53 5 ∧ s53.curRole.snap = none ∧
    Does (popMarks [(none, false)]) (s53.setRole 0 { s53.curRole with flagen := 5 })
      (after (popMarks [(none, false)]) (s53.setRole 0 { s53.curRole with flagen := 5 })) ∧ Does (wr3 0) s53 (after (wr3 0) s53) := by
  refine ⟨ready_of ?_, reads_of ?_, reads_of ?_, ?_, does_of ?_, does_of ?_⟩ <;> decide +kernel
/-- Flags raised in the cycle of a write, and none. -/
theorem w_CsrAccess_flags :
    s53.curRole.recent.1 ≠ { s53 with cycle := 7 }.cycle ∧
    (let s := { one .l (fun r => { r with recent := (7, [(3, 0, fNX)]), flagen := fDZ }) with cycle := 7 };
      s.curRole.recent = (s.cycle, [(3, 0, fNX)]) ∧ fNX &&& s.curRole.flagen = 0) := by decide +kernel
/-- A level used, with no arrival, an unfinished one and a finished one; a level beyond the table. -/
def lev (a w : Nat) (done : Nat) : State :=
  { one .l (fun r => { r with levels := [(1, 0x0001000000000000)], barA := [(1, a)], barW := [(1, w)] }) with
    bars := [{ part := 0, lid := 0, level := 1, inst := 2 ^ 16, done := done }] }
theorem w_BarriersMessagesSpawns_bar :
    Ready 8 false (lev 1 0 1) ∧ (lev 1 0 1).curRole.snap = none ∧ levelUsed (mget 0 (lev 1 0 1).curRole.levels 1) = true ∧ instOf (lev 1 0 1).curRole 0 1 = 2 ^ 16 ∧
    (lev 1 0 1).barDone 0 0 1 (2 ^ 16) = 1 ∧ (lev 1 0 0).barDone 0 0 1 (2 ^ 16) = 0 ∧ (lev 1 0 1).curRole.acc = [] ∧
    levelUsed (mget 0 (lev 1 0 1).curRole.levels 2) = false := by
  refine ⟨ready_of ?_, ?_⟩ <;> decide +kernel
def fullMsg : MsgJob := { slot := 0, lid := 0, target := 0, peer := none, after := [], arr := { asid := 0, handler := 0, payload := [], sender := 0, x4 := 0 } }
def sendState : State := withLaunch launch0 (one .w (fun r => { r with xs := [(1, 0), (2, 0x40)] }))
theorem w_BarriersMessagesSpawns :
    Ready 8 false sendState ∧ Reads (rdS (.k 0)) sendState 0 ∧ Reads (targetOf 0xFFFF0000) sendState (0, none) ∧
    Reads (rdS (.x 2)) sendState 0x40 ∧ Reads (tileChk 0x40 8) sendState 0x40 ∧ Reads (tileOrdered true .relaxed) sendState () ∧
    Reads (tileGet 0x40 8) sendState (List.replicate 8 0) ∧ Reads (sendAfter false) sendState [] ∧ (sendState.core 0).msgs.length < 16 ∧
    (sendState.partOr 0).spawns.length < 256 ∧
    16 ≤ ((sendState.setCore 0 { CoreSt.reset with msgs := List.replicate 16 fullMsg }).core 0).msgs.length := by
  refine ⟨ready_of ?_, reads_of ?_, reads_of ?_, reads_of ?_, reads_of ?_, reads_of ?_, reads_of ?_, reads_of ?_, ?_, ?_, ?_⟩ <;> decide +kernel

/-! ### Vector instructions: worked results of 07_isa_vector, then states for the statements about rows -/

/-- A V cluster with V3 and V4 as given. -/
def vx (a b : Row) : State := one .v (fun r => { r with vs := [(3, a), (4, b)], xs := [(1, 5), (2, 3)] })
def outV (o : Host.Outcome State Fault Refusal) (n : Nat) : Row := (nextOf o).curRole.v n
def fp (l : List Nat) : Row := mkRow .fp32 l
def o34 (ty : ETy) : V2 := { d := .v 5, a := v 3, b := v 4, ty := ty, rm := .rne }
def o3 (ty : ETy) : V1 := { d := .v 5, a := v 3, ty := ty, rm := .rne }

/-- R163: lanes 2^24, 1, 1 and 0 sum to 2^24, with NX. -/
theorem test_vredsum :
    outX (exec (.vredsum hd { d := .x 9, a := v 3, ty := .fp32, rm := .rne }) (vx (fp [0x4B800000, 0x3F800000, 0x3F800000]) 0)) 9 = 0x4B800000 ∧
    outFlags (exec (.vredsum hd { d := .x 9, a := v 3, ty := .fp32, rm := .rne }) (vx (fp [0x4B800000, 0x3F800000, 0x3F800000]) 0)) = 0x10 := by
  decide +kernel
/-- R158: lane 0 holds 1 + 2^-8; lane 128 of the BF16 row becomes 0x3F80, with NX. -/
theorem test_vcvt_packs :
    laneOf .bf16 (outV (exec (.vcvt hd { d := .v 5, a := v 3, part := { k := 1, mark := false, reuse := false }, src := .fp32, dst := .bf16, rm := .rne })
      (vx (fp [0x3F808000]) 0)) 5) 128 = 0x3F80 := by decide +kernel
/-- R171: the worked SX4 block, its nearest FP32 values, quantised, decoded and scaled by 2^-3. -/
def sxIn : Row := fp [0x40b00000, 0xc0400000, 0x40fccccd, 0x40000000, 0x0, 0x0, 0x80000000, 0x3f800000, 0x3e800000, 0x3e000000, 0xbf000000, 0x3e99999a, 0x3dcccccd, 0x3d4ccccd, 0x0, 0x0, 0x3fc00000, 0xbfa00000]
def sxOut : State := nextOf (exec (.vquant hd { d := .v 9, a := v 3, m := 4, lc := false, ty := .fp32, rm := .rne }) (vx sxIn 0))
def sxBytes : Nat := leNat [0x66, 0x22, 0x01, 0x00, 0x08, 0x22, 0x50, 0x11, 0x00, 0x00, 0xA6, 0x02]
def sxPlane4 (e : Nat) : Row :=
  BitVec.ofNat 4096 (sxBytes + (e + 0xEC00 + 0xFF00 * 2 ^ 16 + 0xFF00 * 2 ^ 32 + 0xFF00 * 2 ^ 48) * 2 ^ 640)
theorem test_vquant : sxOut.curRole.v 9 = sxPlane4 0x82 ∧ sxOut.curRole.flags = 0x18 := by decide +kernel
theorem test_vdeq :
    outV (exec (.vdeq hd { d := .v 10, a := v 3, m := 4, lc := false, ty := .fp32, rm := .rne }) (vx (sxPlane4 0x82) 0)) 10 =
      fp [0x40c00000, 0xc0400000, 0x41000000, 0x40000000, 0x0, 0x0, 0x0, 0x3f800000, 0x3e800000, 0x3e000000, 0xbf000000, 0x3e800000, 0x3e000000, 0x0, 0x0, 0x0, 0x3fc00000, 0xbfa00000] := by decide +kernel
theorem test_vscale :
    outV (exec (.vscale hd { d := .v 11, a := v 3, b := k (-3), m := 4, lc := false, ty := .fp32 }) (vx (sxPlane4 0x82) 0)) 11 =
      sxPlane4 0x7F := by decide +kernel
/-- R165: a counter equal to the key delivers 0. R155: bits 511:128 of the predicate are 0. -/
theorem test_vrng_vcmp :
    laneOf .i32 (outV (exec (.vrng hd { d := .v 5, a := x 1, b := x 2 }) (vx 0 0)) 5) 2 = 0 ∧
    outP (exec (.vcmp hd .gt { p := 5, a := v 3, b := { src := .sc (.sp .zero), mark := false, reuse := false }, ty := .fp32 })
      (vx (fp [0x3F800000, 0x80000000, 0x7FC00000, 0x00000001]) 0)) 5 = 0x9 := by decide +kernel

/-- The lanes a row instruction computes, taken to its destination, step by step. -/
def rowT1 (d : RDst) (rs : List (Nat × Fl)) (g : Pred) (s : State) : State := after (raiseLanes (rowIdOf d) (laneFlags g rs)) s
theorem row_of {hdr : Hdr} {ty : ETy} {srcs : List (RSrc × Bool)} {d : RDst} {rs : List (Nat × Fl)} {s : State} (g : Pred) (old : Row)
    (h1 : reads (guardP hdr) s g = true) (h2 : reads (oldRow d) s old = true) (h3 : fine (raiseLanes (rowIdOf d) (laneFlags g rs)) s = true)
    (h4 : fine (popRows srcs) (rowT1 d rs g s) = true)
    (h5 : fine (wrR d (mergeLanes ty g old (rs.map Prod.fst))) (after (popRows srcs) (rowT1 d rs g s)) = true) :
    ∃ t, RowDone hdr ty srcs d rs s t :=
  ⟨_, g, old, _, _, reads_of h1, reads_of h2, does_of h3, does_of h4, does_of h5⟩

def ones : Pred := BitVec.allOnes 512
def i8row : Row := mkRow .i8 [0x80, 5, 7]
def two (ty : ETy) (a b : Row) (f : Nat → Nat × Fl) : Prop :=
  ∃ t, RowDone hd ty [(.v 3, false), (.v 4, false)] (.v 5) ((List.range ty.lanes).map f) (vx a b) t
def one3 (ty : ETy) (a : Row) (f : Nat → Nat × Fl) : Prop :=
  ∃ t, RowDone hd ty [(.v 3, false)] (.v 5) ((List.range ty.lanes).map f) (vx a 0) t

theorem w_RowsMergeAndRound : (List.replicate 128 1).length = ETy.lanes .fp32 ∧ 3 < ETy.lanes .fp32 ∧ ETy.isFloat .f8b = true ∧ 0xFF < 2 ^ ETy.bits .f8b := by
  decide +kernel
theorem w_FlagsRaised :
    s53.curRole.snap = none ∧ fDZ &&& (one .l (fun r => { r with flagen := 2 })).curRole.flagen ≠ 0 ∧
    ffValid (one .l (fun r => { r with flagen := 2 })).curRole.ffrec = false ∧
    ffValid (BitVec.ofNat 64 (2 ^ 33 + 5 * 2 ^ 16 + 3 * 2 ^ 24)) = true ∧
    (BitVec.ofNat 64 (2 ^ 33 + 5 * 2 ^ 16 + 3 * 2 ^ 24)).toNat / 2 ^ 16 % 2 ^ 8 * 512 +
      (BitVec.ofNat 64 (2 ^ 33 + 5 * 2 ^ 16 + 3 * 2 ^ 24)).toNat / 2 ^ 24 % 2 ^ 9 = 5 * 512 + 3 := by decide +kernel
theorem w_VectorIntegerResults :
    Ready 8 false (vx i8row i8row) ∧ ETy.isFloat .i8 = false ∧ Reads (rdR (.v 3)) (vx i8row i8row) (.row i8row) ∧
    Reads (rdR (.v 4)) (vx i8row i8row) (.row i8row) ∧
    two .i8 i8row i8row (fun i =>
      let r : Int × Fl := (laneInt .i8 (.row i8row) i + laneInt .i8 (.row i8row) i, 0)
      (uintOf 8 r.1, r.2)) ∧
    one3 .i8 i8row (fun i => (uintOf 8 (-(laneInt .i8 (.row i8row) i)), 0)) := by
  refine ⟨ready_of ?_, ?_, reads_of ?_, reads_of ?_, row_of ones 0 ?_ ?_ ?_ ?_ ?_, row_of ones 0 ?_ ?_ ?_ ?_ ?_⟩ <;> decide +kernel
def f32a : Row := fp [0x3F800000, 0x40000000, 0]
def f32v : RowVal := .row f32a
theorem w_VectorFloatResults :
    Ready 8 false (vx f32a f32a) ∧ ETy.isFloat .fp32 = true ∧ Reads (rdR (.v 3)) (vx f32a f32a) f32v ∧ Reads (rdR (.v 4)) (vx f32a f32a) f32v ∧
    two .fp32 f32a f32a (fun i =>
      let e := divNum (f32v.numAt .fp32 i) (f32v.numAt .fp32 i)
      let r := roundF .fp32 .rne e.1
      (r.1, e.2 ||| r.2)) ∧
    one3 .fp32 f32a (fun i => ((f32v.copyAt .fp32 i + 2 ^ 31) % 2 ^ 32, 0)) ∧
    one3 .bf16 f32a (fun i => sfu 2 .bf16 .rne (f32v.copyAt .bf16 i) (f32v.numAt .bf16 i)) := by
  refine ⟨ready_of ?_, ?_, reads_of ?_, reads_of ?_, row_of ones 0 ?_ ?_ ?_ ?_ ?_, row_of ones 0 ?_ ?_ ?_ ?_ ?_, row_of ones 0 ?_ ?_ ?_ ?_ ?_⟩ <;>
    decide +kernel
theorem w_VectorFloatResults_fused :
    ∃ t, RowDone hd .bf16 [(.v 3, false), (.v 4, false), (.v 3, false)] (.v 5) ((List.range 256).map (fun i =>
      let p := mulNum (f32v.numAt .bf16 i) (f32v.numAt .bf16 i)
      let e := addNum .rne p.1.neg (f32v.numAt .bf16 i)
      let r := roundF .bf16 .rne e.1
      (r.1, p.2 ||| e.2 ||| r.2))) (vx f32a f32a) t := by
  refine row_of ones 0 ?_ ?_ ?_ ?_ ?_ <;> decide +kernel
theorem w_SpecialFunctionInputs : (ETy.fp16 = .fp32 ∨ ETy.fp16 = .bf16 ∨ ETy.fp16 = .fp16) ∧ 0 < 1 := by decide
theorem w_VectorLogicPredicatesDraws :
    two .i8 i8row i8row (fun i => ((RowVal.row i8row).bitsAt .i8 i &&& (RowVal.row i8row).bitsAt .i8 i, 0)) ∧
    Reads (rdP 6) (vx i8row 0) 0 ∧ Reads (rdS (.k 2)) (vx i8row 0) 2 ∧
    two .i8 i8row i8row (fun i => (if (0 : Pred).getLsbD i then i8row.toNat else (RowVal.row i8row).copyAt .i8 i, 0)) ∧
    (∃ t, RowDone hd .i8 [(.v 3, false), (.sc (.k 2), false)] (.v 5)
      ((List.range 512).map (fun i => ((RowVal.row i8row).copyAt .i8 ((i + 2 % 512) % 512), 0))) (vx i8row 0) t) ∧
    (∃ t, RowDone hd .i32 [(.sc (.x 1), false), (.sc (.x 2), false)] (.v 5)
      ((List.range 128).map (fun i => (rng 5 (3 + BitVec.ofNat 64 i), 0))) (vx i8row 0) t) := by
  refine ⟨row_of ones 0 ?_ ?_ ?_ ?_ ?_, reads_of ?_, reads_of ?_, row_of ones 0 ?_ ?_ ?_ ?_ ?_, row_of ones 0 ?_ ?_ ?_ ?_ ?_,
    row_of ones 0 ?_ ?_ ?_ ?_ ?_⟩ <;> decide +kernel
/-- A compare for equality of a row with itself in the lanes of INT32, and a draw below the threshold 0. -/
theorem w_VectorLogicPredicatesDraws_pred :
    Reads (guardP hd) (vx f32a 0) ones ∧ Reads (rdR (.v 3)) (vx f32a 0) (.row f32a) ∧ Reads (rdP 5) (vx f32a 0) 0 ∧
    (∀ i < ETy.lanes .i32, (BitVec.ofNat 512 (2 ^ 128 - 1)).getLsbD i =
      if ones.getLsbD i then condInt .eq (laneInt .i32 (.row f32a) i) (laneInt .i32 (.row f32a) i) ((RowVal.row f32a).bitsAt .i32 i)
        ((RowVal.row f32a).bitsAt .i32 i) else (0 : Pred).getLsbD i) ∧
    (∀ i < ETy.lanes .i32, (0 : Pred).getLsbD i = if ones.getLsbD i then decide (rng 5 (3 + BitVec.ofNat 64 i) < (0 : Word).toNat % 2 ^ 32)
      else (0 : Pred).getLsbD i) ∧
    Does (popRows [(.v 3, false), (.v 3, false)]) (vx f32a 0) (after (popRows [(.v 3, false), (.v 3, false)]) (vx f32a 0)) ∧
    Does (popMarks [msMk (x 1), msMk (x 2), msMk (k 0)]) (vx f32a 0) (after (popMarks [msMk (x 1), msMk (x 2), msMk (k 0)]) (vx f32a 0)) ∧
    Does (wrP 5 0) (vx f32a 0) (after (wrP 5 0) (vx f32a 0)) := by
  refine ⟨reads_of ?_, reads_of ?_, reads_of ?_, ?_, ?_, does_of ?_, does_of ?_, does_of ?_⟩ <;> decide +kernel
theorem w_VectorLaneMovesConversions :
    (∃ t, RowDone hd .bf16 [(.v 3, false)] (.v 5) ((List.range 256).map (fun i =>
      if 1 * 128 ≤ i ∧ i < 1 * 128 + 128 then roundNum .bf16 .rne (f32v.numAt .fp32 (i - 1 * 128)) else (laneOf .bf16 0 i, 0))) (vx f32a 0) t) ∧
    Reads (oldRow (.v 5)) (vx f32a 0) 0 ∧ Reads (rdV 5) (vx f32a 0) 0 ∧ ones.getLsbD (3 % 128) = true ∧
    (∀ i < ETy.lanes .fp32, laneOf .fp32 (fp [0, 0, 0, 5]) i = if i = (3 : Word).toNat % 128 then (5 : Word).toNat % 2 ^ 32 else laneOf .fp32 0 i) ∧
    Does (popRows [(.v 3, false), (.sc (.x 2), false)]) (vx f32a 0) (after (popRows [(.v 3, false), (.sc (.x 2), false)]) (vx f32a 0)) ∧
    Does (wr3 0) (vx f32a 0) (after (wr3 0) (vx f32a 0)) ∧ Does (wrV 5 (fp [0, 0, 0, 5])) (vx f32a 0) (after (wrV 5 (fp [0, 0, 0, 5])) (vx f32a 0)) := by
  refine ⟨row_of ones 0 ?_ ?_ ?_ ?_ ?_, reads_of ?_, reads_of ?_, ?_, ?_, does_of ?_, does_of ?_, does_of ?_⟩ <;> decide +kernel
def sumF : Dyad → Dyad → Node := sumNode .fp32 .rne
def redT : Node := tree sumF (Nat.log2 128) ((List.range 128).map (fun i => if ones.getLsbD i then f32v.numAt .fp32 i else .fin true 0 0))
theorem w_VectorReductions :
    Does (raiseI 255 0 redT.2) (vx f32a 0) (after (raiseI 255 0 redT.2) (vx f32a 0)) ∧
    (∃ t, RowDone hd .fp32 [(.v 3, false)] (.v 5) ((scan sumF (Nat.log2 128) 1 ((List.range 128).map (fun i =>
      (if ones.getLsbD i then f32v.numAt .fp32 i else .fin true 0 0, 0)))).map (fun n => (codeOf .fp32 n.1, n.2))) (vx f32a 0) t) ∧
    [Dyad.nan, .nan].length = 2 ^ 1 ∧ 1 ≤ 1 ∧ [(Dyad.nan, (0 : Fl)), (.nan, 0)][1 - 1]? = some (.nan, 0) := by
  refine ⟨does_of ?_, row_of ones 0 ?_ ?_ ?_ ?_ ?_, ?_, ?_, ?_⟩ <;> decide +kernel
theorem w_SxRowResults :
    Reads (oldRow (.v 9)) (vx sxIn 0) 0 ∧
    Does (raiseLanes 9 [(0, 0x18)]) (vx sxIn 0) (after (raiseLanes 9 [(0, 0x18)]) (vx sxIn 0)) ∧
    Does (wrR (.v 9) (sxPlane4 0x82)) (vx sxIn 0) (after (wrR (.v 9) (sxPlane4 0x82)) (vx sxIn 0)) ∧
    (∃ t, RowDone hd .fp32 [(.v 3, false)] (.v 5) ((List.range 128).map (fun i => roundF .fp32 .rne
      (sxElem 4 (sxRowScale 128 4 (i / 32) (sxPlane4 0x82)) (sxRowBits 4 (i / 32) (sxPlane4 0x82)) (i % 32)))) (vx (sxPlane4 0x82) 0) t) ∧
    0xEC82 < 2 ^ 16 ∧ 0xEC82 % 256 ≠ 255 ∧ 0xECFF % 256 = 255 := by
  refine ⟨reads_of ?_, does_of ?_, does_of ?_, row_of ones 0 ?_ ?_ ?_ ?_ ?_, ?_, ?_, ?_⟩ <;> decide +kernel
theorem w_VectorFrame :
    vectorWrites (.vadd hd (o34 .fp32)) = some { d := some (.v 5) } ∧
    exec (.vadd hd (o34 .fp32)) (vx f32a f32a) = .next (nextOf (exec (.vadd hd (o34 .fp32)) (vx f32a f32a))) ∧ (vx f32a f32a).clu.lrec = none :=
  ⟨rfl, goes_of (by decide +kernel), by decide +kernel⟩

/-! ### Nest records -/

def runsB {α : Type} (m : Iss α) (s : State) : Bool := match m s with | .ok _ => true | .error _ => false
theorem runs_of {α : Type} {m : Iss α} {s : State} (h : runsB m s = true) : ∃ a t, m s = .ok (a, t) := by
  unfold runsB at h
  split at h
  · next x e => exact ⟨x.1, x.2, e⟩
  · cases h
def readsAny {α : Type} (m : Iss α) (s : State) : Bool := match m s with | .ok (_, t) => decide (t = s) | .error _ => false
theorem readsAny_of {α : Type} {m : Iss α} {s : State} (h : readsAny m s = true) : ∃ a, Reads m s a := by
  unfold readsAny at h
  split at h
  · next e => rw [of_decide_eq_true h] at e; exact ⟨_, e⟩
  · cases h
/-- Rings 3 and 4 each hold one published slot: a panel and a tile of INT8. -/
def ringA : Ring := { w0 := 0x0000070100000000, w1 := 0x800, head := 0, pub := 1, tail := 1, hi := 0, pi := 0, ti := 0, slots := [.published] }
def ringB : Ring := { ringA with w0 := 0x0000070100004000, w1 := 0x4000 }
def nestS (f : Role → Role) : State := one .m (fun r => f { r with rings := [(3, ringA), (4, ringB)], vs := [(0, fp [1]), (1, fp [0, 2])] })
def quad1 : Quad := ⟨1, 1, 1, 1⟩
def quad0 : Quad := ⟨0, 0, 0, 0⟩
/-- Profile 5 on INT8, into the rows from 0, the first write from no value; and the same with too many steps. -/
def mmaF : MmaF where
  prof := 5
  aring := 3
  bring := 4
  acc := 0
  za := true
  as := false
  bs := false
  bt := false
  trip := quad1
  sa := quad0
  sb := quad0
  sc := quad0
  ss := quad0
  scen := false
  scs := 0
  acq := false
  rel := false
  scp := .role
  afmt := .el .i8
  bfmt := .el .i8
def mmaLong : MmaF := { mmaF with trip := ⟨0x401, 0x400, 1, 1⟩ }
/-- A drain of two rows as FP32 to offset 512, one to ring 3, a load from offset 512, and a load whose rows pass the end. -/
def drF : DrainF where
  acc := 0
  rows := 2
  hsel := 0
  hk := 0
  fmt := .el .fp32
  rnd := .rne
  kind := 0
  val := 1
  acq := false
  rel := false
  scp := .role
def ldF (a : BitVec 8) : LoadAF where
  acc := a
  rows := 2
  fmt := .el .bf16
  kind := 0
  val := 1
  acq := false
  scp := .role
def fl (i : Instr) : Flight := (nestS id).flightOf i
theorem w_NestIssued :
    Ready 64 false (nestS id) ∧ (nestS id).curRole.snap = none ∧ (nestS id).curRole.nest = none ∧ (fl (.mma false mmaF)).isMma = true ∧
    Does (mmaNestChk (fl (.mma false mmaF))) (nestS id) (nestS id) ∧ Does (mmaTileChk (fl (.mma false mmaF))) (nestS id) (nestS id) ∧
    (fl (.mdrain false drF)).isMma = false ∧ Does (rowChk (fl (.mdrain false drF))) (nestS id) (nestS id) ∧
    Does (rowChk (fl (.mloada false (ldF 126)))) (nestS id) (nestS id) ∧ (fl (.mloada false (ldF 127))).placeBad = false ∧
    128 < (fl (.mloada false (ldF 127))).acc + (fl (.mloada false (ldF 127))).rowsN ∧ (fl (.mma false mmaLong)).isMma = true ∧
    2 ^ 20 < (fl (.mma false mmaLong)).steps ∧ (126 : BitVec 8).toNat + rowCount 2 ≤ 128 ∧ (0 : BitVec 8).toNat + rowCount 0 ≤ 128 := by
  refine ⟨ready_of ?_, ?_, ?_, ?_, reads_of (a := ()) ?_, reads_of (a := ()) ?_, ?_, reads_of (a := ()) ?_, reads_of (a := ()) ?_, ?_, ?_, ?_, ?_, ?_, ?_⟩ <;>
    decide +kernel
theorem w_NestIssued_waits :
    Ready 64 false (nestS (fun r => { r with nest := some (fl (.mzero false 0 2)) })) ∧
    (nestS (fun r => { r with nest := some (fl (.mzero false 0 2)) })).curRole.nest ≠ none := by
  refine ⟨ready_of ?_, ?_⟩ <;> decide +kernel
/-- Slot 0 of core 0 with a record in flight. -/
def sl0 : Slot := { core := 0, slot := 0 }
def flying (f : Flight) : State := nestS (fun r => { r with nest := some f })
theorem w_NestStepsCommit :
    ((flying (fl (.mtrans false 0 2))).role sl0.key).nest = some (fl (.mtrans false 0 2)) ∧ nestGoes ((flying (fl (.mtrans false 0 2))).role sl0.key) = true ∧
    (fl (.mtrans false 0 2)).step < (fl (.mtrans false 0 2)).steps ∧ ((flying (fl (.mtrans false 0 2))).role sl0.key).owed = [] ∧ (fl (.mtrans false 0 2)).op = 7 ∧ (fl (.mzero false 0 2)).op = 5 ∧
    (fl (.mhad false ⟨0, 2, 0, 0⟩)).op = 3 ∧
    (match nestTry (flying (fl (.mtrans false 0 2))) 0 (fl (.mtrans false 0 2)) with | .ok _ => true | .error _ => false) = true := by decide +kernel
/-- An MMA whose panel is not there yet, and one whose panel is poisoned. -/
def flyingRing (f : Flight) (g : Ring) : State := one .m (fun r => { r with rings := [(3, g), (4, ringB)], nest := some f })
def tried (s : State) (f : Flight) (e : Stop) : Bool := match nestTry s 0 f with | .ok _ => false | .error x => decide (x = e)
theorem tried_of {s : State} {f : Flight} {e : Stop} (h : tried s f e = true) : nestTry s 0 f = .error e := by
  unfold tried at h
  split at h
  · cases h
  · next x e1 => rw [e1, of_decide_eq_true h]
theorem w_NestStepsCommit_stops :
    nestTry (flyingRing (fl (.mma false mmaF)) { ringA with head := 1, slots := [.free] }) 0 (fl (.mma false mmaF)) = .error .wait ∧
    ∃ i0 i1, nestTry (flyingRing (fl (.mma false mmaF)) { ringA with slots := [.poisoned] }) 0 (fl (.mma false mmaF)) = .error (.trap 0x14 i0 i1) := by
  refine ⟨tried_of ?_, 0, exactI1, tried_of ?_⟩ <;> decide +kernel
theorem w_NestSteps :
    (fl (.mma false mmaF)).op = 1 ∧ (fl (.mma false mmaF)).scen = false ∧ 0 ≤ (fl (.mma false mmaF)).arow 0 ∧
    Reads (unitBytes false 3 0 0x800) (nestS id) (List.replicate 0x800 0) ∧ (∃ bb, Reads (unitBytes false 4 0 0x4000) (nestS id) bb) ∧
    (∃ f s2, nestStep (fl (.mma false mmaF)) (nestS id) = .ok (f, s2)) ∧ 3 < 16 ∧
    (fl (.mdrain false drF)).op = 4 ∧ (fl (.mdrain false drF)).dkind = 0 ∧ (fl (.mloada false (ldF 0))).op = 6 ∧ (fl (.mloada false (ldF 0))).dkind = 0 ∧
    Reads (tileGet (512 * (fl (.mloada false (ldF 0))).dval) (fl (.mloada false (ldF 0))).imageBytes) (nestS id) (List.replicate 512 0) ∧
    (2 : Int) ^ 31 - 1 < 2 ^ 15 * 2 ^ 16 := by
  refine ⟨?_, ?_, ?_, reads_of ?_, readsAny_of ?_, runs_of ?_, ?_, ?_, ?_, ?_, ?_, reads_of ?_, ?_⟩ <;> decide +kernel
/-- A step of MMAS whose bitmap is empty. -/
def spF : Flight := fl (.mmas false mmaF 0x100 0x200)
theorem w_NestSteps_sparse :
    spF.op = 2 ∧ spF.scen = false ∧ 0 ≤ spF.arow 0 ∧ Reads (tileGet (spF.bmoff + (spF.idx 2 0).toNat) 1) (nestS id) [0] ∧
    Reads (tileGet (spF.spidx + 256 * (spF.idx 2 0).toNat) 256) (nestS id) (List.replicate 256 0) ∧
    (∃ ab, Reads (unitBytesOf (usesHalf spF.afmt 0) false 3 0 spF.abytes) (nestS id) ab) ∧
    (∃ bb, Reads (unitBytesOf (usesTile spF.bfmt spF.bt 0) false 4 0 0x4000) (nestS id) bb) ∧ (∃ f s2, nestStep spF (nestS id) = .ok (f, s2)) := by
  refine ⟨?_, ?_, ?_, reads_of ?_, reads_of ?_, readsAny_of ?_, readsAny_of ?_, runs_of ?_⟩ <;> decide +kernel
/-- Groups of profile 1: all zeros, one with 1 as its largest product, infinities, a NaN, an invalid product. -/
def grp (p : Pair) : List Pair := p :: List.replicate 15 none
def oneD : Dyad := .fin false 1 0
theorem w_NestSteps_profiles :
    (grp none).length = 16 ∧ (∀ p ∈ (grp none).map prodOf, p = (.fin false 0 0, 0)) ∧ Nat.log2 1 = 0 ∧ prodOf (some (oneD, oneD)) = (oneD, 0) ∧
    prodOf (some (.inf false, oneD)) = (.inf false, 0) ∧ prodOf (some (.inf true, oneD)) = (.inf true, 0) ∧
    prodOf (some (.nan, oneD)) = (.nan, 0) ∧ (prodOf (some (.inf true, .fin false 0 0))).2 ≠ 0 := by decide +kernel
theorem w_NestSteps_drain :
    let f := fl (.mdrain false drF)
    let out := (List.range f.rowsN).map (fun i => drainRow f.dfmt f.drnd (f.acc + i) f.hsel f.hk ((nestS id).curRole.v (f.acc + i)))
    Does (tilePut (512 * f.dval) (out.flatMap Prod.fst)) (nestS id) (after (tilePut (512 * f.dval) (out.flatMap Prod.fst)) (nestS id)) :=
  does_of (by decide +kernel)
theorem w_NestRetiresAndStatus :
    ((flying { fl (.mzero false 0 2) with step := 1 }).role sl0.key).nest = some { fl (.mzero false 0 2) with step := 1 } ∧
    nestGoes ((flying { fl (.mzero false 0 2) with step := 1 }).role sl0.key) = true ∧ (fl (.mzero false 0 2)).steps ≤ 1 ∧
    (fl (.mzero false 0 2)).op ≠ 4 ∧ ((nestS id).role 0).drainSlot = none ∧ ((nestS id).role 0).owed = [] ∧
    (let r := ((flyingRing (fl (.mzero false 0 2)) { ringA with tail := 2 }).modRoleAt 0 (fun r => { r with drainSlot := some (3, 1) })).role 0;
      r.drainSlot = some (3, ringA.pub) ∧ mfind r.rings 3 = some { ringA with tail := 2 } ∧ { ringA with tail := 2 }.acqd ≠ 0 ∧ r.owed = []) ∧
    ((nestS (fun r => { r with owed := [{ strm := true, num := 3, units := 1 }] })).role 0).owed ≠ [] ∧
    Ready 8 false (nestS id) ∧ Reads (guardS hd) (nestS id) true ∧ (flying (fl (.mzero false 0 2))).curRole.nest ≠ none ∧
    Does (wr3 0) (nestS id) (after (wr3 0) (nestS id)) := by
  refine ⟨?_, ?_, ?_, ?_, ?_, ?_, ?_, ?_, ready_of ?_, reads_of ?_, ?_, does_of ?_⟩ <;> decide +kernel
/-- A drain whose sink stream sends over a link, with room in the channel and without. -/
def drLink : Flight := { fl (.mdrain false { drF with kind := 1, val := 2 }) with step := 1 }
def linkStrm : Strm := { words := [6, 0, 0, 0, 0, 0, 0, 0], h0 := 0, c := 1, sp := 1 }
def drainSt (n : Nat) : State :=
  (nestS (fun r => { r with strms := [(2, linkStrm)], nest := some drLink })).setChan (sinkChan 0 0)
    (List.replicate n { part := 0, lid := 0, at_ := 1, arrived := true, val := 0 })
theorem w_NestRetiresAndStatus_link :
    drLink.op = 4 ∧ drLink.dkind = 1 ∧ drLink.dval = 2 ∧ mfind ((drainSt 9).role 0).strms 2 = some linkStrm ∧ linkStrm.bind = 2 ∧ linkStrm.link = 0 ∧
    drLink.steps ≤ drLink.step ∧ nestGoes ((drainSt 9).role 0) = true ∧ 8 < ((drainSt 9).chan (sinkChan 0 linkStrm.link)).length ∧
    ¬ 8 < ((drainSt 3).chan (sinkChan 0 linkStrm.link)).length := by decide +kernel
/-- R97: MZERO writes zeros to its rows and no other. -/
theorem test_mzero :
    (nextOf (exec (.nestStepCommit sl0) (flying (fl (.mzero false 1 1))))).curRole.v 1 = 0 ∧
    (nextOf (exec (.nestStepCommit sl0) (flying (fl (.mzero false 1 1))))).curRole.v 0 = fp [1] := by decide +kernel
/-- R201: MTRANS swaps lane 1 of row 0 and lane 0 of row 1. -/
theorem test_mtrans :
    let t := nextOf (exec (.nestStepCommit sl0) (nestS (fun r => { r with vs := [(0, fp [1, 7]), (1, fp [9, 2])], nest := some (fl (.mtrans false 0 2)) })))
    t.curRole.v 0 = fp [1, 9] ∧ t.curRole.v 1 = fp [7, 2] := by decide +kernel

/-! ### Requests, copies and generations where they are served -/

def Xlat.nil : Xlat := { st := State.reset, pa := 0, attr := 0 }
def xl (s : State) (va : Word) (w : Want) : Xlat := match translate s 0 1 va w with | .ok x => x | .error _ => Xlat.nil
def xlB (s : State) (va : Word) (w : Want) (pa attr : Nat) : Bool :=
  match translate s 0 1 va w with | .ok x => decide (x.pa = pa) && decide (x.attr = attr) | .error _ => false
theorem xl_of {s : State} {va : Word} {w : Want} {pa attr : Nat} (h : xlB s va w pa attr = true) :
    translate s 0 1 va w = .ok (xl s va w) ∧ (xl s va w).pa = pa ∧ (xl s va w).attr = attr := by
  unfold xlB at h
  unfold xl
  split at h
  · next e => rw [e]; simpa using h
  · cases h
/-- R374: the worked translation, from the level-0 entry 0x0000_00AA_C001_000F. R231: bit 0 clear. -/
theorem test_translation :
    (match useLeaf State.reset 0 { State.reset.partOr 0 |>.record with hbm := [683] } 0 0 0x1000004A40 .rd { epa := 0, word := 0x000000AAC001000F, lo := 16 } with
      | .ok x => x.pa | .error _ => 0) = 0xAAC0014A40 ∧ homeSlice 0xAAC0014A40 = 34 ∧
    isErr (translate (plain [] .l id) 0 1 0x20000 .rd) 0x10 = true ∧ isErr (translate (paged 0x20317 0x20000 [] .l id) 0 1 0x10000 .wr) 0x11 = true := by
  decide +kernel
/-- A role with one request. -/
def withAcc (leaf frame : Nat) (bs : List Byte) (as : List Access) : State := paged leaf frame bs .l (fun r => { r with acc := as })
def memAcc (a : Access) : State := withAcc plainLeaf 0x20000 [1, 2, 3, 4, 5, 6, 7, 8] [a]
/-- It may be performed, nothing holds it, its injection takes nothing, and its tag is the current generation. -/
def holdsIt (s : State) (a : Access) : Bool :=
  decide ((s.role sl0.key).acc? a.id = some a) && performable s (s.role sl0.key) a && !meetsStuck s (s.role sl0.key) a.cl a.id a.ranges &&
  decide (inject s sl0.key a = some s) && decide (tagNow s 1 a.gen = (s.asid 1).gen)
def aSt : Access := { Access.blank .st 0x10000 with data := [9, 8, 7, 6, 5, 4, 3, 2] }
def aAtom (op : Nat) : Access := { Access.blank (.atom op) 0x10000 with v := 5, c := 0x0807060504030201, dests := [.x 7] }
def aAtomf : Access := { Access.blank .atomf 0x10000 with size := .b4, v := 0x3F800000, dests := [.x 7] }
def aGather : Access := { Access.blank .gather 0x10000 with size := .b4, idx := List.replicate 128 0, dests := [.q 8] }
def aScatter : Access := { Access.blank .scatter 0x10000 with size := .b4, idx := List.replicate 128 0, data := List.replicate 512 1 }
def aStv : Access := { wideSt with kind := .stv, data := List.replicate 512 1, done := 7 }
theorem w_RequestsServed :
    holdsIt (memAcc ldX) ldX = true ∧ holdsIt (memAcc aSt) aSt = true ∧ holdsIt (memAcc (aAtom 0)) (aAtom 0) = true ∧
    holdsIt (memAcc aAtomf) aAtomf = true ∧ xlB (memAcc ldX) 0x10000 .rd 0x20000 0 = true ∧ xlB (memAcc aSt) 0x10000 .wr 0x20000 0 = true ∧
    xlB (memAcc (aAtom 9)) 0x10000 .rw 0x20000 0 = true ∧ paRegion 0x20000 ≤ 1 ∧ ldX.size.bytes ≤ 64 ∧ ldX.data = [] ∧ ldX.dests = [.x 7] ∧
    memPoisoned (xl (memAcc ldX) 0x10000 .rd).st 0x20000 8 = false ∧ leNat ((xl (memAcc (aAtom 9)) 0x10000 .rw).st.memRead 0x20000 8) = (aAtom 9).c.toNat % 2 ^ 64 ∧
    liveBlock (xl (memAcc aSt) 0x10000 .wr).st 0x20000 = false ∧
    memPoisoned { memAcc ldX with poison := [0x800] } 0x20000 8 = true ∧ isErr (translate (withAcc 0 0x20000 [] [ldX]) 0 1 (ldX.partAddr 0) .rd) 0x10 = true := by
  decide +kernel
theorem w_RequestsServed_wide :
    holdsIt (memAcc aGather) aGather = true ∧ aGather.done + 1 < aGather.parts ∧ xlB (memAcc aGather) (aGather.partAddr 0) .rd 0x20000 0 = true ∧
    holdsIt (memAcc aScatter) aScatter = true ∧ holdsIt (memAcc aStv) aStv = true ∧ aStv.parts ≤ aStv.done + 1 ∧
    xlB (memAcc aStv) (aStv.partAddr 7) .wr 0x201C0 0 = true ∧ memPoisoned (xl (memAcc aGather) 0x10000 .rd).st 0x20000 aGather.partLen = false := by
  decide +kernel
/-- A page of a multicast set; a request behind a faulted one. -/
def mcLeaf : Nat := 5 * 2 ^ 52 + 0x37F
def badSt : Access := { aSt with stat := .faulted 0x10 0x10000 0 0 }
theorem w_RequestsServed_stops :
    xlB (withAcc mcLeaf 0x20000 [] [ldX]) 0x10000 .rd (5 * 2 ^ 52) 3 = true ∧
    (let s := withAcc plainLeaf 0x20000 [] [badSt, { ldX with id := 1 }];
      (s.role sl0.key).acc? 1 = some { ldX with id := 1 } ∧ performable s (s.role sl0.key) { ldX with id := 1 } = true ∧
        (let a : Access := { ldX with id := 1 }; meetsStuck s (s.role sl0.key) a.cl a.id a.ranges = true)) ∧
    ((memAcc { ldX with stat := .replied [(.x 7, 5)] }).role sl0.key).acc? 0 = some { ldX with stat := .replied [(.x 7, 5)] } ∧
    (let r := (withAcc plainLeaf 0x20000 [] [ldX, { ldX with id := 1, dests := [.q 8], stat := .replied [(.q 8, 5)] }]).role sl0.key;
      ∃ b ∈ earlier r 1, b.cl = .l ∧ b.stat.unperformed = true ∧ b.isLoad = true) := by decide +kernel
/-- A budget of one HBM token, spent or not; the request at the same line that stands before another. -/
def spentPart (n : Nat) : State :=
  let s := memAcc ldX
  s.setPart 0 { s.partOr 0 with record := { (s.partOr 0).record with budgets := [{ kind := 0, period := 4, size := 1 }] }, spent := [(0, (0, n))] }
def lineMate : Access := { ldX with id := 1, at_ := 1, addr := 0x10008 }
theorem w_RequestsServed_injection :
    ldX.draws (spentPart 1) ((spentPart 1).role 0) = [1, 0] ∧ inject (spentPart 1) 0 ldX = none ∧
    spentOf (spentPart 1) ((spentPart 1).partOr 0) { kind := 0, period := 4, size := 1 } = 1 ∧
    (inject (spentPart 0) 0 ldX).isSome = true ∧ performable (spentPart 1) ((spentPart 1).role 0) ldX = true ∧
    meetsStuck (spentPart 1) ((spentPart 1).role 0) ldX.cl ldX.id ldX.ranges = false ∧
    (let s := withAcc plainLeaf 0x20000 [] [ldX, lineMate];
      (ldX.queued s 0) ∈ queueOf s 0 ∧ (ldX.queued s 0).before (lineMate.queued s 0) = true ∧ nextPa s (s.role 0) lineMate = some 0x20008 ∧ nextPa s (s.role 0) ldX = some 0x20000 ∧
      inject s 0 lineMate = none) := by decide +kernel
/-- A page table outside the partition's windows; a HOST port none of whose tags is the partition's; another home slice and line. -/
def hostLeaf : Nat := 4 * 2 ^ 52 + 0x31F
def noTags : State :=
  let s := withAcc hostLeaf 0x20000 [] [ldX]
  s.setPart 0 { s.partOr 0 with record := { (s.partOr 0).record with ports := [(0, 0)] } }
theorem w_RequestsServed_barred :
    (let s := (memAcc ldX).setPart 0 { (memAcc ldX).partOr 0 with record := { ((memAcc ldX).partOr 0).record with hbm := [] } };
      isErr (translate s 0 1 0x10000 .rd) 0x60 = true ∧ meetsStuck s (s.role 0) ldX.cl ldX.id ldX.ranges = false ∧ inject s 0 ldX = some s) ∧
    partPort noTags (noTags.role 0) ldX 0 = some 0 ∧ (noTags.partOr (noTags.role 0).part.toNat).record.ports.find? (fun x => x.1 = 0) = some (0, 0) ∧
    1024 * 0 ≤ tagsHeld noTags 0 0 := by decide +kernel
/-- R237: ATOM.ADD answers the old value and adds. R233: a load of 8 bytes, little endian. -/
theorem test_served :
    outX (exec (.accessServed sl0 (.acc 0)) (memAcc ldX)) 7 = 0x0807060504030201 ∧
    outX (exec (.accessServed sl0 (.acc 0)) (memAcc (aAtom 0))) 7 = 0x0807060504030201 ∧
    (nextOf (exec (.accessServed sl0 (.acc 0)) (memAcc (aAtom 0)))).memRead 0x20000 8 = [6, 2, 3, 4, 5, 6, 7, 8] ∧
    (nextOf (exec (.accessServed sl0 (.acc 0)) (memAcc aAtomf))).memRead 0x20000 4 = [0, 0, 0x80, 0x3F] := by decide +kernel

/-- Copies from memory to the tile window, back, and to a multicast page of two destinations. -/
def cpIn : CopyJob := job (tref 0) 0x10000 64
def cpOut : CopyJob := { job 0x10000 (tref 0) 64 with buf := some (List.replicate 64 3) }
def copySt (leaf : Nat) (c : CopyJob) : State := paged leaf 0x20000 [1, 2, 3, 4] .l (fun r => { r with copies := [c] })
def mcState : State := { copySt mcLeaf cpOut with msets := [(0, { count := 2, bases := [0x20000, 0x20000] })] }
theorem w_CopiesAndGenerations :
    (copySt plainLeaf cpIn).curRole.copies[0]? = some cpIn ∧ copyReady (copySt plainLeaf cpIn) (copySt plainLeaf cpIn).curRole cpIn = true ∧ cpIn.sparse = false ∧ cpIn.buf = none ∧
    isTileRef cpIn.src = false ∧ xlB (copySt plainLeaf cpIn) (cpIn.src + 0) .rd 0x20000 0 = true ∧ cpIn.span 0 = (0, 64) ∧
    memPoisoned (xl (copySt plainLeaf cpIn) 0x10000 .rd).st 0x20000 64 = false ∧
    copyReady (copySt plainLeaf cpOut) (copySt plainLeaf cpOut).curRole cpOut = true ∧ cpOut.mdest = 0 ∧ xlB (copySt plainLeaf cpOut) (cpOut.dst + 0) .wr 0x20000 0 = true ∧
    isErr (translate (copySt 0 cpOut) 0 1 (cpOut.dst + 0) .wr) 0x10 = true ∧ isTileRef (tref 0) = true ∧
    tileRange (copySt plainLeaf cpIn).curRole (copySt plainLeaf cpIn |>.arrBase 0) (tileOff (tref 0) + 0) 64 = some 0 ∧
    tilePoisoned (copySt plainLeaf cpIn) (tkey 0 0) 64 = false := by decide +kernel
/-- Neither is split, and neither draws on a budget. -/
theorem w_CopiesAndGenerations_goes :
    splits (copySt plainLeaf cpIn) (copySt plainLeaf cpIn).curRole cpIn = false ∧
    copyInject (copySt plainLeaf cpIn) 0 cpIn = some (copySt plainLeaf cpIn) ∧
    splits (copySt plainLeaf cpOut) (copySt plainLeaf cpOut).curRole cpOut = false ∧
    copyInject (copySt plainLeaf cpOut) 0 cpOut = some (copySt plainLeaf cpOut) := by decide +kernel
/-- Nothing holds them, no part of them goes first, and the granule of a tile is read as it stands. -/
theorem w_CopiesAndGenerations_ready :
    (∀ c ∈ [cpIn, cpOut], copyStuck (copySt plainLeaf c) (copySt plainLeaf c).curRole c = false ∧ partBehind (copySt plainLeaf c) 0 c = false) ∧
    (let s := copySt plainLeaf (job (tref 64) (tref 0) 64);
      tileRange s.curRole (s.arrBase 0) (64 * 0) 64 = some 0 ∧ (s.tileRead 0 0 64).length = 64 ∧ mfind (job (tref 64) (tref 0) 64).kept 0 = none ∧
      mfind { job (tref 64) (tref 0) 64 with kept := [(0, List.replicate 64 1)] }.kept 0 = some (List.replicate 64 1) ∧
      tileRange s.curRole (s.arrBase 0) (tileOff (tref 0) + 0) 64 = some 0 ∧ copyInject s 0 (job (tref 64) (tref 0) 64) = some s) ∧
    liveBlock (xl (copySt plainLeaf cpOut) 0x10000 .wr).st 0x20000 = false ∧
    (let s := (copySt plainLeaf cpIn).setPart 0 { (copySt plainLeaf cpIn).partOr 0 with
        record := { ((copySt plainLeaf cpIn).partOr 0).record with hbm := [] } };
      isErr (translate s 0 1 cpIn.src .rd) 0x60 = true ∧ isErr (translate s 0 1 cpOut.dst .wr) 0x60 = true ∧ copyInject s 0 cpIn = some s) := by
  decide +kernel
/-- Behind a fault of its cluster; the second part behind the first; a budget that is used up. -/
def badSrc : Access := { aSt with stat := .faulted 0x10 0x10000 0 0 }
theorem w_CopiesAndGenerations_waits :
    (let s := paged plainLeaf 0x20000 [] .l (fun r => { r with acc := [badSrc], copies := [{ cpIn with id := 1 }] });
      copyReady s s.curRole { cpIn with id := 1 } = true ∧ copyStuck s s.curRole { cpIn with id := 1 } = true) ∧
    (let c : CopyJob := { job 0x10000 (tref 0) 64 with multi := true };
      let s := paged mcLeaf 0x20000 [] .l (fun r => { r with copies := [c, { c with mdest := 1 }] });
      copyReady s s.curRole { c with mdest := 1 } = true ∧ partBehind s 0 { c with mdest := 1 } = true) ∧
    (let s := spentPart 1; let b : Budget := { kind := 0, period := 4, size := 1 };
      (0x20000, 64) ∈ cpIn.places s (s.role 0) ∧ b ∈ (s.partOr 0).record.budgets ∧ paRegion 0x20000 = 0 ∧ b.size ≤ spentOf s (s.partOr 0) b) ∧
    (∃ q, 2 + q = 2 + 0 ∧ 2 ≤ paRegion (4 * 2 ^ 52) ∧ paRegion (4 * 2 ^ 52) ≤ 4 ∧ portOf noTags (noTags.role 0) (4 * 2 ^ 52) = some q) := by
  refine ⟨?_, ?_, ?_, 0, ?_⟩ <;> decide +kernel
theorem w_CopiesAndGenerations_multicast :
    copyReady mcState mcState.curRole cpOut = true ∧ splits mcState mcState.curRole cpOut = false ∧
    copyInject mcState 0 cpOut = some mcState ∧ xlB mcState (cpOut.dst + 0) .wr (5 * 2 ^ 52) 3 = true ∧
    (mcState.mset (mcState.asid 1).part.toNat (5 * 2 ^ 52)).dests[0]? = some 0x20000 ∧ paRegion (paNorm (0x20000 + 0)) ≤ 1 ∧
    inWindows mcState (partOf mcState mcState.curRole) 0x20000 = true ∧ liveBlock mcState 0x20000 = false ∧ mappedAs mcState 2 0x20000 = false ∧
    9 ≤ paRegion (paNorm (10 * 2 ^ 52)) := by decide +kernel
/-- A copy to a multicast page that has read nothing is split. -/
def mcFirst : CopyJob := job 0x10000 (tref 0) 64
def mcNew : State := { copySt mcLeaf mcFirst with msets := mcState.msets }
theorem w_CopiesAndGenerations_split :
    copyReady mcNew mcNew.curRole mcFirst = true ∧ mcFirst.multi = false ∧ mcFirst.buf = none ∧
    mcFirst.pageStarts = [0] ∧ mcastAt mcNew mcNew.curRole mcFirst 0 = some [0x20000, 0x20000] ∧
    copyStuck mcNew mcNew.curRole mcFirst = false ∧
    (let s := spentPart 1; copyInject s 0 cpIn = none ∧ splits s (s.role 0) cpIn = false) := by decide +kernel
/-- A sparse copy within the tile window. -/
def spIn : CopyJob := { job (tref 0x400) (tref 0) 512 with sparse := true, index := tref 0x200 }
theorem w_CopiesAndGenerations_sparse :
    copyReady (copySt plainLeaf spIn) (copySt plainLeaf spIn).curRole spIn = true ∧ spIn.buf = none ∧ isTileRef spIn.src = true ∧
    isTileRef spIn.index = true ∧ (spIn.span 0).1 % 64 = 0 ∧ (spIn.span 0).2 = 64 ∧
    tileRange (copySt plainLeaf spIn).curRole ((copySt plainLeaf spIn).arrBase 0) (tileOff spIn.src + 0) 32 = some 0 ∧
    tileRange (copySt plainLeaf spIn).curRole ((copySt plainLeaf spIn).arrBase 0) (tileOff spIn.index + 0) (8 / spIn.width) = some 0x200 ∧
    tilePoisoned (copySt plainLeaf spIn) (tkey 0 0) 32 = false ∧ tilePoisoned (copySt plainLeaf spIn) (tkey 0 0x200) 8 = false ∧
    splits (copySt plainLeaf spIn) (copySt plainLeaf spIn).curRole spIn = false ∧
    copyInject (copySt plainLeaf spIn) 0 spIn = some (copySt plainLeaf spIn) := by decide +kernel
theorem w_CopiesAndGenerations_complete :
    (let m := (copySt plainLeaf { cpIn with done := 1 }).curRole.copies.filter (fun c => c.id = 0);
      m ≠ [] ∧ ∀ c ∈ m, c.granules ≤ c.done ∧ c.fault = none) ∧
    (∃ c ∈ (copySt plainLeaf cpIn).curRole.copies.filter (fun c => c.id = 0), c.done < c.granules ∨ c.fault ≠ none) ∧
    instArrivals (lev 1 0 0) 0 0 1 (2 ^ 16) = [some 1] ∧ (lev 1 0 0).barDone 0 0 1 (2 ^ 16) < 1 ∧ 1 ≤ (lev 1 0 1).barDone 0 0 1 (2 ^ 16) := by
  decide +kernel

/-! ### Pools and cue cells -/

/-- A live block of two slots of 256 bytes at 0x3_0000, one writer, one pin; slot states, claims and LATEST as given. -/
def poolBytes (latest pins : Nat) (claim : Nat) (slots : List Nat) : List Byte :=
  natLe 8 0x30000 ++ natLe 4 0x100 ++ [2, 1, 1, 0] ++ [BitVec.ofNat 8 latest, 1, 0, 0, 0, BitVec.ofNat 8 pins, 0, 0] ++ natLe 8 4 ++ List.replicate 32 0 ++
    natLe 8 claim ++ (List.replicate 7 (natLe 8 0xFF)).flatten ++ slots.flatMap (natLe 2)
def poolPa : Nat := 2 ^ 52
def poolSt (bs : List Byte) (hs : List Hold) (a : Access) : State := paged poolLeaf poolPa bs .w (fun r => { r with acc := [a], holds := hs })
def aClaim : Access := { Access.blank (.pool 0) 0x10000 with cl := .w, dests := [.x 7] }
def aPub : Access := { Access.blank (.pool 1) 0x10000 with cl := .w, v := 0x30000 }
def aGrab : Access := { Access.blank (.pool 3) 0x10000 with cl := .w, dests := [.p 6, .x 7, .x 8, .x 9] }
def aRel : Access := { Access.blank (.pool 4) 0x10000 with cl := .w, v := 0x30000 }
def poolOn (s : State) : Bool :=
  let p := (xl s 0x10000 .rd).st
  xlB s 0x10000 .rd poolPa 1 && decide (paRegion poolPa = 1) && !memPoisoned p poolPa 256 && pLive p poolPa && decide (pPART p poolPa = s.curRole.part.toNat) &&
    inPoolScope p poolPa 0 s.curRole && decide (pNSLOT p poolPa ≤ 64) && decide (pWR p poolPa ≤ 8)
def claimed : Hold := { pool := 0x10000, slot := 0, pin := false }
def fresh : List Byte := poolBytes 0xFF 0 0xFF [0, 0]
theorem w_PoolsAndCuesServe_claim :
    let s := poolSt fresh [] aClaim
    let p := (xl s 0x10000 .rd).st
    holdsIt s aClaim = true ∧ poolOn s = true ∧ claimsAny p 0 (s.role 0) 0x10000 poolPa = false ∧ s.curRole.holds.length < 16 ∧ 0 < pNSLOT p poolPa ∧
    slotState (pSLOT p poolPa 0) = 0 ∧ 0 < pWR p poolPa ∧ bits (pCLAIM p poolPa 0) 7 0 = 0xFF ∧
    (let t := (xl (poolSt (poolBytes 0xFF 0 0xFF [1, 1]) [] aClaim) 0x10000 .rd).st;
      ∀ j < pNSLOT t poolPa, slotState (pSLOT t poolPa j) ≠ 0) ∧
    (let u := poolSt (poolBytes 0xFF 0 0 [1, 0]) [claimed] aClaim;
      claimsAny (xl u 0x10000 .rd).st 0 (u.role 0) 0x10000 poolPa = true) := by decide +kernel
theorem w_PoolsAndCuesServe_publish :
    let s := poolSt (poolBytes 1 0 0 [1, 2]) [claimed] aPub
    let p := (xl s 0x10000 .rd).st
    holdsIt s aPub = true ∧ poolOn s = true ∧ slotOfB p poolPa 0x30000 = some 0 ∧ claimBy p 0 (s.role 0) 0x10000 poolPa 0 = some 0 ∧ pLATEST p poolPa = 1 ∧
    claimBy (xl (poolSt fresh [] aPub) 0x10000 .rd).st 0 ((poolSt fresh [] aPub).role 0) 0x10000 poolPa 0 = none := by decide +kernel
def pinned : Hold := { pool := 0x10000, slot := 0, pin := true }
theorem w_PoolsAndCuesServe_grab :
    let s := poolSt (poolBytes 0 0 0xFF [2, 0]) [] aGrab
    let p := (xl s 0x10000 .rd).st
    holdsIt s aGrab = true ∧ poolOn s = true ∧ pLATEST p poolPa < 64 ∧ pPINS p poolPa ≠ pPN p poolPa ∧ slotPins (pSLOT p poolPa 0) < 63 ∧
    (let q := (xl (poolSt (poolBytes 0 1 0xFF [6, 0]) [] aGrab) 0x10000 .rd).st;
      pPINS q poolPa = pPN q poolPa) ∧
    (let u := poolSt (poolBytes 1 1 0xFF [7, 2]) [pinned] aRel;
      holdsIt u aRel = true ∧ poolOn u = true ∧ slotOfB (xl u 0x10000 .rd).st poolPa 0x30000 = some 0 ∧ pinned ∈ u.curRole.holds) := by decide +kernel
theorem w_PoolsAndCuesServe_retire :
    let s := poolSt fresh [] aClaim
    let t := { s with svcs := [(0, { Svc.reset with })] }
    awake s .sched = true ∧ paNorm poolPa = poolPa ∧ poolPa % 256 = 0 ∧ inWindows t (t.partOr 0).record poolPa = true ∧
    awake t (.svc 0) = true ∧ masterPart t (.svc 0) = some 0 := by decide +kernel
/-- A cell with its tag; a load of it, alone, beside a cycle of waits, or with the table full. -/
def aCue : Access := { ldX with cueerr := 3 }
def cueSt (t : BitVec 2) (a : Access) : State := { withAcc cueLeaf 0x20000 [] [a] with tags := [(0x800, t)] }
theorem w_PoolsAndCuesServe_cells :
    (∀ t : BitVec 2, holdsIt (cueSt t ldX) ldX = true ∧ xlB (cueSt t ldX) 0x10000 .rd 0x20000 2 = true ∧
      (xl (cueSt t ldX) 0x10000 .rd).st.tag 0x20000 = t) ∧
    (cueSt 1 ldX).wused (homeSlice 0x20000) < 1024 ∧ loopLen (cueSt 2 ldX) 0 0x20000 = none ∧
    loopLen { cueSt 2 ldX with roles := [(0, { fetchRole .l with eid := 5, acc := [ldX] })], mem := writeBytes (cueSt 2 ldX).mem 0x20038 (natLe 8 5) } 0 0x20000 = some 1 ∧
    (∀ e ∈ ((cueSt 1 ldX).prompter 0).touches, e.cell ≠ 0x20000) ∧ ((cueSt 1 ldX).prompter 0).lq.length < 64 ∧
    aCue.cueerr ≠ 0 := by decide +kernel

/-! ### Arrivals, messages, links, spawns -/

def arr0 : Arrival := { asid := 1, handler := 0x10000, payload := [1, 2, 3], sender := 0, x4 := 9 }
def dorm (r : Role) : Role := { r with st := .dormant, hwStart := 0x10000, hwLen := 0x1000 }
def entWords : List Word := [0x10040, 0, 0, 0]
def withCore (c : CoreSt) (s : State) : State := s.setCore 0 c
def arrived (leaf : Nat) : State :=
  withCore { CoreSt.reset with areas := [0], arrq := [{ area := 0, arr := arr0, at_ := 0 }] } (paged leaf 0x20000 (entWords.flatMap wordLe) .l dorm)
theorem w_ArrivalsAndEngines_arrive :
    (0 ∉ (State.reset.core 0).areas ∧ ∀ i < 0, i ∈ (State.reset.core 0).areas) ∧
    (let c := (withCore { CoreSt.reset with areas := [0] } State.reset).core 0; 1 ∉ c.areas ∧ ∀ i < 1, i ∈ c.areas) ∧
    (∀ n < 16, n ∈ ((withCore { CoreSt.reset with areas := List.range 16 } State.reset).core 0).areas) ∧
    ((arrived plainLeaf).core 0).arrq = [{ area := 0, arr := arr0, at_ := 0 }] ∧ 0 < { arrived plainLeaf with cycle := 1 }.cycle ∧
    (arrived plainLeaf).cycle ≤ 0 ∧ (arrived plainLeaf).emergency = false ∧
    ((arrived plainLeaf).role 0).qualifies 1 0x10000 = true ∧ bits arr0.sender 35 32 ≠ 2 ∧
    (match handlerBlock (arrived plainLeaf) 0 ((arrived plainLeaf).role 0) 0x10000 with | .ok x => decide (x.1 = entWords) | .error _ => false) = true ∧
    (match handlerBlock (arrived 0) 0 ((arrived 0).role 0) 0x10000 with | .ok _ => false | .error e => decide (e.1 = 0x10)) = true := by decide +kernel
def toCore0 : MsgJob := { slot := 0, lid := 0, target := 0, peer := none, after := [], arr := arr0 }
def svcSt0 : State := plain [] .l id
def vec (at_ : Nat) (a : Bool) : ChanVec := { part := 0, lid := 0, at_ := at_, arrived := a, val := 0 }
def linkSt (now : Nat) : State := { State.reset.setChan (chanKey 0 1) [vec 1 true, vec 2 false, vec 3 false] with cycle := now }
def spawn0 : SpawnReq := { core := 0, peer := none, lid := 0, asid := 1, handler := 0x10000, arg := 5, sender := 6, key := 0, after := [] }
/-- A record that TWIN, flags and TDECL complete: version 1, one role, its L cluster at 0x1_0000, DONE at 0x1_0100. -/
def recBytes (flags tdecl : Nat) : List Byte :=
  natLe 2 1 ++ natLe 2 flags ++ [1, 0] ++ natLe 2 tdecl ++ natLe 4 0x10000 ++ natLe 4 0 ++ natLe 8 0x10000 ++ List.replicate 24 0 ++
    natLe 8 0x10000 ++ natLe 8 0x1000 ++ List.replicate 104 0 ++ natLe 8 0x10100 ++ List.replicate 80 0
def launchOf (st : LState) (flags tdecl : Nat) : Launch := { launch0 with rec_ := recBytes flags tdecl, st := st }
/-- A device without roles, and one launch. -/
def idle (s : State) : State := { s with roles := [] }
def launchSt (l : Launch) (s : State) : State :=
  { s with parts := [(0, { s.partOr 0 with launches := [l], accepted := 1, record := { (s.partOr 0).record with svcs := [0], hbm := [0], cores := [0], imageOk := true } })] }
def withSpawn (s : State) : State := s.setPart 0 { s.partOr 0 with spawns := [spawn0] }
def spawnSt : State := withSpawn (launchSt (launchOf .bound 0 0) (idle (plain (entWords.flatMap wordLe) .l id)))
def heldArr (a : Arrival) (s : State) : State := withCore { CoreSt.reset with areas := [0], arrq := [{ area := 0, arr := a, at_ := 0 }] } s
def dormSt : State := { heldArr arr0 (launchSt (launchOf .bound 0 0) (idle (plain [] .l id))) with cycle := 1 }
theorem w_ArrivalsAndEngines_engines :
    ((withCore { CoreSt.reset with msgs := [toCore0] } State.reset).core 0).msgs = [toCore0] ∧ (State.reset.accept 0 arr0).isSome = true ∧
    ((withCore { CoreSt.reset with areas := List.range 16, msgs := [toCore0] } State.reset).accept 0 arr0).isNone = true ∧
    (linkSt 6).chan (chanKey 0 1) = [vec 1 true] ++ vec 2 false :: [vec 3 false] ∧ (vec 2 false).at_ + 4 ≤ (linkSt 6).cycle ∧
    (linkSt 5).cycle < (vec 2 false).at_ + 4 ∧ (spawnSt.partOr 0).spawns = [spawn0] ∧ spawnSt.launch? 0 0 = some (launchOf .bound 0 0) ∧
    spawnSt.emergency = false ∧ planCore spawnSt 0 0 0 1 0x10000 = .place [(0, 0)] ∧ askOf dormSt 0 = .bind 0 (launchOf .bound 0 0) ∧
    askOf (heldArr { arr0 with handler := 0x30000 } dormSt) 0 = .drop 0 0 ∧ { dormSt with cycle := 0 }.cycle ≤ 0 ∧ spawnSt.up = true ∧ dormSt.up = true ∧ spawnSt.kindAt 0 = 0 ∧
    dormSt.kindAt 0 = 0 := by decide +kernel
/-- A message to rank 0 of the group, over the one PEER port of the partition; a channel of eight vectors. -/
def peerPort0 : Port := { Port.reset with peer := true, part := 0 }
def toPeer : MsgJob := { toCore0 with peer := some 0 }
def peerSt : State :=
  let s := withCore { CoreSt.reset with msgs := [toPeer] } { svcSt0 with ports := [(3, peerPort0)] }
  s.setPart 0 { s.partOr 0 with record := { (s.partOr 0).record with ports := [(3, 1)] } }
theorem w_ArrivalsAndEngines_port :
    portTo peerSt { Role.reset with part := (peerSt.asid 1).part, lid := 0 } 0 0 = some 3 ∧ (peerSt.port 3).up = true := by
  have h : (((peerSt.partOr (peerSt.asid 1).part.toNat).record.ports.map (·.1)).filter (fun q => (peerSt.port q).peer &&
    (groupMask peerSt (peerSt.asid 1).part.toNat (0 : BitVec 32).toNat 0).testBit q)) = [3] := by decide +kernel
  refine ⟨?_, by decide +kernel⟩
  unfold portTo
  simp only [h, List.length_singleton, Nat.mod_one]
  rfl
/-- A SPAWN for rank 0, over the same port, with tags and without. -/
theorem w_ArrivalsAndEngines_spawn :
    (leavesTo peerSt 0 0 0 0).isSome = true ∧ (leavesTo (peerSt.setPort 3 { peerPort0 with up := false }) 0 0 0 0).isSome = false := by
  have h : (((peerSt.partOr 0).record.ports.map (·.1)).filter (fun q => (peerSt.port q).peer && (groupMask peerSt 0 0 0).testBit q)) = [3] := by
    decide +kernel
  have h' : ((((peerSt.setPort 3 { peerPort0 with up := false }).partOr 0).record.ports.map (·.1)).filter (fun q =>
    ((peerSt.setPort 3 { peerPort0 with up := false }).port q).peer && (groupMask (peerSt.setPort 3 { peerPort0 with up := false }) 0 0 0).testBit q)) = [3] := by
    decide +kernel
  have p : ∀ s : State, ((s.partOr 0).record.ports.map (·.1)).filter (fun q => (s.port q).peer && (groupMask s 0 0 0).testBit q) = [3] →
      portTo s { Role.reset with part := BitVec.ofNat 8 0, lid := 0 } 0 0 = some 3 := by
    intro s e
    unfold portTo
    change (let ps := ((s.partOr 0).record.ports.map (·.1)).filter (fun q => (s.port q).peer && (groupMask s 0 0 0).testBit q);
      ps[Config.portHash 0 0 % ps.length]?) = some 3
    rw [e]
    simp [Nat.mod_one]
  refine ⟨?_, ?_⟩ <;> unfold leavesTo
  · rw [p _ h]; decide +kernel
  · rw [p _ h']; decide +kernel
theorem w_ArrivalsAndEngines_peer :
    noTag peerSt 0 3 = false ∧ noTag (peerSt.setPart 0 { peerSt.partOr 0 with record := { (peerSt.partOr 0).record with ports := [(3, 0)] } }) 0 3 = true ∧
    (peerSt.core 0).msgs = [toPeer] ∧ (∀ a ∈ (peerSt.role 0).acc, a.id ∈ toPeer.after → a.stat.unperformed = false) ∧
    (peerSt.asid 1).part.toNat = 0 ∧ (peerSt.port 3).peer = true ∧ 8 ≤ (List.replicate 8 (vec 1 true)).length ∧
    (∀ w ∈ List.replicate 8 (vec 1 true), w.arrived = true) := by decide +kernel

/-! ### Roles: binding, leaving, bundles, stops -/

def bind0 : BindRec := { lid := 0, part := 0, asid := 1, hwStart := 0, hwLen := 0, twBase := 0, twSize := 0x10000, save := 0, arg := 0, recAddr := 0, entL := 0x10000, entM := 0, entV := 0, entW := 0 }
theorem w_RolesBoundAndLeave :
    (State.reset.role sl0.key).st = .free ∧ (s53.role sl0.key).st ≠ .free ∧ State.reset.kindAt 0 = 0 ∧
    (∀ n : Nat, n ∈ [1, 2] → ({ State.reset with slotTab := [(0, (n, bind0))] } : State).kindAt 0 = n) ∧
    (let s := one .l (fun r => { r with cl := { Clu.zero with halted := true }, hwLen := 0x1000 });
      (s.role 0).allHalted = true ∧ drained s 0 = true ∧ (s.role 0).hwLen ≠ 0 ∧ (s.role 0).eid = 0) ∧
    (let s := one .l (fun r => { r with cl := { Clu.zero with halted := true }, acc := [ldX] }); (s.role 0).anyFault = none ∧ drained s 0 = false) ∧
    (s53.role 0).allHalted = false ∧ awake s53 .sched = true ∧ reachesSlot s53 .sched 0 = true ∧ (s53.role 0).busy = false := by decide +kernel
def swapped (n8 n9 : Bool) : Swapped where
  key := 0
  twBase := 0
  twSize := 0x10000
  save := 0x40000
  asid := 1
  arrival := none
  eid := 0
  participant := true
  barA := []
  barW := []
  holds := []
  notice8 := n8
  winfree := false
  notice9 := n9
  winready := false
  acc := []
  copies := []
  entries := []
  holes := []
  raised := []
  owed := []
  drainSlot := none
  later := []
def preSt (n8 n9 : Bool) : State := launchSt { launchOf .preempted 0 0 with swapped := [swapped n8 n9] } (idle (plain [] .l id))
theorem w_RolesBoundAndLeave_windows :
    let s := preSt true true
    s.svcPart 0 = some 0 ∧ (s.svc 0).frozen = false ∧ mfind s.parts 0 = some (s.partOr 0) ∧ (s.partOr 0).record.cores.contains 0 = true ∧
    (s.role 0).st = .free ∧ (s.role 0).busy = false ∧
    (s.role 0).qs = [] ∧
    (∃ l ∈ (s.partOr 0).launches, l.word = none ∧ ∃ w ∈ l.swapped, w.key = 0 ∧ w.notice8 = true ∧ w.winfree = false ∧ w.notice9 = true ∧ w.winready = false) ∧
    ∀ l ∈ (preSt true true |>.partOr 0).launches, ∀ w ∈ l.swapped, w.key ≠ 1 := by decide +kernel
def hs : Hdr := { hd with s := true }
def bundleSt : State :=
  plain (([Instr.movk hs 5 7, .movk hs 5 9].flatMap encode).flatMap wordLe) .l (fun r => { r with cw := Clu.at_ 0x10008 })
def headSt (s : State) (c : Cluster) : State := match head s 0 c with | .instr t _ => t | .trap t .. => t
def headB (s : State) (c : Cluster) (i : Instr) : Bool := match head s 0 c with | .instr _ j => decide (j = i) | _ => false
theorem head_of {s : State} {c : Cluster} {i : Instr} (h : headB s c i = true) : head s 0 c = .instr (headSt s c) i := by
  unfold headB at h
  unfold headSt
  split at h
  · next e => rw [e, of_decide_eq_true h]
  · cases h
theorem w_BundlesWatchdogStops :
    head bundleSt 0 .l = .instr (headSt bundleSt .l) (.movk hs 5 7) ∧
    head (headSt bundleSt .l) 0 .w = .instr (headSt (headSt bundleSt .l) .w) (.movk hs 5 9) ∧
    (let r := bundleSt.role sl0.key; r.st = .running ∧ r.acc = [] ∧ r.copies = [] ∧ r.cm.halted = true ∧ r.cv.halted = true ∧
      r.cl.halted = false ∧ r.cw.halted = false ∧ r.cl.loops = [] ∧ r.cw.loops = [] ∧ r.cl.lrec = none ∧ r.cw.lrec = none) ∧
    ((asking ldX).role 0).performed = false ∧
    (let s := { q1 [] 9000000 with cycle := 9000000 }; quiet s 0 = true ∧ (s.role 0).wdlimit ≠ 0 ∧ (s.role 0).lastAct + (s.role 0).wdlimit.toNat ≤ s.cycle) := by
  refine ⟨head_of ?_, head_of ?_, ?_, ?_, ?_⟩ <;> decide +kernel
theorem overtake_nil {r : Role} (h : r.acc = []) (d : Dest) : r.overtake d = r := by
  cases r
  subst h
  unfold Role.overtake
  split <;> rfl
theorem writesOne_movk (sn : Snap) (d : BitVec 5) (i : BitVec 40) (h : sn.acc = []) :
    WritesOne sn (resMovk hs d i) (fun r => r.setX d.toNat (i.signExtend 64)) := by
  refine ⟨⟨d.toNat, .inl ⟨_, rfl⟩⟩, fun t ht ha hn => ?_⟩
  have hg : guardS hs t = .ok (true, t) := by
    simp [guardS, guardP, rdP, hs, hd, chkDest, seenAcc, getSt, getRole, ht, h, StateT.bind, bind, pure, StateT.pure, Except.bind, Except.pure, allOnes]
  have ho : t.curRole.overtake (.x d.toNat) = t.curRole := overtake_nil ha _
  have hw : wrX d.toNat (i.signExtend 64) t = .ok ((), t.setRole t.curKey (t.curRole.setX d.toNat (i.signExtend 64))) := by
    simp [wrX, chkDest, seenAcc, getRole, modRole, ho, ht, h, StateT.bind, bind, pure, StateT.pure, Except.bind, Except.pure]
  simp [resMovk, guarded, bind, StateT.bind, Except.bind, hg, hw, popMarks, marked, uniq, popAll, pure, StateT.pure, Except.pure]
/-- A bundle of L and W, of two MOVKs. -/
theorem w_BundlesWatchdogStops_two :
    (∃ s1, gatherBundle 0 clusters bundleSt = some (s1, [(.l, 8, resMovk hs 5 7), (.w, 8, resMovk hs 5 9)])) ∧
    WritesOne (snapOf (bundleSt.role 0)) (resMovk hs 5 7) (fun r => r.setX 5 ((7 : BitVec 40).signExtend 64)) ∧
    WritesOne (snapOf (bundleSt.role 0)) (resMovk hs 5 9) (fun r => r.setX 5 ((9 : BitVec 40).signExtend 64)) ∧
    (bundleSt.role 0).nest = none ∧ ∀ c, ((bundleSt.role 0).clu c).loops = [] ∧ ((bundleSt.role 0).clu c).lrec = none := by
  have hl : head bundleSt 0 .l = .instr (headSt bundleSt .l) (.movk hs 5 7) := head_of (by decide +kernel)
  have hw : head (headSt bundleSt .l) 0 .w = .instr (headSt (headSt bundleSt .l) .w) (.movk hs 5 9) := head_of (by decide +kernel)
  have h1 : ((bundleSt.role 0).clu .l).halted = false := by decide +kernel
  have h2 : (((headSt bundleSt .l).role 0).clu .m).halted = true := by decide +kernel
  have h3 : (((headSt bundleSt .l).role 0).clu .v).halted = true := by decide +kernel
  have h4 : (((headSt bundleSt .l).role 0).clu .w).halted = false := by decide +kernel
  refine ⟨⟨headSt (headSt bundleSt .l) .w, ?_⟩, writesOne_movk _ 5 7 ?_, writesOne_movk _ 5 9 ?_, ?_, fun c => ?_⟩
  · simp [gatherBundle, clusters, h1, h2, h3, h4, hl, hw, issueOf, hs]
  · decide +kernel
  · decide +kernel
  · decide +kernel
  · cases c <;> exact ⟨by decide +kernel, by decide +kernel⟩
/-- A member that has arrived, and a fault of the role. -/
theorem w_BundlesWatchdogStops_fault :
    (let s := bundleSt.setRole 0 { bundleSt.role 0 with acc := [{ ldX with stat := .faulted 0x10 0x10000 0 0 }] };
      (s.role 0).st = .running ∧ (s.role 0).anyFault = some (.l, 0) ∧
      (match gatherBundle 0 clusters s with
        | some (s1, ms) => !ms.isEmpty && allReady 0 ms (s1.setRole 0 { s1.role 0 with snap := some (snapOf (s1.role 0)) })
        | none => false) = true) ∧
    (let s0 := plain ((encode (.add hs { d12 with a := { src := .q 1, mark := true, reuse := false } })).flatMap wordLe) .l
        (fun r => { r with acc := [{ ldX with stat := .faulted 0x10 0x10000 0 0 }] });
      (match gatherBundle 0 clusters s0 with
        | some (s1, ms) => !ms.isEmpty && !allReady 0 ms (s1.setRole 0 { s1.role 0 with snap := some (snapOf (s1.role 0)) })
        | none => false) = true) ∧
    bundleSt.sched = [] := by decide +kernel
theorem test_bundle :
    outX (exec (.bundleIssue sl0) bundleSt) 5 = 9 := by decide +kernel
def stopI : StopInfo := { kind := 1, code := 0x70, cl := .l, i0 := 5, i1 := 6, acc := none, written := false, posted := false, entries := [], at_ := 0, later := [] }
def stopSt (i : StopInfo) (f : Role → Role) : State :=
  { paged plainLeaf 0x20000 [] .l (fun r => f { r with st := .stopped, stop := some i, save := 0x40000 }) with schedq := [] }
def badLd : Access := { ldX with stat := .faulted 0x10 0x10000 0 0 }
theorem w_BundlesWatchdogStops_stops :
    (let s := stopSt stopI id; settled s 0 = true ∧ saveOk s 0 (s.role 0).save = true ∧ (s.role 0).copies = [] ∧ (s.role 0).holds.length ≤ 16 ∧ (s.role 0).nest = none ∧ (s.role 0).acc = []) ∧
    (let s := stopSt { stopI with code := 0x10, i0 := 0x10000, i1 := exactI1, acc := some 0 } (fun r => { r with acc := [badLd] });
      settled s 0 = true ∧ (s.role 0).acc = [badLd] ∧ badLd.kind = .ld ∧ badLd.wide = false ∧ ∀ d ∈ badLd.dests, d.code < 256) ∧
    (let s := stopSt { stopI with written := true } id; s.reporter 0 0 = some 0 ∧ (s.svc 0).waiting = [] ∧ (s.svc 0).queue.length < 256 ∧
      (s.svc 0).frozen = false ∧ (s.svc 0).queue = []) ∧
    256 ≤ (((stopSt { stopI with written := true } id).setSvc 0 { Svc.reset with queue := List.replicate 256 5 }).svc 0).queue.length := by decide +kernel

/-! ### Contexts and launches -/

theorem clean_of {s : State} {a n : Nat} (h : s.poison = []) : memPoisoned s a n = false := by simp [memPoisoned, h]
/-- A stopped role whose stop record, of zeros, has been written. -/
def recorded : State := stopSt { stopI with written := true } id
theorem w_ContextCommands :
    awake recorded .sched = true ∧ reachesSlot recorded .sched 0 = true ∧ (recorded.role 0).busy = false ∧ (recorded.role 0).st = .stopped ∧
    ((recorded.role 0).stop.map (·.written)) = some true ∧ (recorded.role 0).frozen = false ∧ saveOk recorded 0 0x40000 = true ∧
    memPoisoned recorded 0x58000 0x5800 = false ∧ (recordFrom recorded 0 { stopI with written := true }).isSome = true ∧
    (recorded.role 0).acc = [] ∧ (recorded.role 0).entryPend = 0 ∧ (∀ c : Cluster, recorded.memWord (0x58300 + 32 * c.num) = 0) ∧
    linksEmpty recorded 0 = true ∧ linksEmpty (recorded.setChan (srcChan 0 1) [vec 1 true]) 0 = false ∧ saveOk recorded 0 0x40008 = false ∧
    (s53.role 0).st ≠ .stopped := by
  refine ⟨?_, ?_, ?_, ?_, ?_, ?_, ?_, clean_of ?_, ?_, ?_, ?_, fun c => ?_, ?_, ?_, ?_, ?_⟩
  case refine_12 => cases c <;> decide +kernel
  all_goals decide +kernel
/-- The pre-emption of its launch lets it go, or not; a copy still runs. -/
theorem w_ContextCommands_leaves :
    mayLeave recorded .sched 0 = true ∧ mayLeave (launchSt (launchOf .bound 0 0) recorded) .sched 0 = false ∧
    mayLeave (launchSt (launchOf .stopping 0 0) recorded) .sched 0 = true ∧ copiesStill recorded 0 = true ∧
    copiesStill (recorded.setRole 0 { recorded.role 0 with copies := [job (tref 0) (tref 64) 64] }) 0 = false ∧
    (recorded.role 0).copies = [] ∧ (recorded.role 0).replays = [] ∧ (recW recorded 0x58000 0).toNat / 2 ^ 23 % 2 ^ 9 = 0 := by decide +kernel
/-- A SWITCHOUT in progress, with copies still to end and without; a condition of R437. -/
theorem w_ContextCommands_busy :
    (let s := recorded.setRole 0 { recorded.role 0 with busy := true };
      (s.role 0).busy = true ∧ (s.role 0).st = .stopped ∧ linksEmpty s 0 = true ∧ saveOk s 0 (s.role 0).save = true ∧ copiesStill s 0 = true) ∧
    copiesStill (recorded.setRole 0 { recorded.role 0 with busy := true, copies := [job (tref 0) (tref 64) 64] }) 0 = false ∧
    recorded.emergency = false ∧ { recorded with emergency := true }.emergency = true := by decide +kernel
def saved0 (s : State) : State := s.setRole 0 { s.role 0 with st := .free, blk := { (s.role 0).blk with save := 0x40000 } }
theorem w_ContextCommands_restore :
    ((saved0 recorded).role 0).st = .free ∧ saveOk (saved0 recorded) 0 0x40000 = true ∧ memPoisoned (saved0 recorded) 0x40000 0x1D800 = false ∧
    recorded.svcPart 0 = some 0 := by
  refine ⟨?_, ?_, clean_of ?_, ?_⟩ <;> decide +kernel
def outSt : State := recorded.setRole 0 { recorded.role 0 with blk := { save := 0x40000, twBase := 0, twSize := 0x10000, asid := 1, part := 0, lid := 0 } }
theorem w_SwitchoutRestoreKeepsRegisters :
    let r := outSt.role 0
    r.st = .stopped ∧ r.stop.map (·.written) = some true ∧ r.frozen = false ∧ r.busy = false ∧ copiesStill outSt 0 = true ∧
    mayLeave outSt .sched 0 = true ∧ linksEmpty outSt 0 = true ∧ saveOk outSt 0 r.save = true ∧
    memPoisoned outSt (saveBase r.save) 0x1D800 = false ∧
    r.blk = { save := r.save, twBase := r.twBase, twSize := r.twSize, asid := r.asid, part := r.part, lid := r.lid } := by
  refine ⟨?_, ?_, ?_, ?_, ?_, ?_, ?_, ?_, clean_of ?_, ?_⟩ <;> decide +kernel
def aLaunch : Access := { Access.blank (.lch 0) 0x10000 with cl := .w, v := 0x100, dests := [.x 7], scope := .device }
def lchSt (bs : List Byte) : State :=
  let s := paged plainLeaf 0x20000 bs .w (fun r => { r with acc := [aLaunch] })
  { s with parts := [(0, { s.partOr 0 with record := { (s.partOr 0).record with cores := [0] } })] }
theorem w_LaunchesRun_queue :
    holdsIt (lchSt (recBytes 0 0)) aLaunch = true ∧ xlB (lchSt (recBytes 0 0)) 0x10000 .rd 0x20000 0 = true ∧
    refusal ((lchSt []).partOr 0) ((xl (lchSt (recBytes 0 0)) 0x10000 .rd).st.memRead 0x20000 256) 0x100 = none ∧
    allocWord ((lchSt []).partOr 0).record 0x100 = some (0, 1) ∧ (refusal ((lchSt []).partOr 0) (List.replicate 256 0) 0x100) = some 1 ∧
    memPoisoned (xl (lchSt (recBytes 0 0)) 0x10000 .rd).st 0x20000 256 = false := by decide +kernel
def bindSt (flags tdecl : Nat) : State := launchSt (launchOf .queued flags tdecl) (idle (plain [] .l id))
theorem w_LaunchesRun_bind :
    ((bindSt 0 0).partOr 0).next? = some (launchOf .queued 0 0) ∧ mayBind (bindSt 0 0) 0 (launchOf .queued 0 0) = true ∧
    launchOf .queued 0 0 ∈ ((bindSt 0 0).partOr 0).launches ∧ recN (recBytes 0 0) 6 2 * 65536 ≤ recN (recBytes 0 0) 8 4 ∧
    recN (recBytes 0 2) 8 4 < recN (recBytes 0 2) 6 2 * 65536 ∧ recN (recBytes 0 0) 144 8 = 0 ∧ bindWaits (bindSt 0 0) 0 0 = false ∧
    planCore (bindSt 0 0) 0 0 0 1 0x10000 = .place [(0, 0)] ∧ recN (recBytes 2 0) 2 2 / 2 % 2 = 1 := by decide +kernel
/-- A bound launch with a running role, beside one of another partition that waits for the same core. -/
def twoSt (now : Nat) : State :=
  let s := launchSt (launchOf .bound 0 0) { plain [] .l (fun r => { r with part := 0, lid := 0 }) with cycle := now }
  { s with parts := [(0, { s.partOr 0 with launches := [launchOf .bound 0 0, { launchOf .queued 16 0 with id := 4, ordinal := 2 }] })] }
theorem w_LaunchesRun_quantum :
    (twoSt 2000000).launch? 0 0 = some (launchOf .bound 0 0) ∧ 0 + 1000 * 1250 ≤ (twoSt 2000000).cycle ∧ (twoSt 5).cycle < 0 + 1000 * 1250 ∧
    contended (twoSt 2000000) 0 (launchOf .bound 0 0) 2000000 = true ∧ launchActive (twoSt 2000000) 0 0 = true ∧
    (launchSt (launchOf .stopping 0 0) (twoSt 5)).launch? 0 0 = some (launchOf .stopping 0 0) ∧
    contended (launchSt (launchOf .bound 0 0) (twoSt 2000000)) 0 (launchOf .bound 0 0) 2000000 = false := by decide +kernel
def askStop (r : Role) : Role := { r with stopReq := some 10 }
def haltSt : State := plain ((encode (.halt hd)).flatMap wordLe) .l askStop
theorem w_LaunchesRun_stop :
    (haltSt.role 0).st = .running ∧ (haltSt.role 0).stopReq = some 10 ∧ retires haltSt 0 = false ∧ head haltSt 0 .l = .instr (headSt haltSt .l) (.halt hd) ∧
    (haltSt.clu).halted = false ∧ headB (plain ((encode (.yield hs)).flatMap wordLe) .l askStop) .l (.yield hs) = true ∧
    10 + 125000 ≤ { haltSt with cycle := 125010 }.cycle ∧ haltSt.cycle < 10 + 125000 ∧ haltSt.emergency = false ∧ (haltSt.role 0).nest = none ∧
    { haltSt with emergency := true }.emergency = true := by
  refine ⟨?_, ?_, ?_, head_of ?_, ?_, ?_, ?_, ?_, ?_, ?_, ?_⟩ <;> decide +kernel
/-- The report of a role that has yielded. -/
def yielded : State := { launchSt (launchOf .bound 0 0) (stopSt { stopI with kind := 3, code := 0, written := true, posted := true } id) with schedq := [0x03008000] }
theorem w_LaunchesRun_yield :
    bits (0x03008000 : Word) 7 0 = sl0.core.toNat ∧ bits (0x03008000 : Word) 9 8 = sl0.slot.toNat ∧ bits (0x03008000 : Word) 27 24 = 3 ∧
    (yielded.role 0).st = .stopped ∧ ((yielded.role 0).stop.map (·.kind)) = some 3 ∧ yielded.launch? 0 0 = some (launchOf .bound 0 0) ∧
    (launchOf .bound 0 0).st ≠ .stopping ∧ contendedOn { yielded with schedq := [] } 0 (launchOf .bound 0 0) (· = 0) 0 = false ∧
    contendedOn { yielded with parts := (twoSt 0).parts, schedq := [] } 0 (launchOf .bound 0 0) (· = 0) 0 = true := by decide +kernel
theorem w_LaunchesRun_rebind :
    let s := preSt false false
    let l := { launchOf .preempted 0 0 with swapped := [swapped false false] }
    s.launch? 0 0 = some l ∧ mayBind s 0 l = true ∧ placeFree s 0 l (swapped false false) = true ∧ saveOk s 0 0x40000 = true ∧
    memPoisoned s (saveBase 0x40000) 0x1D800 = false ∧ arrivalFirst s 0 l = false ∧
    (let t := launchSt { l with swapped := [{ swapped true false with winfree := true }] } s;
      mayBind t 0 { l with swapped := [{ swapped true false with winfree := true }] } = true ∧ (let m := { launchOf .preempted 0 0 with swapped := [{ swapped true false with winfree := true }] }; placeFree t 0 m { swapped true false with winfree := true } = true)) := by
  refine ⟨?_, ?_, ?_, ?_, clean_of ?_, ?_, ?_⟩ <;> decide +kernel
/-- Another launch has left bytes in the space that are not saved; WINREADY has not been given yet. -/
def other : Launch := { launchOf .preempted 0 0 with id := 5, ordinal := 3, swapped := [{ swapped false false with key := 1 }] }
theorem w_LaunchesRun_over :
    (let l := { launchOf .preempted 0 0 with swapped := [swapped false false] };
      let s := (preSt false false).setPart 0 { (preSt false false).partOr 0 with launches := [l, other] };
      s.launch? 0 0 = some l ∧ mayBind s 0 l = true ∧ arrivalFirst s 0 l = false ∧
      ((overKept s 0 l (swapped false false)).any (fun x => !x.saved)) = true ∧ placeFree s 0 l (swapped false false) = false) ∧
    (let l := { launchOf .preempted 0 0 with rec_ := recBytes 4 0, swapped := [swapped false false] };
      let s := (preSt false false).setPart 0 { (preSt false false).partOr 0 with launches := [l, other] };
      mayBind s 0 l = true ∧ placeFree s 0 l (swapped false false) = true ∧ ((overKept s 0 l (swapped false false)).any (fun x => !x.saved)) = true) ∧
    (let w := { swapped true true with winfree := true }; let l := { launchOf .preempted 0 0 with swapped := [w] };
      let s := launchSt l (preSt false false);
      placeFree s 0 l w = true ∧ (overKept s 0 l w).all (·.saved) = true ∧ w.winfree = true ∧ w.notice9 = true ∧ w.winready = false ∧
      { w with winready := true }.winready = true) := by decide +kernel
def ending : State := launchSt (launchOf .bound 0 0) (idle (plain [] .l id))
theorem w_LaunchesRun_complete :
    ending.launch? 0 0 = some (launchOf .bound 0 0) ∧ completes ending 0 (launchOf .bound 0 0) = true ∧ recN (recBytes 0 0) 2 2 / 64 % 2 = 0 ∧
    ending.contribs = [] ∧ ending.roles = [] ∧ canonical (BitVec.ofNat 64 (recN (recBytes 0 0) 168 8)) = true ∧
    (match translate ending 256 1 (BitVec.ofNat 64 (recN (recBytes 0 0) 168 8)) .wr with
      | .ok x => decide (x.pa = 0x20100) && decide (x.attr = 0) | .error _ => false) = true ∧ paRegion 0x20100 ≠ 4 ∧ completes (twoSt 5) 0 (launchOf .bound 0 0) = false := by decide +kernel

/-! ### The control die, the Curtain unit, the outside -/

/-- A partition with service core 0 and address space 1. -/
def svcSt : State := plain [] .l id
theorem w_ControlPlaneSteps :
    svcSt.svcPart 0 = some 0 ∧ (svcSt.svc 0).frozen = false ∧ (svcSt.asid 1).valid = true ∧ (svcSt.asid 1).part.toNat = 0 ∧ (svcSt.asid 1).busy = false ∧
    (svcSt.asid 2).valid = false ∧ tagPage { svcSt with tagWin := 0x20000 } % 65536 = 0 ∧ paRegion (tagPage { svcSt with tagWin := 0x20000 }) ≤ 1 ∧
    inWindows svcSt (svcSt.partOr 0).record (tagPage { svcSt with tagWin := 0x20000 }) = true ∧ reachesSlot svcSt (.svc 0) 0 = true ∧
    reachesSlot svcSt (.svc 0) 1023 = false ∧
    (let w := (0x4000001 : Word) &&& 0x00FFFFFFFC000001; w.getLsbD 0 = true ∧ paRegion 0x4000000 = 0 ∧ paNorm 0x4000000 = 0x4000000 ∧
      inWindows svcSt (svcSt.partOr 0).record 0x4000000 = true) ∧
    inWindows svcSt (svcSt.partOr 0).record 0x8000000000 = false := by decide +kernel
/-- A bump in progress, with and without a request of two generations ago; a load and an atomic of the control die. -/
def bumping : State := { svcSt with asids := [(1, { svcSt.asid 1 with busy := true, gen := 2 })] }
theorem w_ControlPlaneSteps_bump :
    (bumping.asid 1).busy = true ∧ (bumping.asid 1).valid = true ∧ (bumping.asid 1).part.toNat = 0 ∧
    tagRemains bumping 1 ((bumping.asid 1).gen - 2) = false ∧
    tagRemains (bumping.setRole 0 { bumping.role 0 with acc := [ldX] }) 1 ((bumping.asid 1).gen - 2) = true := by decide +kernel
def dieAddr : Nat := 8 * 2 ^ 52 + 0x20000
theorem w_ControlPlaneSteps_die :
    (0xF0000000 : Nat) < 2 ^ 32 ∧ readBarred svcSt (.svc 0) 0xF0000000 = false ∧ readBarred svcSt (.svc 0) (0xF0000000 + 64 * 1023) = true ∧
    rangeIn svcSt (svcSt.partOr 0).record (diePa 0x1_0000_0000) 8 = false ∧
    2 ^ 32 ≤ dieAddr ∧ rangeIn svcSt (svcSt.partOr 0).record (diePa dieAddr) 8 = true ∧ memPoisoned svcSt (diePa dieAddr) 8 = false ∧
    memPoisoned { svcSt with poison := [diePa dieAddr / 64] } (diePa dieAddr) 8 = true := by decide +kernel
/-- The accesses of a control-die core, within its windows and in a reserved region; a tag window that it does not reach. -/
def dieSt (op : DieOp) : State := { svcSt with sched := [{ dt := 0, what := .die (.svc 0) op }] }
theorem w_ControlPlaneSteps_dies :
    (∀ op : DieOp, (dieSt op).sched = { dt := 0, what := .die (.svc 0) op } :: []) ∧ (List.replicate 8 (0 : Byte)).length = 8 ∧
    noRegion (9 * 2 ^ 52) = true ∧ noRegion dieAddr = false ∧ liveIn svcSt (diePa dieAddr) 8 = false ∧
    readBarred { svcSt with tagWin := 0x8000000000 } (.svc 0) (0xF0030010 / 8 * 8) = true := by
  refine ⟨fun _ => rfl, ?_, ?_, ?_, ?_, ?_⟩ <;> decide +kernel
theorem w_ControlPlaneSteps_versions :
    (64, 3) ≠ (0, 0) ∧ mget 0 State.reset.versions 3 ≤ 1 ∧ (0 : Nat) < mget 0 { State.reset with versions := [(3, 2)] }.versions 3 ∧
    (let p := { (State.reset.partOr 5).record with svcs := [3], asids := [7], hbm := [1], weight := 1, imageOk := true, version := 4 };
      imageTaken State.reset p = true ∧ imageTaken { State.reset with versions := [(1, 9)] } p = false ∧
      ((State.reset.partOr 5).record.version ≠ p.version) ∧ mget 0 State.reset.versions 1 ≤ p.version) := by decide +kernel
theorem w_ControlPlaneSteps_monitor :
    placeFreeFor State.reset .channel 3 64 = true ∧ placeQuiet State.reset .channel 3 = true ∧ placeFreeFor State.reset .channel 3 5 = false ∧
    2 ≤ recentErrors { State.reset with errors := List.replicate 3 (0, 3, 0) } 0 3 ∧ recentErrors State.reset 0 3 < 2 ∧
    (unitCode .channel, placeAt State.reset .channel 3) ∈ [(0, 3)] ∧ State.reset.up = true ∧ { State.reset with up := false }.up = false ∧ 64 ∈ placesOf .channel 3 ∧ placeAt State.reset .channel 3 ≠ 64 ∧
    (let p := { (State.reset.partOr 5).record with svcs := [3], asids := [7], hbm := [1], weight := 1 };
      partitionOk State.reset 5 p = true ∧ 7 ∈ p.asids ∧ partitionOk svcSt 5 { p with svcs := [0] } = false) ∧
    (∃ kr ∈ svcSt.roles, kr.2.st ≠ .free ∧ kr.2.part.toNat = 0) ∧ mget 0 svcSt.versions 1 ≤ 1 ∧
    (svcSt.setSvc 0 { Svc.reset with frozen := true } |>.svc 0).frozen = true := by decide +kernel
/-- A stream of windows of 1000, one source, LATE 100; its specification at 0x2_0000. -/
def specB : List Byte := natLe 8 0x10000 ++ natLe 8 0 ++ natLe 8 1000 ++ natLe 8 1000 ++ natLe 8 100 ++ natLe 8 0x100 ++ natLe 8 0 ++ natLe 8 0
def cs0 : CStream :=
  { CStream.reset with specPa := 0x20000, buf := 0x30000, bufPages := 1, asid := 1, nsrc := 1, log := 0x40000, logn := 1, part := 0, spec := specB }
def open0 (wm : Nat) : CStream := { cs0 with isOpen := true, wm := wm, srcs := [{ sw := wm, active := true, last := 0 }] }
def csSt (c : CStream) : State := { plain specB .l id with strms := [(0, c)] }
def win0 (st : WState) : CWin := { pages := [0], stream := 0, k := 0, st := st, recs := [specB], encore := [], taken := [], cursor := 0, rev := 0, holder := some (0, 0) }
theorem w_EventWindows_registers :
    (csSt cs0).svcPart 0 = some 0 ∧ ((csSt cs0).cstream 0).part.toNat = 0 ∧ openFields (csSt cs0) cs0 = true ∧
    specOk { cs0 with spec := (csSt cs0).memRead 0x20000 64 } = true ∧ memPoisoned (csSt cs0) 0x20000 64 = false ∧
    openFields (csSt cs0) { cs0 with nsrc := 0 } = false ∧ specOk { cs0 with spec := List.replicate 64 0 } = false ∧ (open0 5).isOpen = true ∧
    memPoisoned { csSt cs0 with poison := [0x800] } 0x20000 64 = true ∧
    (∃ w ∈ [(3, win0 .firing)], w.2.stream = 0 ∧ (w.2.st = .firing ∨ w.2.st = .amending)) ∧ mfind (csSt (open0 5)).strms 0 = some (open0 5) := by
  decide +kernel
theorem w_EventWindows_marks :
    (∃ x ∈ (open0 5).srcs, x.active = true ∧ ∀ y ∈ (open0 5).srcs, y.active = true → x.sw ≤ y.sw) ∧ (∀ x ∈ cs0.srcs, x.active = false) ∧
    0 < cs0.slide ∧ cs0.size % cs0.slide = 0 ∧ covers cs0 1500 = [1] ∧
    (let s := { csSt (open0 1000) with wins := [(3, win0 .open_)] }; winSlot s 0 0 = some 3 ∧ s.win? 3 = some (win0 .open_) ∧ winSlot s 0 1 = none ∧
      (s.wins.map Prod.fst).Nodup ∧ (s.wins.all (fun x => x.2.st == .open_)) = true ∧ 0 * cs0.slide + cs0.size ≤ (open0 1000).wm) ∧
    (let s := { paged plainLeaf 0x20000 [] .l dorm with strms := [(0, open0 1000)], wins := [(3, win0 .firing)], curq := [{ win := 3, wm := 1000 }] };
      (winPlace s { win := 3, wm := 1000 }).isSome = true ∧ (s.accept 0 arr0).isSome = true) := by decide +kernel
def aWin (op : Nat) (addr : Word) : Access :=
  { Access.blank (.win op) addr with cl := .w, v := 7, data := specB, listOff := 0x40, dests := if op = 0 then [.x 7] else if op = 3 then [.p 6] else [] }
def winSt (a : Access) (c : CStream) (ws : SMap CWin) : State :=
  { paged plainLeaf 0x20000 [] .w (fun r => { r with acc := [a] }) with strms := [(0, c)], wins := ws }
theorem w_EventWindows_served :
    (∀ op < 3, holdsIt (winSt (aWin op 0xFFFF0000) (open0 5) []) (aWin op 0xFFFF0000) = true) ∧ (0xFFFF0000 : Word).toNat / 2 ^ 32 = 0 ∧
    (0xFFFF0000 : Word).toNat / 2 ^ 14 % 4 = 0 ∧ (0xFFFF0000 : Word).toNat / 2 ^ 16 = 0xFFFF ∧ (0xFFFF0100 : Word).toNat / 2 ^ 8 % 2 ^ 6 = 1 ∧
    (open0 5).part.toNat = 0 ∧ (open0 5).size = (open0 5).slide ∧ 0 < (open0 5).bufPages.toNat ∧
    (open0 5).wm < (leNat (specB.take 8) / 1000) * 1000 + 1000 ∧ (∀ x ∈ (open0 5).srcs, x.sw ≤ 5) ∧ 0 < (open0 5).srcs.length ∧
    holdsIt (winSt (aWin 3 3) (open0 5) [(3, win0 .firing)]) (aWin 3 3) = true ∧ (winSt (aWin 3 3) (open0 5) [(3, win0 .firing)]).win? 3 = some (win0 .firing) ∧
    (win0 .firing).recs[0]? = some specB ∧
    tileRange (winSt (aWin 3 3) (open0 5) []).curRole ((winSt (aWin 3 3) (open0 5) []).arrBase 0) 0x40 64 = some 0x40 ∧ (0x100000000 : Word).toNat / 2 ^ 32 ≠ 0 := by
  decide +kernel
/-- A record whose granule is poisoned, and one that is not. -/
theorem w_EventWindows_poison :
    recPoisoned { winSt (aWin 3 3) (open0 5) [(3, win0 .firing)] with poison := [0xC00] } (win0 .firing) 0 = true ∧
    recPoisoned (winSt (aWin 3 3) (open0 5) [(3, win0 .firing)]) (win0 .firing) 0 = false ∧ CStream.reset.part.toNat ≠ 5 := by decide +kernel
/-- A HOST port of partition 0 whose window begins at 0x2_0000, with a doorbell page at 0x1_0000. -/
def port0 : Port :=
  { peer := false, up := true, frozen := false, winBase := 0x20000, winLen := 0x20000, part := 0, dbOff := 0x10000, dbAsid := 1, held := none }
def hostSt : State := { lchSt [1, 2] with ports := [(0, port0)] }
def bell : List Byte := natLe 8 0 ++ natLe 8 0x10000 ++ [5]
theorem w_OutsideWorld :
    (s53.role 0).st = .running ∧ (s53.curRole.clu .l).halted = false ∧ (s53.curRole.clu .m).halted = true ∧
    hostSt.port 0 = port0 ∧ rangeIn hostSt (hostSt.partOr 0).record (0x20000 + 8) 8 = true ∧ hostBarred hostSt 0x20008 8 = false ∧
    memPoisoned hostSt 0x20008 8 = false ∧ ¬ (0x10000 ≤ 8 ∧ 8 < 0x10000 + 65536) ∧ 0x10000 < port0.winLen ∧ 17 ≤ bell.length ∧ bell.length ≤ 256 ∧
    leNat (bell.take 8) = 0 ∧ 0 ∈ (hostSt.partOr 0).record.cores ∧ (hostSt.accept 0 arr0).isSome = true ∧ ¬ (0x20000 + 8 ≤ port0.winLen) ∧
    (0 : Nat) < 12 ∧ (State.reset.port 0).peer = false := by decide +kernel
/-- A turn of a management master. -/
def mgmtSt (o : Option Nat) : State := { State.reset with mgmtOwner := o, sched := [{ dt := 0, what := .mgmt 1 true }] }
theorem w_OutsideWorld_turns :
    (mgmtSt (some 1)).mgmtOwner = some 1 ∧ (mgmtSt none).mgmtOwner ≠ some 1 ∧
    (State.reset.port 0).up = true ∧ (hostSt.port 0).held = none := by decide +kernel
/-- A drive's queue of partition 0 with a namespace, its windows, a live pool block; requests and a copy over a port. -/
def driveSt : State :=
  let s := poolSt fresh [] aClaim
  s.setPart 0 { s.partOr 0 with record := { (s.partOr 0).record with nvme := [3], namespaces := [(0, 7)] } }
theorem w_OutsideWorld_drives :
    queueOwner hostSt 0 3 = none ∧ queueOwner driveSt 0 3 = some 0 ∧ (0, 7) ∈ (driveSt.partOr 0).record.namespaces ∧
    (0, 8) ∉ (driveSt.partOr 0).record.namespaces ∧ rangeIn driveSt (driveSt.partOr 0).record 0x20000 8 = true ∧ liveIn driveSt 0x20000 8 = false ∧
    rangeIn driveSt (driveSt.partOr 0).record poolPa 8 = true ∧ liveIn driveSt poolPa 8 = true ∧
    rangeIn driveSt (driveSt.partOr 0).record 0x8000000000 8 = false := by decide +kernel
theorem w_OutsideWorld_links :
    overPort noTags (noTags.role 0) ldX 0 = some 0 ∧ overPort noTags (noTags.role 0) ldX 1 = none ∧
    (cpIn.overPort noTags (noTags.role 0) 0).isSome = true ∧ (noTags.port 0).up = true ∧ (noTags.port 0).peer = false := by decide +kernel
/-- Signed images and records, good and bad. -/
def img1 : Img := { num := 1, version := 2, sigOk := true }
def offSt : State := { State.reset with up := false }
def updSt (r : FlashRec) : State := { State.reset with sched := [{ dt := 0, what := .update { record := r, version := 3, sigOk := true } }] }
theorem w_OutsideWorld_release :
    imgOk offSt 0 img1 = true ∧ imgOk offSt 2 img1 = true ∧ recordsOk offSt = true ∧ imgOk offSt 0 { img1 with sigOk := false } = false ∧
    imgOk { offSt with versions := [(2, 9)] } 2 img1 = false ∧ recordsOk { offSt with versions := [(3, 9)] } = false ∧
    mget 0 State.reset.versions 4 ≤ 3 ∧ (updSt (.grade 2)).sched = [{ dt := 0, what := .update { record := .grade 2, version := 3, sigOk := true } }] ∧
    (3 : Nat) < mget 0 { State.reset with versions := [(3, 9)] }.versions 3 ∧
    ({ hostSt with parts := [] } : State).part? 0 = none := by decide +kernel
theorem w_OutsideWorld_management :
    State.reset.mgmtOwner = none ∧ { State.reset with mgmtOwner := some 1 }.mgmtOwner = some 1 ∧
    { State.reset with cycle := 2500000000 }.mgmtLast + 2500000000 ≤ { State.reset with cycle := 2500000000 }.cycle ∧
    State.reset.cycle < State.reset.mgmtLast + 2500000000 ∧ State.reset.throttled = false ∧ (s53.roles.map Prod.fst).Nodup ∧ retires s53 0 = false ∧
    (List.replicate 32 (0 : Byte)).length = 32 := by decide +kernel

/-! ### Translation, decoding, steps -/

theorem w_StoresAndTranslation :
    xlB (memAcc ldX) 0x10000 .rd 0x20000 0 = true ∧ isErr (translate (withAcc 0 0x20000 [] []) 0 1 0x10000 .rd) 0x10 = true ∧
    (match freshLeaf (memAcc ldX) 1 ((memAcc ldX).asid 1).gen 0x10000 with | .ok l => decide (l.epa = 0x14008) && decide (l.lo = 16) | .error _ => false) = true ∧
    inWindows svcSt (svcSt.partOr 0).record (0x10000 + 8) = true ∧ memPoisoned svcSt (0x10000 + 8) 8 = false ∧
    memPoisoned { svcSt with poison := [0x400] } (0x10000 + 8) 8 = true ∧
    inWindows (svcSt.setPart 0 { svcSt.partOr 0 with record := { (svcSt.partOr 0).record with hbm := [] } }) { (svcSt.partOr 0).record with hbm := [] } 0x10000 = false ∧
    (svcSt.asid 1).root.toNat = 0x10000 ∧ (svcSt.memWord (0x10000 + 8)).getLsbD 0 = false ∧
    (let s := svcSt.memWrite 0x10000 [3]; (s.memWord 0x10000).getLsbD 0 = true ∧ (s.memWord 0x10000).getLsbD 1 = true) := by decide +kernel
theorem w_StoresAndTranslation_cache : cachedLeaf (memAcc ldX) 0 1 ((memAcc ldX).asid 1).gen 0x10000 = none ∧
    (xl (memAcc ldX) 0x10000 .rd).st.tlb ≠ [] := by decide +kernel
theorem w_MachineGoesOn : s53.curLive = true ∧ State.reset.sched = [] := by decide +kernel
theorem w_StepKeepsMemories : State.reset.Inv ∧ goes (step State.reset) = true := by
  refine ⟨?_, ?_⟩
  · unfold State.Inv; decide +kernel
  · decide +kernel
theorem w_DecodeReadsEncode :
    (Instr.add hd d12).wf = true ∧ encode (.add hd d12) ≠ [] ∧ (Instr.mma false mmaF).wf = true ∧ (encode (.mma false mmaF)).length = 8 := by decide
/-- A turn of cluster L at 0x1_0000, whose page holds an ADD. -/
def turnSt (leaf : Nat) (ws : List Word) : State := { paged leaf 0x20000 (ws.flatMap wordLe) .l id with sched := [{ dt := 0, what := .syl { core := 0, slot := 0, cl := .l } }] }
theorem w_StepRunsDecoded :
    (turnSt plainLeaf [0]).curLive = true ∧ (turnSt plainLeaf [0]).clu.pc.toNat % 8 = 0 ∧ canonical (turnSt plainLeaf [0]).clu.pc = true ∧
    xlB (turnSt plainLeaf (encode (.add hd d12))) 0x10000 .fetch 0x20000 0 = true ∧ isErr (translate (turnSt 0 []) 0 1 0x10000 .fetch) 0x10 = true ∧
    memPoisoned (xl (turnSt plainLeaf [0]) 0x10000 .fetch).st 0x20000 8 = false ∧
    (match decodeFor .l [(xl (turnSt plainLeaf (encode (.add hd d12))) 0x10000 .fetch).st.memWord 0x20000] with | .instr i => decide (i = .add hd d12) | _ => false) = true ∧
    decodeFor .l [0x0100000000000000] = .illegalSyllable := by decide +kernel
/-- Where the head is read from, and where it cannot be. -/
def readB (s : State) (n code : Nat) : Bool :=
  match readAt s 0 s.curRole s.clu.pc .fetch n with | .ok x => decide (x.1 = code) | .error e => decide (e.1 = code)
theorem w_StepRunsDecoded_read :
    readB (turnSt plainLeaf (encode (.add hd d12))) 8 0x20000 = true ∧ readB (turnSt 0 []) 8 0x10 = true ∧
    inGroup (noTags.role 0) (2 * 2 ^ 52 + 5 * 2 ^ 40) = false ∧ inGroup (noTags.role 0) (2 * 2 ^ 52) = true ∧
    linkUp ({ noTags with ports := [] }) (noTags.role 0) (2 * 2 ^ 52) = false ∧
    readB (turnSt mcLeaf []) 8 0x11 = true ∧ readB { turnSt plainLeaf [0] with poison := [0x800] } 8 0x14 = true := by decide +kernel
/-- A turn that its cycle still has room for, and one whose cluster has issued in it; a step of the machine's own, and none. -/
theorem w_StepRunsDecoded_turns :
    (let w : What := .syl { core := 0, slot := 0, cl := .l };
      State.reset.follows (orderOf State.reset w) = true ∧
      (State.reset.mark (orderOf State.reset w)).follows (orderOf State.reset w) = false) ∧
    State.reset.strms = [] ∧ s53.sched = [] ∧ (autoEvent (s53.pass 1)).isNone = true ∧
    (autoEvent ((memAcc ldX).pass 1)).isSome = true := by decide +kernel
theorem w_IssueFrame : encode (.add hd d12) ≠ [] ∧ exec (.add hd d12) s53 = .next (nextOf (exec (.add hd d12) s53)) := ⟨by decide, goes_of (by decide +kernel)⟩
/-- withFetchWord: the very next step runs the instruction that is laid out. -/
theorem test_fetch_word :
    ((nextOf (step (State.reset.withFetchWord 64 (encode (.movk hd 5 7)).head!.toNat))).role 0).x 5 = 7 ∧
    ((nextOf (step (State.reset.withFetchWord 64 0x0100000000000000))).role 0).lastcode = 0x01 := by decide +kernel
/-- R21, R438: a FREE slot and the watchdogs after reset. -/
theorem test_reset : (State.reset.role 1023).st = .free ∧ (State.reset.role 0).wdlimit = 0x00800000 ∧ (State.reset.role 0).cuewd = 10000 := by decide +kernel

/-! ### States for further clauses -/

/-- A target that is no multiple of 8, and the payload of a nest record on M. -/
theorem w_BranchesAndCalls_bad :
    Ready 8 false s53 ∧ ¬ TargetOk s53 0x1001 ∧
    (let s := plain ((encode (.mma false mmaF)).flatMap wordLe) .m id
     Ready 8 false s ∧ ¬ TargetOk s (s.branchTo 1) ∧ TargetOk s (s.branchTo 8) ∧ Reads (guardS hd) s true ∧ Reads (rdS (.k 3)) s 3) := by
  refine ⟨ready_of ?_, ?_, ready_of ?_, ?_, target_of ?_, reads_of ?_, reads_of ?_⟩ <;> (try unfold TargetOk) <;> decide +kernel
/-- STT and LDT outside the window, and at an offset that no window has. -/
theorem w_AtomicAndTileRequests_out :
    Reads (eaOf { mf .b8 0 with base := .x 2 }) tileState 0x20000 ∧ Reads (rdS (.x 1)) tileState 0x40 ∧
    (∀ q : BitVec 3, q = 1 → Reads (qHead (8 + q.toNat)) memNow 9 → tileRange memNow.curRole (memNow.arrBase 0) 0x7FFFC0 64 = none) ∧
    (2 : Nat) ^ 23 ≤ (0x800000 : Word).toNat := by
  refine ⟨reads_of ?_, reads_of ?_, fun _ _ _ => ?_, ?_⟩ <;> decide +kernel
/-- FENCE behind a load that is parked, to be sent again, or whose translation fails; on M beside a nest record. -/
theorem w_FencesAndCopiesIssued_waits :
    (let s := asking { ldX with stat := .parked 0x20000 0 };
      Ready 8 false s ∧ ∃ a ∈ s.curRole.acc, a.cl = s.cur.cl ∧ mayFault s s.curKey a = true) ∧
    mayFault s53 0 { ldX with stat := .resend 5 } = true ∧ (AStat.faulted 0x10 0x10000 0 0).unperformed = false ∧
    (let s := withAcc 0 0x20000 [] [ldX]
     (s.role 0).acc? ldX.id = some ldX ∧
       isErr (translateA s 0 ldX.afresh (s.role 0).asid.toNat (tagNow s (s.role 0).asid.toNat ldX.gen) (ldX.partAddr ldX.done) .rd) 0x10 = true ∧
       mayFault s 0 ldX = true) ∧
    (let s := withAcc 0x20317 0x20000 [] [aSt]
     (s.role 0).acc? aSt.id = some aSt ∧
       isErr (translateA s 0 aSt.afresh (s.role 0).asid.toNat (tagNow s (s.role 0).asid.toNat aSt.gen) (aSt.partAddr aSt.done) .wr) 0x11 = true) ∧
    (let s := flying (fl (.mzero false 0 2));
      Ready 8 false s ∧ s.curRole.hasFault s.cur.cl = none ∧ s.curRole.snap = none ∧ s.cur.cl = .m ∧ s.curRole.nest ≠ none) := by
  refine ⟨⟨ready_of ?_, ?_⟩, ?_, ?_, ?_, ?_, ready_of ?_, ?_⟩ <;> decide +kernel
/-- The values that VSQRT, VRSQRT and VRECIP round: the exact one of 4, and one beside that of 2 and of 3. -/
def nearB (neg : Bool) (y : Dyad × Fl) (cmp : Nat → Int → Ordering) : Bool :=
  match y with
  | (.fin n r x, f) => f == 0 && n == neg && (cmp r x == .eq || (r % 2 == 1 && decide (2 ^ 64 ≤ r) && cmp (r - 1) x == .lt && cmp (r + 1) x == .gt))
  | _ => false
theorem w_VectorFloatResults_values :
    (∀ m ∈ [1, 2, 3, 4], ∀ e : Int, e ∈ [-149, 0, 1] →
      nearB false (sfuNum 2 (.fin false m e)) (fun r x => cmpMag (r * r) (2 * x) m e) = true ∧
      nearB false (sfuNum 1 (.fin false m e)) (fun r x => cmpMag (r * r * m) (2 * x + e) 1 0) = true ∧
      nearB true (sfuNum 0 (.fin true m e)) (fun r x => cmpMag (r * m) (x + e) 1 0) = true) ∧
    sfuNum 4 (.fin false (2 ^ 3) (-3)) = (Dyad.ofInt 0, 0) ∧ sfuNum 4 (.fin false (2 ^ 3) (-9)) = (Dyad.ofInt (-6), 0) ∧
    sfuNum 3 (.fin true 1023 0) = (.fin false 1 (-1023), 0) ∧ (ETy.bf16 ≠ .fp32 ∨ 0 = 2) ∧ (ETy.fp32 ≠ .fp32 ∨ 2 = 2) ∧ 4 ≠ 2 ∧
    (roundF .fp32 .rtz (sfuNum 4 (.fin false 2 0)).1).2 = 0 := by decide +kernel
/-- A sum that no rounding touches: the first operand of each node; three lanes in two steps. -/
theorem w_VectorReductions_scan :
    let f : Dyad → Dyad → Node := fun x _ => (x, 0)
    let t : List Node := [(.inf false, 0), (.nan, 0), (.nan, 1)]
    (∀ x y z, (f (f x y).1 z).1 = (f x (f y z).1).1) ∧ t.length ≤ 2 ^ 2 ∧ t[0]? = some (.inf false, 0) ∧ t[1 + 1]? = some (.nan, 1) ∧
    (scan f 2 1 t)[1]? = some (.inf false, 0) := ⟨fun _ _ _ => rfl, by decide +kernel⟩
/-- A step under SCEN, whose scale vector comes from stream 2; one that raises a flag. -/
def mmaSc : MmaF := { mmaF with scen := true, scs := 2 }
def scF : Flight := fl (.mma false mmaSc)
theorem w_NestSteps_scale :
    let s := nestS (fun r => { r with strms := [(2, regStrm)] })
    scF.op = 1 ∧ scF.scen = true ∧ 0 ≤ scF.arow 0 ∧ (∃ cb, Reads (unitBytes true scF.scs (scF.rel 5 0) 512) s cb) ∧
    (∃ ab, Reads (unitBytes scF.aStrm scF.aNum (scF.rel 2 0) scF.abytes) s ab) ∧ (∃ bb, Reads (unitBytes scF.bStrm scF.bNum (scF.rel 3 0) scF.bbytes) s bb) ∧
    (∃ f s2, nestStep scF s = .ok (f, s2)) := by
  refine ⟨?_, ?_, ?_, readsAny_of ?_, readsAny_of ?_, readsAny_of ?_, runs_of ?_⟩ <;> decide +kernel
theorem w_NestSteps_scale_sparse :
    let s := nestS (fun r => { r with strms := [(2, regStrm)] })
    let f : Flight := fl (.mmas false mmaSc 0x100 0x200)
    f.op = 2 ∧ f.scen = true ∧ (∃ cb, Reads (unitBytes true f.scs (f.rel 5 0) 512) s cb) ∧ (∃ g s2, nestStep f s = .ok (g, s2)) := by
  refine ⟨?_, ?_, readsAny_of ?_, runs_of ?_⟩ <;> decide +kernel
def aLdv : Access := { Access.blank .ldv 0x10000 with wide := true, size := .b512, dests := [.q 8] }
def aDet : Access := { Access.blank (.atomfD 1) 0x10000 with size := .b4, v := 0x3F800000, c := 3 }
/-- The last part of a GATHER and of an LDV; an ATOMF.D whose generation is the next to complete. -/
theorem w_RequestsServed_last :
    (let a : Access := { aGather with done := 127, data := List.replicate 508 0 };
      holdsIt (memAcc a) a = true ∧ xlB (memAcc a) (a.partAddr 127) .rd 0x20000 0 = true ∧ a.parts ≤ a.done + 1 ∧ a.dests = [.q 8] ∧
      memPoisoned (xl (memAcc a) (a.partAddr 127) .rd).st 0x20000 a.partLen = false) ∧
    (let a : Access := { aLdv with done := 7, data := List.replicate 448 0 };
      holdsIt (memAcc a) a = true ∧ xlB (memAcc a) (a.partAddr 7) .rd 0x201C0 0 = true ∧ a.parts ≤ a.done + 1 ∧
      memPoisoned (xl (memAcc a) (a.partAddr 7) .rd).st 0x201C0 a.partLen = false) ∧
    holdsIt (memAcc aDet) aDet = true ∧ xlB (memAcc aDet) 0x10000 .rw 0x20000 0 = true ∧ liveBlock (xl (memAcc aDet) 0x10000 .rw).st 0x20000 = false ∧
    aDet.done = 0 ∧ (xl (memAcc aDet) 0x10000 .rw).st.barDone 0 0 1 (instOf ((memAcc aDet).role 0) 0 1) ≤ aDet.len.toNat := by decide +kernel
/-- A home slice that keeps 65536 contributions, in a partition without an overflow area. -/
def oneContrib : Contrib := { pa := 0x20000, part := 0, lid := 0, level := 1, inst := 0, gen := 0, core := 0, slot := 0, seq := 0, val := 0, spilled := false }
def fullSt (n : Nat) : State := { memAcc aDet with contribs := List.replicate n oneContrib }
theorem w_RequestsServed_full :
    65536 ≤ (fullSt 65536).contribs.countP (fun c => !c.spilled && homeSlice c.pa == homeSlice 0x20000) ∧
    ((fullSt 65536).partOr 0).overflow.getLsbD 0 = false ∧ ((fullSt 65536).role 0).acc? aDet.id = some aDet ∧
    performable (fullSt 65536) ((fullSt 65536).role 0) aDet = true ∧
    meetsStuck (fullSt 65536) ((fullSt 65536).role 0) aDet.cl aDet.id aDet.ranges = false ∧ (inject (fullSt 65536) 0 aDet).isSome = true := by
  have h : ∀ n, (fullSt n).contribs.countP (fun c => !c.spilled && homeSlice c.pa == homeSlice 0x20000) = n := by
    intro n
    simp [fullSt, List.countP_replicate, oneContrib]
  refine ⟨(h _).ge, ?_, ?_, ?_, ?_, ?_⟩ <;> decide +kernel
/-- A multicast write whose 64 bytes reach two lines, the second past the window, or none; an ATOMF.D of the generation not performed yet. -/
def mcAt (b : Word) : State := { copySt mcLeaf cpOut with msets := [(0, { count := 2, bases := [b, 0x20000] })] }
theorem w_CopiesAndGenerations_lines :
    (∀ n ∈ [0x20020, 0x3FFFFFE0], let b : Word := BitVec.ofNat 64 n;
      copyReady (mcAt b) (mcAt b).curRole cpOut = true ∧ splits (mcAt b) (mcAt b).curRole cpOut = false ∧
      copyInject (mcAt b) 0 cpOut = some (mcAt b) ∧ xlB (mcAt b) (cpOut.dst + 0) .wr (5 * 2 ^ 52) 3 = true ∧
      ((xl (mcAt b) (cpOut.dst + 0) .wr).st.mset 0 (5 * 2 ^ 52)).dests[0]? = some b ∧ 64 - b.toNat % 64 < 64) ∧
    (let s := (xl (mcAt 0x20020) cpOut.dst .wr).st;
      ∀ p ∈ [paNorm 0x20020, paNorm 0x20040], paRegion p ≤ 1 ∧ inWindows s (partOf s s.curRole) p = true ∧ mappedAs s 2 p = false ∧ liveBlock s p = false) ∧
    (let s := (xl (mcAt 0x3FFFFFE0) cpOut.dst .wr).st; inWindows s (partOf s s.curRole) (paNorm 0x40000000) = false) ∧
    (let s := (lev 1 0 0).setRole 0 { (lev 1 0 0).role 0 with acc := [aDet] };
      ∃ a ∈ instRequests s 0 0 1 (2 ^ 16), a.kind = .atomfD 1 ∧ a.len.toNat = s.barDone 0 0 1 (2 ^ 16)) := by decide +kernel
/-- PSTAT with each of its selectors: a claimed slot, a free one, the three words of the pool, a slot that it does not have. -/
def aStatP (v : Word) : Access := { Access.blank (.pool 5) 0x10000 with cl := .w, v := v, dests := [.x 7] }
theorem w_PoolsAndCuesServe_pstat :
    ∀ n ∈ [0, 1, 2, 2 ^ 64 - 1, 2 ^ 64 - 2, 2 ^ 64 - 3], let v : Word := BitVec.ofNat 64 n
      let s := poolSt (poolBytes 0xFF 0 0 [1, 0]) [claimed] (aStatP v)
      let p := (xl s 0x10000 .rd).st
      holdsIt s (aStatP v) = true ∧ poolOn s = true ∧ (n = 0 → slotState (pSLOT p poolPa 0) = 1 ∧ bits (pCLAIM p poolPa 0) 7 0 = 0) ∧
      (n = 1 → v.toNat < pNSLOT p poolPa ∧ slotState (pSLOT p poolPa 1) ≠ 1) ∧ (n = 2 → pNSLOT p poolPa ≤ v.toNat) := by decide +kernel
/-- The requests about a cell, at each of its tags, and at a page that is no cue page. -/
def aCueOp (op : Nat) (v : Word) : Access :=
  { Access.blank (.cue op) 0x10000 with v := v, data := List.replicate 64 0, size := .b64, dests := if op < 3 then [] else [.x 7] }
theorem w_PoolsAndCuesServe_cueOps :
    (∀ op < 5, ∀ t : BitVec 2, let w : Want := if op = 0 then .wr else if op < 3 then .rw else .rd;
      holdsIt (cueSt t (aCueOp op 0)) (aCueOp op 0) = true ∧ xlB (cueSt t (aCueOp op 0)) 0x10000 w 0x20000 2 = true ∧
      (xl (cueSt t (aCueOp op 0)) 0x10000 w).st.tag 0x20000 = t ∧ memPoisoned (xl (cueSt t (aCueOp op 0)) 0x10000 w).st 0x20000 64 = false) ∧
    (let img (i : Nat) : Word := leWord (((aCueOp 0 0).data.drop (8 * i)).take 8);
      (∀ i ∈ [3, 4, 5, 6, 7], img i = 0) ∧ (img 0).toNat % 32 = 0 ∧ bits (img 2) 63 10 = 0 ∧ bits (img 2) 9 8 = 0) ∧
    bits (0x207 : Word) 9 8 = 2 ∧ bits (0x207 : Word) 7 0 < 8 ∧ ¬ bits (0x304 : Word) 7 0 < 4 ∧
    (let a : Access := { aCueOp 1 0 with eid := 5 };
      let s : State := { cueSt 2 a with mem := writeBytes (cueSt 2 a).mem 0x20038 (natLe 8 5) };
      holdsIt s a = true ∧ (((xl s 0x10000 .rw).st.cellWord 0x20000 7).setWidth 32 : BitVec 32) = a.eid ∧ a.eid ≠ 0) ∧
    (let a := aCueOp 0 0; holdsIt (memAcc a) a = true ∧ xlB (memAcc a) 0x10000 .wr 0x20000 0 = true) ∧
    (8 : Word) = BitVec.ofNat 64 (8 + 0) ∧ (1 : Nat) < (16 : Word).toNat ∧ 15 < (16 : Word).toNat := by decide +kernel
/-- A cell with a load parked at it behind one that is not; a parked load of a role that runs, and of one that has stopped. -/
theorem w_PoolsAndCuesServe_wakes :
    (let p : Access := { ldX with id := 1, stat := .parked 0x20000 0 };
      let s := withAcc cueLeaf 0x20000 [] [ldX, p];
      (s.roles.map Prod.fst).Nodup ∧ (s.role 0).acc = [ldX] ++ [p] ∧ (∀ b ∈ [ldX], b.id ≠ p.id ∧ b.stat = .pending) ∧
      p.dests = [.x 7] ∧ p.size.bytes ≤ 8 ∧ p.addr.toNat % 64 + p.size.bytes ≤ 64) ∧
    (let s := { withAcc cueLeaf 0x20000 [] [{ ldX with stat := .parked 0x20000 0 }] with cycle := 12500001 };
      (s.role 0).st = .running ∧ (s.role 0).cuewd ≠ 0 ∧ (s.role 0).cuewd.toNat * 1250 < s.cycle - 0) ∧
    (stopSt stopI id |>.role 0).st ≠ .running ∧ (List.replicate 8 (0 : Word)).length = 8 := by decide +kernel
/-- The ports that one of these two states shuts: frozen, down; a budget of the port or of the crossbar that is used up. -/
theorem w_ArrivalsAndEngines_shut :
    (peerSt.port 3).frozen = false ∧ (peerSt.partOr 0).record.budgets = [] ∧
    ((peerSt.setPort 3 { peerPort0 with frozen := true }).port 3).frozen = true ∧
    (∃ b ∈ [({ kind := 2 + 3, period := 4, size := 1 } : Budget)], (b.kind = 1 ∨ b.kind = 2 + 3 ∧ toPeer.peer ≠ none) ∧
      b.size ≤ spentOf peerSt { peerSt.partOr 0 with spent := [(5, (0, 1))] } b) := by decide +kernel
def peerSpawn : State :=
  let s := launchSt (launchOf .bound 0 0) peerSt
  s.setPart 0 { s.partOr 0 with spawns := [{ spawn0 with peer := some 0 }] }
theorem w_ArrivalsAndEngines_spawns :
    (peerSpawn.partOr 0).spawns = [{ spawn0 with peer := some 0 }] ∧ spawn0.after = [] ∧ peerSpawn.launch? 0 0 = some (launchOf .bound 0 0) ∧
    portTo peerSpawn { Role.reset with part := BitVec.ofNat 8 0, lid := 0 } 0 0 = some 3 ∧ (peerSpawn.port 3).up = true ∧
    (peerSpawn.port 3).frozen = false ∧ noTag peerSpawn 0 3 = false ∧ (peerSpawn.partOr 0).record.budgets = [] := by
  have h : (((peerSpawn.partOr 0).record.ports.map (·.1)).filter (fun q => (peerSpawn.port q).peer && (groupMask peerSpawn 0 0 0).testBit q)) = [3] := by
    decide +kernel
  refine ⟨?_, ?_, ?_, ?_, ?_⟩
  · decide +kernel
  · decide +kernel
  · decide +kernel
  · unfold portTo
    change (let ps := ((peerSpawn.partOr 0).record.ports.map (·.1)).filter (fun q => (peerSpawn.port q).peer && (groupMask peerSpawn 0 0 0).testBit q);
      ps[Config.portHash 0 0 % ps.length]?) = some 3
    rw [h]
    simp [Nat.mod_one]
  · decide +kernel
/-- A role of which only W has not halted, at its watchdog's limit; one of which every cluster has. -/
theorem w_BundlesWatchdogStops_front :
    (let s := { one .w id with cycle := 9000000 };
      quiet s 0 = true ∧ ((s.role 0).clu .w).halted = false ∧ (∀ d : Cluster, d.num < Cluster.w.num → ((s.role 0).clu d).halted = true) ∧
      (s.role 0).wdlimit ≠ 0 ∧ (s.role 0).lastAct + (s.role 0).wdlimit.toNat ≤ s.cycle) ∧
    (let s := { one .w (fun r => { r with cw := r.cl, acc := [{ ldX with stat := .parked 0 0 }] }) with cycle := 9000000 };
      ∀ d : Cluster, ((s.role 0).clu d).halted = true) := by
  refine ⟨⟨?_, ?_, fun d => ?_, ?_⟩, fun d => ?_⟩ <;> first | decide +kernel | (cases d <;> decide +kernel)
/-- A stop after which the same bundle asked for another; the address space that a RESTORE gives the role, and one that it must not. -/
def laterSt : State := stopSt { stopI with written := true, later := [(.v, 1, 0x70, 9, 0x10000)] } id
theorem w_ContextCommands_later :
    (laterSt.role 0).st = .stopped ∧ ((laterSt.role 0).stop.map (·.later)) = some [(.v, 1, 0x70, 9, 0x10000)] ∧ (laterSt.role 0).frozen = false ∧
    saveOk laterSt 0 (laterSt.role 0).save = true ∧ memPoisoned laterSt 0x58000 0x5800 = false ∧
    (recordFrom laterSt 0 { stopI with written := true, later := [(.v, 1, 0x70, 9, 0x10000)] }).isSome = true ∧ laterSt.emergency = false ∧
    { laterSt with emergency := true }.emergency = true := by
  refine ⟨?_, ?_, ?_, ?_, clean_of ?_, ?_⟩ <;> decide +kernel
theorem w_ContextCommands_own :
    (let s := saved0 outSt
     let b := (s.role 0).blk
     (s.asid b.asid.toNat).valid = true ∧ (s.asid b.asid.toNat).part = b.part ∧ s.svcPart 0 = some b.part.toNat ∧ awake s (.svc 0) = true ∧
       reachesSlot s (.svc 0) 0 = true ∧ (s.role 0).busy = false) ∧
    (let s := (saved0 outSt).setRole 0 { (saved0 outSt).role 0 with blk := { ((saved0 outSt).role 0).blk with asid := 2 } }
     (s.asid 2).valid = false ∧ s.svcPart 0 = some (s.role 0).blk.part.toNat ∧ (s.role 0).st = .free) := by decide +kernel
theorem w_SwitchoutRestoreKeepsRegisters_asid :
    (outSt.asid (outSt.role 0).asid.toNat).valid = true ∧ (outSt.asid (outSt.role 0).asid.toNat).part = (outSt.role 0).part := by decide +kernel
/-- The address space of a role to be bound again; a completion word's place, which the launch may reach. -/
theorem w_LaunchesRun_spaces :
    ((preSt false false).asid (swapped false false).asid.toNat).valid = true ∧ ((preSt false false).asid 1).part.toNat = 0 ∧
    (match translate ending 256 1 (BitVec.ofNat 64 (recN (recBytes 0 0) 168 8)) .wr with
      | .ok x => dieMay (dieRole 0 (launchOf .bound 0 0)) x && !writeFault ending x && linkUp ending (dieRole 0 (launchOf .bound 0 0)) x.pa
      | .error _ => false) = true := by decide +kernel
/-- Changes of a partition whose kernel runs, whose kernel was refused, and whose kernel has none; a service core of it. -/
def ranSt (v : Nat) : State := { svcSt.setSvc 0 { Svc.reset with running := true, image := 7 } with versions := [(1, v)] }
theorem w_ControlPlaneSteps_images :
    (let p := { (svcSt.partOr 0).record with image := 9, version := 5, weight := 1, asids := [1] };
      (svcSt.partOr 0).record.imageOk = true ∧ p.svcs ≠ [] ∧ partitionOk svcSt 0 p = true ∧ (∀ m ∈ p.svcs, (svcSt.svc m).running = false) ∧
      mget 0 svcSt.versions 1 ≤ (svcSt.partOr 0).record.version ∧ partitionOk (ranSt 9) 0 p = true ∧
      (∀ m ∈ p.svcs, ((ranSt 9).svc m).running = true ∧ ((ranSt 9).svc m).image = 7) ∧ (svcSt.partOr 0).record.version < mget 0 (ranSt 9).versions 1 ∧
      (let s := svcSt.setPart 0 { svcSt.partOr 0 with record := { (svcSt.partOr 0).record with imageOk := false } };
        (s.partOr 0).record.imageOk = false ∧ { p with imageOk := false }.imageOk = false ∧ partitionOk s 0 p = true ∧
        mget 0 s.versions 1 ≤ p.version)) ∧
    (let p := { (svcSt.partOr 0).record with svcs := [0, 1], weight := 1, asids := [1] };
      let s := (ranSt 0).setSvc 1 { Svc.reset with running := true, image := 8 };
      partitionOk s 0 p = true ∧ ∀ m ∈ p.svcs, (s.svc m).running = true) ∧
    svcSt.svcPart 0 = some 0 ∧ 0 ∈ (svcSt.partOr 0).record.svcs ∧ (svcSt.svc 0).frozen = false := by decide +kernel
/-- WLATE with an encore record and with none; WPUB of a slot of a pool, its stream's watermark before and past the lateness. -/
def pubSpec : List Byte := natLe 8 0x10000 ++ natLe 8 0 ++ natLe 8 1000 ++ natLe 8 1000 ++ natLe 8 100 ++ natLe 8 0x10000 ++ natLe 8 0 ++ natLe 8 0
def pubC (wm : Nat) : CStream := { open0 wm with spec := pubSpec }
def aPubW : Access := { Access.blank (.win 4) 3 with cl := .w, v := 0x30000 }
def pubSt (wm : Nat) (w : CWin) : State :=
  { (poolSt (poolBytes 0xFF 0 0 [1, 0]) [claimed] aPubW).memWrite 0x14018 (natLe 8 plainLeaf) with strms := [(0, pubC wm)], wins := [(3, w)] }
theorem w_EventWindows_late :
    (let w : CWin := { win0 .firing with encore := [specB] }
     let s := winSt (aWin 5 3) (open0 5) [(3, w)]
     holdsIt s { aWin 5 3 with dests := [.p 6] } = false ∧
     (let a : Access := { aWin 5 3 with dests := [.p 6] }
      let s := winSt a (open0 5) [(3, w)]
      holdsIt s a = true ∧ s.win? 3 = some w ∧ w.encore = [specB] ∧ recPoisoned s w (w.recs.length + w.taken.length) = false ∧
      recPoisoned { s with poison := [0xC01] } w (w.recs.length + w.taken.length) = true ∧
      tileRange s.curRole (s.arrBase 0) 0x40 64 = some 0x40)) ∧ (win0 .firing).encore = [] := by decide +kernel
theorem w_EventWindows_publishes :
    (∀ wm ∈ [1000, 1100], let s := pubSt wm (win0 .firing)
      holdsIt s aPubW = true ∧ s.win? 3 = some (win0 .firing) ∧ (pubC wm).part.toNat = 0 ∧
      xlB s (pubC wm).pool .rd poolPa 1 = true ∧
      (let x := (xl s 0x10000 .rd).st
       memPoisoned x poolPa 256 = false ∧ pLive x poolPa = true ∧ pPART x poolPa = 0 ∧ inPoolScope x poolPa 0 s.curRole = true ∧
         slotOfB x poolPa 0x30000 = some 0 ∧ pCLAIM x poolPa 0 = 0 ∧ claimed ∈ s.curRole.holds ∧
         (let y := poolPublish x poolPa 0 0; xlB y 0x30000 .wr 0x20000 0 = true ∧ liveBlock (xl y 0x30000 .wr).st 0x20000 = false))) ∧
    (pubC 1000).late = 100 ∧ (win0 .published).st ≠ .firing ∧ (win0 .published).st ≠ .amending := by decide +kernel
/-- Tile stores: an offset of the window, one in the arrival entry of a role that has one, and one that is neither. -/
theorem w_StoresAndTranslation_tile :
    tileRange tileState.curRole (tileState.arrBase 0) 0x40 8 = some 0x40 ∧ tileRange tileState.curRole (tileState.arrBase 0) 0x20000 8 = none ∧
    tilePoisoned tileState (0 * 2 ^ 22 + 0x40) 8 = false := by decide +kernel
/-- STT, SRESET in mid slot, a row sent to a ring's stream, and LREC go on. -/
def rowSt : State :=
  one .v (fun r => { r with vs := [(3, 5)], strms := [(2, sinkStrm)], rings := [(0, ring0)] })
theorem w_IssueFrame_writes :
    goes (exec (.stt hd (.s (.x 1)) (mf .b8 0)) tileState) = true ∧ encode (.sreset hd 2) ≠ [] ∧ goes (exec (.sreset hd 2) sinkState) = true ∧
    goes (exec (.lrec hd (.sp .zero) (.k 3) 0) lrecState) = true ∧ goes (exec (.vabs hd { o3 .fp32 with d := .s 2 }) rowSt) = true ∧
    (rowSt.curRole.strm? 2).isSome = true ∧
    (nextOf (exec (.vabs hd { o3 .fp32 with d := .s 2 }) rowSt)).tile.isEmpty = false ∧
    vectorWrites (.vabs hd { o3 .fp32 with d := .s 2 }) = some { d := some (.s 2) } := by
  refine ⟨?_, ?_, ?_, ?_, ?_, ?_, ?_, rfl⟩ <;> decide +kernel
end Sys2Proof.Tests
end

section
/-! ### RDTIME behind a request (R368) -/
namespace Sys2Proof.Machine

/-- Role 0 runs, and its L cluster has an ATOM whose reply is still to come. -/
def atomInFlight : State :=
  State.reset.setRole 0 { Role.reset with st := .running, acc := [Access.blank (.atom 0) 0] }
/-- An unguarded syllable with S = 0. -/
def plainHdr : Hdr := { s := false, g := 0, gn := false }
/-- The state after a write of DTIME to X1. -/
def atomInFlightX1 : State :=
  atomInFlight.setRole 0 (atomInFlight.curRole.setX 1 (BitVec.ofNat 64 (atomInFlight.cycle * 4 / 5)))

theorem chkDest_free {s : State} {d : Dest} (hd : (seenAcc s.curRole).find? (fun a => a.dests.contains d) = none) :
    chkDest d s = .ok ((), s) := by
  unfold chkDest
  rw [bind_ok (getRole_run s), hd]
  rfl

/-- R50, R61: a syllable whose guard is P0 issues, where no request is to write P0. -/
theorem guardS_p0 {h : Hdr} {s : State} (h0 : h.g = 0) (hn : h.gn = false)
    (hd : (seenAcc s.curRole).find? (fun a => a.dests.contains (.p 0)) = none) : Reads (guardS h) s true := by
  have hnone : (seenAcc s.curRole).find? (fun a => (0 : Nat) ≠ 0 && a.cl == s.cur.cl && a.cueerr = 0 &&
      mayCueLoad s s.curRole.asid.toNat a) = none := by simp
  have hp : rdP 0 s = .ok (allOnes, s) := by
    unfold rdP
    rw [bind_ok (chkDest_free hd), bind_ok (getSt_run s), bind_ok (getRole_run s), hnone]
    rfl
  have hguard : guardP h s = .ok (allOnes, s) := by
    unfold guardP
    rw [h0, hn]
    exact bind_ok hp
  unfold Reads guardS
  rw [bind_ok hguard, pure_run]
  simp [allOnes]

theorem ready_atomInFlight : Ready 8 false atomInFlight where
  live := rfl
  sync := nofun
  gate := nofun
  again := nofun
  onward := rfl
  ends := nofun

/-- R368: RDTIME waits at its head while an earlier syllable of its cluster has not committed. -/
theorem exec_rdtime_uncommitted {h : Hdr} {d : SDst} {s : State} (hr : Ready 8 h.s s) (hg : Reads (guardS h) s true)
    (hu : uncommitted s = true) : exec (.rdtime h d) s = .next s := by
  have hb : resRdtime h d s = .error .wait := by
    unfold resRdtime scalarOp
    rw [bind_ok hg, if_pos rfl, bind_error]
    rw [bind_ok (getSt_run s), hu]
    exact bind_error (waitIf_true s)
  exact issueN_wait hr hb

/-- Refutes O24: RDTIME waits while an earlier syllable of its cluster has not committed (R368), which the last clause leaves
out: with an ATOM in flight it stays at its head. -/
theorem not_csrAccess : ¬ Obligations.CsrAccess := by
  unfold Obligations.CsrAccess
  rintro ⟨-, -, -, hRdtime⟩
  have hg : Reads (guardS plainHdr) atomInFlight true := guardS_p0 rfl rfl rfl
  have hgoes := hRdtime plainHdr (.x 1) atomInFlight atomInFlightX1 ready_atomInFlight hg rfl
  rw [exec_rdtime_uncommitted ready_atomInFlight hg rfl] at hgoes
  have hpc : atomInFlight.clu.pc = (atomInFlightX1.fell 8).clu.pc :=
    congrArg (fun t => t.clu.pc) (Host.Outcome.next.inj hgoes)
  exact absurd hpc (by decide)

end Sys2Proof.Machine
end

section
/-! ### Rows as lists of lanes (R3, R147) -/
namespace Sys2Proof.Machine

theorem ETy.bits_pos (t : ETy) : 0 < t.bits := by cases t <;> decide
theorem ETy.lanes_mul_bits (t : ETy) : t.bits * t.lanes = 4096 := by cases t <;> decide

/-- Digit i, to the base 2^b, of the number that a list of digits packs. -/
theorem packed_digit (b : Nat) (ls : List Nat) (i : Nat) :
    ls.foldr (fun x acc => x % 2 ^ b + acc * 2 ^ b) 0 / 2 ^ (b * i) % 2 ^ b = ls.getD i 0 % 2 ^ b := by
  have hpos : 0 < 2 ^ b := Nat.two_pow_pos b
  induction ls generalizing i with
  | nil => simp
  | cons x t ih =>
    rw [List.foldr_cons]
    cases i with
    | zero => simp
    | succ j =>
      have hx : x % 2 ^ b / 2 ^ b = 0 := Nat.div_eq_of_lt (Nat.mod_lt _ hpos)
      rw [Nat.mul_succ, Nat.add_comm (b * j), Nat.pow_add, ← Nat.div_div_eq_div_mul, Nat.add_mul_div_right _ _ hpos, hx,
        Nat.zero_add, ih]
      simp

/-- Element i of a row made from the elements of its lanes. -/
theorem laneOf_mkRow (t : ETy) (ls : List Nat) {i : Nat} (hi : i < t.lanes) :
    laneOf t (mkRow t ls) i = ls.getD i 0 % 2 ^ t.bits := by
  have hroom : t.bits * i + t.bits ≤ 4096 := by
    rw [← Nat.mul_succ, ← ETy.lanes_mul_bits t]
    exact Nat.mul_le_mul_left _ hi
  obtain ⟨k, hk⟩ := Nat.exists_eq_add_of_le hroom
  rw [← packed_digit t.bits ls i]
  unfold laneOf mkRow
  rw [BitVec.toNat_ofNat, hk, Nat.add_assoc, Nat.pow_add 2 (t.bits * i), Nat.mod_mul_right_div_self, Nat.pow_add,
    Nat.mod_mul_right_mod]

/-- Bit j of a row is a bit of one of its lanes. -/
theorem getLsbD_eq_testBit_laneOf (t : ETy) (r : Row) (j : Nat) :
    r.getLsbD j = (laneOf t r (j / t.bits)).testBit (j % t.bits) := by
  unfold laneOf
  rw [← BitVec.testBit_toNat, Nat.testBit_mod_two_pow, Nat.testBit_div_two_pow, Nat.add_comm, Nat.div_add_mod]
  simp [Nat.mod_lt _ (ETy.bits_pos t)]

theorem row_ext_lanes (t : ETy) {r r' : Row} (h : ∀ i < t.lanes, laneOf t r i = laneOf t r' i) : r = r' := by
  refine BitVec.eq_of_getLsbD_eq fun j hj => ?_
  have hlane : j / t.bits < t.lanes := Nat.div_lt_of_lt_mul ((ETy.lanes_mul_bits t).symm ▸ hj)
  rw [getLsbD_eq_testBit_laneOf t r, getLsbD_eq_testBit_laneOf t r', h _ hlane]

theorem laneOf_lt (t : ETy) (r : Row) (i : Nat) : laneOf t r i < 2 ^ t.bits := Nat.mod_lt _ (Nat.two_pow_pos _)

theorem laneOf_mergeLanes (t : ETy) (g : Pred) (old : Row) (new : List Nat) {i : Nat} (hn : i < new.length)
    (hi : i < t.lanes) :
    laneOf t (mergeLanes t g old new) i = if g.getLsbD i then new.getD i 0 % 2 ^ t.bits else laneOf t old i := by
  unfold mergeLanes
  rw [laneOf_mkRow t _ hi]
  simp only [List.getD_eq_getElem?_getD, List.getElem?_map, List.getElem?_zipIdx, List.getElem?_eq_getElem hn,
    Option.map_some, Option.getD_some, Nat.zero_add]
  split
  · rfl
  · exact Nat.mod_eq_of_lt (laneOf_lt ..)

theorem mem_laneFlags (g : Pred) (rs : List (Nat × Fl)) (i : Nat) (fl : Fl) :
    (i, fl) ∈ laneFlags g rs ↔ g.getLsbD i = true ∧ fl ≠ 0 ∧ ∃ x, rs[i]? = some (x, fl) := by
  unfold laneFlags
  simp only [List.mem_filterMap, Prod.exists, List.mem_zipIdx_iff_getElem?]
  constructor
  · rintro ⟨x, f, j, hx, hsome⟩
    split at hsome
    · next hraised =>
      obtain ⟨rfl, rfl⟩ := Prod.mk.inj (Option.some.inj hsome)
      simp only [Bool.and_eq_true, bne_iff_ne] at hraised
      exact ⟨hraised.1, hraised.2, x, hx⟩
    · cases hsome
  · rintro ⟨hg, hfl, x, hx⟩
    exact ⟨x, fl, i, hx, by rw [hg, Bool.true_and, if_pos (bne_iff_ne.mpr hfl)]⟩

end Sys2Proof.Machine
end
section
/-! ### Rounding a represented value (R23, R24, R33 to R36) -/
namespace Sys2Proof.Machine

/-- The exponent of the last place of the largest finite value, and that value as a multiple of it. -/
def maxExp (t : ETy) : Int := t.qmin + ((t.maxCode / 2 ^ t.mbits - 1 : Nat) : Int)
def maxMant (t : ETy) : Nat := 2 ^ t.mbits + t.maxCode % 2 ^ t.mbits

/-- m * 2^e is a finite value of the type, written with as many places as the type has. -/
structure Represented (t : ETy) (m : Nat) (e : Int) : Prop where
  nonzero : m ≠ 0
  short : m < 2 ^ (t.mbits + 1)
  least : t.qmin ≤ e
  normal : e = t.qmin ∨ 2 ^ t.mbits ≤ m
  finite : e < maxExp t ∨ e = maxExp t ∧ m ≤ maxMant t

theorem roundAt_self (rm : RM) (neg : Bool) (m : Nat) (e : Int) : roundAt rm neg m e e = (m, false) := by
  simp [roundAt]

/-- The last place that rounding keeps of a represented value is its own. -/
theorem Represented.place {t : ETy} {m : Nat} {e : Int} (h : Represented t m e) :
    max ((Nat.log2 m : Int) + e - t.mbits) t.qmin = e := by
  have hle : Nat.log2 m ≤ t.mbits := Nat.lt_succ_iff.mp ((Nat.log2_lt h.nonzero).mpr h.short)
  have hleast := h.least
  rcases h.normal with hsub | hnorm
  · omega
  · have hge : t.mbits ≤ Nat.log2 m := (Nat.le_log2 h.nonzero).mpr hnorm
    omega

theorem le_shiftLeft_succ (m k : Nat) : 2 * m ≤ m <<< (k + 1) := by
  rw [Nat.shiftLeft_eq, Nat.pow_succ', ← Nat.mul_assoc, Nat.mul_comm m 2]
  exact Nat.le_mul_of_pos_right _ (Nat.two_pow_pos k)

/-- A value with fewer places than that of a greater exponent lies below it. -/
theorem cmpMag_lt {m1 m2 : Nat} {e1 e2 : Int} (he : e1 < e2) (hm : m1 < 2 * m2) : cmpMag m1 e1 m2 e2 = .lt := by
  obtain ⟨k, hk⟩ : ∃ k, (e2 - e1).toNat = k + 1 := ⟨(e2 - e1).toNat - 1, by omega⟩
  unfold cmpMag
  rw [if_neg (by omega), hk, Nat.compare_eq_lt]
  exact Nat.lt_of_lt_of_le hm (le_shiftLeft_succ m2 k)

theorem cmpMag_self_exp (m1 m2 : Nat) (e : Int) : cmpMag m1 e m2 e = compare m1 m2 := by simp [cmpMag]

theorem Represented.short_of_max {t : ETy} {m : Nat} {e : Int} (h : Represented t m e) : m < 2 * maxMant t := by
  have hshort := h.short
  rw [Nat.pow_succ'] at hshort
  unfold maxMant
  omega

/-- R34: a represented value does not lie beyond the largest finite one. -/
theorem Represented.not_beyond {t : ETy} {m : Nat} {e : Int} (h : Represented t m e) :
    cmpMag m e (maxMant t) (maxExp t) ≠ .gt := by
  rcases h.finite with hlt | ⟨rfl, hle⟩
  · rw [cmpMag_lt hlt h.short_of_max]
    nofun
  · rw [cmpMag_self_exp]
    exact Nat.compare_ne_gt.mpr hle

/-- R35: nor does it lie halfway to the next value. -/
theorem Represented.not_half {t : ETy} {m : Nat} {e : Int} (h : Represented t m e) :
    cmpMag m e (2 * maxMant t + 1) (maxExp t - 1) ≠ .eq := by
  have hshort := h.short_of_max
  rcases h.finite with hlt | ⟨rfl, -⟩
  · rcases Int.lt_or_eq_of_le (Int.le_sub_one_of_lt hlt) with hbelow | rfl
    · rw [cmpMag_lt hbelow (by omega)]
      nofun
    · rw [cmpMag_self_exp, ne_eq, Nat.compare_eq_eq]
      omega
  · unfold cmpMag
    rw [if_pos (by omega), ne_eq, Nat.compare_eq_eq, show (maxExp t - (maxExp t - 1)).toNat = 1 by omega, Nat.shiftLeft_eq]
    omega

theorem Represented.roundF {t : ETy} {m : Nat} {e : Int} (h : Represented t m e) (rm : RM) (neg : Bool) :
    roundF t rm (.fin neg m e) = (signed t neg ((e - t.qmin).toNat * 2 ^ t.mbits + m), 0) := by
  have hb := h.not_beyond
  have hh := h.not_half
  unfold maxMant maxExp at hb hh
  simp only [Machine.roundF, if_neg h.nonzero, h.place, roundAt_self]
  simp [hb, hh]

/-! The fields of an encoding: its sign, its exponent field and its fraction. -/

theorem signed_fields (t : ETy) {n : Nat} (hn : n < 2 ^ t.bits) :
    signed t (decide (n % (2 * t.signBit) ≥ t.signBit)) (n % t.signBit) = n := by
  have hwidth : 2 ^ t.bits = 2 * t.signBit := by cases t <;> rfl
  rw [hwidth] at hn
  rw [Nat.mod_eq_of_lt hn]
  unfold signed
  split
  · next hneg =>
    have hneg : t.signBit ≤ n := of_decide_eq_true hneg
    rw [Nat.mod_eq_sub_mod hneg, Nat.mod_eq_of_lt (by omega)]
    omega
  · next hpos => exact Nat.mod_eq_of_lt (by simpa using hpos)

/-- R23, R24: a code that is neither an infinity nor a NaN is at most that of the largest finite value. -/
theorem code_le_maxCode {t : ETy} (hf : t.isFloat = true) {c : Nat} (hc : c < t.signBit)
    (hinf : (t.hasInf && c / 2 ^ t.mbits == 2 ^ t.ebits - 1) = false) (hnan : (!t.hasInf && c == 0x7F) = false) :
    c ≤ t.maxCode := by
  cases t <;> simp_all [ETy.isFloat, ETy.signBit, ETy.hasInf, ETy.mbits, ETy.ebits, ETy.maxCode, ETy.bits, ETy.bytes] <;> omega

theorem qmin_lt_maxExp {t : ETy} (hf : t.isFloat = true) : t.qmin < maxExp t := by
  revert hf
  cases t <;> decide

theorem represented_subnormal {t : ETy} (hf : t.isFloat = true) {fr : Nat} (hfr : fr < 2 ^ t.mbits) (h0 : fr ≠ 0) :
    Represented t fr t.qmin where
  nonzero := h0
  short := Nat.lt_trans hfr (Nat.pow_lt_pow_succ (by decide))
  least := Int.le_refl _
  normal := .inl rfl
  finite := .inl (qmin_lt_maxExp hf)

theorem represented_normal {t : ETy} {c : Nat} (hmax : c ≤ t.maxCode) (hex : c / 2 ^ t.mbits ≠ 0) :
    Represented t (2 ^ t.mbits + c % 2 ^ t.mbits) (t.qmin + (c / 2 ^ t.mbits - 1 : Nat)) where
  nonzero := by have := Nat.two_pow_pos t.mbits; omega
  short := by
    have := Nat.mod_lt c (Nat.two_pow_pos t.mbits)
    rw [Nat.pow_succ']
    omega
  least := by omega
  normal := .inr (Nat.le_add_right ..)
  finite := by
    have hdiv : c / 2 ^ t.mbits ≤ t.maxCode / 2 ^ t.mbits := Nat.div_le_div_right hmax
    unfold maxExp maxMant
    rcases Nat.lt_or_eq_of_le hdiv with hlt | heq
    · generalize c / 2 ^ t.mbits = ex, t.maxCode / 2 ^ t.mbits = top at *
      exact .inl (by omega)
    · refine .inr ⟨by rw [heq], Nat.add_le_add_left ?_ _⟩
      have hc := Nat.div_add_mod c (2 ^ t.mbits)
      have hm := Nat.div_add_mod t.maxCode (2 ^ t.mbits)
      rw [heq] at hc
      omega

/-- R23, R24, R33 to R36: rounding gives back the code of a value that the type represents, with no flag. -/
theorem roundF_decodeNum {t : ETy} (hf : t.isFloat = true) (rm : RM) {n : Nat} (hn : n < 2 ^ t.bits) :
    roundF t rm (decodeNum t n) = if decodeNum t n = .nan then (t.nanCode, 0) else (n, 0) := by
  have hsigned := signed_fields t hn
  have hc : n % t.signBit < t.signBit := Nat.mod_lt _ (Nat.two_pow_pos _)
  simp only [decodeNum, hf, if_true]
  generalize decide (n % (2 * t.signBit) ≥ t.signBit) = neg at hsigned ⊢
  generalize n % t.signBit = c at hsigned hc ⊢
  have hfields := Nat.div_add_mod c (2 ^ t.mbits)
  have hfr : c % 2 ^ t.mbits < 2 ^ t.mbits := Nat.mod_lt _ (Nat.two_pow_pos _)
  split
  · next hinf =>
    simp only [Bool.and_eq_true, beq_iff_eq] at hinf
    obtain ⟨hhas, hex⟩ := hinf
    split
    · next hzero =>
      have hcode : t.infCode = c := by rw [hzero, hex, Nat.add_zero, Nat.mul_comm] at hfields; exact hfields
      simp [Machine.roundF, hhas, hcode, hsigned]
    · simp [Machine.roundF]
  · next hinf =>
    split
    · simp [Machine.roundF]
    · next hnan =>
      split
      · next hex =>
        have hcode : c % 2 ^ t.mbits = c := by rw [hex, Nat.mul_zero, Nat.zero_add] at hfields; exact hfields
        by_cases h0 : c % 2 ^ t.mbits = 0
        · rw [hcode] at h0
          subst h0
          simp [Machine.roundF, hsigned]
        · rw [(represented_subnormal hf hfr h0).roundF, if_neg nofun]
          simp [hcode, hsigned]
      · next hex =>
        have hmax := code_le_maxCode hf hc (Bool.eq_false_iff.mpr hinf) (Bool.eq_false_iff.mpr hnan)
        have hcode : (c / 2 ^ t.mbits - 1) * 2 ^ t.mbits + (2 ^ t.mbits + c % 2 ^ t.mbits) = c := by
          rw [← Nat.add_assoc, ← Nat.succ_mul, Nat.succ_eq_add_one, Nat.sub_add_cancel (Nat.pos_of_ne_zero hex),
            Nat.mul_comm, hfields]
        rw [(represented_normal hmax hex).roundF, if_neg nofun, add_sub_cancel_left, Int.toNat_natCast, hcode, hsigned]

/-- Settles O26: lanes are the digits of the number that a row packs, and a code's fields give a value that rounding
leaves as it is. -/
theorem rowsMergeAndRound : Obligations.RowsMergeAndRound := by
  unfold Obligations.RowsMergeAndRound
  refine ⟨⟨?_, fun ty r r' h => row_ext_lanes ty h, mem_laneFlags⟩, fun ty rm n hf hn => roundF_decodeNum hf rm hn⟩
  intro ty g old new i hlen hi
  exact laneOf_mergeLanes ty g old new (hlen ▸ hi) hi
end Sys2Proof.Machine
end

section
/-! ### Bytes of memory after several writes (R2) -/
namespace Sys2Proof.Machine

theorem readBytes_append (m : List Host.Cell) (a i j : Nat) :
    readBytes m a (i + j) = readBytes m a i ++ readBytes m (a + i) j := by
  induction i generalizing a with
  | zero => simp [readBytes]
  | succ i ih =>
    rw [Nat.succ_add, readBytes, readBytes, ih, List.cons_append, Nat.add_assoc a 1 i, Nat.add_comm 1 i]

theorem length_flatMap_range {f : Nat → List Byte} {c : Nat} (hf : ∀ i, (f i).length = c) (n : Nat) :
    ((List.range n).flatMap f).length = n * c := by
  simp [List.length_flatMap, hf]

/-- Piece i of a range of memory that holds n pieces of c bytes. -/
theorem readBytes_piece {m : List Host.Cell} {a n c i : Nat} {f : Nat → List Byte} (hf : ∀ i, (f i).length = c)
    (h : readBytes m a (n * c) = (List.range n).flatMap f) (hi : i < n) : readBytes m (a + c * i) c = f i := by
  induction n with
  | zero => exact absurd hi (Nat.not_lt_zero i)
  | succ n ih =>
    rw [Nat.succ_mul, readBytes_append, List.range_succ, List.flatMap_append, List.flatMap_singleton] at h
    obtain ⟨hinit, hlast⟩ := List.append_inj h (by rw [readBytes_length, length_flatMap_range hf])
    rcases Nat.lt_succ_iff_lt_or_eq.mp hi with hlt | rfl
    · exact ih hinit hlt
    · rw [Nat.mul_comm, hlast]

/-- R2: a bit vector of k bytes stored and loaded. -/
theorem ofNat_leNat_natLe (k : Nat) (x : BitVec (8 * k)) : BitVec.ofNat (8 * k) (leNat (natLe k x.toNat)) = x := by
  have hx : x.toNat < 256 ^ k := by
    rw [show (256 : Nat) = 2 ^ 8 from rfl, ← Nat.pow_mul]
    exact x.isLt
  rw [leNat_natLe, Nat.mod_eq_of_lt hx, BitVec.ofNat_toNat, BitVec.setWidth_eq]
theorem leWord_wordLe (w : Word) : leWord (wordLe w) = w := ofNat_leNat_natLe 8 w
theorem leRow_rowLe (r : Row) : leRow (rowLe r) = r := ofNat_leNat_natLe 512 r

/-- Writes at offsets from b, one after another. -/
def State.memWrites (s : State) (b : Nat) (l : List (Nat × List Byte)) : State :=
  l.foldl (fun s x => s.memWrite (b + x.1) x.2) s

theorem memRead_memWrite_outside (s : State) (a b n : Nat) (bs : List Byte) (h : b + n ≤ a ∨ a + bs.length ≤ b) :
    (s.memWrite a bs).memRead b n = s.memRead b n := readBytes_writeBytes_outside _ _ _ _ _ h
theorem memRead_memWrite_same (s : State) (a : Nat) (bs : List Byte) : (s.memWrite a bs).memRead a bs.length = bs :=
  readBytes_writeBytes_same _ _ _

theorem memRead_memWrites_below {b o n : Nat} {l : List (Nat × List Byte)} (h : ∀ y ∈ l, o + n ≤ y.1) (s : State) :
    (s.memWrites b l).memRead (b + o) n = s.memRead (b + o) n := by
  induction l generalizing s with
  | nil => rfl
  | cons y t ih =>
    have hy := h y (List.mem_cons_self ..)
    rw [State.memWrites, List.foldl_cons]
    exact (ih (fun z hz => h z (List.mem_cons_of_mem _ hz)) _).trans
      (memRead_memWrite_outside _ _ _ _ _ (.inl (by omega)))

/-- Of writes in ascending order that do not meet, each one's bytes can be read. -/
theorem memRead_memWrites {b : Nat} {l : List (Nat × List Byte)} (hl : l.Pairwise (fun x y => x.1 + x.2.length ≤ y.1))
    {x : Nat × List Byte} (hx : x ∈ l) (s : State) : (s.memWrites b l).memRead (b + x.1) x.2.length = x.2 := by
  induction l generalizing s with
  | nil => nomatch hx
  | cons y t ih =>
    obtain ⟨hy, ht⟩ := List.pairwise_cons.mp hl
    rcases List.mem_cons.mp hx with rfl | hmem
    · exact (memRead_memWrites_below hy _).trans (memRead_memWrite_same ..)
    · exact ih ht hmem _

theorem mget_listMap_range {α : Type} [DecidableEq α] (d : α) {g : Nat → Nat} (hg : Function.Injective g) (f : Nat → α)
    {n i : Nat} (hi : i < n) : mget d (listMap d ((List.range n).map (fun i => (g i, f i)))) (g i) = f i := by
  induction n with
  | zero => exact absurd hi (Nat.not_lt_zero i)
  | succ n ih =>
    unfold listMap at ih ⊢
    rw [List.range_succ, List.map_append, List.foldl_append]
    simp only [List.map_cons, List.map_nil, List.foldl_cons, List.foldl_nil, mget_mset, hg.eq_iff]
    split
    · next heq => rw [heq]
    · next hne => exact ih (by omega)

end Sys2Proof.Machine
end
section
/-! ### The register image (R364) -/
namespace Sys2Proof.Machine

theorem wordLe_length (w : Word) : (wordLe w).length = 8 := natLe_length ..
theorem rowLe_length (r : Row) : (rowLe r).length = 512 := natLe_length ..
theorem padTo_length (n : Nat) (bs : List Byte) : (padTo n bs).length = n := by
  unfold padTo
  rw [List.length_append, List.length_take, List.length_replicate]
  omega
theorem strmImage_length (t : Option Strm) : (strmImage t).length = 64 := by
  rcases t with _ | t
  · exact natLe_length ..
  · rw [strmImage, List.length_append, length_flatMap_range fun i => wordLe_length (t.w i), natLe_length]
theorem ringImage_length (g : Option Ring) : (ringImage g).length = 64 := by
  rcases g with _ | g
  · exact natLe_length ..
  · exact padTo_length ..
theorem seqImage_length (q : Option SeqCur) : (seqImage q).length = 64 := by
  rcases q with _ | q
  · exact natLe_length ..
  · exact padTo_length ..

/-- R364: the parts of the image stand one after another. -/
theorem imageOf_ascending (s : State) (k : Nat) : (imageOf s k).Pairwise (fun x y => x.1 + x.2.length ≤ y.1) := by
  have hwords (f : Nat → Word) := length_flatMap_range (fun i => wordLe_length (f i))
  have hrows := length_flatMap_range (fun i => rowLe_length ((s.role k).v i)) 128
  have hpreds := length_flatMap_range (fun i => natLe_length 64 ((s.role k).p i).toNat) 128
  have hpad (n : Nat) (f : Nat → List Byte) := length_flatMap_range (fun i => padTo_length n (f i)) 8
  have hcounts := length_flatMap_range (fun q => natLe_length 1 (qVals (s.role k) q).length) 16
  have hstrms := length_flatMap_range (fun n => strmImage_length ((s.role k).strm? n)) 16
  have hrings := length_flatMap_range (fun n => ringImage_length ((s.role k).ring? n)) 32
  have hbars := length_flatMap_range (f := fun l => natLe 4 (mget 0 (s.role k).barA l) ++ natLe 4 (mget 0 (s.role k).barW l))
    (fun l => by rw [List.length_append, natLe_length, natLe_length]) 8
  simp only [imageOf, List.pairwise_cons, List.forall_mem_cons, hwords, hrows, hpreds, hpad, hcounts, hstrms, hrings, hbars]
  simp [natLe_length]

/-- The image of the registers, as RESTORE reads them: what the memory from b on holds of role r. -/
structure HoldsRegs (m : List Host.Cell) (b : Nat) (r : Role) : Prop where
  vs : ∀ n, n < 128 → readBytes m (b + 512 * n) 512 = rowLe (r.v n)
  ps : ∀ n, n < 128 → readBytes m (b + 0x10000 + 64 * n) 64 = natLe 64 (r.p n).toNat
  xs : ∀ n, n < 32 → readBytes m (b + 0x16400 + 8 * n) 8 = wordLe (r.x n)
  csrs : ∀ n, n < 128 → readBytes m (b + 0x16600 + 8 * n) 8 = wordLe (csrVal r n)

theorem holdsRegs_of_image (s t : State) (k b : Nat) : HoldsRegs (s.memWrites b (imageOf t k)).mem b (t.role k) := by
  have hread {o : Nat} {f : Nat → List Byte} {n c i : Nat} (hf : ∀ i, (f i).length = c)
      (hmem : (o, (List.range n).flatMap f) ∈ imageOf t k) (hi : i < n) :
      readBytes (s.memWrites b (imageOf t k)).mem (b + o + c * i) c = f i := by
    have hwhole := memRead_memWrites (b := b) (imageOf_ascending t k) hmem s
    simp only [length_flatMap_range hf] at hwhole
    exact readBytes_piece hf hwhole hi
  exact {
    vs := fun n hn => hread (o := 0) (fun i => rowLe_length ((t.role k).v i)) (by simp [imageOf]) hn
    ps := fun n hn => hread (fun i => natLe_length 64 ((t.role k).p i).toNat) (by simp [imageOf]) hn
    xs := fun n hn => hread (fun i => wordLe_length ((t.role k).x i)) (by simp [imageOf]) hn
    csrs := fun n hn => hread (fun i => wordLe_length (csrVal (t.role k) i)) (by simp [imageOf]) hn }

end Sys2Proof.Machine
end
section
/-! ### What SWITCHOUT leaves alone (R365) -/
namespace Sys2Proof.Machine

/-- What RESTORE checks of the machine stays as it was: address spaces, ports, the partitions' records, and that there is no
new poison. -/
structure SameChecks (s t : State) : Prop where
  asids : t.asids = s.asids
  ports : t.ports = s.ports
  record : ∀ p, (t.partOr p).record = (s.partOr p).record
  poison : ∀ g ∈ t.poison, g ∈ s.poison

namespace SameChecks
theorem trans {s t u : State} (h : SameChecks s t) (h' : SameChecks t u) : SameChecks s u where
  asids := h'.asids.trans h.asids
  ports := h'.ports.trans h.ports
  record p := (h'.record p).trans (h.record p)
  poison g hg := h.poison g (h'.poison g hg)

/-- A step outside address spaces, ports, partitions and poison. -/
theorem of_fields {s t : State} (ha : t.asids = s.asids) (hp : t.ports = s.ports) (hr : t.parts = s.parts)
    (hg : t.poison = s.poison) : SameChecks s t where
  asids := ha
  ports := hp
  record p := by rw [State.partOr, hr]; rfl
  poison g h := hg ▸ h

theorem refl (s : State) : SameChecks s s := of_fields rfl rfl rfl rfl
end SameChecks

theorem mem_of_mem_foldl_lremove {g : Nat} (gs l : List Nat) (h : g ∈ gs.foldl lremove l) : g ∈ l := by
  induction gs generalizing l with
  | nil => exact h
  | cons x t ih => exact List.mem_of_mem_filter (ih _ h)

theorem sameChecks_memWrite (s : State) (a : Nat) (bs : List Byte) : SameChecks s (s.memWrite a bs) where
  asids := rfl
  ports := rfl
  record _ := rfl
  poison _ hg := mem_of_mem_foldl_lremove _ _ hg
theorem sameChecks_setRole (s : State) (k : Nat) (r : Role) : SameChecks s (s.setRole k r) := .of_fields rfl rfl rfl rfl
theorem sameChecks_setCore (s : State) (c : Nat) (x : CoreSt) : SameChecks s (s.setCore c x) := .of_fields rfl rfl rfl rfl
theorem sameChecks_dropReports (s : State) (k : Nat) : SameChecks s (dropReports s k) := .of_fields rfl rfl rfl rfl

theorem sameChecks_memWrites (s : State) (b : Nat) (l : List (Nat × List Byte)) : SameChecks s (s.memWrites b l) := by
  induction l generalizing s with
  | nil => exact .refl s
  | cons x t ih => exact (sameChecks_memWrite ..).trans (ih _)

theorem partOr_setPart (s : State) (p q : Nat) (x : Part) : (s.setPart p x).partOr q = if q = p then x else s.partOr q :=
  mget_mput ..

/-- A partition is written back with its record as it was. -/
theorem sameChecks_setPart {s : State} {p : Nat} {x : Part} (hx : x.record = (s.partOr p).record) : SameChecks s (s.setPart p x) where
  asids := rfl
  ports := rfl
  record q := by
    rw [partOr_setPart]
    split
    · next heq => rw [hx, heq]
    · rfl
  poison _ hg := hg

theorem mget_of_mfind {α : Type} {d v : α} {m : SMap α} {k : Nat} (h : mfind m k = some v) : mget d m k = v := by
  induction m with
  | nil => nomatch h
  | cons x t ih =>
    rw [mfind] at h
    rw [mget]
    split at h
    · next heq => rw [if_pos heq]; exact Option.some.inj h
    · next hne => rw [if_neg hne]; exact ih h

/-- modLaunch changes launches of one partition, or nothing. -/
theorem modLaunch_cases (s : State) (pn lid : Nat) (f : Launch → Launch) :
    s.modLaunch pn lid f = s ∨ ∃ ls, s.modLaunch pn lid f = s.setPart pn { s.partOr pn with launches := ls } := by
  unfold State.modLaunch
  split
  · exact .inl rfl
  · next p hp => exact .inr ⟨_, by rw [State.partOr, mget_of_mfind hp]⟩

theorem sameChecks_modLaunch (s : State) (pn lid : Nat) (f : Launch → Launch) : SameChecks s (s.modLaunch pn lid f) := by
  rcases modLaunch_cases s pn lid f with h | ⟨ls, h⟩ <;> rw [h]
  · exact .refl s
  · exact sameChecks_setPart rfl
@[simp] theorem modLaunch_roles (s : State) (pn lid : Nat) (f : Launch → Launch) : (s.modLaunch pn lid f).roles = s.roles := by
  rcases modLaunch_cases s pn lid f with h | ⟨ls, h⟩ <;> rw [h]
  rfl
@[simp] theorem modLaunch_mem (s : State) (pn lid : Nat) (f : Launch → Launch) : (s.modLaunch pn lid f).mem = s.mem := by
  rcases modLaunch_cases s pn lid f with h | ⟨ls, h⟩ <;> rw [h]
  rfl

/-- preemptDone changes launches of one partition, or nothing. -/
theorem preemptDone_cases (s : State) (pn lid : Nat) :
    preemptDone s pn lid = s ∨ ∃ ls, preemptDone s pn lid = s.setPart pn { s.partOr pn with launches := ls } := by
  unfold preemptDone
  split
  · exact .inl rfl
  · split
    · exact .inl rfl
    · split
      · exact modLaunch_cases ..
      · exact .inr ⟨_, rfl⟩

theorem sameChecks_preemptDone (s : State) (pn lid : Nat) : SameChecks s (preemptDone s pn lid) := by
  rcases preemptDone_cases s pn lid with h | ⟨ls, h⟩ <;> rw [h]
  · exact .refl s
  · exact sameChecks_setPart rfl
@[simp] theorem preemptDone_roles (s : State) (pn lid : Nat) : (preemptDone s pn lid).roles = s.roles := by
  rcases preemptDone_cases s pn lid with h | ⟨ls, h⟩ <;> rw [h]
  rfl
@[simp] theorem preemptDone_mem (s : State) (pn lid : Nat) : (preemptDone s pn lid).mem = s.mem := by
  rcases preemptDone_cases s pn lid with h | ⟨ls, h⟩ <;> rw [h]
  rfl

/-- Values of a map changed alike, where the change leaves g alone. -/
theorem mget_map_apply {α β : Type} {d : α} {f : α → α} {g : α → β} (hf : ∀ x, g (f x) = g x) (m : SMap α) (k : Nat) :
    g (mget d (m.map (fun p => (p.1, f p.2))) k) = g (mget d m k) := by
  induction m with
  | nil => rfl
  | cons x t ih =>
    simp only [List.map_cons, mget]
    split
    · exact hf _
    · exact ih

theorem sameChecks_forgetSends (s : State) (k : Nat) : SameChecks s (forgetSends s k) where
  asids := rfl
  ports := rfl
  record p := by
    unfold State.partOr forgetSends
    exact mget_map_apply (g := Part.record)
      (f := fun p => { p with spawns := p.spawns.map (fun x => if x.key = k then { x with after := [] } else x) })
      (fun _ => rfl) s.parts p
  poison _ hg := hg

theorem emptyRecord_cases (s : State) (k : Nat) : ∃ tab, s.emptyRecord k = { s with slotTab := tab } := by
  unfold State.emptyRecord
  split
  · exact ⟨_, rfl⟩
  · exact ⟨s.slotTab, rfl⟩

theorem sameChecks_clearSlot (s : State) (k : Nat) : SameChecks s (clearSlot s k) := by
  obtain ⟨tab, htab⟩ := emptyRecord_cases ((endSpan (forgetSends s k) k).setRole k
    { Role.reset with blk := (s.role k).blk, err := (s.role k).err }) k
  rw [clearSlot, htab]
  exact (sameChecks_forgetSends s k).trans (.of_fields rfl rfl rfl rfl)
theorem clearSlot_roles (s : State) (k : Nat) :
    (clearSlot s k).roles = mput s.roles k { Role.reset with blk := (s.role k).blk, err := (s.role k).err } := by
  obtain ⟨tab, htab⟩ := emptyRecord_cases ((endSpan (forgetSends s k) k).setRole k
    { Role.reset with blk := (s.role k).blk, err := (s.role k).err }) k
  rw [clearSlot, htab]
  rfl
theorem clearSlot_role (s : State) (k : Nat) :
    (clearSlot s k).role k = { Role.reset with blk := (s.role k).blk, err := (s.role k).err } := by
  rw [State.role, clearSlot_roles, mget_mput_same]
@[simp] theorem clearSlot_mem (s : State) (k : Nat) : (clearSlot s k).mem = s.mem := by
  obtain ⟨tab, htab⟩ := emptyRecord_cases ((endSpan (forgetSends s k) k).setRole k
    { Role.reset with blk := (s.role k).blk, err := (s.role k).err }) k
  rw [clearSlot, htab]
  rfl

/-- What a write of the cursor's place in save areas (R221) may change: no byte of an area before that place. -/
structure CursorWrites (s t : State) : Prop where
  checks : SameChecks s t
  roles : t.roles = s.roles
  mem : ∀ b o n, b % 2 ^ 17 = 0 → o + n ≤ 0x17680 → readBytes t.mem (b + o) n = readBytes s.mem (b + o) n

/-- Save areas stand 2^17 bytes apart. -/
theorem saveBase_aligned {s : State} {part : Nat} {a : Word} (h : saveOk s part a = true) : saveBase a % 2 ^ 17 = 0 := by
  simp only [saveOk, Bool.and_eq_true, decide_eq_true_eq] at h
  exact h.1.1

theorem cursorWrites_memWrite {s : State} {part : Nat} {a : Word} {img : List Byte} (ha : saveOk s part a = true)
    (himg : img.length = 64) : CursorWrites s (s.memWrite (saveBase a + 0x17680) img) where
  checks := sameChecks_memWrite ..
  roles := rfl
  mem b o n hb hn := by
    have hbase := saveBase_aligned ha
    exact memRead_memWrite_outside _ _ _ _ _ (by omega)

theorem cursorWrites_fold {part : Nat} {img : List Byte} (himg : img.length = 64) (out : List Swapped) (s : State) :
    CursorWrites s (out.foldl (fun s w => if saveOk s part w.save then s.memWrite (saveBase w.save + 0x17680) img else s) s) := by
  induction out generalizing s with
  | nil => exact ⟨.refl s, rfl, fun _ _ _ _ _ => rfl⟩
  | cons w t ih =>
    rw [List.foldl_cons]
    split
    · next hok =>
      have hw := cursorWrites_memWrite hok himg
      have ht := ih (s.memWrite (saveBase w.save + 0x17680) img)
      exact ⟨hw.checks.trans ht.checks, ht.roles.trans hw.roles, fun b o n hb hn => (ht.mem b o n hb hn).trans (hw.mem b o n hb hn)⟩
    · exact ih s

theorem cursorWrites_dropCursor (s : State) (core part lid : Nat) : CursorWrites s (dropCursor s core part lid) := by
  unfold dropCursor
  split
  · exact ⟨.refl s, rfl, fun _ _ _ _ _ => rfl⟩
  · have hfold := fun l => cursorWrites_fold (part := part) (seqImage_length ((s.core core).cursor? part lid)) l s
    exact ⟨(hfold _).checks.trans (sameChecks_setCore ..), (hfold _).roles, (hfold _).mem⟩

end Sys2Proof.Machine
end
section
/-! ### The registers of a role through SWITCHOUT and RESTORE (R364 to R366) -/
namespace Sys2Proof.Machine

/-- The registers of r' are those of r: nothing differs but what a role has in flight and its stop. -/
def SameRegs (r r' : Role) : Prop :=
  r' = { r with acc := r'.acc, copies := r'.copies, qs := r'.qs, nest := r'.nest, owed := r'.owed, drainSlot := r'.drainSlot,
                nextId := r'.nextId, stop := r'.stop }

theorem SameRegs.trans {a b c : Role} (h : SameRegs a b) (h' : SameRegs b c) : SameRegs a c := by
  unfold SameRegs at h h' ⊢
  rw [h] at h'
  exact h'

/-- A register is the same, as any function of a role that ignores what it has in flight and its stop. -/
theorem SameRegs.eq {α : Type} {r r' : Role} (h : SameRegs r r') (f : Role → α)
    (hf : ∀ acc copies qs nest owed drain next stop,
      f { r with acc := acc, copies := copies, qs := qs, nest := nest, owed := owed, drainSlot := drain, nextId := next,
                 stop := stop } = f r := by intros; rfl) : f r' = f r :=
  (congrArg f h).trans (hf ..)

theorem sameRegs_dropEntries (r : Role) (es : List (Nat × Nat)) : SameRegs r (dropEntries r es) := by
  induction es generalizing r with
  | nil => rfl
  | cons e t ih =>
    rw [dropEntries, List.foldl_cons]
    refine SameRegs.trans ?_ (ih _)
    split <;> rfl

theorem sameRegs_withKept (r : Role) (w : Swapped) (n : Nat) : SameRegs r (withKept r w n) := by
  unfold withKept
  refine SameRegs.trans ?_ (sameRegs_dropEntries ..)
  rfl

theorem sameRegs_foldLate (s : State) (k : Nat) (i : StopInfo) : SameRegs (s.role k) (foldLate s k i).1 :=
  (sameRegs_dropEntries (s.role k) _).trans rfl

theorem HoldsRegs.of_sameRegs {m : List Host.Cell} {b : Nat} {r r' : Role} (h : SameRegs r r') (hm : HoldsRegs m b r') :
    HoldsRegs m b r := by
  unfold SameRegs at h
  rw [h] at hm
  exact ⟨hm.vs, hm.ps, hm.xs, hm.csrs⟩

theorem HoldsRegs.of_bytes {m m' : List Host.Cell} {b : Nat} {r : Role}
    (h : ∀ o n, o + n ≤ 0x17680 → readBytes m' (b + o) n = readBytes m (b + o) n) (hm : HoldsRegs m b r) : HoldsRegs m' b r := by
  obtain ⟨hv, hp, hx, hc⟩ := hm
  refine ⟨fun n hn => ?_, fun n hn => ?_, fun n hn => ?_, fun n hn => ?_⟩
  · rw [h _ _ (by omega), hv n hn]
  · rw [Nat.add_assoc, h _ _ (by omega), ← Nat.add_assoc, hp n hn]
  · rw [Nat.add_assoc, h _ _ (by omega), ← Nat.add_assoc, hx n hn]
  · rw [Nat.add_assoc, h _ _ (by omega), ← Nat.add_assoc, hc n hn]

theorem sameChecks_addEntries (s : State) (r : Role) (old late : List (Nat × Nat)) : SameChecks s (addEntries s r old late) := by
  unfold addEntries
  split
  · exact .refl s
  · exact (sameChecks_memWrite ..).trans (sameChecks_memWrite ..)
theorem addEntries_roles (s : State) (r : Role) (old late : List (Nat × Nat)) : (addEntries s r old late).roles = s.roles := by
  unfold addEntries
  split
  · rfl
  · rw [State.memWrite_roles, State.memWrite_roles]
theorem memWrites_roles (s : State) (b : Nat) (l : List (Nat × List Byte)) : (s.memWrites b l).roles = s.roles := by
  induction l generalizing s with
  | nil => rfl
  | cons x t ih => exact ih _

/-- R365: what SWITCHOUT does once the image is written: the launch takes note, and the slot is FREE. -/
def vacate (s : State) (k pn lid : Nat) (f : Launch → Launch) : State :=
  preemptDone (dropReports (dropCursor ((clearSlot (s.modLaunch pn lid f) k).modRoleAt k
    (fun r => { r with err := 0, busy := false })) (k / 4) pn lid) k) pn lid

theorem vacate_checks (s : State) (k pn lid : Nat) (f : Launch → Launch) : SameChecks s (vacate s k pn lid f) := by
  have hcleared := (sameChecks_modLaunch s pn lid f).trans (sameChecks_clearSlot _ k)
  refine SameChecks.trans ?_ (sameChecks_preemptDone ..)
  refine SameChecks.trans ?_ (sameChecks_dropReports ..)
  refine SameChecks.trans ?_ (cursorWrites_dropCursor ..).checks
  exact hcleared.trans (sameChecks_setRole ..)

theorem vacate_role (s : State) (k pn lid : Nat) (f : Launch → Launch) :
    (vacate s k pn lid f).role k = { Role.reset with blk := (s.role k).blk } := by
  have hlaunch : (s.modLaunch pn lid f).role k = s.role k := by rw [State.role, modLaunch_roles, State.role]
  unfold vacate State.role
  rw [preemptDone_roles]
  change mget Role.reset (dropCursor _ _ _ _).roles k = _
  rw [(cursorWrites_dropCursor ..).roles, State.modRoleAt, State.setRole_roles, mget_mput_same, clearSlot_role, hlaunch]
  rfl

theorem vacate_bytes (s : State) (k pn lid : Nat) (f : Launch → Launch) {b : Nat} (hb : b % 2 ^ 17 = 0) (o n : Nat)
    (hn : o + n ≤ 0x17680) : readBytes (vacate s k pn lid f).mem (b + o) n = readBytes s.mem (b + o) n := by
  unfold vacate
  rw [preemptDone_mem]
  refine ((cursorWrites_dropCursor ..).mem b o n hb hn).trans ?_
  rw [State.modRoleAt, State.setRole_mem, clearSlot_mem, modLaunch_mem]

/-- R365: the state with the image of role k written, and before that the entries of late faults. -/
def imaged (s : State) (k : Nat) (x : Role × List (Nat × Nat) × List (Nat × Nat)) : State :=
  let t := addEntries (s.setRole k x.1) x.1 x.2.1 x.2.2
  t.memWrites (saveBase x.1.save) (imageOf t k)

theorem switchRole_eq (s : State) (k : Nat) (i : StopInfo) :
    ∃ f, switchRole s k i = vacate (imaged s k (foldLate s k i)) k (foldLate s k i).1.part.toNat (foldLate s k i).1.lid.toNat f :=
  ⟨_, rfl⟩

theorem imaged_checks (s : State) (k : Nat) (x : Role × List (Nat × Nat) × List (Nat × Nat)) : SameChecks s (imaged s k x) :=
  ((sameChecks_setRole s k x.1).trans (sameChecks_addEntries ..)).trans (sameChecks_memWrites ..)
theorem addEntries_setRole_role (s : State) (k : Nat) (r : Role) (old late : List (Nat × Nat)) :
    (addEntries (s.setRole k r) r old late).role k = r := by
  rw [State.role, addEntries_roles]
  exact role_setRole_same ..
theorem imaged_role (s : State) (k : Nat) (x : Role × List (Nat × Nat) × List (Nat × Nat)) : (imaged s k x).role k = x.1 := by
  rw [imaged, State.role, memWrites_roles]
  exact addEntries_setRole_role ..
theorem imaged_holds (s : State) (k : Nat) (x : Role × List (Nat × Nat) × List (Nat × Nat)) :
    HoldsRegs (imaged s k x).mem (saveBase x.1.save) x.1 := by
  have h := holdsRegs_of_image (addEntries (s.setRole k x.1) x.1 x.2.1 x.2.2) (addEntries (s.setRole k x.1) x.1 x.2.1 x.2.2) k
    (saveBase x.1.save)
  rw [addEntries_setRole_role] at h
  exact h

/-- R365: a role switched out leaves its slot FREE with its control block, its image in its save area, and what RESTORE checks
as it was. -/
theorem switchRole_spec (s : State) (k : Nat) (i : StopInfo) (hsave : saveOk s (s.role k).part.toNat (s.role k).save = true) :
    SameChecks s (switchRole s k i) ∧ (switchRole s k i).role k = { Role.reset with blk := (s.role k).blk } ∧
    HoldsRegs (switchRole s k i).mem (saveBase (s.role k).save) (s.role k) := by
  obtain ⟨f, hf⟩ := switchRole_eq s k i
  have hregs := sameRegs_foldLate s k i
  rw [hf, ← hregs.eq Role.save, ← hregs.eq Role.blk]
  generalize foldLate s k i = x at hregs
  refine ⟨(imaged_checks s k x).trans (vacate_checks ..), ?_, ?_⟩
  · rw [vacate_role, imaged_role]
  · have hbase : saveBase x.1.save % 2 ^ 17 = 0 := by
      rw [hregs.eq Role.save]
      exact saveBase_aligned hsave
    exact ((imaged_holds s k x).of_bytes (vacate_bytes _ _ _ _ _ hbase)).of_sameRegs hregs

/-- R366: what RESTORE takes from the image. -/
structure FromImage (s : State) (b : Nat) (r : Role) : Prop where
  st : r.st = .stopped
  xs : r.xs = listMap 0 ((List.range 32).map (fun i => (i, s.memWord (b + 0x16400 + 8 * i))))
  ps : r.ps = listMap 0 ((List.range 127).map (fun i => (i + 1, BitVec.ofNat 512 (memNat s (b + 0x10040 + 64 * i) 64))))
  vs : r.vs = listMap 0 ((List.range 128).map (fun i => (i, leRow (s.memRead (b + 512 * i) 512))))
  flags : r.flags = (s.memWord (b + 0x16600 + 8 * 1)).setWidth 6
  flagen : r.flagen = (s.memWord (b + 0x16600 + 8 * 2)).setWidth 6
  ffrec : r.ffrec = s.memWord (b + 0x16600 + 8 * 3) &&& 0xFFFFFF03FF
  eid : r.eid = (s.memWord (b + 0x16600 + 8 * 5)).setWidth 32

theorem FromImage.of_sameRegs {s : State} {b : Nat} {r r' : Role} (h : SameRegs r r') (hr : FromImage s b r) : FromImage s b r' := by
  unfold SameRegs at h
  rw [h]
  exact ⟨hr.st, hr.xs, hr.ps, hr.vs, hr.flags, hr.flagen, hr.ffrec, hr.eid⟩

theorem fromImage_roleFrom (s : State) (k : Nat) (blk : CtlBlk) (sw : Option Swapped) (l : Option Launch) :
    FromImage s (saveBase blk.save) (roleFrom s k blk sw l) := by
  unfold roleFrom
  extract_lets b rb csr cause n arr rec0 stopCl info r0 r clu bound
  have hbound : FromImage s b bound := by constructor <;> dsimp only [bound, r, csr]
  clear_value bound
  split
  · exact .of_sameRegs (sameRegs_withKept ..) hbound
  · exact ⟨hbound.st, hbound.xs, hbound.ps, hbound.vs, hbound.flags, hbound.flagen, hbound.ffrec, hbound.eid⟩

/-- R366: a RESTORE that nothing refuses binds the role that the image describes, and no other. -/
theorem restoreRole_roles {s : State} {k : Nat} (hfree : (s.role k).st = .free)
    (howns : ownsAsid s (s.role k).blk.part.toNat (s.role k).blk.asid = true)
    (hsave : saveOk s (s.role k).blk.part.toNat (s.role k).blk.save = true)
    (hpoison : memPoisoned s (saveBase (s.role k).blk.save) 0x1D800 = false) :
    let l := s.launch? (s.role k).blk.part.toNat (s.role k).blk.lid.toNat
    (restoreRole s k).roles =
      mput s.roles k (roleFrom s k (s.role k).blk (l.bind (fun l => l.swapped.find? (fun w => w.key = k))) l) := by
  unfold restoreRole
  simp only [hfree, howns, hsave, hpoison, bne_self_eq_false, Bool.not_true, Bool.or_self, Bool.false_eq_true, if_false]
  unfold beginSpan
  split
  · exact modLaunch_roles ..
  · exact modLaunch_roles ..

/-- R364, R366: the registers that RESTORE reads back are those that the image holds. -/
theorem registers_of_image {s : State} {b : Nat} {r r' : Role} (hm : HoldsRegs s.mem b r) (h : FromImage s b r') :
    (∀ n, n < 32 → r'.x n = r.x n) ∧ (∀ n, n < 128 → r'.p n = r.p n) ∧ (∀ n, n < 128 → r'.v n = r.v n) ∧
    r'.flags = r.flags ∧ r'.flagen = r.flagen ∧ r'.ffrec = r.ffrec &&& 0xFFFFFF03FF ∧ r'.eid = r.eid := by
  have hcsr (n : Nat) (hn : n < 128) : s.memWord (b + 0x16600 + 8 * n) = csrVal r n := by
    rw [State.memWord, State.memRead, hm.csrs n hn, leWord_wordLe]
  refine ⟨fun n hn => ?_, fun n hn => ?_, fun n hn => ?_, ?_, ?_, ?_, ?_⟩
  · rw [Role.x, h.xs, mget_listMap_range 0 (g := fun i => i) Function.injective_id _ hn, State.memWord, State.memRead, hm.xs n hn, leWord_wordLe]
  · cases n with
    | zero => rfl
    | succ n =>
      have hplace : b + 0x10040 + 64 * n = b + 0x10000 + 64 * (n + 1) := by omega
      have hp : r'.p (n + 1) = mget 0 r'.ps (n + 1) := if_neg (Nat.succ_ne_zero n)
      rw [hp, h.ps, mget_listMap_range 0 (g := (· + 1)) (add_left_injective 1) _ (by omega), memNat, State.memRead, hplace,
        hm.ps _ hn]
      exact ofNat_leNat_natLe 64 _
  · rw [Role.v, h.vs, mget_listMap_range 0 (g := fun i => i) Function.injective_id _ hn, State.memRead, hm.vs n hn, leRow_rowLe]
  · rw [h.flags, hcsr 1 (by decide)]
    exact BitVec.setWidth_setWidth_of_le _ (by decide)
  · rw [h.flagen, hcsr 2 (by decide)]
    exact BitVec.setWidth_setWidth_of_le _ (by decide)
  · rw [h.ffrec, hcsr 3 (by decide)]
    rfl
  · rw [h.eid, hcsr 5 (by decide)]
    exact BitVec.setWidth_setWidth_of_le _ (by decide)

theorem inWindows_of_sameChecks {s t : State} (h : SameChecks s t) (p : Partition) (pa : Nat) :
    inWindows t p pa = inWindows s p pa := by
  simp only [inWindows, State.port, h.ports]
theorem saveOk_of_sameChecks {s t : State} (h : SameChecks s t) (part : Nat) (a : Word) : saveOk t part a = saveOk s part a := by
  simp only [saveOk, h.record, inWindows_of_sameChecks h]
theorem ownsAsid_of_sameChecks {s t : State} (h : SameChecks s t) (pn : Nat) (a : BitVec 16) : ownsAsid t pn a = ownsAsid s pn a := by
  unfold ownsAsid State.asid
  rw [h.asids]
theorem memPoisoned_of_sameChecks {s t : State} (h : SameChecks s t) {a n : Nat} (hs : memPoisoned s a n = false) :
    memPoisoned t a n = false := by
  simp only [memPoisoned, List.any_eq_false, List.contains_iff_mem] at hs ⊢
  exact fun g hg hmem => hs g hg (h.poison g hmem)

/-- R361: a command of the scheduler core to a slot that is not BUSY acts. -/
theorem command_sched {s : State} {k : Nat} (hbusy : (s.role k).busy = false) (f : State → State) :
    command .sched k s f = f s := by
  simp [command, awake, reachesSlot, hbusy]

/-- R365: the scheduler core switches out a stopped role that may leave, whose record is written and whose copies and links
are at rest. -/
theorem exec_switchout_sched {s : State} {rs : Slot} {i : StopInfo} (hst : (s.role rs.key).st = .stopped)
    (hstop : (s.role rs.key).stop = some i) (hwritten : i.written = true) (hfrozen : (s.role rs.key).frozen = false)
    (hbusy : (s.role rs.key).busy = false) (hcopies : copiesStill s rs.key = true) (hleave : mayLeave s .sched rs.key = true)
    (hlinks : linksEmpty s rs.key = true) (hsave : saveOk s (s.role rs.key).part.toNat (s.role rs.key).save = true) :
    exec (.switchout .sched rs) s = .next (switchRole s rs.key i) := by
  change execSwitchout .sched rs s = _
  simp only [execSwitchout, command_sched hbusy]
  simp [awake, reachesSlot, hst, hstop, hwritten, hfrozen, hbusy, hcopies, hleave, hlinks, hsave]

theorem exec_restore_sched {s : State} {rs : Slot} (hbusy : (s.role rs.key).busy = false) :
    exec (.restore .sched rs) s = .next (restoreRole s rs.key) :=
  congrArg Host.Outcome.next (command_sched hbusy _)

/-- Settles O47: the image in the save area holds the registers, what the launch writes there afterwards is the cursor alone,
and RESTORE finds the checks it makes as they were. -/
theorem switchoutRestoreKeepsRegisters : Obligations.SwitchoutRestoreKeepsRegisters := by
  unfold Obligations.SwitchoutRestoreKeepsRegisters
  intro rs s i r b hst hstop hwritten hfrozen hbusy hcopies hleave hlinks hsave hpoison hvalid hpart hblk
  obtain ⟨hchecks, hrole, hmem⟩ := switchRole_spec s rs.key i hsave
  have hout := exec_switchout_sched hst hstop hwritten hfrozen hbusy hcopies hleave hlinks hsave
  generalize switchRole s rs.key i = u at hchecks hrole hmem hout
  have hublk : (u.role rs.key).blk = r.blk := by rw [hrole]
  have hbsave : r.blk.save = r.save := congrArg CtlBlk.save hblk
  have hbpart : r.blk.part = r.part := congrArg CtlBlk.part hblk
  have hbasid : r.blk.asid = r.asid := congrArg CtlBlk.asid hblk
  have howns : ownsAsid u r.part.toNat r.asid = true := by
    rw [ownsAsid_of_sameChecks hchecks]
    simp [ownsAsid, hvalid, hpart]
  have hback := restoreRole_roles (s := u) (k := rs.key) (by rw [hrole]; rfl)
    (by rw [hublk, hbpart, hbasid]; exact howns)
    (by rw [hublk, hbpart, hbsave]; exact (saveOk_of_sameChecks hchecks ..).trans hsave)
    (by rw [hublk, hbsave]; exact memPoisoned_of_sameChecks hchecks hpoison)
  have himage : FromImage u b ((restoreRole u rs.key).role rs.key) := by
    rw [State.role, hback, mget_mput_same, hublk, ← show saveBase r.blk.save = b from congrArg saveBase hbsave]
    exact fromImage_roleFrom ..
  exact ⟨u, restoreRole u rs.key, hout, exec_restore_sched (by rw [hrole]; rfl), by rw [hrole]; rfl, himage.st,
    registers_of_image hmem himage⟩

end Sys2Proof.Machine
end

section
/-! ### Maps restricted to some of their keys -/
namespace Sys2Proof.Machine

theorem mget_filter_keys {α : Type} (d : α) (keep : Nat → Bool) (m : SMap α) (k : Nat) :
    mget d (m.filter (fun x => keep x.1)) k = if keep k then mget d m k else d := by
  induction m with
  | nil => simp [mget]
  | cons x t ih =>
    rw [List.filter_cons]
    by_cases hx : x.1 = k
    · subst hx
      cases hk : keep x.1 <;> simp [mget, ih, hk]
    · cases keep x.1 <;> simp [mget, ih, hx]

theorem mfind_mdel_same {α : Type} (m : SMap α) (k : Nat) : mfind (mdel m k) k = none := by
  induction m with
  | nil => rfl
  | cons x t ih =>
    rw [mdel]
    split
    · exact ih
    · next hne => rw [mfind, if_neg hne, ih]

end Sys2Proof.Machine
end
section
/-! ### A service core as a master of registers (R361, R375, R385) -/
namespace Sys2Proof.Machine

/-- Nothing differs but the service cores' own state, and each is frozen as it was. -/
def OnlyQueues (s t : State) : Prop := t = { s with svcs := t.svcs } ∧ ∀ n, (t.svc n).frozen = (s.svc n).frozen

theorem OnlyQueues.refl (s : State) : OnlyQueues s s := ⟨rfl, fun _ => rfl⟩
theorem OnlyQueues.trans {s t u : State} (h : OnlyQueues s t) (h' : OnlyQueues t u) : OnlyQueues s u := by
  refine ⟨?_, fun n => (h'.2 n).trans (h.2 n)⟩
  have hu := h'.1
  rw [h.1] at hu
  exact hu

theorem svc_setSvc (s : State) (n m : Nat) (v : Svc) : (s.setSvc n v).svc m = if m = n then v else s.svc m := mget_mput ..
@[simp] theorem svc_setSvc_same (s : State) (n : Nat) (v : Svc) : (s.setSvc n v).svc n = v := mget_mput_same ..
theorem svc_setSvc_other (s : State) {n m : Nat} (v : Svc) (h : m ≠ n) : (s.setSvc n v).svc m = s.svc m := mget_mput_other _ _ _ _ _ h

theorem onlyQueues_setSvc {s : State} {n : Nat} {v : Svc} (h : v.frozen = (s.svc n).frozen) : OnlyQueues s (s.setSvc n v) := by
  refine ⟨rfl, fun m => ?_⟩
  rw [svc_setSvc]
  split
  · next heq => rw [h, heq]
  · rfl

theorem onlyQueues_postSvc (s : State) (n : Nat) (e : Word) : OnlyQueues s (s.postSvc n e) := by
  unfold State.postSvc
  simp only
  split
  · exact onlyQueues_setSvc rfl
  · exact onlyQueues_setSvc rfl

theorem onlyQueues_fold {α : Type} {f : State → α → State} (hf : ∀ s x, OnlyQueues s (f s x)) (l : List α) (s : State) :
    OnlyQueues s (l.foldl f s) := by
  induction l generalizing s with
  | nil => exact .refl s
  | cons x t ih => exact (hf s x).trans (ih _)

theorem onlyQueues_notice (s : State) (part core code low lid : Nat) : OnlyQueues s (s.notice part core code low lid) := by
  unfold State.notice
  split
  · exact .refl s
  · exact onlyQueues_postSvc ..

/-- R385: the log holds the violation last. -/
theorem getLast?_logViol (s : State) (kind who : Nat) (a : Word) :
    (s.logViol kind who a).viols.getLast? = some { kind := kind, who := who, addr := a } := by
  unfold State.logViol
  rw [List.getLast?_drop, if_neg (by rw [List.length_append, List.length_singleton]; omega), List.getLast?_concat]

/-- R385: service core n has violated at a: that is logged and n is frozen, and nothing else has changed but stop queues. -/
structure Violated (s : State) (n : Nat) (a : Word) (t : State) : Prop where
  only : t = { s with svcs := t.svcs, viols := (s.logViol 1 n a).viols }
  frozen : (t.svc n).frozen = true

theorem Violated.of_onlyQueues {s t u : State} {n : Nat} {a : Word} (h : Violated s n a t) (hu : OnlyQueues t u) :
    Violated s n a u where
  only := by
    have hu := hu.1
    rw [h.only] at hu
    exact hu
  frozen := (hu.2 n).trans h.frozen

theorem violated_setSvc (s : State) (n : Nat) (a : Word) {v : Svc} (hv : v.frozen = true) :
    Violated s n a ((s.logViol 1 n a).setSvc n v) where
  only := rfl
  frozen := by rw [svc_setSvc_same, hv]

theorem violate_svc (s : State) (n : Nat) (a : Word) : Violated s n a (violate s (.svc n) a) := by
  have hlogged := violated_setSvc s n a (v := { (s.logViol 1 n a).svc n with frozen := true, queue := [], waiting := [] }) rfl
  unfold violate
  simp only
  split
  · exact hlogged
  · split
    · exact hlogged.of_onlyQueues (onlyQueues_fold (fun s e => onlyQueues_postSvc s _ e) _ _)
    · exact hlogged

/-- R385: a write that is refused is not performed, is logged, and freezes the service core. -/
def Refuses (n addr : Nat) (i : Instr) (s : State) : Prop :=
  ∃ u, exec i s = .next u ∧ (u.svc n).frozen = true ∧
    u.viols.getLast? = some { kind := 1, who := n, addr := BitVec.ofNat 64 addr } ∧ u = { s with svcs := u.svcs, viols := u.viols }

theorem refuses_of_violate {n addr : Nat} {i : Instr} {s : State}
    (h : exec i s = .next (violate s (.svc n) (BitVec.ofNat 64 addr))) : Refuses n addr i s := by
  have hv := violate_svc s n (BitVec.ofNat 64 addr)
  generalize violate s (.svc n) (BitVec.ofNat 64 addr) = u at h hv
  have hviols : u.viols = (s.logViol 1 n (BitVec.ofNat 64 addr)).viols := by rw [hv.only]
  exact ⟨u, h, hv.frozen, hviols ▸ getLast?_logViol .., hviols ▸ hv.only⟩

theorem asidOwner_own {s : State} {a pn : Nat} (hv : (s.asid a).valid = true) (hp : (s.asid a).part.toNat = pn) : asidOwner s a = some pn := by
  rw [asidOwner, if_pos hv, hp]
theorem asidOwner_other {s : State} {a pn : Nat} (h : (s.asid a).valid = false ∨ (s.asid a).part.toNat ≠ pn) : asidOwner s a ≠ some pn := by
  unfold asidOwner
  split
  · next hv => exact fun he => h.elim (fun hf => Bool.false_ne_true (hf.symm.trans hv)) (fun hne => hne (Option.some.inj he))
  · nofun

section
variable {s : State} {n pn : Nat} (hpn : s.svcPart n = some pn) (hlive : (s.svc n).frozen = false)
include hpn hlive

theorem awake_svc : awake s (.svc n) = true := by simp [awake, hpn, hlive]

theorem ownWrite_own {owner : Option Nat} (ho : owner = some pn) (addr : Nat) (f : State → State) :
    ownWrite s (.svc n) owner addr f = f s := by
  unfold ownWrite
  rw [awake_svc hpn hlive]
  simp [masterPart, hpn, ho]

theorem ownWrite_other {owner : Option Nat} (ho : owner ≠ some pn) (addr : Nat) (f : State → State) :
    ownWrite s (.svc n) owner addr f = violate s (.svc n) (BitVec.ofNat 64 addr) := by
  unfold ownWrite
  rw [awake_svc hpn hlive]
  simp [masterPart, hpn, ho.symm]

/-! ### Address spaces (R375, R376) -/

theorem exec_bump_own {a : Nat} (hv : (s.asid a).valid = true) (hp : (s.asid a).part.toNat = pn) :
    exec (.bump (.svc n) a) s = .next (startBump s a) :=
  congrArg Host.Outcome.next (ownWrite_own hpn hlive (asidOwner_own hv hp) _ _)

theorem refuses_bump {a : Nat} (h : (s.asid a).valid = false ∨ (s.asid a).part.toNat ≠ pn) :
    Refuses n (0xF0200000 + 32 * a + 16) (.bump (.svc n) a) s :=
  refuses_of_violate (congrArg Host.Outcome.next (ownWrite_other hpn hlive (asidOwner_other h) _ _))

end

theorem startBump_idle {s : State} {a : Nat} (hb : (s.asid a).busy = false) :
    startBump s a = { s with asids := mput s.asids a { (s.asid a) with
      gen := (s.asid a).gen + 1, busy := true, root := (s.asid a).rootNext.getD (s.asid a).root, rootNext := none,
      rootOld := (s.asid a).root } } := if_neg (by simp [hb])
theorem startBump_busy {s : State} {a : Nat} (hb : (s.asid a).busy = true) : startBump s a = s := if_pos hb

theorem exec_bumpComplete_remains {s : State} {a : Nat} (ht : tagRemains s a ((s.asid a).gen - 2) = true) :
    exec (.bumpComplete a) s = .next s :=
  congrArg Host.Outcome.next (if_pos (by rw [ht, Bool.or_true]))

/-- R376, R377: a bump that completes ends BUSY, and with it the translations of the old generation and the tags of cells that
no cue page maps. -/
theorem exec_bumpComplete_done {s : State} {a : Nat} (hb : (s.asid a).busy = true)
    (ht : tagRemains s a ((s.asid a).gen - 2) = false) : ∃ u, exec (.bumpComplete a) s = .next u ∧
      u = { s with asids := mput s.asids a { (s.asid a) with busy := false }, tlb := u.tlb, tags := u.tags } ∧
      (∀ e ∈ u.tlb, e ∈ s.tlb ∧ (e.asid = a → e.gen = (s.asid a).gen)) ∧
      ∀ pa, u.tag pa = if mappedAs s 2 (64 * (pa / 64)) = true then s.tag pa else 0 := by
  refine ⟨_, congrArg Host.Outcome.next (if_neg (by rw [hb, ht]; decide)), rfl, fun e he => ?_, fun pa => ?_⟩
  · obtain ⟨hmem, hkeep⟩ := List.mem_filter.mp he
    exact ⟨hmem, fun ha => by simpa [ha] using hkeep⟩
  · exact mget_filter_keys tagVALUE (fun c => mappedAs s 2 (64 * c)) s.tags (pa / 64)

/-! ### The tag window (R384) -/

theorem tag_setTag (s : State) (a b : Nat) (t : BitVec 2) : (s.setTag a t).tag b = if b / 64 = a / 64 then t else s.tag b :=
  mget_mset ..

/-- Tags set one after another at addresses. -/
def State.setTags (s : State) (addr : Nat → Nat) (val : Nat → BitVec 2) (l : List Nat) : State :=
  l.foldl (fun s i => s.setTag (addr i) (val i)) s

theorem setTags_only (s : State) (addr : Nat → Nat) (val : Nat → BitVec 2) (l : List Nat) :
    s.setTags addr val l = { s with tags := (s.setTags addr val l).tags } := by
  induction l generalizing s with
  | nil => rfl
  | cons i t ih => exact ih (s.setTag (addr i) (val i))

theorem tag_setTags_other {s : State} {addr : Nat → Nat} {val : Nat → BitVec 2} {l : List Nat} {b : Nat}
    (h : ∀ i ∈ l, b / 64 ≠ addr i / 64) : (s.setTags addr val l).tag b = s.tag b := by
  induction l generalizing s with
  | nil => rfl
  | cons i t ih =>
    have hi := h i (List.mem_cons_self ..)
    rw [State.setTags, List.foldl_cons]
    exact (ih fun j hj => h j (List.mem_cons_of_mem _ hj)).trans (by rw [tag_setTag, if_neg hi])

theorem tag_setTags_mem {s : State} {addr : Nat → Nat} {val : Nat → BitVec 2} {l : List Nat} {i : Nat} (hi : i ∈ l)
    (hinj : ∀ j ∈ l, addr j / 64 = addr i / 64 → j = i) : (s.setTags addr val l).tag (addr i) = val i := by
  induction l generalizing s with
  | nil => nomatch hi
  | cons j t ih =>
    have htail : ∀ j ∈ t, addr j / 64 = addr i / 64 → j = i := fun j hj => hinj j (List.mem_cons_of_mem _ hj)
    rw [State.setTags, List.foldl_cons]
    by_cases hmem : i ∈ t
    · exact ih hmem htail
    · have hji : j = i := ((List.mem_cons.mp hi).resolve_right hmem).symm
      subst hji
      have hrest : ∀ k ∈ t, addr j / 64 ≠ addr k / 64 := fun k hk he => hmem (htail k hk he.symm ▸ hk)
      exact (tag_setTags_other hrest).trans (by rw [tag_setTag, if_pos rfl])

theorem tagCell_div {page c : Nat} (hpage : page % 65536 = 0) : (page + 64 * c) / 64 = page / 64 + c := by omega

section
variable {s : State} {n pn : Nat} (hpn : s.svcPart n = some pn) (hlive : (s.svc n).frozen = false)
include hpn hlive

theorem exec_tagWindowSelect_svc (pa : Nat) :
    exec (.tagWindowSelect (.svc n) pa) s = .next { s with tagWin := BitVec.ofNat 64 pa } :=
  congrArg Host.Outcome.next (if_pos (by simp [awake_svc hpn hlive, masterPart, hpn]))

theorem exec_tagWindowWrite_svc {off : Nat} (v : Byte) (hoff : off < 256) (hregion : paRegion (tagPage s) ≤ 1)
    (hin : inWindows s (s.partOr pn).record (tagPage s) = true) :
    exec (.tagWindowWrite (.svc n) off v) s = .next (s.setTags (fun i => tagPage s + 64 * (4 * off + i))
      (fun i => storedTag (v.toNat / 4 ^ i % 4)) (List.range 4)) := by
  have hpart : masterPart s (.svc n) = some pn := hpn
  refine congrArg Host.Outcome.next ((if_neg ?_).trans (if_neg ?_))
  · simp [awake_svc hpn hlive, hpart, hoff]
  · simp [hpart, hregion, hin]

/-- R384: a byte of the tag window sets the tags of four cells of the page; RUNNING is stored as CUE. -/
theorem exec_tagWindowWrite_tags {off : Nat} (v : Byte) (hoff : off < 256) (hpage : tagPage s % 65536 = 0)
    (hregion : paRegion (tagPage s) ≤ 1) (hin : inWindows s (s.partOr pn).record (tagPage s) = true) :
    ∃ u, exec (.tagWindowWrite (.svc n) off v) s = .next u ∧ u = { s with tags := u.tags } ∧
      (∀ i < 4, u.tag (tagPage s + 64 * (4 * off + i)) =
        if v.toNat / 4 ^ i % 4 = 2 then 1 else BitVec.ofNat 2 (v.toNat / 4 ^ i % 4)) ∧
      (∀ a, (∀ i < 4, a / 64 ≠ tagPage s / 64 + 4 * off + i) → u.tag a = s.tag a) := by
  refine ⟨_, exec_tagWindowWrite_svc hpn hlive v hoff hregion hin, setTags_only .., fun i hi => ?_, fun a ha => ?_⟩
  · exact tag_setTags_mem (i := i) (List.mem_range.mpr hi) fun j _ he => by
      rw [tagCell_div hpage, tagCell_div hpage] at he
      omega
  · refine tag_setTags_other fun i hi he => ha i (List.mem_range.mp hi) ?_
    rw [he, tagCell_div hpage, Nat.add_assoc]

end

/-! ### The overflow register (R243) -/

/-- The base that the overflow register keeps: its defined bits end below bit 56. -/
theorem overflowBase (v : Word) :
    bits (v &&& overflowMask) 55 26 * 2 ^ 26 = (v &&& overflowMask).toNat / 2 ^ 26 * 2 ^ 26 := by
  have hw : (v &&& overflowMask).toNat < 2 ^ 56 := by
    rw [BitVec.toNat_and]
    exact Nat.lt_of_le_of_lt Nat.and_le_right (by decide)
  unfold bits
  rw [Nat.mod_eq_of_lt (Nat.div_lt_of_lt_mul (by omega))]

section
variable {s : State} {n pn : Nat} (hpn : s.svcPart n = some pn) (hlive : (s.svc n).frozen = false)
include hpn hlive

theorem exec_overflowRegisterWrite_own (v : Word) :
    exec (.overflowRegisterWrite (.svc n) pn v) s = .next (writeOverflow s pn v) :=
  congrArg Host.Outcome.next (ownWrite_own hpn hlive rfl _ _)

theorem refuses_overflowRegisterWrite {m : Nat} (hm : m ≠ pn) (v : Word) :
    Refuses n (0xF0090000 + 8 * m) (.overflowRegisterWrite (.svc n) m v) s :=
  refuses_of_violate (congrArg Host.Outcome.next (ownWrite_other hpn hlive (fun h => hm (Option.some.inj h)) _ _))

end

theorem writeOverflow_taken {s : State} {pn : Nat} {v : Word} (h : (v &&& overflowMask).getLsbD 0 = false ∨
    paRegion ((v &&& overflowMask).toNat / 2 ^ 26 * 2 ^ 26) = 0 ∧
      paNorm ((v &&& overflowMask).toNat / 2 ^ 26 * 2 ^ 26) = (v &&& overflowMask).toNat / 2 ^ 26 * 2 ^ 26 ∧
      inWindows s (s.partOr pn).record ((v &&& overflowMask).toNat / 2 ^ 26 * 2 ^ 26) = true) :
    writeOverflow s pn v = s.setPart pn { s.partOr pn with overflow := v &&& overflowMask } := by
  unfold writeOverflow
  simp only [overflowBase]
  refine if_neg ?_
  rcases h with h | ⟨hregion, hnorm, hin⟩
  · rw [h]
    simp
  · rw [hregion, hnorm, hin]
    simp

theorem writeOverflow_outside {s : State} {pn : Nat} {v : Word} (hon : (v &&& overflowMask).getLsbD 0 = true)
    (hin : inWindows s (s.partOr pn).record ((v &&& overflowMask).toNat / 2 ^ 26 * 2 ^ 26) = false) :
    writeOverflow s pn v = s := by
  unfold writeOverflow
  simp only [overflowBase]
  refine if_pos ?_
  rw [hon, hin]
  simp

end Sys2Proof.Machine
end
section
/-! ### Registers by their addresses (R7, R361, R375) -/
namespace Sys2Proof.Machine

theorem slotKey_lt (r : Slot) : r.key < 1024 := by
  have hc := r.core.isLt
  have hs := r.slot.isLt
  unfold Slot.key
  omega
theorem slotOfKey_key (r : Slot) : slotOfKey r.key = r := by
  have hs := r.slot.isLt
  have hcore : (r.core.toNat * 4 + r.slot.toNat) / 4 = r.core.toNat := by omega
  have hslot : BitVec.ofNat 2 (r.core.toNat * 4 + r.slot.toNat) = r.slot := by
    apply BitVec.eq_of_toNat_eq
    rw [BitVec.toNat_ofNat]
    omega
  unfold slotOfKey Slot.key
  rw [hcore, hslot, BitVec.ofNat_toNat, BitVec.setWidth_eq]

/-- What a write to a control block, or of RCMD, does at the doubleword's address. -/
theorem exec_registerWrite_block {s : State} {by_ : Master} (hw : awake s by_ = true) {k o : Nat} (hk : k < 1024) (ho : o < 64)
    (h8 : o % 8 = 0) (v : Word) : exec (.registerWrite by_ (0xF0000000 + 64 * k + o) v) s =
      .next (if o = 0 then rcmd by_ (slotOfKey k) v s else blkWrite s by_ k o v) := by
  have haddr : (0xF0000000 + 64 * k + o) / 8 * 8 = 0xF0000000 + 64 * k + o := by omega
  have hslot : (0xF0000000 + 64 * k + o - 0xF0000000) / 64 = k := by omega
  have hoff : (0xF0000000 + 64 * k + o) % 64 = o := by omega
  change execRegisterWrite by_ (0xF0000000 + 64 * k + o) v s = _
  unfold execRegisterWrite
  simp only [haddr]
  rw [if_neg (by simp [hw]), if_pos (by simp; omega), hslot, hoff]

/-- A write of ROOT at its address. -/
theorem exec_registerWrite_root {s : State} {by_ : Master} (hw : awake s by_ = true) {a : Nat} (ha : a < 2 ^ 16) (v : Word) :
    exec (.registerWrite by_ (0xF0200000 + 32 * a) v) s = .next (ownWrite s by_ (asidOwner s a) (0xF0200000 + 32 * a)
      (fun s => s.setAsid a { s.asid a with rootNext := some v })) := by
  have haddr : (0xF0200000 + 32 * a) / 8 * 8 = 0xF0200000 + 32 * a := by omega
  have hnum : (0xF0200000 + 32 * a - 0xF0200000) / 32 = a := by omega
  have hoff : (0xF0200000 + 32 * a) % 32 = 0 := by omega
  change execRegisterWrite by_ (0xF0200000 + 32 * a) v s = _
  unfold execRegisterWrite
  simp only [haddr]
  rw [if_neg (by simp [hw]), if_neg (by simp; omega), if_neg (by omega), if_neg (by simp; omega), if_neg (by simp; omega),
    if_neg (by simp; omega), if_neg (by simp; omega), if_pos (by simp; omega), hnum, hoff]
  rfl

theorem bits_low4 (v : Word) : bits v 3 0 = v.toNat % 16 := by simp [bits]

theorem rcmd_none {by_ : Master} {rs : Slot} {v : Word} (hv : 7 ≤ v.toNat % 16 ∨ v.toNat % 16 = 0) (s : State) :
    rcmd by_ rs v s = command by_ rs.key s id := by
  unfold rcmd
  rw [bits_low4]
  split
  iterate 6 next => omega
  rfl

/-- R361: the commands of RCMD. -/
theorem rcmd_commands (by_ : Master) (rs : Slot) (v : Word) (s : State) :
    (v.toNat % 16 = 1 → Host.Outcome.next (rcmd by_ rs v s) = exec (.restart by_ rs) s) ∧
    (v.toNat % 16 = 2 → Host.Outcome.next (rcmd by_ rs v s) = exec (.switchout by_ rs) s) ∧
    (v.toNat % 16 = 3 → Host.Outcome.next (rcmd by_ rs v s) = exec (.restore by_ rs) s) ∧
    (v.toNat % 16 = 4 → Host.Outcome.next (rcmd by_ rs v s) = exec (.kill by_ rs) s) ∧
    (v.toNat % 16 = 5 → Host.Outcome.next (rcmd by_ rs v s) = exec (.winfree by_ rs) s) ∧
    (v.toNat % 16 = 6 → Host.Outcome.next (rcmd by_ rs v s) = exec (.winready by_ rs) s) := by
  unfold rcmd
  rw [bits_low4]
  refine ⟨?_, ?_, ?_, ?_, ?_, ?_⟩ <;> (intro h; rw [h]; rfl)

section
variable {s : State} {n pn : Nat} (hpn : s.svcPart n = some pn) (hlive : (s.svc n).frozen = false)
include hpn hlive

theorem exec_registerWrite_rootNext {a : Nat} (ha : a < 2 ^ 16) (hv : (s.asid a).valid = true) (hp : (s.asid a).part.toNat = pn)
    (v : Word) : exec (.registerWrite (.svc n) (0xF0200000 + 32 * a) v) s =
      .next { s with asids := mput s.asids a { (s.asid a) with rootNext := some v } } := by
  rw [exec_registerWrite_root (awake_svc hpn hlive) ha, ownWrite_own hpn hlive (asidOwner_own hv hp)]
  rfl

theorem exec_registerWrite_rcmd (rs : Slot) (v : Word) :
    exec (.registerWrite (.svc n) (0xF0000000 + 64 * rs.key) v) s = .next (rcmd (.svc n) rs v s) := by
  have h := exec_registerWrite_block (awake_svc hpn hlive) (slotKey_lt rs) (o := 0) (by decide) rfl v
  rw [slotOfKey_key, if_pos rfl] at h
  exact h

theorem command_id {k : Nat} (hr : reachesSlot s (.svc n) k = true) : command (.svc n) k s id = s := by
  simp [command, awake_svc hpn hlive, hr]
theorem command_unreached {k : Nat} (hr : reachesSlot s (.svc n) k = false) (f : State → State) :
    command (.svc n) k s f = violate s (.svc n) (BitVec.ofNat 64 (blkAddr k)) := by
  simp [command, awake_svc hpn hlive, hr]

theorem exec_registerWrite_save {rs : Slot} (hr : reachesSlot s (.svc n) rs.key = true) (v : Word) :
    exec (.registerWrite (.svc n) (0xF0000000 + 64 * rs.key + 16) v) s = .next (s.setRole rs.key
      { s.role rs.key with blk := { (s.role rs.key).blk with save := v } }) := by
  rw [exec_registerWrite_block (awake_svc hpn hlive) (slotKey_lt rs) (by decide) rfl, if_neg (by decide)]
  unfold blkWrite
  rw [awake_svc hpn hlive, hr]
  rfl

theorem refuses_registerWrite_save {rs : Slot} (hr : reachesSlot s (.svc n) rs.key = false) (v : Word) :
    Refuses n (0xF0000000 + 64 * rs.key + 16) (.registerWrite (.svc n) (0xF0000000 + 64 * rs.key + 16) v) s := by
  refine refuses_of_violate ?_
  rw [exec_registerWrite_block (awake_svc hpn hlive) (slotKey_lt rs) (by decide) rfl, if_neg (by decide)]
  unfold blkWrite
  rw [awake_svc hpn hlive, hr]
  rfl

end
end Sys2Proof.Machine
end

section
/-! ### Accesses of a service core (R7, R370, R378, R429) -/
namespace Sys2Proof.Machine

/-- An access of a control-die core whose turn it is happens at once. -/
theorem step_die {s : State} {rest : List Turn} {by_ : Master} {op : DieOp}
    (h : s.sched = { dt := 0, what := .die by_ op } :: rest) : step s = .next (dieAccess by_ op { s with sched := rest }) := by
  unfold step
  rw [h]
  rfl

theorem dieMem_reserved {s : State} {by_ : Master} {pa : Nat} (h : noRegion pa = true) (k cause : Nat) (reads : Bool)
    (f : State → Nat → State) : dieMem s by_ pa k cause reads f = accessFault s by_ cause pa := if_pos h

section
variable {s : State} {n pn : Nat} (hpn : s.svcPart n = some pn)
include hpn

theorem dieReaches_svc (a k : Nat) : dieReaches s (.svc n) a k = rangeIn s (s.partOr pn).record a k := by
  have hpart : masterPart s (.svc n) = some pn := hpn
  simp [dieReaches, hpart]

theorem dieMem_outside {pa k : Nat} (h : noRegion pa = false) (hout : rangeIn s (s.partOr pn).record (diePa pa) k = false)
    (cause : Nat) (reads : Bool) (f : State → Nat → State) :
    dieMem s (.svc n) pa k cause reads f = violate s (.svc n) (BitVec.ofNat 64 pa) := by
  unfold dieMem
  simp only
  rw [if_neg (by simp [h]), if_pos (by simp [dieReaches_svc hpn, hout])]

theorem dieMem_poisoned {pa k : Nat} (h : noRegion pa = false) (hin : rangeIn s (s.partOr pn).record (diePa pa) k = true)
    (hp : memPoisoned s (diePa pa) k = true) (cause : Nat) (f : State → Nat → State) :
    dieMem s (.svc n) pa k cause true f = accessFault s (.svc n) cause pa := by
  unfold dieMem
  simp only
  rw [if_neg (by simp [h]), if_neg (by simp [dieReaches_svc hpn, hin]), if_pos (by simp [hp])]

theorem dieMem_inside {pa k : Nat} (h : noRegion pa = false) (hin : rangeIn s (s.partOr pn).record (diePa pa) k = true)
    {reads : Bool} (hp : reads = true → memPoisoned s (diePa pa) k = false) (cause : Nat) (f : State → Nat → State) :
    dieMem s (.svc n) pa k cause reads f = f s (diePa pa) := by
  unfold dieMem
  simp only
  rw [if_neg (by simp [h]), if_neg (by simp [dieReaches_svc hpn, hin]), if_neg (by simpa using hp)]

end

/-- The kinds of access to memory, with their cause: what each reads or writes of k bytes at pa. -/
def DieAccessTo (pa k cause : Nat) (bs : List Byte) (op : DieOp) : Prop :=
  op = .load pa k ∧ cause = 5 ∨ op = .store pa bs ∧ cause = 7 ∨ op = .amo pa bs ∧ cause = 7 ∨ op = .fetch pa k ∧ cause = 1

section
variable {s : State} {n pn : Nat} (hpn : s.svcPart n = some pn) (hlive : (s.svc n).frozen = false)
include hpn hlive

theorem dieAccess_load {pa k : Nat} (h : 2 ^ 32 ≤ pa) : dieAccess (.svc n) (.load pa k) s =
    dieMem s (.svc n) pa k 5 true (fun s a => loaded s (.svc n) (memNat s a (min k 8))) := by
  unfold dieAccess
  rw [if_neg (by simp [awake_svc hpn hlive])]
  exact if_neg (by omega)
theorem dieAccess_store {pa : Nat} {bs : List Byte} (h : 2 ^ 32 ≤ pa) : dieAccess (.svc n) (.store pa bs) s =
    dieMem s (.svc n) pa bs.length 7 false (fun s a => dieStore s (.svc n) a bs) := by
  unfold dieAccess
  rw [if_neg (by simp [awake_svc hpn hlive])]
  exact if_neg (by omega)
theorem dieAccess_amo {pa : Nat} {bs : List Byte} (h : 2 ^ 32 ≤ pa) : dieAccess (.svc n) (.amo pa bs) s =
    dieMem s (.svc n) pa bs.length 7 true
      (fun s a => dieStore (loaded s (.svc n) (memNat s a (min bs.length 8))) (.svc n) a bs) := by
  unfold dieAccess
  rw [if_neg (by simp [awake_svc hpn hlive])]
  exact if_neg (by omega)
theorem dieAccess_fetch {pa k : Nat} (h : 2 ^ 32 ≤ pa) : dieAccess (.svc n) (.fetch pa k) s =
    dieMem s (.svc n) pa k 1 true (fun s _ => s) := by
  unfold dieAccess
  rw [if_neg (by simp [awake_svc hpn hlive])]
  exact if_neg (by omega)

/-- Every access to memory goes the same way; all but a store read what is there. -/
theorem dieAccess_mem {pa k cause : Nat} {bs : List Byte} {op : DieOp} (hlen : bs.length = k) (hop : DieAccessTo pa k cause bs op)
    (h : 2 ^ 32 ≤ pa) : ∃ reads f, dieAccess (.svc n) op s = dieMem s (.svc n) pa k cause reads f ∧
      (op ≠ .store pa bs → reads = true) := by
  rcases hop with ⟨rfl, rfl⟩ | ⟨rfl, rfl⟩ | ⟨rfl, rfl⟩ | ⟨rfl, rfl⟩
  · exact ⟨_, _, dieAccess_load hpn hlive h, fun _ => rfl⟩
  · exact ⟨_, _, hlen ▸ dieAccess_store hpn hlive h, fun hne => absurd rfl hne⟩
  · exact ⟨_, _, hlen ▸ dieAccess_amo hpn hlive h, fun _ => rfl⟩
  · exact ⟨_, _, dieAccess_fetch hpn hlive h, fun _ => rfl⟩

/-- R361, R384: a load of a register that the service core may not read. -/
theorem dieAccess_regLoad_barred {a : Nat} (ha : a < 2 ^ 32) (h8 : a % 8 = 0) (hb : readBarred s (.svc n) a = true) :
    dieAccess (.svc n) (.load a 8) s = violate s (.svc n) (BitVec.ofNat 64 a) := by
  have hd : a / 8 * 8 = a := by omega
  unfold dieAccess
  rw [if_neg (by simp [awake_svc hpn hlive])]
  refine (if_pos ha).trans ?_
  unfold dieRegLoad
  rw [hd, if_pos hb]

/-- R7: a load of an aligned doubleword of the registers gets its current value. -/
theorem dieAccess_regLoad {a : Nat} (ha : a < 2 ^ 32) (h8 : a % 8 = 0) (hq : a ≠ 0xF0010000)
    (hb : readBarred s (.svc n) a = false) : dieAccess (.svc n) (.load a 8) s =
      s.setSvc n { s.svc n with lastRead := BitVec.ofNat 64 (regValue s a) } := by
  have hd : a / 8 * 8 = a := by omega
  have hwhole (x : Nat) : BitVec.ofNat 64 (x / 2 ^ (8 * 0) % 2 ^ (8 * min 8 (8 - 0))) = BitVec.ofNat 64 x := by
    apply BitVec.eq_of_toNat_eq
    simp
  unfold dieAccess
  rw [if_neg (by simp [awake_svc hpn hlive])]
  refine (if_pos ha).trans ?_
  unfold dieRegLoad
  rw [hd, if_neg (by simp [hb]), if_neg hq, h8]
  unfold loaded
  simp only [hwhole]

/-- R361, R384: an atomic access or a fetch of what the service core may not read. -/
theorem dieAccess_barred {pa k cause : Nat} {bs : List Byte} {op : DieOp} (hop : DieAccessTo pa k cause bs op)
    (hpa : pa < 2 ^ 32) (h5 : cause ≠ 5) (hst : op ≠ .store pa bs) (hb : readBarred s (.svc n) (pa / 8 * 8) = true) :
    dieAccess (.svc n) op s = violate s (.svc n) (BitVec.ofNat 64 pa) := by
  unfold dieAccess
  rw [if_neg (by simp [awake_svc hpn hlive])]
  rcases hop with ⟨-, hc⟩ | ⟨ho, -⟩ | ⟨rfl, -⟩ | ⟨rfl, -⟩
  · exact absurd hc h5
  · exact absurd ho hst
  · exact (if_pos hpa).trans (if_pos hb)
  · exact (if_pos hpa).trans (if_pos hb)

end

/-! What a turn takes from the schedule is no part of what an access reads. -/
section
variable (s : State) (rest : List Turn)
theorem reachesSlot_sched (by_ : Master) (k : Nat) : reachesSlot { s with sched := rest } by_ k = reachesSlot s by_ k := rfl
theorem masterPart_sched (by_ : Master) : masterPart { s with sched := rest } by_ = masterPart s by_ := rfl
theorem rangeIn_sched (pn a k : Nat) : rangeIn { s with sched := rest } (({ s with sched := rest } : State).partOr pn).record a k =
    rangeIn s (s.partOr pn).record a k := rfl
theorem memPoisoned_sched (a k : Nat) : memPoisoned { s with sched := rest } a k = memPoisoned s a k := rfl
theorem liveIn_sched (a k : Nat) : liveIn { s with sched := rest } a k = liveIn s a k := rfl
theorem tagBusy_sched : tagBusy { s with sched := rest } = tagBusy s := rfl
theorem tagByte_sched (off : Nat) : tagByte { s with sched := rest } off = tagByte s off := rfl
theorem tagPage_sched : tagPage { s with sched := rest } = tagPage s := (rfl)
theorem inRecord_sched (pn a : Nat) : inWindows { s with sched := rest } (({ s with sched := rest } : State).partOr pn).record a =
    inWindows s (s.partOr pn).record a := (rfl)
theorem readBarred_sched (by_ : Master) (a : Nat) : readBarred { s with sched := rest } by_ a = readBarred s by_ a := by
  unfold readBarred
  rw [masterPart_sched, reachesSlot_sched]
  simp only [tagPage_sched, inRecord_sched]
theorem regValue_sched (a : Nat) : regValue { s with sched := rest } a = regValue s a := by
  unfold regValue
  rw [tagBusy_sched]
  simp only [tagByte_sched, State.role, State.cstream, State.partOr, State.asid]
end

end Sys2Proof.Machine
end

section
namespace Sys2Proof.Machine

/-- What stands in a role's control block reads as `blkRead` says. -/
theorem regValue_block (s : State) {a k o : Nat} (hk : k < 1024) (ho : o < 64) (ha : a = 0xF0000000 + 64 * k + o) :
    regValue s a = blkRead (s.role k) o := by
  have hslot : (a - 0xF0000000) / 64 = k := by omega
  have hoff : a % 64 = o := by omega
  unfold regValue
  rw [if_pos (by simp; omega), hslot, hoff]

theorem regValue_tagBusy (s : State) : regValue s 0xF0030008 = if tagBusy s then 1 else 0 := by
  unfold regValue
  rw [if_neg (by decide), if_neg (by decide), if_pos rfl]

/-- What stands in an address space's control block reads as `asidRead` says. -/
theorem regValue_asid (s : State) {a m o : Nat} (hm : m < 2 ^ 16) (ho : o < 32) (ha : a = 0xF0200000 + 32 * m + o) :
    regValue s a = asidRead (s.asid m) o := by
  have hnum : (a - 0xF0200000) / 32 = m := by omega
  have hoff : a % 32 = o := by omega
  unfold regValue
  rw [if_neg (by simp; omega), if_neg (by omega), if_neg (by omega), if_neg (by simp; omega), if_neg (by simp; omega),
    if_neg (by simp; omega), if_neg (by simp; omega), if_pos (by simp; omega), hnum, hoff]

/-- R7, R361, R375: what a role's control block, the tag window and an address space's control block read. -/
theorem regValue_blocks (s : State) (rs : Slot) :
    regValue s (0xF0000000 + 64 * rs.key) = 0 ∧
    regValue s (0xF0000008 + 64 * rs.key) =
      stateNum (s.role rs.key).st + (if (s.role rs.key).frozen then 4 else 0) + (if (s.role rs.key).busy then 8 else 0) +
        (s.role rs.key).err % 2 ^ 8 * 2 ^ 8 ∧
    regValue s (0xF0000010 + 64 * rs.key) = (s.role rs.key).blk.save.toNat ∧
    regValue s 0xF0030008 = (if tagBusy s then 1 else 0) ∧
    ∀ m, m < 2 ^ 16 → regValue s (0xF0200000 + 32 * m) = ((s.asid m).rootNext.getD (s.asid m).root).toNat ∧
      regValue s (0xF0200008 + 32 * m) = (s.asid m).gen.toNat ∧ regValue s (0xF0200010 + 32 * m) = 0 := by
  have hk := slotKey_lt rs
  refine ⟨?_, ?_, ?_, regValue_tagBusy s, fun m hm => ⟨?_, ?_, ?_⟩⟩
  · exact regValue_block s hk (o := 0) (by decide) rfl
  · exact regValue_block s hk (o := 8) (by decide) (by omega)
  · exact regValue_block s hk (o := 16) (by decide) (by omega)
  · exact regValue_asid s hm (o := 0) (by decide) rfl
  · exact regValue_asid s hm (o := 8) (by decide) (by omega)
  · exact regValue_asid s hm (o := 16) (by decide) (by omega)

section
variable {s : State} {rest : List Turn} {n pn : Nat} (hpn : ({ s with sched := rest } : State).svcPart n = some pn)
  (hlive : (({ s with sched := rest } : State).svc n).frozen = false)
include hpn hlive

/-- R7, R361: a turn of the service core that loads a doubleword of the registers. -/
theorem step_regLoad {a : Nat} (hs : s.sched = { dt := 0, what := .die (.svc n) (.load a 8) } :: rest)
    (ha : a < 2 ^ 32) (h8 : a % 8 = 0) (hq : a ≠ 0xF0010000) :
    (readBarred s (.svc n) a = false → step s =
      .next (({ s with sched := rest } : State).setSvc n { s.svc n with lastRead := BitVec.ofNat 64 (regValue s a) })) ∧
    (readBarred s (.svc n) a = true → step s = .next (violate { s with sched := rest } (.svc n) (BitVec.ofNat 64 a))) := by
  rw [step_die hs, ← regValue_sched s rest, ← readBarred_sched s rest]
  exact ⟨fun hb => congrArg Host.Outcome.next (dieAccess_regLoad hpn hlive ha h8 hq hb),
    fun hb => congrArg Host.Outcome.next (dieAccess_regLoad_barred hpn hlive ha h8 hb)⟩

/-- R361, R384: a turn of the service core that gets at a register it may not read by an atomic access or a fetch. -/
theorem step_barred {pa k cause : Nat} {bs : List Byte} {op : DieOp} (hop : DieAccessTo pa k cause bs op)
    (hs : s.sched = { dt := 0, what := .die (.svc n) op } :: rest) (hpa : pa < 2 ^ 32) (h5 : cause ≠ 5) (hst : op ≠ .store pa bs)
    (hb : readBarred s (.svc n) (pa / 8 * 8) = true) :
    step s = .next (violate { s with sched := rest } (.svc n) (BitVec.ofNat 64 pa)) := by
  rw [← readBarred_sched s rest] at hb
  rw [step_die hs, dieAccess_barred hpn hlive hop hpa h5 hst hb]

section
variable {pa k cause : Nat} {bs : List Byte} {op : DieOp} (hlen : bs.length = k) (hop : DieAccessTo pa k cause bs op)
  (hs : s.sched = { dt := 0, what := .die (.svc n) op } :: rest) (hpa : 2 ^ 32 ≤ pa)
include hlen hop hs hpa

/-- R370, R429: what faults. -/
theorem step_reserved (h : noRegion pa = true) : step s = .next (accessFault { s with sched := rest } (.svc n) cause pa) := by
  obtain ⟨reads, f, hacc, -⟩ := dieAccess_mem hpn hlive hlen hop hpa
  rw [step_die hs, hacc, dieMem_reserved h]

theorem step_poisoned (h : noRegion pa = false) (hin : rangeIn s (s.partOr pn).record (diePa pa) k = true)
    (hp : memPoisoned s (diePa pa) k = true) (hst : op ≠ .store pa bs) :
    step s = .next (accessFault { s with sched := rest } (.svc n) cause pa) := by
  obtain ⟨reads, f, hacc, hreads⟩ := dieAccess_mem hpn hlive hlen hop hpa
  rw [hreads hst] at hacc
  rw [← rangeIn_sched s rest] at hin
  rw [← memPoisoned_sched s rest] at hp
  rw [step_die hs, hacc, dieMem_poisoned hpn h hin hp]

/-- R378: memory outside the partition's windows. -/
theorem step_outside (h : noRegion pa = false) (hout : rangeIn s (s.partOr pn).record (diePa pa) k = false) :
    step s = .next (violate { s with sched := rest } (.svc n) (BitVec.ofNat 64 pa)) := by
  obtain ⟨reads, f, hacc, -⟩ := dieAccess_mem hpn hlive hlen hop hpa
  rw [← rangeIn_sched s rest] at hout
  rw [step_die hs, hacc, dieMem_outside hpn h hout]

end

section
variable {pa k : Nat} (hpa : 2 ^ 32 ≤ pa) (h : noRegion pa = false) (hin : rangeIn s (s.partOr pn).record (diePa pa) k = true)
include hpa h hin

theorem step_store {bs : List Byte} (hlen : bs.length = k) (hs : s.sched = { dt := 0, what := .die (.svc n) (.store pa bs) } :: rest)
    (hl : liveIn s (diePa pa) k = false) : step s = .next (({ s with sched := rest } : State).memWrite (diePa pa) bs) := by
  subst hlen
  rw [← rangeIn_sched s rest] at hin
  have hdie : dieStore { s with sched := rest } (.svc n) (diePa pa) bs = ({ s with sched := rest } : State).memWrite (diePa pa) bs :=
    if_pos (by rw [liveIn_sched, hl]; rfl)
  rw [step_die hs, dieAccess_store hpn hlive hpa, dieMem_inside hpn h hin (reads := false) nofun, hdie]

theorem step_fetch (hs : s.sched = { dt := 0, what := .die (.svc n) (.fetch pa k) } :: rest)
    (hp : memPoisoned s (diePa pa) k = false) : step s = .next { s with sched := rest } := by
  rw [← rangeIn_sched s rest] at hin
  rw [← memPoisoned_sched s rest] at hp
  rw [step_die hs, dieAccess_fetch hpn hlive hpa, dieMem_inside hpn h hin fun _ => hp]

theorem step_load (hk : k ≤ 8) (hs : s.sched = { dt := 0, what := .die (.svc n) (.load pa k) } :: rest)
    (hp : memPoisoned s (diePa pa) k = false) : step s = .next (({ s with sched := rest } : State).setSvc n
      { s.svc n with lastRead := BitVec.ofNat 64 (leNat (s.memRead (diePa pa) k)) }) := by
  rw [← rangeIn_sched s rest] at hin
  rw [← memPoisoned_sched s rest] at hp
  rw [step_die hs, dieAccess_load hpn hlive hpa, dieMem_inside hpn h hin fun _ => hp, Nat.min_eq_left hk]
  rfl

end
end
end Sys2Proof.Machine
end

section
/-! ### Place tables, errors and spares (R381, R428, R432) -/
namespace Sys2Proof.Machine

theorem placeAt_setPlace (s : State) (k : UnitKind) (l p m : Nat) :
    placeAt (setPlace s k l p) k m = if m = l then p else placeAt s k m := by
  refine (mget_mput ..).trans ?_
  by_cases h : m = l
  · rw [if_pos (by rw [h]), if_pos h]
  · rw [if_neg (by omega), if_neg h]
    rfl

theorem exec_placeTableChange_taken {k : UnitKind} {l p : Nat} {s : State} (hl : l < unitCount k)
    (hfree : placeFreeFor s k l p = true) (hquiet : placeQuiet s k l = true) :
    exec (.placeTableChange k l p) s = .next (setPlace s k l p) :=
  congrArg Host.Outcome.next (if_pos (by simp [hl, hfree, hquiet]))
theorem exec_placeTableChange_refused {k : UnitKind} {l p : Nat} {s : State}
    (h : unitCount k ≤ l ∨ placeFreeFor s k l p = false ∨ placeQuiet s k l = false) :
    exec (.placeTableChange k l p) s = .next s := by
  refine congrArg Host.Outcome.next (if_neg ?_)
  rcases h with h | h | h
  · simp [Nat.not_lt.mpr h]
  · simp [h]
  · simp [h]

theorem exec_spareReplace_refused {k : UnitKind} {l ver : Nat} {s : State}
    (h : (unitCode k, placeAt s k l) ∉ s.worn ∨ ver < mget 0 s.versions 3) : exec (.spareReplace k ⟨l, ver⟩) s = .next s := by
  refine congrArg Host.Outcome.next (if_pos ?_)
  rcases h with h | h
  · simp [h]
  · simp [h]

/-- A spare p stands for logical unit l, and the repair map of version ver is in flash. -/
def spareIn (s : State) (k : UnitKind) (l p ver : Nat) : State :=
  { setPlace s k l p with
    replaced := s.replaced ++ [(unitCode k, placeAt s k l)]
    worn := s.worn.filter (· ≠ (unitCode k, placeAt s k l))
    errors := s.errors.filter (fun e => !(e.1 = unitCode k && e.2.1 = placeAt s k l))
    flash := (setPlace s k l p).place
    flashVer := mput s.flashVer 3 ver
    versions := mput s.versions 3 ver }

theorem placeAt_spareIn (s : State) (k : UnitKind) (l p ver : Nat) : placeAt (spareIn s k l p ver) k l = p :=
  (placeAt_setPlace s k l p l).trans (if_pos rfl)

/-- The errors of a unit that is replaced are forgotten. -/
theorem recentErrors_spareIn (s : State) (k : UnitKind) (l p ver : Nat) :
    recentErrors (spareIn s k l p ver) (unitCode k) (placeAt s k l) = 0 := by
  refine List.countP_eq_zero.mpr fun e he => ?_
  obtain ⟨-, hkept⟩ := List.mem_filter.mp he
  simp only [Bool.not_eq_true', Bool.and_eq_false_iff] at hkept
  rcases hkept with h | h
  · simp [h]
  · simp [h]

theorem not_mem_worn_spareIn (s : State) (k : UnitKind) (l p ver : Nat) :
    (unitCode k, placeAt s k l) ∉ (spareIn s k l p ver).worn := by
  intro h
  obtain ⟨-, hne⟩ := List.mem_filter.mp h
  simp at hne

/-- R432: a worn unit whose replacement is permitted gets some spare; besides what `spareIn` says, notices are posted. -/
theorem exec_spareReplace_taken {k : UnitKind} {l p ver : Nat} {s : State} (hl : l < unitCount k)
    (hver : mget 0 s.versions 3 ≤ ver) (hworn : (unitCode k, placeAt s k l) ∈ s.worn) (hquiet : placeQuiet s k l = true)
    (hp : p ∈ placesOf k l) (hfree : placeFreeFor s k l p = true) (hne : placeAt s k l ≠ p) (hrep : (unitCode k, p) ∉ s.replaced) :
    ∃ u p', exec (.spareReplace k ⟨l, ver⟩) s = .next u ∧ OnlyQueues (spareIn s k l p' ver) u ∧
      p' ∈ placesOf k l ∧ p' ≠ placeAt s k l ∧ (unitCode k, p') ∉ s.replaced := by
  have hgoes : ¬ (unitCount k ≤ l || ver < mget 0 s.versions 3 || !s.worn.contains (unitCode k, placeAt s k l)) = true := by
    simp [hl, hver, hworn]
  have hsome : ((placesOf k l).find? (fun p => placeFreeFor s k l p && placeAt s k l ≠ p && !s.replaced.contains (unitCode k, p))).isSome :=
    List.find?_isSome.mpr ⟨p, hp, by simp [hfree, hne, hrep]⟩
  obtain ⟨p', hfind⟩ := Option.isSome_iff_exists.mp hsome
  have hspare := List.find?_some hfind
  simp only [Bool.and_eq_true, Bool.not_eq_true', decide_eq_true_eq] at hspare
  obtain ⟨⟨-, hne'⟩, hrep'⟩ := hspare
  have hexec : execSpareReplace k ⟨l, ver⟩ s = .next ((holders s k l).foldl
      (fun s q => s.notice q (if k = .core then l else 0) 5 (unitCode k) 0) (spareIn s k l p' ver)) := by
    unfold execSpareReplace
    simp only
    rw [if_neg hgoes, hfind]
    simp only
    rw [if_neg (by simp [hquiet])]
    rfl
  exact ⟨_, p', hexec, onlyQueues_fold (fun s q => onlyQueues_notice s q _ _ _ _) _ _, List.mem_of_find?_eq_some hfind,
    hne'.symm, by simpa using hrep'⟩

theorem spareReplace_taken {k : UnitKind} {l p ver : Nat} {s : State} (hl : l < unitCount k)
    (hver : mget 0 s.versions 3 ≤ ver) (hworn : (unitCode k, placeAt s k l) ∈ s.worn) (hquiet : placeQuiet s k l = true)
    (hp : p ∈ placesOf k l) (hfree : placeFreeFor s k l p = true) (hne : placeAt s k l ≠ p) (hrep : (unitCode k, p) ∉ s.replaced) :
    ∃ u p', exec (.spareReplace k ⟨l, ver⟩) s = .next u ∧ mget 0 u.versions 3 = ver ∧ mget 0 u.flashVer 3 = ver ∧
      placeAt u k l = p' ∧ p' ∈ placesOf k l ∧ p' ≠ placeAt s k l ∧ (unitCode k, p') ∉ s.replaced ∧
      recentErrors u (unitCode k) (placeAt s k l) = 0 ∧ (unitCode k, placeAt s k l) ∉ u.worn ∧ u.flash = u.place ∧
      u.replaced = s.replaced ++ [(unitCode k, placeAt s k l)] ∧ u.mem = s.mem := by
  obtain ⟨u, p', hexec, ⟨hu, -⟩, hp', hne', hrep'⟩ := exec_spareReplace_taken hl hver hworn hquiet hp hfree hne hrep
  refine ⟨u, p', hexec, ?_, ?_, ?_, hp', hne', hrep', ?_, ?_, ?_, ?_, ?_⟩ <;> rw [hu]
  · exact mget_mput_same ..
  · exact mget_mput_same ..
  · exact placeAt_spareIn s k l p' ver
  · exact recentErrors_spareIn s k l p' ver
  · exact not_mem_worn_spareIn s k l p' ver
  · rfl
  · rfl
  · rfl

/-- An error counts at once. -/
theorem recentErrors_now (s : State) (kind p : Nat) :
    recentErrors { s with errors := s.errors ++ [(kind, p, s.cycle)] } kind p = recentErrors s kind p + 1 := by
  unfold recentErrors
  rw [List.countP_append]
  congr 1
  simp [usCycles]

/-- R428: the third error of a physical unit within 24 hours wears it out. -/
theorem countError_errors (s : State) (k : UnitKind) (l : Nat) :
    (countError s k l).errors = s.errors ++ [(unitCode k, placeAt s k l, s.cycle)] := by
  unfold countError
  simp only
  split
  · rfl
  · rfl
theorem countError_only (s : State) (k : UnitKind) (l : Nat) :
    countError s k l = { s with errors := (countError s k l).errors, worn := (countError s k l).worn } := by
  unfold countError
  simp only
  split
  · rfl
  · rfl
theorem mem_worn_countError {s : State} {k : UnitKind} {l : Nat} (h : 2 ≤ recentErrors s (unitCode k) (placeAt s k l)) :
    (unitCode k, placeAt s k l) ∈ (countError s k l).worn := by
  have hthird : 3 ≤ recentErrors s (unitCode k) (placeAt s k l) + 1 := by omega
  unfold countError
  simp only [recentErrors_now, hthird]
  split
  · exact List.mem_append_right _ (List.mem_singleton.mpr rfl)
  · next h => simpa using h
theorem worn_countError {s : State} {k : UnitKind} {l : Nat} (h : recentErrors s (unitCode k) (placeAt s k l) < 2) :
    (countError s k l).worn = s.worn := by
  have hfew : ¬ 3 ≤ recentErrors s (unitCode k) (placeAt s k l) + 1 := by omega
  unfold countError
  simp only [recentErrors_now, hfew]
  rfl

end Sys2Proof.Machine
end

section
/-! ### A partition's record (R378 to R380, R434) -/
namespace Sys2Proof.Machine

/-- What every step of a fold keeps, the fold keeps. -/
theorem foldl_keeps {α β : Type} {f : State → α → State} (g : State → β) (l : List α) (s : State)
    (h : ∀ s x, g (f s x) = g s := by intros; rfl) : g (l.foldl f s) = g s := by
  induction l generalizing s with
  | nil => rfl
  | cons x t ih => exact (ih _).trans (h s x)

/-- A fold that applies g at each key of a list, where g applied again changes nothing. -/
theorem get_foldl_put {β : Type} {get : State → Nat → β} {put : State → Nat → β → State} {g : State → β → β}
    (hput : ∀ s k v j, get (put s k v) j = if j = k then v else get s j) (hsame : ∀ s k v, g (put s k v) = g s)
    (hg : ∀ s v, g s (g s v) = g s v) (l : List Nat) (s : State) (j : Nat) :
    get (l.foldl (fun s k => put s k (g s (get s k))) s) j = if j ∈ l then g s (get s j) else get s j := by
  induction l generalizing s with
  | nil => rfl
  | cons k t ih =>
    rw [List.foldl_cons, ih, hsame, hput]
    by_cases hjk : j = k
    · subst hjk
      simp [hg]
    · simp [hjk]

theorem asid_setAsid (s : State) (a : Nat) (x : AsidBlk) (b : Nat) : (s.setAsid a x).asid b = if b = a then x else s.asid b :=
  mget_mput ..
theorem partOr_setPart_other (s : State) {a b : Nat} (x : Part) (h : b ≠ a) : (s.setPart a x).partOr b = s.partOr b :=
  mget_mput_other _ _ _ _ _ h
theorem partOr_setPart_same (s : State) (a : Nat) (x : Part) : (s.setPart a x).partOr a = x := mget_mput_same ..

/-- The state that a change of records leaves alone. -/
structure SameRest (s t : State) : Prop where
  mem : t.mem = s.mem
  roles : t.roles = s.roles
  parts : t.parts = s.parts
  versions : t.versions = s.versions

theorem SameRest.refl (s : State) : SameRest s s := ⟨rfl, rfl, rfl, rfl⟩
theorem SameRest.trans {s t u : State} (h : SameRest s t) (h' : SameRest t u) : SameRest s u :=
  ⟨h'.mem.trans h.mem, h'.roles.trans h.roles, h'.parts.trans h.parts, h'.versions.trans h.versions⟩
theorem sameRest_fold {α : Type} {f : State → α → State} (l : List α) (s : State)
    (h : ∀ s x, SameRest s (f s x) := by exact fun _ _ => ⟨rfl, rfl, rfl, rfl⟩) : SameRest s (l.foldl f s) :=
  ⟨foldl_keeps State.mem l s fun s x => (h s x).mem, foldl_keeps State.roles l s fun s x => (h s x).roles,
    foldl_keeps State.parts l s fun s x => (h s x).parts, foldl_keeps State.versions l s fun s x => (h s x).versions⟩

/-! What a record gives up. -/

/-- The address spaces that a new record leaves out. -/
def goneAsids (old new_ : Partition) : List Nat := old.asids.filter (fun a => !new_.asids.contains a)
/-- The service cores that a new record leaves out. -/
def goneSvcs (old new_ : Partition) : List Nat := old.svcs.filter (fun n => !new_.svcs.contains n)
def invalidate (s : State) (l : List Nat) : State := l.foldl (fun s a => s.setAsid a { s.asid a with valid := false }) s
def resetSvcs (s : State) (l : List Nat) : State := l.foldl (fun s n => s.setSvc n Svc.reset) s

theorem release_eq (s : State) (pn : Nat) (new_ : Partition) :
    let old := (s.partOr pn).record
    let t := resetSvcs (invalidate (clearLost s old new_) (goneAsids old new_)) (goneSvcs old new_)
    release s pn new_ = { t with
      tlb := t.tlb.filter (fun e => !(goneAsids old new_).contains e.asid)
      owners := t.owners.filter (fun o => !(goneAsids old new_).contains (o.2 - 1))
      ports := t.ports.map (fun q => (q.1, if q.2.part = pn then { q.2 with part := 255, winLen := 0 } else q.2)) } := rfl

theorem asid_invalidate (s : State) (l : List Nat) (a : Nat) :
    (invalidate s l).asid a = if a ∈ l then { s.asid a with valid := false } else s.asid a :=
  get_foldl_put (g := fun _ (b : AsidBlk) => { b with valid := false }) asid_setAsid (fun _ _ _ => rfl) (fun _ _ => rfl) l s a
theorem svc_resetSvcs (s : State) (l : List Nat) (n : Nat) : (resetSvcs s l).svc n = if n ∈ l then Svc.reset else s.svc n :=
  get_foldl_put (g := fun _ _ => Svc.reset) (fun s k v j => svc_setSvc s k j v) (fun _ _ _ => rfl) (fun _ _ => rfl) l s n
theorem svcs_invalidate (s : State) (l : List Nat) : (invalidate s l).svcs = s.svcs := by
  unfold invalidate
  exact foldl_keeps State.svcs l s
theorem asids_resetSvcs (s : State) (l : List Nat) : (resetSvcs s l).asids = s.asids := by
  unfold resetSvcs
  exact foldl_keeps State.asids l s

theorem sameRest_release (s : State) (pn : Nat) (new_ : Partition) :
    SameRest (clearLost s (s.partOr pn).record new_) (release s pn new_) := by
  have hasids := sameRest_fold (f := fun s a => s.setAsid a { s.asid a with valid := false })
    (goneAsids (s.partOr pn).record new_) (clearLost s (s.partOr pn).record new_)
  have hsvcs := sameRest_fold (f := fun s n => s.setSvc n Svc.reset)
    (goneSvcs (s.partOr pn).record new_) (invalidate (clearLost s (s.partOr pn).record new_) (goneAsids (s.partOr pn).record new_))
  obtain ⟨hmem, hroles, hparts, hversions⟩ := hasids.trans hsvcs
  exact ⟨hmem, hroles, hparts, hversions⟩

theorem svc_release {s : State} {pn n : Nat} {new_ : Partition} (hn : n ∈ new_.svcs) : (release s pn new_).svc n = s.svc n := by
  have hkept : n ∉ goneSvcs (s.partOr pn).record new_ := by simp [goneSvcs, hn]
  rw [release_eq]
  refine (svc_resetSvcs _ _ n).trans ?_
  rw [if_neg hkept]
  unfold State.svc
  rw [svcs_invalidate]
  rfl

theorem asid_release_gone {s : State} {pn a : Nat} {new_ : Partition} (ha : a ∈ (s.partOr pn).record.asids) (hnew : a ∉ new_.asids) :
    ((release s pn new_).asid a).valid = false := by
  have hgone : a ∈ goneAsids (s.partOr pn).record new_ := by simp [goneAsids, ha, hnew]
  have h := asid_invalidate (clearLost s (s.partOr pn).record new_) (goneAsids (s.partOr pn).record new_) a
  rw [if_pos hgone] at h
  rw [release_eq]
  unfold State.asid at h ⊢
  rw [asids_resetSvcs, h]

theorem endStreams_keeps (s : State) (pn : Nat) (keep : List Nat) : SameRest s (endStreams s pn keep) ∧
    (endStreams s pn keep).svcs = s.svcs ∧ (endStreams s pn keep).asids = s.asids := by
  unfold endStreams
  exact ⟨sameRest_fold _ s, foldl_keeps State.svcs _ s,
    foldl_keeps State.asids _ s⟩

/-! What a record gives. -/

/-- What becomes of a service core under a record: it starts, if none runs there and the image is accepted. -/
def startIn (pn : Nat) (p : Partition) (s : State) (v : Svc) : Svc :=
  if v.running then v else if imageTaken s p then startSvc v pn p.image p.version else v

theorem startIn_again (pn : Nat) (p : Partition) (s : State) (v : Svc) : startIn pn p s (startIn pn p s v) = startIn pn p s v := by
  unfold startIn
  cases hr : v.running
  · cases ht : imageTaken s p
    · simp [hr]
    · simp [startSvc]
  · simp [hr]

def giveAsids (s : State) (pn : Nat) (p : Partition) : State :=
  p.asids.foldl (fun s a => s.setAsid a { s.asid a with valid := true, part := BitVec.ofNat 8 pn }) s
def giveStreams (s : State) (pn : Nat) (p : Partition) : State :=
  p.streams.foldl (fun s n => s.setCstream n { s.cstream n with part := BitVec.ofNat 8 pn }) s
def startSvcs (s : State) (pn : Nat) (p : Partition) : State := p.svcs.foldl (fun s n => s.setSvc n (startIn pn p s (s.svc n))) s
def givePort (pn : Nat) (s : State) (w : PortWin) : State :=
  let q := { s.port w.port with part := pn, winBase := w.base, winLen := w.len, dbOff := w.dbOff, dbAsid := w.dbAsid }
  { s with ports := mput s.ports w.port q }
def givePorts (s : State) (pn : Nat) (p : Partition) : State := p.wins.foldl (givePort pn) s
theorem take_eq (s : State) (pn : Nat) (p : Partition) :
    take_ s pn p = givePorts (startSvcs (giveStreams (giveAsids s pn p) pn p) pn p) pn p := rfl

section
variable (s : State) (pn : Nat) (p : Partition)
theorem sameRest_giveAsids : SameRest s (giveAsids s pn p) := by
  unfold giveAsids
  exact sameRest_fold _ s
theorem giveStreams_keeps : SameRest s (giveStreams s pn p) ∧ (giveStreams s pn p).asids = s.asids ∧
    (giveStreams s pn p).svcs = s.svcs := by
  unfold giveStreams
  exact ⟨sameRest_fold _ s, foldl_keeps State.asids _ s,
    foldl_keeps State.svcs _ s⟩
theorem startSvcs_keeps : SameRest s (startSvcs s pn p) ∧ (startSvcs s pn p).asids = s.asids := by
  unfold startSvcs
  exact ⟨sameRest_fold _ s, foldl_keeps State.asids _ s⟩
theorem givePorts_keeps : SameRest s (givePorts s pn p) ∧ (givePorts s pn p).asids = s.asids ∧ (givePorts s pn p).svcs = s.svcs := by
  unfold givePorts
  exact ⟨sameRest_fold _ s, foldl_keeps State.asids _ s,
    foldl_keeps State.svcs _ s⟩
theorem svcs_giveAsids : (giveAsids s pn p).svcs = s.svcs := by
  unfold giveAsids
  exact foldl_keeps State.svcs _ s

theorem sameRest_take : SameRest s (take_ s pn p) :=
  (((sameRest_giveAsids s pn p).trans (giveStreams_keeps _ pn p).1).trans (startSvcs_keeps _ pn p).1).trans (givePorts_keeps _ pn p).1
end

theorem imageTaken_versions {s t : State} (h : t.versions = s.versions) (p : Partition) : imageTaken t p = imageTaken s p := by
  unfold imageTaken
  rw [h]
theorem startIn_versions {s t : State} (h : t.versions = s.versions) (pn : Nat) (p : Partition) : startIn pn p t = startIn pn p s := by
  funext v
  unfold startIn
  rw [imageTaken_versions h]

theorem svc_take {s : State} {pn n : Nat} {p : Partition} (hn : n ∈ p.svcs) : (take_ s pn p).svc n = startIn pn p s (s.svc n) := by
  have hbefore : (giveStreams (giveAsids s pn p) pn p).svcs = s.svcs := (giveStreams_keeps _ pn p).2.2.trans (svcs_giveAsids s pn p)
  have hrest := (sameRest_giveAsids s pn p).trans (giveStreams_keeps (giveAsids s pn p) pn p).1
  have hstart := get_foldl_put (g := startIn pn p) (fun s k v j => svc_setSvc s k j v) (fun _ _ _ => startIn_versions rfl pn p)
    (startIn_again pn p) p.svcs (giveStreams (giveAsids s pn p) pn p) n
  rw [if_pos hn, startIn_versions hrest.versions] at hstart
  rw [take_eq]
  unfold State.svc at hstart ⊢
  rw [(givePorts_keeps _ pn p).2.2, ← hbefore]
  exact hstart

theorem asid_take (s : State) (pn : Nat) (p : Partition) (a : Nat) : (take_ s pn p).asid a =
    if a ∈ p.asids then { s.asid a with valid := true, part := BitVec.ofNat 8 pn } else s.asid a := by
  have hgive := get_foldl_put (g := fun _ (b : AsidBlk) => { b with valid := true, part := BitVec.ofNat 8 pn }) asid_setAsid
    (fun _ _ _ => rfl) (fun _ _ => rfl) p.asids s a
  have hlater : (take_ s pn p).asids = (giveAsids s pn p).asids :=
    (givePorts_keeps _ pn p).2.1.trans ((startSvcs_keeps _ pn p).2.trans (giveStreams_keeps _ pn p).2.1)
  exact (congrArg (fun m => mget AsidBlk.reset m a) hlater).trans hgive

end Sys2Proof.Machine
end

section
/-! ### The kernel image of a partition (R379, R434, R440, R441) -/
namespace Sys2Proof.Machine

theorem kernelOf_runs {s : State} {pn : Nat} (h : (s.partOr pn).record.imageOk = true) (p : Partition) :
    kernelOf s pn p = { p with image := (s.partOr pn).record.image, version := (s.partOr pn).record.version, imageOk := true } :=
  if_pos h
theorem kernelOf_new {s : State} {pn : Nat} (h : (s.partOr pn).record.imageOk = false) (p : Partition) :
    kernelOf s pn p = { p with imageOk := imageTaken s p } := if_neg (by simp [h])

/-- The kernel image is all that `kernelOf` changes in a record. -/
theorem kernelOf_only (s : State) (pn : Nat) (p : Partition) : ∃ i v o, kernelOf s pn p = { p with image := i, version := v, imageOk := o } := by
  cases h : (s.partOr pn).record.imageOk
  · exact ⟨_, _, _, kernelOf_new h p⟩
  · exact ⟨_, _, _, kernelOf_runs h p⟩

/-- No image of a partition of which no service core runs is good. -/
theorem settleImage_none {s : State} {p : Partition} (h : ∀ m ∈ p.svcs, ¬ (s.svc m).running = true) :
    settleImage s p = { p with imageOk := false } := by
  unfold settleImage
  rw [List.filter_eq_nil_iff.mpr h]

/-- R441: the image that all the service cores that run run. -/
theorem settleImage_same {s : State} {p : Partition} {i : Nat} (hrun : ∃ m ∈ p.svcs, (s.svc m).running = true)
    (hsame : ∀ m ∈ p.svcs, (s.svc m).running = true → (s.svc m).image = i) : ∃ m ∈ p.svcs, (s.svc m).running = true ∧
      settleImage s p = { p with image := i, version := (s.svc m).version, imageOk := true } := by
  unfold settleImage
  obtain ⟨m, hm, hr⟩ := hrun
  have himages : ∀ x ∈ p.svcs.filter (fun n => (s.svc n).running), x ∈ p.svcs ∧ (s.svc x).running = true ∧ (s.svc x).image = i :=
    fun x hx => have ⟨hx, hr⟩ := List.mem_filter.mp hx
      ⟨hx, hr, hsame x hx hr⟩
  cases hl : p.svcs.filter (fun n => (s.svc n).running) with
  | nil => exact absurd hr (List.filter_eq_nil_iff.mp hl m hm)
  | cons n t =>
    rw [hl] at himages
    obtain ⟨hn, hnr, hni⟩ := himages n (List.mem_cons_self ..)
    have hall : t.all (fun m => (s.svc m).image = (s.svc n).image) = true := List.all_eq_true.mpr fun x hx => by
      rw [(himages x (List.mem_cons_of_mem _ hx)).2.2, hni]
      simp
    exact ⟨n, hn, hnr, (if_pos hall).trans (by rw [hni])⟩

/-- R441: while service cores run several images, the record's stays. -/
theorem settleImage_mixed {s : State} {p : Partition} {m n : Nat} (hm : m ∈ p.svcs) (hn : n ∈ p.svcs)
    (hmr : (s.svc m).running = true) (hnr : (s.svc n).running = true) (hne : (s.svc m).image ≠ (s.svc n).image) :
    settleImage s p = p := by
  unfold settleImage
  have hrun {x : Nat} (hx : x ∈ p.svcs) (hr : (s.svc x).running = true) : x ∈ p.svcs.filter (fun n => (s.svc n).running) :=
    List.mem_filter.mpr ⟨hx, hr⟩
  have hmf := hrun hm hmr
  have hnf := hrun hn hnr
  cases hl : p.svcs.filter (fun n => (s.svc n).running) with
  | nil => exact absurd hmf (by simp [hl])
  | cons k t =>
    rw [hl] at hmf hnf
    refine if_neg fun hall => hne ?_
    have hkey {x : Nat} (hx : x ∈ k :: t) : (s.svc x).image = (s.svc k).image := by
      rcases List.mem_cons.mp hx with rfl | hx
      · rfl
      · simpa using List.all_eq_true.mp hall x hx
    rw [hkey hmf, hkey hnf]

theorem settleImage_only (s : State) (p : Partition) : ∃ i v o, settleImage s p = { p with image := i, version := v, imageOk := o } := by
  unfold settleImage
  split
  · exact ⟨_, _, _, rfl⟩
  · split
    · exact ⟨_, _, _, rfl⟩
    · exact ⟨_, _, _, rfl⟩

theorem settleImage_svcs {s t : State} (h : t.svcs = s.svcs) (p : Partition) : settleImage t p = settleImage s p := by
  unfold settleImage State.svc
  rw [h]

/-! ### A change of a partition (R378 to R380) -/

theorem lostPa_image (s : State) (old p : Partition) (i v : Nat) (o : Bool) (a : Nat) :
    lostPa s old { p with image := i, version := v, imageOk := o } a = lostPa s old p a := rfl

theorem readByte_clearLost (s : State) (old new_ : Partition) (a : Nat) :
    readByte (clearLost s old new_).mem a = if lostPa s old new_ a = true then 0 else readByte s.mem a := by
  refine (mget_filter_keys (0 : Byte) (fun a => !lostPa s old new_ a) s.mem a).trans ?_
  cases lostPa s old new_ a
  · rfl
  · rfl

/-- A state in which partition pn has given up what a record leaves out and taken what the record gives it. -/
def recast (s : State) (pn : Nat) (p : Partition) : State := take_ (endStreams (release s pn p) pn p.streams) pn p

theorem sameRest_recast (s : State) (pn : Nat) (p : Partition) : SameRest (clearLost s (s.partOr pn).record p) (recast s pn p) :=
  ((sameRest_release s pn p).trans (endStreams_keeps _ pn p.streams).1).trans (sameRest_take _ pn p)

theorem svc_recast {s : State} {pn n : Nat} {p : Partition} (hn : n ∈ p.svcs) : (recast s pn p).svc n = startIn pn p s (s.svc n) := by
  have hversions : (endStreams (release s pn p) pn p.streams).versions = s.versions :=
    ((sameRest_release s pn p).trans (endStreams_keeps _ pn p.streams).1).versions
  have hsvc : (endStreams (release s pn p) pn p.streams).svc n = s.svc n := by
    unfold State.svc
    rw [(endStreams_keeps _ pn p.streams).2.1]
    exact svc_release hn
  rw [recast, svc_take hn, startIn_versions hversions, hsvc]

theorem asid_recast_given {s : State} {pn a : Nat} {p : Partition} (ha : a ∈ p.asids) (hpn : pn < 16) :
    ((recast s pn p).asid a).valid = true ∧ ((recast s pn p).asid a).part.toNat = pn := by
  rw [recast, asid_take, if_pos ha]
  exact ⟨rfl, by rw [BitVec.toNat_ofNat]; omega⟩

theorem asid_recast_gone {s : State} {pn a : Nat} {p : Partition} (ha : a ∈ (s.partOr pn).record.asids) (hp : a ∉ p.asids) :
    ((recast s pn p).asid a).valid = false := by
  rw [recast, asid_take, if_neg hp]
  unfold State.asid
  rw [(endStreams_keeps _ pn p.streams).2.2]
  exact asid_release_gone ha hp

/-- R378 to R380: partition pn has taken a record, whose kernel image is that of q. -/
structure Recorded (s : State) (pn : Nat) (p q : Partition) (u : State) : Prop where
  record : (u.partOr pn).record = settleImage u q
  launches : (u.partOr pn).launches = (s.partOr pn).launches
  others : ∀ j, j ≠ pn → u.partOr j = s.partOr j
  version : mget 0 u.versions 1 = if q.imageOk then max (mget 0 s.versions 1) q.version else mget 0 s.versions 1
  svc : ∀ m ∈ p.svcs, u.svc m = startIn pn q s (s.svc m)
  mem : ∀ a, readByte u.mem a = if lostPa s (s.partOr pn).record p a = true then 0 else readByte s.mem a
  roles : u.roles = s.roles
  given : ∀ a ∈ p.asids, (u.asid a).valid = true ∧ (u.asid a).part.toNat = pn
  gone : ∀ a ∈ (s.partOr pn).record.asids, a ∉ p.asids → (u.asid a).valid = false

/-- The change of a partition's record, once it is permitted. -/
def recorded (s : State) (pn : Nat) (q : Partition) : State :=
  let t := recast s pn q
  { t.setPart pn { t.partOr pn with record := settleImage t q } with
    versions := if q.imageOk then mput t.versions 1 (max (mget 0 t.versions 1) q.version) else t.versions }

theorem recorded_kernelOf (s : State) {pn : Nat} (hpn : pn < 16) (p : Partition) :
    Recorded s pn p (kernelOf s pn p) (recorded s pn (kernelOf s pn p)) := by
  obtain ⟨i, v, o, hq⟩ := kernelOf_only s pn p
  generalize kernelOf s pn p = q at hq
  subst hq
  generalize hq : ({ p with image := i, version := v, imageOk := o } : Partition) = q
  have hasids : q.asids = p.asids := by rw [← hq]
  have hsvcs : q.svcs = p.svcs := by rw [← hq]
  have hlost (a : Nat) : lostPa s (s.partOr pn).record q a = lostPa s (s.partOr pn).record p a := by rw [← hq, lostPa_image]
  obtain ⟨hmem, hroles, hparts, hversions⟩ := sameRest_recast s pn q
  have hpart (j : Nat) : (recast s pn q).partOr j = s.partOr j := congrArg (fun m => mget Part.none m j) hparts
  have hnew : (recorded s pn q).partOr pn = { (recast s pn q).partOr pn with record := settleImage (recast s pn q) q } :=
    partOr_setPart_same ..
  refine { record := ?_, launches := ?_, others := fun j hj => ?_, version := ?_, svc := fun m hm => ?_, mem := fun a => ?_,
           roles := hroles, given := fun a ha => ?_, gone := fun a ha hp => ?_ }
  · rw [hnew]
    exact (settleImage_svcs rfl q).symm
  · rw [hnew, hpart]
  · exact (partOr_setPart_other _ _ hj).trans (hpart j)
  · have hhigh : mget 0 (recast s pn q).versions 1 = mget 0 s.versions 1 := congrArg (fun m => mget 0 m 1) hversions
    unfold recorded
    simp only [hhigh]
    split
    · exact mget_mput_same ..
    · exact hhigh
  · exact svc_recast (hsvcs ▸ hm)
  · rw [← hlost, ← readByte_clearLost]
    exact congrArg (readByte · a) hmem
  · exact asid_recast_given (hasids ▸ ha) hpn
  · exact asid_recast_gone ha (hasids ▸ hp)

section
variable {pn : Nat} {s : State} (hpn : pn < 16) (hup : s.up = true)
include hpn hup

theorem exec_partitionChange_taken {p : Partition} (hsvcs : p.svcs ≠ []) (hok : partitionOk s pn p = true) :
    exec (.partitionChange pn (some p)) s = .next (recorded s pn (kernelOf s pn p)) :=
  congrArg Host.Outcome.next ((if_neg (by simp [hup, hpn])).trans (if_neg (by simp [hsvcs, hok])))

theorem exec_partitionChange_refused {p : Partition} (h : p.svcs = [] ∨ partitionOk s pn p = false) :
    exec (.partitionChange pn (some p)) s = .next s := by
  refine congrArg Host.Outcome.next ((if_neg (by simp [hup, hpn])).trans (if_pos ?_))
  rcases h with h | h
  · simp [h]
  · simp [h]

theorem exec_partitionChange_held (h : ∃ kr ∈ s.roles, kr.2.st ≠ .free ∧ kr.2.part.toNat = pn) :
    exec (.partitionChange pn none) s = .next s := by
  obtain ⟨kr, hmem, hst, hpart⟩ := h
  exact congrArg Host.Outcome.next ((if_neg (by simp [hup, hpn])).trans
    (if_pos (List.any_eq_true.mpr ⟨kr, hmem, by simp [hst, hpart]⟩)))

/-- R378: a partition that no role is of ends. -/
theorem exec_partitionChange_end (h : ∀ kr ∈ s.roles, kr.2.st = .free ∨ kr.2.part.toNat ≠ pn) :
    ∃ u, exec (.partitionChange pn none) s = .next u ∧ u.part? pn = none ∧
      ∀ a, readByte u.mem a = if lostPa s (s.partOr pn).record Part.none.record a = true then 0 else readByte s.mem a := by
  have hnone : ¬ s.roles.any (fun r => r.2.st != .free && r.2.part.toNat = pn) = true := fun hany => by
    obtain ⟨kr, hmem, hkr⟩ := List.any_eq_true.mp hany
    rcases h kr hmem with hst | hpart
    · simp [hst] at hkr
    · simp [hpart] at hkr
  refine ⟨_, congrArg Host.Outcome.next ((if_neg (by simp [hup, hpn])).trans (if_neg hnone)), mfind_mdel_same _ pn, fun a => ?_⟩
  have hmem := ((sameRest_release s pn Part.none.record).trans (endStreams_keeps _ pn []).1).mem
  rw [← readByte_clearLost]
  exact congrArg (readByte · a) hmem

end

/-- R18, R438: a part in recovery has no partitions. -/
theorem exec_partitionChange_down {s : State} (h : s.up = false) (pn : Nat) (p : Option Partition) :
    exec (.partitionChange pn p) s = .next s := congrArg Host.Outcome.next (if_pos (by simp [h]))

/-! The service cores of a partition whose record has changed. -/

/-- R379, R434: a service core starts in HS-mode at the entry of its image, with the partition's number in a0. -/
def StartedAt (pn image : Nat) (v : Svc) : Prop :=
  v.running = true ∧ v.image = image ∧ v.mode = .hs ∧ v.pc = Config.imageEntry image ∧ v.a0 = BitVec.ofNat 64 pn

theorem startedAt_startSvc (v : Svc) (pn image version : Nat) : StartedAt pn image (startSvc v pn image version) :=
  ⟨rfl, rfl, rfl, rfl, rfl⟩

theorem startIn_running {v : Svc} (h : v.running = true) (pn : Nat) (q : Partition) (s : State) : startIn pn q s v = v := if_pos h
theorem startIn_starts {v : Svc} (h : ¬ v.running = true) {s : State} {q : Partition} (ht : imageTaken s q = true) (pn : Nat) :
    startIn pn q s v = startSvc v pn q.image q.version := (if_neg h).trans (if_pos ht)
theorem startIn_refused {s : State} {q : Partition} (ht : imageTaken s q = false) (pn : Nat) (v : Svc) : startIn pn q s v = v := by
  unfold startIn
  simp [ht]

theorem imageTaken_ok {s : State} {q : Partition} (hok : q.imageOk = true) (hv : mget 0 s.versions 1 ≤ q.version) :
    imageTaken s q = true := by simp [imageTaken, hok, hv]
theorem imageTaken_bad {s : State} {q : Partition} (h : q.imageOk = false ∨ q.version < mget 0 s.versions 1) :
    imageTaken s q = false := by
  rcases h with h | h
  · simp [imageTaken, h]
  · simp [imageTaken, h]

section
variable {s u : State} {pn : Nat} {p : Partition} (h : Recorded s pn p (kernelOf s pn p) u)
include h

/-- But for the kernel image, the record is the one given. -/
theorem Recorded.record_given :
    { (u.partOr pn).record with image := p.image, version := p.version, imageOk := p.imageOk } = p := by
  obtain ⟨i, v, o, hq⟩ := kernelOf_only s pn p
  obtain ⟨i', v', o', hset⟩ := settleImage_only u (kernelOf s pn p)
  rw [h.record, hset, hq]

theorem Recorded.svc_running {m : Nat} (hm : m ∈ p.svcs) (hr : (s.svc m).running = true) : u.svc m = s.svc m :=
  (h.svc m hm).trans (startIn_running hr ..)

/-- R379, R440: where no kernel ran, a good image of a version not too low starts. -/
theorem Recorded.newImage (hold : (s.partOr pn).record.imageOk = false) (hok : p.imageOk = true)
    (hv : mget 0 s.versions 1 ≤ p.version) : mget 0 u.versions 1 = p.version ∧
      (∀ m ∈ p.svcs, ¬ (s.svc m).running = true → StartedAt pn p.image (u.svc m)) ∧
      (p.svcs ≠ [] → (∀ m ∈ p.svcs, ¬ (s.svc m).running = true) → (u.partOr pn).record = p) := by
  have htaken : imageTaken s p = true := imageTaken_ok hok hv
  have hq : kernelOf s pn p = p := by rw [kernelOf_new hold, htaken, ← hok]
  rw [hq] at h
  have hstart {m : Nat} (hm : m ∈ p.svcs) (hr : ¬ (s.svc m).running = true) : u.svc m = startSvc (s.svc m) pn p.image p.version :=
    (h.svc m hm).trans (startIn_starts hr htaken pn)
  refine ⟨?_, fun m hm hr => hstart hm hr ▸ startedAt_startSvc .., fun hne hr => ?_⟩
  · rw [h.version, if_pos hok, Nat.max_eq_right hv]
  · obtain ⟨m, hm⟩ := List.exists_mem_of_ne_nil _ hne
    obtain ⟨n, hn, -, hset⟩ := settleImage_same (s := u) (p := p) (i := p.image) ⟨m, hm, by rw [hstart hm (hr m hm)]; rfl⟩
      fun n hn _ => by rw [hstart hn (hr n hn)]; rfl
    rw [h.record, hset, hstart hn (hr n hn), ← hok]
    rfl

/-- R379, R440: where no kernel ran, an image that is refused starts nowhere. -/
theorem Recorded.refusedImage (hold : (s.partOr pn).record.imageOk = false)
    (hbad : p.imageOk = false ∨ p.version < mget 0 s.versions 1) : mget 0 u.versions 1 = mget 0 s.versions 1 ∧
      (∀ m ∈ p.svcs, u.svc m = s.svc m) ∧
      ((∀ m ∈ p.svcs, ¬ (s.svc m).running = true) → (u.partOr pn).record.imageOk = false) := by
  have hq : kernelOf s pn p = { p with imageOk := false } := by rw [kernelOf_new hold, imageTaken_bad hbad]
  rw [hq] at h
  have hsvc : ∀ m ∈ p.svcs, u.svc m = s.svc m := fun m hm => (h.svc m hm).trans (startIn_refused (imageTaken_bad (.inl rfl)) ..)
  refine ⟨h.version.trans (if_neg Bool.false_ne_true), hsvc, fun hr => ?_⟩
  rw [h.record, settleImage_none fun m hm => by rw [hsvc m hm]; exact hr m hm]

/-- R379, R434: where a kernel runs, its image stays. -/
theorem Recorded.oldImage (hold : (s.partOr pn).record.imageOk = true) :
    mget 0 u.versions 1 = max (mget 0 s.versions 1) (s.partOr pn).record.version ∧
    (∀ m ∈ p.svcs, ¬ (s.svc m).running = true → mget 0 s.versions 1 ≤ (s.partOr pn).record.version →
      StartedAt pn (s.partOr pn).record.image (u.svc m)) ∧
    (∀ m ∈ p.svcs, ¬ (s.svc m).running = true → (s.partOr pn).record.version < mget 0 s.versions 1 → u.svc m = s.svc m) ∧
    (∀ i, (∃ m ∈ p.svcs, (s.svc m).running = true) → (∀ m ∈ p.svcs, (s.svc m).running = true ∧ (s.svc m).image = i) →
      (u.partOr pn).record.image = i ∧ (u.partOr pn).record.imageOk = true) ∧
    ((∃ m ∈ p.svcs, ∃ n ∈ p.svcs, (s.svc m).running = true ∧ (s.svc n).running = true ∧ (s.svc m).image ≠ (s.svc n).image) →
      (u.partOr pn).record.image = (s.partOr pn).record.image ∧ (u.partOr pn).record.version = (s.partOr pn).record.version ∧
        (u.partOr pn).record.imageOk = true) := by
  have hran := fun m hm => h.svc_running (m := m) hm
  have hq := kernelOf_runs hold p
  generalize kernelOf s pn p = q at h hq
  have hsvcs : q.svcs = p.svcs := by rw [hq]
  have hok : q.imageOk = true := by rw [hq]
  have himage : q.image = (s.partOr pn).record.image := by rw [hq]
  have hversion : q.version = (s.partOr pn).record.version := by rw [hq]
  rw [← himage, ← hversion]
  refine ⟨h.version.trans (if_pos hok), fun m hm hr hv => ?_, fun m hm hr hv => ?_, fun i ⟨m, hm, hr⟩ hall => ?_,
    fun ⟨m, hm, n, hn, hmr, hnr, hne⟩ => ?_⟩
  · rw [h.svc m hm, startIn_starts hr (imageTaken_ok hok hv)]
    exact startedAt_startSvc ..
  · rw [h.svc m hm, startIn_refused (imageTaken_bad (.inr hv))]
  · rw [← hsvcs] at hran hall hm
    obtain ⟨n, -, -, hset⟩ := settleImage_same (s := u) (p := q) (i := i) ⟨m, hm, by rw [hran m hm hr, hr]⟩
      fun n hn _ => by rw [hran n hn (hall n hn).1, (hall n hn).2]
    rw [h.record, hset]
    exact ⟨rfl, rfl⟩
  · rw [← hsvcs] at hran hm hn
    rw [h.record, settleImage_mixed (m := m) (n := n) hm hn (by rw [hran m hm hmr, hmr]) (by rw [hran n hn hnr, hnr])
      (by rw [hran m hm hmr, hran n hn hnr]; exact hne)]
    exact ⟨rfl, rfl, hok⟩

end

/-! ### Kernel images by service core, and frozen ones (R385, R434, R441) -/

theorem startedAt_noticeFirst {pn image : Nat} {v : Svc} (h : StartedAt pn image v) (n : Nat) : StartedAt pn image (noticeFirst v n) := h

/-- Service core n runs an image, with notice 4 first in its queue. -/
def switched (s : State) (n pn image version : Nat) : State :=
  s.setSvc n (noticeFirst (startSvc (s.svc n) pn image version) n)
/-- KERNEL_IMAGE_SWITCH, once it is permitted. -/
def imageSwitched (s : State) (n pn image version : Nat) : State :=
  let t := switched s n pn image version
  { t.setPart pn { t.partOr pn with record := settleImage t { (t.partOr pn).record with imageOk := true } } with
    versions := mput t.versions 1 version }

section
variable {n pn : Nat} {s : State} (hpn : s.svcPart n = some pn)
include hpn

theorem exec_kernelImageSwitch_taken {version : Nat} (hv : mget 0 s.versions 1 ≤ version) (hlive : (s.svc n).frozen = false) (image : Nat) :
    exec (.kernelImageSwitch n image version true) s = .next (imageSwitched s n pn image version) := by
  change execKernelImageSwitch n image version true s = _
  unfold execKernelImageSwitch
  rw [hpn]
  exact congrArg Host.Outcome.next (if_neg (by simp [hlive, hv]))

theorem exec_kernelImageSwitch_refused {version : Nat} {ok : Bool} (h : version < mget 0 s.versions 1 ∨ ok = false) (image : Nat) :
    exec (.kernelImageSwitch n image version ok) s = .next s := by
  change execKernelImageSwitch n image version ok s = _
  unfold execKernelImageSwitch
  rw [hpn]
  refine congrArg Host.Outcome.next (if_pos ?_)
  rcases h with h | h
  · simp [h]
  · simp [h]

theorem exec_serviceCoreRestart_frozen (hf : (s.svc n).frozen = true) (hok : (s.partOr pn).record.imageOk = true) :
    exec (.serviceCoreRestart n) s = .next
      (s.setSvc n (startSvc { s.svc n with frozen := false } pn (s.svc n).image (s.svc n).version)) := by
  change execServiceCoreRestart n s = _
  unfold execServiceCoreRestart
  rw [hpn]
  exact congrArg Host.Outcome.next ((if_neg (by simp [hf])).trans (if_pos hok))

theorem exec_serviceCoreRestart_noImage (hf : (s.svc n).frozen = true) (hok : (s.partOr pn).record.imageOk = false) :
    exec (.serviceCoreRestart n) s = .next (s.setSvc n { s.svc n with frozen := false, running := false }) := by
  change execServiceCoreRestart n s = _
  unfold execServiceCoreRestart
  rw [hpn]
  exact congrArg Host.Outcome.next ((if_neg (by simp [hf])).trans (if_neg (by simp [hok])))

theorem exec_serviceCoreRestart_awake (hf : (s.svc n).frozen = false) : exec (.serviceCoreRestart n) s = .next s := by
  change execServiceCoreRestart n s = _
  unfold execServiceCoreRestart
  rw [hpn]
  exact congrArg Host.Outcome.next (if_pos (by simp [hf]))

end

section
variable (s : State) (n pn image version : Nat)

theorem svc_imageSwitched : (imageSwitched s n pn image version).svc n = noticeFirst (startSvc (s.svc n) pn image version) n :=
  svc_setSvc_same ..
theorem svc_imageSwitched_other {m : Nat} (h : m ≠ n) : (imageSwitched s n pn image version).svc m = s.svc m :=
  svc_setSvc_other s _ h
theorem record_imageSwitched : ((imageSwitched s n pn image version).partOr pn).record =
    settleImage (switched s n pn image version) { (s.partOr pn).record with imageOk := true } :=
  congrArg Part.record (partOr_setPart_same ..)

end

section
variable {s : State} {n pn : Nat} (hn : n ∈ (s.partOr pn).record.svcs) (image version : Nat)
include hn

/-- R441: the record's image is the new one once all the service cores that run run it. -/
theorem record_imageSwitched_same
    (h : ∀ m ∈ (s.partOr pn).record.svcs, m ≠ n → (s.svc m).running = true → (s.svc m).image = image) :
    ((imageSwitched s n pn image version).partOr pn).record.image = image ∧
    ((imageSwitched s n pn image version).partOr pn).record.imageOk = true := by
  have hsvc : (switched s n pn image version).svc n = noticeFirst (startSvc (s.svc n) pn image version) n := svc_setSvc_same ..
  obtain ⟨m, -, -, hset⟩ := settleImage_same (s := switched s n pn image version)
    (p := { (s.partOr pn).record with imageOk := true }) (i := image) ⟨n, hn, by rw [hsvc]; rfl⟩ fun m hm hr => by
      by_cases hmn : m = n
      · rw [hmn, hsvc]
        rfl
      · have hother : (switched s n pn image version).svc m = s.svc m := svc_setSvc_other s _ hmn
        rw [hother] at hr ⊢
        exact h m hm hmn hr
  rw [record_imageSwitched, hset]
  exact ⟨rfl, rfl⟩

theorem record_imageSwitched_mixed
    (h : ∃ m ∈ (s.partOr pn).record.svcs, m ≠ n ∧ (s.svc m).running = true ∧ (s.svc m).image ≠ image) :
    ((imageSwitched s n pn image version).partOr pn).record = { (s.partOr pn).record with imageOk := true } := by
  obtain ⟨m, hm, hmn, hr, hi⟩ := h
  have hsvc : (switched s n pn image version).svc n = noticeFirst (startSvc (s.svc n) pn image version) n := svc_setSvc_same ..
  have hother : (switched s n pn image version).svc m = s.svc m := svc_setSvc_other s _ hmn
  rw [record_imageSwitched]
  exact settleImage_mixed (m := m) (n := n) hm hn (by rw [hother, hr]) (by rw [hsvc]; rfl) (by rw [hother, hsvc]; exact hi)

theorem record_imageSwitched_ok : ((imageSwitched s n pn image version).partOr pn).record.imageOk = true := by
  by_cases h : ∃ m ∈ (s.partOr pn).record.svcs, m ≠ n ∧ (s.svc m).running = true ∧ (s.svc m).image ≠ image
  · rw [record_imageSwitched_mixed hn image version h]
  · exact (record_imageSwitched_same hn image version fun m hm hmn hr => by
      by_contra hi
      exact h ⟨m, hm, hmn, hr, hi⟩).2

end

end Sys2Proof.Machine
end

section
/-! ### The control plane's steps (R361, R375 to R385, R393, R429, R432, R434, R440, R441) -/
namespace Sys2Proof.Machine

section
variable {n pn : Nat} {s : State} (hpn : s.svcPart n = some pn) (hlive : (s.svc n).frozen = false)
include hpn hlive

theorem asid_steps {a : Nat} (hv : (s.asid a).valid = true) (hp : (s.asid a).part.toNat = pn) :
    ((s.asid a).busy = false → exec (.bump (.svc n) a) s = .next { s with asids := mput s.asids a { (s.asid a) with
      gen := (s.asid a).gen + 1, busy := true, root := (s.asid a).rootNext.getD (s.asid a).root, rootNext := none,
      rootOld := (s.asid a).root } }) ∧
    ((s.asid a).busy = true → exec (.bump (.svc n) a) s = .next s) := by
  rw [exec_bump_own hpn hlive hv hp]
  exact ⟨fun hb => by rw [startBump_idle hb], fun hb => by rw [startBump_busy hb]⟩

/-- R361: a write of RCMD gives its command; one of a number that no command has does nothing. -/
theorem rcmd_steps (rs : Slot) (v : Word) :
    (v.toNat % 16 = 1 → exec (.registerWrite (.svc n) (0xF0000000 + 64 * rs.key) v) s = exec (.restart (.svc n) rs) s) ∧
    (v.toNat % 16 = 2 → exec (.registerWrite (.svc n) (0xF0000000 + 64 * rs.key) v) s = exec (.switchout (.svc n) rs) s) ∧
    (v.toNat % 16 = 3 → exec (.registerWrite (.svc n) (0xF0000000 + 64 * rs.key) v) s = exec (.restore (.svc n) rs) s) ∧
    (v.toNat % 16 = 4 → exec (.registerWrite (.svc n) (0xF0000000 + 64 * rs.key) v) s = exec (.kill (.svc n) rs) s) ∧
    (v.toNat % 16 = 5 → exec (.registerWrite (.svc n) (0xF0000000 + 64 * rs.key) v) s = exec (.winfree (.svc n) rs) s) ∧
    (v.toNat % 16 = 6 → exec (.registerWrite (.svc n) (0xF0000000 + 64 * rs.key) v) s = exec (.winready (.svc n) rs) s) ∧
    (7 ≤ v.toNat % 16 ∨ v.toNat % 16 = 0 →
      (reachesSlot s (.svc n) rs.key = true → exec (.registerWrite (.svc n) (0xF0000000 + 64 * rs.key) v) s = .next s) ∧
      (reachesSlot s (.svc n) rs.key = false →
        Refuses n (0xF0000000 + 64 * rs.key) (.registerWrite (.svc n) (0xF0000000 + 64 * rs.key) v) s)) := by
  have hwrite := exec_registerWrite_rcmd hpn hlive rs v
  obtain ⟨h1, h2, h3, h4, h5, h6⟩ := rcmd_commands (.svc n) rs v s
  refine ⟨fun h => hwrite.trans (h1 h), fun h => hwrite.trans (h2 h), fun h => hwrite.trans (h3 h), fun h => hwrite.trans (h4 h),
    fun h => hwrite.trans (h5 h), fun h => hwrite.trans (h6 h), fun h => ⟨fun hr => ?_, fun hr => refuses_of_violate ?_⟩⟩
  · rw [hwrite, rcmd_none h, command_id hpn hlive hr]
  · rw [hwrite, rcmd_none h, command_unreached hpn hlive hr]
    rfl

end

/-- Settles O49: each clause is the lemma about its step; a register that another partition holds is refused by way of `violate`, an
access to memory goes through `dieMem`, and what a change of a record does is `Recorded`. -/
theorem controlPlaneSteps : Obligations.ControlPlaneSteps := by
  unfold Obligations.ControlPlaneSteps
  refine ⟨fun n pn s hpn hlive => ⟨fun a hv hp => ?asids, fun a h => refuses_bump hpn hlive h, exec_tagWindowSelect_svc hpn hlive,
      fun off v hoff hpage hregion hin => exec_tagWindowWrite_tags hpn hlive v hoff hpage hregion hin, fun v => ?overflow,
      fun rs v => ?registers, fun rest a rs hs ha h8 hq => ?loads,
      fun rest pa k cause bs op hk hlen hop hs => ?memory⟩,
    fun k l p ver s => ?units, fun pn p s hup => ⟨exec_partitionChange_down hup pn _, exec_partitionChange_down hup pn _⟩,
    fun pn p s hpn hup => ?partitions, fun n image version pn s hpn hn => ?cores⟩
  case asids =>
    obtain ⟨hidle, hbusy⟩ := asid_steps hpn hlive hv hp
    exact ⟨hidle, fun hb => ⟨hbusy hb, exec_bumpComplete_remains, exec_bumpComplete_done hb⟩,
      fun v ha => exec_registerWrite_rootNext hpn hlive ha hv hp v⟩
  case overflow =>
    refine ⟨fun h => ?_, fun h => ?_, fun m hm => refuses_overflowRegisterWrite hpn hlive hm v⟩
    · rw [exec_overflowRegisterWrite_own hpn hlive, writeOverflow_taken h]
      rfl
    · obtain ⟨hon, -, hin⟩ := h
      rw [exec_overflowRegisterWrite_own hpn hlive, writeOverflow_outside hon hin]
  case registers =>
    obtain ⟨h1, h2, h3, h4, h5, h6, hnone⟩ := rcmd_steps hpn hlive rs v
    exact ⟨h1, h2, h3, h4, h5, h6, hnone, fun hr => exec_registerWrite_save hpn hlive hr v,
      fun hr => refuses_registerWrite_save hpn hlive hr v⟩
  case loads =>
    obtain ⟨hload, hbarred⟩ := step_regLoad (s := s) (rest := rest) hpn hlive hs ha h8 hq
    exact ⟨hload, hbarred, regValue_blocks s rs⟩
  case memory =>
    have hpn : ({ s with sched := rest } : State).svcPart n = some pn := hpn
    have hlive : (({ s with sched := rest } : State).svc n).frozen = false := hlive
    refine ⟨fun hpa h5 hst hb => step_barred hpn hlive hop hs hpa h5 hst hb, fun hpa =>
      ⟨step_reserved hpn hlive hlen hop hs hpa, step_outside hpn hlive hlen hop hs hpa, fun ⟨h, hin⟩ hp hst =>
        step_poisoned hpn hlive hlen hop hs hpa h hin hp hst, fun ⟨h, hin⟩ hl ho => ?_, fun ⟨h, hin⟩ hp ho => ?_,
        fun ⟨h, hin⟩ hp ho => ?_⟩⟩
    · exact step_store hpn hlive hpa h hin hlen (ho ▸ hs) hl
    · exact step_fetch hpn hlive hpa h hin (ho ▸ hs) hp
    · exact step_load hpn hlive hpa h hin hk (ho ▸ hs) hp
  case units =>
    refine ⟨fun hl hfree hquiet => ⟨_, exec_placeTableChange_taken hl hfree hquiet, ?_, rfl, fun m hm _ _ => ?_⟩,
      exec_placeTableChange_refused, exec_spareReplace_refused,
      fun hl hver hworn hquiet hp hfree hne hrep => spareReplace_taken hl hver hworn hquiet hp hfree hne hrep,
      countError_errors s k l, countError_only s k l, mem_worn_countError, worn_countError⟩
    · rw [placeAt_setPlace, if_pos rfl]
    · rw [placeAt_setPlace, if_neg hm]
  case partitions =>
    refine ⟨fun hsvcs hok => ⟨_, exec_partitionChange_taken hpn hup hsvcs hok, ?_⟩, exec_partitionChange_refused hpn hup,
      exec_partitionChange_held hpn hup, exec_partitionChange_end hpn hup⟩
    have h := recorded_kernelOf s hpn p
    refine ⟨h.record_given, fun m => h.svc_running, fun hold himage hv => ?_, h.refusedImage, h.oldImage, h.launches, h.mem, h.roles,
      h.given, h.gone, h.others⟩
    obtain ⟨hversion, hstart, hrecord⟩ := h.newImage hold himage hv
    exact ⟨hversion, hstart, hrecord hsvcs⟩
  case cores =>
    refine ⟨fun hv hlive => ⟨_, exec_kernelImageSwitch_taken hpn hv hlive image, ?_, record_imageSwitched_ok hn image version,
        mget_mput_same .., fun h => (record_imageSwitched_same hn image version h).1, record_imageSwitched_mixed hn image version,
        fun m hm => svc_imageSwitched_other s n pn image version hm, ?_⟩,
      fun hv ok => exec_kernelImageSwitch_refused hpn (.inl hv) image, exec_kernelImageSwitch_refused hpn (.inr rfl) image,
      fun hf hok => ⟨_, exec_serviceCoreRestart_frozen hpn hf hok, ?_, ?_, rfl, fun m hm => svc_setSvc_other s _ hm⟩,
      exec_serviceCoreRestart_noImage hpn, exec_serviceCoreRestart_awake hpn⟩
    · rw [svc_imageSwitched]
      exact startedAt_noticeFirst (startedAt_startSvc ..) n
    · rw [svc_imageSwitched]
      rfl
    · rw [svc_setSvc_same]
      exact startedAt_startSvc ..
    · rw [svc_setSvc_same]
      rfl

end Sys2Proof.Machine
end

section
/-! ### After bring-up (R438) -/
namespace Sys2Proof.Machine

/-- Settles O58: every list of the reset state is empty, so that each read of it gives its default. -/
theorem resetState : Obligations.ResetState := by
  unfold Obligations.ResetState
  refine ⟨fun a => ⟨rfl, rfl⟩, rfl, rfl, rfl, rfl, fun k => ?_, fun n => ⟨rfl, rfl, rfl⟩⟩
  exact ⟨rfl, rfl, rfl, rfl, rfl, rfl, fun n => rfl, rfl, rfl⟩

end Sys2Proof.Machine
end

section
/-! ### What a step on memory leaves alone -/
namespace Sys2Proof.Machine

/-- Nothing differs but the bytes and the poison of memory and of tile stores, and what cores have cached of page tables. -/
def OnlyMemory (s t : State) : Prop :=
  t = { s with mem := t.mem, poison := t.poison, tile := t.tile, tpoison := t.tpoison, tlb := t.tlb }

theorem OnlyMemory.refl (s : State) : OnlyMemory s s := rfl
theorem OnlyMemory.trans {s t u : State} (h : OnlyMemory s t) (h' : OnlyMemory t u) : OnlyMemory s u := by
  unfold OnlyMemory at h h' ⊢
  rw [h] at h'
  exact h'
/-- A field other than those, as any function of a state that ignores them. -/
theorem OnlyMemory.eq {α : Type} {s t : State} (h : OnlyMemory s t) (f : State → α)
    (hf : ∀ m p ti tp tlb, f { s with mem := m, poison := p, tile := ti, tpoison := tp, tlb := tlb } = f s := by intros; rfl) :
    f t = f s := (congrArg f h).trans (hf ..)
theorem OnlyMemory.role {s t : State} (h : OnlyMemory s t) (k : Nat) : t.role k = s.role k := h.eq (State.role · k)

theorem onlyMemory_memWrite (s : State) (a : Nat) (bs : List Byte) : OnlyMemory s (s.memWrite a bs) := rfl
theorem onlyMemory_putNat (s : State) (a n v : Nat) : OnlyMemory s (s.putNat a n v) := rfl

theorem onlyMemory_useLeaf {s : State} {core asid : Nat} {p : Partition} {gen : BitVec 16} {va : Word} {want : Want} {l : Leaf} {x : Xlat}
    (h : useLeaf s core p asid gen va want l = .ok x) : OnlyMemory s x.st := by
  unfold useLeaf at h
  extract_lets e frame attr okPerm region pa at h
  iterate 8
    split at h
    · nomatch h
  cases h
  dsimp only
  split
  · rfl
  · rfl

theorem onlyMemory_translateW {s : State} {core asid : Nat} {gen : BitVec 16} {va : Word} {want : Want} {x : Xlat}
    (h : translateW s core asid gen va want = .ok x) : OnlyMemory s x.st := by
  unfold translateW at h
  split at h
  · exact onlyMemory_useLeaf h
  · nomatch h
theorem onlyMemory_translateG {s : State} {core asid : Nat} {gen : BitVec 16} {va : Word} {want : Want} {x : Xlat}
    (h : translateG s core asid gen va want = .ok x) : OnlyMemory s x.st := by
  unfold translateG at h
  split at h
  · split at h
    · exact onlyMemory_useLeaf h
    · exact onlyMemory_translateW h
  · exact onlyMemory_translateW h
/-- R373, R377: a translation sets A and D bits and caches what it read. -/
theorem onlyMemory_translateA {s : State} {core asid : Nat} {afresh : Bool} {gen : BitVec 16} {va : Word} {want : Want} {x : Xlat}
    (h : translateA s core afresh asid gen va want = .ok x) : OnlyMemory s x.st := by
  unfold translateA at h
  split at h
  · exact onlyMemory_translateW h
  · exact onlyMemory_translateG h

/-! The copy engine's reads and writes. -/

theorem onlyMemory_readLine {s t : State} {k n : Nat} {c : CopyJob} {a : Word} {bs : List Byte}
    (h : readLine s k c a n = .ok (bs, t)) : OnlyMemory s t := by
  unfold readLine at h
  extract_lets r at h
  split at h
  · nomatch h
  · next x hx =>
    iterate 3
      split at h
      · nomatch h
    cases h
    exact onlyMemory_translateA hx

theorem onlyMemory_readSpan {s t : State} {k o n : Nat} {c : CopyJob} {base : Word} {bs : List Byte}
    (h : readSpan s k c base o n = .ok (bs, t)) : OnlyMemory s t := by
  unfold readSpan at h
  extract_lets r a n1 at h
  split at h
  · split at h
    · nomatch h
    · split at h
      · nomatch h
      · cases h
        rfl
  · split at h
    · nomatch h
    · next b1 s1 h1 =>
      split at h
      · cases h
        exact onlyMemory_readLine h1
      · split at h
        · nomatch h
        · next b2 s2 h2 =>
          cases h
          exact (onlyMemory_readLine h1).trans (onlyMemory_readLine h2)

theorem onlyMemory_readPiece {s t : State} {k p : Nat} {c : CopyJob} {bs : List Byte}
    (h : readPiece s k c p = .ok (bs, t)) : OnlyMemory s t := by
  unfold readPiece at h
  split at h
  · nomatch h
  · next vals s1 h1 =>
    split at h
    · nomatch h
    · next idx s2 h2 =>
      cases h
      exact (onlyMemory_readSpan h1).trans (onlyMemory_readSpan h2)

theorem onlyMemory_copyRead {s t : State} {k : Nat} {c : CopyJob} {bs : List Byte}
    (h : copyRead s k c = .ok (bs, t)) : OnlyMemory s t := by
  unfold copyRead at h
  dsimp only at h
  split at h
  · split at h
    · nomatch h
    · next b1 s1 h1 =>
      split at h
      · cases h
        exact onlyMemory_readPiece h1
      · split at h
        · nomatch h
        · next b2 s2 h2 =>
          cases h
          exact (onlyMemory_readPiece h1).trans (onlyMemory_readPiece h2)
  · exact onlyMemory_readSpan h

theorem onlyMemory_mcastWrite {s t : State} {r : Role} {a b : Word} {o : Nat} {bs : List Byte}
    (h : mcastWrite s r a b o bs = .ok t) : OnlyMemory s t := by
  have hfold (ps : List (Nat × Nat)) (s : State) (bs : List Byte) :
      OnlyMemory s (ps.foldl (fun t p => (t.1.memWrite p.1 (t.2.take p.2), t.2.drop p.2)) (s, bs)).1 := by
    induction ps generalizing s bs with
    | nil => exact .refl s
    | cons p t ih => exact (onlyMemory_memWrite ..).trans (ih _ _)
  unfold mcastWrite at h
  extract_lets ps bad at h
  iterate 4
    split at h
    · nomatch h
  cases h
  exact hfold ps s bs

theorem onlyMemory_copyWrite {s t : State} {k : Nat} {c : CopyJob} {bs : List Byte}
    (h : copyWrite s k c bs = .ok t) : OnlyMemory s t := by
  unfold copyWrite at h
  dsimp only at h
  split at h
  · split at h
    · nomatch h
    · cases h
      split
      · rfl
      · rfl
  · split at h
    · nomatch h
    · next x hx =>
      have hx := onlyMemory_translateA hx
      split at h
      · split at h
        · cases h
          exact hx
        · exact hx.trans (onlyMemory_mcastWrite h)
      · split at h
        · nomatch h
        · split at h
          · nomatch h
          · cases h
            split
            · exact hx.trans (onlyMemory_memWrite ..)
            · exact hx

/-! The pool unit's writes. -/

theorem onlyMemory_poolFree (s : State) (b w j : Nat) : OnlyMemory s (poolFree s b w j) := rfl
theorem onlyMemory_poolUnpin (s : State) (b j : Nat) : OnlyMemory s (poolUnpin s b j) := rfl
theorem onlyMemory_poolPublish (s : State) (b w j : Nat) : OnlyMemory s (poolPublish s b w j) := by
  have hlate : OnlyMemory s (if pLATEST s b = 0xFF then s
      else setSlotW s b (pLATEST s b) (if slotPins (pSLOT s b (pLATEST s b)) = 0 then 0 else 3) (slotPins (pSLOT s b (pLATEST s b)))) := by
    split
    · exact .refl s
    · exact onlyMemory_putNat ..
  exact ((((hlate.trans (onlyMemory_putNat ..)).trans (onlyMemory_putNat ..)).trans (onlyMemory_putNat ..)).trans
    (onlyMemory_putNat ..)).trans (onlyMemory_putNat ..)

theorem onlyMemory_releaseHold (s : State) (asid k rank : Nat) (h : Hold) : OnlyMemory s (releaseHold s asid k rank h) := by
  unfold releaseHold
  split
  · exact .refl s
  · next x hx =>
    have hx := onlyMemory_translateG hx
    dsimp only
    split
    · exact hx
    · split
      · split
        · exact hx
        · exact hx.trans (onlyMemory_poolUnpin ..)
      · split
        · exact hx.trans (onlyMemory_poolFree ..)
        · exact hx
theorem onlyMemory_releaseHolds (s : State) (asid k rank : Nat) (hs : List Hold) : OnlyMemory s (releaseHolds s asid k rank hs) := by
  unfold releaseHolds
  generalize hs.filter _ ++ _ = l
  induction l generalizing s with
  | nil => exact .refl s
  | cons h t ih => exact (onlyMemory_releaseHold ..).trans (ih _)

end Sys2Proof.Machine
end

section
/-! ### Binding a role (R21, R46, R302) -/
namespace Sys2Proof.Machine

theorem mem_unitsOf {core base size u : Nat} :
    u ∈ unitsOf core base size ↔ ∃ i, i < (size + 65535) / 65536 ∧ u = 64 * core + base / 65536 + i := by
  simp [unitsOf, eq_comm]

/-- R21: units that another address space occupied last read as zero. -/
theorem readByte_takeUnits (s : State) (us : List Nat) (asid a : Nat) : readByte (takeUnits s us asid true).tile a =
    if a / 65536 ∈ us ∧ mget 0 s.owners (a / 65536) ≠ asid + 1 then (0 : Byte) else readByte s.tile a := by
  refine (mget_filter_keys (0 : Byte) (fun a => !(us.filter (fun u => mget 0 s.owners u ≠ asid + 1)).contains (a / 65536)) s.tile a).trans ?_
  by_cases h : a / 65536 ∈ us ∧ mget 0 s.owners (a / 65536) ≠ asid + 1
  · simp [h]
  · rw [if_neg h, if_pos (by simpa [-not_and, not_and_or] using h)]
    rfl

/-- What a launch adds to a bound role is its place in the launch; the rest is the record's, or at its reset value. -/
theorem boundRole_eq (s : State) (k : Nat) (b : BindRec) (st : RoleState) : ∃ det ncores participant rank levels,
    boundRole s k b st = { Role.reset with
      st := st, blk := (s.role k).blk, part := b.part, asid := b.asid, lid := b.lid, twBase := b.twBase, twSize := b.twSize,
      save := b.save, hwStart := b.hwStart, hwLen := b.hwLen, recAddr := b.recAddr, lastAct := s.cycle,
      det := det, ncores := ncores, participant := participant, rank := rank, levels := levels } := by
  unfold boundRole
  dsimp only
  split
  · exact ⟨_, _, _, _, _, rfl⟩
  · exact ⟨_, _, _, _, _, rfl⟩

/-- A bound role with its clusters: at its entries with X1, or halted. -/
def bindClusters (r : Role) (b : BindRec) (run : Bool) : Role :=
  if run then (r.enter [b.entL, b.entM, b.entV, b.entW]).setX 1 b.arg
  else { r with cl := { Clu.zero with halted := true }, cm := { Clu.zero with halted := true },
                cv := { Clu.zero with halted := true }, cw := { Clu.zero with halted := true } }
/-- The KIND of a record that binds a role. -/
def bindKind (run : Bool) : Nat := if run then 1 else 2

theorem bindSlot_records {s : State} {k : Nat} {run : Bool} (h : (s.role k).st ≠ .free ∨ s.kindAt k = bindKind run) (b : BindRec) :
    bindSlot s k b run = s.putRecord k (bindKind run) b := by
  refine if_pos ?_
  rcases h with h | h
  · have hst : ((s.putRecord k (bindKind run) b).role k).st ≠ .free := h
    rw [Bool.or_eq_true]
    exact .inr (bne_iff_ne.mpr hst)
  · rw [Bool.or_eq_true]
    exact .inl (decide_eq_true h)

section
variable {s : State} {k : Nat} {run : Bool} (hfree : (s.role k).st = .free) (hkind : s.kindAt k ≠ bindKind run) (b : BindRec)
include hfree hkind

theorem bindSlot_binds : bindSlot s k b run =
    let t := takeUnits (s.putRecord k (bindKind run) b) (unitsOf (k / 4) b.twBase.toNat b.twSize.toNat) b.asid.toNat true
    beginSpan ((clearBars t b.part.toNat b.lid.toNat k).setRole k
      (bindClusters (boundRole s k b (if run then .running else .dormant)) b run)) b.part.toNat k := by
  have hst : ((s.putRecord k (bindKind run) b).role k).st = .free := hfree
  refine if_neg ?_
  rw [Bool.or_eq_true, not_or]
  exact ⟨fun h => hkind (of_decide_eq_true h), fun h => bne_iff_ne.mp h hst⟩

theorem role_bindSlot : (bindSlot s k b run).role k = bindClusters (boundRole s k b (if run then .running else .dormant)) b run := by
  rw [bindSlot_binds hfree hkind]
  exact mget_mput_same ..
theorem role_bindSlot_other {j : Nat} (hj : j ≠ k) : (bindSlot s k b run).role j = s.role j := by
  rw [bindSlot_binds hfree hkind]
  exact mget_mput_other _ _ _ _ _ hj
theorem mem_bindSlot : (bindSlot s k b run).mem = s.mem := by
  rw [bindSlot_binds hfree hkind]
  rfl
theorem readByte_bindSlot_window {a : Nat} (ha : ∃ i, i < (b.twSize.toNat + 65535) / 65536 ∧ a / 65536 = 64 * (k / 4) + b.twBase.toNat / 65536 + i) :
    readByte (bindSlot s k b run).tile a = if mget 0 s.owners (a / 65536) = b.asid.toNat + 1 then readByte s.tile a else 0 := by
  rw [bindSlot_binds hfree hkind]
  refine (readByte_takeUnits ..).trans ?_
  change (if _ ∧ mget 0 s.owners (a / 65536) ≠ _ then (0 : Byte) else readByte s.tile a) = _
  simp only [mem_unitsOf.mpr ha, true_and]
  exact ite_not ..
theorem readByte_bindSlot_outside {a : Nat} (ha : ∀ i, i < (b.twSize.toNat + 65535) / 65536 → a / 65536 ≠ 64 * (k / 4) + b.twBase.toNat / 65536 + i) :
    readByte (bindSlot s k b run).tile a = readByte s.tile a := by
  rw [bindSlot_binds hfree hkind]
  refine (readByte_takeUnits ..).trans (if_neg fun h => ?_)
  obtain ⟨i, hi, heq⟩ := mem_unitsOf.mp h.1
  exact ha i hi heq
end

/-- Beside its clusters, only X1 is set. -/
theorem bindClusters_eq (r : Role) (b : BindRec) (run : Bool) : ∃ cl cm cv cw, bindClusters r b run =
    { r with xs := if run then mset 0 r.xs 1 b.arg else r.xs, cl := cl, cm := cm, cv := cv, cw := cw } := by
  cases run
  · exact ⟨_, _, _, _, rfl⟩
  · exact ⟨_, _, _, _, rfl⟩
theorem x_bindClusters {r : Role} (hx : r.xs = []) (b : BindRec) (run : Bool) (n : Nat) :
    (bindClusters r b run).x n = if run = true ∧ n = 1 then b.arg else 0 := by
  obtain ⟨cl, cm, cv, cw, h⟩ := bindClusters_eq r b run
  rw [h, hx]
  cases run
  · rfl
  · refine (mget_mset ..).trans ?_
    simp [mget]
theorem clu_bindClusters_run (r : Role) (b : BindRec) (c : Cluster) :
    (bindClusters r b true).clu c = entryClu ([b.entL, b.entM, b.entV, b.entW].getD c.num 0) := by cases c <;> rfl
theorem clu_bindClusters_dormant (r : Role) (b : BindRec) (c : Cluster) :
    (bindClusters r b false).clu c = { Clu.zero with halted := true } := by cases c <;> rfl
/-- A bound cluster runs no loop. -/
theorem clu_bindClusters_loops (r : Role) (b : BindRec) (run : Bool) (c : Cluster) :
    ((bindClusters r b run).clu c).loops = [] ∧ ((bindClusters r b run).clu c).lrec = none := by
  cases run
  · rw [clu_bindClusters_dormant]
    exact ⟨rfl, rfl⟩
  · rw [clu_bindClusters_run]
    exact ⟨rfl, rfl⟩

theorem st_bindClusters (s : State) (k : Nat) (b : BindRec) (st : RoleState) (run : Bool) :
    (bindClusters (boundRole s k b st) b run).st = st := by
  obtain ⟨det, ncores, participant, rank, levels, hr⟩ := boundRole_eq s k b st
  obtain ⟨cl, cm, cv, cw, hc⟩ := bindClusters_eq (boundRole s k b st) b run
  rw [hc, hr]

end Sys2Proof.Machine
end

section
/-! ### What outlives a role (R46, R212, R313, R327, R344) -/
namespace Sys2Proof.Machine

/-- Every slot keeps its control block and ERR, and every partition its launches. -/
structure SameSlots (s t : State) : Prop where
  blk : ∀ j, (t.role j).blk = (s.role j).blk
  err : ∀ j, (t.role j).err = (s.role j).err
  launches : ∀ p, (t.partOr p).launches = (s.partOr p).launches

namespace SameSlots
theorem refl (s : State) : SameSlots s s := ⟨fun _ => rfl, fun _ => rfl, fun _ => rfl⟩
theorem trans {s t u : State} (h : SameSlots s t) (h' : SameSlots t u) : SameSlots s u :=
  ⟨fun j => (h'.blk j).trans (h.blk j), fun j => (h'.err j).trans (h.err j), fun p => (h'.launches p).trans (h.launches p)⟩
theorem of_fields {s t : State} (hr : t.roles = s.roles) (hp : t.parts = s.parts) : SameSlots s t :=
  ⟨fun j => by rw [State.role, hr]; rfl, fun j => by rw [State.role, hr]; rfl, fun p => by rw [State.partOr, hp]; rfl⟩
theorem of_onlyMemory {s t : State} (h : OnlyMemory s t) : SameSlots s t := of_fields (h.eq State.roles) (h.eq State.parts)
theorem of_onlyQueues {s t : State} (h : OnlyQueues s t) : SameSlots s t := by
  have hr : t.roles = s.roles := by rw [h.1]
  have hp : t.parts = s.parts := by rw [h.1]
  exact of_fields hr hp
theorem fold {α : Type} {f : State → α → State} (hf : ∀ s x, SameSlots s (f s x)) (l : List α) (s : State) :
    SameSlots s (l.foldl f s) := by
  induction l generalizing s with
  | nil => exact refl s
  | cons x t ih => exact (hf s x).trans (ih _)
theorem setRole {s : State} {k : Nat} {r : Role} (hb : r.blk = (s.role k).blk) (he : r.err = (s.role k).err) : SameSlots s (s.setRole k r) where
  blk j := by
    rw [role_setRole]
    split
    · next h => rw [h, hb]
    · rfl
  err j := by
    rw [role_setRole]
    split
    · next h => rw [h, he]
    · rfl
  launches _ := rfl
theorem modRoleAt {s : State} {k : Nat} {f : Role → Role} (hb : ∀ r, (f r).blk = r.blk := by intros; rfl)
    (he : ∀ r, (f r).err = r.err := by intros; rfl) : SameSlots s (s.modRoleAt k f) := setRole (hb _) (he _)
end SameSlots

/-! Copies and requests. -/

theorem sameSlots_noteFault (s : State) (k code : Nat) (a : Word) : SameSlots s (noteFault s k code a) := by
  unfold noteFault
  dsimp only
  split
  · refine SameSlots.trans (t := s.logViol 0 k a) (.of_fields rfl rfl) (.setRole ?_ ?_)
    · rfl
    · rfl
  · exact .refl s
theorem sameSlots_moveGranule (s : State) (k i : Nat) (c : CopyJob) : SameSlots s (moveGranule s k i c) := by
  have hfault (c : CopyJob) (f : CopyFault) : SameSlots s (faultCopy s k i c f) :=
    SameSlots.trans .modRoleAt (sameSlots_noteFault ..)
  unfold moveGranule
  dsimp only
  split
  · split
    · exact hfault ..
    · next h => exact (SameSlots.of_onlyMemory (onlyMemory_copyRead h)).trans .modRoleAt
  · split
    · exact hfault ..
    · next h => exact (SameSlots.of_onlyMemory (onlyMemory_copyWrite h)).trans .modRoleAt
theorem sameSlots_endCopies (s : State) (k : Nat) : SameSlots s (endCopies s k) := by
  unfold endCopies
  refine SameSlots.trans (.fold (fun s i => ?_) _ s) .modRoleAt
  split
  · split
    · exact sameSlots_moveGranule ..
    · exact .refl s
  · exact .refl s
theorem endCopies_none {s : State} {k : Nat} (h : (s.role k).copies = []) :
    endCopies s k = s.modRoleAt k (fun r => { r with copies := [] }) := by
  unfold endCopies
  rw [h]
  rfl

theorem deliver_ctl (r : Role) (id : Nat) (vals : List (Dest × Row)) :
    (r.deliver id vals).blk = r.blk ∧ (r.deliver id vals).err = r.err := by
  induction vals generalizing r with
  | nil => exact ⟨rfl, rfl⟩
  | cons x t ih =>
    obtain ⟨d, v⟩ := x
    cases d with
    | x n => exact ih _
    | p n =>
      obtain ⟨hb, he⟩ := ih (r.setP n (if v = 0 then 0 else allOnes))
      exact ⟨hb.trans (Role.setP_blk ..), he.trans (Role.setP_err ..)⟩
    | q n => exact ih _
    | gone => exact ih _

/-- Only roles differ, and each has its control block and ERR. -/
structure OnlyRoles (s t : State) : Prop where
  only : t = { s with roles := t.roles }
  blk : ∀ j, (t.role j).blk = (s.role j).blk
  err : ∀ j, (t.role j).err = (s.role j).err

theorem OnlyRoles.refl (s : State) : OnlyRoles s s := ⟨rfl, fun _ => rfl, fun _ => rfl⟩
theorem OnlyRoles.trans {s t u : State} (h : OnlyRoles s t) (h' : OnlyRoles t u) : OnlyRoles s u where
  only := by
    have hu := h'.only
    rw [h.only] at hu
    exact hu
  blk j := (h'.blk j).trans (h.blk j)
  err j := (h'.err j).trans (h.err j)
theorem OnlyRoles.fold {α : Type} {f : State → α → State} (hf : ∀ s x, OnlyRoles s (f s x)) (l : List α) (s : State) :
    OnlyRoles s (l.foldl f s) := by
  induction l generalizing s with
  | nil => exact refl s
  | cons x t ih => exact (hf s x).trans (ih _)
theorem onlyRoles_modRoleAt (s : State) (k : Nat) {f : Role → Role} (hf : ∀ r, (f r).blk = r.blk ∧ (f r).err = r.err) :
    OnlyRoles s (s.modRoleAt k f) := by
  have h : SameSlots s (s.modRoleAt k f) := .modRoleAt (fun r => (hf r).1) (fun r => (hf r).2)
  exact ⟨rfl, h.blk, h.err⟩

theorem onlyRoles_finishWith (s : State) (k : Nat) (a : Access) (vals : List (Dest × Row)) : OnlyRoles s (finishWith s k a vals) := by
  refine onlyRoles_modRoleAt s k fun r => ?_
  split
  · exact ⟨rfl, rfl⟩
  · exact deliver_ctl ..
theorem onlyRoles_completeCueLoad (s : State) (k : Nat) (a : Access) (pa n : Nat) : OnlyRoles s (completeCueLoad s k a pa n) := by
  have hstir : OnlyRoles s (s.stir k) := onlyRoles_modRoleAt s k fun _ => ⟨rfl, rfl⟩
  unfold completeCueLoad
  dsimp only
  split
  · split
    · exact hstir.trans (onlyRoles_modRoleAt _ k fun _ => ⟨rfl, rfl⟩)
    · exact hstir.trans (onlyRoles_finishWith ..)
  · exact hstir.trans (onlyRoles_finishWith ..)
/-- R341: waking the waiters of a cell changes roles alone. -/
theorem onlyRoles_wake (s : State) (cell : Nat) : OnlyRoles s (wake s cell) := by
  unfold wake
  exact .fold (fun s kr => .fold (fun s a => onlyRoles_completeCueLoad ..) _ s) _ s

/-! Cells that fault (R344). -/

/-- What resolving a cell leaves but the roles: its words, its tag, the pending touches without the cell's. -/
theorem onlyRoles_resolveCell (s : State) (pa : Nat) (ws : List Word) (t : BitVec 2) :
    OnlyRoles (dropTouch ((s.setCell pa ws).setTag pa t) (cellBase pa)) (resolveCell s pa ws t) := onlyRoles_wake ..
theorem sameSlots_resolveCell (s : State) (pa : Nat) (ws : List Word) (t : BitVec 2) : SameSlots s (resolveCell s pa ws t) := by
  have h := onlyRoles_resolveCell s pa ws t
  have hparts : (resolveCell s pa ws t).parts = s.parts := by rw [h.only]; rfl
  exact ⟨h.blk, h.err, fun p => by rw [State.partOr, hparts]; rfl⟩
theorem wins_resolveCell (s : State) (pa : Nat) (ws : List Word) (t : BitVec 2) : (resolveCell s pa ws t).wins = s.wins := by
  rw [(onlyRoles_resolveCell s pa ws t).only]
  rfl
theorem mem_resolveCell (s : State) (pa : Nat) (ws : List Word) (t : BitVec 2) :
    (resolveCell s pa ws t).mem = (s.setCell pa ws).mem := by
  rw [(onlyRoles_resolveCell s pa ws t).only]
  rfl
theorem tag_resolveCell (s : State) (pa : Nat) (ws : List Word) (t : BitVec 2) (b : Nat) :
    (resolveCell s pa ws t).tag b = if b / 64 = pa / 64 then t else s.tag b := by
  rw [(onlyRoles_resolveCell s pa ws t).only]
  exact mget_mset ..

theorem faultCells_zero (s : State) (k rank reason : Nat) : faultCells s 0 k rank reason = s := if_pos rfl
theorem sameSlots_faultCells (s : State) (eid : BitVec 32) (k rank reason : Nat) : SameSlots s (faultCells s eid k rank reason) := by
  unfold faultCells
  split
  · exact .refl s
  · exact .fold (fun s t => sameSlots_resolveCell ..) _ s

/-- Cell number g is FAULTED, and word 0 of it is w. -/
def FaultedCell (s : State) (g : Nat) (w : Word) : Prop := s.tag (64 * g) = tagFAULTED ∧ s.cellWord (64 * g) 0 = w
/-- The words of a cell that has faulted. -/
def faultedWords (w : Word) : List Word := [w, 0, 0, 0, 0, 0, 0, 0]
def faultCell (w : Word) (s : State) (t : Nat × BitVec 2) : State := resolveCell s (64 * t.1) (faultedWords w) tagFAULTED

theorem cellBase_mul (g : Nat) : cellBase (64 * g) = 64 * g := by
  unfold cellBase
  omega
theorem memWord_setCell_same (s : State) (g : Nat) (w : Word) : (s.setCell (64 * g) (faultedWords w)).memWord (64 * g) = w := by
  have h := memRead_memWrite_same s (64 * g) ((faultedWords w).flatMap wordLe)
  rw [show ((faultedWords w).flatMap wordLe).length = 8 + 56 by simp [faultedWords, wordLe_length], State.memRead, readBytes_append] at h
  obtain ⟨hword, -⟩ := List.append_inj (t₁ := _) (s₂ := wordLe w) h (by rw [readBytes_length, wordLe_length])
  unfold State.setCell
  rw [cellBase_mul, State.memWord, State.memRead, hword, leWord_wordLe]
theorem memWord_setCell_other {g g' : Nat} (h : g ≠ g') (s : State) (w : Word) :
    (s.setCell (64 * g') (faultedWords w)).memWord (64 * g) = s.memWord (64 * g) := by
  have hlen : ((faultedWords w).flatMap wordLe).length = 64 := by simp [faultedWords, wordLe_length]
  unfold State.setCell State.memWord
  rw [cellBase_mul, memRead_memWrite_outside _ _ _ _ _ (by omega)]

theorem cellWord_faultCell (s : State) (g : Nat) (w : Word) (t : Nat × BitVec 2) :
    (faultCell w s t).cellWord (64 * g) 0 = if g = t.1 then w else s.cellWord (64 * g) 0 := by
  have hword (u : State) : u.cellWord (64 * g) 0 = u.memWord (64 * g) := by rw [State.cellWord, cellBase_mul]; rfl
  have hmem : (faultCell w s t).memWord (64 * g) = (s.setCell (64 * t.1) (faultedWords w)).memWord (64 * g) := by
    unfold State.memWord State.memRead faultCell
    rw [mem_resolveCell]
  rw [hword, hword, hmem]
  split
  · next h => rw [h, memWord_setCell_same]
  · next h => rw [memWord_setCell_other h]

theorem faultedCell_of_fields {s t : State} (hm : t.mem = s.mem) (ht : t.tags = s.tags) {g : Nat} {w : Word} (h : FaultedCell s g w) :
    FaultedCell t g w := by
  unfold FaultedCell State.tag State.cellWord State.memWord State.memRead at *
  rw [hm, ht]
  exact h
theorem faultedCell_same (s : State) (w : Word) (t : Nat × BitVec 2) : FaultedCell (faultCell w s t) t.1 w :=
  ⟨(tag_resolveCell ..).trans (if_pos rfl), (cellWord_faultCell ..).trans (if_pos rfl)⟩
theorem faultedCell_keeps {s : State} {g : Nat} {w : Word} (h : FaultedCell s g w) (t : Nat × BitVec 2) : FaultedCell (faultCell w s t) g w := by
  obtain ⟨htag, hword⟩ := h
  refine ⟨(tag_resolveCell ..).trans ?_, (cellWord_faultCell ..).trans ?_⟩
  · rw [htag]
    exact ite_self _
  · rw [hword]
    exact ite_self _
theorem faultedCell_fold {w : Word} {t : Nat × BitVec 2} (l : List (Nat × BitVec 2)) (s : State)
    (h : t ∈ l ∨ FaultedCell s t.1 w) : FaultedCell (l.foldl (faultCell w) s) t.1 w := by
  induction l generalizing s with
  | nil => exact h.resolve_left (List.not_mem_nil)
  | cons x l ih =>
    refine ih _ ?_
    rcases h with h | h
    · rcases List.mem_cons.mp h with rfl | h
      · exact .inr (faultedCell_same ..)
      · exact .inl h
    · exact .inr (faultedCell_keeps h x)

/-- R344: a cell that runs under an EID is FAULTED, with the fault word. -/
theorem faultedCell_faultCells {s : State} {eid : BitVec 32} {g : Nat} (heid : eid ≠ 0) (hg : (g, (2 : BitVec 2)) ∈ s.tags)
    (hword : (s.cellWord (64 * g) 7).setWidth 32 = eid) (k rank reason : Nat) :
    FaultedCell (faultCells s eid k rank reason) g (faultWord k rank reason 0) := by
  unfold faultCells
  rw [if_neg heid]
  exact faultedCell_fold (t := (g, 2)) _ s (.inl (List.mem_filter.mpr ⟨hg, by simp [hword, tagRUNNING]⟩))

theorem wins_faultCells (s : State) (eid : BitVec 32) (k rank reason : Nat) : (faultCells s eid k rank reason).wins = s.wins := by
  unfold faultCells
  split
  · rfl
  · exact foldl_keeps State.wins _ s fun s t => wins_resolveCell ..

/-! Windows that stall (R414). -/

theorem sameSlots_lateLog (s : State) (n : Nat) (rec_ : List Byte) : SameSlots s (lateLog s n rec_) := .of_fields rfl rfl
theorem sameSlots_closeWin (s : State) (i : Nat) (w : CWin) : SameSlots s (closeWin s i w) := by
  have hdel : SameSlots s { s with wins := mdel s.wins i } := .of_fields rfl rfl
  exact hdel.trans (.fold (fun s x => sameSlots_lateLog s w.stream x) _ _)
theorem sameSlots_closeIfDue (s : State) (i : Nat) : SameSlots s (closeIfDue s i) := by
  unfold closeIfDue
  split
  · exact .refl s
  · dsimp only
    split
    · exact sameSlots_closeWin ..
    · exact .refl s
theorem sameSlots_stallWindows (s : State) (k : Nat) : SameSlots s (stallWindows s k) := by
  refine SameSlots.fold (fun s p => ?_) _ s
  refine SameSlots.trans ?_ (sameSlots_closeIfDue ..)
  refine SameSlots.trans ?_ (.of_onlyQueues (onlyQueues_notice ..))
  exact .of_fields rfl rfl
theorem stallWindows_none {s : State} (h : s.wins = []) (k : Nat) : stallWindows s k = s := by
  unfold stallWindows stallHeld
  rw [h]
  rfl

theorem freeAreaOf_eq (s : State) (c : Nat) (a : Option Nat) : ∃ cores, s.freeAreaOf c a = { s with cores := cores } := by
  cases a
  · exact ⟨s.cores, rfl⟩
  · exact ⟨_, rfl⟩

/-! Neighbour links (R212). -/

/-- Channels emptied one pair after another, as `dropLinks` does. -/
def emptyChans (s : State) (k : Nat) (l : List Nat) : State := l.foldl (fun s d => (s.setChan (srcChan k d) []).setChan (sinkChan k d) []) s
theorem dropLinks_emptyChans (s : State) (k : Nat) : dropLinks s k = emptyChans s k (List.range 4) := rfl

theorem emptyChans_only (s : State) (k : Nat) (l : List Nat) : emptyChans s k l = { s with chans := (emptyChans s k l).chans } := by
  induction l generalizing s with
  | nil => rfl
  | cons d l ih => exact ih ((s.setChan (srcChan k d) []).setChan (sinkChan k d) [])
theorem chan_setChan (s : State) (c d : Nat) (l : List ChanVec) : (s.setChan c l).chan d = if d = c then l else s.chan d := mget_mset ..
theorem chan_setChan_nil (s : State) {c d : Nat} (h : d = c ∨ s.chan d = []) : (s.setChan c []).chan d = [] := by
  rw [chan_setChan]
  split
  · rfl
  · next hne => exact h.resolve_left hne
/-- A channel that has been emptied stays empty. -/
theorem chan_emptyChans {k c : Nat} (l : List Nat) (s : State) (h : (∃ d ∈ l, c = srcChan k d ∨ c = sinkChan k d) ∨ s.chan c = []) :
    (emptyChans s k l).chan c = [] := by
  induction l generalizing s with
  | nil => exact h.resolve_left (by simp)
  | cons x l ih =>
    refine ih _ ?_
    rcases h with ⟨d, hd, hc⟩ | h
    · rcases List.mem_cons.mp hd with rfl | hd
      · rcases hc with rfl | rfl
        · exact .inr (chan_setChan_nil _ (.inr (chan_setChan_nil _ (.inl rfl))))
        · exact .inr (chan_setChan_nil _ (.inl rfl))
      · exact .inl ⟨d, hd, hc⟩
    · exact .inr (chan_setChan_nil _ (.inr (chan_setChan_nil _ (.inr h))))
theorem chan_dropLinks (s : State) {k d : Nat} (hd : d < 4) : (dropLinks s k).chan (srcChan k d) = [] ∧ (dropLinks s k).chan (sinkChan k d) = [] :=
  ⟨chan_emptyChans _ s (.inl ⟨d, List.mem_range.mpr hd, .inl rfl⟩), chan_emptyChans _ s (.inl ⟨d, List.mem_range.mpr hd, .inr rfl⟩)⟩

/-! The slot that becomes FREE (R46). -/

theorem emptyRecord_only (s : State) (k : Nat) : s.emptyRecord k = { s with slotTab := (s.emptyRecord k).slotTab } := by
  obtain ⟨tab, htab⟩ := emptyRecord_cases s k
  rw [htab]
theorem sameSlots_forgetSends (s : State) (k : Nat) : SameSlots s (forgetSends s k) where
  blk _ := rfl
  err _ := rfl
  launches p := by
    unfold State.partOr forgetSends
    exact mget_map_apply (g := Part.launches)
      (f := fun p => { p with spawns := p.spawns.map (fun x => if x.key = k then { x with after := [] } else x) })
      (fun _ => rfl) s.parts p
theorem clearSlot_chans (s : State) (k : Nat) : (clearSlot s k).chans = s.chans := by
  unfold clearSlot
  dsimp only
  rw [emptyRecord_only]
  rfl
theorem clearSlot_tags (s : State) (k : Nat) : (clearSlot s k).tags = s.tags := by
  unfold clearSlot
  dsimp only
  rw [emptyRecord_only]
  rfl
theorem clearSlot_parts (s : State) (k : Nat) : (clearSlot s k).parts = (forgetSends s k).parts := by
  unfold clearSlot
  dsimp only
  rw [emptyRecord_only]
  rfl
theorem sameSlots_clearSlot (s : State) (k : Nat) : SameSlots s (clearSlot s k) := by
  have hset : SameSlots (forgetSends s k) ((forgetSends s k).setRole k { Role.reset with blk := (s.role k).blk, err := (s.role k).err }) :=
    .setRole rfl rfl
  exact (sameSlots_forgetSends s k).trans (hset.trans (.of_fields (clearSlot_roles s k) (clearSlot_parts s k)))

/-- R46, R327, R344: the state in which all that role k leads has ended, before its slot is cleared. -/
def ended (s : State) (k reason : Nat) : State :=
  let r := s.role k
  let rank := r.rank.toNat % 2 ^ 16
  let t := releaseHolds (endCopies s k) r.asid.toNat k rank r.holds
  dropLinks ((stallWindows (faultCells t r.eid k rank reason) k).freeAreaOf (k / 4) r.arrival) k
theorem freeRole_eq (s : State) (k reason : Nat) : freeRole s k reason = clearSlot (ended s k reason) k := rfl

theorem sameSlots_freeAreaOf (s : State) (c : Nat) (a : Option Nat) : SameSlots s (s.freeAreaOf c a) := by
  cases a
  · exact .refl s
  · exact .of_fields rfl rfl
theorem sameSlots_dropLinks (s : State) (k : Nat) : SameSlots s (dropLinks s k) := by
  rw [dropLinks_emptyChans, emptyChans_only]
  exact .of_fields rfl rfl
theorem sameSlots_ended (s : State) (k reason : Nat) : SameSlots s (ended s k reason) := by
  refine SameSlots.trans ?_ (sameSlots_dropLinks ..)
  refine SameSlots.trans ?_ (sameSlots_freeAreaOf ..)
  refine SameSlots.trans ?_ (sameSlots_stallWindows ..)
  refine SameSlots.trans ?_ (sameSlots_faultCells ..)
  exact (sameSlots_endCopies s k).trans (.of_onlyMemory (onlyMemory_releaseHolds ..))

/-- R46: what is left of a role that goes to FREE is its control block. -/
theorem freeRole_role (s : State) (k reason : Nat) :
    (freeRole s k reason).role k = { Role.reset with blk := (s.role k).blk, err := (s.role k).err } := by
  rw [freeRole_eq, clearSlot_role, (sameSlots_ended s k reason).blk, (sameSlots_ended s k reason).err]
theorem freeRole_launches (s : State) (k reason p : Nat) : ((freeRole s k reason).partOr p).launches = (s.partOr p).launches :=
  ((sameSlots_ended s k reason).trans (sameSlots_clearSlot ..)).launches p
theorem freeRole_chans (s : State) (k reason : Nat) {d : Nat} (hd : d < 4) :
    (freeRole s k reason).chan (srcChan k d) = [] ∧ (freeRole s k reason).chan (sinkChan k d) = [] := by
  unfold State.chan
  rw [freeRole_eq, clearSlot_chans]
  exact chan_dropLinks _ hd

/-- R344: where nothing else of the role is to end, the cells that run under its EID are FAULTED. -/
theorem freeRole_faults {s : State} {k : Nat} (heid : (s.role k).eid ≠ 0) (hcopies : (s.role k).copies = [])
    (hholds : (s.role k).holds = []) (hwins : s.wins = []) {g : Nat} (hg : (g, (2 : BitVec 2)) ∈ s.tags)
    (hword : (s.cellWord (64 * g) 7).setWidth 32 = (s.role k).eid) (reason : Nat) :
    FaultedCell (freeRole s k reason) g (faultWord k ((s.role k).rank.toNat % 2 ^ 16) reason 0) := by
  let t := faultCells (endCopies s k) (s.role k).eid k ((s.role k).rank.toNat % 2 ^ 16) reason
  have hends : endCopies s k = s.modRoleAt k (fun r => { r with copies := [] }) := endCopies_none hcopies
  have hfault : FaultedCell t g (faultWord k ((s.role k).rank.toNat % 2 ^ 16) reason 0) :=
    faultedCell_faultCells heid (by rw [hends]; exact hg) (by rw [hends]; exact hword) ..
  have htwins : t.wins = [] := (wins_faultCells ..).trans (by rw [hends]; exact hwins)
  obtain ⟨cores, hcores⟩ := freeAreaOf_eq t (k / 4) (s.role k).arrival
  have hended : ended s k reason = dropLinks { t with cores := cores } k := by
    unfold ended
    dsimp only
    rw [hholds]
    change dropLinks ((stallWindows t k).freeAreaOf (k / 4) (s.role k).arrival) k = _
    rw [stallWindows_none htwins, hcores]
  rw [freeRole_eq, hended, dropLinks_emptyChans, emptyChans_only]
  exact faultedCell_of_fields (clearSlot_mem ..) (clearSlot_tags ..) hfault

end Sys2Proof.Machine
end

section
/-! ### Retirement and commands to slots (R46, R311, R313, R361, R395) -/
namespace Sys2Proof.Machine

theorem mget_of_mfind_none {α : Type} {m : SMap α} {k : Nat} (h : mfind m k = none) (d : α) : mget d m k = d := by
  induction m with
  | nil => rfl
  | cons x t ih =>
    rw [mfind] at h
    rw [mget]
    split at h
    · nomatch h
    · next hne => rw [if_neg hne, ih h]

/-! The line of a role. -/

theorem raiseLine_cases (s : State) (k : Nat) : ∃ parts, raiseLine s k = { s with parts := parts } := by
  rcases modLaunch_cases s (s.role k).part.toNat (s.role k).lid.toNat
    (fun l => { l with lines := l.lines.map (fun x => if x.key = k then { x with raised := true } else x) }) with h | ⟨ls, h⟩
  · exact ⟨s.parts, h⟩
  · exact ⟨_, h⟩
theorem raiseLine_role (s : State) (k j : Nat) : (raiseLine s k).role j = s.role j := by
  obtain ⟨parts, h⟩ := raiseLine_cases s k
  rw [h]
  rfl

/-- R313, R395: the line of a role is raised in each launch of its id that has not completed. -/
theorem raiseLine_raised {s : State} {k : Nat} {l : Launch} (hl : l ∈ ((raiseLine s k).partOr (s.role k).part.toNat).launches)
    (hid : l.id = (s.role k).lid) (hword : l.word = none) : ∀ x ∈ l.lines, x.key = k → x.raised = true := by
  unfold raiseLine State.modLaunch at hl
  dsimp only at hl
  split at hl
  · next hnone =>
    rw [State.partOr, mget_of_mfind_none hnone] at hl
    nomatch hl
  · next p hp =>
    rw [partOr_setPart_same] at hl
    obtain ⟨m, -, rfl⟩ := List.mem_map.mp hl
    split at hid
    · next hm =>
      rw [if_pos hm]
      intro x hx hk
      obtain ⟨y, -, rfl⟩ := List.mem_map.mp hx
      by_cases hy : y.key = k
      · rw [if_pos hy]
      · rw [if_neg hy] at hk
        exact absurd hk hy
    · next hm =>
      rw [if_neg hm] at hword
      exact absurd (by simp [hid, hword]) hm

/-! RETIREMENT. -/

theorem drained_nothing {s : State} {k : Nat} (h : drained s k = true) : (s.role k).acc = [] ∧ (s.role k).copies = [] := by
  simp only [drained, Bool.and_eq_true, decide_eq_true_eq] at h
  exact ⟨h.1.1.1, h.1.1.2⟩
theorem anyFault_nothing {r : Role} (ha : r.acc = []) (hc : r.copies = []) : r.anyFault = none := by
  unfold Role.anyFault Role.hasFault
  rw [ha, hc]
  rfl

theorem goDormant_quiet {s : State} {k : Nat} (heid : (s.role k).eid = 0) (hwins : s.wins = []) : goDormant s k =
    (s.freeAreaOf (k / 4) (s.role k).arrival).setRole k { s.role k with
      st := .dormant, qs := [], arrival := none, eid := 0, stopReq := none, cl := (s.role k).cl.retired, cm := (s.role k).cm.retired,
      cv := (s.role k).cv.retired, cw := (s.role k).cw.retired } := by
  obtain ⟨cores, hcores⟩ := freeAreaOf_eq s (k / 4) (s.role k).arrival
  unfold goDormant
  dsimp only
  rw [heid, faultCells_zero, stallWindows_none hwins, hcores]
  rfl

theorem exec_retirement_awake {s : State} {rs : Slot} (hlive : (s.role rs.key).allHalted = false) : exec (.retirement rs) s = .next s :=
  congrArg Host.Outcome.next (if_pos (by simp [hlive]))

section
variable {s : State} {rs : Slot} (hst : (s.role rs.key).st = .running)
include hst

theorem exec_retirement_busy (hhalt : (s.role rs.key).allHalted = true) (hf : (s.role rs.key).anyFault = none)
    (hd : drained s rs.key = false) : exec (.retirement rs) s = .next s := by
  change execRetirement rs s = _
  unfold execRetirement
  simp [hst, hhalt, hf, hd]

/-- R46, R313: a role that retires raises its line and leaves its slot, or goes DORMANT. -/
theorem exec_retirement_drained (hhalt : (s.role rs.key).allHalted = true) (hd : drained s rs.key = true) :
    exec (.retirement rs) s =
      .next (if (s.role rs.key).hwLen = 0 then freeRole (raiseLine s rs.key) rs.key 2 else goDormant (raiseLine s rs.key) rs.key) := by
  obtain ⟨ha, hc⟩ := drained_nothing hd
  change execRetirement rs s = _
  unfold execRetirement
  simp [hst, hhalt, hd, anyFault_nothing ha hc]

theorem exec_retirement_dormant (hhalt : (s.role rs.key).allHalted = true) (hd : drained s rs.key = true)
    (hw : (s.role rs.key).hwLen ≠ 0) (heid : (s.role rs.key).eid = 0) (hwins : s.wins = []) : exec (.retirement rs) s =
      .next (((raiseLine s rs.key).freeAreaOf (rs.key / 4) (s.role rs.key).arrival).setRole rs.key { s.role rs.key with
        st := .dormant, qs := [], arrival := none, eid := 0, stopReq := none, cl := (s.role rs.key).cl.retired,
        cm := (s.role rs.key).cm.retired, cv := (s.role rs.key).cv.retired, cw := (s.role rs.key).cw.retired }) := by
  have hrole := raiseLine_role s rs.key rs.key
  have hraised : (raiseLine s rs.key).wins = [] := by
    obtain ⟨parts, h⟩ := raiseLine_cases s rs.key
    rw [h]
    exact hwins
  rw [exec_retirement_drained hst hhalt hd, if_neg hw, goDormant_quiet (hrole ▸ heid) hraised, hrole]

theorem exec_retirement_free (hhalt : (s.role rs.key).allHalted = true) (hd : drained s rs.key = true)
    (hw : (s.role rs.key).hwLen = 0) : ∃ u, exec (.retirement rs) s = .next u ∧
      u.role rs.key = { Role.reset with blk := (s.role rs.key).blk, err := (s.role rs.key).err } := by
  refine ⟨_, (exec_retirement_drained hst hhalt hd).trans (by rw [if_pos hw]), ?_⟩
  rw [freeRole_role, raiseLine_role]
end

/-! FREE_SLOT and KILL. -/

theorem setErr_idle {s : State} {k : Nat} (hb : (s.role k).busy = false) (e : Nat) :
    setErr s k e = s.setRole k { s.role k with err := e } := by
  rw [setErr, State.modRoleAt, ← hb]

theorem exec_freeSlot_free {s : State} {rs : Slot} (h : (s.role rs.key).st = .free) : exec (.freeSlot rs) s = .next s :=
  congrArg Host.Outcome.next (if_pos (by simp [h]))
theorem exec_freeSlot_taken {s : State} {rs : Slot} (h : (s.role rs.key).st ≠ .free) :
    exec (.freeSlot rs) s = .next (freeRole s rs.key 1) :=
  congrArg Host.Outcome.next (if_neg (by simp [h]))

section
variable {s : State} {by_ : Master} {rs : Slot} (hw : awake s by_ = true) (hr : reachesSlot s by_ rs.key = true)
include hw hr

/-- R361: a command of a master that reaches the slot acts, while it is not BUSY. -/
theorem command_acts (hb : (s.role rs.key).busy = false) (f : State → State) : command by_ rs.key s f = f s := by
  simp [command, hw, hr, hb]

theorem exec_kill_busy (hb : (s.role rs.key).busy = true) : exec (.kill by_ rs) s = .next s :=
  congrArg Host.Outcome.next (if_pos (by simp [hw, hr, hb]))
theorem exec_kill_acts (hb : (s.role rs.key).busy = false) : exec (.kill by_ rs) s =
    .next (if (s.role rs.key).st == .free then setErr s rs.key 1 else setErr (freeRole (raiseLine s rs.key) rs.key 1) rs.key 0) :=
  congrArg Host.Outcome.next ((if_neg (by simp [hb])).trans (command_acts hw hr hb _))
theorem exec_kill_free (hb : (s.role rs.key).busy = false) (hst : (s.role rs.key).st = .free) :
    exec (.kill by_ rs) s = .next (s.setRole rs.key { s.role rs.key with err := 1 }) := by
  rw [exec_kill_acts hw hr hb, if_pos (by simp [hst]), setErr_idle hb]
theorem exec_kill_taken (hb : (s.role rs.key).busy = false) (hst : (s.role rs.key).st ≠ .free) :
    exec (.kill by_ rs) s = .next (setErr (freeRole (raiseLine s rs.key) rs.key 1) rs.key 0) := by
  rw [exec_kill_acts hw hr hb, if_neg (by simp [hst])]
end

/-- R395: a role that is killed leaves its control block, with ERR 0. -/
theorem killed_role (s : State) (k : Nat) :
    (setErr (freeRole (raiseLine s k) k 1) k 0).role k = { Role.reset with blk := (s.role k).blk, err := 0 } := by
  rw [setErr, State.modRoleAt, role_setRole_same, freeRole_role, raiseLine_role]
  rfl
theorem killed_launches (s : State) (k pn : Nat) :
    ((setErr (freeRole (raiseLine s k) k 1) k 0).partOr pn).launches = ((raiseLine s k).partOr pn).launches := freeRole_launches ..
theorem killed_chans (s : State) {k d : Nat} (hd : d < 4) : (setErr (freeRole (raiseLine s k) k 1) k 0).chan (srcChan k d) = [] ∧
    (setErr (freeRole (raiseLine s k) k 1) k 0).chan (sinkChan k d) = [] := freeRole_chans _ k 1 hd

theorem faultWord_slot (rs : Slot) (rank : Nat) : faultWord rs.key rank 1 0 =
    BitVec.ofNat 64 (rs.core.toNat + rs.slot.toNat * 2 ^ 8 + rank % 2 ^ 16 * 2 ^ 16 + 2 ^ 32) := by
  have hslot := rs.slot.isLt
  have hcore : rs.key / 4 = rs.core.toNat := by unfold Slot.key; omega
  have hnum : rs.key % 4 = rs.slot.toNat := by unfold Slot.key; omega
  unfold faultWord
  rw [hcore, hnum]
  simp

/-- R344: the cells that run under the EID of a role that is killed. -/
theorem killed_faults {s : State} {rs : Slot} (heid : (s.role rs.key).eid ≠ 0) (hcopies : (s.role rs.key).copies = [])
    (hholds : (s.role rs.key).holds = []) (hwins : s.wins = []) {g : Nat} (hg : (g, (2 : BitVec 2)) ∈ s.tags)
    (hword : (s.cellWord (64 * g) 7).setWidth 32 = (s.role rs.key).eid) :
    FaultedCell (setErr (freeRole (raiseLine s rs.key) rs.key 1) rs.key 0) g (BitVec.ofNat 64 (rs.core.toNat + rs.slot.toNat * 2 ^ 8 +
      (s.role rs.key).rank.toNat % 2 ^ 16 * 2 ^ 16 + 2 ^ 32)) := by
  have hrole := raiseLine_role s rs.key rs.key
  obtain ⟨parts, hraise⟩ := raiseLine_cases s rs.key
  have h := freeRole_faults (s := raiseLine s rs.key) (k := rs.key) (g := g) (hrole ▸ heid) (hrole ▸ hcopies) (hrole ▸ hholds)
    (by rw [hraise]; exact hwins) (by rw [hraise]; exact hg) (by rw [hrole, hraise]; exact hword) 1
  rw [hrole, faultWord_slot, Nat.mod_mod] at h
  exact faultedCell_of_fields rfl rfl h

/-! WINFREE and WINREADY. -/

/-- A launch under way has a role of slot k switched out that a notice has named. -/
def reported (k : Nat) (named : Swapped → Bool) (l : Launch) : Bool := l.word.isNone && l.swapped.any (fun w => w.key = k && named w)
/-- What the report makes of a role that is switched out. -/
def markReport (k : Nat) (named : Swapped → Bool) (f : Swapped → Swapped) (w : Swapped) : Swapped := if w.key = k && named w then f w else w
/-- A launch once the report has come. -/
def afterReport (k : Nat) (named : Swapped → Bool) (f : Swapped → Swapped) (l : Launch) : Launch :=
  if reported k named l then { l with swapped := l.swapped.map (markReport k named f) } else l

theorem reported_of_mem {k : Nat} {named : Swapped → Bool} {l : Launch} {w : Swapped} (hword : l.word = none) (hw : w ∈ l.swapped)
    (hk : w.key = k) (hn : named w = true) : reported k named l = true := by
  rw [reported, hword]
  exact List.any_eq_true.mpr ⟨w, hw, by simp [hk, hn]⟩
theorem markReport_named {k : Nat} {named : Swapped → Bool} {w : Swapped} (hk : w.key = k) (hn : named w = true) (f : Swapped → Swapped) :
    markReport k named f w = f w := if_pos (by simp [hk, hn])

/-- A role of slot k that is switched out, after the report: one that no notice named, or what the report makes of one. -/
theorem mem_afterReport {k : Nat} {named : Swapped → Bool} {f : Swapped → Swapped} {l : Launch} {w : Swapped}
    (hword : (afterReport k named f l).word = none) (hw : w ∈ (afterReport k named f l).swapped)
    (hk : w.key = k) : named w = false ∨ ∃ v, w = f v := by
  unfold afterReport at hword hw
  split at hw
  · obtain ⟨v, -, rfl⟩ := List.mem_map.mp hw
    by_cases hv : v.key = k && named v
    · exact .inr ⟨v, if_pos hv⟩
    · rw [markReport, if_neg hv] at hk ⊢
      exact .inl (by simpa [hk] using hv)
  · next hr =>
    rw [if_neg hr] at hword
    exact .inl (Bool.eq_false_iff.mpr fun hn => hr (reported_of_mem hword hw hk hn))

/-- Slot rs is FREE, on a core of service core n's partition pn, whose state is p, and its block is not BUSY. -/
structure FreeInPart (s : State) (n pn : Nat) (rs : Slot) (p : Part) : Prop where
  part : s.svcPart n = some pn
  live : (s.svc n).frozen = false
  found : mfind s.parts pn = some p
  core : p.record.cores.contains (rs.key / 4) = true
  free : (s.role rs.key).st = .free
  idle : (s.role rs.key).busy = false

section
variable {s : State} {n pn : Nat} {rs : Slot} {p : Part} (h : FreeInPart s n pn rs p)
include h

theorem FreeInPart.reaches : reachesSlot s (.svc n) rs.key = true := by
  unfold reachesSlot
  simp only [h.part]
  rw [if_pos (by simp [h.free]), State.partOr, mget_of_mfind h.found, h.core]

theorem FreeInPart.report (named : Swapped → Bool) (f : Swapped → Swapped) :
    command (.svc n) rs.key s (windowReport (.svc n) rs.key named f) =
      if p.launches.any (reported rs.key named) then
        (s.setPart pn { p with launches := p.launches.map (afterReport rs.key named f) }).setRole rs.key { s.role rs.key with err := 0 }
      else s.setRole rs.key { s.role rs.key with err := 1 } := by
  have hpart : s.partOr pn = p := mget_of_mfind h.found
  have hreport : windowReport (.svc n) rs.key named f s = if !p.launches.any (reported rs.key named) then setErr s rs.key 1
      else setErr (s.setPart pn { p with launches := p.launches.map (afterReport rs.key named f) }) rs.key 0 := by
    unfold windowReport
    simp only [h.part, Option.getD_some, hpart, h.free, bne_self_eq_false, Bool.false_or]
    rfl
  rw [command_acts (awake_svc h.part h.live) h.reaches h.idle, hreport]
  cases p.launches.any (reported rs.key named)
  · exact setErr_idle h.idle 1
  · exact setErr_idle (s := s.setPart pn { p with launches := p.launches.map (afterReport rs.key named f) }) h.idle 0

/-- R311: a report for a slot that no notice has named is refused. -/
theorem FreeInPart.report_refused (hnone : ∀ l ∈ p.launches, ∀ w ∈ l.swapped, w.key ≠ rs.key) (named : Swapped → Bool)
    (f : Swapped → Swapped) : command (.svc n) rs.key s (windowReport (.svc n) rs.key named f) =
      s.setRole rs.key { s.role rs.key with err := 1 } := by
  refine (h.report named f).trans (if_neg fun hany => ?_)
  obtain ⟨l, hl, hr⟩ := List.any_eq_true.mp hany
  obtain ⟨w, hw, hk⟩ := List.any_eq_true.mp (Bool.and_eq_true_iff.mp hr).2
  exact hnone l hl w hw (of_decide_eq_true (Bool.and_eq_true_iff.mp hk).1)

/-- R311: a report for a slot that a notice has named is taken. -/
theorem FreeInPart.report_taken {named : Swapped → Bool} (hnamed : ∃ l ∈ p.launches, l.word = none ∧ ∃ w ∈ l.swapped, w.key = rs.key ∧ named w = true)
    (f : Swapped → Swapped) : ∃ u, command (.svc n) rs.key s (windowReport (.svc n) rs.key named f) = u ∧ (u.role rs.key).err = 0 ∧
      (u.partOr pn).launches = p.launches.map (afterReport rs.key named f) := by
  obtain ⟨l, hl, hword, w, hw, hk, hn⟩ := hnamed
  refine ⟨_, (h.report named f).trans (if_pos (List.any_eq_true.mpr ⟨l, hl, reported_of_mem hword hw hk hn⟩)), ?_, ?_⟩
  · rw [role_setRole_same]
  · exact congrArg Part.launches (partOr_setPart_same ..)
end

/-- Where no role of slot k is left that the notice named, the report has been noted. -/
theorem noted_of_mem {k : Nat} {named : Swapped → Bool} {f : Swapped → Swapped} {launches : List Launch} {l : Launch} {w : Swapped}
    (hl : l ∈ launches.map (afterReport k named f)) (hword : l.word = none) (hw : w ∈ l.swapped) (hk : w.key = k) :
    named w = false ∨ ∃ v, w = f v := by
  obtain ⟨m, -, rfl⟩ := List.mem_map.mp hl
  exact mem_afterReport hword hw hk

theorem FreeInPart.winfree {s : State} {n pn : Nat} {rs : Slot} {p : Part} (h : FreeInPart s n pn rs p)
    (hnamed : ∃ l ∈ p.launches, l.word = none ∧ ∃ w ∈ l.swapped, w.key = rs.key ∧ w.notice8 = true ∧ w.winfree = false) :
    ∃ u, exec (.winfree (.svc n) rs) s = .next u ∧ (u.role rs.key).err = 0 ∧
      ∀ l ∈ (u.partOr pn).launches, l.word = none → ∀ w ∈ l.swapped, w.key = rs.key → w.notice8 = true → w.winfree = true := by
  obtain ⟨u, hu, herr, hlaunches⟩ := h.report_taken (named := fun w => w.notice8 && !w.winfree) (by simpa using hnamed)
    (fun w => { w with winfree := true })
  refine ⟨u, congrArg Host.Outcome.next hu, herr, fun l hl hword w hw hk h8 => ?_⟩
  rw [hlaunches] at hl
  rcases noted_of_mem hl hword hw hk with hn | ⟨v, rfl⟩
  · simpa [h8] using hn
  · rfl

theorem FreeInPart.winready {s : State} {n pn : Nat} {rs : Slot} {p : Part} (h : FreeInPart s n pn rs p)
    (hnamed : ∃ l ∈ p.launches, l.word = none ∧ ∃ w ∈ l.swapped, w.key = rs.key ∧ w.notice9 = true ∧ w.winready = false) :
    ∃ u, exec (.winready (.svc n) rs) s = .next u ∧ (u.role rs.key).err = 0 ∧
      (∀ l ∈ (u.partOr pn).launches, l.word = none → ∀ w ∈ l.swapped, w.key = rs.key → w.notice9 = true → w.winready = true) ∧
      ∀ l ∈ p.launches, l.word = none → ∀ w ∈ l.swapped, w.key = rs.key → w.notice9 = true → w.winready = false →
        ∃ m ∈ (u.partOr pn).launches, m.id = l.id ∧
          { w with winready := true, winfree := false, notice8 := false, notice9 := false } ∈ m.swapped := by
  obtain ⟨u, hu, herr, hlaunches⟩ := h.report_taken (named := fun w => w.notice9 && !w.winready) (by simpa using hnamed)
    (fun w => { w with winready := true, winfree := false, notice8 := false, notice9 := false })
  refine ⟨u, congrArg Host.Outcome.next hu, herr, fun l hl hword w hw hk h9 => ?_, fun l hl hword w hw hk h9 hr => ?_⟩
  · rw [hlaunches] at hl
    rcases noted_of_mem hl hword hw hk with hn | ⟨v, rfl⟩
    · simpa [h9] using hn
    · rfl
  · have hnow : (fun w : Swapped => w.notice9 && !w.winready) w = true := by simp [h9, hr]
    refine ⟨_, hlaunches ▸ List.mem_map_of_mem hl, ?_, ?_⟩
    · unfold afterReport
      split
      · rfl
      · rfl
    · rw [afterReport, if_pos (reported_of_mem hword hw hk hnow)]
      exact List.mem_map.mpr ⟨w, hw, markReport_named hk hnow _⟩

/-- Settles O44: a bind record writes every register afresh; a role that leaves ends all that it leads before its slot is cleared; and
a report is taken where a role that is switched out has been named. -/
theorem rolesBoundAndLeave : Obligations.RolesBoundAndLeave := by
  unfold Obligations.RolesBoundAndLeave
  refine ⟨fun rs b s => ?bind, fun rs s hst hhalt => ⟨exec_retirement_dormant hst hhalt, exec_retirement_free hst hhalt,
      exec_retirement_busy hst hhalt⟩, fun rs s _ hlive => exec_retirement_awake hlive, fun by_ rs s => ?leave,
    fun n pn rs s p hpn hlive hp hcore hst hb => ?report⟩
  case bind =>
    intro bound
    have hbound (run : Bool) (hfree : (s.role rs.key).st = .free) (hkind : s.kindAt rs.key ≠ bindKind run) :
        bound run (bindSlot s rs.key b run) := by
      obtain ⟨det, ncores, participant, rank, levels, hr⟩ := boundRole_eq s rs.key b (if run then .running else .dormant)
      have hx := x_bindClusters (r := boundRole s rs.key b (if run then .running else .dormant)) (by rw [hr]; rfl) b run
      have hloops := clu_bindClusters_loops (boundRole s rs.key b (if run then .running else .dormant)) b run
      obtain ⟨cl, cm, cv, cw, hc⟩ := bindClusters_eq (boundRole s rs.key b (if run then .running else .dormant)) b run
      dsimp only [bound]
      rw [role_bindSlot hfree hkind]
      rw [hc, hr] at hx hloops ⊢
      exact ⟨rfl, rfl, rfl, rfl, rfl, rfl, rfl, rfl, rfl, rfl, hx, fun n hn => if_neg (Nat.ne_of_gt hn), fun n => rfl, rfl, rfl, rfl, rfl, rfl, rfl,
        rfl, rfl, rfl, rfl, rfl, rfl, rfl, rfl, rfl, rfl, hloops, fun a => readByte_bindSlot_window hfree hkind b,
        fun a => readByte_bindSlot_outside hfree hkind b, mem_bindSlot hfree hkind b, fun j => role_bindSlot_other hfree hkind b⟩
    refine ⟨fun hfree => ⟨fun hkind => ⟨_, rfl, hbound true hfree hkind, ?_, fun c => ?_⟩,
      fun hkind => ⟨_, rfl, hbound false hfree hkind, ?_, fun c => ?_⟩⟩,
      fun h => congrArg Host.Outcome.next (bindSlot_records (run := true) h b),
      fun h => congrArg Host.Outcome.next (bindSlot_records (run := false) h b)⟩
    · rw [role_bindSlot (run := true) hfree hkind, st_bindClusters]
      rfl
    · rw [role_bindSlot (run := true) hfree hkind, clu_bindClusters_run]
      exact ⟨rfl, rfl⟩
    · rw [role_bindSlot (run := false) hfree hkind, st_bindClusters]
      rfl
    · rw [role_bindSlot (run := false) hfree hkind, clu_bindClusters_dormant]
  case leave =>
    refine ⟨fun hst => ⟨_, exec_freeSlot_taken hst, freeRole_role .., fun d => freeRole_chans s rs.key 1⟩, exec_freeSlot_free, fun hw hr =>
      ⟨exec_kill_busy hw hr, exec_kill_free hw hr, fun hb hst => ⟨_, exec_kill_taken hw hr hb hst, killed_role .., fun d => killed_chans s,
        fun l hl hid hword => ?_, fun heid hcopies hholds hwins _ g => killed_faults heid hcopies hholds hwins⟩⟩⟩
    rw [killed_launches] at hl
    exact raiseLine_raised hl hid hword
  case report =>
    have h : FreeInPart s n pn rs p := ⟨hpn, hlive, hp, hcore, hst, hb⟩
    exact ⟨h.winfree, h.winready, fun hnone => ⟨congrArg Host.Outcome.next (h.report_refused hnone _ _),
      congrArg Host.Outcome.next (h.report_refused hnone _ _)⟩⟩

end Sys2Proof.Machine
end

section
/-! ### Uncorrectable errors (R428 to R430) -/
namespace Sys2Proof.Machine

theorem mem_linsert {g k : Nat} {l : List Nat} : g ∈ linsert l k ↔ g = k ∨ g ∈ l := by
  induction l with
  | nil => simp [linsert]
  | cons h t ih =>
    rw [linsert]
    split
    · next heq => simp [heq]
    · split
      · simp
      · rw [List.mem_cons, ih, List.mem_cons]
        tauto

theorem granules_whole (g : Nat) : granules (64 * g) 64 = [g] := by
  unfold granules
  rw [if_neg (by decide), show (64 * g + 64 - 1) / 64 - 64 * g / 64 + 1 = 1 by omega, show 64 * g / 64 = g by omega]
  simp

theorem memPoisoned_granule {s : State} {g : Nat} (h : g ∈ s.poison) : memPoisoned s (64 * g) 64 = true := by
  unfold memPoisoned
  rw [granules_whole]
  simpa using h
theorem tilePoisoned_granule {s : State} {g : Nat} (h : g ∈ s.tpoison) : tilePoisoned s (64 * g) 64 = true := by
  unfold tilePoisoned
  rw [granules_whole]
  simpa using h

/-- R370: normalising an address keeps its region. -/
theorem paRegion_paNorm (pa : Nat) : paRegion (paNorm pa) = paRegion pa := by
  have hused (r u : Nat) (hr : r < 16) (hu : u < 2 ^ 52) : (r * 2 ^ 52 + u) / 2 ^ 52 % 16 = r := by omega
  have hr : paRegion pa < 16 := Nat.mod_lt _ (by decide)
  unfold paNorm
  dsimp only
  refine hused _ _ hr ?_
  split <;> omega

/-- An error in memory poisons its granule, and counts. -/
theorem uncorrectableError_mem {s : State} {pa : Nat} (h : paRegion pa ≤ 1) : ∃ u, exec (.uncorrectableError (.mem pa)) s = .next u ∧
    u = { s with poison := u.poison, errors := u.errors, worn := u.worn } ∧
    memPoisoned u (paNorm pa / 64 * 64) 64 = true ∧ (∀ g, g ≠ paNorm pa / 64 → (g ∈ u.poison ↔ g ∈ s.poison)) ∧
    u.errors.length = s.errors.length + 1 := by
  have hregion : ¬ 1 < paRegion (paNorm pa) := by rw [paRegion_paNorm]; omega
  let t : State := { s with poison := linsert s.poison (paNorm pa / 64) }
  let k := (unitOfPa (paNorm pa)).1
  let l := (unitOfPa (paNorm pa)).2
  have hexec : exec (.uncorrectableError (.mem pa)) s = .next (countError t k l) := congrArg Host.Outcome.next (if_neg hregion)
  have honly := countError_only t k l
  have hpoison : (countError t k l).poison = linsert s.poison (paNorm pa / 64) := by rw [honly]
  refine ⟨_, hexec, ?_, ?_, fun g hg => ?_, ?_⟩
  · rw [hpoison]
    exact honly
  · rw [Nat.mul_comm]
    exact memPoisoned_granule (by rw [hpoison]; exact mem_linsert.mpr (.inl rfl))
  · rw [hpoison, mem_linsert]
    exact or_iff_right hg
  · rw [countError_errors]
    simp [t]

theorem uncorrectableError_tile {s : State} {core off : Nat} (hc : core < 256) (ho : off < 2 ^ 22) :
    ∃ u, exec (.uncorrectableError (.tile core off)) s = .next u ∧
      u = { s with tpoison := u.tpoison, errors := u.errors, worn := u.worn } ∧ tilePoisoned u (tkey core off / 64 * 64) 64 = true := by
  let t : State := { s with tpoison := linsert s.tpoison (tkey core off / 64) }
  have hexec : exec (.uncorrectableError (.tile core off)) s = .next (countError t .core core) :=
    congrArg Host.Outcome.next (if_neg (by simp; omega))
  have honly := countError_only t .core core
  have hpoison : (countError t .core core).tpoison = linsert s.tpoison (tkey core off / 64) := by rw [honly]
  refine ⟨_, hexec, ?_, ?_⟩
  · rw [hpoison]
    exact honly
  · rw [Nat.mul_comm]
    exact tilePoisoned_granule (by rw [hpoison]; exact mem_linsert.mpr (.inl rfl))

theorem countError_role (s : State) (k : UnitKind) (l j : Nat) : (countError s k l).role j = s.role j := by
  rw [countError_only]
  rfl
theorem uncorrectableError_regs_taken {s : State} {rs : Slot} {c : Cluster} (hst : (s.role rs.key).st = .running)
    (hlive : ((s.role rs.key).clu c).halted = false) : exec (.uncorrectableError (.regs rs c)) s =
      .next (takeStop (countError s .core (rs.key / 4)) rs.key 1 0x14 c 0 0xFFFF none) :=
  congrArg Host.Outcome.next (if_pos (by rw [countError_role, hst, hlive]; rfl))
theorem uncorrectableError_regs_idle {s : State} {rs : Slot} {c : Cluster}
    (h : (s.role rs.key).st ≠ .running ∨ ((s.role rs.key).clu c).halted = true) :
    exec (.uncorrectableError (.regs rs c)) s = .next (countError s .core (rs.key / 4)) := by
  refine congrArg Host.Outcome.next (if_neg ?_)
  rw [countError_role]
  rcases h with h | h
  · simp [h]
  · simp [h]

end Sys2Proof.Machine
end

section
/-! ### Host ports and links (R279, R334, R387 to R391, R435) -/
namespace Sys2Proof.Machine

theorem mget_map_fixed {α : Type} {d : α} {f : α → α} (hd : f d = d) (m : SMap α) (k : Nat) :
    mget d (m.map (fun p => (p.1, f p.2))) k = f (mget d m k) := by
  induction m with
  | nil => exact hd.symm
  | cons x t ih =>
    simp only [List.map_cons, mget]
    split
    · rfl
    · exact ih

/-- R391: a request of role r under way over port p ends with a link error. -/
def failAcc (s : State) (r : Role) (p : Nat) (a : Access) : Access :=
  match overPort s r a p with
  | some i => { a with stat := .faulted 0x14 (match a.kind with | .win _ => a.addr | _ => a.partAddr i) 0xFFFE 0 }
  | none => a
/-- R391: so does a copy. -/
def failCopy (s : State) (r : Role) (p : Nat) (c : CopyJob) : CopyJob :=
  match c.overPort s r p with
  | some a => { c with fault := some (0x14, a, 0xFFFE) }
  | none => c
def failRole (s : State) (p : Nat) (r : Role) : Role :=
  { r with acc := r.acc.map (failAcc s r p), copies := r.copies.map (failCopy s r p) }
theorem failOver_eq (s : State) (p : Nat) : failOver s p = { s with roles := s.roles.map (fun x => (x.1, failRole s p x.2)) } := rfl
theorem role_failOver (s : State) (p k : Nat) : (failOver s p).role k = failRole s p (s.role k) := by
  rw [failOver_eq]
  exact mget_map_fixed (f := failRole s p) rfl s.roles k

theorem port_setPort_same (s : State) (p : Nat) (q : Port) : (s.setPort p q).port p = q := mget_mput_same ..

/-- A port that a host's writes and reads come over, and that holds no doorbell write. -/
structure HostPort (s : State) (p : Nat) : Prop where
  host : (s.port p).peer = false
  up : (s.port p).up = true
  live : (s.port p).frozen = false
  free : (s.port p).held = none

section
variable {s : State} {p : Nat} (h : HostPort s p)
include h

theorem HostPort.isOpen : hostOpen (s.port p) = true := by simp [hostOpen, Port.takes, h.host, h.up, h.live]
theorem HostPort.nothingHeld : retryHeld s p = s := by
  unfold retryHeld
  rw [h.free]

theorem HostPort.write_plain {off : Nat} {data : List Byte} (hdb : ¬ ((s.port p).dbOff ≤ off ∧ off < (s.port p).dbOff + 65536)) :
    exec (.hostWrite p off data) s = .next (plainHostWrite s p off data) := by
  have hno : inDoorbell (s.port p) off = false := by
    unfold inDoorbell
    rw [← Bool.decide_and]
    exact decide_eq_false hdb
  refine congrArg Host.Outcome.next ?_
  unfold postedWrite
  simp [h.isOpen, h.nothingHeld, h.free, hno]

theorem HostPort.write_doorbell {data : List Byte} (hin : (s.port p).dbOff < (s.port p).winLen) :
    exec (.hostDoorbell p (s.port p).dbOff data) s = .next (doorbellWrite s p (s.port p).dbOff data) := by
  refine congrArg Host.Outcome.next ?_
  unfold postedWrite
  simp [h.isOpen, h.nothingHeld, h.free, inDoorbell, hin]

theorem HostPort.read {off n : Nat} (h0 : 0 < n) (hn : n ≤ 256) : exec (.hostRead p off n) s = .next (match hostRange s p off n with
    | none => portViolates s p off
    | some a =>
      if hostBarred s a n || memPoisoned s a n then { s with hostReads := s.hostReads ++ [[]] }
      else { s with hostReads := s.hostReads ++ [s.memRead a n] }) := by
  refine congrArg Host.Outcome.next ?_
  have hlen : ¬ (!hostOpen (s.port p) || n = 0 || 256 < n) = true := by
    simp [h.isOpen]
    omega
  rw [if_neg hlen]
  simp only [h.nothingHeld, h.free]
  rfl
end

/-- A range of a port's window: inside the window, and inside its partition's. -/
def InWindow (s : State) (p off n : Nat) : Prop :=
  off + n ≤ (s.port p).winLen ∧ rangeIn s (s.partOr (s.port p).part).record ((s.port p).winBase + off) n = true
theorem hostRange_inside {s : State} {p off n : Nat} (h : InWindow s p off n) : hostRange s p off n = some ((s.port p).winBase + off) :=
  if_pos (by simp [h.1, h.2])
theorem hostRange_outside {s : State} {p off n : Nat} (h : ¬ InWindow s p off n) : hostRange s p off n = none := by
  refine if_neg fun hc => h ?_
  simp only [Bool.and_eq_true, decide_eq_true_eq] at hc
  exact hc

section
variable {s : State} {p off : Nat} {data : List Byte} (hne : data ≠ []) (hlen : data.length ≤ 256)
include hne hlen

theorem plainHostWrite_outside (h : ¬ InWindow s p off data.length) : plainHostWrite s p off data = portViolates s p off := by
  unfold plainHostWrite
  rw [if_neg (by simp [hne, hlen]), hostRange_outside h]
theorem plainHostWrite_inside (h : InWindow s p off data.length) : plainHostWrite s p off data =
    if hostBarred s ((s.port p).winBase + off) data.length || liveIn s ((s.port p).winBase + off) data.length then s
    else s.memWrite ((s.port p).winBase + off) data := by
  unfold plainHostWrite
  rw [if_neg (by simp [hne, hlen]), hostRange_inside h]
end

/-- R390: a doorbell write that names an arrival. -/
def GoodDoorbell (s : State) (p : Nat) (data : List Byte) : Prop :=
  17 ≤ data.length ∧ data.length ≤ 256 ∧ leNat (data.take 8) < 256 ∧ leNat (data.take 8) ∈ (s.partOr (s.port p).part).record.cores ∧
    (leWord ((data.drop 8).take 8)).toNat % 32 = 0
theorem doorbellWrite_good {s : State} {p : Nat} {data : List Byte} (h : GoodDoorbell s p data) :
    doorbellWrite s p (s.port p).dbOff data =
      match s.accept (leNat (data.take 8)) (doorbellArrival (s.port p) p data) with
      | some s' => s'
      | none => s.setPort p { s.port p with held := some (leNat (data.take 8), doorbellArrival (s.port p) p data) } := by
  obtain ⟨hlo, hhi, ht, hmem, hal⟩ := h
  unfold doorbellWrite
  refine if_neg ?_
  simp [hlo, hhi, ht, hmem, doorbellArrival, hal]
theorem doorbellWrite_bad {s : State} {p : Nat} {data : List Byte} (h : ¬ GoodDoorbell s p data) :
    doorbellWrite s p (s.port p).dbOff data = s.notice (s.port p).part 0 2 p 0 := by
  unfold doorbellWrite
  refine if_pos ?_
  by_contra hc
  refine h ?_
  simp [doorbellArrival] at hc
  obtain ⟨⟨⟨⟨hlo, hhi⟩, ht⟩, hmem⟩, hal⟩ := hc
  exact ⟨hlo, hhi, ht, hmem, not_not.mp (of_decide_eq_false hal)⟩

/-! Links. -/

theorem linkDown_down {s : State} {p : Nat} (hup : (s.port p).up = false) : exec (.linkDown p) s = .next s :=
  congrArg Host.Outcome.next (if_pos (by simp [hup]))

section
variable {s : State} {p : Nat} (hp : p < 12)
include hp

theorem linkDown_up (hup : (s.port p).up = true) :
    exec (.linkDown p) s = .next ((failOver s p).setPort p { s.port p with up := false }) :=
  congrArg Host.Outcome.next (if_neg (by simp [hup]; omega))
theorem linkTrained_up : exec (.linkTrained p) s = .next (s.setPort p { s.port p with up := true }) :=
  congrArg Host.Outcome.next (if_neg (by omega))
theorem portReenable_live : exec (.portReenable p) s = .next (s.setPort p { s.port p with frozen := false }) :=
  congrArg Host.Outcome.next (if_neg (by omega))

/-- R435: a hot reset takes the link down; the partition is told. -/
theorem hostHotReset_resets (hpeer : (s.port p).peer = false) : ∃ u, exec (.hostHotReset p) s = .next u ∧
    OnlyQueues ((failOver s p).setPort p { s.port p with frozen := false, up := false }) u := by
  refine ⟨_, congrArg Host.Outcome.next (if_neg (by simp [hpeer]; omega)), ?_⟩
  dsimp only
  split
  · exact .refl _
  · exact onlyQueues_notice ..
end

/-! Drives (R383). -/

/-- The namespace of a command is the partition's; a transfer for the queue itself has none. -/
theorem namespace_own {drive : Nat} {ns : Option Nat} {p : Partition} (ho : ∀ x, ns = some x → (drive, x) ∈ p.namespaces) :
    ns.all (fun i => p.namespaces.contains (drive, i)) = true := by
  cases ns with
  | none => rfl
  | some x => simpa using ho x rfl
theorem namespace_other {drive : Nat} {ns : Option Nat} {p : Partition} (ho : ¬ ∀ x, ns = some x → (drive, x) ∈ p.namespaces) :
    ns.all (fun i => p.namespaces.contains (drive, i)) = false := by
  cases ns with
  | none => exact absurd nofun ho
  | some x => simpa using ho

section
variable {s : State} {drive queue : Nat} {ns : Option Nat}

theorem nvmeDma_unheld (h : queueOwner s drive queue = none) (pa len : Nat) (d : Option (List Byte)) :
    exec (.nvmeDma ⟨drive, queue, ns⟩ pa len d) s = .next s := by
  refine congrArg Host.Outcome.next ?_
  simp only [h]

variable {pn : Nat} (h : queueOwner s drive queue = some pn) (pa len : Nat) (d : List Byte)
include h

theorem nvmeDma_store : exec (.nvmeDma ⟨drive, queue, ns⟩ pa len (some d)) s = .next
    (if d.length = 0 || !rangeIn s (s.partOr pn).record pa d.length || !ns.all (fun i => (s.partOr pn).record.namespaces.contains (drive, i)) then
      { s with nvmeLog := s.nvmeLog ++ [false] }
    else if liveIn s pa d.length then { s with nvmeLog := s.nvmeLog ++ [false] }
    else { s.memWrite pa d with nvmeLog := s.nvmeLog ++ [true] }) := by
  refine congrArg Host.Outcome.next ?_
  simp only [h]
  rfl
theorem nvmeDma_load : exec (.nvmeDma ⟨drive, queue, ns⟩ pa len none) s = .next
    (if len = 0 || !rangeIn s (s.partOr pn).record pa len || !ns.all (fun i => (s.partOr pn).record.namespaces.contains (drive, i)) then
      { s with nvmeLog := s.nvmeLog ++ [false] }
    else { s with nvmeLog := s.nvmeLog ++ [!memPoisoned s pa len] }) := by
  refine congrArg Host.Outcome.next ?_
  simp only [h]

end

end Sys2Proof.Machine
end

section
/-! ### Management, throttling and emergency stops (R386, R436, R437) -/
namespace Sys2Proof.Machine

/-! Maps whose keys differ. -/

theorem mfind_of_mem {α : Type} {m : SMap α} {k : Nat} {v : α} (hm : (m.map Prod.fst).Nodup) (h : (k, v) ∈ m) : mfind m k = some v := by
  induction m with
  | nil => exact absurd h List.not_mem_nil
  | cons x t ih =>
    obtain ⟨hx, ht⟩ := List.nodup_cons.mp hm
    rw [mfind]
    rcases List.mem_cons.mp h with rfl | h
    · exact if_pos rfl
    · rw [if_neg fun heq : x.1 = k => hx (heq ▸ List.mem_map_of_mem h)]
      exact ih ht h
theorem mem_of_mfind {α : Type} {m : SMap α} {k : Nat} {v : α} (h : mfind m k = some v) : (k, v) ∈ m := by
  induction m with
  | nil => exact nomatch h
  | cons x t ih =>
    rw [mfind] at h
    split at h
    · next heq => exact List.mem_cons.mpr (.inl (Prod.ext heq.symm (Option.some.inj h).symm))
    · exact List.mem_cons_of_mem _ (ih h)
theorem mfind_eq_none {α : Type} {m : SMap α} {k : Nat} (h : k ∉ m.map Prod.fst) : mfind m k = none := by
  cases hm : mfind m k with
  | none => rfl
  | some v => exact absurd (List.mem_map_of_mem (mem_of_mfind hm)) h

/-! A master claims, keeps and loses the management space (R386). -/

section
variable {s : State} {m : Nat} (hm : m < 4)
include hm

theorem mgmtClaim_free (h : s.mgmtOwner = none) : exec (.mgmtClaim m) s = .next { s with mgmtOwner := some m, mgmtLast := s.cycle } := by
  refine congrArg Host.Outcome.next ?_
  rw [if_neg (by omega), h]

theorem mgmtClaim_held {o : Nat} (h : s.mgmtOwner = some o) (hne : o ≠ m) : exec (.mgmtClaim m) s = .next
    (if ownerSilent s then { s with mgmtOwner := some m, mgmtLast := s.cycle } else notOwner s) := by
  refine congrArg Host.Outcome.next ?_
  rw [if_neg (by omega), h]
  simp [hne]

theorem mgmtHandover_own {next : Nat} (hn : next < 4) (h : s.mgmtOwner = some m) :
    exec (.mgmtHandover m next) s = .next { s with mgmtOwner := some next, mgmtLast := s.cycle } := by
  refine congrArg Host.Outcome.next ?_
  rw [if_neg (by simp; omega), if_pos h]
theorem mgmtHandover_other {next : Nat} (hn : next < 4) (h : s.mgmtOwner ≠ some m) : exec (.mgmtHandover m next) s = .next (notOwner s) := by
  refine congrArg Host.Outcome.next ?_
  rw [if_neg (by simp; omega), if_neg h]

theorem mgmtOwnerTimeout_held {o : Nat} (h : s.mgmtOwner = some o) : exec (.mgmtOwnerTimeout m) s = .next
    (if ownerSilent s then { s with mgmtOwner := some m, mgmtLast := s.cycle } else s) := by
  refine congrArg Host.Outcome.next ?_
  simp [hm, h]

theorem mgmtAccess_own (w : Bool) (h : s.mgmtOwner = some m) : mgmtAccess m w s = { s with mgmtLast := s.cycle } := by
  unfold mgmtAccess
  rw [if_neg (by omega), if_pos h]
theorem mgmtAccess_other (w : Bool) (h : s.mgmtOwner ≠ some m) : mgmtAccess m w s = if w then notOwner s else s := by
  unfold mgmtAccess
  rw [if_neg (by omega), if_neg h]
end

theorem ownerSilent_late {s : State} (h : s.mgmtLast + 2500000000 ≤ s.cycle) : ownerSilent s = true := decide_eq_true h
theorem ownerSilent_early {s : State} (h : s.cycle < s.mgmtLast + 2500000000) : ownerSilent s = false := decide_eq_false (not_le.mpr h)

/-- A management master whose turn it is reads or writes at once. -/
theorem step_mgmt {s : State} {rest : List Turn} {m : Nat} {w : Bool} (h : s.sched = { dt := 0, what := .mgmt m w } :: rest) :
    step s = .next (mgmtAccess m w { s with sched := rest }) := by
  unfold step
  rw [h]
  rfl

/-! Throttling (R437). -/

theorem onlyQueues_noticeAll (s : State) (code : Nat) : OnlyQueues s (noticeAll s code) :=
  onlyQueues_fold (fun s _ => onlyQueues_notice s _ _ _ _ _) _ s

theorem throttleBegin_idle {s : State} (h : s.throttled = false) : ∃ u, exec .throttleBegin s = .next u ∧ u.throttled = true ∧
    u = { s with throttled := true, svcs := u.svcs } := by
  have honly := (onlyQueues_noticeAll { s with throttled := true } 6).1
  exact ⟨_, congrArg Host.Outcome.next (if_neg (by simp [h])), by rw [honly], honly⟩
theorem throttleEnd_throttled {s : State} (h : s.throttled = true) : ∃ u, exec .throttleEnd s = .next u ∧ u.throttled = false ∧
    u = { s with throttled := false, svcs := u.svcs } := by
  have honly := (onlyQueues_noticeAll { s with throttled := false } 7).1
  exact ⟨_, congrArg Host.Outcome.next (if_pos h), by rw [honly], honly⟩

/-! An emergency stop (R437). -/

/-- R437: what an emergency leaves of a role. -/
def emergencyRole (s : State) (k : Nat) : Role :=
  if (s.role k).st != .running || retires s k then s.role k else (takeStop s k 4 tHARD (s.role k).front 0 0 none).role k

theorem hardStopNow_only (s : State) (k : Nat) : hardStopNow s k = { s with roles := (hardStopNow s k).roles, parts := (hardStopNow s k).parts } := by
  unfold hardStopNow
  split
  · rfl
  · unfold hardStopped
    rcases modLaunch_cases (takeStop s k 4 tHARD (s.role k).front 0 0 none) (s.role k).part.toNat (s.role k).lid.toNat
      (fun l => if l.st == .bound then { l with st := .stopping } else l) with h | ⟨ls, h⟩
    · rw [h]
      rfl
    · rw [h]
      rfl
theorem role_hardStopNow (s : State) (k : Nat) : (hardStopNow s k).role k = emergencyRole s k := by
  unfold hardStopNow emergencyRole
  split
  · rfl
  · rw [hardStopped, State.role, modLaunch_roles]
    rfl
theorem role_hardStopNow_other (s : State) {k j : Nat} (h : j ≠ k) : (hardStopNow s k).role j = s.role j := by
  unfold hardStopNow
  split
  · rfl
  · rw [hardStopped, State.role, modLaunch_roles]
    exact role_setRole_other s k j _ h
/-- What becomes of a role turns on the role, its core and the cycle alone. -/
theorem emergencyRole_of_same {s t : State} {k : Nat} (hr : t.role k = s.role k) (hc : t.cores = s.cores) (hcyc : t.cycle = s.cycle) :
    emergencyRole t k = emergencyRole s k := by
  have hret : retires t k = retires s k := by unfold retires drained State.core; rw [hr, hc]
  have hstop : (takeStop t k 4 tHARD (s.role k).front 0 0 none).role k = (takeStop s k 4 tHARD (s.role k).front 0 0 none).role k := by
    unfold takeStop
    rw [hr, hcyc]
    exact (role_setRole_same ..).trans (role_setRole_same ..).symm
  unfold emergencyRole
  rw [hr, hret, hstop]

theorem role_hardStops {ks : List Nat} (hks : ks.Nodup) (s : State) (k : Nat) :
    (ks.foldl hardStopNow s).role k = if k ∈ ks then emergencyRole s k else s.role k := by
  induction ks generalizing s with
  | nil => rfl
  | cons j t ih =>
    obtain ⟨hj, ht⟩ := List.nodup_cons.mp hks
    rw [List.foldl_cons, ih ht]
    by_cases hk : k = j
    · subst hk
      rw [if_neg hj, if_pos List.mem_cons_self, role_hardStopNow]
    · have hsame := role_hardStopNow_other s hk
      have hem : emergencyRole (hardStopNow s j) k = emergencyRole s k :=
        emergencyRole_of_same hsame (by rw [hardStopNow_only]) (by rw [hardStopNow_only])
      rw [hem, hsame]
      simp [hk]

theorem emergencyRole_idle {s : State} {k : Nat} (h : (s.role k).st ≠ .running) : emergencyRole s k = s.role k := if_pos (by simp [h])
theorem emergencyRole_stopped {s : State} {k : Nat} (hst : (s.role k).st = .running) (hret : retires s k = false) :
    (emergencyRole s k).st = .stopped ∧ (emergencyRole s k).lastcode = 0x7F ∧ (emergencyRole s k).stop.map (·.kind) = some 4 := by
  have hrole : emergencyRole s k = (takeStop s k 4 tHARD (s.role k).front 0 0 none).role k := if_neg (by simp [hst, hret])
  have hstop : (takeStop s k 4 tHARD (s.role k).front 0 0 none).role k = _ := role_setRole_same ..
  rw [hrole, hstop]
  exact ⟨rfl, rfl, rfl⟩

theorem mem_roles_of_running {s : State} {k : Nat} (h : (s.role k).st = .running) : k ∈ s.roles.map Prod.fst := by
  by_contra hk
  rw [State.role, mget_of_mfind_none (mfind_eq_none hk)] at h
  exact nomatch h

/-- R437: every running role stops hard, unless it retires, and no launch is bound. -/
theorem emergencyStop_stops {s : State} (hnodup : (s.roles.map Prod.fst).Nodup) : ∃ u, exec .emergencyStop s = .next u ∧ u.emergency = true ∧
    u.mem = s.mem ∧
    (∀ k, (s.role k).st = .running → retires s k = false → (u.role k).st = .stopped ∧ (u.role k).lastcode = 0x7F ∧
      ((u.role k).stop.map (·.kind)) = some 4) ∧
    (∀ k, (s.role k).st ≠ .running → u.role k = s.role k) ∧ ∀ pn l, mayBind u pn l = false := by
  have hem : ((s.roles.map (·.1)).foldl hardStopNow { s with emergency := true }).emergency = true :=
    foldl_keeps (·.emergency) _ _ fun s k => by rw [hardStopNow_only]
  have hmem : ((s.roles.map (·.1)).foldl hardStopNow { s with emergency := true }).mem = s.mem :=
    foldl_keeps (·.mem) _ _ fun s k => by rw [hardStopNow_only]
  have hrole := role_hardStops hnodup { s with emergency := true }
  refine ⟨_, rfl, hem, hmem, fun k hst hret => ?_, fun k hst => ?_, fun pn l => by simp [mayBind, hem]⟩
  · rw [hrole, if_pos (mem_roles_of_running hst)]
    exact emergencyRole_stopped hst hret
  · rw [hrole]
    split
    · exact emergencyRole_idle hst
    · rfl

end Sys2Proof.Machine
end

section
/-! ### Reset, signed updates and quotes (R18, R20, R438, R440, R441) -/
namespace Sys2Proof.Machine

/-! A reset of the part. -/

theorem resetPart_memory (s : State) {a : Nat} (h : paRegion a ≤ 1) : readByte (resetPart s).mem a = 0 := by
  have hkeep := mget_filter_keys (0 : Byte) (fun b => decide (2 ≤ paRegion b)) s.mem a
  exact hkeep.trans (if_neg (by simpa using by omega))

theorem mget_map_keys {α : Type} {d : α} (f : Nat → α) {ps : List Nat} {k : Nat} (h : k ∈ ps) :
    mget d (ps.map (fun p => (p, f p))) k = f k := by
  induction ps with
  | nil => exact absurd h List.not_mem_nil
  | cons p t ih =>
    rw [List.map_cons, mget]
    split
    · next heq => rw [heq]
    · next hne => exact ih ((List.mem_cons.mp h).resolve_left (Ne.symm hne))
theorem resetPart_port (s : State) {p : Nat} (h : p < 12) : (resetPart s).port p = { Port.reset with up := false } :=
  mget_map_keys (fun _ => ({ Port.reset with up := false } : Port)) (List.mem_range.mpr h)

/-! The steps of the bring-up: each changes its own. -/

section
variable (fw : Firmware) (peers : List Nat) (n : Nat) (s : State)
theorem bringUp_roles : (bringUp fw peers n s).roles = s.roles := by
  unfold bringUp
  split <;> rfl
theorem bringUp_up (h : n ≠ 7) : (bringUp fw peers n s).up = s.up := by
  unfold bringUp
  split
  case h_6 => exact absurd rfl h
  all_goals rfl
theorem bringUp_place (h : n ≠ 3) : (bringUp fw peers n s).place = s.place := by
  unfold bringUp
  split
  case h_3 => exact absurd rfl h
  all_goals rfl
theorem bringUp_ports (h : n ≠ 5) : (bringUp fw peers n s).ports = s.ports := by
  unfold bringUp
  split
  case h_4 => exact absurd rfl h
  all_goals rfl
theorem bringUp_clock (h : n ≠ 6) : (bringUp fw peers n s).clock = s.clock := by
  unfold bringUp
  split
  case h_5 => exact absurd rfl h
  all_goals rfl
end

/-- What every step of a fold over these elements keeps, the fold keeps. -/
theorem foldl_keeps_of_mem {α β : Type} {f : State → α → State} (g : State → β) {l : List α} (s : State)
    (h : ∀ x ∈ l, ∀ s, g (f s x) = g s) : g (l.foldl f s) = g s :=
  List.foldlRecOn l f (motive := fun t => g t = g s) rfl fun t ht x hx => (h x hx t).trans ht

theorem lt_of_mem_takeWhile {f : Nat → Bool} {l : List Nat} (hl : l.Pairwise (· < ·)) {n m : Nat} (hn : n ∈ l) (hf : f n = false)
    (hm : m ∈ l.takeWhile f) : m < n := by
  induction l with
  | nil => exact absurd hn List.not_mem_nil
  | cons a t ih =>
    obtain ⟨ha, ht⟩ := List.pairwise_cons.mp hl
    cases hfa : f a with
    | false => simp [hfa] at hm
    | true =>
      have hne : n ≠ a := fun h => by simp [← h, hf] at hfa
      have hnt : n ∈ t := (List.mem_cons.mp hn).resolve_left hne
      rw [List.takeWhile_cons, hfa, if_pos rfl] at hm
      rcases List.mem_cons.mp hm with rfl | hm
      · exact ha n hnt
      · exact ih ht hnt hm

/-- The steps that are taken, and what they leave. -/
def broughtUp (fw : Firmware) (peers : List Nat) (s : State) : State :=
  (([1, 2, 3, 4, 5, 6, 7] : List Nat).takeWhile (fun n => !stepFails (resetPart s) fw n)).foldl (fun s n => bringUp fw peers n s) (resetPart s)

theorem resetRelease_down {s : State} (hup : s.up = false) (fw : Firmware) (peers : List Nat) :
    exec (.resetRelease fw peers) s = .next (broughtUp fw peers s) := congrArg Host.Outcome.next (if_neg (by simp [hup]))
theorem resetRelease_up {s : State} (hup : s.up = true) (fw : Firmware) (peers : List Nat) :
    exec (.resetRelease fw peers) s = .next s := congrArg Host.Outcome.next (if_pos hup)

section
variable {s : State} {fw : Firmware} (peers : List Nat)

/-- R18: a step that fails leaves the part in the recovery state, with what the steps before it did. -/
theorem broughtUp_failed {n : Nat} (h1 : 1 ≤ n) (h7 : n ≤ 7) (hfail : stepFails (resetPart s) fw n = true) :
    let u := broughtUp fw peers s
    u.up = false ∧ u.roles = [] ∧ (n = 1 → resetPart s = u) ∧ (n ≤ 3 → u.place = []) ∧
      (n ≤ 5 → ∀ p, p < 12 → (u.port p).up = false) ∧ (n ≤ 6 → u.clock = false) := by
  have hbefore : ∀ m ∈ ([1, 2, 3, 4, 5, 6, 7] : List Nat).takeWhile (fun n => !stepFails (resetPart s) fw n), m < n :=
    fun m => lt_of_mem_takeWhile (by decide) (by simp; omega) (by simp [hfail])
  refine ⟨?_, ?_, fun h => ?_, fun h => ?_, fun h p hp => ?_, fun h => ?_⟩
  · exact foldl_keeps_of_mem (·.up) _ fun m hm t => bringUp_up fw peers m t (by have := hbefore m hm; omega)
  · exact foldl_keeps_of_mem (·.roles) _ fun m hm t => bringUp_roles fw peers m t
  · subst h
    unfold broughtUp
    rw [List.takeWhile_cons, hfail]
    rfl
  · exact foldl_keeps_of_mem (·.place) _ fun m hm t => bringUp_place fw peers m t (by have := hbefore m hm; omega)
  · have hports : (broughtUp fw peers s).ports = (resetPart s).ports :=
      foldl_keeps_of_mem (·.ports) _ fun m hm t => bringUp_ports fw peers m t (by have := hbefore m hm; omega)
    rw [State.port, hports]
    exact congrArg Port.up (resetPart_port s hp)
  · exact foldl_keeps_of_mem (·.clock) _ fun m hm t => bringUp_clock fw peers m t (by have := hbefore m hm; omega)

/-- R438: every step is taken. -/
theorem broughtUp_all (hmon : imgOk s 0 fw.mon = true) (hrec : recordsOk s = true) (hsch : imgOk s 2 fw.sch = true) (hf : fw.fail = none) :
    broughtUp fw peers s = ([1, 2, 3, 4, 5, 6, 7] : List Nat).foldl (fun s n => bringUp fw peers n s) (resetPart s) := by
  have hmon : imgOk (resetPart s) 0 fw.mon = true := hmon
  have hrec : recordsOk (resetPart s) = true := hrec
  have hsch : imgOk (resetPart s) 2 fw.sch = true := hsch
  have hall : ([1, 2, 3, 4, 5, 6, 7] : List Nat).takeWhile (fun n => !stepFails (resetPart s) fw n) = [1, 2, 3, 4, 5, 6, 7] :=
    List.takeWhile_eq_self_iff.mpr fun n _ => by simp [stepFails, hmon, hrec, hsch, hf]
  rw [broughtUp, hall]

theorem broughtUp_versions {t : State} (h : t = ([1, 2, 3, 4, 5, 6, 7] : List Nat).foldl (fun s n => bringUp fw peers n s) (resetPart s)) :
    mget 0 t.versions 0 = fw.mon.version ∧ mget 0 t.versions 2 = fw.sch.version ∧
      ∀ k, k = 3 ∨ k = 4 ∨ k = 5 → mget 0 t.versions k = mget 0 s.flashVer k := by
  have hv : t.versions = mput ([3, 4, 5].foldl (fun m k => mset 0 m k (mget 0 s.flashVer k)) (mput s.versions 0 fw.mon.version)) 2 fw.sch.version :=
    congrArg State.versions h
  rw [hv]
  refine ⟨by simp [mget_mput, mget_mset], mget_mput_same .., fun k hk => ?_⟩
  rcases hk with rfl | rfl | rfl <;> simp [mget_mput, mget_mset]

theorem broughtUp_port {t : State} (h : t = ([1, 2, 3, 4, 5, 6, 7] : List Nat).foldl (fun s n => bringUp fw peers n s) (resetPart s))
    {p : Nat} (hp : p < 12) : (t.port p).up = true ∧ (t.port p).peer = decide (p ∈ peers) := by
  have hports : t.ports = (List.range 12).map (fun p => (p, { Port.reset with up := true, peer := peers.contains p })) := congrArg State.ports h
  have hport : t.port p = { Port.reset with up := true, peer := peers.contains p } := by
    rw [State.port, hports]
    exact mget_map_keys (fun p => ({ Port.reset with up := true, peer := peers.contains p } : Port)) (List.mem_range.mpr hp)
  rw [hport]
  exact ⟨rfl, by simp⟩
end

/-! Signed updates (R18, R20, R440). -/

/-- The kind of a record, by which its version is judged. -/
def updateKind (x : Update) : Nat := match x.record with | .repair _ => 3 | .grade _ => 4 | .certs _ => 5

/-- An update whose turn it is happens at once. -/
theorem step_update {s : State} {rest : List Turn} {x : Update} (h : s.sched = { dt := 0, what := .update x } :: rest) :
    step s = .next (execUpdate x { s with sched := rest }) := by
  unfold step
  rw [h]
  rfl

theorem execUpdate_refused {x : Update} {s : State} (h : x.sigOk = false ∨ x.version < mget 0 s.versions (updateKind x)) :
    execUpdate x s = s := by
  have hrefused : (!x.sigOk || decide (x.version < mget 0 s.versions (updateKind x))) = true := by simpa using h
  exact if_pos hrefused
theorem execUpdate_taken {x : Update} {s : State} (hsig : x.sigOk = true) (hver : mget 0 s.versions (updateKind x) ≤ x.version) :
    let t := { s with flashVer := mput s.flashVer (updateKind x) x.version, versions := mput s.versions (updateKind x) x.version }
    execUpdate x s = match x.record with
      | .repair m => { t with flash := m }
      | .grade n => { t with grade := n }
      | .certs bs => { t with certs := bs } := by
  have htaken : ¬ (!x.sigOk || decide (x.version < mget 0 s.versions (updateKind x))) = true := by simp [hsig, hver]
  exact if_neg htaken

/-- An update to the record that module flash holds changes its version alone. -/
theorem execUpdate_same {x : Update} {s : State} {kind : Nat}
    (hrec : x.record = .repair s.flash ∧ kind = 3 ∨ x.record = .grade s.grade ∧ kind = 4 ∨ x.record = .certs s.certs ∧ kind = 5) :
    (x.sigOk = false ∨ x.version < mget 0 s.versions kind → execUpdate x s = s) ∧
    (x.sigOk = true → mget 0 s.versions kind ≤ x.version →
      execUpdate x s = { s with flashVer := mput s.flashVer kind x.version, versions := mput s.versions kind x.version }) := by
  have hkind : updateKind x = kind := by
    rcases hrec with ⟨h, rfl⟩ | ⟨h, rfl⟩ | ⟨h, rfl⟩ <;> simp [updateKind, h]
  refine ⟨fun h => execUpdate_refused (hkind ▸ h), fun hsig hver => ?_⟩
  rw [execUpdate_taken hsig (hkind ▸ hver), hkind]
  rcases hrec with ⟨h, -⟩ | ⟨h, -⟩ | ⟨h, -⟩ <;> rw [h]

/-! Quotes (R441). -/

theorem shake256_length (m : List Byte) : (shake256 m).length = 32 := length_flatMap_range (fun _ => wordLe_length _) 4

theorem quoteEntry_length (s : State) (only : Option Nat) (p : Nat) : (quoteEntry s only p).length = 32 := by
  unfold quoteEntry
  split
  · split
    · exact padTo_length ..
    · exact natLe_length ..
  · exact natLe_length ..
theorem quoteEntry_noKernel {s : State} {p : Nat} (h : ∀ x, s.part? p = some x → x.record.imageOk = false) (only : Option Nat) :
    quoteEntry s only p = natLe 32 0 := by
  unfold quoteEntry
  split
  · next x hx => exact if_neg (by simp [h x hx])
  · rfl

/-- Piece i of n pieces of c bytes. -/
theorem piece_flatMap_range {f : Nat → List Byte} {c i n : Nat} (hf : ∀ i, (f i).length = c) (h : i < n) (t : List Byte) :
    ((((List.range n).flatMap f) ++ t).drop (c * i)).take c = f i := by
  obtain ⟨k, rfl⟩ := Nat.exists_eq_add_of_lt h
  have hbefore : ((List.range i).flatMap f).length = c * i := (length_flatMap_range hf i).trans (Nat.mul_comm ..)
  rw [show i + k + 1 = i + (k + 1) by omega, List.range_add, List.flatMap_append, List.append_assoc, List.drop_left' hbefore,
    List.range_succ_eq_map, List.map_cons, List.flatMap_cons, List.append_assoc, List.take_left' (hf _), Nat.add_zero]

/-- The hashes of the two firmwares and of the signed records. -/
def quoteHashes (s : State) : List Byte :=
  padTo 32 (Config.imageHash 0 s.monImage) ++ padTo 32 (Config.imageHash 2 s.schImage) ++
    shake256 (Config.signedRecords s.flash s.grade s.certs s.flashVer)
theorem quoteHashes_length (s : State) : (quoteHashes s).length = 96 := by
  simp [quoteHashes, padTo_length, shake256_length]

/-- A quote: what it says, and its signature. -/
def quoteFor (s : State) (nonce : List Byte) : List Byte :=
  quoteBody s none nonce ++ padTo 29792 (Config.signature (quoteBody s none nonce))

theorem exec_quote_owned {s : State} {nonce : List Byte} {o : Nat} (h32 : nonce.length = 32) (ho : s.mgmtOwner = some o) :
    exec (.quote .monitor nonce) s = .next { s with quotes := s.quotes ++ [quoteFor s nonce], mgmtLast := s.cycle } := by
  refine congrArg Host.Outcome.next ?_
  simp only [h32, ho]
  rfl

theorem quoteFor_pieces (s : State) (nonce : List Byte) : ∃ sig, quoteFor s nonce =
    natLe 8 deviceNumber ++ (nonce ++ (quoteHashes s ++ (natLe 8 s.dtime ++ ((List.range 16).flatMap (quoteEntry s none) ++ sig)))) := by
  refine ⟨padTo 29792 (Config.signature (quoteBody s none nonce)), ?_⟩
  rw [quoteFor]
  generalize padTo 29792 _ = sig
  simp only [quoteBody, quoteHashes, List.append_assoc]

section
variable (s : State) {nonce : List Byte} (h32 : nonce.length = 32)
include h32

theorem quoteBody_length : (quoteBody s none nonce).length = 656 := by
  simp [quoteBody, padTo_length, shake256_length, natLe_length, h32, length_flatMap_range (quoteEntry_length s none)]
theorem quoteFor_length : (quoteFor s nonce).length = 30448 := by
  rw [quoteFor, List.length_append, quoteBody_length s h32, padTo_length]

theorem quoteFor_nonce : ((quoteFor s nonce).drop 8).take 32 = nonce := by
  obtain ⟨sig, h⟩ := quoteFor_pieces s nonce
  rw [h, List.drop_left' (natLe_length ..), List.take_left' h32]
theorem drop_quoteFor : ∃ sig, (quoteFor s nonce).drop 136 = natLe 8 s.dtime ++ ((List.range 16).flatMap (quoteEntry s none) ++ sig) := by
  obtain ⟨sig, h⟩ := quoteFor_pieces s nonce
  refine ⟨sig, ?_⟩
  rw [h, show 136 = 8 + (32 + 96) by rfl, ← List.drop_drop, List.drop_left' (natLe_length ..), ← List.drop_drop, List.drop_left' h32,
    List.drop_left' (quoteHashes_length s)]
theorem quoteFor_time : ((quoteFor s nonce).drop 136).take 8 = natLe 8 s.dtime := by
  obtain ⟨sig, h⟩ := drop_quoteFor s h32
  rw [h, List.take_left' (natLe_length ..)]
theorem quoteFor_entry {p : Nat} (hp : p < 16) : ((quoteFor s nonce).drop (144 + 32 * p)).take 32 = quoteEntry s none p := by
  obtain ⟨sig, h⟩ := drop_quoteFor s h32
  rw [show 144 + 32 * p = 136 + (8 + 32 * p) by omega, ← List.drop_drop, h, ← List.drop_drop, List.drop_left' (natLe_length ..)]
  exact piece_flatMap_range (quoteEntry_length s none) hp sig
end

end Sys2Proof.Machine
end

section
/-! ### The outside world (O51) -/
namespace Sys2Proof.Machine

/-- Settles O51: each step of the outside world is one of the cases above, and each case says all that the step changes. -/
theorem outsideWorld : Obligations.OutsideWorld := by
  unfold Obligations.OutsideWorld
  refine ⟨⟨fun s => ⟨fun _ h => uncorrectableError_mem h, fun _ _ hc ho => uncorrectableError_tile hc ho,
      fun _ _ hst hlive => uncorrectableError_regs_taken hst hlive, fun _ _ h => uncorrectableError_regs_idle h, rfl, fun _ => rfl⟩,
    fun p off data s hhost hup hlive hfree => ?ports, fun p s hp => ?links, fun _ _ pa len _ d _ h => nvmeDma_unheld h pa len d,
    fun drive queue pn pa len ns d s h => ?drives⟩,
    fun m next s hm hn => ?management, fun m s w rest hm hs => ?accesses, fun s => ?throttling, fun s h => emergencyStop_stops h,
    fun s mon sch fail peers => ?reset, fun s x kind rest hs hrec => ?updates, fun s n v bs m rest => ?newRecords,
    fun nonce s o h32 ho => ?quotes⟩
  case ports =>
    have h : HostPort s p := ⟨hhost, hup, hlive, hfree⟩
    refine ⟨fun hdb hne hlen => ⟨fun hin hbar hlv => ?_, fun hin hbar => ?_, fun hout => ?_⟩, fun hoff hin => ⟨fun u hg ha => ?_, fun hg ha => ?_,
      fun hb => ?_⟩, fun n h0 hn => ⟨fun hin hbar hp => ?_, fun hin hbar => ?_, fun hout => ?_⟩⟩
    · rw [h.write_plain hdb, plainHostWrite_inside hne hlen hin, if_neg (by simp [hbar, hlv])]
    · rw [h.write_plain hdb, plainHostWrite_inside hne hlen hin, if_pos (by simpa using hbar)]
    · rw [h.write_plain hdb, plainHostWrite_outside hne hlen hout]
      rfl
    · subst hoff
      have ha : s.accept (leNat (data.take 8)) (doorbellArrival (s.port p) p data) = some u := ha
      rw [h.write_doorbell hin, doorbellWrite_good hg, ha]
    · subst hoff
      have ha : s.accept (leNat (data.take 8)) (doorbellArrival (s.port p) p data) = none := ha
      rw [h.write_doorbell hin, doorbellWrite_good hg, ha]
      rfl
    · subst hoff
      rw [h.write_doorbell hin, doorbellWrite_bad hb]
    · rw [h.read h0 hn, hostRange_inside hin]
      exact congrArg Host.Outcome.next (if_neg (by simp [hbar, hp]))
    · rw [h.read h0 hn, hostRange_inside hin]
      exact congrArg Host.Outcome.next (if_pos (by simpa using hbar))
    · rw [h.read h0 hn, hostRange_outside hout]
      rfl
  case links =>
    refine ⟨fun hup => ⟨_, linkDown_up hp hup, port_setPort_same .., rfl, fun k => ?_⟩, linkDown_down, linkTrained_up hp,
      portReenable_live hp, fun hpeer => ?_⟩
    · have hrole : ((failOver s p).setPort p { s.port p with up := false }).role k = failRole s p (s.role k) := role_failOver s p k
      rw [hrole]
      exact ⟨rfl, rfl⟩
    · obtain ⟨u, hu, honly, -⟩ := hostHotReset_resets hp hpeer
      refine ⟨u, hu, ?_, fun k => ?_, ?_⟩
      · rw [honly]
        exact port_setPort_same ..
      · have hrole : u.role k = failRole s p (s.role k) := by
          rw [honly]
          exact role_failOver s p k
        rw [hrole]
        exact ⟨rfl, rfl⟩
      · rw [honly]
        rfl
  case drives =>
    refine ⟨fun hown hne hin hlv => ?_, fun hown h0 hin => ?_, fun hbad => ?_, fun hbad => ?_⟩
    · refine (nvmeDma_store h pa len d).trans ?_
      rw [namespace_own hown, hin, hlv, if_neg (by simp [hne])]
      rfl
    · refine (nvmeDma_load h pa len).trans ?_
      rw [namespace_own hown, hin, if_neg (by simp [Nat.ne_of_gt h0])]
    · rcases hbad with hns | hout | hlv
      · refine (nvmeDma_store h pa len d).trans ?_
        rw [namespace_other hns, if_pos (by simp)]
      · refine (nvmeDma_store h pa len d).trans ?_
        rw [if_pos (by simp [hout])]
      · refine (nvmeDma_store h pa len d).trans ?_
        rw [if_pos hlv, ite_self]
    · rcases hbad with hns | hout
      · refine (nvmeDma_load h pa len).trans ?_
        rw [namespace_other hns, if_pos (by simp)]
      · refine (nvmeDma_load h pa len).trans ?_
        rw [if_pos (by simp [hout])]
  case management =>
    refine ⟨mgmtClaim_free hm, fun o ho hne => ?_, mgmtHandover_own hm hn⟩
    have hother : s.mgmtOwner ≠ some m := by simpa [ho] using hne
    refine ⟨fun hearly => ?_, fun hlate => ?_, mgmtHandover_other hm hn hother, fun hlate => ?_, fun hearly => ?_⟩
    · rw [mgmtClaim_held hm ho hne, ownerSilent_early hearly]
      rfl
    · rw [mgmtClaim_held hm ho hne, ownerSilent_late hlate, if_pos rfl]
    · rw [mgmtOwnerTimeout_held hm ho, ownerSilent_late hlate, if_pos rfl]
    · rw [mgmtOwnerTimeout_held hm ho, ownerSilent_early hearly]
      rfl
  case accesses =>
    rw [step_mgmt hs]
    exact ⟨fun hown => congrArg Host.Outcome.next (mgmtAccess_own hm w hown), fun hother => congrArg Host.Outcome.next (mgmtAccess_other hm w hother)⟩
  case throttling =>
    refine ⟨rfl, rfl, throttleBegin_idle, fun h => congrArg Host.Outcome.next (if_pos h), throttleEnd_throttled,
      fun h => congrArg Host.Outcome.next (if_neg (by simp [h]))⟩
  case reset =>
    refine ⟨⟨_, rfl, rfl, rfl, rfl, rfl, rfl, rfl, rfl, rfl, rfl, rfl, fun p hp => congrArg Port.up (resetPart_port s hp),
      fun a ha => resetPart_memory s ha⟩, fun hup hmon hrec hsch hf => ?up, fun n hup hn => ?recovery, fun hup => resetRelease_up hup _ peers⟩
    case up =>
      have hall := broughtUp_all (fw := ⟨mon, sch, fail⟩) peers hmon hrec hsch hf
      obtain ⟨hv0, hv2, hvs⟩ := broughtUp_versions peers hall
      refine ⟨_, resetRelease_down hup _ peers, ?_, ?_, ?_, ?_, ?_, ?_, ?_, hv0, hv2, hvs, fun p hp => broughtUp_port peers hall hp, fun a ha => ?_⟩
      iterate 7
        rw [hall]
        rfl
      rw [hall]
      exact resetPart_memory s ha
    case recovery =>
      have hfails : 1 ≤ n ∧ n ≤ 7 ∧ stepFails (resetPart s) ⟨mon, sch, fail⟩ n = true := by
        rcases hn with ⟨h, rfl⟩ | ⟨h, rfl⟩ | ⟨h, rfl⟩ | ⟨rfl, h1, h7⟩
        · have h : imgOk (resetPart s) 0 mon = false := h
          simp [stepFails, h]
        · have h : recordsOk (resetPart s) = false := h
          simp [stepFails, h]
        · have h : imgOk (resetPart s) 2 sch = false := h
          simp [stepFails, h]
        · simp [stepFails, h1, h7]
      obtain ⟨h1, h7, hfail⟩ := hfails
      obtain ⟨hdown, hroles, hfirst, hrest⟩ := broughtUp_failed peers h1 h7 hfail
      exact ⟨_, resetRelease_down hup _ peers, hdown, hroles, fun h => congrArg Host.Outcome.next (hfirst h), hrest⟩
  case updates =>
    obtain ⟨hsame, hver⟩ := execUpdate_same (s := { s with sched := rest }) hrec
    rw [step_update hs]
    exact ⟨fun h => congrArg Host.Outcome.next (hsame h), fun hsig hv => congrArg Host.Outcome.next (hver hsig hv)⟩
  case newRecords =>
    refine ⟨fun hs hv => ?_, fun hs hv => ?_, fun hs hv => ?_⟩
    · exact ⟨_, (step_update hs).trans (congrArg Host.Outcome.next (execUpdate_taken rfl hv)), rfl, rfl, rfl⟩
    · exact ⟨_, (step_update hs).trans (congrArg Host.Outcome.next (execUpdate_taken rfl hv)), rfl, rfl, rfl⟩
    · exact ⟨_, (step_update hs).trans (congrArg Host.Outcome.next (execUpdate_taken rfl hv)), rfl, rfl, rfl⟩
  case quotes =>
    refine ⟨_, exec_quote_owned h32 ho, quoteFor_length s h32, quoteFor_nonce s h32, quoteFor_time s h32, fun p hp h => ?_⟩
    rw [quoteFor_entry s h32 hp, quoteEntry_noKernel h]

end Sys2Proof.Machine
end

section
/-! ### Record streams and their watermarks (R20, R407, R408, R410, R412) -/
namespace Sys2Proof.Machine

@[simp] theorem cstream_setCstream_same (s : State) (n : Nat) (c : CStream) : (s.setCstream n c).cstream n = c := mget_mput_same ..
theorem cstream_setCstream_other (s : State) {n m : Nat} (c : CStream) (h : m ≠ n) : (s.setCstream n c).cstream m = s.cstream m :=
  mget_mput_other _ _ _ _ _ h
@[simp] theorem win?_setWin_same (s : State) (i : Nat) (w : CWin) : (s.setWin i w).win? i = some w := mfind_mput_same ..
theorem win?_setWin_other (s : State) {i j : Nat} (w : CWin) (h : j ≠ i) : (s.setWin i w).win? j = s.win? j := mfind_mput_other _ _ _ _ h

/-! OPEN and CLOSE by a service core of the stream's partition. -/

section
variable {s : State} {m n pn : Nat} (hpn : s.svcPart m = some pn) (hlive : (s.svc m).frozen = false)
  (hpart : (s.cstream n).part.toNat = pn) (hsome : pn ≠ 255)
include hpart hsome

theorem streamOwner_own : streamOwner s n = some pn := by
  unfold streamOwner
  rw [hpart]
  exact if_neg hsome

include hpn hlive
theorem exec_streamOpen_own : exec (.streamOpen (.svc m) n) s = .next (openStream s n) :=
  congrArg Host.Outcome.next (ownWrite_own hpn hlive (streamOwner_own hpart hsome) _ _)
theorem exec_streamClose_own : exec (.streamClose (.svc m) n) s = .next (closeStream s n) :=
  congrArg Host.Outcome.next (ownWrite_own hpn hlive (streamOwner_own hpart hsome) _ _)
end

section
variable {s : State} {n : Nat}

theorem openStream_open (h : (s.cstream n).isOpen = true) : openStream s n = s.setCstream n { s.cstream n with err := 4 } := if_pos h
theorem openStream_idle (h : (s.cstream n).isOpen = false) : openStream s n =
    if !openFields s (s.cstream n) then s.setCstream n { s.cstream n with err := 1 }
    else if memPoisoned s (s.cstream n).specPa.toNat 64 then s.setCstream n { s.cstream n with err := 2 }
    else if !specOk { s.cstream n with spec := s.memRead (s.cstream n).specPa.toNat 64 } then s.setCstream n { s.cstream n with err := 1 }
    else s.setCstream n { s.cstream n with
      spec := s.memRead (s.cstream n).specPa.toNat 64, isOpen := true, err := 0, wm := 0,
      srcs := List.replicate (s.cstream n).nsrc.toNat { sw := 0, active := true, last := s.dtime } } := if_neg (by simp [h])

theorem closeStream_idle (h : (s.cstream n).isOpen = false) : closeStream s n = s.setCstream n { s.cstream n with err := 4 } :=
  if_pos (by simp [h])
theorem closeStream_busy (h : (s.cstream n).isOpen = true) (hw : ∃ w ∈ s.wins, w.2.stream = n ∧ (w.2.st = .firing ∨ w.2.st = .amending)) :
    closeStream s n = s.setCstream n { s.cstream n with err := 3 } := by
  unfold closeStream
  obtain ⟨w, hw, hn, hst⟩ := hw
  rw [if_neg (by simp [h]), if_pos]
  exact List.any_eq_true.mpr ⟨w, hw, by simpa [hn] using hst⟩
theorem closeStream_closes (h : (s.cstream n).isOpen = true) (hw : ∀ w ∈ s.wins, w.2.stream = n → w.2.st ≠ .firing ∧ w.2.st ≠ .amending) :
    closeStream s n = (dropWindows s n).setCstream n { (s.cstream n).closed with err := 0 } := by
  have hnone : s.wins.any (fun w => w.2.stream = n && (w.2.st == .firing || w.2.st == .amending)) = false :=
    List.any_eq_false.mpr fun w hmem => by simpa using hw w hmem
  unfold closeStream
  rw [hnone, if_neg (by simp [h])]
  rfl
theorem mem_wins_dropWindows {w : Nat × CWin} : w ∈ (dropWindows s n).wins ↔ w ∈ s.wins ∧ w.2.stream ≠ n := by
  simp [dropWindows]
end

/-! The combined watermark (R410). -/

theorem foldl_min_le (x : Nat) (l : List Nat) : ∀ v ∈ x :: l, l.foldl min x ≤ v := by
  induction l generalizing x with
  | nil => simp
  | cons y t ih =>
    obtain ⟨hmin, ht⟩ := List.forall_mem_cons.mp (ih (min x y))
    exact List.forall_mem_cons.mpr ⟨hmin.trans (min_le_left ..), List.forall_mem_cons.mpr ⟨hmin.trans (min_le_right ..), ht⟩⟩
theorem foldl_min_eq {x m : Nat} {l : List Nat} (hm : m ∈ x :: l) (hle : ∀ y ∈ x :: l, m ≤ y) : l.foldl min x = m := by
  induction l generalizing x with
  | nil => exact (List.mem_singleton.mp hm).symm
  | cons y t ih =>
    rw [List.foldl_cons]
    obtain ⟨hx, hrest⟩ := List.forall_mem_cons.mp hle
    obtain ⟨hy, ht⟩ := List.forall_mem_cons.mp hrest
    refine ih ?_ (List.forall_mem_cons.mpr ⟨le_min hx hy, ht⟩)
    rcases List.mem_cons.mp hm with rfl | hm
    · simp [hy]
    · rcases List.mem_cons.mp hm with rfl | hm
      · simp [hx]
      · exact List.mem_cons_of_mem _ hm

section
variable (c : CStream) (now : Nat)

theorem newWm_ge : c.wm ≤ newWm c now := by
  unfold newWm
  split
  · exact le_max_left ..
  · split
    · exact le_max_left ..
    · exact le_refl _
/-- While a source is ACTIVE, the least watermark of the ACTIVE ones counts. -/
theorem newWm_active {x : Src} (hx : x ∈ c.srcs) (ha : x.active = true) (hle : ∀ y ∈ c.srcs, y.active = true → x.sw ≤ y.sw) :
    newWm c now = max c.wm x.sw := by
  have hmem : x.sw ∈ (c.srcs.filter (·.active)).map (·.sw) := List.mem_map_of_mem (List.mem_filter.mpr ⟨hx, ha⟩)
  have hleast : ∀ v ∈ (c.srcs.filter (·.active)).map (·.sw), x.sw ≤ v := by
    intro v hv
    obtain ⟨y, hy, rfl⟩ := List.mem_map.mp hv
    obtain ⟨hy, hactive⟩ := List.mem_filter.mp hy
    exact hle y hy hactive
  unfold newWm
  generalize (c.srcs.filter (·.active)).map (·.sw) = l at hmem hleast
  cases l with
  | nil => exact absurd hmem List.not_mem_nil
  | cons v t => exact congrArg (max c.wm) (foldl_min_eq hmem hleast)
theorem newWm_idle (h : ∀ x ∈ c.srcs, x.active = false) : newWm c now =
    if c.fl.getLsbD 0 = true ∧ c.fbdelay.toNat < now then max c.wm (now - c.fbdelay.toNat) else c.wm := by
  have hnone : c.srcs.filter (·.active) = [] := List.filter_eq_nil_iff.mpr fun x hx => by simp [h x hx]
  unfold newWm
  rw [hnone]
  simp
/-- A watermark that no ACTIVE source has passed stays. -/
theorem newWm_stays {i : Nat} (hi : i < c.srcs.length) (ha : (c.srcs[i]).active = true) (h : (c.srcs[i]).sw ≤ c.wm) : newWm c now = c.wm := by
  have hmem : c.srcs[i].sw ∈ (c.srcs.filter (·.active)).map (·.sw) := List.mem_map_of_mem (List.mem_filter.mpr ⟨List.getElem_mem hi, ha⟩)
  unfold newWm
  generalize (c.srcs.filter (·.active)).map (·.sw) = l at hmem
  cases l with
  | nil => exact absurd hmem List.not_mem_nil
  | cons v t => exact max_eq_left ((foldl_min_le v t _ hmem).trans h)
end

/-! What the firings and closes leave of a stream (R414). -/

/-- t is s but for its windows, their queue, memory, and the records that each stream has dropped. -/
structure StreamsKept (s t : State) : Prop where
  only : t = { s with mem := t.mem, poison := t.poison, strms := t.strms, wins := t.wins, curq := t.curq }
  stream : ∀ n, t.cstream n = { s.cstream n with dropped := (t.cstream n).dropped }

theorem StreamsKept.refl (s : State) : StreamsKept s s := ⟨rfl, fun _ => rfl⟩
theorem StreamsKept.trans {s t u : State} (h : StreamsKept s t) (h' : StreamsKept t u) : StreamsKept s u where
  only := by
    have hu := h'.only
    rw [h.only] at hu
    exact hu
  stream n := by
    have hu := h'.stream n
    rw [h.stream n] at hu
    exact hu
theorem StreamsKept.fold {α : Type} {f : State → α → State} (hf : ∀ s x, StreamsKept s (f s x)) (l : List α) (s : State) :
    StreamsKept s (l.foldl f s) := by
  induction l generalizing s with
  | nil => exact .refl s
  | cons x t ih => exact (hf s x).trans (ih _)
theorem StreamsKept.cycle {s t : State} (h : StreamsKept s t) : t.cycle = s.cycle := by rw [h.only]
theorem StreamsKept.srcs {s t : State} (h : StreamsKept s t) (n : Nat) : (t.cstream n).srcs = (s.cstream n).srcs := by rw [h.stream]
theorem StreamsKept.wm {s t : State} (h : StreamsKept s t) (n : Nat) : (t.cstream n).wm = (s.cstream n).wm := by rw [h.stream]

theorem streamsKept_queueArrival (s : State) (i : Nat) (w : CWin) (st : WState) : StreamsKept s (queueArrival s i w st) := ⟨rfl, fun _ => rfl⟩
theorem streamsKept_lateLog (s : State) (n : Nat) (rec_ : List Byte) : StreamsKept s (lateLog s n rec_) where
  only := rfl
  stream m := by
    unfold lateLog
    by_cases h : m = n
    · subst h
      rw [cstream_setCstream_same]
    · rw [cstream_setCstream_other _ _ h]
      rfl
theorem streamsKept_closeWin (s : State) (i : Nat) (w : CWin) : StreamsKept s (closeWin s i w) :=
  StreamsKept.trans (t := { s with wins := mdel s.wins i }) ⟨rfl, fun _ => rfl⟩ (.fold (fun s x => streamsKept_lateLog s w.stream x) _ _)
theorem streamsKept_closeIfDue (s : State) (i : Nat) : StreamsKept s (closeIfDue s i) := by
  unfold closeIfDue
  split
  · exact .refl s
  · dsimp only
    split
    · exact streamsKept_closeWin ..
    · exact .refl s
theorem streamsKept_settleWindows (s : State) : StreamsKept s (settleWindows s) :=
  (StreamsKept.fold (fun s (w : Nat × CWin) => streamsKept_queueArrival s w.1 w.2 .firing) _ s).trans (.fold streamsKept_closeIfDue _ _)

/-! The idle timers (R409, R410). -/

/-- A source that has been silent for the stream's idle time. -/
def idledSrc (c : CStream) (now : Nat) (x : Src) : Src :=
  if x.active ∧ c.idle ≠ 0 ∧ c.idle.toNat ≤ now - x.last then { x with active := false } else x
def idledStream (c : CStream) (now : Nat) : CStream :=
  { c with srcs := c.srcs.map (idledSrc c now), wm := newWm { c with srcs := c.srcs.map (idledSrc c now) } now }

theorem mfind_map {α : Type} (f : α → α) (m : SMap α) (k : Nat) : mfind (m.map (fun p => (p.1, f p.2))) k = (mfind m k).map f := by
  induction m with
  | nil => rfl
  | cons x t ih =>
    simp only [List.map_cons, mfind]
    split
    · rfl
    · exact ih

theorem idleTest_eq (s : State) : idleTest s = settleWindows { s with
    strms := s.strms.map (fun p => (p.1, if p.2.isOpen then idledStream p.2 s.dtime else p.2)) } := by
  have hsrc (c : CStream) : (fun x : Src => if (x.active && decide (c.idle ≠ 0) && decide (c.idle.toNat ≤ s.dtime - x.last)) = true then
      { x with active := false } else x) = idledSrc c s.dtime := by
    funext x
    unfold idledSrc
    simp only [Bool.and_eq_true, decide_eq_true_eq, and_assoc]
  unfold idleTest
  simp only [hsrc]
  congr 3
  funext p
  split <;> rfl

theorem cstream_idleTest {s : State} {n : Nat} {c : CStream} (h : mfind s.strms n = some c) (ho : c.isOpen = true) :
    ((idleTest s).cstream n).srcs = c.srcs.map (idledSrc c s.dtime) ∧
      ((idleTest s).cstream n).wm = newWm { c with srcs := c.srcs.map (idledSrc c s.dtime) } s.dtime := by
  have hstream : mget CStream.reset (s.strms.map (fun p => (p.1, if p.2.isOpen then idledStream p.2 s.dtime else p.2))) n =
      idledStream c s.dtime := by
    refine mget_of_mfind ?_
    rw [mfind_map (fun x : CStream => if x.isOpen then idledStream x s.dtime else x), h]
    exact congrArg some (if_pos ho)
  rw [idleTest_eq, StreamsKept.srcs (streamsKept_settleWindows _), StreamsKept.wm (streamsKept_settleWindows _), State.cstream, hstream]
  exact ⟨rfl, rfl⟩

/-! The oldest arrival (R415). -/

theorem curtainArrivalDispatch_taken {s t : State} {e : CArr} {rest : List CArr} {core : Nat} {a : Arrival} (hq : s.curq = e :: rest)
    (hp : winPlace s e = some (core, a)) (ht : s.accept core a = some t) :
    exec .curtainArrivalDispatch s = .next { t with curq := (e :: rest).filter (fun x => x.win ≠ e.win) } := by
  have hfind : (s.curq.take 256).find? (fun e => (winPlace s e).isSome) = some e := by
    rw [hq, List.take_succ_cons, List.find?_cons_of_pos (by rw [hp]; rfl)]
  change execCurtainArrivalDispatch s = _
  unfold execCurtainArrivalDispatch
  rw [hfind]
  simp only [hp, ht, hq]
theorem curtainArrivalDispatch_none {s : State} (h : ∀ e ∈ s.curq, winPlace s e = none) : exec .curtainArrivalDispatch s = .next s := by
  have hfind : (s.curq.take 256).find? (fun e => (winPlace s e).isSome) = none :=
    List.find?_eq_none.mpr fun e he => by simp [h e (List.mem_of_mem_take he)]
  change execCurtainArrivalDispatch s = _
  unfold execCurtainArrivalDispatch
  rw [hfind]

end Sys2Proof.Machine
end

section
/-! ### Windows (R411, R413 to R416) -/
namespace Sys2Proof.Machine

/-! The windows that cover a time (R413). -/

theorem mem_covers {c : CStream} {t k : Nat} : k ∈ covers c t ↔ k ≤ t / c.slide ∧ t / c.slide < k + c.size / c.slide := by
  have hmem : k ∈ covers c t ↔ ∃ j, j < c.size / c.slide ∧ j ≤ t / c.slide ∧ t / c.slide - j = k := by
    simp [covers, List.mem_filterMap]
  rw [hmem]
  constructor
  · rintro ⟨j, hj, hle, rfl⟩
    omega
  · rintro ⟨hle, hlt⟩
    exact ⟨t / c.slide - k, by omega⟩

theorem mem_covers_iff {c : CStream} {t k : Nat} (h0 : 0 < c.slide) (hdvd : c.size % c.slide = 0) :
    k ∈ covers c t ↔ k * c.slide ≤ t ∧ t < k * c.slide + c.size := by
  have hsize : c.size = c.size / c.slide * c.slide := (Nat.div_mul_cancel (Nat.dvd_of_mod_eq_zero hdvd)).symm
  rw [mem_covers, Nat.le_div_iff_mul_le h0, Nat.div_lt_iff_lt_mul h0, Nat.add_mul, ← hsize]

/-! Where a record goes (R416). -/

section
variable {s : State} {n t k : Nat}

section
variable {i : Nat} {w : CWin} (hslot : winSlot s n k = some i) (hw : s.win? i = some w)
include hslot hw

theorem routeOf_open (hst : w.st = .open_) : routeOf s n t k = .append := by
  unfold routeOf
  rw [hslot, Option.bind_some, hw]
  simp only [hst]
theorem routeOf_fired (hst : w.st = .firing ∨ w.st = .published ∨ w.st = .amending) :
    routeOf s n t k = if (s.cstream n).wm ≤ t + (s.cstream n).late then .encore else .drop := by
  unfold routeOf
  rw [hslot, Option.bind_some, hw]
  rcases hst with hst | hst | hst <;> simp only [hst]
theorem routeOf_stalled (hst : w.st = .stalled) : routeOf s n t k = .drop := by
  unfold routeOf
  rw [hslot, Option.bind_some, hw]
  simp only [hst]
end

theorem routeOf_noSlot (h : winSlot s n k = none) : routeOf s n t k =
    if (s.cstream n).wm < k * (s.cstream n).slide + (s.cstream n).size then .append
    else if (s.cstream n).wm ≤ t + (s.cstream n).late then .fire else .drop := by
  unfold routeOf
  rw [h, Option.bind_none]
  rfl
end

/-! Sorting by insertion. -/

section
variable {α : Type} {le : α → α → Bool}

theorem insertBy_perm (x : α) (l : List α) : (insertBy le x l).Perm (x :: l) := by
  induction l with
  | nil => exact .refl _
  | cons y t ih =>
    rw [insertBy]
    split
    · exact .refl _
    · exact (ih.cons y).trans (.swap x y t)
theorem sortBy_perm (l : List α) : (sortBy le l).Perm l := by
  induction l with
  | nil => exact .refl _
  | cons x t ih => exact (insertBy_perm x _).trans (ih.cons x)

variable {R : α → α → Prop} (hle : ∀ x y, le x y = true → R x y) (hnot : ∀ x y, le x y = false → R y x)
  (htrans : ∀ x y z, R x y → R y z → R x z)
include hle hnot htrans

theorem insertBy_sorted (x : α) {l : List α} (hl : l.Pairwise R) : (insertBy le x l).Pairwise R := by
  induction l with
  | nil => exact List.pairwise_singleton ..
  | cons y t ih =>
    obtain ⟨hy, ht⟩ := List.pairwise_cons.mp hl
    rw [insertBy]
    split
    · next hxy =>
      refine List.pairwise_cons.mpr ⟨fun z hz => ?_, hl⟩
      rcases List.mem_cons.mp hz with rfl | hz
      · exact hle _ _ hxy
      · exact htrans _ _ _ (hle _ _ hxy) (hy z hz)
    · next hxy =>
      refine List.pairwise_cons.mpr ⟨fun z hz => ?_, ih ht⟩
      rcases List.mem_cons.mp ((insertBy_perm x t).mem_iff.mp hz) with rfl | hz
      · exact hnot _ _ (by simpa using hxy)
      · exact hy z hz
theorem sortBy_sorted (l : List α) : (sortBy le l).Pairwise R := by
  induction l with
  | nil => exact .nil
  | cons x t ih => exact insertBy_sorted hle hnot htrans x ih
end

/-! The firings that the watermarks have made due (R414, R415). -/

def endOf (s : State) (w : CWin) : Nat := w.k * (s.cstream w.stream).slide + (s.cstream w.stream).size
def dueWins (s : State) : List (Nat × CWin) :=
  s.wins.filter (fun w => w.2.st == .open_ && winEnd (s.cstream w.2.stream) w.2.k ≤ (s.cstream w.2.stream).wm)
def winKey (s : State) (w : Nat × CWin) : List Nat :=
  [winEnd (s.cstream w.2.stream) w.2.k, winStart (s.cstream w.2.stream) w.2.k, w.2.stream]
/-- The due windows in the order of their firings. -/
def firings (s : State) : List (Nat × CWin) := sortBy (fun a b => lexLe (winKey s a) (winKey s b)) (dueWins s)
def firedWin (w : CWin) : CWin := { w with st := .firing, cursor := 0, holder := none }
def fireAll (l : List (Nat × CWin)) (s : State) : State := l.foldl (fun s w => queueArrival s w.1 w.2 .firing) s

theorem settleWindows_eq (s : State) : settleWindows s = ((fireAll (firings s) s).wins.map (·.1)).foldl closeIfDue (fireAll (firings s) s) := rfl

theorem lexLe_winKey {s : State} {a b : Nat × CWin} (h : lexLe (winKey s a) (winKey s b) = true) : endOf s a.2 ≤ endOf s b.2 := by
  simp only [lexLe, winKey, winEnd, Bool.or_eq_true, decide_eq_true_eq, Bool.and_eq_true] at h
  unfold endOf
  omega
theorem not_lexLe_winKey {s : State} {a b : Nat × CWin} (h : lexLe (winKey s a) (winKey s b) = false) : endOf s b.2 ≤ endOf s a.2 := by
  by_contra hlt
  have hle : lexLe (winKey s a) (winKey s b) = true := by
    simp only [lexLe, winKey, winEnd, Bool.or_eq_true, decide_eq_true_eq]
    unfold endOf at hlt
    exact .inl (by omega)
  exact nomatch h.symm.trans hle
theorem firings_sorted (s : State) : (firings s).Pairwise (fun a b => endOf s a.2 ≤ endOf s b.2) :=
  sortBy_sorted (R := fun a b : Nat × CWin => endOf s a.2 ≤ endOf s b.2) (fun _ _ => lexLe_winKey) (fun _ _ => not_lexLe_winKey) (fun _ _ _ => le_trans) _
theorem mem_firings {s : State} {w : Nat × CWin} : w ∈ firings s ↔
    w ∈ s.wins ∧ w.2.st = .open_ ∧ endOf s w.2 ≤ (s.cstream w.2.stream).wm := by
  rw [firings, (sortBy_perm _).mem_iff, dueWins, List.mem_filter, Bool.and_eq_true, beq_iff_eq, decide_eq_true_eq]
  rfl
theorem firings_nodup {s : State} (h : (s.wins.map Prod.fst).Nodup) : ((firings s).map Prod.fst).Nodup :=
  ((sortBy_perm _).map _).nodup_iff.mpr (h.sublist (List.filter_sublist.map _))

theorem win?_fireAll {l : List (Nat × CWin)} (hl : (l.map Prod.fst).Nodup) (s : State) (i : Nat) :
    (fireAll l s).win? i = ((mfind l i).map firedWin).or (s.win? i) := by
  induction l generalizing s with
  | nil => rfl
  | cons p t ih =>
    obtain ⟨hp, ht⟩ := List.nodup_cons.mp hl
    refine (ih ht _).trans ?_
    by_cases h : p.1 = i
    · subst h
      rw [mfind_eq_none hp, mfind, if_pos rfl]
      exact win?_setWin_same ..
    · rw [mfind, if_neg h]
      exact congrArg _ (win?_setWin_other s _ (Ne.symm h))
theorem curq_fireAll (l : List (Nat × CWin)) (s : State) :
    (fireAll l s).curq = s.curq ++ l.map (fun w => { win := w.1, wm := (s.cstream w.2.stream).wm }) := by
  induction l generalizing s with
  | nil => exact (List.append_nil _).symm
  | cons p t ih => exact (ih _).trans (List.append_assoc ..)

/-- A window that is open or fires does not close. -/
theorem closeIfDue_live {s : State} (h : ∀ i w, s.win? i = some w → w.st = .open_ ∨ w.st = .firing) (i : Nat) : closeIfDue s i = s := by
  unfold closeIfDue
  split
  · rfl
  · next w hw =>
    refine if_neg ?_
    rcases h i w hw with hst | hst <;> simp [hst]
theorem closeIfDue_fold {s : State} (h : ∀ i w, s.win? i = some w → w.st = .open_ ∨ w.st = .firing) (l : List Nat) : l.foldl closeIfDue s = s := by
  induction l with
  | nil => rfl
  | cons i t ih => rw [List.foldl_cons, closeIfDue_live h, ih]

section
variable {s : State} (hnodup : (s.wins.map Prod.fst).Nodup) (hopen : (s.wins.all (fun x => x.2.st == .open_)) = true)
include hnodup hopen

/-- Where every window is open, nothing closes. -/
theorem settleWindows_open : settleWindows s = fireAll (firings s) s := by
  rw [settleWindows_eq]
  refine closeIfDue_fold (fun i w hw => ?_) _
  rw [win?_fireAll (firings_nodup hnodup)] at hw
  cases hf : mfind (firings s) i with
  | some x =>
    rw [hf] at hw
    exact .inr (congrArg CWin.st (Option.some.inj hw)).symm
  | none =>
    rw [hf] at hw
    exact .inl (by simpa using List.all_eq_true.mp hopen _ (mem_of_mfind hw))

theorem settleWindows_due {i : Nat} {w : CWin} (hw : (i, w) ∈ s.wins) (hdue : endOf s w ≤ (s.cstream w.stream).wm) :
    ((settleWindows s).win? i).map (·.st) = some .firing ∧ ∃ e ∈ (settleWindows s).curq, e.win = i := by
  have hst : w.st = .open_ := by simpa using List.all_eq_true.mp hopen _ hw
  have hmem : (i, w) ∈ firings s := mem_firings.mpr ⟨hw, hst, hdue⟩
  rw [settleWindows_open hnodup hopen, win?_fireAll (firings_nodup hnodup), mfind_of_mem (firings_nodup hnodup) hmem, curq_fireAll]
  exact ⟨rfl, _, List.mem_append_right _ (List.mem_map_of_mem hmem), rfl⟩
theorem settleWindows_notDue {i : Nat} {w : CWin} (hw : (i, w) ∈ s.wins) (hdue : ¬ endOf s w ≤ (s.cstream w.stream).wm) :
    (settleWindows s).win? i = some w := by
  have hfind : s.win? i = some w := mfind_of_mem hnodup hw
  have hnone : mfind (firings s) i = none := by
    cases hf : mfind (firings s) i with
    | none => rfl
    | some x =>
      obtain ⟨hx, -, hend⟩ := mem_firings.mp (mem_of_mfind hf)
      have hxw : x = w := Option.some.inj ((mfind_of_mem hnodup hx).symm.trans hfind)
      exact absurd (hxw ▸ hend) hdue
  rw [settleWindows_open hnodup hopen, win?_fireAll (firings_nodup hnodup), hnone, hfind]
  rfl
/-- The arrivals stand in the queue by the ends of their windows. -/
theorem settleWindows_order : ∃ new, (settleWindows s).curq = s.curq ++ new ∧
    new.Pairwise (fun a b => ∀ x y, (a.win, x) ∈ s.wins → (b.win, y) ∈ s.wins → endOf s x ≤ endOf s y) := by
  refine ⟨_, (congrArg State.curq (settleWindows_open hnodup hopen)).trans (curq_fireAll ..), List.pairwise_map.mpr ?_⟩
  refine (firings_sorted s).imp_of_mem fun {a b} ha hb hab x y hx hy => ?_
  have hsame {c : Nat × CWin} {z : CWin} (hc : c ∈ firings s) (hz : (c.1, z) ∈ s.wins) : c.2 = z :=
    Option.some.inj ((mfind_of_mem hnodup (mem_firings.mp hc).1).symm.trans (mfind_of_mem hnodup hz))
  rw [← hsame ha hx, ← hsame hb hy]
  exact hab
end

end Sys2Proof.Machine
end

section
/-! ### A WIN request where it is served (R231, R417, R420) -/
namespace Sys2Proof.Machine

/-! What injection takes: tokens of the partition, and places in the queue. -/

theorem overtaken_only (s : State) (ys : List Queued) : overtaken s ys = { s with roles := (overtaken s ys).roles } :=
  List.foldlRecOn (motive := fun t : State => t = { s with roles := t.roles }) ys _ rfl fun t ht y _ => by
    rw [ht]
    rfl
theorem spend_only {s t : State} {pn : Nat} {kinds : List Nat} (h : spend s pn kinds = some t) : t = { s with parts := t.parts } := by
  unfold spend at h
  dsimp only at h
  split at h
  · rw [← Option.some.inj h]
  · split at h
    · exact nomatch h
    · rw [← Option.some.inj h]
      rfl
theorem inject_only {s t : State} {k : Nat} {a : Access} (h : inject s k a = some t) : ∃ rs ps, t = { s with roles := rs, parts := ps } := by
  unfold inject at h
  dsimp only at h
  split at h
  · rw [← Option.some.inj h]
    exact ⟨_, _, rfl⟩
  · unfold enter at h
    dsimp only at h
    split at h
    · exact nomatch h
    · obtain ⟨u, hu, rfl⟩ := Option.map_eq_some_iff.mp h
      rw [overtaken_only, spend_only hu]
      exact ⟨_, _, rfl⟩

theorem accessServed_acc {s s0 : State} {rs : Slot} {id : Nat} {a : Access} (ha : (s.role rs.key).acc? id = some a)
    (hp : performable s (s.role rs.key) a = true) (hstuck : meetsStuck s (s.role rs.key) a.cl a.id a.ranges = false)
    (hi : inject s rs.key a = some s0) : exec (.accessServed rs (.acc id)) s = .next ((serveAcc s0 rs.key a).stir rs.key) := by
  have hserve : servePending s rs.key id = serveAcc s0 rs.key a := by
    unfold servePending
    dsimp only
    rw [ha]
    dsimp only
    rw [hp, hstuck, hi]
    rfl
  have hservable : servable s (s.role rs.key) (.acc id) = true := by
    unfold servable
    dsimp only
    rw [ha]
    exact hp
  rw [← hserve]
  exact congrArg Host.Outcome.next (if_pos hservable)

/-! The request is answered, or it faults. -/

def answered (s : State) (k : Nat) (a : Access) (vals : List (Dest × Row)) (now : Nat) : State :=
  s.setRole k { (s.role k).setAcc { a with stat := .replied vals } with lastAct := now }
def misused (s : State) (k : Nat) (a : Access) (code n now : Nat) : State :=
  s.setRole k { (s.role k).setAcc { a with stat := .faulted code a.addr (BitVec.ofNat 64 n) n } with lastAct := now }

section
variable {s : State} {k op : Nat} {a : Access} (hk : a.kind = .win op)
include hk

theorem serveAcc_fault {c n : Nat} {i0 : Word} (h : serveWin s k a op = .fault c n i0) :
    serveAcc s k a = faultAcc s k a c i0 (BitVec.ofNat 64 n) (if c = tWIN || c = tPOOL then n else 0) := by
  simp only [serveAcc, hk, h]
theorem serveAcc_answer {t : State} {vals : List (Dest × Row)} (h : serveWin s k a op = .done t vals) :
    serveAcc s k a = setStat t k a (.replied vals) := by
  simp only [serveAcc, hk, h]
theorem serveAcc_done {t : State} {vals : List (Dest × Row)} (h : serveWin s k a op = .done t vals) :
    (serveAcc s k a).stir k = answered t k a vals t.cycle := by
  rw [serveAcc_answer hk h]
  simp only [setStat, State.stir, State.modRoleAt, role_setRole_same, setRole_setRole]
  rfl
theorem serveAcc_misuse {code n : Nat} (hcode : code = 0x40 ∨ code = 0x14 ∧ n = 0) (h : serveWin s k a op = .fault code n a.addr) :
    (serveAcc s k a).stir k = misused s k a code n s.cycle := by
  have hinfo : code ≠ tVIOL ∧ (if code = tWIN || code = tPOOL then n else 0) = n := by
    rcases hcode with rfl | ⟨rfl, rfl⟩
    · exact ⟨by decide, rfl⟩
    · exact ⟨by decide, rfl⟩
  obtain ⟨hviol, hinfo⟩ := hinfo
  rw [serveAcc_fault hk h, hinfo, faultAcc, noteFault, if_neg hviol]
  simp only [setStat, State.stir, State.modRoleAt, role_setRole_same, setRole_setRole]
  rfl
theorem serveAcc_violation (h : serveWin s k a op = .fault 0x60 0 a.addr) : (serveAcc s k a).stir k =
    (s.logViol 0 k a.addr).setRole k { (s.role k).setAcc { a with stat := .faulted 0x60 a.addr 0 0 } with
      frozen := (s.role k).frozen || (s.role k).st == .stopped, lastAct := s.cycle } := by
  have hcomm (s : State) (r : Role) : (s.setRole k r).logViol 0 k a.addr = (s.logViol 0 k a.addr).setRole k r := rfl
  rw [serveAcc_fault hk h]
  have hinfo : (if decide ((0x60 : Nat) = tWIN) || decide ((0x60 : Nat) = tPOOL) then (0 : Nat) else 0) = 0 := ite_self _
  rw [hinfo, faultAcc, noteFault, if_pos (show (0x60 : Nat) = tVIOL from rfl)]
  simp only [setStat, State.stir, State.modRoleAt, role_setRole_same, hcomm, setRole_setRole]
  rfl
end

/-! A source word of this device (R409, R411). -/

/-- A source word that names a source of this device. -/
def OwnSource (w : Word) : Prop := w.toNat / 2 ^ 32 = 0 ∧ w.toNat / 2 ^ 14 % 4 = 0 ∧ w.toNat / 2 ^ 16 = 0xFFFF

section
variable {s : State} {k : Nat} {w : Word} {peer : State → WinServed} {f : Nat → Nat → WinServed}

theorem withSource_malformed (h : w.toNat / 2 ^ 32 ≠ 0) : withSource s k w peer f = .fault tWIN 1 w := by
  have hbits : bits w 63 32 ≠ 0 := by
    have := w.isLt
    unfold bits
    omega
  unfold withSource sourceOf
  rw [if_neg (by simp [hbits])]
theorem withSource_own (h : OwnSource w) : withSource s k w peer f =
    if (s.cstream (w.toNat % 2 ^ 8)).part.toNat ≠ (s.role k).part.toNat then .fault tVIOL 0 w
    else if !(s.cstream (w.toNat % 2 ^ 8)).isOpen then .fault tWIN 1 w
    else if (s.cstream (w.toNat % 2 ^ 8)).nsrc.toNat ≤ w.toNat / 2 ^ 8 % 2 ^ 6 then .fault tWIN 2 w
    else f (w.toNat % 2 ^ 8) (w.toNat / 2 ^ 8 % 2 ^ 6) := by
  obtain ⟨hhigh, hmid, hrank⟩ := h
  have hrank : bits w 31 16 = 0xFFFF := by unfold bits; omega
  have hsource : sourceOf w = some (w.toNat % 2 ^ 8, w.toNat / 2 ^ 8 % 2 ^ 6, 0xFFFF) := by
    unfold sourceOf
    rw [hrank, if_pos (by simp only [Bool.and_eq_true, decide_eq_true_eq]; unfold bits; omega)]
    simp [bits]
  have hpeer : peerSource (s.role k) w = false := by simp [peerSource, hrank]
  unfold withSource
  dsimp only
  rw [hsource]
  dsimp only
  rw [hpeer]
  rfl
end

/-- RECAPP, WMARK and SIDLE name a source. -/
theorem serveWin_source {op : Nat} (h : op ≤ 2) (s : State) (k : Nat) (a : Access) :
    ∃ peer f, serveWin s k a op = withSource s k a.addr peer f := by
  unfold serveWin
  obtain rfl | rfl | rfl : op = 0 ∨ op = 1 ∨ op = 2 := by omega
  · exact ⟨_, _, rfl⟩
  · exact ⟨_, _, rfl⟩
  · exact ⟨_, _, rfl⟩

section
variable {s : State} {k op : Nat} {a : Access} (hop : op ≤ 2)
include hop

theorem serveWin_malformed (h : a.addr.toNat / 2 ^ 32 ≠ 0) : serveWin s k a op = .fault 0x40 1 a.addr := by
  obtain ⟨peer, f, hs⟩ := serveWin_source hop s k a
  exact hs.trans (withSource_malformed h)

variable (hown : OwnSource a.addr)
include hown
theorem serveWin_otherPartition (hpart : (s.cstream (a.addr.toNat % 2 ^ 8)).part.toNat ≠ (s.role k).part.toNat) :
    serveWin s k a op = .fault 0x60 0 a.addr := by
  obtain ⟨peer, f, hs⟩ := serveWin_source hop s k a
  rw [hs, withSource_own hown, if_pos hpart]
  rfl

variable (hpart : (s.cstream (a.addr.toNat % 2 ^ 8)).part.toNat = (s.role k).part.toNat)
include hpart
theorem serveWin_closedStream (ho : (s.cstream (a.addr.toNat % 2 ^ 8)).isOpen = false) : serveWin s k a op = .fault 0x40 1 a.addr := by
  obtain ⟨peer, f, hs⟩ := serveWin_source hop s k a
  rw [hs, withSource_own hown, if_neg (not_not.mpr hpart), ho]
  rfl
theorem serveWin_noSource (ho : (s.cstream (a.addr.toNat % 2 ^ 8)).isOpen = true)
    (hn : (s.cstream (a.addr.toNat % 2 ^ 8)).nsrc.toNat ≤ a.addr.toNat / 2 ^ 8 % 2 ^ 6) : serveWin s k a op = .fault 0x40 2 a.addr := by
  obtain ⟨peer, f, hs⟩ := serveWin_source hop s k a
  rw [hs, withSource_own hown, if_neg (not_not.mpr hpart), ho, if_pos hn]
  rfl
end

/-- A source word of this device that names a source of an open stream of the role's partition. -/
structure GoodSource (s : State) (k : Nat) (w : Word) (n i : Nat) : Prop where
  own : OwnSource w
  stream : n = w.toNat % 2 ^ 8
  source : i = w.toNat / 2 ^ 8 % 2 ^ 6
  part : (s.cstream n).part.toNat = (s.role k).part.toNat
  opened : (s.cstream n).isOpen = true
  listed : i < (s.cstream n).nsrc.toNat

theorem GoodSource.withSource_eq {s : State} {k n i : Nat} {w : Word} (h : GoodSource s k w n i) (peer : State → WinServed)
    (f : Nat → Nat → WinServed) : withSource s k w peer f = f n i := by
  obtain ⟨hown, rfl, rfl, hpart, ho, hn⟩ := h
  rw [withSource_own hown, if_neg (not_not.mpr hpart), ho, Bool.not_true, if_neg Bool.false_ne_true,
    if_neg (not_le.mpr hn)]

/-! WMARK and SIDLE (R410, R411). -/

/-- A watermark recomputed: the firings and closes that it makes due touch no source and no watermark. -/
theorem recompute_kept {s : State} {n : Nat} {c : CStream} :
    let u := recompute (s.setCstream n c) n
    u.cycle = s.cycle ∧ (u.cstream n).srcs = c.srcs ∧ (u.cstream n).wm = newWm c s.dtime := by
  have hkept := streamsKept_settleWindows ((s.setCstream n c).setCstream n { c with wm := newWm c s.dtime })
  have hu : recompute (s.setCstream n c) n = settleWindows ((s.setCstream n c).setCstream n { c with wm := newWm c s.dtime }) := by
    unfold recompute
    rw [cstream_setCstream_same]
    rfl
  rw [hu]
  refine ⟨hkept.cycle, ?_, ?_⟩
  · rw [hkept.srcs, cstream_setCstream_same]
  · rw [hkept.wm, cstream_setCstream_same]

/-- The stream after a source's report of a watermark. -/
def heardFrom (s : State) (n i v : Nat) : CStream := { s.cstream n with
  srcs := (s.cstream n).srcs.modify i (fun x => { sw := max x.sw (capped s (s.cstream n) i v), active := true, last := s.dtime }) }
/-- The stream after a source's report that it is silent. -/
def silenced (s : State) (n i : Nat) : CStream := { s.cstream n with srcs := (s.cstream n).srcs.modify i (fun x => { x with active := false }) }
theorem serveWin_wmark_eq (s : State) (k : Nat) (a : Access) : serveWin s k a 1 = withSource s k a.addr (fun s => .done s [])
    (fun n i => .done (recompute (s.setCstream n (heardFrom s n i a.v.toNat)) n) []) := rfl
theorem serveWin_sidle_eq (s : State) (k : Nat) (a : Access) : serveWin s k a 2 = withSource s k a.addr (fun s => .done s [])
    (fun n i => .done (recompute (s.setCstream n (silenced s n i)) n) []) := rfl

section
variable {s : State} {k n i : Nat} {a : Access} (h : GoodSource s k a.addr n i) (hi : i < (s.cstream n).srcs.length)
include h hi

/-- WMARK: the source's watermark rises to the value, capped by its upstream stream. -/
theorem serveWin_wmark : ∃ u, serveWin s k a 1 = .done u [] ∧ u.cycle = s.cycle ∧
    ((u.cstream n).srcs[i]?).map (fun x => (x.sw, x.active)) =
      some (max (((s.cstream n).srcs.getD i { sw := 0, active := false, last := 0 }).sw) (capped s (s.cstream n) i a.v.toNat), true) ∧
    (u.cstream n).wm = newWm { s.cstream n with srcs := (u.cstream n).srcs } s.dtime := by
  obtain ⟨hcycle, hsrcs, hwm⟩ := recompute_kept (s := s) (n := n) (c := heardFrom s n i a.v.toNat)
  refine ⟨_, (serveWin_wmark_eq ..).trans (h.withSource_eq _ _), hcycle, ?_, ?_⟩
  · rw [hsrcs, heardFrom, List.getElem?_modify_eq, List.getElem?_eq_getElem hi, List.getD_eq_getElem _ _ hi]
    rfl
  · rw [hwm, hsrcs]
    rfl
/-- SIDLE: the source is IDLE. -/
theorem serveWin_sidle : ∃ u, serveWin s k a 2 = .done u [] ∧ u.cycle = s.cycle ∧ ((u.cstream n).srcs[i]?).map (·.active) = some false := by
  obtain ⟨hcycle, hsrcs, -⟩ := recompute_kept (s := s) (n := n) (c := silenced s n i)
  refine ⟨_, (serveWin_sidle_eq ..).trans (h.withSource_eq _ _), hcycle, ?_⟩
  rw [hsrcs, silenced, List.getElem?_modify_eq, List.getElem?_eq_getElem hi]
  rfl
end

theorem capped_eq (s : State) (c : CStream) (i v : Nat) : capped s c i v =
    if (mget (0 : Byte) c.up i).toNat ≠ 255 ∧ (s.cstream (mget (0 : Byte) c.up i).toNat).isOpen = true then
      min v (s.cstream (mget (0 : Byte) c.up i).toNat).wm else v := by
  unfold capped
  simp only [Bool.and_eq_true, decide_eq_true_eq]

end Sys2Proof.Machine
end

section
/-! ### Records appended and delivered (R413, R416, R418, R429) -/
namespace Sys2Proof.Machine

/-! RECAPP into a first window (R408, R413, R416). -/

theorem covers_tumbling {c : CStream} (h0 : 0 < c.slide) (h : c.size = c.slide) (t : Nat) : covers c t = [t / c.slide] := by
  unfold covers
  rw [h, Nat.div_self h0]
  simp

section
variable {s : State} (hwins : s.wins = [])
include hwins

theorem freeWin_first : freeWin s = some 0 := by
  unfold freeWin
  rw [show (4096 : Nat) = 4095 + 1 from rfl, List.range_succ_eq_map, List.find?_cons_of_pos]
  rw [State.win?, hwins]
  rfl
theorem winSlot_none (n k : Nat) : winSlot s n k = none := by
  unfold winSlot
  rw [hwins]
  rfl
theorem pagesUsed_none (n : Nat) : pagesUsed s n = 0 := by
  unfold pagesUsed
  rw [hwins]
  rfl
theorem freePage_first (n : Nat) : freePage s n = 0 := by
  unfold freePage
  rw [pagesUsed_none hwins, hwins]
  rfl

/-- A window's first record. -/
def firstWin (n k : Nat) (rec_ : List Byte) : CWin :=
  { pages := [0], stream := n, k := k, st := .open_, recs := [rec_], encore := [], taken := [], cursor := 0, rev := 0, holder := none }

theorem putRecord_first (n k : Nat) (rec_ : List Byte) : putRecord s n rec_ k .append =
    (s.memWrite (paNorm (s.cstream n).buf.toNat) rec_).setWin 0 (firstWin n k rec_) := by
  have hstore : storeRec s { firstWin n k rec_ with pages := [], recs := [] } rec_ =
      (s.memWrite (paNorm (s.cstream n).buf.toNat) rec_, [0]) := by
    unfold storeRec
    simp [firstWin, CWin.count, freePage_first hwins]
  unfold putRecord
  rw [winSlot_none hwins, freeWin_first hwins]
  dsimp only
  rw [if_neg nofun]
  exact congrArg (fun p : State × List Nat => p.1.setWin 0 { firstWin n k rec_ with pages := p.2 }) hstore
end

/-- Where no window is due, and none waits to close, nothing settles. -/
theorem settleWindows_idle {s : State} (hnodup : (s.wins.map Prod.fst).Nodup) (hopen : (s.wins.all (fun x => x.2.st == .open_)) = true)
    (hdue : ∀ w ∈ s.wins, ¬ endOf s w.2 ≤ (s.cstream w.2.stream).wm) : settleWindows s = s := by
  have hnone : firings s = [] := List.eq_nil_iff_forall_not_mem.mpr fun w hw =>
    have ⟨hmem, _, hend⟩ := mem_firings.mp hw
    hdue w hmem hend
  rw [settleWindows_open hnodup hopen, hnone]
  rfl

theorem setCstream_setCstream (s : State) (n : Nat) (c d : CStream) : (s.setCstream n c).setCstream n d = s.setCstream n d := by
  unfold State.setCstream
  rw [mput_mput]

section
variable {s : State} {n i : Nat} {rec_ : List Byte} (hwins : s.wins = [])
  (hopen : (s.cstream n).wm < leNat (rec_.take 8) / (s.cstream n).slide * (s.cstream n).slide + (s.cstream n).size)
include hwins hopen

/-- The record takes the first place of a window, and no room is short. -/
theorem recapp_first (hsize : (s.cstream n).size = (s.cstream n).slide) (h0 : 0 < (s.cstream n).slide)
    (hpages : 0 < (s.cstream n).bufPages.toNat) : recapp s n i rec_ = (recompute (touchSrc ((s.memWrite (paNorm (s.cstream n).buf.toNat) rec_).setWin 0
    (firstWin n (leNat (rec_.take 8) / (s.cstream n).slide) rec_)) n i id) n, 1) := by
  have hroute : routeOf s n (leNat (rec_.take 8)) (leNat (rec_.take 8) / (s.cstream n).slide) = .append := by
    rw [routeOf_noSlot (winSlot_none hwins ..), if_pos hopen]
  have hslot (k : Nat) : needsSlot s n k = true := by simp [needsSlot, winSlot_none hwins]
  have hpage (k : Nat) : needsPage s n k = true := by simp [needsPage, winSlot_none hwins]
  unfold recapp
  dsimp only
  rw [covers_tumbling h0 hsize]
  simp [hroute, hslot, hpage, hwins, pagesUsed_none hwins, putRecord_first hwins]
  omega

variable (hlist : i < (s.cstream n).srcs.length) (hsrcs : ∀ x ∈ (s.cstream n).srcs, x.sw ≤ (s.cstream n).wm)
include hlist hsrcs

/-- The report of the record moves no watermark, so the window stays open. -/
theorem recompute_first : ∃ srcs, recompute (touchSrc ((s.memWrite (paNorm (s.cstream n).buf.toNat) rec_).setWin 0
    (firstWin n (leNat (rec_.take 8) / (s.cstream n).slide) rec_)) n i id) n =
      ((s.memWrite (paNorm (s.cstream n).buf.toNat) rec_).setWin 0
        (firstWin n (leNat (rec_.take 8) / (s.cstream n).slide) rec_)).setCstream n { s.cstream n with srcs := srcs } := by
  let c : CStream := { s.cstream n with srcs := (s.cstream n).srcs.modify i (fun x => { x with active := true, last := s.dtime }) }
  let t := (s.memWrite (paNorm (s.cstream n).buf.toNat) rec_).setWin 0 (firstWin n (leNat (rec_.take 8) / (s.cstream n).slide) rec_)
  have hwm : newWm c s.dtime = (s.cstream n).wm := by
    have hi : i < c.srcs.length := by simpa [c] using hlist
    refine newWm_stays c s.dtime hi ?_ ?_
    · simp [c]
    · simpa [c] using hsrcs _ (List.getElem_mem hlist)
  have hrecompute : recompute (t.setCstream n c) n = settleWindows (t.setCstream n c) := by
    have hc : { c with wm := newWm c s.dtime } = c := by rw [hwm]
    unfold recompute
    rw [cstream_setCstream_same]
    exact congrArg settleWindows ((congrArg ((t.setCstream n c).setCstream n) hc).trans (setCstream_setCstream ..))
  have hw : (t.setCstream n c).wins = [(0, firstWin n (leNat (rec_.take 8) / (s.cstream n).slide) rec_)] :=
    congrArg (mput · 0 (firstWin n (leNat (rec_.take 8) / (s.cstream n).slide) rec_)) hwins
  refine ⟨c.srcs, hrecompute.trans (settleWindows_idle ?_ ?_ ?_)⟩
  · rw [hw]
    exact List.nodup_singleton _
  · rw [hw]
    rfl
  · intro w hmem
    rw [hw] at hmem
    rw [List.mem_singleton.mp hmem, endOf]
    simp only [firstWin, cstream_setCstream_same]
    exact not_le.mpr hopen
end

theorem setWidth_one (n : Nat) : (1 : Word).setWidth n = 1 := by
  refine BitVec.eq_of_toNat_eq ((BitVec.toNat_setWidth ..).trans ?_)
  rw [show (1 : Word).toNat = 1 from rfl]
  exact (BitVec.toNat_ofNat 1 n).symm
theorem widen_one : widen 1 = 1 := setWidth_one 4096

theorem serveWin_recapp_eq (s : State) (k : Nat) (a : Access) : ∃ peer, serveWin s k a 0 = withSource s k a.addr peer
    (fun n i => .done (recapp s n i a.data).1 (toDests a.dests (widen (recapp s n i a.data).2))) := by
  unfold serveWin
  exact ⟨_, rfl⟩

section
variable {s : State} {k n i : Nat} {a : Access} {d : Dest} (h : GoodSource s k a.addr n i) (hd : a.dests = [d]) (hwins : s.wins = [])
  (hsize : (s.cstream n).size = (s.cstream n).slide) (h0 : 0 < (s.cstream n).slide) (hpages : 0 < (s.cstream n).bufPages.toNat)
  (hopen : (s.cstream n).wm < leNat (a.data.take 8) / (s.cstream n).slide * (s.cstream n).slide + (s.cstream n).size)
  (hsrcs : ∀ x ∈ (s.cstream n).srcs, x.sw ≤ (s.cstream n).wm) (hlist : i < (s.cstream n).srcs.length)
include h hd hwins hsize h0 hpages hopen hsrcs hlist

/-- RECAPP opens a window with its record, answers 1, and leaves the watermark. -/
theorem serveWin_recapp : ∃ u, serveWin s k a 0 = .done u [(d, 1)] ∧ u.cycle = s.cycle ∧ (u.cstream n).wm = (s.cstream n).wm ∧
    u.win? 0 = some (firstWin n (leNat (a.data.take 8) / (s.cstream n).slide) a.data) ∧
    ∀ j, j < a.data.length → readByte u.mem (paNorm (s.cstream n).buf.toNat + j) = a.data.getD j 0 := by
  obtain ⟨peer, hserve⟩ := serveWin_recapp_eq s k a
  obtain ⟨srcs, hu⟩ := recompute_first hwins hopen hlist hsrcs
  rw [h.withSource_eq, recapp_first hwins hopen hsize h0 hpages, hu, hd, widen_one] at hserve
  refine ⟨_, hserve, rfl, ?_, win?_setWin_same .., fun j hj => ?_⟩
  · rw [cstream_setCstream_same]
  · exact (readByte_writeBytes_inside s.mem _ j a.data hj).trans (List.getD_eq_getElem _ _ hj).symm
end

/-! A window id of a stream of the role's partition (R413, R420). -/

/-- The slot that a window id names. -/
def slotOf (id : Word) : Nat := id.toNat % 2 ^ 12

theorem bits_windowId {id : Word} (h : id.toNat / 2 ^ 20 = 0) :
    bits id 63 20 = 0 ∧ bits id 19 12 = id.toNat / 2 ^ 12 ∧ bits id 11 0 = slotOf id := by
  refine ⟨?_, ?_, ?_⟩
  · unfold bits
    omega
  · unfold bits
    omega
  · simp [bits, slotOf]

section
variable {s : State} {k : Nat} {id : Word} {f : Nat → CWin → WinServed} (hid : id.toNat / 2 ^ 20 = 0)
  (hpart : (s.cstream (id.toNat / 2 ^ 12)).part.toNat = (s.role k).part.toNat)
include hid hpart

theorem withWin_none (hw : s.win? (slotOf id) = none) : withWin s k id f = .fault 0x40 3 id := by
  obtain ⟨hhigh, hstream, hslot⟩ := bits_windowId hid
  simp only [withWin, hhigh, hstream, hslot, hpart, hw, ne_eq, not_true_eq_false, if_false]
  rfl
theorem withWin_some {w : CWin} (hw : s.win? (slotOf id) = some w) (hs : w.stream = id.toNat / 2 ^ 12) :
    withWin s k id f = f (slotOf id) w := by
  obtain ⟨hhigh, hstream, hslot⟩ := bits_windowId hid
  simp only [withWin, hhigh, hstream, hslot, hpart, hw, hs, ne_eq, not_true_eq_false, if_false, if_true]
end

theorem heldBy_iff {w : CWin} {k : Nat} {r : Role} : heldBy w k r = true ↔ w.holder = some (k, r.lid) := by simp [heldBy]

/-- A request of a role that holds the window. -/
structure HeldWin (s : State) (k : Nat) (id : Word) (w : CWin) : Prop where
  small : id.toNat / 2 ^ 20 = 0
  part : (s.cstream (id.toNat / 2 ^ 12)).part.toNat = (s.role k).part.toNat
  window : s.win? (slotOf id) = some w
  stream : w.stream = id.toNat / 2 ^ 12
  held : w.holder = some (k, (s.role k).lid)

theorem HeldWin.notOther {s : State} {k : Nat} {id : Word} {w : CWin} (h : HeldWin s k id w) : ¬ (!heldBy w k (s.role k)) = true := by
  rw [heldBy_iff.mpr h.held]
  exact Bool.false_ne_true

theorem deliverRec_setWin {s : State} {k off p : Nat} (h : tileRange (s.role k) (s.arrBase (k / 4)) off 64 = some p) (i : Nat) (w : CWin)
    (rec_ : List Byte) : deliverRec (s.setWin i w) k off rec_ = (s.setWin i w).tileWrite (k / 4) p rec_ := by
  have h : tileRange ((s.setWin i w).role k) ((s.setWin i w).arrBase (k / 4)) off 64 = some p := h
  unfold deliverRec
  rw [h]

/-- WNEXT (op 3), WPUB (op 4) and WLATE (op 5) ask for a window that the role holds. -/
theorem serveWin_window {op : Nat} (h : 3 ≤ op) (s : State) (k : Nat) (a : Access) :
    ∃ f : Nat → CWin → WinServed, serveWin s k a op = withWin s k a.addr
    (fun i w => if !heldBy w k (s.role k) then .fault tWIN 4 a.addr else f i w) := by
  unfold serveWin
  split
  · omega
  · omega
  · omega
  · exact ⟨_, rfl⟩
  · exact ⟨_, rfl⟩
  · exact ⟨_, rfl⟩

section
variable {s : State} {k op : Nat} {a : Access} (hop : 3 ≤ op) (hid : a.addr.toNat / 2 ^ 20 = 0)
  (hpart : (s.cstream (a.addr.toNat / 2 ^ 12)).part.toNat = (s.role k).part.toNat)
include hop hid hpart

theorem serveWin_noWindow (hw : s.win? (slotOf a.addr) = none) : serveWin s k a op = .fault 0x40 3 a.addr := by
  obtain ⟨f, hf⟩ := serveWin_window hop s k a
  rw [hf, withWin_none hid hpart hw]
theorem serveWin_notHeld {w : CWin} (hw : s.win? (slotOf a.addr) = some w) (hs : w.stream = a.addr.toNat / 2 ^ 12)
    (hh : w.holder ≠ some (k, (s.role k).lid)) : serveWin s k a op = .fault 0x40 4 a.addr := by
  have hnot : (!heldBy w k (s.role k)) = true := by
    rw [Bool.not_eq_true', Bool.eq_false_iff]
    exact mt heldBy_iff.mp hh
  obtain ⟨f, hf⟩ := serveWin_window hop s k a
  rw [hf, withWin_some hid hpart hw hs, if_pos hnot]
  rfl
end

/-! WNEXT and WLATE (R418, R429). -/

section
variable {s : State} {k : Nat} {a : Access} {w : CWin} (h : HeldWin s k a.addr w)
include h

theorem serveWin_wnext_end (hend : w.recs.length ≤ w.cursor) : serveWin s k a 3 = .done s (toDests a.dests 0) := by
  unfold serveWin
  refine (withWin_some h.small h.part h.window h.stream).trans ((if_neg h.notOther).trans ?_)
  rw [List.getElem?_eq_none hend]
theorem serveWin_wnext {x : List Byte} (hx : w.recs[w.cursor]? = some x) : serveWin s k a 3 =
    if recPoisoned s w w.cursor then .fault tPOISON 0 a.addr
    else .done (deliverRec (s.setWin (slotOf a.addr) { w with cursor := w.cursor + 1 }) k a.listOff.toNat x) (toDests a.dests 1) := by
  unfold serveWin
  refine (withWin_some h.small h.part h.window h.stream).trans ((if_neg h.notOther).trans ?_)
  rw [hx]
theorem serveWin_wnext_taken {x : List Byte} {p : Nat} (hx : w.recs[w.cursor]? = some x) (hclean : recPoisoned s w w.cursor = false)
    (hrange : tileRange (s.role k) (s.arrBase (k / 4)) a.listOff.toNat 64 = some p) : serveWin s k a 3 =
      .done ((s.setWin (slotOf a.addr) { w with cursor := w.cursor + 1 }).tileWrite (k / 4) p x) (toDests a.dests 1) := by
  rw [serveWin_wnext h hx, hclean, deliverRec_setWin hrange]
  rfl

theorem serveWin_wlate_end (hend : w.encore = []) : serveWin s k a 5 = .done s (toDests a.dests 0) := by
  unfold serveWin
  refine (withWin_some h.small h.part h.window h.stream).trans ((if_neg h.notOther).trans ?_)
  rw [hend]
theorem serveWin_wlate {x : List Byte} {t : List (List Byte)} (hx : w.encore = x :: t) : serveWin s k a 5 =
    if recPoisoned s w (w.recs.length + w.taken.length) then .fault tPOISON 0 a.addr
    else .done (deliverRec (s.setWin (slotOf a.addr) { w with encore := t, taken := w.taken ++ [x] }) k a.listOff.toNat x)
      (toDests a.dests 1) := by
  unfold serveWin
  refine (withWin_some h.small h.part h.window h.stream).trans ((if_neg h.notOther).trans ?_)
  rw [hx]
theorem serveWin_wlate_taken {x : List Byte} {t : List (List Byte)} {p : Nat} (hx : w.encore = x :: t)
    (hclean : recPoisoned s w (w.recs.length + w.taken.length) = false)
    (hrange : tileRange (s.role k) (s.arrBase (k / 4)) a.listOff.toNat 64 = some p) : serveWin s k a 5 =
      .done ((s.setWin (slotOf a.addr) { w with encore := t, taken := w.taken ++ [x] }).tileWrite (k / 4) p x) (toDests a.dests 1) := by
  rw [serveWin_wlate h hx, hclean, deliverRec_setWin hrange]
  rfl
end

end Sys2Proof.Machine
end

section
/-! ### WPUB (R322, R414, R418) -/
namespace Sys2Proof.Machine

/-! The pool part. -/

/-- Role k may publish the slot at an address of the pool that stands at block b: slot j, by CLAIM entry e. -/
structure Publishable (s : State) (k b e j : Nat) (pool v : Word) : Prop where
  live : pLive s b = true
  part : pPART s b = (s.role k).part.toNat
  scope : inPoolScope s b k (s.role k) = true
  slot : slotOfB s b v = some j
  held : { pool := pool, slot := j, pin := false } ∈ (s.role k).holds
  small : e < 8
  entry : pCLAIM s b e = claimWord j k ((s.role k).rank.toNat % 2 ^ 16)
  first : ∀ i < e, pCLAIM s b i ≠ claimWord j k ((s.role k).rank.toNat % 2 ^ 16)

section
variable {s : State} {k b e j : Nat} {a : Access} (h : Publishable s k b e j a.addr a.v)
include h

theorem claimBy_publishable : claimBy s k (s.role k) a.addr b j = some e := by
  have hentry : claimEntry s b k ((s.role k).rank.toNat % 2 ^ 16) j = some e :=
    List.find?_range_eq_some.mpr ⟨by simp [h.entry], List.mem_range.mpr h.small, fun i hi => by simpa using h.first i hi⟩
  unfold claimBy
  rw [if_pos (by simpa using h.held), hentry]

theorem servePool_publish : servePool s k a 1 b 1 =
    .done (poolPublish s b e j) [] (unhold (s.role k).holds { pool := a.addr, slot := j, pin := false }) := by
  have hop : poolOp s k (s.role k) a 1 b =
      .ok (poolPublish s b e j) [] (unhold (s.role k).holds { pool := a.addr, slot := j, pin := false }) := by
    unfold poolOp
    dsimp only
    rw [h.slot]
    dsimp only
    rw [claimBy_publishable h]
    rfl
  unfold servePool
  dsimp only
  rw [if_neg (not_not.mpr rfl), h.live, if_neg (by simp), if_pos rfl]
  dsimp only
  rw [if_neg (not_not.mpr h.part), h.scope, hop]
  rfl
end

/-! The header, and what becomes of the window. -/

/-- The translation that a request of role r on core k / 4 asks for. -/
def pageFor (r : Role) (k : Nat) (a : Access) (s : State) (va : Word) (want : Want) : Except Nat Xlat :=
  translateA s (k / 4) a.afresh r.asid.toNat (s.asid r.asid.toNat).gen va want

/-- A page that a header may be written to. -/
structure HeaderPage (y : Xlat) : Prop where
  plain : y.attr = 0
  here : paRegion y.pa ≤ 1
  noBlock : liveBlock y.st y.pa = false

theorem HeaderPage.allowed {y : Xlat} (h : HeaderPage y) (r : Role) :
    (y.attr = 3 || paRegion y.pa = 4 || writeFault y.st y || !inGroup r y.pa) = false ∧ (!linkUp y.st r y.pa) = false := by
  have hhere := h.here
  have hgroup : inGroup r y.pa = true := by
    unfold inGroup
    have h2 : paRegion y.pa ≠ 2 := by omega
    have h3 : paRegion y.pa ≠ 3 := by omega
    simp [h2, h3]
  have hlink : linkUp y.st r y.pa = true := by
    unfold linkUp
    have h2 : ¬ 2 ≤ paRegion y.pa := by omega
    simp [h2]
  have h4 : paRegion y.pa ≠ 4 := by omega
  simp [writeFault, h.plain, h.noBlock, hgroup, hlink, h4]

section
variable {s : State} {k i e j : Nat} {a : Access} {w : CWin} {x y : Xlat}
  (hx : pageFor (s.role k) k a s (s.cstream w.stream).pool .rd = .ok x)
  (hy : pageFor (s.role k) k a (poolPublish x.st x.pa e j) a.v .wr = .ok y)
include hx hy

/-- The state and the role's hold list after the pool part and the header. -/
def headed (s : State) (k i j : Nat) (w : CWin) (y : Xlat) : State :=
  (y.st.memWrite y.pa (winHeader (s.cstream w.stream) i w)).setRole k
    { s.role k with holds := unhold (s.role k).holds { pool := (s.cstream w.stream).pool, slot := j, pin := false } }

theorem onlyMemory_header : OnlyMemory s x.st ∧ OnlyMemory s y.st :=
  have hx := onlyMemory_translateA hx
  ⟨hx, hx.trans ((onlyMemory_poolPublish ..).trans (onlyMemory_translateA hy))⟩

theorem wpub_done (hattr : x.attr = 1) (hclean : memPoisoned x.st x.pa 256 = false)
    (hpub : Publishable x.st k x.pa e j (s.cstream w.stream).pool a.v) (hpage : HeaderPage y) :
    wpub s k a i w = .done (publishedWin (headed s k i j w y) i w) [] := by
  obtain ⟨hxs, hys⟩ := onlyMemory_header hx hy
  have hpool := servePool_publish (a := { a with addr := (s.cstream w.stream).pool, dests := [] }) hpub
  obtain ⟨hwrite, hlink⟩ := hpage.allowed (s.role k)
  have hx : translateA s (k / 4) a.afresh (s.role k).asid.toNat (s.asid (s.role k).asid.toNat).gen (s.cstream w.stream).pool .rd = .ok x := hx
  have hy : translateA (poolPublish x.st x.pa e j) (k / 4) a.afresh (s.role k).asid.toNat
    ((poolPublish x.st x.pa e j).asid (s.role k).asid.toNat).gen a.v .wr = .ok y := hy
  have hrole : (y.st.memWrite y.pa (winHeader (s.cstream w.stream) i w)).role k = s.role k := hys.role k
  rw [hxs.role] at hpool
  unfold wpub
  dsimp only
  rw [hx]
  dsimp only
  rw [hattr, hclean, if_neg (by simp), hpool]
  dsimp only
  rw [hy]
  dsimp only
  rw [hwrite, hlink, State.modRoleAt, hrole]
  rfl

/-- Streams and cycle are as they were. -/
theorem headed_kept : (∀ n, (headed s k i j w y).cstream n = s.cstream n) ∧ (headed s k i j w y).cycle = s.cycle := by
  obtain ⟨-, hys⟩ := onlyMemory_header hx hy
  exact ⟨fun n => hys.eq (State.cstream · n), hys.eq State.cycle⟩
end

/-- The window as its holder publishes it. -/
def revisedWin (w : CWin) : CWin := { w with rev := w.rev + 1, recs := w.recs ++ w.taken, taken := [], st := .published }

section
variable {s : State} {i : Nat} {w : CWin}

theorem publishedWin_stays (he : w.encore = []) (hwm : (s.cstream w.stream).wm < winEnd (s.cstream w.stream) w.k + (s.cstream w.stream).late) :
    publishedWin s i w = s.setWin i (revisedWin w) := by
  have hdue : closeIfDue (s.setWin i (revisedWin w)) i = s.setWin i (revisedWin w) := by
    unfold closeIfDue
    rw [win?_setWin_same]
    refine if_neg ?_
    rw [Bool.and_eq_true, decide_eq_true_eq]
    exact fun h => absurd h.2 (not_le.mpr hwm)
  exact (if_pos he).trans hdue
theorem publishedWin_closes (he : w.encore = []) (hwm : winEnd (s.cstream w.stream) w.k + (s.cstream w.stream).late ≤ (s.cstream w.stream).wm) :
    publishedWin s i w = { s with wins := mdel (mput s.wins i (revisedWin w)) i } := by
  have hclose : closeWin (s.setWin i (revisedWin w)) i (revisedWin w) = { s with wins := mdel (mput s.wins i (revisedWin w)) i } := by
    unfold closeWin
    rw [show (revisedWin w).encore = [] from he]
    rfl
  have hdue : closeIfDue (s.setWin i (revisedWin w)) i = closeWin (s.setWin i (revisedWin w)) i (revisedWin w) := by
    unfold closeIfDue
    rw [win?_setWin_same]
    refine if_pos ?_
    rw [Bool.and_eq_true, decide_eq_true_eq]
    exact ⟨rfl, hwm⟩
  exact (if_pos he).trans (hdue.trans hclose)
theorem publishedWin_amends (he : w.encore ≠ []) : publishedWin s i w =
    { s.setWin i { revisedWin w with st := .amending, cursor := 0, holder := none } with
      curq := s.curq ++ [{ win := i, wm := (s.cstream w.stream).wm }] } := if_neg he
end

section
variable {s : State} {k : Nat} {a : Access} {w : CWin} (h : HeldWin s k a.addr w)
include h

theorem serveWin_notFiring (hf : w.st ≠ .firing) (ha : w.st ≠ .amending) : serveWin s k a 4 = .fault 0x40 5 a.addr := by
  unfold serveWin
  refine (withWin_some h.small h.part h.window h.stream).trans ((if_neg h.notOther).trans (if_pos ?_))
  simp [hf, ha]
theorem serveWin_wpub (hst : w.st = .firing ∨ w.st = .amending) : serveWin s k a 4 = wpub s k a (slotOf a.addr) w := by
  unfold serveWin
  refine (withWin_some h.small h.part h.window h.stream).trans ((if_neg h.notOther).trans (if_neg ?_))
  rcases hst with hst | hst <;> simp [hst]
end

end Sys2Proof.Machine
end

section
/-! ### Streams, watermarks and windows (O50) -/
namespace Sys2Proof.Machine

/-! A WIN request whose turn it is, in the state that its injection leaves. -/

section
variable {s s0 : State} {rs : Slot} {id op : Nat} {a : Access} (ha : (s.role rs.key).acc? id = some a)
  (hp : performable s (s.role rs.key) a = true) (hstuck : meetsStuck s (s.role rs.key) a.cl a.id a.ranges = false)
  (hi : inject s rs.key a = some s0) (hk : a.kind = .win op)
include ha hp hstuck hi hk

theorem exec_win_done {t : State} {vals : List (Dest × Row)} (h : serveWin s0 rs.key a op = .done t vals) (hc : t.cycle = s.cycle) :
    exec (.accessServed rs (.acc id)) s = .next (answered t rs.key a vals s.cycle) := by
  rw [accessServed_acc ha hp hstuck hi, serveAcc_done hk h, hc]
theorem exec_win_misuse {code n : Nat} (hcode : code = 0x40 ∨ code = 0x14 ∧ n = 0) (h : serveWin s0 rs.key a op = .fault code n a.addr) :
    exec (.accessServed rs (.acc id)) s = .next (misused s0 rs.key a code n s.cycle) := by
  obtain ⟨roles, parts, rfl⟩ := inject_only hi
  rw [accessServed_acc ha hp hstuck hi, serveAcc_misuse hk hcode h]
theorem exec_win_violation (h : serveWin s0 rs.key a op = .fault 0x60 0 a.addr) : exec (.accessServed rs (.acc id)) s =
    .next ((s0.logViol 0 rs.key a.addr).setRole rs.key { (s0.role rs.key).setAcc { a with stat := .faulted 0x60 a.addr 0 0 } with
      frozen := (s0.role rs.key).frozen || (s0.role rs.key).st == .stopped, lastAct := s.cycle }) := by
  obtain ⟨roles, parts, rfl⟩ := inject_only hi
  rw [accessServed_acc ha hp hstuck hi, serveAcc_violation hk h]
end

/-- R320: what a CLAIM entry says of its role. -/
theorem claimWord_key (j : Nat) (rs : Slot) (rank : Nat) : claimWord j rs.key rank =
    BitVec.ofNat 64 (j + rs.core.toNat * 2 ^ 8 + rs.slot.toNat * 2 ^ 16 + rank * 2 ^ 32) := by
  have hslot := rs.slot.isLt
  have hcore : rs.key / 4 = rs.core.toNat := by unfold Slot.key; omega
  have hplace : rs.key % 4 = rs.slot.toNat := by unfold Slot.key; omega
  rw [claimWord, hcore, hplace]

/-- Settles O50: a step of the Curtain unit, or a request served there, is one of the cases above. -/
theorem eventWindows : Obligations.EventWindows := by
  unfold Obligations.EventWindows
  refine ⟨⟨fun n m pn s hpn hlive hpart hsome => ?streams,
      fun c now => ⟨newWm_ge c now, fun x hx hactive hle => newWm_active c now hx hactive hle, newWm_idle c now⟩,
      fun s h => congrArg Host.Outcome.next (if_neg h), fun s n c hc ho hcycle => ?idle,
      fun s t e rest core a hq hplace ht => curtainArrivalDispatch_taken hq hplace ht, fun s h => curtainArrivalDispatch_none h⟩,
    fun c t k h0 hdvd => mem_covers_iff h0 hdvd,
    fun s n t k => ⟨fun i w hslot hw => ⟨routeOf_open hslot hw, routeOf_fired hslot hw, routeOf_stalled hslot hw⟩, routeOf_noSlot⟩,
    fun s i w hnodup hopen hw => ⟨settleWindows_due hnodup hopen hw, settleWindows_notDue hnodup hopen hw, settleWindows_order hnodup hopen⟩,
    fun rs id op a s s0 ha hp hstuck hi hk => ?served⟩
  case streams =>
    rw [exec_streamOpen_own hpn hlive hpart hsome, exec_streamClose_own hpn hlive hpart hsome]
    refine ⟨fun ho => ?_, fun ho hf => ?_, fun ho hf hp => ?_, fun ho hf hp hs => ?_, fun ho hf hp hs => ?_, fun ho => ?_, fun ho hw => ?_,
      fun ho hw => ?_⟩
    · rw [openStream_open ho]
    · rw [openStream_idle ho, hf]
      rfl
    · rw [openStream_idle ho, hf, hp]
      rfl
    · rw [openStream_idle ho, hf, hp, hs]
      rfl
    · rw [openStream_idle ho, hf, hp, hs]
      rfl
    · rw [closeStream_idle ho]
    · rw [closeStream_busy ho hw]
    · refine ⟨_, congrArg Host.Outcome.next (closeStream_closes ho hw), cstream_setCstream_same .., fun w h => ?_, fun w h hne => ?_, rfl⟩
      · exact (mem_wins_dropWindows.mp h).2
      · exact mem_wins_dropWindows.mpr ⟨h, hne⟩
  case idle =>
    obtain ⟨hsrcs, hwm⟩ := cstream_idleTest hc ho
    exact ⟨_, congrArg Host.Outcome.next (if_pos hcycle), hsrcs, by rw [hwm, hsrcs]⟩
  case served =>
    have hdone {t : State} {vals : List (Dest × Row)} (h : serveWin s0 rs.key a op = .done t vals) (hc : t.cycle = s.cycle) :=
      exec_win_done ha hp hstuck hi hk h hc
    have hmisuse {n : Nat} (h : serveWin s0 rs.key a op = .fault 0x40 n a.addr) := exec_win_misuse ha hp hstuck hi hk (.inl rfl) h
    have hpoison (h : serveWin s0 rs.key a op = .fault 0x14 0 a.addr) := exec_win_misuse ha hp hstuck hi hk (.inr ⟨rfl, rfl⟩) h
    have hviol := exec_win_violation ha hp hstuck hi hk
    obtain ⟨roles, parts, hs0⟩ := inject_only hi
    clear ha hp hstuck hi hk
    subst hs0
    have hheld {w : CWin} (hid : a.addr.toNat / 2 ^ 20 = 0) (hpart : (s.cstream (a.addr.toNat / 2 ^ 12)).part.toNat =
        (({ s with roles := roles, parts := parts } : State).role rs.key).part.toNat) (hw : s.win? (slotOf a.addr) = some w)
        (hstream : w.stream = a.addr.toNat / 2 ^ 12)
        (hh : w.holder = some (rs.key, (({ s with roles := roles, parts := parts } : State).role rs.key).lid)) :
        HeldWin { s with roles := roles, parts := parts } rs.key a.addr w := ⟨hid, hpart, hw, hstream, hh⟩
    refine ⟨fun hop hbad => hmisuse (serveWin_malformed hop hbad), fun hop hhigh hmid hrank => ?sources, fun hop hid hpart => ?wnext,
      fun hop hid hpart => ?wlate, fun hop hid hpart => ?wpub⟩
    case sources =>
      have hown : OwnSource a.addr := ⟨hhigh, hmid, hrank⟩
      refine ⟨fun h => hviol (serveWin_otherPartition hop hown h), fun h ho => hmisuse (serveWin_closedStream hop hown h ho),
        fun h ho hn => hmisuse (serveWin_noSource hop hown h ho hn), fun h ho hn => ?_⟩
      have hgood := GoodSource.mk (s := { s with roles := roles, parts := parts }) (k := rs.key) (w := a.addr) hown rfl rfl h ho hn
      refine ⟨fun d hop hd hwins hsize h0 hpages hwm hsrcs hlist => ?_, fun hop hd hlist => ?_, fun hop hd hlist => ?_⟩
      · subst hop
        obtain ⟨u, hu, hcycle, hrest⟩ := serveWin_recapp hgood hd hwins hsize h0 hpages hwm hsrcs hlist
        exact ⟨u, hdone hu hcycle, hrest⟩
      · subst hop
        obtain ⟨u, hu, hcycle, hsrc, hwm⟩ := serveWin_wmark hgood hlist
        refine ⟨u, hdone hu hcycle, ?_, hwm⟩
        rw [hsrc, capped_eq]
        rfl
      · subst hop
        obtain ⟨u, hu, hcycle, hsrc⟩ := serveWin_sidle hgood hlist
        exact ⟨u, hdone hu hcycle, hsrc⟩
    case wnext =>
      subst hop
      refine ⟨fun hw => hmisuse (serveWin_noWindow (by decide) hid hpart hw), fun w d hw hstream hd =>
        ⟨fun hh => hmisuse (serveWin_notHeld (by decide) hid hpart hw hstream hh), fun hh hend => ?_, fun x hh hx hbad => ?_,
          fun x p hh hx hclean hrange => ?_⟩⟩
      · exact hdone ((serveWin_wnext_end (hheld hid hpart hw hstream hh) hend).trans (by rw [hd]; rfl)) rfl
      · exact hpoison ((serveWin_wnext (hheld hid hpart hw hstream hh) hx).trans (if_pos hbad))
      · exact hdone ((serveWin_wnext_taken (hheld hid hpart hw hstream hh) hx hclean hrange).trans (by rw [hd]; rfl)) rfl
    case wlate =>
      subst hop
      refine ⟨fun hw => hmisuse (serveWin_noWindow (by decide) hid hpart hw), fun w d hw hstream hd =>
        ⟨fun hh => hmisuse (serveWin_notHeld (by decide) hid hpart hw hstream hh), fun hh hend => ?_, fun x t hh hx hbad => ?_,
          fun x t p hh hx hclean hrange => ?_⟩⟩
      · exact hdone ((serveWin_wlate_end (hheld hid hpart hw hstream hh) hend).trans (by rw [hd]; rfl)) rfl
      · exact hpoison ((serveWin_wlate (hheld hid hpart hw hstream hh) hx).trans (if_pos hbad))
      · exact hdone ((serveWin_wlate_taken (hheld hid hpart hw hstream hh) hx hclean hrange).trans (by rw [hd]; rfl)) rfl
    case wpub =>
      subst hop
      refine ⟨fun hw => hmisuse (serveWin_noWindow (by decide) hid hpart hw), fun w hw hstream hd => ?_⟩
      refine ⟨fun hh => hmisuse (serveWin_notHeld (by decide) hid hpart hw hstream hh), fun hh hf ha =>
        hmisuse (serveWin_notFiring (hheld hid hpart hw hstream hh) hf ha), ?_⟩
      rw [← hstream]
      refine fun x y j e hh hst hx hattr hclean hlive hmine hscope hslot hhold he hentry hfirst hy hplain hhere hblock => ?_
      have hserve := serveWin_wpub (hheld hid hpart hw hstream hh) hst
      have hxs := (onlyMemory_header (w := w) hx hy).1
      have hpub : Publishable x.st rs.key x.pa e j (s.cstream w.stream).pool a.v := by
        refine ⟨hlive, ?_, ?_, hslot, ?_, he, ?_, ?_⟩
        all_goals rw [hxs.role]
        · exact hmine
        · exact hscope
        · exact hhold
        · rw [claimWord_key]
          exact hentry
        · rw [claimWord_key]
          exact hfirst
      rw [wpub_done hx hy hattr hclean hpub ⟨hplain, hhere, hblock⟩] at hserve
      obtain ⟨hstreams, hcycle⟩ := headed_kept (i := slotOf a.addr) (w := w) hx hy
      refine ⟨fun henc hwm => ?_, fun henc hwm => ?_, fun henc => ?_⟩
      · rw [publishedWin_stays henc (by rw [hstreams]; exact hwm)] at hserve
        exact hdone hserve hcycle
      · rw [publishedWin_closes henc (by rw [hstreams]; exact hwm)] at hserve
        exact ⟨_, hdone hserve hcycle, mfind_mdel_same .., rfl⟩
      · rw [publishedWin_amends henc, hstreams] at hserve
        exact hdone hserve hcycle

end Sys2Proof.Machine
end

section
/-! ### The sticky flag word and the first-fault record (R41 to R43, R149) -/
namespace Sys2Proof.Machine

/-- R43, R367: the fields of a record give back the number of its element among those of the role: row, then lane. -/
theorem ffId_ffWord {core slot row lane : Nat} (fl : Fl) (hc : core < 256) (hs : slot < 256) (hr : row < 256)
    (hl : lane < 512) : ffId (ffWord core slot row lane fl) = row * 512 + lane := by
  have hfl : fl.toNat < 64 := fl.isLt
  unfold ffId ffWord bits
  rw [BitVec.toNat_ofNat]
  omega

theorem ffMerge_empty {w : Word} (hw : ffValid w = false) (core slot row lane : Nat) (en : Fl) :
    ffMerge w core slot row lane en = ffWord core slot row lane en := by
  simp [ffMerge, hw]

/-- R43: which of two elements the record holds is a matter of their numbers alone. -/
theorem ffMerge_valid {w : Word} (hw : ffValid w = true) (core slot row lane : Nat) (en : Fl) :
    (ffId (ffWord core slot row lane en) < ffId w → ffMerge w core slot row lane en = ffWord core slot row lane en) ∧
    (ffId (ffWord core slot row lane en) = ffId w → ffMerge w core slot row lane en = w ||| ffWord core slot row lane en) ∧
    (ffId w < ffId (ffWord core slot row lane en) → ffMerge w core slot row lane en = w) := by
  unfold ffMerge
  rw [hw]
  refine ⟨fun hlt => ?_, fun heq => ?_, fun hgt => ?_⟩
  · simp [hlt]
  · simp [heq]
  · simp [Nat.lt_asymm hgt, Nat.ne_of_gt hgt]

theorem curKey_core_lt (s : State) : s.curKey / 4 < 256 := by
  have hcore := s.cur.core.isLt
  have hslot := s.cur.slot.isLt
  unfold State.curKey
  omega

theorem does_raiseI_zero (row lane : Nat) (s : State) : Does (raiseI row lane 0) s s := rfl

/-- R42: outside a bundle the role takes the flags at once. -/
theorem does_raiseI {row lane : Nat} {fl : Fl} {s : State} (hfl : fl ≠ 0) (hs : s.curRole.snap = none) :
    Does (raiseI row lane fl) s (s.setRole s.curKey (s.curRole.raiseAt s.cycle s.curKey row lane fl)) := by
  unfold Does raiseI
  rw [if_neg hfl]
  simp only [hs]

theorem ffrec_raiseAt_disabled {r : Role} {fl : Fl} (he : fl &&& r.flagen = 0) (now k row lane : Nat) :
    (r.raiseAt now k row lane fl).ffrec = r.ffrec := if_pos he

theorem ffrec_raiseAt_enabled {r : Role} {fl : Fl} (he : fl &&& r.flagen ≠ 0) (now k row lane : Nat) :
    (r.raiseAt now k row lane fl).ffrec = ffMerge r.ffrec (k / 4) (k % 4) row lane (fl &&& r.flagen) := if_neg he

/-- Settles O27: raising no flag changes nothing; otherwise the record is merged by the numbers of the two elements, which its fields
give back. -/
theorem flagsRaised : Obligations.FlagsRaised := by
  unfold Obligations.FlagsRaised
  intro s row lane fl hsnap
  by_cases hfl : fl = 0
  · subst hfl
    have hen : (0 : Fl) &&& s.curRole.flagen = 0 := BitVec.zero_and
    exact ⟨s, does_raiseI_zero row lane s, rfl, fun _ _ => rfl, by simp, rfl, fun _ => rfl, fun h => absurd hen h,
      fun h => absurd hen h⟩
  · refine ⟨_, does_raiseI hfl hsnap, rfl, fun k hk => role_setRole_other _ _ _ _ hk, ?_⟩
    rw [curRole_setRole]
    refine ⟨rfl, (if_neg hfl).symm, fun he => ffrec_raiseAt_disabled he .., fun he hv => ?_, fun he hv hr hl => ?_⟩
    · rw [ffrec_raiseAt_enabled he, ffMerge_empty hv]
      rfl
    · have hslot : s.curKey % 4 < 256 := Nat.lt_trans (Nat.mod_lt _ (by decide)) (by decide : 4 < 256)
      have hmerge := ffMerge_valid hv (s.curKey / 4) (s.curKey % 4) row lane (fl &&& s.curRole.flagen)
      rw [ffId_ffWord _ (curKey_core_lt s) hslot hr hl] at hmerge
      rw [ffrec_raiseAt_enabled he]
      exact hmerge

end Sys2Proof.Machine
end

section
/-! ### The pairwise tree (R44) -/
namespace Sys2Proof.Machine

/-- A level of the tree on two halves of even length. -/
theorem treeLevel_append (f : Dyad → Dyad → Node) {k : Nat} {l r : List Dyad} (hl : l.length = 2 * k) :
    treeLevel f (l ++ r) = ((treeLevel f l).1 ++ (treeLevel f r).1, (treeLevel f l).2 ||| (treeLevel f r).2) := by
  induction k generalizing l with
  | zero =>
    rw [List.length_eq_zero_iff.mp hl]
    simp [treeLevel]
  | succ k ih =>
    match l, hl with
    | x :: y :: t, hl =>
      have ht : t.length = 2 * k := by simpa [Nat.mul_succ] using hl
      simp only [List.cons_append, treeLevel, ih ht, BitVec.or_assoc]

theorem length_treeLevel (f : Dyad → Dyad → Node) {k : Nat} {l : List Dyad} (hl : l.length = 2 * k) :
    (treeLevel f l).1.length = k := by
  induction k generalizing l with
  | zero =>
    rw [List.length_eq_zero_iff.mp hl]
    rfl
  | succ k ih =>
    match l, hl with
    | x :: y :: t, hl =>
      have ht : t.length = 2 * k := by simpa [Nat.mul_succ] using hl
      simp only [treeLevel, List.length_cons, ih ht]

theorem tree_succ (f : Dyad → Dyad → Node) (k : Nat) (l : List Dyad) :
    tree f (k + 1) l = ((tree f k (treeLevel f l).1).1, (treeLevel f l).2 ||| (tree f k (treeLevel f l).1).2) := rfl

/-- R44: the root of a tree combines its two halves, and its flags are theirs and its own. -/
theorem tree_append (f : Dyad → Dyad → Node) {k : Nat} {l r : List Dyad} (hl : l.length = 2 ^ k) (hr : r.length = 2 ^ k) :
    tree f (k + 1) (l ++ r) =
      ((f (tree f k l).1 (tree f k r).1).1,
        (tree f k l).2 ||| (tree f k r).2 ||| (f (tree f k l).1 (tree f k r).1).2) := by
  induction k generalizing l r with
  | zero =>
    obtain ⟨x, rfl⟩ := List.length_eq_one_iff.mp hl
    obtain ⟨y, rfl⟩ := List.length_eq_one_iff.mp hr
    simp [tree, treeLevel]
  | succ k ih =>
    have hl' : l.length = 2 * 2 ^ k := by rw [hl, Nat.pow_succ']
    have hr' : r.length = 2 * 2 ^ k := by rw [hr, Nat.pow_succ']
    rw [tree_succ f (k + 1), treeLevel_append f hl', ih (length_treeLevel f hl') (length_treeLevel f hr'),
      tree_succ f k l, tree_succ f k r]
    refine Prod.ext rfl ?_
    dsimp only
    ac_rfl

end Sys2Proof.Machine
end

section
/-! ### The scan (R163) -/
namespace Sys2Proof.Machine

variable (f : Dyad → Dyad → Node)

theorem length_scanStep (d : Nat) (t : List Node) : (scanStep f d t).length = t.length := by
  simp only [scanStep, List.length_append, List.length_take, List.length_zipWith, List.length_drop]
  omega

/-- Below the distance of a step the lanes keep their values. -/
theorem scanStep_below {d i : Nat} {t : List Node} (hd : i < d) : (scanStep f d t)[i]? = t[i]? := by
  by_cases hi : i < t.length
  · have hlen : i < (t.take d).length := by
      rw [List.length_take]
      omega
    rw [scanStep, List.getElem?_append_left hlen, List.getElem?_take_of_lt hd]
  · rw [List.getElem?_eq_none (by rw [length_scanStep]; omega), List.getElem?_eq_none (by omega)]

/-- From the distance on each lane combines with the one that lies the distance below it. -/
theorem scanStep_above {d i : Nat} {t : List Node} {x y : Node} (hd : d ≤ i) (hx : t[i - d]? = some x) (hy : t[i]? = some y) :
    (scanStep f d t)[i]? = some ((f x.1 y.1).1, x.2 ||| y.2 ||| (f x.1 y.1).2) := by
  obtain ⟨hi, -⟩ := List.getElem?_eq_some_iff.mp hy
  have hlen : (t.take d).length = d := by
    rw [List.length_take]
    omega
  have hdrop : (t.drop d)[i - d]? = some y := by rw [List.getElem?_drop, Nat.add_sub_cancel' hd, hy]
  rw [scanStep, List.getElem?_append_right (by omega), hlen, List.getElem?_zipWith, hx, hdrop]

theorem length_scan (n d : Nat) (t : List Node) : (scan f n d t).length = t.length := by
  induction n generalizing d t with
  | zero => rfl
  | succ n ih => rw [scan, ih, length_scanStep]

/-- The combination of the lanes i - k to i of v, in their order. -/
def comb (v : Nat → Dyad) (i : Nat) : Nat → Dyad
  | 0 => v i
  | k + 1 => (f (v (i - (k + 1))) (comb v i k)).1

/-- Where no rounding makes the order matter, two neighbouring runs of lanes combine to one. -/
theorem comb_join (hf : ∀ x y z, (f (f x y).1 z).1 = (f x (f y z).1).1) (v : Nat → Dyad) (i k m : Nat) :
    (f (comb f v (i - (k + 1)) m) (comb f v i k)).1 = comb f v i (k + 1 + m) := by
  induction m with
  | zero => rfl
  | succ m ih =>
    rw [comb, hf, ih, Nat.sub_sub]
    rfl

/-- The value in lane i of a list of nodes. -/
def laneVal (t : List Node) (i : Nat) : Dyad := (t.getD i (.nan, 0)).1

/-- R163: a list whose lanes hold the last d lanes of v each, where there are as many. -/
def Windows (v : Nat → Dyad) (d : Nat) (t : List Node) : Prop :=
  ∀ i x, t[i]? = some x → x.1 = comb f v i (min i (d - 1))

theorem windows_start (t : List Node) : Windows f (laneVal t) 1 t := by
  intro i x hx
  simp [comb, laneVal, hx]

theorem windows_scanStep (hf : ∀ x y z, (f (f x y).1 z).1 = (f x (f y z).1).1) {v : Nat → Dyad} {d : Nat} {t : List Node}
    (hd : 0 < d) (h : Windows f v d t) : Windows f v (2 * d) (scanStep f d t) := by
  intro i x hx
  by_cases hi : i < d
  · rw [scanStep_below f hi] at hx
    rw [h i x hx]
    congr 1
    omega
  · have hlen : i < t.length := by
      rw [← length_scanStep f d t]
      exact (List.getElem?_eq_some_iff.mp hx).1
    obtain ⟨y, hy⟩ : ∃ y, t[i - d]? = some y := ⟨_, List.getElem?_eq_getElem (by omega)⟩
    obtain ⟨z, hz⟩ : ∃ z, t[i]? = some z := ⟨_, List.getElem?_eq_getElem hlen⟩
    rw [scanStep_above f (by omega) hy hz] at hx
    have hwide : min i (d - 1) = d - 1 := by omega
    have hback : i - d = i - (d - 1 + 1) := by omega
    calc x.1 = (f y.1 z.1).1 := by rw [← Option.some.inj hx]
      _ = (f (comb f v (i - d) (min (i - d) (d - 1))) (comb f v i (d - 1))).1 := by rw [h _ y hy, h _ z hz, hwide]
      _ = comb f v i (d - 1 + 1 + min (i - d) (d - 1)) := by rw [hback, comb_join f hf]
      _ = comb f v i (min i (2 * d - 1)) := by
        congr 1
        omega

theorem windows_scan (hf : ∀ x y z, (f (f x y).1 z).1 = (f x (f y z).1).1) {v : Nat → Dyad} (n : Nat) {d : Nat}
    {t : List Node} (hd : 0 < d) (h : Windows f v d t) : Windows f v (2 ^ n * d) (scan f n d t) := by
  induction n generalizing d t with
  | zero => rwa [Nat.pow_zero, Nat.one_mul]
  | succ n ih =>
    rw [Nat.pow_succ, Nat.mul_assoc]
    exact ih (by omega) (windows_scanStep f hf hd h)

/-- R163: after n steps lane i of at most 2^n holds all lanes up to it. -/
theorem scan_eq_comb (hf : ∀ x y z, (f (f x y).1 z).1 = (f x (f y z).1).1) {n : Nat} {t : List Node} (hn : t.length ≤ 2 ^ n)
    {i : Nat} {x : Node} (hx : (scan f n 1 t)[i]? = some x) : x.1 = comb f (laneVal t) i i := by
  have hi : i < t.length := by
    rw [← length_scan f n 1 t]
    exact (List.getElem?_eq_some_iff.mp hx).1
  rw [windows_scan f hf n Nat.one_pos (windows_start f t) i x hx]
  congr 1
  omega

theorem scan_first (n : Nat) {d : Nat} (hd : 0 < d) (t : List Node) : (scan f n d t)[0]? = t[0]? := by
  induction n generalizing d t with
  | zero => rfl
  | succ n ih => rw [scan, ih (by omega), scanStep_below f hd]

/-- R163: each lane of the scan is the lane before it with its own element added. -/
theorem scan_next (hf : ∀ x y z, (f (f x y).1 z).1 = (f x (f y z).1).1) {n : Nat} {t : List Node} (hn : t.length ≤ 2 ^ n)
    {i : Nat} {x y : Node} (hx : (scan f n 1 t)[i]? = some x) (hy : t[i + 1]? = some y) :
    ((scan f n 1 t)[i + 1]?).map Prod.fst = some (f x.1 y.1).1 := by
  have hlen : i + 1 < (scan f n 1 t).length := by
    rw [length_scan]
    exact (List.getElem?_eq_some_iff.mp hy).1
  have hown : y.1 = comb f (laneVal t) (i + 1) 0 := by simp [comb, laneVal, hy]
  have hjoin := comb_join f hf (laneVal t) (i + 1) 0 i
  rw [Nat.zero_add, Nat.add_sub_cancel, Nat.add_comm 1 i] at hjoin
  rw [List.getElem?_eq_getElem hlen, Option.map_some, scan_eq_comb f hf hn (List.getElem?_eq_getElem hlen),
    scan_eq_comb f hf hn hx, hown, hjoin]

end Sys2Proof.Machine
end

section
/-! ### V rows, streams and rings keep the clusters -/
namespace Sys2Proof.Machine

theorem sameClu_modSt {f : State → State} (h : ∀ s, (f s).cur = s.cur ∧ (f s).cycle = s.cycle ∧ (f s).roles = s.roles) :
    Keeps SameClu (modSt f) := by
  intro s a s' e
  cases e
  obtain ⟨hcur, hcycle, hroles⟩ := h s
  refine ⟨hcur, hcycle, fun c => ?_⟩
  unfold State.curRole State.curKey State.role
  rw [hcur, hroles]

theorem sameClu_stop {α : Type} (x : Stop) : Keeps SameClu (stopWith x : Iss α) := sameClu_of_pure (pure_stop x)
theorem sameClu_pure {α : Type} (a : α) : Keeps SameClu (pure a : Iss α) := sameClu_of_pure (pure_pure a)
theorem sameClu_waitIf (b : Bool) : Keeps SameClu (waitIf b) := sameClu_of_pure (pure_waitIf b)
theorem sameClu_trapIf (b : Bool) (c : Nat) (i j : Word) : Keeps SameClu (trapIf b c i j) := sameClu_of_pure (pure_trapIf b c i j)

/-- A step that is taken only under a condition. -/
theorem Keeps.optional {α : Type} {R : State → State → Prop} (ht : ∀ a b c, R a b → R b c → R a c) {c : Prop} [Decidable c]
    {m : Iss Unit} {f : Unit → Iss α} (h1 : Keeps R m) (h2 : ∀ a, Keeps R (f a)) : Keeps R (if c then m >>= f else f ()) := by
  split
  · exact Keeps.bind ht h1 h2
  · exact h2 ()
theorem SameClu.optional {α : Type} {c : Prop} [Decidable c] {m : Iss Unit} {f : Unit → Iss α} (h1 : Keeps SameClu m)
    (h2 : ∀ a, Keeps SameClu (f a)) : Keeps SameClu (if c then m >>= f else f ()) := Keeps.optional SameClu.trans h1 h2

theorem clu_setStrm (r : Role) (n : Nat) (t : Strm) (c : Cluster) : (r.setStrm n t).clu c = r.clu c := by cases c <;> rfl
theorem clu_setRing (r : Role) (n : Nat) (g : Ring) (c : Cluster) : (r.setRing n g).clu c = r.clu c := by cases c <;> rfl
theorem clu_releasePassed (r : Role) (t : Strm) (c : Cluster) : (releasePassed r t).clu c = r.clu c := by
  unfold releasePassed
  split
  · split
    · exact clu_setRing ..
    · rfl
  · rfl

theorem pure_rowFree (n : Nat) : Pure (rowFree n) := pure_getRole.bind fun _ => pure_waitIf _
theorem pure_strmFree (n : Nat) : Pure (strmFree n) := pure_getRole.bind fun _ => pure_waitIf _
theorem pure_regionPos (t : Strm) (n p : Nat) : Pure (regionPos t n p) := by
  unfold regionPos
  split
  · exact pure_pure _
  · split
    · exact pure_pure _
    · exact pure_stop _
theorem pure_tileChk (o n : Nat) : Pure (tileChk o n) := by
  unfold tileChk
  intro s a s' e
  dsimp only at e
  split at e
  · cases e
    rfl
  · cases e

theorem sameClu_wrV (n : Nat) (v : Row) : Keeps SameClu (wrV n v) :=
  SameClu.bind (sameClu_of_pure (pure_rowFree _)) fun _ => sameClu_modRole _ fun _ _ => clu_setV ..
theorem sameClu_raiseLanes (row : Nat) (l : List (Nat × Fl)) : Keeps SameClu (raiseLanes row l) := by
  induction l with
  | nil => exact sameClu_pure _
  | cons x t ih => exact SameClu.bind (sameClu_raiseI _ _ _) fun _ => ih

theorem sameClu_popStrm (n : Nat) (mark : Bool) : Keeps SameClu (popStrm n mark) := by
  unfold popStrm
  refine SameClu.bind (sameClu_of_pure pure_getSt) fun s => SameClu.bind (sameClu_of_pure pure_getRole) fun r => ?_
  split
  · exact sameClu_pure _
  · refine SameClu.bind (sameClu_modRole _ fun _ _ => clu_setStrm ..) fun _ =>
      SameClu.optional (sameClu_modSt fun _ => ⟨rfl, rfl, rfl⟩) fun _ => ?_
    split
    · exact sameClu_modRole _ fun _ _ => clu_releasePassed ..
    · exact sameClu_pure _
theorem sameClu_popStrms (l : List (Nat × Bool)) : Keeps SameClu (popStrms l) := by
  induction l with
  | nil => exact sameClu_pure _
  | cons x t ih => exact SameClu.bind (sameClu_popStrm _ _) fun _ => ih
theorem sameClu_popRows (l : List (RSrc × Bool)) : Keeps SameClu (popRows l) :=
  SameClu.bind (sameClu_popMarks _) fun _ => sameClu_popStrms _

theorem sameClu_regionPut (t : Strm) (p : Nat) (v : List Byte) : Keeps SameClu (regionPut t p v) := by
  unfold regionPut
  refine SameClu.bind (sameClu_of_pure pure_getSt) fun s => SameClu.bind (sameClu_of_pure pure_getRole) fun r => ?_
  dsimp only
  split
  · exact sameClu_stop _
  · exact sameClu_modSt fun _ => ⟨rfl, rfl, rfl⟩
theorem sameClu_tilePut (o : Nat) (bs : List Byte) : Keeps SameClu (tilePut o bs) :=
  SameClu.bind (sameClu_of_pure (pure_tileChk _ _)) fun _ => sameClu_modSt fun _ => ⟨rfl, rfl, rfl⟩
theorem sameClu_acquireFor (n : Nat) : Keeps SameClu (acquireFor n) := by
  unfold acquireFor
  refine SameClu.bind (sameClu_of_pure pure_getRole) fun r => ?_
  split
  · exact sameClu_stop _
  · exact SameClu.bind (sameClu_waitIf _) fun _ => sameClu_modRole _ fun _ _ => clu_setRing ..

theorem sameClu_pushStrm (n : Nat) (v : Row) : Keeps SameClu (pushStrm n v) := by
  unfold pushStrm
  refine SameClu.bind (sameClu_of_pure (pure_strmFree n)) fun _ => SameClu.bind (sameClu_of_pure pure_getSt) fun s =>
    SameClu.bind (sameClu_of_pure pure_getRole) fun r => ?_
  split
  · exact sameClu_stop _
  · refine SameClu.bind (sameClu_trapIf _ _ _ _) fun _ => ?_
    have hpos : ∀ t : Strm, Keeps SameClu (modRole (fun r => match r.strm? n with
        | some u => r.setStrm n { u with c := t.sp + 1, sp := t.sp + 1 }
        | none => r)) := fun t => sameClu_modRole _ fun r c => by
      split
      · exact clu_setStrm ..
      · rfl
    split
    · exact SameClu.bind (sameClu_of_pure (pure_regionPos _ _ _)) fun _ => SameClu.bind (sameClu_regionPut _ _ _) fun _ => hpos _
    · split
      · exact SameClu.bind (sameClu_stop _) fun _ => hpos _
      · refine SameClu.optional (sameClu_acquireFor _) fun _ => SameClu.bind (sameClu_tilePut _ _) fun _ =>
          SameClu.bind (sameClu_modRole _ fun _ _ => clu_setStrm ..) fun _ =>
            SameClu.optional (sameClu_modRole _ fun r c => ?_) fun _ => hpos _
        split
        · exact clu_setRing ..
        · rfl
    · exact SameClu.bind (sameClu_trapIf _ _ _ _) fun _ => SameClu.bind (sameClu_waitIf _) fun _ =>
        SameClu.bind (sameClu_modSt fun _ => ⟨rfl, rfl, rfl⟩) fun _ => hpos _

theorem sameClu_wrR (d : RDst) (v : Row) : Keeps SameClu (wrR d v) := by
  cases d with
  | v n => exact sameClu_wrV _ _
  | qw n => exact sameClu_qPush _ _
  | s n => exact sameClu_pushStrm _ _

end Sys2Proof.Machine
end

section
/-! ### What a destination stream needs, and what flags and pops leave of it (R209 to R212, R443) -/
namespace Sys2Proof.Machine

/-- The sink that stream n of a role is, if it is one. -/
def Role.sink? (r : Role) (n : Nat) : Option Strm := (r.strm? n).filter Strm.sink

/-- All that the check of a destination stream reads of a role stays as it was. -/
structure SameSink (r r' : Role) : Prop where
  st : r'.st = r.st
  part : r'.part = r.part
  lid : r'.lid = r.lid
  twBase : r'.twBase = r.twBase
  twSize : r'.twSize = r.twSize
  arrival : r'.arrival = r.arrival
  sink : ∀ n, r'.sink? n = r.sink? n
  ring : ∀ n, (r'.ring? n).isNone = (r.ring? n).isNone

/-- All that the check of a destination stream of the issuing role reads stays as it was. -/
structure SameSinks (s s' : State) : Prop where
  cur : s'.cur = s.cur
  parts : s'.parts = s.parts
  cores : s'.cores = s.cores
  roles : ∀ k, SameSink (s.role k) (s'.role k)

theorem SameSink.refl (r : Role) : SameSink r r := ⟨rfl, rfl, rfl, rfl, rfl, rfl, fun _ => rfl, fun _ => rfl⟩
theorem SameSink.trans {a b c : Role} (h : SameSink a b) (k : SameSink b c) : SameSink a c where
  st := k.st.trans h.st
  part := k.part.trans h.part
  lid := k.lid.trans h.lid
  twBase := k.twBase.trans h.twBase
  twSize := k.twSize.trans h.twSize
  arrival := k.arrival.trans h.arrival
  sink n := (k.sink n).trans (h.sink n)
  ring n := (k.ring n).trans (h.ring n)
theorem SameSinks.refl (s : State) : SameSinks s s := ⟨rfl, rfl, rfl, fun _ => SameSink.refl _⟩
theorem SameSinks.trans (a b c : State) (h : SameSinks a b) (k : SameSinks b c) : SameSinks a c where
  cur := k.cur.trans h.cur
  parts := k.parts.trans h.parts
  cores := k.cores.trans h.cores
  roles n := (h.roles n).trans (k.roles n)

theorem SameSinks.curKey {s s' : State} (h : SameSinks s s') : s'.curKey = s.curKey := by
  unfold State.curKey
  rw [h.cur]
theorem SameSinks.curRole {s s' : State} (h : SameSinks s s') : SameSink s.curRole s'.curRole := by
  unfold State.curRole
  rw [h.curKey]
  exact h.roles _
theorem SameSinks.slotOfLaunch {s s' : State} (h : SameSinks s s') (key part : Nat) (lid : BitVec 32) :
    slotOfLaunch s' key part lid = slotOfLaunch s key part lid := by
  have hrole := h.roles key
  unfold Machine.slotOfLaunch State.alloc State.partOr
  dsimp only
  rw [h.parts, hrole.st, hrole.part, hrole.lid]
theorem SameSink.tileByte {r r' : Role} (h : SameSink r r') (a o : Nat) : tileByte r' a o = tileByte r a o := by
  unfold Machine.tileByte
  rw [h.twBase, h.twSize, h.arrival]

/-! Flags, marks and pops. -/

theorem sameSinks_setRole {s : State} {r : Role} (h : SameSink s.curRole r) : SameSinks s (s.setRole s.curKey r) where
  cur := rfl
  parts := rfl
  cores := rfl
  roles k := by
    rw [role_setRole]
    split
    · next hk =>
      subst hk
      exact h
    · exact SameSink.refl _
theorem sameSinks_modRole {f : Role → Role} (h : ∀ r, SameSink r (f r)) : Keeps SameSinks (modRole f) := by
  intro s a s' e
  cases e
  exact sameSinks_setRole (h _)
theorem sameSinks_of_pure {α : Type} {m : Iss α} (h : Pure m) : Keeps SameSinks m := by
  intro s a s' e
  rw [h _ _ _ e]
  exact SameSinks.refl s
theorem SameSinks.bind {α β : Type} {m : Iss α} {f : α → Iss β} (h1 : Keeps SameSinks m) (h2 : ∀ a, Keeps SameSinks (f a)) :
    Keeps SameSinks (m >>= f) := Keeps.bind SameSinks.trans h1 h2

theorem sameSinks_raiseI (row lane : Nat) (fl : Fl) : Keeps SameSinks (raiseI row lane fl) := by
  unfold raiseI
  split
  · exact sameSinks_of_pure (pure_pure _)
  · intro s a s' e
    cases e
    refine sameSinks_setRole ?_
    split
    · exact ⟨rfl, rfl, rfl, rfl, rfl, rfl, fun _ => rfl, fun _ => rfl⟩
    · exact ⟨rfl, rfl, rfl, rfl, rfl, rfl, fun _ => rfl, fun _ => rfl⟩
theorem sameSinks_raiseLanes (row : Nat) (l : List (Nat × Fl)) : Keeps SameSinks (raiseLanes row l) := by
  induction l with
  | nil => exact sameSinks_of_pure (pure_pure _)
  | cons x t ih => exact SameSinks.bind (sameSinks_raiseI _ _ _) fun _ => ih
theorem sameSinks_popAll (l : List Nat) : Keeps SameSinks (popAll l) := by
  induction l with
  | nil => exact sameSinks_of_pure (pure_pure _)
  | cons q t ih => exact SameSinks.bind (sameSinks_modRole fun _ =>
      ⟨rfl, rfl, rfl, rfl, rfl, rfl, fun _ => rfl, fun _ => rfl⟩) fun _ => ih

theorem strm?_setStrm (r : Role) (n m : Nat) (t : Strm) :
    (r.setStrm n t).strm? m = if m = n then some t else r.strm? m := by
  unfold Role.strm? Role.setStrm
  split
  · next h => rw [h, mfind_mput_same]
  · next h => rw [mfind_mput_other _ _ _ _ h]
theorem ring?_setRing (r : Role) (n m : Nat) (g : Ring) :
    (r.setRing n g).ring? m = if m = n then some g else r.ring? m := by
  unfold Role.ring? Role.setRing
  split
  · next h => rw [h, mfind_mput_same]
  · next h => rw [mfind_mput_other _ _ _ _ h]

/-- A source stays no sink, wherever it stands. -/
theorem sameSink_setStrm {r : Role} {n : Nat} {t : Strm} (h0 : r.sink? n = none) (ht : t.sink = false) :
    SameSink r (r.setStrm n t) where
  st := rfl
  part := rfl
  lid := rfl
  twBase := rfl
  twSize := rfl
  arrival := rfl
  sink m := by
    unfold Role.sink? at h0 ⊢
    rw [strm?_setStrm]
    split
    · next hm => rw [hm, h0, Option.filter_some, ht, if_neg Bool.false_ne_true]
    · rfl
  ring _ := rfl
theorem sameSink_setRing {r : Role} {n : Nat} {g : Ring} (h : r.ring? n = some g) (g' : Ring) : SameSink r (r.setRing n g') where
  st := rfl
  part := rfl
  lid := rfl
  twBase := rfl
  twSize := rfl
  arrival := rfl
  sink _ := rfl
  ring m := by
    rw [ring?_setRing]
    split
    · next hm => rw [hm, h]; rfl
    · rfl
theorem sameSink_releasePassed (r : Role) (t : Strm) : SameSink r (releasePassed r t) := by
  unfold releasePassed
  split
  · split
    · next hg => exact sameSink_setRing hg _
    · exact SameSink.refl _
  · exact SameSink.refl _

theorem sink_of_sink?_none {r : Role} {n : Nat} {t : Strm} (h0 : r.sink? n = none) (ht : r.strm? n = some t) : t.sink = false := by
  simpa [Role.sink?, ht] using h0

/-- The pop of a source leaves the sinks. -/
theorem sameSinks_popStrm {n : Nat} {mark : Bool} {s s' : State} (h0 : s.curRole.sink? n = none)
    (hp : Does (popStrm n mark) s s') : SameSinks s s' := by
  unfold Does popStrm at hp
  rw [bind_ok (getSt_run s), bind_ok (getRole_run s)] at hp
  rcases ht : s.curRole.strm? n with _ | t
  · rw [ht] at hp
    cases hp
    exact SameSinks.refl _
  · rw [ht] at hp
    obtain ⟨a, s1, hset, hrest⟩ := bind_split hp
    cases hset
    refine SameSinks.trans _ _ _ (sameSinks_setRole (sameSink_setStrm h0 ?_))
      (Keeps.optional SameSinks.trans ?_ (fun _ => ?_) _ _ _ hrest)
    · show t.sink = false
      exact sink_of_sink?_none h0 ht
    · intro u a u' e
      cases e
      exact ⟨rfl, rfl, rfl, fun _ => SameSink.refl _⟩
    · split
      · exact sameSinks_modRole fun r => sameSink_releasePassed r _
      · exact sameSinks_of_pure (pure_pure _)

theorem sameSinks_popStrms {l : List (Nat × Bool)} {s s' : State} (h0 : ∀ x ∈ l, s.curRole.sink? x.1 = none)
    (hp : Does (popStrms l) s s') : SameSinks s s' := by
  induction l generalizing s with
  | nil =>
    cases hp
    exact SameSinks.refl _
  | cons x t ih =>
    obtain ⟨⟨⟩, s1, hx, hrest⟩ := bind_split hp
    have hfirst := sameSinks_popStrm (h0 x (List.mem_cons_self ..)) hx
    refine SameSinks.trans _ _ _ hfirst (ih (fun y hy => ?_) hrest)
    rw [hfirst.curRole.sink, h0 y (List.mem_cons_of_mem _ hy)]

theorem mem_uniq {l : List Nat} {n : Nat} (h : n ∈ uniq l) : n ∈ l := by
  induction l with
  | nil => exact h
  | cons x t ih =>
    rcases List.mem_cons.mp h with rfl | hmem
    · exact List.mem_cons_self ..
    · exact List.mem_cons_of_mem _ (ih (List.mem_filter.mp hmem).1)

/-- A stream that pops is one that a source names. -/
theorem source_of_strmPops {l : List (RSrc × Bool)} {x : Nat × Bool} (h : x ∈ strmPops l) :
    ∃ a ∈ l, rStrm a.1 = some x.1 := by
  obtain ⟨n, hn, rfl⟩ := List.mem_map.mp h
  exact List.mem_filterMap.mp (mem_uniq hn)

theorem trapIf_passed {b : Bool} {c : Nat} {i j : Word} {a : Unit} {s s' : State} (h : trapIf b c i j s = .ok (a, s')) :
    b = false ∧ s' = s := by
  cases b
  · exact ⟨rfl, pure_trapIf _ _ _ _ _ _ _ h⟩
  · cases h

/-- A stream that a source reads is no sink (R208, R209). -/
theorem sink?_of_rdR {a : RSrc} {v : RowVal} {s : State} {n : Nat} (hr : Reads (rdR a) s v) (hn : rStrm a = some n) :
    s.curRole.sink? n = none := by
  cases a with
  | s m =>
    cases hn
    unfold Reads rdR at hr
    obtain ⟨r, s1, hrd, -⟩ := bind_split hr
    unfold rdStrm at hrd
    obtain ⟨_, s0, hfree, hrd⟩ := bind_split hrd
    cases pure_strmFree _ _ _ _ hfree
    rw [bind_ok (getRole_run s)] at hrd
    unfold Role.sink?
    rcases ht : s.curRole.strm? m.toNat with _ | t
    · rfl
    · rw [ht] at hrd
      obtain ⟨_, _, htrap, -⟩ := bind_split hrd
      rw [Option.filter_some, (trapIf_passed htrap).1, if_neg Bool.false_ne_true]
  | v m => cases hn
  | qw m => cases hn
  | lane => cases hn
  | sc b => cases hn

theorem sameSinks_popRows {l : List (RSrc × Bool)} {s s' : State}
    (h0 : ∀ a ∈ l, ∀ n, rStrm a.1 = some n → s.curRole.sink? n = none) (hp : Does (popRows l) s s') : SameSinks s s' := by
  obtain ⟨⟨⟩, s1, hmarks, hstrms⟩ := bind_split hp
  have hfirst := sameSinks_popAll _ _ _ _ hmarks
  refine SameSinks.trans _ _ _ hfirst (sameSinks_popStrms (fun x hx => ?_) hstrms)
  obtain ⟨a, ha, hn⟩ := source_of_strmPops hx
  rw [hfirst.curRole.sink, h0 a ha _ hn]

/-! The destination stream itself. -/

/-- R209: the places of vector p of a region stream; padding has none. -/
def Strm.places (t : Strm) (p : Nat) : List (Option Int) :=
  (List.range 512).map (fun i => if 512 * p + i < t.seqLen then t.offAt (512 * p + i) else none)
/-- R209: an offset that a region stream may not use. -/
def Strm.outside (t : Strm) (s : State) (x : Int) : Bool :=
  x < 0 || x < t.base || (t.base : Int) + t.limit ≤ x || (tileByte s.curRole (s.arrBase (s.curKey / 4)) x.toNat).isNone
/-- R209: vector p of a region stream lies in its window. -/
def Strm.fits (t : Strm) (s : State) (p : Nat) : Prop := ∀ x, some x ∈ t.places p → t.outside s x = false

theorem regionPut_run (t : Strm) (p : Nat) (v : List Byte) (s : State) :
    (t.fits s p ∧ ∃ s', Does (regionPut t p v) s s') ∨
    (¬ t.fits s p ∧ ∃ x, regionPut t p v s = .error (.trap tTILE x exactI1)) := by
  unfold Does regionPut
  rw [bind_ok (getSt_run s), bind_ok (getRole_run s)]
  dsimp only
  generalize hfind : List.find? _ _ = o
  rcases o with _ | _ | x
  · exact .inl ⟨fun x hx => Bool.eq_false_iff.mpr (List.find?_eq_none.mp hfind (some x) hx), _, rfl⟩
  · exact absurd (List.find?_some hfind) Bool.false_ne_true
  · refine .inr ⟨fun hfits => ?_, _, rfl⟩
    have hmem : some x ∈ t.places p := List.mem_of_find?_eq_some hfind
    have hbad := List.find?_some hfind
    exact Bool.false_ne_true ((hfits x hmem).symm.trans hbad)

theorem regionPos_reads {t : Strm} {n p q : Nat} {s : State} (h : Reads (regionPos t n p) s q) (u : State) :
    Reads (regionPos t n p) u q := by
  unfold Reads regionPos at *
  split
  · next hp =>
    rw [if_pos hp] at h
    cases h
    rfl
  · next hp =>
    rw [if_neg hp] at h
    split
    · next hwrap =>
      rw [if_pos hwrap] at h
      cases h
      rfl
    · next hwrap =>
      rw [if_neg hwrap] at h
      cases h

/-- R208 to R212: what stream n needs to take a vector but room: it is a sink, and its region has a next vector within its window, its
ring is defined, or the role at the far end of its link is one of the launch. -/
inductive SinkTakes (s : State) (n : Nat) : Prop
  | region {t : Strm} {q : Nat} (sink : s.curRole.sink? n = some t) (binding : t.bind = 0)
      (next : ∀ u, Reads (regionPos t n t.sp) u q) (fits : t.fits s q)
  | ring {t : Strm} (sink : s.curRole.sink? n = some t) (binding : t.bind = 1) (ring : (s.curRole.ring? t.ring).isNone = false)
  | link {t : Strm} {k : Nat} (sink : s.curRole.sink? n = some t) (binding : t.bind = k + 2)
      (far : slotOfLaunch s (farKey s.curKey t.link) s.curRole.part.toNat s.curRole.lid = true)

theorem strm?_of_sink? {r : Role} {n : Nat} {t : Strm} (h : r.sink? n = some t) : r.strm? n = some t ∧ t.sink = true :=
  Option.filter_eq_some_iff.mp h

theorem sink?_of_strm? {r : Role} {n : Nat} {t : Strm} (h : r.strm? n = some t) (ht : t.sink = true) : r.sink? n = some t :=
  Option.filter_eq_some_iff.mpr ⟨h, ht⟩

/-- A stream that has taken a vector could take it. -/
theorem sinkTakes_of_pushStrm {n : Nat} {v : Row} {s s' : State} (h : Does (pushStrm n v) s s') : SinkTakes s n := by
  unfold Does pushStrm at h
  obtain ⟨_, s0, hfree, h⟩ := bind_split h
  cases pure_strmFree _ _ _ _ hfree
  rw [bind_ok (getSt_run s), bind_ok (getRole_run s)] at h
  rcases ht : s.curRole.strm? n with _ | t
  · rw [ht] at h
    cases h
  · rw [ht] at h
    obtain ⟨_, s0, htrap, h⟩ := bind_split h
    obtain ⟨hno, hs0⟩ := trapIf_passed htrap
    cases hs0
    have hsink : s.curRole.sink? n = some t := sink?_of_strm? ht (by simpa using hno)
    rcases hb : t.bind with _ | _ | k
    · rw [hb] at h
      obtain ⟨q, s0, hpos, h⟩ := bind_split h
      cases pure_regionPos _ _ _ _ _ _ hpos
      obtain ⟨_, s1, hput, -⟩ := bind_split h
      refine .region hsink hb (regionPos_reads hpos) ?_
      rcases regionPut_run t q (rowLe v) s with ⟨hfits, -⟩ | ⟨-, x, hx⟩
      · exact hfits
      · rw [hx] at hput
        cases hput
    · rw [hb] at h
      refine .ring hsink hb ?_
      rcases hg : s.curRole.ring? t.ring with _ | g
      · rw [hg] at h
        cases h
      · rfl
    · rw [hb] at h
      obtain ⟨_, s0, hfar, -⟩ := bind_split h
      exact .link hsink hb (by simpa using (trapIf_passed hfar).1)

theorem SameSinks.fits {s s' : State} (h : SameSinks s s') {t : Strm} {p : Nat} (hf : t.fits s' p) : t.fits s p := by
  intro x hx
  have hout := hf x hx
  unfold Strm.outside State.arrBase State.core at hout ⊢
  rwa [h.curRole.tileByte, h.cores, h.curKey] at hout

theorem SameSinks.sinkTakes {s s' : State} (h : SameSinks s s') {n : Nat} (ht : SinkTakes s' n) : SinkTakes s n := by
  cases ht with
  | region sink binding next fits => exact .region ((h.curRole.sink n).symm.trans sink) binding next (h.fits fits)
  | ring sink binding ring => exact .ring ((h.curRole.sink n).symm.trans sink) binding ((h.curRole.ring _).symm.trans ring)
  | link sink binding far =>
    rw [h.slotOfLaunch, h.curKey, h.curRole.part, h.curRole.lid] at far
    exact .link ((h.curRole.sink n).symm.trans sink) binding far

/-- No trap, whatever else the outcome. -/
def NoTrap {α : Type} (e : Except Stop α) : Prop := ∀ c i j, e ≠ .error (.trap c i j)

theorem noTrap_ok {α : Type} (a : α) : NoTrap (.ok a : Except Stop α) := nofun
theorem noTrap_map {α β : Type} {e : Except Stop α} (h : NoTrap e) (f : α → β) : NoTrap (e.map f) := by
  intro c i j he
  rcases e with x | a
  · exact h c i j (congrArg Except.error (Except.error.inj he))
  · cases he

theorem waitIf_run (b : Bool) (s : State) : waitIf b s = .ok ((), s) ∨ waitIf b s = .error .wait := by
  cases b
  · exact .inl rfl
  · exact .inr rfl
/-- A nest record that holds a stream makes its user wait (R177). -/
theorem strmFree_run (n : Nat) (s : State) : strmFree n s = .ok ((), s) ∨ strmFree n s = .error .wait := by
  unfold strmFree
  rw [bind_ok (getRole_run s)]
  exact waitIf_run _ s

/-- R443: a stream that can take a vector gives no trap. -/
theorem SinkTakes.noTrap {s : State} {n : Nat} (h : SinkTakes s n) : NoTrap (sinkChk n s) := by
  unfold sinkChk
  rcases strmFree_run n s with hfree | hwait
  · rw [bind_ok hfree, bind_ok (getSt_run s), bind_ok (getRole_run s)]
    cases h with
    | region sink binding next fits =>
      obtain ⟨ht, hsink⟩ := strm?_of_sink? sink
      rcases regionPut_run _ _ (List.replicate 512 0) s with ⟨-, s', hput⟩ | ⟨hfits, -⟩
      · simp only [ht, hsink, binding, Bool.not_true]
        rw [bind_ok (trapIf_false ..), bind_ok (next s), hput]
        exact noTrap_ok _
      · exact absurd fits hfits
    | ring sink binding ring =>
      obtain ⟨ht, hsink⟩ := strm?_of_sink? sink
      simp only [ht, hsink, binding, ring]
      exact noTrap_ok _
    | link sink binding far =>
      obtain ⟨ht, hsink⟩ := strm?_of_sink? sink
      simp only [ht, hsink, binding, far]
      exact noTrap_ok _
  · rw [bind_error hwait]
    nofun

/-- R443: the order of the row fields is met where no field traps by itself. -/
theorem firstTrap_none {l : List (Except Stop Unit)} (h : ∀ e ∈ l, NoTrap e) : firstTrap l = none := by
  induction l with
  | nil => rfl
  | cons e t ih =>
    have ht := ih fun x hx => h x (List.mem_cons_of_mem _ hx)
    have he := h e (List.mem_cons_self ..)
    rcases e with (_ | ⟨c, i, j⟩ | _) | _
    · exact ht
    · exact absurd rfl (he c i j)
    · exact ht
    · exact ht

theorem srcAlone_noTrap {a : RSrc × Bool} {v : RowVal} {s : State} (h : Reads (rdR a.1) s v) : NoTrap (srcAlone a s) := by
  unfold srcAlone
  rcases ha : a.1 with n | n | n | _ | b
  · exact noTrap_ok _
  · rw [ha] at h
    unfold Reads rdR at h
    obtain ⟨r, s1, hrd, -⟩ := bind_split h
    simp only
    rw [hrd]
    exact noTrap_ok _
  · exact noTrap_ok _
  · exact noTrap_ok _
  · exact noTrap_ok _

theorem dstAlone_noTrap {d : RDst} {s : State} (h : ∀ n, d = .s n → SinkTakes s n.toNat) : NoTrap (dstAlone d s) := by
  cases d with
  | s n => exact noTrap_map (h n rfl).noTrap _
  | v n => exact noTrap_ok _
  | qw n => exact noTrap_ok _

theorem fieldOrder_ok {d : RDst} {srcs : List (RSrc × Bool)} {s : State} (hd : NoTrap (dstAlone d s))
    (hs : ∀ a ∈ srcs, NoTrap (srcAlone a s)) : Does (fieldOrder (some d) srcs) s s := by
  have hnone : firstTrap ([dstAlone d s] ++ srcs.map (fun a => srcAlone a s)) = none := by
    refine firstTrap_none fun e he => ?_
    rcases List.mem_cons.mp he with rfl | he
    · exact hd
    · obtain ⟨a, ha, rfl⟩ := List.mem_map.mp he
      exact hs a ha
  unfold Does fieldOrder
  simp only [hnone]

end Sys2Proof.Machine
end

section
/-! ### Row results (R145 to R149) -/
namespace Sys2Proof.Machine

/-- R145 to R149: a syllable whose sources can be read and whose flags, pops and write go through makes its row. -/
theorem rowOp_done {h : Hdr} {ty : ETy} {srcs : List (RSrc × Bool)} {d : RDst} {lanes : Iss (List (Nat × Fl))}
    {rs : List (Nat × Fl)} {s t : State} (hr : ∀ a ∈ srcs, ∃ v, Reads (rdR a.1) s v) (hl : Reads lanes s rs)
    (hdone : RowDone h ty srcs d rs s t) : rowOp h ty srcs d lanes s = .ok (.fall, t) ∧ SameClu s t := by
  obtain ⟨g, old, s1, s2, hg, hold, hraise, hpop, hwr⟩ := hdone
  have hsinks1 := sameSinks_raiseLanes _ _ _ _ _ hraise
  have hsinks2 : SameSinks s1 s2 := sameSinks_popRows (fun a ha n hn => by
    obtain ⟨v, hv⟩ := hr a ha
    rw [hsinks1.curRole.sink, sink?_of_rdR hv hn]) hpop
  have horder : Does (fieldOrder (some d) srcs) s s := by
    refine fieldOrder_ok (dstAlone_noTrap fun n hn => ?_) fun a ha => srcAlone_noTrap (hr a ha).choose_spec
    subst hn
    exact (SameSinks.trans _ _ _ hsinks1 hsinks2).sinkTakes (sinkTakes_of_pushStrm hwr)
  refine ⟨?_, SameClu.trans _ _ _ (sameClu_raiseLanes _ _ _ _ _ hraise)
    (SameClu.trans _ _ _ (sameClu_popRows _ _ _ _ hpop) (sameClu_wrR _ _ _ _ _ hwr))⟩
  unfold rowOp
  rw [bind_ok hg, bind_ok horder, bind_ok hl, bind_ok hold, bind_ok hraise, bind_ok hpop, bind_ok hwr]
  rfl

/-- R161: a reduction of guarded lanes. -/
theorem reduce_done {h : Hdr} {o : VRedF} {f : Dyad → Dyad → Node} {e : Dyad} {s s1 s2 s3 : State} {g : Pred} {a : RowVal}
    (hg : Reads (guardP h) s g) (ha : Reads (rdR o.a.src) s a)
    (hraise : Does (raiseI 255 0 (tree f (Nat.log2 o.ty.lanes)
      ((List.range o.ty.lanes).map (fun i => if g.getLsbD i then a.numAt o.ty i else e))).2) s s1)
    (hpop : Does (popRows [mr o.a]) s1 s2)
    (hwr : Does (wrS o.d (widenElem o.ty (codeOf o.ty (tree f (Nat.log2 o.ty.lanes)
      ((List.range o.ty.lanes).map (fun i => if g.getLsbD i then a.numAt o.ty i else e))).1))) s2 s3) :
    reduce h o f e s = .ok (.fall, s3) ∧ SameClu s s3 := by
  refine ⟨?_, SameClu.trans _ _ _ (sameClu_raiseI _ _ _ _ _ _ hraise)
    (SameClu.trans _ _ _ (sameClu_popRows _ _ _ _ hpop) (sameClu_wrS _ _ _ _ _ hwr))⟩
  unfold reduce
  rw [bind_ok hg, bind_ok ha, bind_ok hraise, bind_ok hpop, bind_ok hwr]
  rfl

/-- R163: the lanes of the scan, lane 0 moved as it is. -/
def scanLanes (o : V1) (g : Pred) (a : RowVal) : List (Nat × Fl) :=
  (scan (sumNode o.ty o.rm) (Nat.log2 o.ty.lanes) 1 ((List.range o.ty.lanes).map (fun i =>
    (if g.getLsbD i then a.numAt o.ty i else negZero o.ty, 0)))).zipIdx.map (fun x =>
      (if x.2 = 0 then (if g.getLsbD 0 then a.copyAt o.ty 0 else codeOf o.ty (negZero o.ty)) else codeOf o.ty x.1.1, x.1.2))

theorem resVscansum_done {h : Hdr} {o : V1} {s t : State} {g : Pred} {a : RowVal} (hg : Reads (guardP h) s g)
    (ha : Reads (rdR o.a.src) s a) (hdone : RowDone h o.ty [mr o.a] o.d (scanLanes o g a) s t) :
    resVscansum h o s = .ok (.fall, t) ∧ SameClu s t := by
  unfold resVscansum
  rw [bind_ok hg]
  refine rowOp_done (fun x hx => ?_) ?_ hdone
  · rw [List.mem_singleton.mp hx]
    exact ⟨a, ha⟩
  · exact bind_ok ha

/-- Settles O33: the syllables are the shapes of a reduction and of a row result; a tree of 2^(k+1) leaves combines the trees of its
halves; after the steps of a scan each lane holds the lanes up to it. -/
theorem vectorReductions : Obligations.VectorReductions := by
  unfold Obligations.VectorReductions
  refine ⟨fun h o s s1 s2 s3 g a hready hg ha => ?_, fun h o s t g a hready hg ha hdone => ?_, fun f k l r hl hr => ?_,
    fun _ _ => rfl, fun f d t => ?_, fun _ _ _ _ => ⟨rfl, rfl⟩, fun f n t hf hn => ?_⟩
  · refine ⟨?_, ?_, ?_⟩
    all_goals
      rintro ⟨hraise, hpop, hwr⟩
      obtain ⟨hbody, hclu⟩ := reduce_done hg ha hraise hpop hwr
      exact issueN_falls hready hbody hclu
  · obtain ⟨hbody, hclu⟩ := resVscansum_done hg ha hdone
    exact issueN_falls hready hbody hclu
  · rw [tree_append f hl hr]
    exact ⟨rfl, rfl⟩
  · exact ⟨length_scanStep f d t, fun i _ hd => scanStep_below f hd, fun x y i hd hx hy => scanStep_above f hd hx hy⟩
  · exact ⟨fun x hx => (scan_first f n Nat.one_pos t).trans hx, fun i x y hx hy => scan_next f hf hn hx hy⟩

end Sys2Proof.Machine
end

section
/-! ### Scalar syllables by their tables (R50, R57, R119, R136, R138, R142) -/
namespace Sys2Proof.Machine

/-- A scalar result, guarded: what the issue of its body comes to. -/
theorem issue_scalarOp_true {h : Hdr} {ms : List Mk} {d : SDst} {f : Iss Word} {s s1 s2 : State} {v : Word}
    (hr : Ready 8 h.s s) (hg : Reads (guardS h) s true) (hf : Reads f s v) (hp : Does (popMarks ms) s s1)
    (hw : Does (wrS d v) s1 s2) : issue h (scalarOp h ms d f) s = .next (s2.fell 8) :=
  issueN_falls hr (scalarOp_true hg hf hp hw)
    (SameClu.trans _ _ _ (sameClu_popMarks _ _ _ _ hp) (sameClu_wrS _ _ _ _ _ hw))

theorem issue_scalarOp_false {h : Hdr} {ms : List Mk} {d : SDst} {f : Iss Word} {s s1 s2 : State}
    (hr : Ready 8 h.s s) (hg : Reads (guardS h) s false) (hn : Does (needHeads ms) s s) (hp : Does (popMarks ms) s s1)
    (hw : Does (wrS0 d) s1 s2) : issue h (scalarOp h ms d f) s = .next (s2.fell 8) :=
  issueN_falls hr (scalarOp_false hg hn hp hw)
    (SameClu.trans _ _ _ (sameClu_popMarks _ _ _ _ hp) (sameClu_wrS0 _ _ _ _ hw))

theorem issue_guarded_false {h : Hdr} {ms : List Mk} {f : Iss Unit} {s s1 : State} (hr : Ready 8 h.s s)
    (hg : Reads (guardS h) s false) (hn : Does (needHeads ms) s s) (hp : Does (popMarks ms) s s1) :
    issue h (guarded h ms f) s = .next (s1.fell 8) :=
  issueN_falls hr (guarded_false hg hn hp) (sameClu_popMarks _ _ _ _ hp)

theorem needHeads_nil (s : State) : Does (needHeads []) s s := rfl
theorem popMarks_nil (s : State) : Does (popMarks []) s s := rfl

/-- A body whose true arm is skipped, and whose false arm does nothing, goes on. -/
theorem issue_unguarded {h : Hdr} {f : Iss Flow} {s : State} (hr : Ready 8 h.s s) (hg : Reads (guardS h) s false) :
    issue h (do let g ← guardS h; if g then f else pure .fall) s = .next (s.fell 8) :=
  issueN_falls hr (by rw [bind_ok hg]; rfl) (SameClu.refl s)

/-- The same, where the false arm asks for the heads of the queues that the syllable reads. -/
theorem issue_unguarded_heads {h : Hdr} {ms : List Mk} {f : Iss Flow} {s : State} (hr : Ready 8 h.s s)
    (hg : Reads (guardS h) s false) (hn : Does (needHeads ms) s s) :
    issue h (do let g ← guardS h; if g then f else (do needHeads ms; pure .fall)) s = .next (s.fell 8) :=
  issueN_falls hr (by rw [bind_ok hg, if_neg Bool.false_ne_true, bind_ok hn]; rfl) (SameClu.refl s)

/-! The operands of a result, read one after another. -/

theorem reads_one {m : Iss Word} {f : Word → Word} {s : State} {a : Word} (ha : Reads m s a) :
    Reads (do let a ← m; pure (f a)) s (f a) := bind_ok ha
theorem reads_two {m n : Iss Word} {f : Word → Word → Word} {s : State} {a b : Word} (ha : Reads m s a) (hb : Reads n s b) :
    Reads (do let a ← m; let b ← n; pure (f a b)) s (f a b) := (bind_ok ha).trans (bind_ok hb)
theorem reads_three {m n p : Iss Word} {f : Word → Word → Word → Word} {s : State} {a b c : Word} (ha : Reads m s a)
    (hb : Reads n s b) (hc : Reads p s c) : Reads (do let a ← m; let b ← n; let c ← p; pure (f a b c)) s (f a b c) :=
  (bind_ok ha).trans ((bind_ok hb).trans (bind_ok hc))

/-! Each row of a table is the instruction that computes the row's function. -/

theorem clzW_eq (a : Word) : clzW a = BitVec.ofNat 64 (if a = 0 then 64 else 63 - Nat.log2 a.toNat) := by
  unfold clzW
  split <;> rfl
theorem ctzW_eq (a : Word) : ctzW a = BitVec.ofNat 64 (if a = 0 then 64 else Nat.log2 (a &&& (-a)).toNat) := by
  unfold ctzW
  split <;> rfl

theorem exec_aluOne {c : Hdr → S1 → Instr} {f : Word → Word} (hc : (c, f) ∈ aluOne) (h : Hdr) (o : S1) (s : State) :
    exec (c h o) s = issue h (alu1 h o f) s := by
  simp only [aluOne, List.mem_cons, Prod.mk.injEq, List.not_mem_nil, or_false] at hc
  rcases hc with ⟨rfl, rfl⟩ | ⟨rfl, rfl⟩ | ⟨rfl, rfl⟩
  · exact congrArg (fun f => issue h (alu1 h o f) s) (funext clzW_eq)
  · exact congrArg (fun f => issue h (alu1 h o f) s) (funext ctzW_eq)
  · rfl

theorem exec_aluTwo {c : Hdr → S2 → Instr} {f : Word → Word → Word} (hc : (c, f) ∈ aluTwo) (h : Hdr) (o : S2) (s : State) :
    exec (c h o) s = issue h (alu2 h o f) s := by
  simp only [aluTwo, List.mem_cons, Prod.mk.injEq, List.not_mem_nil, or_false] at hc
  rcases hc with ⟨rfl, rfl⟩ | ⟨rfl, rfl⟩ | ⟨rfl, rfl⟩ | ⟨rfl, rfl⟩ | ⟨rfl, rfl⟩ | ⟨rfl, rfl⟩ | ⟨rfl, rfl⟩ | ⟨rfl, rfl⟩ |
    ⟨rfl, rfl⟩ | ⟨rfl, rfl⟩ | ⟨rfl, rfl⟩ | ⟨rfl, rfl⟩ | ⟨rfl, rfl⟩ | ⟨rfl, rfl⟩ | ⟨rfl, rfl⟩ | ⟨rfl, rfl⟩ | ⟨rfl, rfl⟩ |
    ⟨rfl, rfl⟩ | ⟨rfl, rfl⟩ | ⟨rfl, rfl⟩ <;> rfl

theorem exec_aluThree {c : Hdr → S3 → Instr} {f : Word → Word → Word → Word} (hc : (c, f) ∈ aluThree) (h : Hdr) (o : S3)
    (s : State) : exec (c h o) s = issue h (alu3 h o f) s := by
  simp only [aluThree, List.mem_cons, Prod.mk.injEq, List.not_mem_nil, or_false] at hc
  rcases hc with ⟨rfl, rfl⟩ | ⟨rfl, rfl⟩ | ⟨rfl, rfl⟩
  · rfl
  · rfl
  · have hsel : (fun a b c : Word => if c = 0 then b else a) = fun a b c => if c ≠ 0 then a else b := by
      funext a b c
      split <;> simp_all
    exact congrArg (fun f => issue h (alu3 h o f) s) hsel

/-- Settles O1: each row of the tables is `scalarOp` on the row's function, and a ready `scalarOp` with its guard true writes what
the function gives and goes on. -/
theorem aluResults : Obligations.AluResults := by
  unfold Obligations.AluResults
  refine ⟨?_, ?_, ?_⟩
  · intro c f hc h o s s1 s2 a b hr hg ha hb hp hw
    rw [exec_aluTwo hc]
    exact issue_scalarOp_true hr hg (reads_two ha hb) hp hw
  · intro c f hc h o s s1 s2 a hr hg ha hp hw
    rw [exec_aluOne hc]
    exact issue_scalarOp_true hr hg (reads_one ha) hp hw
  · intro c f hc h o s s1 s2 a b x hr hg ha hb hx hp hw
    rw [exec_aluThree hc]
    exact issue_scalarOp_true hr hg (reads_three ha hb hx) hp hw

/-! The shape of a table's instructions, whatever they compute. -/

theorem exec_aluFlags {c : Hdr → S2 → Instr} {f : Word → Word → Word × Fl} (hc : (c, f) ∈ aluFlags) :
    ∃ g, ∀ (h : Hdr) (o : S2) (s : State), exec (c h o) s = issue h (alu2f h o g) s := by
  simp only [aluFlags, List.mem_cons, Prod.mk.injEq, List.not_mem_nil, or_false] at hc
  rcases hc with ⟨rfl, -⟩ | ⟨rfl, -⟩ | ⟨rfl, -⟩ | ⟨rfl, -⟩ | ⟨rfl, -⟩ | ⟨rfl, -⟩ <;> exact ⟨_, fun _ _ _ => rfl⟩

theorem exec_aluImm {c : Hdr → I1 → Instr} {f : Word → Word → Word} (hc : (c, f) ∈ aluImm) (h : Hdr) (o : I1) (s : State) :
    exec (c h o) s = issue h (alui h o f) s := by
  simp only [aluImm, List.mem_cons, Prod.mk.injEq, List.not_mem_nil, or_false] at hc
  rcases hc with ⟨rfl, rfl⟩ | ⟨rfl, rfl⟩ | ⟨rfl, rfl⟩ | ⟨rfl, rfl⟩ | ⟨rfl, rfl⟩ | ⟨rfl, rfl⟩ | ⟨rfl, rfl⟩ | ⟨rfl, rfl⟩ |
    ⟨rfl, rfl⟩ | ⟨rfl, rfl⟩ | ⟨rfl, rfl⟩ | ⟨rfl, rfl⟩ | ⟨rfl, rfl⟩ | ⟨rfl, rfl⟩ | ⟨rfl, rfl⟩ <;> rfl

theorem exec_predTwo {c : Hdr → BitVec 7 → BitVec 7 → BitVec 7 → Instr} {f : Pred → Pred → Pred} (hc : (c, f) ∈ predTwo)
    (h : Hdr) (d a b : BitVec 7) (s : State) : exec (c h d a b) s = issue h (pred2 h d a b f) s := by
  simp only [predTwo, List.mem_cons, Prod.mk.injEq, List.not_mem_nil, or_false] at hc
  rcases hc with ⟨rfl, rfl⟩ | ⟨rfl, rfl⟩ | ⟨rfl, rfl⟩ | ⟨rfl, rfl⟩ <;> rfl

theorem exec_predOne {c : Hdr → BitVec 7 → BitVec 7 → Instr} {f : Pred → Pred} (hc : (c, f) ∈ predOne)
    (h : Hdr) (d a : BitVec 7) (s : State) : exec (c h d a) s = issue h (pred1 h d a f) s := by
  simp only [predOne, List.mem_cons, Prod.mk.injEq, List.not_mem_nil, or_false] at hc
  rcases hc with ⟨rfl, rfl⟩ | ⟨rfl, rfl⟩ <;> rfl

theorem exec_predLanes {c : Hdr → SDst → BitVec 7 → ETy → Instr} {f : List Nat → Word} (hc : (c, f) ∈ predLanes) :
    ∃ g, ∀ (h : Hdr) (d : SDst) (a : BitVec 7) (ty : ETy) (s : State), exec (c h d a ty) s = issue h (lanesOp h d a ty g) s := by
  simp only [predLanes, List.mem_cons, Prod.mk.injEq, List.not_mem_nil, or_false] at hc
  rcases hc with ⟨rfl, -⟩ | ⟨rfl, -⟩ | ⟨rfl, -⟩ <;> exact ⟨_, fun _ _ _ _ _ => rfl⟩

/-- Settles O7: every shape of body has an arm for its guard being false, which pops marks, pushes 0 and transfers nothing. -/
theorem falseGuard : Obligations.FalseGuard := by
  unfold Obligations.FalseGuard
  refine ⟨fun h s s1 s2 hr hg => ⟨?_, ?_, ?_, ?_⟩, fun h s s1 hr hg => ?_, fun h d s s1 s2 hr hg => ⟨?_, ?_, ?_⟩⟩
  · intro c hc o hn hp hw
    rcases List.mem_append.mp hc with hc | hc
    · obtain ⟨⟨_, f⟩, hmem, rfl⟩ := List.mem_map.mp hc
      rw [exec_aluTwo hmem]
      exact issue_scalarOp_false hr hg hn hp hw
    · obtain ⟨⟨_, f⟩, hmem, rfl⟩ := List.mem_map.mp hc
      obtain ⟨g, hexec⟩ := exec_aluFlags hmem
      rw [hexec]
      exact issue_scalarOp_false hr hg hn hp hw
  · intro c hc o hn hp hw
    obtain ⟨⟨_, f⟩, hmem, rfl⟩ := List.mem_map.mp hc
    rw [exec_aluOne hmem]
    exact issue_scalarOp_false hr hg hn hp hw
  · intro c hc o hn hp hw
    obtain ⟨⟨_, f⟩, hmem, rfl⟩ := List.mem_map.mp hc
    rw [exec_aluThree hmem]
    exact issue_scalarOp_false hr hg hn hp hw
  · intro c hc o hn hp hw
    rcases List.mem_cons.mp hc with rfl | hc
    · exact issue_scalarOp_false hr hg hn hp hw
    · obtain ⟨⟨_, f⟩, hmem, rfl⟩ := List.mem_map.mp hc
      rw [exec_aluImm hmem]
      exact issue_scalarOp_false hr hg hn hp hw
  · have hplain {ms : List Mk} {f : Iss Unit} (hn : Does (needHeads ms) s s) (hp : Does (popMarks ms) s s1) :
        issue h (guarded h ms f) s = .next (s1.fell 8) := issue_guarded_false hr hg hn hp
    have hnone {f : Iss Unit} : issue h (guarded h [] f) s = .next (s.fell 8) :=
      issue_guarded_false hr hg (needHeads_nil s) (popMarks_nil s)
    have hbranch {test : Iss Bool} {off : BitVec 28} {ms : List Mk} (hn : Does (needHeads ms) s s) :
        issue h (branchIf h ms test off) s = .next (s.fell 8) := issue_unguarded_heads hr hg hn
    refine ⟨fun cc o hn hp => ⟨hplain hn hp, hplain hn hp⟩, ?_, ?_, fun x i => hnone, fun x i => hnone,
      fun off => hbranch (needHeads_nil s), fun x off => issue_unguarded hr hg, fun n off => issue_unguarded hr hg,
      fun n => ?_, issue_unguarded hr hg, ?_,
      fun p ty off => ⟨hbranch (needHeads_nil s), hbranch (needHeads_nil s), hbranch (needHeads_nil s)⟩,
      fun cc a b off hn => hbranch hn,
      fun a off hn => ⟨issue_unguarded_heads hr hg hn, issue_unguarded_heads hr hg hn, issue_unguarded_heads hr hg hn⟩⟩
    · intro c hc d a b
      obtain ⟨⟨_, f⟩, hmem, rfl⟩ := List.mem_map.mp hc
      rw [exec_predTwo hmem]
      exact hnone
    · intro c hc d a
      obtain ⟨⟨_, f⟩, hmem, rfl⟩ := List.mem_map.mp hc
      rw [exec_predOne hmem]
      exact hnone
    · exact issueN_falls hr (bind_ok hg) (SameClu.refl s)
    · exact issueN_falls hr (bind_ok hg) (SameClu.refl s)
  · intro a b hn hp hw
    exact issue_scalarOp_false hr hg hn hp hw
  · intro c hc a ty hw
    obtain ⟨⟨_, f⟩, hmem, rfl⟩ := List.mem_map.mp hc
    obtain ⟨g, hexec⟩ := exec_predLanes hmem
    rw [hexec]
    exact issue_scalarOp_false hr hg (needHeads_nil s) (popMarks_nil s) hw
  · intro q u hw
    exact issue_scalarOp_false hr hg (needHeads_nil s) (popMarks_nil s) hw

end Sys2Proof.Machine
end

section
/-! ### What operands deliver (R58 to R61, R64, R65) -/
namespace Sys2Proof.Machine

theorem seenAcc_alone {r : Role} (h : r.snap = none) : seenAcc r = r.acc := by rw [seenAcc, h]
theorem seenXs_alone {r : Role} (h : r.snap = none) : seenXs r = r.xs := by rw [seenXs, h]
theorem seenPs_alone {r : Role} (h : r.snap = none) : seenPs r = r.ps := by rw [seenPs, h]
theorem seenQs_alone {r : Role} (h : r.snap = none) : seenQs r = r.qs := by rw [seenQs, h]

/-- A destination that no request in flight is to write. -/
theorem find_dest_none {l : List Access} {d : Dest} (h : ∀ a ∈ l, d ∉ a.dests) : l.find? (fun a => a.dests.contains d) = none := by
  simpa [List.find?_eq_none] using h

theorem rdX_free {s : State} {n : Nat} (hd : ∀ a ∈ seenAcc s.curRole, Dest.x n ∉ a.dests) :
    Reads (rdX n) s (mget 0 (seenXs s.curRole) n) :=
  (bind_ok (chkDest_free (find_dest_none hd))).trans (bind_ok (getRole_run s))

/-- The load whose error predicate n may yet be set (R343). -/
def setsPred (s : State) (n : Nat) : Option Access :=
  (seenAcc s.curRole).find? (fun a => n ≠ 0 && a.cl == s.cur.cl && a.cueerr = n && mayCueLoad s s.curRole.asid.toNat a)

theorem rdP_free {s : State} {n : Nat} (hd : ∀ a ∈ seenAcc s.curRole, Dest.p n ∉ a.dests) (hc : setsPred s n = none) :
    Reads (rdP n) s (if n = 0 then allOnes else mget 0 (seenPs s.curRole) n) := by
  unfold setsPred at hc
  unfold Reads rdP
  rw [bind_ok (chkDest_free (find_dest_none hd)), bind_ok (getSt_run s), bind_ok (getRole_run s), hc]
  rfl

theorem needAcc_run (r : Role) (a : Access) (s : State) :
    needAcc r a s = .error (if a.stat.open_ then .wait else .deferred (faultBehind r a)) := by
  unfold needAcc
  split <;> rfl

theorem rdP_held {s : State} {n : Nat} {a : Access} (hd : ∀ b ∈ seenAcc s.curRole, Dest.p n ∉ b.dests)
    (hc : setsPred s n = some a) :
    rdP n s = .error (if a.stat.open_ then .wait else .deferred (faultBehind s.curRole a)) := by
  unfold setsPred at hc
  unfold rdP
  rw [bind_ok (chkDest_free (find_dest_none hd)), bind_ok (getSt_run s), bind_ok (getRole_run s), hc]
  exact bind_error (needAcc_run ..)

theorem setsPred_zero (s : State) : setsPred s 0 = none := by simp [setsPred]

/-- R50, R61: the guard P0, inverted where GN is set. -/
theorem reads_guardS_p0 {s : State} {h : Hdr} (hd : ∀ a ∈ seenAcc s.curRole, Dest.p 0 ∉ a.dests) (hg : h.g = 0) :
    Reads (guardS h) s (!h.gn) := by
  have hp : Reads (rdP h.g.toNat) s allOnes := by
    rw [hg]
    exact rdP_free hd (setsPred_zero s)
  refine (bind_ok (bind_ok hp)).trans ?_
  cases h.gn <;> simp [allOnes]

/-- R58: the head of a queue, with no request to fill it. -/
theorem qHead_cons {s : State} {n : Nat} {e : QEnt} {t : List QEnt} (hs : s.curRole.snap = none)
    (hq : qList s.curRole.qs n = e :: t) (hp : e.pend = none) :
    qHead n s = if s.cycle < e.at_ + 2 then .error .wait else .ok (e.val, s) := by
  unfold qHead
  rw [bind_ok (getSt_run s), bind_ok (getRole_run s), seenQs_alone hs, hq]
  simp only [hp]
  split <;> rfl
theorem qHead_nil {s : State} {n : Nat} (hs : s.curRole.snap = none) (hq : qList s.curRole.qs n = []) :
    qHead n s = .error .wait := by
  unfold qHead
  rw [bind_ok (getSt_run s), bind_ok (getRole_run s), seenQs_alone hs, hq]
  rfl

theorem bitVec_toNat_ne_zero {w : Nat} {n : BitVec w} (h : n ≠ 0) : n.toNat ≠ 0 :=
  fun e => h (BitVec.eq_of_toNat_eq e)

/-- Settles O5: a read looks at the requests in flight, then at the register, or at the head of the queue. -/
theorem operandReads : Obligations.OperandReads := by
  unfold Obligations.OperandReads
  intro s
  refine ⟨fun n hd hs => ?_, fun c => rfl, rfl, rfl, rfl, rfl, fun hc => ?_, fun hc => ?_, fun hl => ?_,
    fun n e t hs hq hp hat => ?_, fun n hs hq => bind_error (qHead_nil hs hq), fun n e t hs hq hp hat => bind_error ?_,
    fun h hd hg => reads_guardS_p0 hd hg, fun n hd hn hs hc => ?_, fun n a hd hn hs ha hcl hce hmay => ?_⟩
  · have hread := rdX_free (n := n.toNat) (by rwa [seenAcc_alone hs])
    rwa [seenXs_alone hs] at hread
  · show Except.ok (BitVec.ofNat 64 s.dtime, s) = _
    rw [State.dtime, if_pos hc]
  · show Except.ok (BitVec.ofNat 64 s.dtime, s) = _
    rw [State.dtime, if_neg (by simp [hc])]
    rfl
  · show Except.ok (BitVec.ofNat 64 (iterOf s.clu), s) = _
    rw [iterOf, hl]
    rfl
  · exact bind_ok ((qHead_cons hs hq hp).trans (if_neg (by omega)))
  · exact (qHead_cons hs hq hp).trans (if_pos hat)
  · have hnone : setsPred s n.toNat = none := by
      rw [setsPred, seenAcc_alone hs, List.find?_eq_none]
      intro a ha htest
      simp only [Bool.and_eq_true, beq_iff_eq, decide_eq_true_eq] at htest
      obtain ⟨⟨⟨-, hcl⟩, hce⟩, hmay⟩ := htest
      exact Bool.false_ne_true ((hc a ha hcl hce).symm.trans hmay)
    have hread := rdP_free (by rwa [seenAcc_alone hs]) hnone
    rwa [seenPs_alone hs] at hread
  · have hsome : setsPred s n.toNat = some a := by
      rw [setsPred, seenAcc_alone hs, ha]
      simp [hcl, hce, hmay, bitVec_toNat_ne_zero hn]
    rw [rdP_held (by rwa [seenAcc_alone hs]) hsome]
    split <;> rfl

end Sys2Proof.Machine
end

section
/-! ### What operands change (R53, R56 to R58, R60, R61, R68) -/
namespace Sys2Proof.Machine

/-- Only the current role differs, and nothing outside the roles. -/
structure OnlyCur (s t : State) : Prop where
  rest : t = { s with roles := t.roles }
  others : ∀ k, k ≠ s.curKey → t.role k = s.role k

theorem OnlyCur.refl (s : State) : OnlyCur s s := ⟨rfl, fun _ _ => rfl⟩
theorem OnlyCur.curKey {s t : State} (h : OnlyCur s t) : t.curKey = s.curKey := by
  rw [State.curKey, h.rest]
  rfl
theorem OnlyCur.trans {s t u : State} (h : OnlyCur s t) (h' : OnlyCur t u) : OnlyCur s u where
  rest := by
    have hu := h'.rest
    rw [h.rest] at hu
    exact hu
  others k hk := (h'.others k (h.curKey ▸ hk)).trans (h.others k hk)
theorem onlyCur_setRole (s : State) (r : Role) : OnlyCur s (s.setRole s.curKey r) :=
  ⟨rfl, fun _ hk => role_setRole_other _ _ _ _ hk⟩

theorem overtake_eq (r : Role) (d : Dest) : r.overtake d = { r with acc := (r.overtake d).acc } := by
  unfold Role.overtake
  split <;> rfl
theorem setX_overtake (r : Role) (d : Dest) (n : Nat) (v : Word) :
    (r.overtake d).setX n v = { r with xs := ((r.overtake d).setX n v).xs, acc := (r.overtake d).acc } := by
  unfold Role.overtake
  split <;> rfl
theorem setP_overtake (r : Role) (d : Dest) (n : Nat) (v : Pred) :
    (r.overtake d).setP n v = { r with ps := ((r.overtake d).setP n v).ps, acc := (r.overtake d).acc } := by
  unfold Role.overtake Role.setP
  split <;> split <;> rfl

theorem wrX_free {s : State} {n : Nat} {v : Word} (hd : ∀ a ∈ seenAcc s.curRole, Dest.x n ∉ a.dests) :
    Does (wrX n v) s (s.setRole s.curKey ((s.curRole.overtake (.x n)).setX n v)) :=
  bind_ok (chkDest_free (find_dest_none hd))
theorem wrP_free {s : State} {n : Nat} {v : Pred} (hd : ∀ a ∈ seenAcc s.curRole, Dest.p n ∉ a.dests) :
    Does (wrP n v) s (s.setRole s.curKey ((s.curRole.overtake (.p n)).setP n v)) :=
  bind_ok (chkDest_free (find_dest_none hd))

theorem x_setX (r : Role) (n m : Nat) (v : Word) : (r.setX n v).x m = if m = n then v else r.x m := mget_mset ..
theorem p_setP {n : Nat} (hn : n ≠ 0) (r : Role) (m : Nat) (v : Pred) : (r.setP n v).p m = if m = n then v else r.p m := by
  unfold Role.p
  rw [Role.setP, if_neg hn]
  by_cases hm : m = 0
  · rw [if_pos hm, if_pos hm, if_neg (hm ▸ Ne.symm hn)]
  · rw [if_neg hm, if_neg hm]
    exact mget_mset ..
theorem qList_setQ (r : Role) (q j : Nat) (l : List QEnt) :
    qList (r.setQ q l).qs j = if j = q then l else qList r.qs j := mget_mset ..

theorem qRoom_run {s : State} {q : Nat} (hs : s.curRole.snap = none) (hp : ∀ e ∈ qList s.curRole.qs q, e.pend = none) :
    qRoom q s = waitIf (qDepth q ≤ (qList s.curRole.qs q).length) s := by
  have hnone : (qList s.curRole.qs q).findSome? (fun e => e.pend.bind (fun id =>
      s.curRole.acc.find? (fun a => a.id = id && !a.stat.open_))) = none :=
    List.findSome?_eq_none_iff.mpr fun e he => by rw [hp e he]; rfl
  unfold qRoom
  rw [bind_ok (getRole_run s), hnone, seenQs_alone hs]

theorem pushOrdered_quiet {s : State} (ha : s.curRole.acc = []) : pushOrdered s = .ok ((), s) := by
  unfold pushOrdered
  rw [bind_ok (getSt_run s), bind_ok (getRole_run s), ha]
  rfl

theorem qPush_room {s : State} {q : Nat} {v : Row} (hs : s.curRole.snap = none)
    (hp : ∀ e ∈ qList s.curRole.qs q, e.pend = none) (ha : s.curRole.acc = [])
    (hroom : (qList s.curRole.qs q).length < qDepth q) :
    Does (qPush q v) s (s.setRole s.curKey (s.curRole.setQ q (qList s.curRole.qs q ++ [⟨s.cycle, v, none⟩]))) := by
  have hr : qRoom q s = .ok ((), s) := by
    rw [qRoom_run hs hp, decide_eq_false (by omega)]
    rfl
  exact (bind_ok hr).trans ((bind_ok (pushOrdered_quiet ha)).trans (bind_ok (getSt_run s)))

theorem qDepth_scalar (n : BitVec 3) : qDepth n.toNat = 16 := if_pos n.isLt

/-! Marks pop each queue once. -/

theorem mem_uniq_iff (l : List Nat) (x : Nat) : x ∈ uniq l ↔ x ∈ l := by
  induction l with
  | nil => rfl
  | cons h t ih =>
    rw [uniq, List.mem_cons, List.mem_filter, ih, List.mem_cons]
    by_cases hx : x = h <;> simp [hx]
theorem nodup_uniq (l : List Nat) : (uniq l).Nodup := by
  induction l with
  | nil => exact List.nodup_nil
  | cons h t ih =>
    rw [uniq, List.nodup_cons]
    exact ⟨by simp, ih.filter _⟩

theorem mem_marked (ms : List Mk) (q : Nat) : q ∈ marked ms ↔ (some q, true) ∈ ms := by
  rw [marked, mem_uniq_iff, List.mem_filterMap]
  constructor
  · rintro ⟨⟨o, b⟩, hm, hsome⟩
    cases b with
    | false => cases hsome
    | true => exact (show o = some q from hsome) ▸ hm
  · exact fun hm => ⟨_, hm, rfl⟩

/-- What the pops of the queues l do to the current role. -/
structure Popped (l : List Nat) (s t : State) : Prop where
  only : OnlyCur s t
  role : t.curRole = { s.curRole with qs := t.curRole.qs }
  qs : ∀ q, qList t.curRole.qs q = if q ∈ l then (qList s.curRole.qs q).drop 1 else qList s.curRole.qs q

theorem popAll_run {l : List Nat} (hl : l.Nodup) (s : State) : ∃ t, Does (popAll l) s t ∧ Popped l s t := by
  induction l generalizing s with
  | nil => exact ⟨s, rfl, .refl s, rfl, fun q => by simp⟩
  | cons q l ih =>
    obtain ⟨hq, hl⟩ := List.nodup_cons.mp hl
    let u := s.setRole s.curKey (s.curRole.setQ q ((qList s.curRole.qs q).drop 1))
    have hcur : u.curRole = s.curRole.setQ q ((qList s.curRole.qs q).drop 1) := curRole_setRole ..
    obtain ⟨t, ht, honly, hrole, hqs⟩ := ih hl u
    refine ⟨t, (bind_ok (modRole_run _ s)).trans ht, (onlyCur_setRole ..).trans honly, ?_, fun j => ?_⟩
    · rw [hcur] at hrole
      exact hrole
    · rw [hqs, hcur, qList_setQ]
      by_cases hj : j = q
      · subst hj
        simp [hq]
      · simp [hj]

theorem popMarks_run (ms : List Mk) (s : State) : ∃ t, Does (popMarks ms) s t ∧ Popped (marked ms) s t :=
  popAll_run (nodup_uniq _) s

/-- Settles O6: a write puts the register of the current role, past the requests that an earlier member sent; a push appends an
entry; the marked queues are each popped once. -/
theorem operandWrites : Obligations.OperandWrites := by
  unfold Obligations.OperandWrites
  intro s
  refine ⟨fun n v hd => ?_, fun n v hn hd => ?_, fun n v hs hp ha hroom => ?_, fun n v hs hp hfull => ?_, fun ms => ?_⟩
  · have honly := onlyCur_setRole s ((s.curRole.overtake (.x n.toNat)).setX n.toNat v)
    refine ⟨_, wrX_free hd, honly.rest, ?_, honly.others, fun m => ?_⟩
    · rw [curRole_setRole]
      exact setX_overtake ..
    · rw [curRole_setRole, x_setX, overtake_eq]
      rfl
  · have honly := onlyCur_setRole s ((s.curRole.overtake (.p n.toNat)).setP n.toNat v)
    have hn0 := bitVec_toNat_ne_zero hn
    refine ⟨_, wrP_free hd, honly.rest, ?_, honly.others, fun m => ?_⟩
    · rw [curRole_setRole]
      exact setP_overtake ..
    · rw [curRole_setRole, p_setP hn0, overtake_eq]
      rfl
  · have honly := onlyCur_setRole s
      (s.curRole.setQ n.toNat (qList s.curRole.qs n.toNat ++ [⟨s.cycle, v.setWidth 4096, none⟩]))
    refine ⟨_, qPush_room hs hp ha (by rwa [qDepth_scalar]), honly.rest, ?_, honly.others, fun q => ?_⟩
    · rw [curRole_setRole]
      rfl
    · rw [curRole_setRole, qList_setQ]
      split
      · next e => subst e; rfl
      · rfl
  · refine bind_error ?_
    rw [qRoom_run hs hp, qDepth_scalar, decide_eq_true hfull]
    rfl
  · obtain ⟨t, ht, honly, hrole, hqs⟩ := popMarks_run ms s
    refine ⟨t, ht, honly.rest, hrole, honly.others, fun q => ?_⟩
    rw [hqs]
    simp only [mem_marked]

end Sys2Proof.Machine
end

section
/-! ### Fetch, decode and turns (R83, R99, R104, R105, R374, R391; log 1) -/
namespace Sys2Proof.Machine

/-- The words that a cluster decodes where it fetches w at pc: a nest record's eight, or the syllable alone (R83, R217). -/
def wordsAt (st : State) (k : Nat) (asid : Nat) (c : Clu) (pc w : Word) : List Word :=
  if (majOf w).toNat = 0x30 then w :: codeWords st (k / 4) asid (pc + 8) 7 else [rewritten c w]

theorem head_misaligned {s : State} {k : Nat} {c : Cluster} (h8 : ((s.role k).clu c).pc.toNat % 8 ≠ 0) :
    head s k c = .trap s tTGT ((s.role k).clu c).pc 0 := if_pos h8
theorem head_noncanonical {s : State} {k : Nat} {c : Cluster} (h8 : ((s.role k).clu c).pc.toNat % 8 = 0)
    (hc : canonical ((s.role k).clu c).pc = false) : head s k c = .trap s tPROT ((s.role k).clu c).pc exactI1 := by
  simp [head, h8, hc]
theorem head_unread {s : State} {k : Nat} {c : Cluster} {code : Nat} {i1 : Word}
    (h8 : ((s.role k).clu c).pc.toNat % 8 = 0) (hc : canonical ((s.role k).clu c).pc = true)
    (hr : readAt s (k / 4) (s.role k) ((s.role k).clu c).pc .fetch 8 = .error (code, i1)) :
    head s k c = .trap s code ((s.role k).clu c).pc i1 := by
  simp [head, h8, hc, hr]
theorem head_read {s st : State} {k : Nat} {c : Cluster} {pa : Nat}
    (h8 : ((s.role k).clu c).pc.toNat % 8 = 0) (hc : canonical ((s.role k).clu c).pc = true)
    (hr : readAt s (k / 4) (s.role k) ((s.role k).clu c).pc .fetch 8 = .ok (pa, st)) :
    head s k c = headOf st c ((s.role k).clu c).pc (st.memWord pa)
      (wordsAt st k (s.role k).asid.toNat ((s.role k).clu c) ((s.role k).clu c).pc (st.memWord pa)) := by
  by_cases hm : (majOf (st.memWord pa)).toNat = 0x30 <;> simp [head, h8, hc, hr, wordsAt, hm]

/-- What a cluster that has a turn does with what stands at its head. -/
theorem step_turn {s u : State} {n : Nat} {c : Cur} {rest : List Turn} (hs : s.sched = { dt := n, what := .syl c } :: rest)
    (hu : u = { ({ s with sched := rest } : State).toTurn { dt := n, what := .syl c } with cur := c }) :
    step s = issueHead u := by
  rw [step, hs, hu]
  rfl
theorem issueHead_trap {u st : State} {c : Nat} {i0 i1 : Word} (hl : u.curLive = true)
    (hh : head u u.curKey u.cur.cl = .trap st c i0 i1) : issueHead u = .next (takeTrap st c i0 i1) := by
  rw [issueHead, if_neg (by simp [hl]), hh]
theorem issueHead_instr {u st : State} {i : Instr} (hl : u.curLive = true)
    (hh : head u u.curKey u.cur.cl = .instr st i) : issueHead u = exec i st := by
  rw [issueHead, if_neg (by simp [hl]), hh]

/-- R83, R99, R105: what a cluster does with the words ws at pc, of which w is the first. -/
theorem issueHead_headOf {u st : State} {pc w : Word} {ws : List Word} (hl : u.curLive = true)
    (hh : head u u.curKey u.cur.cl = headOf st u.cur.cl pc w ws) :
    (∀ i, decodeFor u.cur.cl ws = .instr i → ((majOf w).toNat = 0x30 → pc.toNat % 64 = 0) → issueHead u = exec i st) ∧
    (decodeFor u.cur.cl ws = .illegalSyllable → issueHead u = .next (takeTrap st 0x01 w 0)) ∧
    (decodeFor u.cur.cl ws = .illegalCluster → issueHead u = .next (takeTrap st 0x02 w 0)) ∧
    (∀ k, decodeFor u.cur.cl ws = .illegalNest k → pc.toNat % 64 = 0 →
      issueHead u = .next (takeTrap st 0x04 w (BitVec.ofNat 64 k))) ∧
    ((majOf w).toNat = 0x30 → pc.toNat % 64 ≠ 0 → decodeFor u.cur.cl ws ≠ .illegalSyllable →
      decodeFor u.cur.cl ws ≠ .illegalCluster → issueHead u = .next (takeTrap st 0x04 w 7)) := by
  unfold headOf at hh
  refine ⟨fun i hd h64 => issueHead_instr hl ?_, fun hd => issueHead_trap hl ?_, fun hd => issueHead_trap hl ?_,
    fun k hd h64 => issueHead_trap hl ?_, fun hm h64 hsyl hclu => issueHead_trap hl ?_⟩
  · rw [hd] at hh
    exact hh.trans (if_neg (by simpa using h64))
  · rwa [hd] at hh
  · rwa [hd] at hh
  · rw [hd] at hh
    exact hh.trans (congrArg (Head.trap st tNEST w) (if_neg (by simpa using h64)))
  · rw [hh]
    split
    · exact if_pos (by simp [hm, h64])
    · exact absurd ‹_› hsyl
    · exact absurd ‹_› hclu
    · rw [if_pos h64]
      rfl

theorem readAt_error {s : State} {core : Nat} {r : Role} {va : Word} {want : Want} {n c : Nat}
    (ht : translate s core r.asid.toNat va want = .error c) : readAt s core r va want n = .error (c, exactInfo c) := by
  rw [readAt, ht]
theorem readAt_barred {s : State} {core : Nat} {r : Role} {va : Word} {want : Want} {n : Nat} {x : Xlat}
    (ht : translate s core r.asid.toNat va want = .ok x) (hb : x.attr = 3 ∨ paRegion x.pa = 4 ∨ inGroup r x.pa = false) :
    readAt s core r va want n = .error (tPROT, exactI1) := by
  rw [readAt, ht]
  exact if_pos (by simpa [or_assoc] using hb)
theorem readAt_linked {s : State} {core : Nat} {r : Role} {va : Word} {want : Want} {n : Nat} {x : Xlat}
    (ht : translate s core r.asid.toNat va want = .ok x) (ha : x.attr ≠ 3) (h4 : paRegion x.pa ≠ 4) (hg : inGroup r x.pa = true) :
    readAt s core r va want n = if linkUp s r x.pa then
      (if memPoisoned x.st x.pa n then .error (tPOISON, exactI1) else .ok (x.pa, x.st)) else .error (tPOISON, 0xFFFE) := by
  rw [readAt, ht]
  cases hl : linkUp s r x.pa <;> simp [ha, h4, hg, hl]
theorem inGroup_own {r : Role} {pa : Nat} (h : paRegion pa ≤ 1) : inGroup r pa = true := by
  have h2 : ¬ paRegion pa = 2 := by omega
  have h3 : ¬ paRegion pa = 3 := by omega
  simp [inGroup, h2, h3]
theorem linkUp_own {s : State} {r : Role} {pa : Nat} (h : paRegion pa ≤ 1) : linkUp s r pa = true := by
  have h2 : ¬ 2 ≤ paRegion pa := by omega
  simp [linkUp, h2]

theorem toTurn_now (s : State) (w : What) : s.toTurn { dt := 0, what := w } =
    (if s.follows (orderOf s w) then s else s.pass 1).mark (orderOf s w) := rfl

theorem mfind_map_keyed {α : Type} (f : Nat → α → α) (m : SMap α) (k : Nat) :
    mfind (m.map (fun p => (p.1, f p.1 p.2))) k = (mfind m k).map (f k) := by
  induction m with
  | nil => rfl
  | cons x t ih =>
    simp only [List.map_cons, mfind]
    split
    · next e => rw [e]; rfl
    · exact ih

/-- R54: the role of key k as n cycles pass. -/
def watched (s : State) (n k : Nat) (r : Role) : Role :=
  if r.st == .running && !quiet s k then { r with lastAct := s.cycle + n - 1 } else r
theorem watched_eq (s : State) (n k : Nat) (r : Role) :
    watched s n k r = { r with lastAct := if r.st = .running ∧ quiet s k = false then s.cycle + n - 1 else r.lastAct } := by
  unfold watched
  by_cases h : r.st = .running ∧ quiet s k = false
  · rw [if_pos (by simpa using h), if_pos h]
  · rw [if_neg (by simpa using h), if_neg h]
theorem pass_streamless {s : State} {n : Nat} (hn : 0 < n) (hs : s.strms = []) :
    s.pass n = { s with roles := s.roles.map (fun x => (x.1, watched s n x.1 x.2)), cycle := s.cycle + n, seen := [] } := by
  have hidle : idleTests (watchRoles s n) n = watchRoles s n := if_pos hs
  rw [State.pass, if_neg (by omega), hidle]
  rfl

/-- Settles O57: a step with a turn unfolds to what stands at the head of its cluster, which the fetch and the decoder
determine; the other clauses say how cycles pass and which step is due. -/
theorem stepRunsDecoded : Obligations.StepRunsDecoded := by
  unfold Obligations.StepRunsDecoded
  refine ⟨?_, ?_, ?_, ?_, ?_, ?_, ?_⟩
  · intro s u n c rest hs hu hl pc
    rw [step_turn hs hu]
    refine ⟨?_, ?_, ?_⟩
    · exact fun h8 => issueHead_trap hl (head_misaligned h8)
    · exact fun h8 hc => issueHead_trap hl (head_noncanonical h8 hc)
    · refine fun h8 hc => ⟨fun code i1 hr => issueHead_trap hl (head_unread h8 hc hr), fun pa st hr => ?_⟩
      exact issueHead_headOf hl (head_read h8 hc hr)
  · intro s core r va n x
    refine ⟨fun c ht => readAt_error ht, fun ht => ⟨readAt_barred ht, fun ha h4 hg hl => ?_, fun ha h1 => ?_⟩⟩
    · rw [readAt_linked ht ha h4 hg, hl]
      rfl
    · rw [readAt_linked ht ha (by omega) (inGroup_own h1), linkUp_own h1]
      rfl
  · intro s t i rest hs ht
    rw [step, hs]
    simp only [ht]
    rfl
  · intro s w h
    rw [toTurn_now, if_pos h]
  · intro s w h
    rw [toTurn_now, if_neg (by simp [h])]
  · intro s n hn hs
    refine ⟨_, pass_streamless hn hs, fun k r hk => ?_⟩
    rw [mfind_map_keyed (watched s n), hk, ← watched_eq]
    rfl
  · intro s u hs hu
    have hfree : step s = freeStep u := by rw [step, hs, hu]
    refine ⟨fun d hd => ?_, fun hd => ?_⟩
    · rw [hfree, freeStep, hd]
    · rw [hfree, freeStep, hd]
      rfl

end Sys2Proof.Machine
end

section
/-! ### Every step ends in a next state (R46, R48, R351) -/
namespace Sys2Proof.Machine

/-- A syllable's meaning is the issue of its body. -/
theorem exec_issueOf {i : Instr} {n : Nat} {b : Bool} {body : Iss Flow} (h : issueOf i = some (n, b, body)) (s : State) :
    exec i s = issueN n b body s := by
  cases i <;> cases h <;> rfl

/-- An issuing syllable of a live cluster commits, waits or stops its role. -/
theorem issueN_goes {s : State} (hl : s.curLive = true) (n : Nat) (b : Bool) (body : Iss Flow) :
    ∃ t, issueN n b body s = .next t := by
  unfold issueN
  rw [if_neg (by simp [hl])]
  split <;> exact ⟨_, rfl⟩

/-! The steps of the part that look at their case before they answer. -/

theorem execNestStepCommit_goes (rs : Slot) (s : State) : ∃ t, execNestStepCommit rs s = .next t := by
  unfold execNestStepCommit
  extract_lets k u
  split
  · exact ⟨_, rfl⟩
  · split
    · exact ⟨_, rfl⟩
    · split
      · exact ⟨_, rfl⟩
      · split <;> exact ⟨_, rfl⟩
theorem execNestRetire_goes (rs : Slot) (s : State) : ∃ t, execNestRetire rs s = .next t := by
  unfold execNestRetire
  dsimp only
  split
  · exact ⟨_, rfl⟩
  · split <;> exact ⟨_, rfl⟩
theorem execMsgDelivery_goes (core : BitVec 8) (k : Nat) (s : State) : ∃ t, execMsgDelivery core k s = .next t := by
  unfold execMsgDelivery
  dsimp only
  split
  · exact ⟨_, rfl⟩
  · split <;> exact ⟨_, rfl⟩
theorem execCueLoadResend_goes (r : Slot) (id : Nat) (s : State) : ∃ t, execCueLoadResend r id s = .next t := by
  unfold execCueLoadResend
  split
  · split <;> exact ⟨_, rfl⟩
  · exact ⟨_, rfl⟩
theorem execDeepwait_goes (r : Slot) (id : Nat) (s : State) : ∃ t, execDeepwait r id s = .next t := by
  unfold execDeepwait
  dsimp only
  split
  · split <;> exact ⟨_, rfl⟩
  · exact ⟨_, rfl⟩
theorem execPendingTouchTake_goes (sl : Nat) (s : State) : ∃ t, execPendingTouchTake sl s = .next t := by
  unfold execPendingTouchTake
  split <;> exact ⟨_, rfl⟩
theorem execPrompterQueueDispatch_goes (sl : Nat) (s : State) : ∃ t, execPrompterQueueDispatch sl s = .next t := by
  unfold execPrompterQueueDispatch
  dsimp only
  split
  · exact ⟨_, rfl⟩
  · split
    · exact ⟨_, rfl⟩
    · split <;> exact ⟨_, rfl⟩
theorem execCurtainArrivalDispatch_goes (s : State) : ∃ t, execCurtainArrivalDispatch s = .next t := by
  unfold execCurtainArrivalDispatch
  split
  · exact ⟨_, rfl⟩
  · split
    · exact ⟨_, rfl⟩
    · split <;> exact ⟨_, rfl⟩
theorem execStopRecord_goes (rs : Slot) (s : State) : ∃ t, execStopRecord rs s = .next t := by
  unfold execStopRecord
  dsimp only
  split
  · exact ⟨_, rfl⟩
  · split <;> exact ⟨_, rfl⟩
theorem execStopReportPost_goes (rs : Slot) (s : State) : ∃ t, execStopReportPost rs s = .next t := by
  unfold execStopReportPost
  dsimp only
  split
  · exact ⟨_, rfl⟩
  · split <;> exact ⟨_, rfl⟩

/-- A step that is no syllable answers a next state, whoever is live: but for those above it is `.next` of a state outright. -/
theorem exec_event_goes {i : Instr} (h : issueOf i = none) (s : State) : ∃ t, exec i s = .next t := by
  cases i <;> cases h
  case nestStepCommit r => exact execNestStepCommit_goes r s
  case nestRetire r => exact execNestRetire_goes r s
  case msgDelivery core k => exact execMsgDelivery_goes core k s
  case cueLoadResend r k => exact execCueLoadResend_goes r k s
  case deepwait r k => exact execDeepwait_goes r k s
  case pendingTouchTake n => exact execPendingTouchTake_goes n s
  case prompterQueueDispatch n => exact execPrompterQueueDispatch_goes n s
  case curtainArrivalDispatch => exact execCurtainArrivalDispatch_goes s
  case stopRecord r => exact execStopRecord_goes r s
  case stopReportPost r => exact execStopReportPost_goes r s
  all_goals exact ⟨_, rfl⟩

theorem exec_goes {s : State} (hl : s.curLive = true) (i : Instr) : ∃ t, exec i s = .next t := by
  rcases hi : issueOf i with _ | ⟨n, b, body⟩
  · exact exec_event_goes hi s
  · rw [exec_issueOf hi]
    exact issueN_goes hl n b body

theorem due_goes (d : Due) (s : State) : ∃ t, d.run s = .next t := by
  cases d with
  | nestStepCommit r => exact execNestStepCommit_goes r s
  | nestRetire r => exact execNestRetire_goes r s
  | msgDelivery core k => exact execMsgDelivery_goes core k s
  | cueLoadResend r k => exact execCueLoadResend_goes r k s
  | deepwait r k => exact execDeepwait_goes r k s
  | pendingTouchTake n => exact execPendingTouchTake_goes n s
  | prompterQueueDispatch n => exact execPrompterQueueDispatch_goes n s
  | curtainArrivalDispatch => exact execCurtainArrivalDispatch_goes s
  | stopRecord r => exact execStopRecord_goes r s
  | stopReportPost r => exact execStopReportPost_goes r s
  | _ => exact ⟨_, rfl⟩

/-! A fetch leaves everything but the table entry that it goes through as it was, and so who is live. -/

/-- Nothing differs but memory bytes and what cores have cached of page tables: what a walk can change (R373, R377). -/
def OnlyWalk (s t : State) : Prop := t = { s with mem := t.mem, tlb := t.tlb }

theorem OnlyWalk.refl (s : State) : OnlyWalk s s := rfl
theorem OnlyWalk.trans {s t u : State} (h : OnlyWalk s t) (h' : OnlyWalk t u) : OnlyWalk s u := by
  unfold OnlyWalk at h h' ⊢
  rw [h] at h'
  exact h'
theorem OnlyWalk.onlyMemory {s t : State} (h : OnlyWalk s t) : OnlyMemory s t := by
  unfold OnlyMemory
  rw [h]

theorem OnlyWalk.tile {s t : State} (h : OnlyWalk s t) : t.tile = s.tile := by rw [h]

theorem onlyWalk_useLeaf {s : State} {core asid : Nat} {p : Partition} {gen : BitVec 16} {va : Word} {want : Want} {l : Leaf} {x : Xlat}
    (h : useLeaf s core p asid gen va want l = .ok x) : OnlyWalk s x.st := by
  unfold useLeaf at h
  extract_lets e frame attr okPerm region pa at h
  iterate 8
    split at h
    · nomatch h
  cases h
  dsimp only
  split <;> rfl
theorem onlyWalk_translateW {s : State} {core asid : Nat} {gen : BitVec 16} {va : Word} {want : Want} {x : Xlat}
    (h : translateW s core asid gen va want = .ok x) : OnlyWalk s x.st := by
  unfold translateW at h
  split at h
  · exact onlyWalk_useLeaf h
  · nomatch h
theorem onlyWalk_translate {s : State} {core asid : Nat} {va : Word} {want : Want} {x : Xlat}
    (h : translate s core asid va want = .ok x) : OnlyWalk s x.st := by
  unfold translate translateG at h
  split at h
  · split at h
    · exact onlyWalk_useLeaf h
    · exact onlyWalk_translateW h
  · exact onlyWalk_translateW h

/-- A read that is no access goes through a translation, whose state it leaves. -/
theorem readAt_ok {s st : State} {core : Nat} {r : Role} {va : Word} {want : Want} {n pa : Nat}
    (h : readAt s core r va want n = .ok (pa, st)) : ∃ x, translate s core r.asid.toNat va want = .ok x ∧ x.pa = pa ∧ x.st = st := by
  unfold readAt at h
  split at h
  · nomatch h
  · next x hx =>
    iterate 3
      split at h
      · nomatch h
    cases h
    exact ⟨x, hx, rfl, rfl⟩
theorem onlyWalk_readAt {s st : State} {core : Nat} {r : Role} {va : Word} {want : Want} {n pa : Nat}
    (h : readAt s core r va want n = .ok (pa, st)) : OnlyWalk s st := by
  obtain ⟨x, hx, -, rfl⟩ := readAt_ok h
  exact onlyWalk_translate hx

theorem headOf_instr {s st : State} {c : Cluster} {pc w : Word} {ws : List Word} {i : Instr}
    (h : headOf s c pc w ws = .instr st i) : st = s := by
  unfold headOf at h
  split at h
  · split at h
    · nomatch h
    · cases h; rfl
  · nomatch h
  · nomatch h
  · nomatch h

theorem onlyWalk_head {s st : State} {k : Nat} {c : Cluster} {i : Instr} (h : head s k c = .instr st i) :
    OnlyWalk s st := by
  unfold head at h
  extract_lets r clu pc at h
  split at h
  · nomatch h
  · split at h
    · nomatch h
    · split at h
      · nomatch h
      · next pa u hu =>
        dsimp only at h
        split at h
        · exact headOf_instr h ▸ onlyWalk_readAt hu
        · exact headOf_instr h ▸ onlyWalk_readAt hu

theorem OnlyMemory.curLive {s t : State} (h : OnlyMemory s t) : t.curLive = s.curLive := h.eq State.curLive

theorem issueHead_goes (s : State) : ∃ t, issueHead s = .next t := by
  cases hl : s.curLive with
  | false => exact ⟨s, by rw [issueHead, hl]; rfl⟩
  | true =>
    rcases hh : head s s.curKey s.cur.cl with ⟨st, c, i0, i1⟩ | ⟨st, i⟩
    · exact ⟨_, issueHead_trap hl hh⟩
    · rw [issueHead_instr hl hh]
      exact exec_goes ((onlyWalk_head hh).onlyMemory.curLive.trans hl) i

/-- Settles O53: a body ends in a commit, a wait or a stop, each of which is a next state; what the part does by itself is
one outright. -/
theorem machineGoesOn : Obligations.MachineGoesOn := by
  unfold Obligations.MachineGoesOn
  refine ⟨fun i s hl => exec_goes hl i, fun s n c rest hs => ?_, fun s hs => ?_⟩
  · rw [step_turn hs rfl]
    exact issueHead_goes _
  · have hfree : step s = freeStep (s.pass 1) := by rw [step, hs]
    rw [hfree, freeStep]
    split
    · next d _ => exact due_goes d _
    · obtain ⟨t, ht⟩ := issueHead_goes (s.pass 1)
      exact ⟨rotateCur t, by rw [ht]; rfl⟩

end Sys2Proof.Machine
end

section
/-! ### Barriers, messages and spawns (R259 to R264) -/
namespace Sys2Proof.Machine

theorem clu_setRole_of {s : State} {r : Role} (h : ∀ c, r.clu c = s.curRole.clu c) : (s.setRole s.curKey r).clu = s.clu := by
  rw [State.clu, curRole_setRole, h]
  rfl

/-- A syllable without marks, its guard true, that does what f does. -/
theorem guardTrue_run {h : Hdr} {f : Iss Flow} {s : State} (hg : Reads (guardS h) s true) :
    (do let g ← guardS h; if g then f else pure .fall : Iss Flow) s = f s := (bind_ok hg).trans rfl

theorem levelChk_used {s : State} {lev : Nat} (hu : levelUsed (mget 0 s.curRole.levels lev) = true) :
    levelChk lev s = .ok ((), s) := by
  unfold levelChk
  rw [bind_ok (getRole_run s), hu]
  rfl
theorem illegal_run (s : State) : ∃ w, (illegal : Iss Unit) s = .error (.trap tSYL w 0) := by
  unfold illegal sylWord
  exact ⟨_, rfl⟩
theorem levelChk_unused {s : State} {lev : Nat} (hu : levelUsed (mget 0 s.curRole.levels lev) = false) :
    ∃ w, levelChk lev s = .error (.trap tSYL w 0) := by
  obtain ⟨w, hw⟩ := illegal_run s
  refine ⟨w, ?_⟩
  unfold levelChk
  rw [bind_ok (getRole_run s), hu]
  exact hw

theorem releaseOrdered_quiet {s : State} (h : ∀ b ∈ s.curRole.acc, b.cl = s.cur.cl → b.stat.unperformed = false) :
    releaseOrdered s = .ok ((), s) := by
  have hnone : s.curRole.acc.any (fun a => a.cl == s.cur.cl && a.stat.unperformed) = false := by
    simpa [List.any_eq_false] using h
  unfold releaseOrdered
  rw [bind_ok (getSt_run s), hnone]
  rfl

/-! R260: what the settling of a level comes to, by the counts of arrivals, waits and generations. -/

theorem barSettle_eq {s : State} {lev : Nat} (hs : s.curRole.snap = none) :
    barSettle lev s =
      if mget 0 s.curRole.barW lev < mget 0 s.curRole.barA lev then
        if s.barDone s.curRole.part.toNat s.curRole.lid.toNat lev (instOf s.curRole s.curKey lev) < mget 0 s.curRole.barA lev then
          .error .wait
        else .ok ((), s.setRole s.curKey { s.curRole with barW := mput s.curRole.barW lev (mget 0 s.curRole.barA lev) })
      else .ok ((), s) := by
  have hA : seenBarA s.curRole = s.curRole.barA := by rw [seenBarA, hs]
  have hW : seenBarW s.curRole = s.curRole.barW := by rw [seenBarW, hs]
  unfold barSettle
  rw [bind_ok (getSt_run s), hA, hW]
  split
  · split
    · next hlt => rw [decide_eq_true hlt]; exact bind_error (waitIf_true s)
    · next hlt => rw [decide_eq_false hlt, bind_ok (waitIf_false s)]; rfl
  · rfl

theorem resBarWait_run {h : Hdr} {l : BitVec 5} {u : Bool} {s : State} (hg : Reads (guardS h) s true)
    (hu : levelUsed (mget 0 s.curRole.levels l.toNat) = true) :
    resBarWait h l u s = (barSettle l.toNat >>= fun _ => (pure .fall : Iss Flow)) s :=
  (guardTrue_run hg).trans (bind_ok (levelChk_used hu))
theorem resBarArrive_run {h : Hdr} {l : BitVec 5} {u : Bool} {s : State} (hg : Reads (guardS h) s true)
    (hu : levelUsed (mget 0 s.curRole.levels l.toNat) = true)
    (hq : ∀ b ∈ s.curRole.acc, b.cl = s.cur.cl → b.stat.unperformed = false) :
    resBarArrive h l u s = (barSettle l.toNat >>= fun _ => do
      modRole (fun r => { r with barA := mput r.barA l.toNat (mget 0 r.barA l.toNat + 1) })
      pure .fall : Iss Flow) s :=
  (guardTrue_run hg).trans ((bind_ok (levelChk_used hu)).trans (bind_ok (releaseOrdered_quiet hq)))

theorem barriers_level {h : Hdr} {l : BitVec 5} {u : Bool} {s : State} (hr : Ready 8 h.s s) (hg : Reads (guardS h) s true)
    (hs : s.curRole.snap = none) (hu : levelUsed (mget 0 s.curRole.levels l.toNat) = true)
    (hq : ∀ b ∈ s.curRole.acc, b.cl = s.cur.cl → b.stat.unperformed = false) :
    let lev := l.toNat
    let a := mget 0 s.curRole.barA lev
    let done := s.barDone s.curRole.part.toNat s.curRole.lid.toNat lev (instOf s.curRole s.curKey lev)
    (a ≤ mget 0 s.curRole.barW lev →
      exec (.barArrive h l u) s =
        .next ((s.setRole s.curKey { s.curRole with barA := mput s.curRole.barA lev (a + 1) }).fell 8) ∧
      exec (.barWait h l u) s = .next (s.fell 8)) ∧
    (mget 0 s.curRole.barW lev < a → a ≤ done →
      exec (.barArrive h l u) s =
        .next ((s.setRole s.curKey { s.curRole with
          barW := mput s.curRole.barW lev a, barA := mput s.curRole.barA lev (a + 1) }).fell 8) ∧
      exec (.barWait h l u) s =
        .next ((s.setRole s.curKey { s.curRole with barW := mput s.curRole.barW lev a }).fell 8)) ∧
    (mget 0 s.curRole.barW lev < a → done < a →
      exec (.barArrive h l u) s = .next s ∧ exec (.barWait h l u) s = .next s) := by
  intro lev a done
  have hsettle := barSettle_eq (lev := lev) hs
  have hwait := resBarWait_run (u := u) hg hu
  have harrive := resBarArrive_run (u := u) hg hu hq
  refine ⟨fun hle => ?_, fun hlt hdone => ?_, fun hlt hdone => ?_⟩
  · rw [if_neg (Nat.not_lt.mpr hle)] at hsettle
    exact ⟨issueN_fall hr (harrive.trans (bind_ok hsettle)) (clu_setRole_of fun c => by cases c <;> rfl),
      issueN_fall hr (hwait.trans (bind_ok hsettle)) rfl⟩
  · rw [if_pos hlt, if_neg (Nat.not_lt.mpr hdone)] at hsettle
    refine ⟨issueN_fall hr (harrive.trans ((bind_ok hsettle).trans ?_)) (clu_setRole_of fun c => by cases c <;> rfl),
      issueN_fall hr (hwait.trans (bind_ok hsettle)) (clu_setRole_of fun c => by cases c <;> rfl)⟩
    rw [bind_ok (modRole_run _ _), curKey_setRole, curRole_setRole, setRole_setRole]
    rfl
  · rw [if_pos hlt, if_pos hdone] at hsettle
    exact ⟨issueN_wait hr (harrive.trans (bind_error hsettle)), issueN_wait hr (hwait.trans (bind_error hsettle))⟩

theorem barriers_illegal {h : Hdr} {l : BitVec 5} {u : Bool} {s : State} (hr : Ready 8 h.s s) (hg : Reads (guardS h) s true)
    (hu : levelUsed (mget 0 s.curRole.levels l.toNat) = false) :
    (∃ w, exec (.barArrive h l u) s = .next (takeTrap s 0x01 w 0)) ∧
      ∃ w, exec (.barWait h l u) s = .next (takeTrap s 0x01 w 0) := by
  obtain ⟨w, hw⟩ := levelChk_unused hu
  exact ⟨⟨w, issueN_trap hr ((guardTrue_run hg).trans (bind_error hw))⟩,
    ⟨w, issueN_trap hr ((guardTrue_run hg).trans (bind_error hw))⟩⟩

/-! A syllable without a destination, guarded: what its issue comes to. -/

theorem issue_guarded_true {h : Hdr} {ms : List Mk} {f : Iss Unit} {s s1 s2 : State} (hr : Ready 8 h.s s)
    (hg : Reads (guardS h) s true) (hf : Does f s s1) (hsame : SameClu s s1) (hp : Does (popMarks ms) s1 s2) :
    issue h (guarded h ms f) s = .next (s2.fell 8) :=
  issueN_falls hr (guarded_true hg hf hp) (SameClu.trans _ _ _ hsame (sameClu_popMarks _ _ _ _ hp))
theorem issue_guarded_wait {h : Hdr} {ms : List Mk} {f : Iss Unit} {s : State} (hr : Ready 8 h.s s)
    (hg : Reads (guardS h) s true) (hf : f s = .error .wait) : issue h (guarded h ms f) s = .next s :=
  issueN_wait hr ((bind_ok hg).trans (bind_error hf))

/-- R201: a range that a role may use, by its two ends. -/
theorem tileRange_eq_some {r : Role} {base o n p : Nat} (hn : n ≠ 0) :
    tileRange r base o n = some p ↔ tileByte r base o = some p ∧ tileByte r base (o + n - 1) = some (p + (n - 1)) := by
  rw [tileRange, if_neg hn]
  rcases tileByte r base o with _ | a <;> rcases tileByte r base (o + n - 1) with _ | b <;> simp
  constructor
  · rintro ⟨rfl, rfl⟩; exact ⟨rfl, rfl⟩
  · rintro ⟨rfl, rfl⟩; exact ⟨rfl, rfl⟩
theorem reads_tileChk {s : State} {o n p : Nat} :
    Reads (tileChk o n) s p ↔ tileRange s.curRole (s.arrBase (s.curKey / 4)) o n = some p := by
  unfold Reads tileChk
  dsimp only
  rw [State.curRole]
  rcases tileRange (s.role s.curKey) (s.arrBase (s.curKey / 4)) o n with _ | q <;> simp
/-- R201: the first byte of a range that a role may use is one too. -/
theorem tileChk_first {s : State} {o n p : Nat} (hn : 1 ≤ n) (h : Reads (tileChk o n) s p) : Reads (tileChk o 1) s p := by
  rw [reads_tileChk, tileRange_eq_some (by omega)] at h ⊢
  exact ⟨h.1, h.1⟩

theorem plainOffset_small {b : Word} {s : State} (h : b.toNat < 2 ^ 23) : Reads (plainOffset b) s b.toNat := by
  rw [plainOffset, if_pos h]
  rfl
theorem trapIf_not {p : Bool} {c : Nat} {i j : Word} {s : State} (h : p = false) : trapIf p c i j s = .ok ((), s) := by
  rw [h]
  rfl

theorem sameClu_setCore (s : State) (c : Nat) (x : CoreSt) : SameClu s (s.setCore c x) := ⟨rfl, rfl, fun _ => rfl⟩
theorem sameClu_setPart (s : State) (p : Nat) (x : Part) : SameClu s (s.setPart p x) := ⟨rfl, rfl, fun _ => rfl⟩

/-- A read, and what follows it. -/
theorem bind_reads {α β : Type} {m : Iss α} {f : α → Iss β} {s : State} {a : α} {r : Except Stop (β × State)}
    (h : Reads m s a) (hrest : f a s = r) : (m >>= f) s = r := (bind_ok h).trans hrest
/-- A wait for room, and what follows it. -/
theorem bind_waitIf {α : Type} {p : Prop} [Decidable p] {f : Unit → Iss α} {s : State} {r : Except Stop (α × State)}
    (hrest : ¬ p → f () s = r) : (waitIf (decide p) >>= f) s = if p then .error .wait else r := by
  by_cases h : p
  · rw [if_pos h, decide_eq_true h]
    exact bind_error (waitIf_true s)
  · rw [if_neg h, decide_eq_false h]
    exact (bind_ok (waitIf_false s)).trans (hrest h)

section Send
variable {h : Hdr} {o : SendF} {s : State} {d a b : Word} {core : Nat} {peer : Option Nat} {after : List Nat}
  (hd : Reads (rdS o.d) s d) (ha : Reads (rdS o.a.src) s a) (hb : Reads (rdS o.b.src) s b)
  (ht : Reads (targetOf d) s (core, peer)) (hal : a.toNat % 32 = 0) (hafter : Reads (sendAfter o.rel) s after)
include hd ha hb ht hal hafter

/-- R262, R263: what MSG does once its operands are read: it waits while the engine is full, and otherwise hands over its payload. -/
theorem resMsg_body {c : CS} {n : Word} {p : Nat} {bs : List Byte} (hn : Reads (rdS c.src) s n) (h1 : 1 ≤ n.toNat)
    (hmax : n.toNat ≤ 4096) (hoff : b.toNat < 2 ^ 23) (hchk : Reads (tileChk b.toNat n.toNat) s p)
    (hord : Reads (tileOrdered true .relaxed) s ()) (hget : Reads (tileGet b.toNat n.toNat) s bs) :
    let k := s.curKey
    let x := s.core (k / 4)
    ∃ f, resMsg h o c = guarded h [(sQueue o.d, false), msMk o.a, msMk o.b, csMk c] f ∧
      f s = if 16 ≤ x.msgs.length then .error .wait else .ok ((), s.setCore (k / 4) { x with msgs := x.msgs ++
        [{ slot := k % 4, lid := s.curRole.lid, target := core, peer := peer, after := after,
           arr := { asid := s.curRole.asid, handler := a, payload := bs, sender := senderId k s.curRole, x4 := 0 } }] }) := by
  intro k x
  have halign : trapIf (a.toNat % 32 ≠ 0) tALIGN a exactI1 s = .ok ((), s) := trapIf_not (by simp [hal])
  have hlen : trapIf (n.toNat < 1 || 4096 < n.toNat) tTILE n exactI1 s = .ok ((), s) :=
    trapIf_not (by simp only [Bool.or_eq_false_iff, decide_eq_false_iff_not]; omega)
  refine ⟨_, rfl, ?_⟩
  exact bind_reads hd <| bind_reads ha <| bind_reads hb <| bind_reads hn <| bind_reads ht <| bind_reads halign <|
    bind_reads (plainOffset_small hoff) <| bind_reads (tileChk_first h1 hchk) <| bind_reads hlen <| bind_reads hchk <|
    bind_reads hord <| bind_reads hget <| bind_reads (getSt_run s) <| bind_waitIf fun _ => bind_reads hafter rfl

/-- R264: what SPAWN does once its operands are read. -/
theorem resSpawn_body :
    let x := s.partOr s.curRole.part.toNat
    ∃ f, resSpawn h o = guarded h [(sQueue o.d, false), msMk o.a, msMk o.b] f ∧
      f s = if 256 ≤ x.spawns.length then .error .wait else .ok ((), s.setPart s.curRole.part.toNat { x with spawns := x.spawns ++
        [{ peer := peer, core := core, lid := s.curRole.lid, asid := s.curRole.asid, handler := a, arg := b,
           sender := senderId s.curKey s.curRole, key := s.curKey, after := after }] }) := by
  have halign : trapIf (a.toNat % 32 ≠ 0) tALIGN a exactI1 s = .ok ((), s) := trapIf_not (by simp [hal])
  refine ⟨_, rfl, ?_⟩
  exact bind_reads hd <| bind_reads ha <| bind_reads hb <| bind_reads ht <| bind_reads halign <| bind_reads (getSt_run s) <|
    bind_waitIf fun _ => bind_reads hafter rfl

end Send

/-- A guarded body that waits where p holds, and otherwise goes to s1. -/
theorem issue_guarded_room {h : Hdr} {ms : List Mk} {f : Iss Unit} {p : Prop} [Decidable p] {s s1 : State} (hr : Ready 8 h.s s)
    (hg : Reads (guardS h) s true) (hsame : SameClu s s1) (hf : f s = if p then .error .wait else .ok ((), s1)) :
    (¬ p → ∀ s2, Does (popMarks ms) s1 s2 → issue h (guarded h ms f) s = .next (s2.fell 8)) ∧
    (p → issue h (guarded h ms f) s = .next s) :=
  ⟨fun hp _ hpop => issue_guarded_true hr hg (hf.trans (if_neg hp)) hsame hpop,
    fun hp => issue_guarded_wait hr hg (hf.trans (if_pos hp))⟩

/-- Settles O25: a level settles by its counts; a send reads its operands, then waits for room or joins its queue. -/
theorem barriersMessagesSpawns : Obligations.BarriersMessagesSpawns := by
  unfold Obligations.BarriersMessagesSpawns
  refine ⟨fun h l u s hr hg hs => ⟨barriers_level hr hg hs, barriers_illegal hr hg⟩,
    fun h o s d a b core peer hr hg hd ha hb ht hal => ⟨?_, ?_⟩⟩
  · intro c n p bs after s1 hn h1 hmax hoff hchk hord hget hafter k x
    obtain ⟨f, hres, hf⟩ := resMsg_body (h := h) hd ha hb ht hal hafter hn h1 hmax hoff hchk hord hget
    have hexec : exec (.msg h o c) s = issue h (resMsg h o c) s := rfl
    rw [hexec, hres]
    obtain ⟨hgoes, hwaits⟩ := issue_guarded_room hr hg (sameClu_setCore ..) hf
    exact ⟨fun hroom => hgoes (Nat.not_le.mpr hroom) s1, hwaits⟩
  · intro after s1 hafter x
    obtain ⟨f, hres, hf⟩ := resSpawn_body (h := h) hd ha hb ht hal hafter
    have hexec : exec (.spawn h o) s = issue h (resSpawn h o) s := rfl
    rw [hexec, hres]
    obtain ⟨hgoes, hwaits⟩ := issue_guarded_room hr hg (sameClu_setPart ..) hf
    exact ⟨fun hroom => hgoes (Nat.not_le.mpr hroom) s1, hwaits⟩

end Sys2Proof.Machine
end

section
/-! ### Bundles (R51 to R53) -/
namespace Sys2Proof.Machine

/-- Writing one X register, predicate or vector register. -/
def RegWrite (w : Role → Role) : Prop :=
  ∃ d, (∃ v, w = fun r => r.setX d v) ∨ (∃ v, w = fun r => r.setP d v) ∨ ∃ v, w = fun r => r.setV d v

theorem RegWrite.rest {w : Role → Role} (hw : RegWrite w) (r : Role) :
    w r = { r with xs := (w r).xs, ps := (w r).ps, vs := (w r).vs } := by
  obtain ⟨d, ⟨v, rfl⟩ | ⟨v, rfl⟩ | ⟨v, rfl⟩⟩ := hw
  · rfl
  · dsimp only
    unfold Role.setP
    split <;> rfl
  · rfl
/-- What it writes depends on the registers alone. -/
theorem RegWrite.regs {w : Role → Role} (hw : RegWrite w) {q r : Role} (hx : q.xs = r.xs) (hp : q.ps = r.ps) (hv : q.vs = r.vs) :
    (w q).xs = (w r).xs ∧ (w q).ps = (w r).ps ∧ (w q).vs = (w r).vs := by
  obtain ⟨d, ⟨v, rfl⟩ | ⟨v, rfl⟩ | ⟨v, rfl⟩⟩ := hw
  · simp [Role.setX, hx, hp, hv]
  · by_cases hd : d = 0 <;> simp [Role.setP, hd, hx, hp, hv]
  · simp [Role.setV, hx, hp, hv]
theorem RegWrite.clu {w : Role → Role} (hw : RegWrite w) (r : Role) (c : Cluster) : (w r).clu c = r.clu c := by
  rw [hw.rest r]
  cases c <;> rfl

/-- The role once cluster c has gone n bytes on. -/
def Role.onward (r : Role) (c : Cluster) (n now : Nat) : Role :=
  { r.setClu c { r.clu c with pc := (r.clu c).pc + BitVec.ofNat 64 n } with lastAct := now }

theorem advance_loopless {c : Clu} (h : c.loops = []) (a : Word) (n : Nat) :
    c.advance a n = ({ c with pc := a + BitVec.ofNat 64 n }, false) := by
  rcases c with ⟨pc, halted, loops, lrec⟩
  cases h
  rfl

/-- Outside every loop, a syllable that transfers nothing commits and goes on. -/
theorem commit_loopless {n : Nat} {body : Iss Flow} {s s' : State} (hl : s.clu.loops = []) (hr : s.clu.lrec = none)
    (hb : body s = .ok (.fall, s')) (hc : s'.clu = s.clu) :
    (commit n body : Iss Post) s = .ok (none, s'.setRole s'.curKey (s'.curRole.onward s'.cur.cl n s'.cycle)) := by
  have hgate : boundaryGate s = .ok ((), s) := by
    unfold boundaryGate
    rw [bind_ok (getRole_run s), bind_ok (getClu_run s)]
    simp only [nextIteration, atBoundary, hr]
    rfl
  have hleave : s'.setRole s'.curKey (s'.curRole.setClu s'.cur.cl
      { s'.clu with lrec := s'.clu.lrec.map (fun l => { l with boundary := false }) }) = s'.setRole s'.curKey s'.curRole := by
    rw [hc, hr, Option.map_none, ← hr, ← hc]
    exact congrArg _ (setClu_clu ..)
  let u := s'.setRole s'.curKey s'.curRole
  have hu : u.clu = s'.clu := clu_setRole_of fun _ => rfl
  have hul : u.clu.loops = [] := (congrArg Clu.loops (hu.trans hc)).trans hl
  have hur : u.clu.lrec = none := (congrArg Clu.lrec (hu.trans hc)).trans hr
  have hadv := advance_loopless hul u.clu.pc n
  have hon : goOn u.clu.pc n u = .ok ((), u.setRole u.curKey (fallFrom u.curRole u.cur.cl u.clu.pc n)) :=
    goOn_ok (by rw [hadv]) (fun l h => by rw [hur] at h; cases h)
  have hfall : fallFrom u.curRole u.cur.cl u.clu.pc n =
      u.curRole.setClu u.cur.cl { u.clu with pc := u.clu.pc + BitVec.ofNat 64 n } := by
    unfold fallFrom
    rw [show u.curRole.clu u.cur.cl = u.clu from rfl, hadv]
    simp only [hur]
  have hsettle : settle n Flow.fall u = .ok (none, u.setRole u.curKey (fallFrom u.curRole u.cur.cl u.clu.pc n)) := by
    unfold settle
    rw [bind_ok (getSt_run u)]
    exact bind_ok hon
  have hrole : u.curRole = s'.curRole := curRole_setRole ..
  unfold commit
  rw [bind_ok hgate, bind_ok hb, bind_ok (modClu_run _ s'), hleave]
  refine (bind_ok hsettle).trans ?_
  rw [hfall, hrole, hu]
  let v := u.setRole u.curKey (s'.curRole.setClu u.cur.cl { s'.clu with pc := s'.clu.pc + BitVec.ofNat 64 n })
  show Except.ok (none, v.setRole v.curKey { v.curRole with lastAct := v.cycle }) = _
  rw [show v.curRole = _ from curRole_setRole ..]
  exact congrArg (fun t => Except.ok (none, t)) ((setRole_setRole ..).trans (setRole_setRole ..))

/-- Role k of s has become r, and nothing else differs but whose syllable issues. -/
structure Amid (k : Nat) (s t : State) (r : Role) : Prop where
  rest : t = { s with roles := t.roles, cur := t.cur }
  others : ∀ j, j ≠ k → t.role j = s.role j
  role : t.role k = r

theorem Amid.setRole {k : Nat} {s t : State} {q : Role} (h : Amid k s t q) (r : Role) (c : Cur) :
    Amid k s ({ t with cur := c }.setRole k r) r where
  rest := by
    rw [h.rest]
    rfl
  others j hj := (role_setRole_other _ _ _ _ hj).trans (h.others j hj)
  role := role_setRole_same ..

theorem key_lt (rs : Slot) : rs.key < 1024 := by
  unfold Slot.key
  omega
theorem curKey_at {k : Nat} (hk : k < 1024) (t : State) (c : Cluster) : (t.at_ k c).curKey = k := by
  simp only [State.curKey, State.at_, BitVec.toNat_ofNat]
  omega

/-- R52, R53: a member that writes one register, in a bundle of a role that stood as r before it. -/
structure MemberWrites (r : Role) (body : Iss Flow) (w : Role → Role) : Prop where
  reg : RegWrite w
  run : ∀ t : State, t.curRole.snap = some (snapOf r) → t.curRole.acc = [] → t.curRole.nest = r.nest →
    body t = .ok (.fall, t.setRole t.curKey (w t.curRole))

/-- The role as the members of its bundle see it. -/
structure Bundled (r q : Role) : Prop where
  snap : q.snap = some (snapOf r)
  acc : q.acc = []
  nest : q.nest = r.nest

theorem Bundled.step {r q : Role} (h : Bundled r q) {w : Role → Role} (hw : RegWrite w) (c : Cluster) (n now : Nat) :
    Bundled r ((w q).onward c n now) := by
  rw [hw.rest q, Role.onward]
  constructor <;> simp [h.snap, h.acc, h.nest]

theorem clu_onward (r : Role) (c d : Cluster) (n now : Nat) :
    (r.onward c n now).clu d = if d = c then { r.clu c with pc := (r.clu c).pc + BitVec.ofNat 64 n } else r.clu d := by
  cases c <;> cases d <;> rfl

theorem commit_member {k n : Nat} (hk : k < 1024) {s t : State} {r q : Role} {body : Iss Flow} {w : Role → Role} {c : Cluster}
    (ht : Amid k s t q) (hq : Bundled r q) (hm : MemberWrites r body w) (hl : (q.clu c).loops = []) (hr : (q.clu c).lrec = none) :
    ∃ u, (commit n body : Iss Post) (t.at_ k c) = .ok (none, u) ∧ Amid k s u ((w q).onward c n s.cycle) := by
  have hkey := curKey_at hk t c
  have hrole : (t.at_ k c).curRole = q := by
    rw [State.curRole, hkey]
    exact ht.role
  have hclu : (t.at_ k c).clu = q.clu c := by
    rw [State.clu, hrole]
    rfl
  have hb := hm.run (t.at_ k c) (hrole ▸ hq.snap) (hrole ▸ hq.acc) (hrole ▸ hq.nest)
  have hsame := clu_setRole_of (s := t.at_ k c) (r := w (t.at_ k c).curRole) fun d => hm.reg.clu _ d
  have hcommit := commit_loopless (n := n) (hclu ▸ hl) (hclu ▸ hr) hb hsame
  rw [curKey_setRole, setRole_setRole, curRole_setRole, hrole, hkey] at hcommit
  have hcyc : t.cycle = s.cycle := by rw [ht.rest]
  rw [← hcyc]
  exact ⟨_, hcommit, ht.setRole _ _⟩

/-- What gathering leaves: table entries alone may differ, and the members stand in the order of the clusters, none halted. -/
theorem gatherBundle_some {k : Nat} {cs : List Cluster} {s s1 : State} {ms : List Member}
    (h : gatherBundle k cs s = some (s1, ms)) : OnlyWalk s s1 ∧ (ms.map (·.1)).Sublist cs := by
  induction cs generalizing s ms with
  | nil =>
    cases h
    exact ⟨.refl _, .slnil⟩
  | cons c cs ih =>
    unfold gatherBundle at h
    split at h
    · exact ⟨(ih h).1, (ih h).2.cons _⟩
    · split at h
      · cases h
      · exact ⟨(ih h).1, (ih h).2.cons _⟩
      · next u i hnot hh =>
        split at h
        · next n body hi =>
          obtain ⟨⟨v, l⟩, hv, he⟩ := Option.map_eq_some_iff.mp h
          cases he
          exact ⟨(onlyWalk_head hh).trans (ih hv).1, (ih hv).2.cons_cons _⟩
        · cases h

theorem endBundle_quiet {q : Role} {sn : Snap} (h : q.snap = some sn) (hr : sn.raised = []) (now k : Nat) :
    endBundle q now k = { q with snap := none } := by
  unfold endBundle
  rw [h]
  dsimp only
  rw [hr]
  rfl
theorem nodup_clusters : clusters.Nodup := by decide

/-- R53: two members that each write a register of their own role write them both, the later one last, and both go on. -/
theorem bundle_two {rs : Slot} {s s1 : State} {c1 c2 : Cluster} {n1 n2 : Nat} {b1 b2 : Iss Flow} {w1 w2 : Role → Role}
    (hrun : (s.role rs.key).st = .running) (hacc : (s.role rs.key).acc = []) (hcop : (s.role rs.key).copies = [])
    (hc1 : ((s.role rs.key).clu c1).loops = [] ∧ ((s.role rs.key).clu c1).lrec = none)
    (hc2 : ((s.role rs.key).clu c2).loops = [] ∧ ((s.role rs.key).clu c2).lrec = none) (hne : c1 ≠ c2)
    (hg : gatherBundle rs.key clusters s = some (s1, [(c1, n1, b1), (c2, n2, b2)]))
    (h1 : MemberWrites (s.role rs.key) b1 w1) (h2 : MemberWrites (s.role rs.key) b2 w2) :
    let r0 := { s.role rs.key with snap := some (snapOf (s.role rs.key)) }
    ∃ u, exec (.bundleIssue rs) s = .next u ∧ u = { s1 with roles := u.roles } ∧ (∀ j, j ≠ rs.key → u.role j = s.role j) ∧
      u.role rs.key = { (w2 ((w1 r0).onward c1 n1 s.cycle)).onward c2 n2 s.cycle with snap := none } := by
  intro r0
  have hk := key_lt rs
  have hmem := (gatherBundle_some hg).1.onlyMemory
  have hrole1 := hmem.role rs.key
  have hcyc : s1.cycle = s.cycle := hmem.eq State.cycle
  let s0 := s1.modRoleAt rs.key (fun r => { r with snap := some (snapOf r) })
  have ha0 : Amid rs.key s1 s0 r0 := by
    refine ⟨rfl, fun j hj => role_setRole_other _ _ _ _ hj, (role_setRole_same ..).trans ?_⟩
    rw [hrole1]
  have hb0 : Bundled (s.role rs.key) r0 := ⟨rfl, hacc, rfl⟩
  obtain ⟨t1, hcom1, ha1⟩ := commit_member (n := n1) (c := c1) hk ha0 hb0 h1 (by cases c1 <;> exact hc1.1) (by cases c1 <;> exact hc1.2)
  have hb1 := hb0.step h1.reg c1 n1 s1.cycle
  have hclu2 : ((w1 r0).onward c1 n1 s1.cycle).clu c2 = (s.role rs.key).clu c2 := by
    rw [clu_onward, if_neg hne.symm, h1.reg.clu]
    cases c2 <;> rfl
  obtain ⟨t2, hcom2, ha2⟩ := commit_member (n := n2) (c := c2) hk ha1 hb1 h2 (hclu2 ▸ hc2.1) (hclu2 ▸ hc2.2)
  obtain ⟨t0, hready2, -⟩ := commit_member (n := n2) (c := c2) hk ha0 hb0 h2 (by cases c2 <;> exact hc2.1) (by cases c2 <;> exact hc2.2)
  have hready : allReady rs.key [(c1, n1, b1), (c2, n2, b2)] s0 = true := by
    simp [allReady, hcom1, hready2]
  have hfault := anyFault_nothing hacc hcop
  have hperf : (s.role rs.key).performed = true := by simp [Role.performed, hacc]
  have hbundle : runBundle rs.key [(c1, n1, b1), (c2, n2, b2)] s0 none [] = some (t2, none, [(c1, none), (c2, none)]) := by
    simp [runBundle, hcom1, hcom2]
  have hsnap := (hb1.step h2.reg c2 n2 s1.cycle).snap
  refine ⟨{ t2.modRoleAt rs.key (fun r => endBundle r t2.cycle rs.key) with cur := s.cur }, ?_, ?_, fun j hj => ?_, ?_⟩
  · show Host.Outcome.next _ = _
    rw [if_neg (by simp [hrun]), hg]
    show Host.Outcome.next (issueBundle s s1 rs.key _) = _
    unfold issueBundle
    dsimp only
    rw [hready, hfault, hperf, hbundle]
    rfl
  · rw [ha2.rest, ← show s1.cur = s.cur from hmem.eq State.cur]
    rfl
  · exact (role_setRole_other _ _ _ _ hj).trans ((ha2.others j hj).trans (hmem.role j))
  · refine (role_setRole_same ..).trans ?_
    rw [ha2.role, ← hcyc]
    exact endBundle_quiet hsnap rfl ..

theorem overtake_nil {r : Role} (h : r.acc = []) (d : Dest) : r.overtake d = r := by
  unfold Role.overtake
  split
  · rfl
  · rw [h, List.map_nil, ← h]

theorem memberWrites_movk {r : Role} (hacc : r.acc = []) {h : Hdr} (hg : h.g = 0) (hn : h.gn = false) (x : BitVec 5)
    (i : BitVec 40) : MemberWrites r (resMovk h x i) (fun q => q.setX x.toNat (i.signExtend 64)) where
  reg := ⟨x.toNat, .inl ⟨_, rfl⟩⟩
  run t hs ha _ := by
    have hseen : seenAcc t.curRole = [] := by
      unfold seenAcc
      rw [hs]
      exact hacc
    have hfree (d : Dest) : ∀ a ∈ seenAcc t.curRole, d ∉ a.dests := by
      rw [hseen]
      exact fun _ h => absurd h List.not_mem_nil
    have hguard : Reads (guardS h) t true := by
      have hread := reads_guardS_p0 (hfree _) hg
      rwa [hn] at hread
    have hwr := wrX_free (v := i.signExtend 64) (hfree (.x x.toNat))
    rw [overtake_nil ha] at hwr
    exact guarded_true hguard hwr (popMarks_nil _)

theorem gatherBundle_halted {k : Nat} {c : Cluster} {cs : List Cluster} {s : State} (h : ((s.role k).clu c).halted = true) :
    gatherBundle k (c :: cs) s = gatherBundle k cs s := by
  rw [gatherBundle, if_pos h]
theorem gatherBundle_movk {k : Nat} {c : Cluster} {cs : List Cluster} {s s' : State} {h : Hdr} {x : BitVec 5} {i : BitVec 40}
    (hl : ((s.role k).clu c).halted = false) (hs : h.s = true) (hh : head s k c = .instr s' (.movk h x i)) :
    gatherBundle k (c :: cs) s = (gatherBundle k cs s').map (fun y => (y.1, (c, 8, resMovk h x i) :: y.2)) := by
  rw [gatherBundle, if_neg (by simp [hl]), hh]
  simp [issueOf, hs]

/-- What the bundle of two leaves of the role, cluster by cluster and register by register. -/
theorem bundled_regs {r : Role} {w1 w2 : Role → Role} (h1 : RegWrite w1) (h2 : RegWrite w2) (sn : Option Snap)
    (c1 c2 : Cluster) (n1 n2 now : Nat) :
    let u := { (w2 ((w1 { r with snap := sn }).onward c1 n1 now)).onward c2 n2 now with snap := none }
    u.xs = (w2 (w1 r)).xs ∧ u.ps = (w2 (w1 r)).ps ∧ u.vs = (w2 (w1 r)).vs ∧ u.qs = r.qs ∧ u.st = r.st := by
  obtain ⟨hx, hp, hv⟩ := h1.regs (q := { r with snap := sn }) (r := r) rfl rfl rfl
  let q := (w1 { r with snap := sn }).onward c1 n1 now
  have hq : (w2 q).xs = (w2 (w1 r)).xs ∧ (w2 q).ps = (w2 (w1 r)).ps ∧ (w2 q).vs = (w2 (w1 r)).vs :=
    h2.regs (by rw [← hx]; exact Role.setClu_xs ..) (by rw [← hp]; exact Role.setClu_ps ..)
      (by rw [← hv]; exact Role.setClu_vs ..)
  refine ⟨(Role.setClu_xs ..).trans hq.1, (Role.setClu_ps ..).trans hq.2.1, (Role.setClu_vs ..).trans hq.2.2, ?_, ?_⟩
  · refine (Role.setClu_qs ..).trans ?_
    rw [h2.rest]
    refine (Role.setClu_qs ..).trans ?_
    rw [h1.rest]
  · refine (Role.setClu_st ..).trans ?_
    rw [h2.rest]
    refine (Role.setClu_st ..).trans ?_
    rw [h1.rest]
theorem bundled_clu {r : Role} {w1 w2 : Role → Role} (h1 : RegWrite w1) (h2 : RegWrite w2) (sn : Option Snap)
    {c1 c2 : Cluster} (hne : c1 ≠ c2) (n1 n2 now : Nat) :
    let u := { (w2 ((w1 { r with snap := sn }).onward c1 n1 now)).onward c2 n2 now with snap := none }
    u.clu c1 = { r.clu c1 with pc := (r.clu c1).pc + BitVec.ofNat 64 n1 } ∧
    u.clu c2 = { r.clu c2 with pc := (r.clu c2).pc + BitVec.ofNat 64 n2 } ∧ ∀ c, c ≠ c1 → c ≠ c2 → u.clu c = r.clu c := by
  have hclu (c : Cluster) : ({ (w2 ((w1 { r with snap := sn }).onward c1 n1 now)).onward c2 n2 now with snap := none } : Role).clu c =
      if c = c2 then { r.clu c2 with pc := (r.clu c2).pc + BitVec.ofNat 64 n2 }
      else if c = c1 then { r.clu c1 with pc := (r.clu c1).pc + BitVec.ofNat 64 n1 } else r.clu c := by
    have hsn (q : Role) (o : Option Snap) (d : Cluster) : ({ q with snap := o } : Role).clu d = q.clu d := by cases d <;> rfl
    rw [hsn, clu_onward, h2.clu, h2.clu, clu_onward, clu_onward, if_neg hne.symm]
    simp only [h1.clu, hsn]
  refine ⟨?_, ?_, fun c n1 n2 => ?_⟩
  · rw [hclu, if_neg hne, if_pos rfl]
  · rw [hclu, if_pos rfl]
  · rw [hclu, if_neg n2, if_neg n1]

end Sys2Proof.Machine
end

section
/-! ### The watchdog and the stop record (R54, R350, R356 to R360) -/
namespace Sys2Proof.Machine

theorem execBundleIssue_movks {rs : Slot} {s s1 s2 : State} {hl hw : Hdr} {x : BitVec 5} {i j : BitVec 40}
    (hrun : (s.role rs.key).st = .running) (hacc : (s.role rs.key).acc = []) (hcop : (s.role rs.key).copies = [])
    (hm : (s.role rs.key).cm.halted = true) (hv : (s.role rs.key).cv.halted = true) (hcl : (s.role rs.key).cl.halted = false)
    (hcw : (s.role rs.key).cw.halted = false) (hls : hl.s = true) (hws : hw.s = true) (hlg : hl.g = 0) (hln : hl.gn = false)
    (hwg : hw.g = 0) (hwn : hw.gn = false) (hll : (s.role rs.key).cl.loops = []) (hwl : (s.role rs.key).cw.loops = [])
    (hlr : (s.role rs.key).cl.lrec = none) (hwr : (s.role rs.key).cw.lrec = none)
    (hh1 : head s rs.key .l = .instr s1 (.movk hl x i)) (hh2 : head s1 rs.key .w = .instr s2 (.movk hw x j)) :
    ∃ u, exec (.bundleIssue rs) s = .next u ∧ (u.role rs.key).x x.toNat = j.signExtend 64 ∧
      (∀ n, n ≠ x.toNat → (u.role rs.key).x n = (s.role rs.key).x n) ∧
      (u.role rs.key).cl = { (s.role rs.key).cl with pc := (s.role rs.key).cl.pc + 8 } ∧
      (u.role rs.key).cw = { (s.role rs.key).cw with pc := (s.role rs.key).cw.pc + 8 } ∧
      (u.role rs.key).cm = (s.role rs.key).cm ∧ (u.role rs.key).cv = (s.role rs.key).cv ∧
      (u.role rs.key).st = .running ∧ u.mem = s2.mem ∧ ∀ k, k ≠ rs.key → u.role k = s.role k := by
  have hrole1 := (onlyWalk_head hh1).onlyMemory.role rs.key
  have hrole2 := (onlyWalk_head hh2).onlyMemory.role rs.key
  have hgather : gatherBundle rs.key clusters s = some (s2, [(.l, 8, resMovk hl x i), (.w, 8, resMovk hw x j)]) := by
    unfold clusters
    rw [gatherBundle_movk (c := .l) hcl hls hh1, gatherBundle_halted (c := .m) (by rw [hrole1]; exact hm), gatherBundle_halted (c := .v) (by rw [hrole1]; exact hv),
      gatherBundle_movk (c := .w) (by rw [hrole1]; exact hcw) hws hh2]
    rfl
  have hm1 := memberWrites_movk hacc hlg hln x i
  have hm2 := memberWrites_movk hacc hwg hwn x j
  obtain ⟨u, hu, hrest, hothers, hrole⟩ := bundle_two (c1 := .l) (c2 := .w) hrun hacc hcop ⟨hll, hlr⟩ ⟨hwl, hwr⟩ (by decide) hgather hm1 hm2
  obtain ⟨hxs, -, -, -, hst⟩ := bundled_regs hm1.reg hm2.reg (some (snapOf (s.role rs.key))) .l .w 8 8 s.cycle
  obtain ⟨h1, h2, h3⟩ := bundled_clu hm1.reg hm2.reg (some (snapOf (s.role rs.key))) (show Cluster.l ≠ .w by decide) 8 8 s.cycle
  have hx (n : Nat) : (u.role rs.key).x n = (((s.role rs.key).setX x.toNat (i.signExtend 64)).setX x.toNat (j.signExtend 64)).x n :=
    congrArg (mget 0 · n) (hrole ▸ hxs)
  refine ⟨u, hu, ?_, fun n hn => ?_, ?_, ?_, ?_, ?_, ?_, ?_, hothers⟩
  · rw [hx, x_setX, if_pos rfl]
  · rw [hx, x_setX, if_neg hn, x_setX, if_neg hn]
  · exact hrole ▸ h1
  · exact hrole ▸ h2
  · exact hrole ▸ h3 .m (by decide) (by decide)
  · exact hrole ▸ h3 .v (by decide) (by decide)
  · exact (hrole ▸ hst).trans hrun
  · rw [hrest]

theorem execBundleIssue_writes {rs : Slot} {s s1 : State} {c1 c2 : Cluster} {n1 n2 : Nat} {b1 b2 : Iss Flow} {w1 w2 : Role → Role}
    (hrun : (s.role rs.key).st = .running) (hacc : (s.role rs.key).acc = []) (hcop : (s.role rs.key).copies = [])
    (hnest : (s.role rs.key).nest = none)
    (hc : ∀ c, ((s.role rs.key).clu c).loops = [] ∧ ((s.role rs.key).clu c).lrec = none)
    (hg : gatherBundle rs.key clusters s = some (s1, [(c1, n1, b1), (c2, n2, b2)]))
    (h1 : WritesOne (snapOf (s.role rs.key)) b1 w1) (h2 : WritesOne (snapOf (s.role rs.key)) b2 w2) :
    ∃ u, exec (.bundleIssue rs) s = .next u ∧ (u.role rs.key).xs = (w2 (w1 (s.role rs.key))).xs ∧
      (u.role rs.key).ps = (w2 (w1 (s.role rs.key))).ps ∧ (u.role rs.key).vs = (w2 (w1 (s.role rs.key))).vs ∧
      (u.role rs.key).qs = (s.role rs.key).qs ∧ (u.role rs.key).st = .running ∧
      (u.role rs.key).clu c1 = { (s.role rs.key).clu c1 with pc := ((s.role rs.key).clu c1).pc + BitVec.ofNat 64 n1 } ∧
      (u.role rs.key).clu c2 = { (s.role rs.key).clu c2 with pc := ((s.role rs.key).clu c2).pc + BitVec.ofNat 64 n2 } ∧
      (∀ c, c ≠ c1 → c ≠ c2 → (u.role rs.key).clu c = (s.role rs.key).clu c) ∧ u.mem = s1.mem ∧ u.tile = s.tile ∧
      ∀ k, k ≠ rs.key → u.role k = s.role k := by
  obtain ⟨hmem, hsub⟩ := gatherBundle_some hg
  have hne : c1 ≠ c2 := by
    have hnd := hsub.nodup nodup_clusters
    intro e
    subst e
    simp at hnd
  have hm1 : MemberWrites (s.role rs.key) b1 w1 := ⟨h1.1, fun t hs ha hn => h1.2 t hs ha (hn.trans hnest)⟩
  have hm2 : MemberWrites (s.role rs.key) b2 w2 := ⟨h2.1, fun t hs ha hn => h2.2 t hs ha (hn.trans hnest)⟩
  obtain ⟨u, hu, hrest, hothers, hrole⟩ := bundle_two hrun hacc hcop (hc c1) (hc c2) hne hg hm1 hm2
  obtain ⟨hxs, hps, hvs, hqs, hst⟩ := bundled_regs hm1.reg hm2.reg (some (snapOf (s.role rs.key))) c1 c2 n1 n2 s.cycle
  obtain ⟨hk1, hk2, hk3⟩ := bundled_clu hm1.reg hm2.reg (some (snapOf (s.role rs.key))) hne n1 n2 s.cycle
  refine ⟨u, hu, hrole ▸ hxs, hrole ▸ hps, hrole ▸ hvs, hrole ▸ hqs, (hrole ▸ hst).trans hrun, hrole ▸ hk1, hrole ▸ hk2, hrole ▸ hk3,
    ?_, ?_, hothers⟩
  · rw [hrest]
  · rw [hrest]
    exact hmem.tile

theorem execBundleIssue_unperformed {rs : Slot} {s : State} (hp : (s.role rs.key).performed = false)
    (hf : (s.role rs.key).anyFault = none) : exec (.bundleIssue rs) s = .next s := by
  show execBundleIssue rs s = _
  unfold execBundleIssue
  refine congrArg Host.Outcome.next ?_
  split
  · rfl
  · split
    · rfl
    · rfl
    · unfold issueBundle
      dsimp only
      split
      · rfl
      · rw [hf]
        dsimp only
        rw [hp]
        rfl

theorem execBundleIssue_faulted {rs : Slot} {s s1 : State} {ms : List Member} {c : Cluster} {id : Nat}
    (hrun : (s.role rs.key).st = .running) (hf : (s.role rs.key).anyFault = some (c, id))
    (hg : gatherBundle rs.key clusters s = some (s1, ms)) (hms : ms ≠ []) :
    exec (.bundleIssue rs) s = .next
      (if allReady rs.key ms (s1.setRole rs.key { s1.role rs.key with snap := some (snapOf (s1.role rs.key)) })
        then deferredAt s rs.key (stopCluster (s.role rs.key) c ms) id else s) := by
  obtain ⟨m, l, rfl⟩ := List.exists_cons_of_ne_nil hms
  show Host.Outcome.next _ = _
  rw [if_neg (by simp [hrun]), hg]
  refine congrArg Host.Outcome.next ?_
  show issueBundle s s1 rs.key (m :: l) = _
  unfold issueBundle State.modRoleAt
  dsimp only
  rw [hf]
  cases allReady rs.key (m :: l) (s1.setRole rs.key { s1.role rs.key with snap := some (snapOf (s1.role rs.key)) }) <;> rfl

theorem front_eq {r : Role} {c : Cluster}
    (h : ((r.clu c).halted = false ∧ ∀ d : Cluster, d.num < c.num → (r.clu d).halted = true) ∨
      (c = .l ∧ ∀ d : Cluster, (r.clu d).halted = true)) : r.front = c := by
  unfold Role.front clusters
  rcases h with ⟨hc, hd⟩ | ⟨rfl, hd⟩
  · have hl := hd .l
    have hm := hd .m
    have hv := hd .v
    cases c <;> simp_all [Cluster.num]
  · simp [hd]

theorem execWatchdog_eq (rs : Slot) (s : State) : exec (.watchdog rs) s = .next
    (if quiet s rs.key = true ∧ (s.role rs.key).wdlimit ≠ 0 ∧ (s.role rs.key).lastAct + (s.role rs.key).wdlimit.toNat ≤ s.cycle
      then takeStop s rs.key 1 0x50 (s.role rs.key).front ((s.role rs.key).wdlimit.setWidth 64) 0 none else s) := by
  show Host.Outcome.next _ = _
  simp only [Bool.and_eq_true, decide_eq_true_eq, and_assoc]
  rfl

end Sys2Proof.Machine
end

section
/-! ### The stop record and what follows it (R350, R351, R356 to R360) -/
namespace Sys2Proof.Machine

/-- One of the fields that a store writes one after another. -/
theorem memRead_memWrite_flatten {L : List (List Byte)} {i o n : Nat} {p : List Byte} (hp : L[i]? = some p)
    (ho : (L.take i).flatten.length = o) (hn : p.length = n) (s : State) (a : Nat) :
    (s.memWrite a L.flatten).memRead (a + o) n = p := by
  obtain ⟨hi, rfl⟩ := List.getElem?_eq_some_iff.mp hp
  have hsplit : L.flatten = (L.take i).flatten ++ (L[i] ++ (L.drop (i + 1)).flatten) := by
    rw [← List.flatten_cons, ← List.drop_eq_getElem_cons hi, ← List.flatten_append, List.take_append_drop]
  have h := memRead_memWrite_same s a L.flatten
  generalize s.memWrite a L.flatten = u at h ⊢
  rw [hsplit, List.length_append, List.length_append, State.memRead, readBytes_append, readBytes_append] at h
  obtain ⟨-, h⟩ := List.append_inj h (readBytes_length ..)
  obtain ⟨h, -⟩ := List.append_inj h (readBytes_length ..)
  rw [← ho, ← hn]
  exact h

/-- What follows the fields of R357 and R358 that every stop has. -/
def headerRest (r : Role) : List Byte :=
  nat4 (fun c => match (r.cluN c).lrec with | some l => wordLe l.ret | none => natLe 8 0) ++
  (List.range 16).flatMap (fun n => match r.strm? n with | some t => natLe 8 t.c ++ natLe 8 t.sp | none => natLe 16 0) ++
  nat4 (fun c => nat4 (loopBytes (r.cluN c))) ++
  nat4 (fun c => lrecBytes (r.cluN c)) ++
  r.holds.flatMap holdBytes ++ natLe (16 * (16 - r.holds.length)) 0 ++ natLe 896 0
/-- The fields of the header, in order. -/
def headerFields (s : State) (r : Role) (i : StopInfo) : List (List Byte) :=
  [natLe 8 (causeWord i), wordLe i.i0, wordLe i.i1, natLe 8 s.dtime, wordLe (pcWord r.cl), wordLe (pcWord r.cm), wordLe (pcWord r.cv),
    wordLe (pcWord r.cw), wordLe (match r.nest with | some f => f.addr | none => 0),
    natLe 8 (match r.nest with | some f => f.step % 2 ^ 32 | none => 0), natLe 1 r.cl.loops.length, natLe 1 r.cm.loops.length,
    natLe 1 r.cv.loops.length, natLe 1 r.cw.loops.length, natLe 4 0, wordLe r.entryPend, headerRest r]

theorem stopHeader_eq (s : State) (r : Role) (i : StopInfo) : stopHeader s r i = (headerFields s r i).flatten := by
  simp [stopHeader, headerFields, headerRest, nat4, Role.cluN, Role.clu] <;> rfl

theorem stopHeader_of_dtime {s t : State} (h : t.dtime = s.dtime) (r : Role) (i : StopInfo) : stopHeader t r i = stopHeader s r i := by
  unfold stopHeader
  rw [h]

theorem flatMap_length {α : Type} {f : α → List Byte} {n : Nat} (h : ∀ x, (f x).length = n) (l : List α) :
    (l.flatMap f).length = n * l.length := by
  induction l with
  | nil => rfl
  | cons x l ih => rw [List.flatMap_cons, List.length_append, h, ih, List.length_cons, Nat.mul_add]; omega
theorem nat4_length {f : Nat → List Byte} {n : Nat} (h : ∀ c, (f c).length = n) : (nat4 f).length = 4 * n := by
  simp only [nat4, List.length_append, h]
  omega
theorem loopBytes_length (c : Clu) (i : Nat) : (loopBytes c i).length = 24 := by
  unfold loopBytes
  split <;> simp [wordLe_length, natLe_length]
theorem lrecBytes_length (c : Clu) : (lrecBytes c).length = 32 := by
  unfold lrecBytes
  split <;> simp [wordLe_length, natLe_length]
theorem holdBytes_length (h : Hold) : (holdBytes h).length = 16 := by simp [holdBytes, wordLe_length, natLe_length]
theorem headerRest_length {r : Role} (h : r.holds.length ≤ 16) : (headerRest r).length = 0x7A0 := by
  have hret (c : Nat) : (match (r.cluN c).lrec with | some l => wordLe l.ret | none => natLe 8 0).length = 8 := by
    split <;> simp [wordLe_length, natLe_length]
  have hstrm (n : Nat) : (match r.strm? n with | some t => natLe 8 t.c ++ natLe 8 t.sp | none => natLe 16 0).length = 16 := by
    split <;> simp [natLe_length]
  simp only [headerRest, List.length_append, nat4_length hret, flatMap_length hstrm, nat4_length fun c => nat4_length (loopBytes_length (r.cluN c)),
    nat4_length fun c => lrecBytes_length (r.cluN c), flatMap_length holdBytes_length, natLe_length, List.length_range]
  omega
theorem stopHeader_length {s : State} {r : Role} {i : StopInfo} (h : r.holds.length ≤ 16) : (stopHeader s r i).length = 0x800 := by
  simp [stopHeader_eq, headerFields, headerRest_length h, wordLe_length, natLe_length]

/-- R2: a word of which any number is stored. -/
theorem leWord_natLe (n : Nat) : leWord (natLe 8 n) = BitVec.ofNat 64 n := by
  unfold leWord
  rw [leNat_natLe]
  exact BitVec.eq_of_toNat_eq (by simp)

/-- The header of R357 and R358 as it stands at address b of u, of role r stopped as i, at time d. -/
structure HeaderAt (u : State) (b : Nat) (r : Role) (i : StopInfo) (d : Nat) : Prop where
  cause : u.memWord b = BitVec.ofNat 64 (causeWord i)
  info0 : u.memWord (b + 8) = i.i0
  info1 : u.memWord (b + 0x10) = i.i1
  time : u.memWord (b + 0x18) = BitVec.ofNat 64 d
  pcs : ∀ c : Cluster, u.memWord (b + 0x20 + 8 * c.num) = pcWord (r.clu c)
  nest : r.nest = none → u.memWord (b + 0x40) = 0
  loops : ∀ c : Cluster, leNat (u.memRead (b + 0x50 + c.num) 1) = (r.clu c).loops.length % 256
  entry : u.memWord (b + 0x58) = r.entryPend

/-- The offset of the header's field j. -/
def headerOffset (j : Nat) : Nat := (([8, 8, 8, 8, 8, 8, 8, 8, 8, 8, 1, 1, 1, 1, 4, 8] : List Nat).take j).sum
theorem headerFields_offset (s : State) (r : Role) (i : StopInfo) {j : Nat} (hj : j ≤ 16) :
    ((headerFields s r i).take j).flatten.length = headerOffset j := by
  have hlen : ((headerFields s r i).take 16).map List.length = [8, 8, 8, 8, 8, 8, 8, 8, 8, 8, 1, 1, 1, 1, 4, 8] := by
    simp [headerFields, wordLe_length, natLe_length]
  rw [List.length_flatten, headerOffset, ← hlen, ← List.map_take, List.take_take, Nat.min_eq_left hj]

theorem headerAt_memWrite (s t : State) (b : Nat) (r : Role) (i : StopInfo) :
    HeaderAt (t.memWrite b (stopHeader s r i)) b r i s.dtime := by
  rw [stopHeader_eq]
  have word {j : Nat} {w : Word} (hj : j ≤ 16) (hp : (headerFields s r i)[j]? = some (wordLe w)) :
      (t.memWrite b (headerFields s r i).flatten).memWord (b + headerOffset j) = w := by
    rw [State.memWord, memRead_memWrite_flatten hp (headerFields_offset s r i hj) (wordLe_length w), leWord_wordLe]
  have nat {j n : Nat} (hj : j ≤ 16) (hp : (headerFields s r i)[j]? = some (natLe 8 n)) :
      (t.memWrite b (headerFields s r i).flatten).memWord (b + headerOffset j) = BitVec.ofNat 64 n := by
    rw [State.memWord, memRead_memWrite_flatten hp (headerFields_offset s r i hj) (natLe_length 8 n), leWord_natLe]
  have byte {j n : Nat} (hj : j ≤ 16) (hp : (headerFields s r i)[j]? = some (natLe 1 n)) :
      leNat ((t.memWrite b (headerFields s r i).flatten).memRead (b + headerOffset j) 1) = n % 256 := by
    rw [memRead_memWrite_flatten hp (headerFields_offset s r i hj) (natLe_length 1 n), leNat_natLe, pow_one]
  generalize t.memWrite b (headerFields s r i).flatten = u at word nat byte
  exact {
    cause := nat (j := 0) (by decide) rfl
    info0 := word (j := 1) (by decide) rfl
    info1 := word (j := 2) (by decide) rfl
    time := nat (j := 3) (by decide) rfl
    pcs := fun c => by
      cases c with
      | l => exact word (j := 4) (by decide) rfl
      | m => exact word (j := 5) (by decide) rfl
      | v => exact word (j := 6) (by decide) rfl
      | w => exact word (j := 7) (by decide) rfl
    nest := fun hn => word (j := 8) (by decide) (by simp [headerFields, hn])
    loops := fun c => by
      cases c with
      | l => exact byte (j := 10) (by decide) rfl
      | m => exact byte (j := 11) (by decide) rfl
      | v => exact byte (j := 12) (by decide) rfl
      | w => exact byte (j := 13) (by decide) rfl
    entry := word (j := 15) (by decide) rfl }

/-- A store past the header leaves it. -/
theorem HeaderAt.memWrite {u : State} {b d : Nat} {r : Role} {i : StopInfo} (h : HeaderAt u b r i d) (bs : List Byte) :
    HeaderAt (u.memWrite (b + 0x800) bs) b r i d := by
  have read {a n : Nat} (ha : a + n ≤ b + 0x800) : (u.memWrite (b + 0x800) bs).memRead a n = u.memRead a n :=
    memRead_memWrite_outside _ _ _ _ _ (.inl ha)
  have word {a : Nat} (ha : a + 8 ≤ b + 0x800) : (u.memWrite (b + 0x800) bs).memWord a = u.memWord a := by
    rw [State.memWord, read ha, State.memWord]
  have num (c : Cluster) : c.num < 4 := by cases c <;> decide
  exact {
    cause := (word (by omega)).trans h.cause
    info0 := (word (by omega)).trans h.info0
    info1 := (word (by omega)).trans h.info1
    time := (word (by omega)).trans h.time
    pcs := fun c => (word (by have := num c; omega)).trans (h.pcs c)
    nest := fun hn => (word (by omega)).trans (h.nest hn)
    loops := fun c => by
      rw [read (by have := num c; omega)]
      exact h.loops c
    entry := (word (by omega)).trans h.entry }

/-- R359: the control word of a faulted load's entry. -/
def loadCtl (a : Access) (code info : Nat) : Nat :=
  a.cl.num + a.size.code.toNat * 2 ^ 10 + a.ord.code.toNat * 2 ^ 13 + a.scope.code.toNat * 2 ^ 15 +
    ((a.dests.map Dest.code).headD 0) * 2 ^ 18 + code * 2 ^ 32 + info % 256 * 2 ^ 40

theorem accEntry_load {a : Access} {code n : Nat} {i0 i1 : Word} (hk : a.kind = .ld) (hw : a.wide = false)
    (hs : a.stat = .faulted code i0 i1 n) (buf : Nat) :
    ∃ rest, rest.length = 40 ∧
      accEntry a buf = [wordLe a.addr, wordLe a.pc, natLe 8 (loadCtl a code n), rest].flatten := by
  refine ⟨wordLe a.v ++ (wordLe a.c ++ (wordLe a.len ++ natLe 16 0)), by simp [wordLe_length, natLe_length], ?_⟩
  have hkind : (AKind.ld == AKind.gather) = false ∧ (AKind.ld == AKind.scatter) = false ∧ (AKind.ld == AKind.st) = false ∧
    (AKind.ld == AKind.win 0) = false := by decide
  simp [accEntry, hk, hw, hs, hkind, AStat.codes, AKind.code, AKind.op, loadCtl]

theorem loadCtl_bits {a : Access} {code info : Nat} (hd : ∀ d ∈ a.dests, d.code < 256) (hc : code < 256) :
    bits (BitVec.ofNat 64 (loadCtl a code info)) 1 0 = a.cl.num ∧ bits (BitVec.ofNat 64 (loadCtl a code info)) 5 2 = 0 ∧
    bits (BitVec.ofNat 64 (loadCtl a code info)) 39 32 = code := by
  have hcl : a.cl.num < 4 := by cases a.cl <;> decide
  have hsz := a.size.code.isLt
  have hor := a.ord.code.isLt
  have hsc := a.scope.code.isLt
  have hdest : (a.dests.map Dest.code).headD 0 < 256 := by
    rcases hl : a.dests with _ | ⟨d, l⟩
    · decide
    · exact hd d (by simp [hl])
  simp only [bits, BitVec.toNat_ofNat, loadCtl]
  omega

theorem memWrite_nil (s : State) (a : Nat) : s.memWrite a [] = s := by
  simp [State.memWrite, writeBytes, wholeGranules, granules]

theorem role_memWrite (s : State) (a : Nat) (bs : List Byte) (k : Nat) : (s.memWrite a bs).role k = s.role k := rfl
theorem mem_memWrite (s : State) (a : Nat) (bs : List Byte) : (s.memWrite a bs).mem = writeBytes s.mem a bs := rfl

/-- R357: the record of a role whose entries use no wide-store buffer. -/
theorem writeRecord_plain {s : State} {k : Nat} {i : StopInfo} (hok : saveOk s (s.role k).part.toNat (s.role k).save = true)
    (hwide : wideOf (s.role k) i.entries = []) :
    writeRecord s k i = (s.memWrite (recBase (s.role k)) (stopHeader s (s.role k) i)).memWrite (recBase (s.role k) + 0x800)
      (i.entries.flatMap (entryBytes (s.role k) i.entries)) := by
  unfold writeRecord
  dsimp only
  rw [hok, hwide]
  exact memWrite_nil ..

theorem execStopRecord_record {rs : Slot} {s : State} {i j : StopInfo} {es : List (Nat × Nat)}
    (hst : (s.role rs.key).st = .stopped) (hstop : (s.role rs.key).stop = some i) (hw : i.written = false)
    (hset : settled s rs.key = true) (hwd : withdraw (s.role rs.key) = s.role rs.key) (hes : (s.role rs.key).replays.take 256 = es)
    (hj : j = { i with entries := es, written := true, i1 := info1Of { i with entries := es, written := true } })
    (hok : saveOk s (s.role rs.key).part.toNat (s.role rs.key).save = true) (hwide : wideOf (s.role rs.key) es = []) :
    ∃ u, exec (.stopRecord rs) s = .next u ∧ u.role rs.key = { s.role rs.key with stop := some j } ∧
      (∀ k, k ≠ rs.key → u.role k = s.role k) ∧
      u.mem = ((s.memWrite (recBase (s.role rs.key)) (stopHeader s (s.role rs.key) j)).memWrite (recBase (s.role rs.key) + 0x800)
        (es.flatMap (entryBytes (s.role rs.key) es))).mem := by
  let v := s.setRole rs.key (s.role rs.key)
  have hv : v.role rs.key = s.role rs.key := role_setRole_same ..
  have hchecks : SameChecks s v := sameChecks_setRole ..
  have hrec := writeRecord_plain (s := v) (k := rs.key) (i := j) (by rw [hv, saveOk_of_sameChecks hchecks]; exact hok)
    (by rw [hv, hj]; exact hwide)
  rw [hv] at hrec
  refine ⟨(writeRecord v rs.key j).modRoleAt rs.key (fun r => { r with stop := some j }), ?_, ?_, fun k hk => ?_, ?_⟩
  · show execStopRecord rs s = _
    unfold execStopRecord
    dsimp only
    rw [hstop]
    dsimp only
    rw [if_neg (by simp [hst, hw, hset])]
    have hmod : s.modRoleAt rs.key withdraw = v := by rw [State.modRoleAt, hwd]
    rw [hmod, hv, hes, hj]
  · refine (role_setRole_same ..).trans ?_
    rw [hrec, role_memWrite, role_memWrite, hv]
  · refine (role_setRole_other _ _ _ _ hk).trans ?_
    rw [hrec, role_memWrite, role_memWrite]
    exact role_setRole_other _ _ _ _ hk
  · rw [State.modRoleAt, State.setRole_mem, hrec, show j.entries = es by rw [hj], stopHeader_of_dtime (show v.dtime = s.dtime from rfl),
      mem_memWrite, mem_memWrite, mem_memWrite, mem_memWrite, show v.mem = s.mem from rfl]

theorem withdraw_idle {r : Role} (h : r.acc = []) : withdraw r = r := by
  unfold withdraw
  rw [h]
  dsimp only [List.foldl_nil]
  rw [h, List.filter_nil, List.map_nil, ← h]
theorem replays_idle {r : Role} (h : r.acc = []) (hc : r.copies = []) : r.replays = [] := by
  unfold Role.replays
  rw [h, hc]
  rfl

/-- A request that has faulted stays as it is. -/
theorem withdraw_faulted {r : Role} {a : Access} {code n : Nat} {i0 i1 : Word} (h : r.acc = [a]) (hk : a.kind = .ld)
    (hs : a.stat = .faulted code i0 i1 n) : withdraw r = r := by
  have hkind : (AKind.ld == AKind.fence) = false ∧ (AKind.ld == AKind.pref) = false := by decide
  have hkeep : a.leftOpen = false := by rw [Access.leftOpen, hs]
  unfold withdraw
  rw [h, List.foldl_cons, List.foldl_nil, hs]
  dsimp only
  simp only [h, Access.isFence, hk, hkind, hkeep, Bool.or_false, Bool.not_false, List.filter_cons, List.filter_nil, if_pos,
    List.map_cons, List.map_nil, Bool.false_eq_true, if_false]
  rw [← h]
theorem replays_faulted {r : Role} {a : Access} {code n : Nat} {i0 i1 : Word} (h : r.acc = [a]) (hc : r.copies = [])
    (hs : a.stat = .faulted code i0 i1 n) : r.replays = [(a.id, 0)] := by
  unfold Role.replays
  rw [h, hc]
  simp [AStat.isFaulted, hs, sortBy, insertBy]

end Sys2Proof.Machine
end

section
/-! ### Stops are recorded and told (R350, R351, R356 to R360) -/
namespace Sys2Proof.Machine

theorem HeaderAt.of_mem {u t : State} {b d : Nat} {r : Role} {i : StopInfo} (h : HeaderAt t b r i d) (hm : u.mem = t.mem) :
    HeaderAt u b r i d := by
  have read (a n : Nat) : u.memRead a n = t.memRead a n := by rw [State.memRead, hm, State.memRead]
  have word (a : Nat) : u.memWord a = t.memWord a := by rw [State.memWord, read, State.memWord]
  exact {
    cause := (word _).trans h.cause
    info0 := (word _).trans h.info0
    info1 := (word _).trans h.info1
    time := (word _).trans h.time
    pcs := fun c => (word _).trans (h.pcs c)
    nest := fun hn => (word _).trans (h.nest hn)
    loops := fun c => by
      rw [read]
      exact h.loops c
    entry := (word _).trans h.entry }

/-- A stop with nothing in flight: a record without entries. -/
theorem execStopRecord_idle {rs : Slot} {s : State} {i : StopInfo} (hst : (s.role rs.key).st = .stopped)
    (hstop : (s.role rs.key).stop = some i) (hw : i.written = false) (hset : settled s rs.key = true)
    (hcop : (s.role rs.key).copies = []) (hholds : (s.role rs.key).holds.length ≤ 16)
    (hok : saveOk s (s.role rs.key).part.toNat (s.role rs.key).save = true) (hacc : (s.role rs.key).acc = []) (hia : i.acc = none) :
    ∃ u, exec (.stopRecord rs) s = .next u ∧
      HeaderAt u (recBase (s.role rs.key)) (s.role rs.key) { i with entries := [], written := true } s.dtime ∧
      u.role rs.key = { s.role rs.key with stop := some { i with entries := [], written := true } } ∧
      (∀ a, (a < recBase (s.role rs.key) ∨ recBase (s.role rs.key) + 0x800 ≤ a) → readByte u.mem a = readByte s.mem a) ∧
      ∀ k, k ≠ rs.key → u.role k = s.role k := by
  have hj : ({ i with entries := [], written := true } : StopInfo) =
      { i with entries := [], written := true, i1 := info1Of { i with entries := [], written := true } } := by
    simp only [info1Of, hia]
  obtain ⟨u, hu, hrole, hothers, hmem⟩ := execStopRecord_record hst hstop hw hset (withdraw_idle hacc)
    (es := []) (by rw [replays_idle hacc hcop]; rfl) hj hok rfl
  rw [List.flatMap_nil, memWrite_nil] at hmem
  refine ⟨u, hu, (headerAt_memWrite s s _ _ _).of_mem hmem, hrole, fun a ha => ?_, hothers⟩
  rw [hmem, mem_memWrite]
  refine readByte_writeBytes_outside _ _ _ _ ?_
  rw [stopHeader_length hholds]
  exact ha

/-- A stop for a faulted load: a record with its entry. -/
theorem execStopRecord_faulted {rs : Slot} {s : State} {i : StopInfo} {a : Access} {j1 : Word} {n : Nat}
    (hst : (s.role rs.key).st = .stopped) (hstop : (s.role rs.key).stop = some i) (hw : i.written = false)
    (hset : settled s rs.key = true) (hcop : (s.role rs.key).copies = []) (hholds : (s.role rs.key).holds.length ≤ 16)
    (hok : saveOk s (s.role rs.key).part.toNat (s.role rs.key).save = true) (hacc : (s.role rs.key).acc = [a])
    (hk : a.kind = .ld) (hwide : a.wide = false) (hs : a.stat = .faulted i.code i.i0 j1 n)
    (hia : i.acc = some a.id) (hcode : i.code = 0x10 ∨ i.code = 0x11 ∨ i.code = 0x14) (hi1 : i.i1 ≠ 0xFFFE) :
    let b := recBase (s.role rs.key)
    ∃ u, exec (.stopRecord rs) s = .next u ∧
      HeaderAt u b (s.role rs.key) { i with entries := [(a.id, 0)], i1 := 0, written := true } s.dtime ∧
      u.role rs.key = { s.role rs.key with stop := some { i with entries := [(a.id, 0)], i1 := 0, written := true } } ∧
      u.memWord (b + 0x800) = a.addr ∧ u.memWord (b + 0x808) = a.pc ∧
      u.memWord (b + 0x810) = BitVec.ofNat 64 (loadCtl a i.code n) ∧
      ∀ x, (x < b ∨ b + 0x840 ≤ x) → readByte u.mem x = readByte s.mem x := by
  intro b
  have hfind : (s.role rs.key).acc? a.id = some a := by simp [Role.acc?, hacc]
  have hj : ({ i with entries := [(a.id, 0)], i1 := 0, written := true } : StopInfo) =
      { i with entries := [(a.id, 0)], written := true, i1 := info1Of { i with entries := [(a.id, 0)], written := true } } := by
    have hindex : info1Of { i with entries := [(a.id, 0)], written := true } = 0 := by
      simp only [info1Of, hia]
      rw [if_pos (by simp only [Bool.and_eq_true, Bool.or_eq_true, decide_eq_true_eq, or_assoc]; exact ⟨hcode, hi1⟩)]
      simp
    rw [hindex]
  have hnowide : wideOf (s.role rs.key) [(a.id, 0)] = [] := by simp [wideOf, hfind, hwide]
  obtain ⟨u, hu, hrole, hothers, hmem⟩ := execStopRecord_record hst hstop hw hset (withdraw_faulted hacc hk hs)
    (es := [(a.id, 0)]) (by rw [replays_faulted hacc hcop hs]; rfl) hj hok hnowide
  obtain ⟨rest, hrest, hentry⟩ := accEntry_load hk hwide hs ((wideOf (s.role rs.key) [(a.id, 0)]).findIdx (fun c => c.id = a.id))
  have hbytes : [(a.id, 0)].flatMap (entryBytes (s.role rs.key) [(a.id, 0)]) =
      [wordLe a.addr, wordLe a.pc, natLe 8 (loadCtl a i.code n), rest].flatten := by
    rw [List.flatMap_cons, List.flatMap_nil, List.append_nil, entryBytes, hfind]
    exact hentry
  rw [hbytes] at hmem
  have field {k o : Nat} {p : List Byte} (hp : [wordLe a.addr, wordLe a.pc, natLe 8 (loadCtl a i.code n), rest][k]? = some p)
      (ho : ([wordLe a.addr, wordLe a.pc, natLe 8 (loadCtl a i.code n), rest].take k).flatten.length = o) (h8 : p.length = 8) :
      u.memRead (b + 0x800 + o) 8 = p := by
    rw [State.memRead, hmem]
    exact memRead_memWrite_flatten hp ho h8 ..
  refine ⟨u, hu, ((headerAt_memWrite s s _ _ _).memWrite _).of_mem hmem, hrole, ?_, ?_, ?_, fun x hx => ?_⟩
  · rw [State.memWord, ← Nat.add_zero (b + 0x800), field (k := 0) (o := 0) rfl rfl (wordLe_length _), leWord_wordLe]
  · rw [State.memWord, field (k := 1) (o := 8) rfl (by simp [wordLe_length]) (wordLe_length _), leWord_wordLe]
  · rw [State.memWord, field (k := 2) (o := 16) rfl (by simp [wordLe_length]) (natLe_length ..), leWord_natLe]
  · rw [hmem, mem_memWrite, mem_memWrite, readByte_writeBytes_outside, readByte_writeBytes_outside]
    · rw [stopHeader_length hholds]
      omega
    · simp only [List.length_flatten, List.map_cons, List.map_nil, List.sum_cons, List.sum_nil, wordLe_length, natLe_length, hrest]
      omega

theorem takeTrap_plain {s : State} {code : Nat} {i0 i1 : Word} (h : code ≠ 0x60) :
    takeTrap s code i0 i1 = s.setRole s.curKey { s.curRole with
      st := .stopped,
      stop := some { kind := 1, code := code, cl := s.cur.cl, i0 := i0, i1 := i1, acc := none, written := false, posted := false,
                     entries := [], at_ := s.cycle, later := [] },
      lastcode := BitVec.ofNat 8 code, stopReq := none, snap := none, frozen := s.curRole.frozen || s.curRole.violated } := by
  have hd : decide (code = tVIOL) = false := decide_eq_false h
  unfold takeTrap takeStop
  simp only [hd, Bool.or_false, Bool.false_and, Bool.false_eq_true, if_false]
  rfl
/-- R385: a violation freezes its role and is logged. -/
theorem takeTrap_violation {s : State} {i0 i1 : Word} :
    takeTrap s 0x60 i0 i1 = (s.setRole s.curKey { s.curRole with
      st := .stopped,
      stop := some { kind := 1, code := 0x60, cl := s.cur.cl, i0 := i0, i1 := i1, acc := none, written := false, posted := false,
                     entries := [], at_ := s.cycle, later := [] },
      lastcode := BitVec.ofNat 8 0x60, stopReq := none, snap := none, frozen := true }).logViol 0 s.curKey i0 := by
  have hd : decide (0x60 = tVIOL) = true := rfl
  unfold takeTrap takeStop
  simp only [hd, Bool.or_true, Bool.true_and, Option.isNone_none, if_true]
  rfl
theorem logViol_eq (s : State) (kind who : Nat) (a : Word) :
    ∃ l, s.logViol kind who a = { s with viols := l ++ [{ kind := kind, who := who, addr := a }] } := by
  refine ⟨s.viols.drop (s.viols.length + 1 - 64), ?_⟩
  unfold State.logViol
  dsimp only
  rw [List.drop_append_of_le_length (by omega)]

theorem postSvc_room {s : State} {n : Nat} (e : Word) (hw : (s.svc n).waiting = []) (hl : (s.svc n).queue.length < 256) :
    s.postSvc n e = s.setSvc n { s.svc n with queue := (s.svc n).queue ++ [e] } := by
  unfold State.postSvc
  dsimp only
  rw [if_pos (by simp [hw, hl])]
theorem postSvc_full {s : State} {n : Nat} (e : Word) (hl : 256 ≤ (s.svc n).queue.length) :
    s.postSvc n e = s.setSvc n { s.svc n with waiting := (s.svc n).waiting ++ [e] } := by
  unfold State.postSvc
  dsimp only
  rw [if_neg (by simp; omega)]

/-- R360: the report of a recorded stop, to the service core for kind 1 and to the scheduler otherwise. -/
theorem execStopReportPost_post {rs : Slot} {s : State} {i : StopInfo} (hstop : (s.role rs.key).stop = some i)
    (hw : i.written = true) (hp : i.posted = false) :
    let t := s.setRole rs.key { s.role rs.key with stop := some { i with posted := true } }
    let e := reportWord rs.key (s.role rs.key) i
    (i.kind = 2 ∨ i.kind = 3 → exec (.stopReportPost rs) s = .next { t with schedq := s.schedq ++ [e] }) ∧
    ∀ n, i.kind = 1 → s.reporter (s.role rs.key).part.toNat (rs.key / 4) = some n →
      exec (.stopReportPost rs) s = .next (t.postSvc n e) := by
  intro t e
  have hexec : exec (.stopReportPost rs) s =
      (let u := if i.kind = 1 || i.kind = 4 then t.toSvc (s.role rs.key).part.toNat (rs.key / 4) e else t
       .next (if i.kind = 1 then u else { u with schedq := u.schedq ++ [e] })) := by
    show execStopReportPost rs s = _
    unfold execStopReportPost
    dsimp only
    rw [hstop]
    dsimp only
    rw [if_neg (by simp [hw, hp])]
    rfl
  refine ⟨fun hk => ?_, fun n hk hn => ?_⟩
  · have h1 : i.kind ≠ 1 := by omega
    have h4 : i.kind ≠ 4 := by omega
    rw [hexec]
    simp only [h1, h4, decide_false, Bool.or_false, Bool.false_eq_true, if_false]
    rfl
  · rw [hexec]
    simp only [hk, decide_true, Bool.true_or, if_true]
    rw [State.toSvc, show t.reporter (s.role rs.key).part.toNat (rs.key / 4) = some n from hn]

theorem reportWord_slot (rs : Slot) (r : Role) (i : StopInfo) : reportWord rs.key r i =
    BitVec.ofNat 64 (rs.core.toNat + rs.slot.toNat * 2 ^ 8 + 2 ^ 15 + i.code * 2 ^ 16 + i.kind * 2 ^ 24 + r.lid.toNat * 2 ^ 32) := by
  have hcore : rs.key / 4 = rs.core.toNat := by unfold Slot.key; omega
  have hslot : rs.key % 4 = rs.slot.toNat := by unfold Slot.key; omega
  rw [reportWord, hcore, hslot]

theorem execStopQueueRead_live {n : Nat} {s : State} (hf : (s.svc n).frozen = false) :
    exec (.stopQueueRead n) s = .next (match (s.svc n).queue with
      | [] => s.setSvc n { s.svc n with lastRead := 0 }
      | e :: t => s.setSvc n { s.svc n with lastRead := e, queue := t ++ (s.svc n).waiting.take 1, waiting := (s.svc n).waiting.drop 1 }) := by
  show execStopQueueRead n s = _
  unfold execStopQueueRead
  dsimp only
  rw [hf]
  rfl

/-- Settles O45: a bundle's members commit one after another, each on the role as it stood before; a stop leaves its cause, then its
record, then its report. -/
theorem bundlesWatchdogStops : Obligations.BundlesWatchdogStops := by
  unfold Obligations.BundlesWatchdogStops
  refine ⟨⟨?_, ?_, ?_, ?_, ?_⟩, ?_, ?_, ?_, ?_⟩
  · intro rs s s1 s2 hl hw x i j r hrun hacc hcop hm hv hcl hcw hls hws hlg hln hwg hwn hll hwl hlr hwr hh1 hh2
    exact execBundleIssue_movks hrun hacc hcop hm hv hcl hcw hls hws hlg hln hwg hwn hll hwl hlr hwr hh1 hh2
  · intro rs s s1 c1 c2 n1 n2 b1 b2 w1 w2 r hrun hacc hcop hnest hc hg h1 h2
    exact execBundleIssue_writes hrun hacc hcop hnest hc hg h1 h2
  · exact fun rs s hp hf => execBundleIssue_unperformed hp hf
  · intro rs s s1 ms c id hrun hf hg hms ready
    have h := execBundleIssue_faulted hrun hf hg hms
    refine ⟨fun hr => h.trans ?_, fun hr => h.trans ?_⟩
    · rw [show allReady rs.key ms _ = true from hr]
      rfl
    · rw [show allReady rs.key ms _ = false from hr]
      rfl
  · intro rs s r
    refine ⟨fun c hfront hq hlim hdue => ?_, fun hnot => ?_⟩
    · rw [execWatchdog_eq, if_pos ⟨hq, hlim, hdue⟩, front_eq hfront]
    · rw [execWatchdog_eq, if_neg]
      rintro ⟨hq, hlim, hdue⟩
      rcases hnot with h | h | h
      · rw [hq] at h
        cases h
      · exact hlim h
      · exact absurd hdue (Nat.not_le.mpr h)
  · intro s code i0 i1 info r
    refine ⟨fun h => takeTrap_plain h, ?_⟩
    rintro rfl
    obtain ⟨l, hlog⟩ := logViol_eq (s.setRole s.curKey { r with frozen := true }) 0 s.curKey i0
    exact ⟨l, takeTrap_violation.trans hlog⟩
  · intro rs s i hst hstop hw hset hcop hholds hnest hok r b header
    refine ⟨fun hacc hia => ?_, fun a j1 n hacc hk hwide hd hs hia hcode hi1 => ?_⟩
    · obtain ⟨u, hu, hh, hrole, hmem, hothers⟩ := execStopRecord_idle hst hstop hw hset hcop hholds hok hacc hia
      exact ⟨u, hu, ⟨hh.cause, hh.info0, hh.info1, hh.time, hh.pcs, hh.nest hnest, hh.loops, hh.entry⟩, hrole, hmem, hothers⟩
    · obtain ⟨u, hu, hh, hrole, haddr, hpc, hctl, hmem⟩ :=
        execStopRecord_faulted hst hstop hw hset hcop hholds hok hacc hk hwide hs hia hcode hi1
      obtain ⟨h1, h2, h3⟩ := loadCtl_bits (info := n) hd (show i.code < 256 by omega)
      exact ⟨u, hu, ⟨hh.cause, hh.info0, hh.info1, hh.time, hh.pcs, hh.nest hnest, hh.loops, hh.entry⟩, hrole, haddr, hpc,
        (congrArg (bits · 1 0) hctl).trans h1, (congrArg (bits · 5 2) hctl).trans h2, (congrArg (bits · 39 32) hctl).trans h3, hmem⟩
  · intro rs s i hstop hw hp r e t
    obtain ⟨hsched, hsvc⟩ := execStopReportPost_post hstop hw hp
    rw [reportWord_slot] at hsched hsvc
    exact ⟨hsched, fun n hk hn hwait hlen => (hsvc n hk hn).trans (congrArg _ (postSvc_room (s := t) e hwait hlen)),
      fun n hk hn hlen => (hsvc n hk hn).trans (congrArg _ (postSvc_full (s := t) e hlen))⟩
  · intro n s hf
    refine ⟨fun hq => ?_, fun e t hq => ?_⟩
    · rw [execStopQueueRead_live hf, hq]
    · rw [execStopQueueRead_live hf, hq]

end Sys2Proof.Machine
end

section
/-! ### Arrivals (R72 to R75) -/
namespace Sys2Proof.Machine

/-! What a read that is no access finds does not depend on roles and cores. -/

/-- The state with other roles and cores. -/
def State.rehoused (s : State) (R : SMap Role) (C : SMap CoreSt) : State := { s with roles := R, cores := C }

theorem ite_error_map {ε α β : Type} {p : Prop} [Decidable p] {e : ε} {f : α → β} {x : Except ε β} {y : Except ε α}
    (h : x = y.map f) : (if p then .error e else x) = (if p then .error e else y).map f := by
  split
  · rfl
  · exact h

section
variable (s : State) (R : SMap Role) (C : SMap CoreSt)

theorem sameChecks_rehoused : SameChecks s (s.rehoused R C) := .of_fields rfl rfl rfl rfl

/-- What is found in s, with its state rehoused. -/
def Xlat.rehoused (x : Xlat) : Xlat := { x with st := x.st.rehoused R C }

theorem useLeaf_rehoused (core asid : Nat) (p : Partition) (gen : BitVec 16) (va : Word) (want : Want) (l : Leaf) :
    useLeaf (s.rehoused R C) core p asid gen va want l = (useLeaf s core p asid gen va want l).map (Xlat.rehoused R C) := by
  unfold useLeaf
  extract_lets e frame attr okPerm region pa
  rw [inWindows_of_sameChecks (sameChecks_rehoused s R C)]
  iterate 8 refine ite_error_map ?_
  dsimp only [Except.map]
  refine congrArg Except.ok ?_
  unfold Xlat.rehoused
  dsimp only
  split <;> rfl

theorem walk_rehoused (p : Partition) (va : Word) (ls : List (Nat × Nat × Bool)) (node : Nat) :
    walk (s.rehoused R C) p va node ls = walk s p va node ls := by
  induction ls generalizing node with
  | nil => rfl
  | cons l ls ih =>
    unfold walk
    dsimp only
    rw [inWindows_of_sameChecks (sameChecks_rehoused s R C), ih]
    rfl
theorem freshLeaf_rehoused (asid : Nat) (gen : BitVec 16) (va : Word) :
    freshLeaf (s.rehoused R C) asid gen va = freshLeaf s asid gen va := walk_rehoused s R C ..

theorem translateW_rehoused (core asid : Nat) (gen : BitVec 16) (va : Word) (want : Want) :
    translateW (s.rehoused R C) core asid gen va want = (translateW s core asid gen va want).map (Xlat.rehoused R C) := by
  unfold translateW
  rw [freshLeaf_rehoused]
  split
  · exact useLeaf_rehoused s R C ..
  · rfl
theorem translate_rehoused (core asid : Nat) (va : Word) (want : Want) :
    translate (s.rehoused R C) core asid va want = (translate s core asid va want).map (Xlat.rehoused R C) := by
  unfold translate translateG
  rw [freshLeaf_rehoused, show (s.rehoused R C).asid asid = s.asid asid from rfl,
    show cachedLeaf (s.rehoused R C) core asid (s.asid asid).gen va = cachedLeaf s core asid (s.asid asid).gen va from rfl]
  rcases cachedLeaf s core asid (s.asid asid).gen va with _ | c
  · exact translateW_rehoused s R C ..
  · dsimp only
    rw [show (s.rehoused R C).cycle = s.cycle from rfl]
    split
    · exact useLeaf_rehoused s R C ..
    · exact translateW_rehoused s R C ..

theorem readAt_rehoused (core : Nat) (r : Role) (va : Word) (want : Want) (n : Nat) :
    readAt (s.rehoused R C) core r va want n = (readAt s core r va want n).map (fun y => (y.1, y.2.rehoused R C)) := by
  unfold readAt
  rw [translate_rehoused]
  rcases translate s core r.asid.toNat va want with c | x
  · rfl
  · dsimp only [Except.map, Xlat.rehoused]
    rw [show linkUp (s.rehoused R C) r x.pa = linkUp s r x.pa from rfl,
      show memPoisoned (x.st.rehoused R C) x.pa n = memPoisoned x.st x.pa n from rfl]
    iterate 3 refine ite_error_map ?_
    rfl

theorem handlerBlock_rehoused (core : Nat) (r : Role) (h : Word) :
    handlerBlock (s.rehoused R C) core r h = (handlerBlock s core r h).map (fun y => (y.1, y.2.rehoused R C)) := by
  unfold handlerBlock
  rw [readAt_rehoused]
  split
  · rfl
  · rcases readAt s core r h .fetch 32 with e | ⟨pa, t⟩ <;> rfl

end

/-! Acceptance (R73). -/

theorem freeArea_lowest {c : CoreSt} {n : Nat} (hn : n < 16) (hfree : n ∉ c.areas) (hlow : ∀ i < n, i ∈ c.areas) :
    c.freeArea = some n := by
  unfold CoreSt.freeArea
  rw [List.find?_range_eq_some]
  exact ⟨by simpa using hfree, List.mem_range.mpr hn, fun j hj => by simpa using hlow j hj⟩
theorem freeArea_none {c : CoreSt} (h : ∀ n < 16, n ∈ c.areas) : c.freeArea = none := by
  unfold CoreSt.freeArea
  simpa [List.find?_eq_none] using h

theorem accept_free {s : State} {core n : Nat} (h : (s.core core).freeArea = some n) (a : Arrival) : s.accept core a =
    some ((s.tileWrite core ((s.core core).arrBase.toNat + 4096 * n) a.payload).setCore core
      { s.core core with areas := linsert (s.core core).areas n,
                         arrq := queueArr (s.core core).arrq { area := n, arr := a, at_ := s.cycle } }) := by
  unfold State.accept
  dsimp only
  rw [h]
  rfl
theorem accept_full {s : State} {core : Nat} (h : (s.core core).freeArea = none) (a : Arrival) : s.accept core a = none := by
  unfold State.accept
  dsimp only
  rw [h]

/-- R73: an arrival enters before the first of those of its cycle whose sender is higher. -/
theorem queueArr_place (q : List ArrEnt) (e : ArrEnt) :
    let later (x : ArrEnt) : Prop := x.at_ = e.at_ ∧ e.arr.sender.toNat < x.arr.sender.toNat
    ∃ l1 l2, q = l1 ++ l2 ∧ queueArr q e = l1 ++ e :: l2 ∧ (∀ x ∈ l1, ¬ later x) ∧ ∀ x, l2.head? = some x → later x := by
  intro later
  let before (x : ArrEnt) : Bool := !(decide (x.at_ = e.at_) && decide (e.arr.sender.toNat < x.arr.sender.toNat))
  have hbefore (x : ArrEnt) : before x = true ↔ ¬ later x := by
    rw [Bool.not_eq_true', ← Bool.not_eq_true, Bool.and_eq_true, decide_eq_true_iff, decide_eq_true_iff]
  refine ⟨q.takeWhile before, q.dropWhile before, List.takeWhile_append_dropWhile.symm, rfl, fun x hx => ?_, fun x hx => ?_⟩
  · exact (hbefore x).mp (List.mem_takeWhile_imp hx)
  · have hnot := List.head?_dropWhile_not before q
    rw [hx] at hnot
    exact Decidable.not_not.mp fun h => by simp [(hbefore x).mpr h] at hnot

/-! Starts (R74, R75). -/

theorem qualifying_lowest {s : State} {core k : Nat} {asid : BitVec 16} {h : Word} (hk : k / 4 = core)
    (hq : (s.role k).qualifies asid h = true) (hlow : ∀ j, j / 4 = core → j < k → (s.role j).qualifies asid h = false) :
    qualifying s core asid h = some k := by
  have hrange : (List.range 4).find? (fun j => (s.role (4 * core + j)).qualifies asid h) = some (k % 4) := by
    rw [List.find?_range_eq_some]
    refine ⟨?_, List.mem_range.mpr (Nat.mod_lt _ (by decide)), fun j hj => ?_⟩
    · rw [show 4 * core + k % 4 = k by omega]
      exact hq
    · rw [hlow (4 * core + j) (by omega) (by omega)]
      rfl
  unfold qualifying
  rw [List.find?_map]
  refine (congrArg _ hrange).trans ?_
  exact congrArg some (show 4 * core + k % 4 = k by omega)

/-- The state in which the arrival e at the head of its queue starts role k. -/
def started (s : State) (core k : Nat) (e : ArrEnt) (t : List ArrEnt) : State :=
  s.rehoused (mput s.roles k (startState (s.role k) s.cycle e.area e.arr)) (mput s.cores core { s.core core with arrq := t })

theorem noteHolder_other {a : Arrival} (h : bits a.sender 35 32 ≠ 2) (s : State) (k : Nat) : noteHolder s k a = s := if_neg h

theorem startHead_starts {s : State} {core k : Nat} {e : ArrEnt} {t : List ArrEnt} (hq : (s.core core).arrq = e :: t)
    (hk : qualifying s core e.arr.asid e.arr.handler = some k) (hat : e.at_ < s.cycle) (hem : s.emergency = false)
    (hkind : bits e.arr.sender 35 32 ≠ 2) :
    startHead s core = loadEntries (started s core k e t) k e.arr.handler := by
  unfold startHead
  rw [hq]
  dsimp only
  rw [hk]
  dsimp only
  rw [if_neg (by simp [hem]; omega), noteHolder_other hkind]
  rfl
theorem startHead_waits {s : State} {core : Nat} {e : ArrEnt} {t : List ArrEnt} (hq : (s.core core).arrq = e :: t)
    (h : s.cycle ≤ e.at_ ∨ s.emergency = true) : startHead s core = s := by
  unfold startHead
  rw [hq]
  dsimp only
  split
  · rfl
  · exact if_pos (by simpa using h)

/-- What a role reads depends on its address space, its launch and its place in the process group alone. -/
theorem readAt_role {q r : Role} (ha : q.asid = r.asid) (hp : q.part = r.part) (hl : q.lid = r.lid) (hr : q.rank = r.rank)
    (s : State) (core : Nat) (va : Word) (want : Want) (n : Nat) : readAt s core q va want n = readAt s core r va want n := by
  unfold readAt inGroup linkUp portOf peerPort portTo
  rw [ha, hp, hl, hr]
theorem handlerBlock_startState (s : State) (core : Nat) (r : Role) (h : Word) (cycle area : Nat) (a : Arrival) :
    handlerBlock s core (startState r cycle area a) h = handlerBlock s core r h := by
  unfold handlerBlock
  rw [readAt_role (q := startState r cycle area a) (r := r) (by simp [startState]) (by simp [startState]) (by simp [startState])
    (by simp [startState])]
theorem x_startState (r : Role) (cycle area : Nat) (a : Arrival) (n : Nat) : (startState r cycle area a).x n =
    if n = 4 then a.x4 else if n = 3 then a.sender else if n = 2 then BitVec.ofNat 64 a.payload.length
    else if n = 1 then BitVec.ofNat 64 (0x400000 + 4096 * area) else r.x n := by
  have h (n : Nat) (v : Word) (q : Role) (m : Nat) : (q.setX n v).x m = if m = n then v else q.x m := x_setX q n m v
  show Role.x ((((r.setX 1 _).setX 2 _).setX 3 _).setX 4 _) n = _
  rw [h, h, h, h]

/-- The role that an arrival starts, at the entries of its handler block. -/
def enteredRole (r : Role) (cycle : Nat) (e : ArrEnt) (es : List Word) : Role :=
  { (startState r cycle e.area e.arr).enter es with entryPend := 0 }
theorem clu_enter (r : Role) (es : List Word) (c : Cluster) : (r.enter es).clu c = entryClu (es.getD c.num 0) := by
  cases c <;> rfl

theorem loadEntries_started {s s1 : State} {core k : Nat} {e : ArrEnt} {t : List ArrEnt} {es : List Word} (hk : k / 4 = core)
    (hb : handlerBlock s core (s.role k) e.arr.handler = .ok (es, s1)) :
    ∃ u, loadEntries (started s core k e t) k e.arr.handler = u ∧ u.mem = s1.mem ∧ (u.core core).arrq = t ∧
      u.role k = enteredRole (s.role k) s.cycle e es ∧ ∀ j, j ≠ k → u.role j = s.role j := by
  let v := started s core k e t
  have hrole : v.role k = startState (s.role k) s.cycle e.area e.arr := mget_mput_same ..
  have hblock : handlerBlock v (k / 4) (v.role k) e.arr.handler = .ok (es, s1.rehoused v.roles v.cores) := by
    rw [hk, hrole, handlerBlock_startState]
    refine (handlerBlock_rehoused s v.roles v.cores ..).trans ?_
    rw [hb]
    rfl
  have hload : loadEntries v k e.arr.handler =
      (s1.rehoused v.roles v.cores).modRoleAt k (fun r => { r.enter es with entryPend := 0 }) := by
    unfold loadEntries
    rw [hblock]
  refine ⟨_, hload, rfl, ?_, ?_, fun j hj => ?_⟩
  · show (mget CoreSt.reset (mput s.cores core { s.core core with arrq := t }) core).arrq = t
    rw [mget_mput_same]
  · refine (role_setRole_same ..).trans ?_
    rw [show (s1.rehoused v.roles v.cores).role k = startState (s.role k) s.cycle e.area e.arr from hrole]
    rfl
  · exact (role_setRole_other _ _ _ _ hj).trans (mget_mput_other _ _ _ _ _ hj)

theorem role_takeStop (s : State) (k kind code : Nat) (cl : Cluster) (i0 i1 : Word) (acc : Option Nat) :
    (takeStop s k kind code cl i0 i1 acc).role k = { s.role k with
      st := .stopped,
      stop := some { kind := kind, code := code, cl := cl, i0 := i0, i1 := i1, acc := acc, written := false, posted := false,
                     entries := [], at_ := s.cycle, later := [] },
      lastcode := BitVec.ofNat 8 code, stopReq := none, snap := none,
      frozen := (s.role k).frozen || (s.role k).violated || code = tVIOL } := by
  unfold takeStop
  dsimp only
  split <;> exact role_setRole_same ..

theorem loadEntries_unread {s : State} {core k code : Nat} {i1 : Word} {e : ArrEnt} {t : List ArrEnt} (hk : k / 4 = core)
    (hb : handlerBlock s core (s.role k) e.arr.handler = .error (code, i1)) :
    ((loadEntries (started s core k e t) k e.arr.handler).role k).st = .stopped ∧
    ((loadEntries (started s core k e t) k e.arr.handler).role k).entryPend = e.arr.handler ∧
    ((loadEntries (started s core k e t) k e.arr.handler).role k).lastcode = BitVec.ofNat 8 code := by
  let v := started s core k e t
  have hrole : v.role k = startState (s.role k) s.cycle e.area e.arr := mget_mput_same ..
  have hblock : handlerBlock v (k / 4) (v.role k) e.arr.handler = .error (code, i1) := by
    rw [hk, hrole, handlerBlock_startState]
    refine (handlerBlock_rehoused s v.roles v.cores ..).trans ?_
    rw [hb]
    rfl
  have hload : loadEntries v k e.arr.handler = takeStop (v.modRoleAt k (fun r =>
      { r with cl := Clu.at_ e.arr.handler, cm := Clu.at_ e.arr.handler, cv := Clu.at_ e.arr.handler, cw := Clu.at_ e.arr.handler,
               entryPend := e.arr.handler })) k 1 code .l e.arr.handler i1 none := by
    unfold loadEntries
    rw [hblock]
  rw [show loadEntries (started s core k e t) k e.arr.handler = _ from hload, role_takeStop, State.modRoleAt, role_setRole_same]
  exact ⟨rfl, rfl, rfl⟩

section
variable (r : Role) (cycle : Nat) (e : ArrEnt) (es : List Word)
theorem x_enteredRole (n : Nat) : (enteredRole r cycle e es).x n = (startState r cycle e.area e.arr).x n := by
  simp only [enteredRole, Role.enter, Role.x]
theorem clu_enteredRole (c : Cluster) : (enteredRole r cycle e es).clu c = entryClu (es.getD c.num 0) := by
  cases c <;> simp only [enteredRole, Role.enter, Role.clu, Cluster.num]
/-- R75: what else a started role begins with. -/
theorem enteredRole_rest : (enteredRole r cycle e es).st = .running ∧ (enteredRole r cycle e es).arrival = some e.area ∧
    (enteredRole r cycle e es).qs = [] ∧ (enteredRole r cycle e es).ps = r.ps ∧ (enteredRole r cycle e es).vs = r.vs ∧
    (enteredRole r cycle e es).eid = if kindOf e.arr.sender = 1 then e.arr.x4.setWidth 32 else 0 := by
  refine ⟨?_, ?_, ?_, ?_, ?_, ?_⟩ <;> simp only [enteredRole, startState, Role.enter, Role.setX_ps, Role.setX_vs]
end

end Sys2Proof.Machine
end

section
/-! ### Messages, vectors, spawns and binds (R211, R263, R264, R305, R316) -/
namespace Sys2Proof.Machine

/-! What draws on a budget (R316). -/

/-- A budget of one of some kinds is used up. -/
def Spent (s : State) (pn : Nat) (kinds : List Nat) : Prop :=
  ∃ b ∈ (s.partOr pn).record.budgets, b.kind ∈ kinds ∧ b.size ≤ spentOf s (s.partOr pn) b

theorem spend_spent {s : State} {pn : Nat} {kinds : List Nat} (h : Spent s pn kinds) : spend s pn kinds = none := by
  obtain ⟨b, hb, hk, hsize⟩ := h
  have hmem : b ∈ (s.partOr pn).record.budgets.filter (fun b => kinds.contains b.kind) :=
    List.mem_filter.mpr ⟨hb, by simpa using hk⟩
  unfold spend
  dsimp only
  rw [if_neg (List.ne_nil_of_mem hmem), if_pos (List.any_eq_true.mpr ⟨b, hmem, decide_eq_true hsize⟩)]

/-- What drawing on budgets changes: the tokens spent. -/
theorem spend_unspent {s : State} {pn : Nat} {kinds : List Nat} (h : ¬ Spent s pn kinds) :
    ∃ parts, spend s pn kinds = some { s with parts := parts } ∧
      (mget Part.none parts pn).spawns = (s.partOr pn).spawns := by
  unfold spend
  dsimp only
  split
  · exact ⟨s.parts, rfl, rfl⟩
  · refine ⟨mput s.parts pn { s.partOr pn with spent := _ }, if_neg ?_, ?_⟩
    · intro hany
      obtain ⟨b, hb, hsize⟩ := List.any_eq_true.mp hany
      obtain ⟨hb, hk⟩ := List.mem_filter.mp hb
      exact h ⟨b, hb, by simpa using hk, of_decide_eq_true hsize⟩
    · rw [mget_mput_same]

/-! Messages (R263). -/

theorem reaches_spent {s : State} {pn : Nat} {m : MsgJob} (h : Spent s pn [1]) : reaches s pn m = none := by
  rw [reaches, spend_spent h]
  rfl
theorem accept_parts (s : State) (core : Nat) (a : Arrival) (parts : SMap Part) :
    State.accept { s with parts := parts } core a = (s.accept core a).map (fun t => { t with parts := parts }) := by
  unfold State.accept
  dsimp only
  rw [show State.core { s with parts := parts } core = s.core core from rfl]
  rcases (s.core core).freeArea with _ | n <;> rfl
theorem reaches_unspent {s : State} {pn : Nat} {m : MsgJob} (h : ¬ Spent s pn [1]) :
    ∃ parts, reaches s pn m = (s.accept m.target m.arr).map (fun t => { t with parts := parts }) := by
  obtain ⟨parts, hspend, -⟩ := spend_unspent h
  refine ⟨parts, ?_⟩
  rw [reaches, hspend]
  exact accept_parts s m.target m.arr parts

/-- R388: the port that a message or a spawn to a peer leaves over, if it can. -/
theorem leavesTo_open {s : State} {pn : Nat} {lid : BitVec 32} {rank core q : Nat}
    (hp : portTo s { Role.reset with part := BitVec.ofNat 8 pn, lid := lid } rank core = some q) (hup : (s.port q).up = true)
    (hfz : (s.port q).frozen = false) (ht : noTag s pn q = false) (hs : ¬ Spent s pn [1, 2 + q]) :
    ∃ parts, leavesTo s pn lid rank core = some { s with parts := parts } ∧
      (mget Part.none parts pn).spawns = (s.partOr pn).spawns := by
  obtain ⟨parts, hspend, hspawns⟩ := spend_unspent hs
  refine ⟨parts, ?_, hspawns⟩
  unfold leavesTo
  rw [hp]
  dsimp only
  rw [if_pos (by simp [Port.takes, hup, hfz, ht]), hspend]
theorem leavesTo_shut {s : State} {pn : Nat} {lid : BitVec 32} {rank core : Nat}
    (h : ∀ q, portTo s { Role.reset with part := BitVec.ofNat 8 pn, lid := lid } rank core = some q →
      (s.port q).up = false ∨ (s.port q).frozen = true ∨ noTag s pn q = true ∨ Spent s pn [1, 2 + q]) :
    leavesTo s pn lid rank core = none := by
  unfold leavesTo
  split
  · next q hq =>
    split
    · next htakes =>
      rw [Bool.and_eq_true, Port.takes, Bool.and_eq_true] at htakes
      rcases h q hq with h | h | h | h
      · simp [h] at htakes
      · simp [h] at htakes
      · simp [h] at htakes
      · exact spend_spent h
    · rfl
  · rfl

/-- Where the first message of a core's engine goes. -/
def msgLeaves (s : State) (m : MsgJob) : Option State :=
  let pn := (s.asid m.arr.asid.toNat).part.toNat
  match m.peer with
  | some rank => leavesTo s pn m.lid rank m.target
  | none => reaches s pn m

/-- The state once the first message of core c's engine has been sent, for role k. -/
def delivered (t : State) (c k : Nat) : State :=
  (t.setCore c { t.core c with msgs := (t.core c).msgs.eraseIdx 0 }).stir k
theorem execMsgDelivery_first {core : BitVec 8} {s : State} {m : MsgJob} {rest : List MsgJob}
    (hq : (s.core core.toNat).msgs = m :: rest)
    (hafter : ∀ a ∈ (s.role (4 * core.toNat + m.slot)).acc, a.id ∈ m.after → a.stat.unperformed = false) :
    exec (.msgDelivery core 0) s = .next (match msgLeaves s m with
      | some t => delivered t core.toNat (4 * core.toNat + m.slot)
      | none => s) := by
  have hgate : ((s.role (4 * core.toNat + m.slot)).acc.any (fun a => m.after.contains a.id && a.stat.unperformed)) = false := by
    rw [List.any_eq_false]
    intro a ha htest
    obtain ⟨hid, hun⟩ := (Bool.and_eq_true ..).mp htest
    rw [hafter a ha (by simpa using hid)] at hun
    cases hun
  show execMsgDelivery core 0 s = _
  unfold execMsgDelivery
  dsimp only
  rw [hq, List.getElem?_cons_zero]
  dsimp only
  rw [List.take_zero, List.any_nil, Bool.false_or, hgate, if_neg Bool.false_ne_true]
  rfl

theorem core_delivered (t : State) (c k j : Nat) : (delivered t c k).core j =
    if j = c then { t.core c with msgs := (t.core c).msgs.eraseIdx 0 } else t.core j := mget_mput ..
theorem msgs_delivered {t : State} {c : Nat} {m : MsgJob} {rest : List MsgJob} (hq : (t.core c).msgs = m :: rest) (k : Nat) :
    ((delivered t c k).core c).msgs = rest := by
  rw [core_delivered, if_pos rfl, hq]
  rfl
theorem arrq_delivered (t : State) (c k j : Nat) : ((delivered t c k).core j).arrq = (t.core j).arrq := by
  rw [core_delivered]
  split
  · next h => rw [h]
  · rfl

/-- What accepting an arrival leaves: memory, and what waits to be sent. -/
theorem accept_some {s t : State} {core : Nat} {a : Arrival} (h : s.accept core a = some t) :
    t.mem = s.mem ∧ (∀ c, (t.core c).msgs = (s.core c).msgs) ∧
      ∃ n, (t.core core).arrq = queueArr (s.core core).arrq { area := n, arr := a, at_ := s.cycle } := by
  rcases hf : (s.core core).freeArea with _ | n
  · rw [accept_full hf] at h
    cases h
  · rw [accept_free hf] at h
    cases h
    refine ⟨rfl, fun c => ?_, n, ?_⟩
    · refine (congrArg CoreSt.msgs (mget_mput ..)).trans ?_
      split
      · next hc => rw [hc]
      · rfl
    · exact congrArg CoreSt.arrq (mget_mput_same ..)

/-! Vectors (R211). -/

theorem arriveFirst_skip (n : Nat) {l1 : List ChanVec} (h : ∀ w ∈ l1, w.arrived = true) (l : List ChanVec) :
    arriveFirst n (l1 ++ l) = l1 ++ arriveFirst n l := by
  induction l1 with
  | nil => rfl
  | cons w l1 ih =>
    rw [List.cons_append, arriveFirst, if_pos (h w List.mem_cons_self), ih fun x hx => h x (List.mem_cons_of_mem _ hx)]
    rfl
theorem arriveFirst_arrived (n : Nat) {l : List ChanVec} (h : ∀ w ∈ l, w.arrived = true) : arriveFirst n l = l := by
  have hskip := arriveFirst_skip n h []
  rwa [List.append_nil, arriveFirst, List.append_nil] at hskip

/-- The oldest vector under way, among the eight that a channel holds. -/
theorem arriveFirst_room {n : Nat} {l1 l2 : List ChanVec} {v : ChanVec} (h : ∀ w ∈ l1, w.arrived = true) (hv : v.arrived = false)
    (hlen : l1.length < 8) : arriveFirst n ((l1 ++ v :: l2).take 8) ++ (l1 ++ v :: l2).drop 8 =
      l1 ++ (if v.at_ + 4 ≤ n then { v with arrived := true } else v) :: l2 := by
  have htake : (l1 ++ v :: l2).take 8 = l1 ++ v :: l2.take (7 - l1.length) := by
    rw [List.take_append, List.take_of_length_le (by omega), show 8 - l1.length = (7 - l1.length) + 1 by omega, List.take_succ_cons]
  have hdrop : (l1 ++ v :: l2).drop 8 = l2.drop (7 - l1.length) := by
    rw [List.drop_append, List.drop_of_length_le (by omega), show 8 - l1.length = (7 - l1.length) + 1 by omega, List.drop_succ_cons,
      List.nil_append]
  rw [htake, hdrop, arriveFirst_skip n h, arriveFirst, if_neg (by simp [hv])]
  split <;> rw [List.append_assoc, List.cons_append, List.take_append_drop]
theorem arriveFirst_full {n : Nat} {l1 l2 : List ChanVec} (h : ∀ w ∈ l1, w.arrived = true) (hlen : 8 ≤ l1.length) :
    arriveFirst n ((l1 ++ l2).take 8) ++ (l1 ++ l2).drop 8 = l1 ++ l2 := by
  rw [arriveFirst_arrived, List.take_append_drop]
  intro w hw
  rw [List.take_append_of_le_length hlen] at hw
  exact h w (List.mem_of_mem_take hw)

/-! Roles that the scheduler adds (R264, R305). -/

theorem modLaunch_spawns (s : State) (pn lid : Nat) (f : Launch → Launch) :
    ∃ parts, s.modLaunch pn lid f = { s with parts := parts } ∧ ∀ p, (mget Part.none parts p).spawns = (s.partOr p).spawns := by
  rcases modLaunch_cases s pn lid f with h | ⟨ls, h⟩
  · exact ⟨s.parts, h, fun _ => rfl⟩
  · refine ⟨_, h, fun p => ?_⟩
    rw [mget_mput]
    split
    · next hp => rw [hp]
    · rfl

/-- A role that is added to a launch: bound in its slot, no participant of the launch's levels. -/
structure Added (q : Role) (pn : Nat) (l : Launch) (o : Nat) (run : Bool) (arg : Word) : Prop where
  st : q.st = if run then .running else .dormant
  part : q.part = BitVec.ofNat 8 pn
  asid : q.asid = l.asid
  lid : q.lid = l.id
  base : q.twBase = BitVec.ofNat 32 o
  window : q.hwStart = (recHw l.rec_).1
  xs : q.xs = if run then mset 0 [] 1 arg else []
  participant : q.participant = false

/-- The bind record of a role that is added: one that runs takes its entries from its handler block. -/
def addedRecord (s : State) (pn : Nat) (l : Launch) (k o : Nat) (run : Bool) (arg : Word) : BindRec :=
  if run then { recordOf s pn l k o run arg with entL := 0, entM := 0, entV := 0, entW := 0 } else recordOf s pn l k o run arg

theorem addRole_eq (s : State) (pn : Nat) (l : Launch) (k o : Nat) (run : Bool) (arg : Word) :
    ∃ parts, (∀ p, (mget Part.none parts p).spawns = (s.partOr p).spawns) ∧ addRole s pn l k o run arg =
      (bindSlot { s with parts := parts } k (addedRecord { s with parts := parts } pn l k o run arg) run).modRoleAt k
        (fun r => { r with participant := false }) := by
  obtain ⟨parts, hmod, hspawns⟩ := modLaunch_spawns s pn l.id.toNat (fun l =>
    { l with lines := l.lines.filter (fun x => x.key ≠ k || x.participant || !x.raised) ++ [{ key := k, participant := false, raised := false }] })
  refine ⟨parts, hspawns, ?_⟩
  unfold addRole
  dsimp only
  rw [hmod]
  rfl

theorem bindSlot_outside {s : State} {k : Nat} {run : Bool} (hfree : (s.role k).st = .free) (hkind : s.kindAt k ≠ bindKind run)
    (b : BindRec) : (bindSlot s k b run).cores = s.cores ∧ (bindSlot s k b run).parts = s.parts := by
  rw [bindSlot_binds hfree hkind]
  exact ⟨rfl, rfl⟩

theorem added_addRole {s : State} {k : Nat} (hfree : (s.role k).st = .free) (hkind : s.kindAt k = 0) (pn : Nat) (l : Launch) (o : Nat)
    (run : Bool) (arg : Word) :
    Added ((addRole s pn l k o run arg).role k) pn l o run arg ∧ (addRole s pn l k o run arg).cores = s.cores ∧
      ∀ p, ((addRole s pn l k o run arg).partOr p).spawns = (s.partOr p).spawns := by
  obtain ⟨parts, hspawns, hadd⟩ := addRole_eq s pn l k o run arg
  rw [hadd]
  have hkind' : State.kindAt { s with parts := parts } k ≠ bindKind run := by
    rw [show State.kindAt { s with parts := parts } k = 0 from hkind]
    cases run <;> decide
  generalize hb : addedRecord { s with parts := parts } pn l k o run arg = b
  obtain ⟨hcores, hparts⟩ := bindSlot_outside (s := { s with parts := parts }) hfree hkind' b
  refine ⟨?_, hcores, fun p => ?_⟩
  · rw [State.modRoleAt, role_setRole_same, role_bindSlot (s := { s with parts := parts }) hfree hkind' b]
    obtain ⟨det, ncores, participant, rank, levels, hr⟩ :=
      boundRole_eq { s with parts := parts } k b (if run then .running else .dormant)
    obtain ⟨cl, cm, cv, cw, hc⟩ := bindClusters_eq (boundRole { s with parts := parts } k b (if run then .running else .dormant)) b run
    rw [hc, hr, ← hb]
    cases run <;> constructor <;> rfl
  · rw [State.partOr, show ((bindSlot { s with parts := parts } k b run).modRoleAt k _).parts = parts from hparts]
    exact hspawns p

theorem onlyWalk_handlerBlock {s t : State} {core : Nat} {r : Role} {h : Word} {es : List Word}
    (hb : handlerBlock s core r h = .ok (es, t)) : OnlyWalk s t := by
  unfold handlerBlock at hb
  split at hb
  · nomatch hb
  · split at hb
    · nomatch hb
    · next pa u hu =>
      cases hb
      exact onlyWalk_readAt hu

/-- The entries of a role are loaded, or it stops with the read pending (R72): what else of it stays. -/
structure Loaded (r q : Role) (h : Word) : Prop where
  st : q.st = r.st ∨ q.st = .stopped ∧ q.entryPend = h
  xs : q.xs = r.xs
  part : q.part = r.part
  asid : q.asid = r.asid
  lid : q.lid = r.lid
  base : q.twBase = r.twBase
  participant : q.participant = r.participant

theorem loadEntries_loaded (s : State) (k : Nat) (h : Word) :
    Loaded (s.role k) ((loadEntries s k h).role k) h ∧ (loadEntries s k h).parts = s.parts := by
  unfold loadEntries
  rcases hb : handlerBlock s (k / 4) (s.role k) h with ⟨code, i1⟩ | ⟨es, t⟩
  · dsimp only
    rw [role_takeStop, State.modRoleAt, role_setRole_same]
    refine ⟨⟨.inr ⟨rfl, rfl⟩, rfl, rfl, rfl, rfl, rfl, rfl⟩, ?_⟩
    unfold takeStop
    dsimp only
    split <;> rfl
  · dsimp only
    have hmem := (onlyWalk_handlerBlock hb).onlyMemory
    rw [State.modRoleAt, role_setRole_same, hmem.role]
    exact ⟨⟨.inl rfl, rfl, rfl, rfl, rfl, rfl, rfl⟩, hmem.eq State.parts⟩

end Sys2Proof.Machine
end

section
/-! ### The scheduler's answers to spawns and arrivals (R74, R264, R305) -/
namespace Sys2Proof.Machine

/-- A slot that a plan gives is FREE. -/
theorem planCore_free {s : State} {core pn pr n size k o : Nat} {ps : List (Nat × Nat)}
    (h : planCore s core pn pr n size = .place ((k, o) :: ps)) : (s.role k).st = .free := by
  have hslot {os : List Nat} (hz : (freeSlots s core pn pr).zip os = (k, o) :: ps) : k ∈ freeSlots s core pn pr :=
    (List.of_mem_zip (hz ▸ List.mem_cons_self)).1
  have hmem : k ∈ freeSlots s core pn pr := by
    unfold planCore at h
    dsimp only at h
    split at h
    · cases h
    · split at h
      · exact hslot (Plan.place.inj h)
      · split at h <;> cases h
  unfold freeSlots at hmem
  have htest := (List.mem_filter.mp hmem).2
  rw [Bool.and_eq_true] at htest
  exact beq_iff_eq.mp htest.1

section
variable {s : State} {pn : Nat} {x : SpawnReq} {rest : List SpawnReq} {l : Launch} (hq : (s.partOr pn).spawns = x :: rest)
  (hl : s.launch? pn x.lid.toNat = some l)

/-- The first spawn of the queue is bound, or leaves, when it is ready. -/
theorem find_spawn_first (h : spawnReady s pn (x :: rest) 0 = true) :
    (List.range (x :: rest).length).find? (spawnReady s pn (x :: rest)) = some 0 := by
  rw [List.find?_range_eq_some]
  exact ⟨h, List.mem_range.mpr (Nat.succ_pos _), fun j hj => absurd hj (Nat.not_lt_zero j)⟩

include hl
theorem spawnReady_peer (ha : x.after = []) {rank : Nat} (hp : x.peer = some rank) :
    spawnReady s pn (x :: rest) 0 = (leavesTo s pn x.lid rank x.core).isSome := by
  unfold spawnReady
  rw [List.getElem?_cons_zero]
  dsimp only
  rw [hl, hp, ha]
  simp
theorem spawnReady_here (ha : x.after = []) (hp : x.peer = none) (hst : l.st = .bound) (hem : s.emergency = false)
    (hup : s.up = true) {k o : Nat} {ps : List (Nat × Nat)}
    (hplan : planCore s x.core pn (recPrio l.rec_) 1 (recTwin l.rec_) = .place ((k, o) :: ps)) :
    spawnReady s pn (x :: rest) 0 = true := by
  unfold spawnReady
  rw [List.getElem?_cons_zero]
  dsimp only
  rw [hl, hp, ha]
  dsimp only
  rw [hplan]
  simp [hst, hem, hup]

include hq
theorem execSpawnBind_leaves (ha : x.after = []) {rank : Nat} (hp : x.peer = some rank) {t : State}
    (ht : leavesTo s pn x.lid rank x.core = some t) :
    exec (.spawnBind pn) s = .next (t.setPart pn { t.partOr pn with spawns := rest }) := by
  have hready : spawnReady s pn (x :: rest) 0 = true := by rw [spawnReady_peer hl ha hp, ht]; rfl
  show execSpawnBind pn s = _
  unfold execSpawnBind
  dsimp only
  rw [hq, find_spawn_first hready]
  dsimp only
  rw [List.getElem?_cons_zero]
  dsimp only
  rw [hl, hp]
  dsimp only
  rw [ht]
  rfl
theorem execSpawnBind_waits (ha : x.after = []) {rank : Nat} (hp : x.peer = some rank)
    (ht : leavesTo s pn x.lid rank x.core = none) (hrest : rest = []) : exec (.spawnBind pn) s = .next s := by
  have hready : spawnReady s pn (x :: rest) 0 = false := by rw [spawnReady_peer hl ha hp, ht]; rfl
  subst hrest
  have hfind : (List.range [x].length).find? (spawnReady s pn [x]) = none := by
    simpa [List.find?_eq_none] using hready
  show execSpawnBind pn s = _
  unfold execSpawnBind
  dsimp only
  rw [hq, hfind]
theorem execSpawnBind_binds (ha : x.after = []) (hp : x.peer = none) (hst : l.st = .bound) (hem : s.emergency = false)
    (hup : s.up = true) {k o : Nat} {ps : List (Nat × Nat)}
    (hplan : planCore s x.core pn (recPrio l.rec_) 1 (recTwin l.rec_) = .place ((k, o) :: ps)) :
    exec (.spawnBind pn) s = .next (loadEntries
      ((addRole (s.setPart pn { s.partOr pn with spawns := rest }) pn l k o true x.arg).modRoleAt k (fun r => r.setX 3 x.sender))
      k x.handler) := by
  show execSpawnBind pn s = _
  unfold execSpawnBind
  dsimp only
  rw [hq, find_spawn_first (spawnReady_here hl ha hp hst hem hup hplan)]
  dsimp only
  rw [List.getElem?_cons_zero]
  dsimp only
  rw [hl, hp]
  dsimp only
  rw [hplan]
  rfl

/-- R264: the role that a spawn starts, or stops with its entries unread. -/
theorem execSpawnBind_role (ha : x.after = []) (hp : x.peer = none) (hst : l.st = .bound) (hem : s.emergency = false)
    (hup : s.up = true) {k o : Nat} {ps : List (Nat × Nat)}
    (hplan : planCore s x.core pn (recPrio l.rec_) 1 (recTwin l.rec_) = .place ((k, o) :: ps)) (hkind : s.kindAt k = 0)
    (hpn : pn < 256) (ho : o < 2 ^ 32) :
    ∃ u, exec (.spawnBind pn) s = .next u ∧ (u.partOr pn).spawns = rest ∧
      ((u.role k).st = .running ∨ (u.role k).st = .stopped ∧ (u.role k).entryPend = x.handler) ∧
      (u.role k).x 1 = x.arg ∧ (u.role k).x 3 = x.sender ∧ (u.role k).lid = l.id ∧ (u.role k).part.toNat = pn ∧
      (u.role k).asid = l.asid ∧ (u.role k).twBase.toNat = o ∧ (u.role k).participant = false := by
  let v := s.setPart pn { s.partOr pn with spawns := rest }
  obtain ⟨hadd, -, hspawns⟩ := added_addRole (s := v) (show (s.role k).st = .free from planCore_free hplan) hkind pn l o true x.arg
  let w := (addRole v pn l k o true x.arg).modRoleAt k (fun r => r.setX 3 x.sender)
  have hw : w.role k = ((addRole v pn l k o true x.arg).role k).setX 3 x.sender := role_setRole_same ..
  obtain ⟨hload, hparts⟩ := loadEntries_loaded w k x.handler
  rw [hw] at hload
  have hx (n : Nat) : ((loadEntries w k x.handler).role k).x n = if n = 3 then x.sender else if n = 1 then x.arg else 0 := by
    rw [Role.x, hload.xs]
    refine (x_setX ..).trans ?_
    split
    · rfl
    · rw [Role.x, hadd.xs]
      exact mget_mset ..
  refine ⟨_, execSpawnBind_binds hq hl ha hp hst hem hup hplan, ?_, ?_, hx 1, hx 3, hload.lid.trans hadd.lid, ?_,
    hload.asid.trans hadd.asid, ?_, hload.participant.trans hadd.participant⟩
  · rw [State.partOr, hparts]
    refine (hspawns pn).trans ?_
    rw [show v.partOr pn = _ from mget_mput_same ..]
  · exact hload.st.imp (fun h => h.trans hadd.st) id
  · rw [hload.part.trans hadd.part, BitVec.toNat_ofNat, Nat.mod_eq_of_lt hpn]
  · rw [hload.base.trans hadd.base, BitVec.toNat_ofNat, Nat.mod_eq_of_lt ho]
end

/-! Bind requests (R305). -/

theorem freeAreaOf_setCore (s : State) (c n : Nat) (x : CoreSt) :
    (s.setCore c x).freeAreaOf c (some n) = s.setCore c { x with areas := lremove x.areas n } := by
  have hcore : (s.setCore c x).core c = x := mget_mput_same ..
  unfold State.freeAreaOf
  dsimp only
  rw [hcore, State.setCore, State.setCore, mput_mput]
  rfl
theorem execBindRequest_binds {core : BitVec 8} {s : State} {pn k o : Nat} {l : Launch} {ps : List (Nat × Nat)}
    (hask : askOf s core.toNat = .bind pn l) (hem : s.emergency = false) (hup : s.up = true)
    (hplan : planCore s core.toNat pn (recPrio l.rec_) 1 (recTwin l.rec_) = .place ((k, o) :: ps)) :
    exec (.bindRequest core) s = .next (addRole s pn l k o false 0) := by
  show execBindRequest core s = _
  unfold execBindRequest
  dsimp only
  rw [hask]
  dsimp only
  rw [if_neg (by simp [hem, hup]), hplan]
theorem execBindRequest_early {core : BitVec 8} {s : State} {e : ArrEnt} {t : List ArrEnt}
    (hq : (s.core core.toNat).arrq = e :: t) (hat : s.cycle ≤ e.at_) : exec (.bindRequest core) s = .next s := by
  have hask : askOf s core.toNat = .nothing := by
    unfold askOf
    rw [hq]
    dsimp only
    rw [if_pos (by simp [hat])]
  show execBindRequest core s = _
  unfold execBindRequest
  dsimp only
  rw [hask]
theorem execBindRequest_drops {core : BitVec 8} {s : State} {e : ArrEnt} {t : List ArrEnt} {pn lid : Nat}
    (hq : (s.core core.toNat).arrq = e :: t) (hask : askOf s core.toNat = .drop pn lid) :
    exec (.bindRequest core) s = .next ((s.setCore core.toNat
      { s.core core.toNat with arrq := t, areas := lremove (s.core core.toNat).areas e.area }).notice
        pn core.toNat 2 core.toNat lid) := by
  show execBindRequest core s = _
  unfold execBindRequest
  dsimp only
  rw [hask]
  dsimp only
  rw [hq]
  exact congrArg (fun u : State => Host.Outcome.next (u.notice pn core.toNat 2 core.toNat lid)) (freeAreaOf_setCore ..)

/-- Settles O43: each step by the lemma of what it does; a start and a bind do not look at what they have changed. -/
theorem arrivalsAndEngines : Obligations.ArrivalsAndEngines := by
  unfold Obligations.ArrivalsAndEngines
  refine ⟨⟨?_, queueArr_place, ?_, ?_⟩, ?_, ?_, ?_, ?_⟩
  · intro core a s c
    refine ⟨fun n hn hfree hlow => ?_, fun hfull => ?_⟩
    · exact congrArg (fun o : Option State => Host.Outcome.next (o.getD s)) (accept_free (freeArea_lowest hn hfree hlow) a)
    · exact congrArg (fun o : Option State => Host.Outcome.next (o.getD s)) (accept_full (freeArea_none hfull) a)
  · intro core s e t k hq hk hat hem hqual hlow hkind
    have hstart := startHead_starts hq (qualifying_lowest hk hqual hlow) hat hem hkind
    refine ⟨fun es s1 hb => ?_, fun code i1 hb => ?_⟩
    · obtain ⟨u, hu, hmem, harr, hrole, hothers⟩ := loadEntries_started (t := t) hk hb
      obtain ⟨hst, harea, hqs, hps, hvs, heid⟩ := enteredRole_rest (s.role k) s.cycle e es
      have hx (n : Nat) := (congrArg (Role.x · n) hrole).trans ((x_enteredRole ..).trans (x_startState ..))
      refine ⟨u, congrArg Host.Outcome.next (hstart.trans hu), hmem, harr, hrole ▸ hst, hx 1, hx 2, hx 3, hx 4, hrole ▸ harea,
        hrole ▸ hqs, fun n hn => ?_, hrole ▸ hps, hrole ▸ hvs, hrole ▸ heid,
        fun c => (congrArg (Role.clu · c) hrole).trans (clu_enteredRole ..), hothers⟩
      rw [hx, if_neg (by omega), if_neg (by omega), if_neg (by omega), if_neg (by omega)]
    · exact ⟨_, congrArg Host.Outcome.next hstart, loadEntries_unread hk hb⟩
  · exact fun core s e t hq h => congrArg Host.Outcome.next (startHead_waits hq h)
  · intro core s m rest hq hafter pn spent
    have hexec := execMsgDelivery_first hq hafter
    have hspent (q : Nat) (kinds : List Nat)
        (hk : ∀ b : Budget, (b.kind = 1 ∨ b.kind = 2 + q ∧ m.peer ≠ none) ↔ b.kind ∈ kinds) : spent q ↔ Spent s pn.toNat kinds :=
      exists_congr fun b => and_congr_right fun _ => and_congr_left fun _ => hk b
    refine ⟨fun s1 hp hsp hacc => ?_, fun hp h => ?_, fun rank hp => ?_⟩
    · have hone := hspent 0 [1] fun b => by simp [hp]
      obtain ⟨parts, hreach⟩ := reaches_unspent (m := m) (hone.not.mp hsp)
      obtain ⟨hmem, hmsgs, n, harr⟩ := accept_some hacc
      have hleaves : msgLeaves s m = some { s1 with parts := parts } := by
        rw [msgLeaves, hp]
        exact hreach.trans (by rw [hacc]; rfl)
      rw [hleaves] at hexec
      exact ⟨delivered { s1 with parts := parts } core.toNat (4 * core.toNat + m.slot), hexec,
        msgs_delivered (t := { s1 with parts := parts }) ((hmsgs core.toNat).trans hq) _, rfl, hmem, n, (arrq_delivered ..).trans harr⟩
    · have hone := hspent 0 [1] fun b => by simp [hp]
      have hleaves : msgLeaves s m = none := by
        rw [msgLeaves, hp]
        by_cases hsp : Spent s pn.toNat [1]
        · exact reaches_spent hsp
        · obtain ⟨parts, hreach⟩ := reaches_unspent (m := m) hsp
          refine hreach.trans ?_
          rw [h.resolve_left (hone.not.mpr hsp)]
          rfl
      rw [hleaves] at hexec
      exact hexec
    · intro port shut
      have htwo (q : Nat) := hspent q [1, 2 + q] fun b => by simp [hp]
      have hport : portTo s { Role.reset with part := BitVec.ofNat 8 pn.toNat, lid := m.lid } rank m.target = port := by
        rw [BitVec.ofNat_toNat, BitVec.setWidth_eq]
      have hleaves : msgLeaves s m = leavesTo s pn.toNat m.lid rank m.target := by rw [msgLeaves, hp]
      rw [hleaves] at hexec
      refine ⟨fun ⟨q, hq', hopen⟩ => ?_, fun hshut => ?_⟩
      · simp only [shut, not_or, Bool.not_eq_false, Bool.not_eq_true] at hopen
        obtain ⟨hup, hfz, htag, hsp⟩ := hopen
        obtain ⟨parts, hleave, -⟩ := leavesTo_open (hport.trans hq') hup hfz htag ((htwo q).not.mp hsp)
        rw [hleave] at hexec
        exact ⟨delivered { s with parts := parts } core.toNat (4 * core.toNat + m.slot), hexec,
          msgs_delivered (t := { s with parts := parts }) hq _, rfl, rfl⟩
      · have hleave := leavesTo_shut (s := s) (pn := pn.toNat) (lid := m.lid) (rank := rank) (core := m.target) fun q hq' =>
          (hshut q (hport.symm.trans hq')).imp_right (.imp_right (.imp_right (htwo q).mp))
        rw [hleave] at hexec
        exact hexec
  · intro core dir slot s l1 l2 v c hc hl1 hv
    have hexec : exec (.linkVectorArrive core dir slot) s =
        .next (s.setChan c (arriveFirst s.cycle ((s.chan c).take 8) ++ (s.chan c).drop 8)) := rfl
    refine ⟨fun hat hlen => ?_, fun h => ?_⟩
    · rw [hexec, hc, arriveFirst_room hl1 hv hlen, if_pos hat]
    · rw [hexec, hc]
      rcases h with h | h
      · by_cases hlen : l1.length < 8
        · rw [arriveFirst_room hl1 hv hlen, if_neg (Nat.not_le.mpr h)]
        · rw [arriveFirst_full hl1 (Nat.not_lt.mp hlen)]
      · rw [arriveFirst_full hl1 h]
  · intro pn s x rest l k o ps hq ha hl
    refine ⟨fun rank hp => ?_, fun hp hst hem hup hplan hkind hpn ho => ?_⟩
    · intro port shut
      refine ⟨fun ⟨q, hq', hopen⟩ => ?_, fun hshut hrest => ?_⟩
      · simp only [shut, not_or, Bool.not_eq_false, Bool.not_eq_true] at hopen
        obtain ⟨hopen, hfz, htag, hsp⟩ := hopen
        obtain ⟨parts, hleave, -⟩ := leavesTo_open hq' hopen hfz htag (fun ⟨b, hb, hk, hsize⟩ => hsp ⟨b, hb, by simpa using hk, hsize⟩)
        refine ⟨_, execSpawnBind_leaves hq hl ha hp hleave, ?_, rfl, rfl, rfl⟩
        exact congrArg Part.spawns (mget_mput_same ..)
      · refine execSpawnBind_waits hq hl ha hp (leavesTo_shut fun q hq' => ?_) hrest
        exact (hshut q hq').imp_right (.imp_right (.imp_right fun ⟨b, hb, hk, hsize⟩ => ⟨b, hb, by simpa using hk, hsize⟩))
    · exact execSpawnBind_role hq hl ha hp hst hem hup hplan hkind hpn ho
  · intro core s pn l
    refine ⟨fun k o ps hask hem hup hplan hkind hpn ho => ?_, fun e t hq hat => execBindRequest_early hq hat,
      fun e t lid hq hask => execBindRequest_drops hq hask⟩
    obtain ⟨hadd, hcores, -⟩ := added_addRole (planCore_free hplan) hkind pn l o false 0
    refine ⟨_, execBindRequest_binds hask hem hup hplan, hadd.st, hadd.lid, hadd.asid, hadd.window, ?_, ?_⟩
    · rw [hadd.base, BitVec.toNat_ofNat, Nat.mod_eq_of_lt ho]
    · rw [State.core, hcores]
      rfl

end Sys2Proof.Machine
end

section
/-! ### What a syllable may touch: its role, its core, and the spawn queues of partitions (R45, R48, R49) -/
namespace Sys2Proof.Machine

/-- Outside memory, tile stores, the log of violations and channels, only the current role and its core's own state differ, and the spawn
queues of partitions. -/
structure Around (s t : State) : Prop where
  rest : t = { s with mem := t.mem, tlb := t.tlb, tile := t.tile, tpoison := t.tpoison, roles := t.roles, cores := t.cores,
                      chans := t.chans, parts := t.parts, viols := t.viols }
  roles : ∀ k, k ≠ s.curKey → t.role k = s.role k
  cores : ∀ c, c ≠ s.curKey / 4 → t.core c = s.core c
  parts : ∀ p, t.partOr p = { s.partOr p with spawns := (t.partOr p).spawns }

/-- Nor do memory and tile stores. -/
structure Local (s t : State) : Prop extends Around s t where
  mem : t.mem = s.mem
  tile : t.tile = s.tile
  tpoison : t.tpoison = s.tpoison

theorem Around.refl (s : State) : Around s s := ⟨rfl, fun _ _ => rfl, fun _ _ => rfl, fun _ => rfl⟩
theorem Around.cur {s t : State} (h : Around s t) : t.cur = s.cur := by
  rw [h.rest]
theorem Around.curKey {s t : State} (h : Around s t) : t.curKey = s.curKey := by
  unfold State.curKey
  rw [h.cur]
theorem Around.trans {s t u : State} (h : Around s t) (h' : Around t u) : Around s u where
  rest := by
    have hu := h'.rest
    rw [h.rest] at hu
    exact hu
  roles k hk := (h'.roles k (h.curKey ▸ hk)).trans (h.roles k hk)
  cores c hc := (h'.cores c (h.curKey ▸ hc)).trans (h.cores c hc)
  parts p := by
    rw [h'.parts p, h.parts p]

theorem Local.refl (s : State) : Local s s := ⟨Around.refl s, rfl, rfl, rfl⟩
theorem Local.trans (s t u : State) (h : Local s t) (h' : Local t u) : Local s u :=
  ⟨h.toAround.trans h'.toAround, h'.mem.trans h.mem, h'.tile.trans h.tile, h'.tpoison.trans h.tpoison⟩

theorem local_setRole (s : State) (r : Role) : Local s (s.setRole s.curKey r) :=
  ⟨⟨rfl, fun _ hk => role_setRole_other _ _ _ _ hk, fun _ _ => rfl, fun _ => rfl⟩, rfl, rfl, rfl⟩
theorem local_setCore (s : State) (x : CoreSt) : Local s (s.setCore (s.curKey / 4) x) :=
  ⟨⟨rfl, fun _ _ => rfl, fun _ hc => mget_mput_other _ _ _ _ _ hc, fun _ => rfl⟩, rfl, rfl, rfl⟩
theorem local_setChan (s : State) (k : Nat) (l : List ChanVec) : Local s (s.setChan k l) :=
  ⟨⟨rfl, fun _ _ => rfl, fun _ _ => rfl, fun _ => rfl⟩, rfl, rfl, rfl⟩
theorem local_logViol (s : State) (kind who : Nat) (a : Word) : Local s (s.logViol kind who a) :=
  ⟨⟨rfl, fun _ _ => rfl, fun _ _ => rfl, fun _ => rfl⟩, rfl, rfl, rfl⟩
theorem local_spawns (s : State) (n : Nat) (l : List SpawnReq) :
    Local s (s.setPart n { s.partOr n with spawns := l }) := by
  refine ⟨⟨rfl, fun _ _ => rfl, fun _ _ => rfl, fun p => ?_⟩, rfl, rfl, rfl⟩
  unfold State.partOr State.setPart
  rw [mget_mput]
  split
  · next hp => rw [hp]
  · rfl

/-! Stops. -/

theorem local_takeStop (s : State) (kind code : Nat) (cl : Cluster) (i0 i1 : Word) (acc : Option Nat) :
    Local s (takeStop s s.curKey kind code cl i0 i1 acc) := by
  unfold takeStop
  dsimp only
  split
  · exact Local.trans _ _ _ (local_setRole ..) (local_logViol ..)
  · exact local_setRole ..
theorem local_deferredAt (s : State) (cl : Cluster) (id : Nat) : Local s (deferredAt s s.curKey cl id) := by
  unfold deferredAt
  dsimp only
  split
  · exact local_takeStop ..
  · exact Local.refl s
theorem local_applyPost (s : State) (cl : Cluster) (p : Post) : Local s (applyPost s s.curKey cl p) := by
  unfold applyPost
  split
  · exact Local.refl s
  · exact local_takeStop ..

/-! Steps of an issuing syllable. -/

theorem local_of_pure {α : Type} {m : Iss α} (h : Pure m) : Keeps Local m := by
  intro s a s' e
  rw [h _ _ _ e]
  exact Local.refl s
theorem Local.bind {α β : Type} {m : Iss α} {f : α → Iss β} (h1 : Keeps Local m) (h2 : ∀ a, Keeps Local (f a)) :
    Keeps Local (m >>= f) := Keeps.bind Local.trans h1 h2
/-- After a step that only looks. -/
theorem Local.after {α β : Type} {m : Iss α} {f : α → Iss β} (h1 : Pure m) (h2 : ∀ a, Keeps Local (f a)) :
    Keeps Local (m >>= f) := Local.bind (local_of_pure h1) h2
theorem Local.ending {α : Type} {m : Iss Unit} (h : Keeps Local m) (a : α) : Keeps Local (m >>= fun _ => pure a) :=
  Local.bind h fun _ => local_of_pure (pure_pure a)
theorem Local.optional {α : Type} {c : Prop} [Decidable c] {m : Iss Unit} {f : Unit → Iss α} (h1 : Keeps Local m)
    (h2 : ∀ a, Keeps Local (f a)) : Keeps Local (if c then m >>= f else f ()) := Keeps.optional Local.trans h1 h2
theorem Keeps.ite {α : Type} {R : State → State → Prop} {c : Prop} [Decidable c] {m m' : Iss α} (h1 : Keeps R m) (h2 : Keeps R m') :
    Keeps R (if c then m else m') := by
  split
  · exact h1
  · exact h2
theorem Pure.optional {α : Type} {c : Prop} [Decidable c] {m : Iss Unit} {f : Unit → Iss α} (h1 : Pure m)
    (h2 : ∀ a, Pure (f a)) : Pure (if c then m >>= f else f ()) := Keeps.optional (fun _ _ _ h k => k.trans h) h1 h2

theorem local_pure {α : Type} (a : α) : Keeps Local (pure a : Iss α) := local_of_pure (pure_pure a)
theorem local_modRole (f : Role → Role) : Keeps Local (modRole f) := by
  intro s a s' e
  cases e
  exact local_setRole ..
theorem local_modClu (f : Clu → Clu) : Keeps Local (modClu f) := by
  intro s a s' e
  cases e
  exact local_setRole ..
theorem local_modSt {f : State → State} (h : ∀ s, Local s (f s)) : Keeps Local (modSt f) := by
  intro s a s' e
  cases e
  exact h s

theorem local_wrX (n : Nat) (v : Word) : Keeps Local (wrX n v) := Local.after (pure_chkDest _) fun _ => local_modRole _
theorem local_wrP (n : Nat) (v : Pred) : Keeps Local (wrP n v) := Local.after (pure_chkDest _) fun _ => local_modRole _
theorem local_wrV (n : Nat) (v : Row) : Keeps Local (wrV n v) := Local.after (pure_rowFree _) fun _ => local_modRole _
theorem local_qPush (q : Nat) (v : Row) : Keeps Local (qPush q v) :=
  Local.after (pure_qRoom _) fun _ => Local.after pure_pushOrdered fun _ => Local.after pure_getSt fun _ => local_modRole _
theorem local_qReserve (q id : Nat) : Keeps Local (qReserve q id) :=
  Local.after (pure_qRoom _) fun _ => Local.after pure_getSt fun _ => local_modRole _
theorem local_wrS (d : SDst) (v : Word) : Keeps Local (wrS d v) := by
  cases d with
  | x n => exact local_wrX _ _
  | q n => exact local_qPush _ _
theorem local_wrS0 (d : SDst) : Keeps Local (wrS0 d) := by
  cases d with
  | x n => exact local_pure _
  | q n => exact local_qPush _ _
theorem local_popAll (l : List Nat) : Keeps Local (popAll l) := by
  induction l with
  | nil => exact local_pure _
  | cons q t ih => exact Local.bind (local_modRole _) fun _ => ih
theorem local_popMarks (l : List Mk) : Keeps Local (popMarks l) := local_popAll _
theorem local_raiseI (row lane : Nat) (fl : Fl) : Keeps Local (raiseI row lane fl) := by
  unfold raiseI
  split
  · exact local_pure _
  · intro s a s' e
    cases e
    exact local_setRole ..
theorem local_raiseLanes (row : Nat) (l : List (Nat × Fl)) : Keeps Local (raiseLanes row l) := by
  induction l with
  | nil => exact local_pure _
  | cons x t ih => exact Local.bind (local_raiseI _ _ _) fun _ => ih
theorem pure_needHeads (l : List Mk) : Pure (needHeads l) := by
  induction l with
  | nil => exact pure_pure _
  | cons m t ih =>
    rcases m with ⟨_ | q, b⟩
    · exact ih
    · exact (pure_qHead q).bind fun _ => ih

theorem local_popStrm (n : Nat) (mark : Bool) : Keeps Local (popStrm n mark) := by
  unfold popStrm
  refine Local.after pure_getSt fun s => Local.after pure_getRole fun r => ?_
  split
  · exact local_pure _
  · exact Local.bind (local_modRole _) fun _ => Local.optional (local_modSt fun _ => local_setChan ..) fun _ =>
      Keeps.ite (local_modRole _) (local_pure _)
theorem local_popStrms (l : List (Nat × Bool)) : Keeps Local (popStrms l) := by
  induction l with
  | nil => exact local_pure _
  | cons x t ih => exact Local.bind (local_popStrm _ _) fun _ => ih
theorem local_popRows (l : List (RSrc × Bool)) : Keeps Local (popRows l) :=
  Local.bind (local_popMarks _) fun _ => local_popStrms _

/-! Requests. -/

theorem pure_chkDests (l : List Dest) : Pure (chkDests l) := by
  induction l with
  | nil => exact pure_pure _
  | cons d t ih =>
    cases d with
    | q n => exact (pure_qRoom n).bind fun _ => ih
    | x n => exact (pure_chkDest _).bind fun _ => ih
    | p n => exact (pure_chkDest _).bind fun _ => ih
    | gone => exact (pure_chkDest _).bind fun _ => ih
theorem local_reserveDests (id : Nat) (l : List Dest) : Keeps Local (reserveDests id l) := by
  induction l with
  | nil => exact local_pure _
  | cons d t ih =>
    cases d with
    | q n => exact Local.bind (local_qReserve _ _) fun _ => ih
    | x n => exact ih
    | p n => exact ih
    | gone => exact ih
theorem local_sendAcc (a : Access) : Keeps Local (sendAcc a) :=
  Local.after pure_getSt fun _ => Local.after pure_getRole fun _ => Local.after pure_getClu fun _ =>
    Local.after (pure_waitIf _) fun _ => Local.after (pure_waitIf _) fun _ => Local.after (pure_waitIf _) fun _ =>
    Local.after (pure_chkDests _) fun _ => Local.bind (local_modRole _) fun _ => Local.bind (local_reserveDests _ _) fun _ =>
    local_modRole _

/-! Shapes. -/

theorem local_scalarOp (h : Hdr) (ms : List Mk) (d : SDst) {f : Iss Word} (hf : Keeps Local f) : Keeps Local (scalarOp h ms d f) :=
  Local.after (pure_guardS h) fun g => by
    cases g
    · exact Local.after (pure_needHeads _) fun _ => Local.bind (local_popMarks _) fun _ => Local.ending (local_wrS0 _) _
    · exact Local.bind hf fun _ => Local.bind (local_popMarks _) fun _ => Local.ending (local_wrS _ _) _
theorem local_guarded (h : Hdr) (ms : List Mk) {f : Iss Unit} (hf : Keeps Local f) : Keeps Local (guarded h ms f) :=
  Local.after (pure_guardS h) fun g => by
    cases g
    · exact Local.after (pure_needHeads _) fun _ => Local.ending (local_popMarks _) _
    · exact Local.bind hf fun _ => Local.ending (local_popMarks _) _
theorem local_memOp (h : Hdr) (ms : List Mk) {skip body : Iss Unit} (hs : Keeps Local skip) (hb : Keeps Local body) :
    Keeps Local (memOp h ms skip body) :=
  Local.after (pure_guardS h) fun g => by
    cases g
    · exact Local.after (pure_needHeads _) fun _ => Local.bind (local_popMarks _) fun _ => Local.ending hs _
    · exact Local.bind hb fun _ => Local.ending (local_popMarks _) _

end Sys2Proof.Machine
end

section
/-! ### The checks of a syllable only look (R64, R98, R105, R175, R201, R209, R227, R228, R235, R245, R262, R443) -/
namespace Sys2Proof.Machine

theorem pure_sylWord : Pure sylWord := pure_getSt.bind fun _ => pure_getClu.bind fun _ => pure_pure _
theorem pure_illegalIf (b : Bool) : Pure (illegalIf b) := by
  cases b
  · exact pure_pure _
  · exact pure_sylWord.bind fun _ => pure_stop _
theorem pure_stopPoint : Pure stopPoint := by
  unfold stopPoint
  refine pure_getSt.bind fun s => ?_
  split
  · exact pure_stop _
  · exact pure_pure _
theorem pure_pcI : Pure pcI := pure_getClu.bind fun _ => pure_pure _

/-! Addresses and the tile window. -/

theorem pure_plainOffset (a : Word) : Pure (plainOffset a) := Keeps.ite (pure_pure _) (pure_stop _)
theorem pure_tileOrdered (l : Bool) (o : Ord) : Pure (tileOrdered l o) := pure_getSt.bind fun _ => pure_waitIf _
theorem pure_releaseOrdered : Pure releaseOrdered := pure_getSt.bind fun _ => pure_waitIf _
theorem pure_tileGet (o n : Nat) : Pure (tileGet o n) :=
  (pure_tileChk _ _).bind fun _ => pure_getSt.bind fun _ => (pure_trapIf _ _ _ _).bind fun _ => pure_pure _
theorem pure_tileGetOf (use : Nat → Bool) (o n : Nat) : Pure (tileGetOf use o n) := by
  unfold tileGetOf
  refine (pure_tileChk _ _).bind fun p => pure_getSt.bind fun s => ?_
  dsimp only
  split
  · exact pure_stop _
  · exact pure_pure _
theorem pure_eaOf (m : MF) : Pure (eaOf m) := (pure_rdS _).bind fun _ => (pure_rdS _).bind fun _ => pure_pure _
theorem pure_chkVirtual (a : Word) (n : Nat) : Pure (chkVirtual a n) := (pure_trapIf _ _ _ _).bind fun _ => pure_trapIf _ _ _ _
theorem pure_tileEa (m : MF) : Pure (tileEa m) :=
  (pure_eaOf m).bind fun _ => (pure_trapIf _ _ _ _).bind fun _ => pure_plainOffset _
theorem pure_recordOff (v : Word) : Pure (recordOff v) :=
  (pure_trapIf _ _ _ _).bind fun _ => (pure_plainOffset _).bind fun _ => (pure_tileChk _ _).bind fun _ => pure_pure _
theorem pure_tSrcBytes (n : Nat) (t : TSrc) : Pure (tSrcBytes n t) := by
  cases t with
  | s a => exact (pure_rdS a).bind fun _ => pure_pure _
  | qw q => exact (pure_qHead _).bind fun _ => pure_pure _
theorem pure_gatherList (i : Word) (n : Nat) : Pure (gatherList i n) :=
  (pure_trapIf _ _ _ _).bind fun _ => (pure_plainOffset _).bind fun _ => (pure_tileGet _ _).bind fun _ => pure_pure _
theorem pure_unalignedBase (base i : Word) (z : Nat) : Pure (unalignedBase base i z) := by
  intro s a s' e
  unfold unalignedBase at e
  split at e
  · split at e <;> cases e
  · cases e
theorem pure_gatherAddr (m : MF) : Pure (gatherAddr m) := by
  unfold gatherAddr
  refine (pure_rdS _).bind fun b => (pure_rdS _).bind fun i => (pure_trapIf _ _ _ _).bind fun _ => ?_
  refine Keeps.ite (pure_unalignedBase _ _ _) ((pure_gatherList _ _).bind fun idx => ?_)
  split
  · exact pure_stop _
  · exact pure_pure _
theorem pure_levelChk (n : Nat) : Pure (levelChk n) := pure_getRole.bind fun _ => pure_illegalIf _
theorem pure_copyAddr (a : Word) : Pure (copyAddr a) := pure_trapIf _ _ _ _
theorem pure_copyTile (a : Word) (n : Nat) : Pure (copyTile a n) :=
  Keeps.ite ((pure_tileChk _ _).bind fun _ => pure_pure _) (pure_pure _)
theorem pure_targetOf (d : Word) : Pure (targetOf d) :=
  pure_getSt.bind fun _ => (pure_trapIf _ _ _ _).bind fun _ => (pure_trapIf _ _ _ _).bind fun _ => pure_pure _
theorem pure_sendAfter (b : Bool) : Pure (sendAfter b) := pure_getSt.bind fun _ => pure_pure _

/-! Row fields. -/

theorem pure_rdV (n : Nat) : Pure (rdV n) := (pure_rowFree n).bind fun _ => pure_getRole.bind fun _ => pure_pure _
theorem pure_oldRow (d : RDst) : Pure (oldRow d) := by
  cases d with
  | v n => exact pure_rdV _
  | qw n => exact pure_pure _
  | s n => exact pure_pure _
theorem pure_regionGet (use : Nat → Bool) (t : Strm) (p : Nat) : Pure (regionGet use t p) := by
  unfold regionGet
  refine pure_getSt.bind fun s => pure_getRole.bind fun r => ?_
  dsimp only
  split
  · exact pure_stop _
  · split
    · exact pure_stop _
    · exact pure_pure _
theorem pure_ringSrcSlot (g : Ring) (t : Strm) (n p : Nat) : Pure (ringSrcSlot g t n p) :=
  (pure_trapIf _ _ _ _).bind fun _ => (pure_waitIf _).bind fun _ => (pure_trapIf _ _ _ _).bind fun _ => pure_pure _
theorem pure_strmPeekOf (use : Nat → Bool) (n : Nat) (t : Strm) (p : Nat) : Pure (strmPeekOf use n t p) := by
  unfold strmPeekOf
  refine pure_getSt.bind fun s => pure_getRole.bind fun r => ?_
  split
  · exact (pure_regionPos _ _ _).bind fun _ => pure_regionGet _ _ _
  · split
    · exact pure_stop _
    · exact (pure_ringSrcSlot _ _ _ _).bind fun _ => pure_tileGetOf _ _ _
  · split
    · exact Keeps.ite (pure_stop _) (pure_stop _)
    · exact (pure_waitIf _).bind fun _ => pure_pure _
theorem pure_rdStrm (n : Nat) : Pure (rdStrm n) := by
  unfold rdStrm
  refine (pure_strmFree n).bind fun _ => pure_getRole.bind fun r => ?_
  split
  · exact pure_stop _
  · exact (pure_trapIf _ _ _ _).bind fun _ => (pure_strmPeekOf _ _ _ _).bind fun _ => pure_pure _
theorem pure_rdR (a : RSrc) : Pure (rdR a) := by
  cases a with
  | v n => exact (pure_rdV _).bind fun _ => pure_pure _
  | s n => exact (pure_rdStrm _).bind fun _ => pure_pure _
  | qw n => exact (pure_qHead _).bind fun _ => pure_pure _
  | lane => exact pure_pure _
  | sc b =>
    cases b with
    | x n => exact (pure_rdS _).bind fun _ => pure_pure _
    | q n => exact (pure_rdS _).bind fun _ => pure_pure _
    | k c => exact pure_pure _
    | sp p => exact pure_getSt.bind fun _ => pure_pure _
theorem pure_fieldOrder (d : Option RDst) (l : List (RSrc × Bool)) : Pure (fieldOrder d l) := by
  intro s a s' e
  unfold fieldOrder at e
  split at e
  · cases e
  · cases e
    rfl

/-! Streams and rings. -/

theorem pure_strmGet (n : Nat) : Pure (strmGet n) := by
  unfold strmGet
  refine pure_getRole.bind fun r => ?_
  split
  · exact pure_pure _
  · exact pure_stop _
theorem pure_strmRegion (n : Nat) : Pure (strmRegion n) := (pure_strmGet n).bind fun _ => Keeps.ite (pure_pure _) (pure_stop _)
theorem pure_ringGet (n : Nat) : Pure (ringGet n) := by
  unfold ringGet
  refine pure_getRole.bind fun r => ?_
  split
  · exact pure_pure _
  · exact pure_stop _
theorem pure_ringFree (n : Nat) : Pure (ringFree n) := pure_getRole.bind fun _ => pure_waitIf _
theorem pure_strmBindChk (n : Nat) (ws : List Word) : Pure (strmBindChk n ws) := by
  unfold strmBindChk
  refine (pure_illegalIf _).bind fun _ => pure_getRole.bind fun r => ?_
  exact Keeps.ite (Pure.optional (pure_stop _) fun _ => pure_waitIf _)
    (Keeps.ite (Keeps.ite (pure_stop _) (pure_pure _)) (pure_pure _))
theorem pure_boundFirst {α : Type} {bound : Bool} {n : Nat} {rest : Iss α} (h : Pure rest) : Pure (boundFirst bound n rest) := by
  intro s a s' e
  unfold boundFirst at e
  split at e
  · split at e <;> cases e
  · cases e
  · next b hb =>
    split at e
    · cases e
    · cases e
      exact h _ _ _ hb

/-! Nest records. -/

theorem pure_nestIf (f : Flight) (b : Bool) (k : Nat) : Pure (nestIf f b k) := pure_trapIf _ _ _ _
theorem pure_tileNo (b : Bool) (n : Nat) : Pure (tileNo b n) := pure_trapIf _ _ _ _
theorem pure_mmaNestChk (f : Flight) : Pure (mmaNestChk f) :=
  pure_getRole.bind fun _ => (pure_nestIf _ _ _).bind fun _ => (pure_nestIf _ _ _).bind fun _ =>
    (pure_nestIf _ _ _).bind fun _ => (pure_nestIf _ _ _).bind fun _ => (pure_nestIf _ _ _).bind fun _ => pure_nestIf _ _ _
theorem pure_mmaTileChk (f : Flight) : Pure (mmaTileChk f) := by
  unfold mmaTileChk
  refine pure_getRole.bind fun _ => (pure_tileNo _ _).bind fun _ => (pure_tileNo _ _).bind fun _ =>
    (pure_tileNo _ _).bind fun _ => (pure_tileNo _ _).bind fun _ => ?_
  refine Keeps.ite ((pure_tileNo _ _).bind fun _ => (pure_tileNo _ _).bind fun _ => ?_) ?_
  all_goals exact Keeps.ite ((pure_tileChk _ _).bind fun _ => (pure_tileChk _ _).bind fun _ => pure_pure _) (pure_pure _)
theorem pure_rowChk (f : Flight) : Pure (rowChk f) := by
  unfold rowChk
  refine pure_getRole.bind fun _ => (pure_nestIf _ _ _).bind fun _ => (pure_nestIf _ _ _).bind fun _ =>
    (pure_nestIf _ _ _).bind fun _ => Keeps.ite ?_ (pure_pure _)
  split
  · exact (pure_tileChk _ _).bind fun _ => pure_pure _
  · exact pure_tileNo _ _
  · exact pure_tileNo _ _

/-! ### What surrounds a body: the gates before it and the choice of the next PC (R51 to R53, R99, R105, R126 to R133, R352) -/

theorem pure_boundaryGate : Pure boundaryGate :=
  pure_getRole.bind fun _ => pure_getClu.bind fun _ => Pure.optional pure_stopPoint fun _ => pure_waitIf _
theorem pure_syncGate {α : Type} (body : Iss α) : Pure (syncGate body) := by
  unfold syncGate
  refine pure_getSt.bind fun s => (pure_waitIf _).bind fun _ => ?_
  split
  · exact pure_stop _
  · exact pure_waitIf _
theorem pure_chkTarget (t : Word) : Pure (chkTarget t) :=
  pure_getSt.bind fun _ => (pure_trapIf _ _ _ _).bind fun _ => pure_trapIf _ _ _ _
theorem pure_chkBack (a : Word) : Pure (chkBack a) := by
  unfold chkBack
  refine pure_getClu.bind fun c => ?_
  split
  · exact pure_chkTarget _
  · exact pure_pure _
theorem pure_chkRecEnd (ret : Word) (c : Clu) : Pure (chkRecEnd ret c) := Keeps.ite (pure_chkTarget _) (pure_pure _)
theorem local_goOn (a : Word) (n : Nat) : Keeps Local (goOn a n) := by
  unfold goOn
  refine Local.after pure_getSt fun s => Local.after (pure_chkBack a) fun _ => ?_
  split
  · exact Local.after (pure_chkRecEnd _ _) fun _ => local_modRole _
  · exact local_modRole _
theorem local_settle (n : Nat) (f : Flow) : Keeps Local (settle n f) := by
  unfold settle
  refine Local.after pure_getSt fun s => ?_
  cases f with
  | fall => exact Local.ending (local_goOn _ _) _
  | skip e => exact Local.ending (local_goOn _ _) _
  | jump t => exact Local.after (pure_chkTarget _) fun _ => Local.ending (local_modRole _) _
  | call t => exact Local.after (pure_chkTarget _) fun _ => Local.ending (local_modRole _) _
  | halt => exact Local.ending (local_modRole _) _
  | yield => exact Local.ending (local_goOn _ _) _
  | soft k => exact Local.ending (local_goOn _ _) _
  | lrec l => exact Local.after (pure_chkRecEnd _ _) fun _ => Local.ending (local_modRole _) _

/-- What a syllable does: its body, and what is its role's alone. -/
theorem commit_split {n : Nat} {body : Iss Flow} {s t : State} {p : Post} (h : commit n body s = .ok (p, t)) :
    ∃ f u, body s = .ok (f, u) ∧ Local u t := by
  unfold commit at h
  obtain ⟨_, s0, hgate, h⟩ := bind_split h
  cases pure_boundaryGate _ _ _ hgate
  obtain ⟨f, u, hbody, h⟩ := bind_split h
  refine ⟨f, u, hbody, ?_⟩
  refine (Local.bind (local_modClu _) fun _ => Local.bind (local_settle n f) fun p => Local.ending (local_modSt fun s => ?_) p) _ _ _ h
  exact local_setRole ..

/-- A syllable that has a next state has changed its role alone, or its body has been run. -/
theorem issueN_split {n : Nat} {b : Bool} {body : Iss Flow} {s t : State} (h : issueN n b body s = .next t) :
    Local s t ∨ ∃ f u, body s = .ok (f, u) ∧ Local u t := by
  unfold issueN at h
  split at h
  · cases h
  · split at h
    · next p s' hrun =>
      cases h
      have hcommit : commit n body s = .ok (p, s') := by
        cases b
        · exact hrun
        · obtain ⟨_, s0, hgate, hrun⟩ := bind_split hrun
          cases pure_syncGate _ _ _ _ hgate
          exact hrun
      obtain ⟨f, u, hbody, hu⟩ := commit_split hcommit
      exact .inr ⟨f, u, hbody, Local.trans _ _ _ hu (local_applyPost ..)⟩
    · cases h
      exact .inl (Local.refl s)
    · cases h
      exact .inl (local_takeStop ..)
    · cases h
      exact .inl (local_deferredAt ..)

end Sys2Proof.Machine
end

section
/-! ### What reaches a tile store (R201, R209, R210, R253, R429) -/
namespace Sys2Proof.Machine

/-- Of the tile stores only bytes within W change, and poison leaves only granules that lie in W whole; the rest as in `Around`. -/
structure Stores (W : Nat → Prop) (s t : State) : Prop extends Around s t where
  mem : t.mem = s.mem
  tile : ∀ q, ¬ W q → readByte t.tile q = readByte s.tile q
  kept : ∀ g, (∃ j < 64, ¬ W (64 * g + j)) → (g ∈ t.tpoison ↔ g ∈ s.tpoison)
  fewer : ∀ g ∈ t.tpoison, g ∈ s.tpoison

theorem Stores.of_local {W : Nat → Prop} {s t : State} (h : Local s t) : Stores W s t :=
  ⟨h.toAround, h.mem, fun _ _ => by rw [h.tile], fun _ _ => by rw [h.tpoison], fun _ hg => h.tpoison ▸ hg⟩
theorem Stores.trans {W : Nat → Prop} {s t u : State} (h : Stores W s t) (h' : Stores W t u) : Stores W s u where
  toAround := h.toAround.trans h'.toAround
  mem := h'.mem.trans h.mem
  tile q hq := (h'.tile q hq).trans (h.tile q hq)
  kept g hg := (h'.kept g hg).trans (h.kept g hg)
  fewer g hg := h.fewer g (h'.fewer g hg)
theorem Stores.mono {W W' : Nat → Prop} {s t : State} (h : Stores W s t) (hW : ∀ q, W q → W' q) : Stores W' s t where
  toAround := h.toAround
  mem := h.mem
  tile q hq := h.tile q fun hw => hq (hW q hw)
  kept g := fun ⟨j, hj, hw⟩ => h.kept g ⟨j, hj, fun hw' => hw (hW _ hw')⟩
  fewer := h.fewer
theorem around_tile (s : State) (m : List Host.Cell) (l : List Nat) : Around s { s with tile := m, tpoison := l } :=
  ⟨rfl, fun _ _ => rfl, fun _ _ => rfl, fun _ => rfl⟩
/-! A range of a role's window. -/

/-- R201: tile-store byte q is one of the n bytes from offset o of the issuing role. -/
def Spans (s : State) (o n q : Nat) : Prop :=
  ∃ p, tileRange s.curRole (s.arrBase (s.curKey / 4)) o n = some p ∧ tkey (s.curKey / 4) p ≤ q ∧ q < tkey (s.curKey / 4) p + n

theorem mem_foldl_lremove {g : Nat} (gs l : List Nat) : g ∈ gs.foldl lremove l ↔ g ∈ l ∧ g ∉ gs := by
  induction gs generalizing l with
  | nil => simp
  | cons x t ih =>
    rw [List.foldl_cons, ih]
    simp [lremove, and_assoc]
theorem wholeGranules_within {a n g : Nat} (h : g ∈ wholeGranules a n) : a ≤ 64 * g ∧ 64 * g + 64 ≤ a + n := by
  simpa using (List.mem_filter.mp h).2

theorem stores_tileWrite (s : State) (core p : Nat) (bs : List Byte) :
    Stores (fun q => tkey core p ≤ q ∧ q < tkey core p + bs.length) s (s.tileWrite core p bs) where
  toAround := around_tile ..
  mem := rfl
  tile q hq := readByte_writeBytes_outside _ _ _ _ (by omega)
  kept g := fun ⟨j, hj, hq⟩ => by
    show g ∈ (wholeGranules _ _).foldl lremove s.tpoison ↔ _
    rw [mem_foldl_lremove]
    refine and_iff_left fun hg => ?_
    obtain ⟨hlo, hhi⟩ := wholeGranules_within hg
    omega
  fewer g hg := mem_of_mem_foldl_lremove _ _ hg

theorem stores_tilePut {o : Nat} {bs : List Byte} {s t : State} (h : Does (tilePut o bs) s t) : Stores (Spans s o bs.length) s t := by
  obtain ⟨p, s1, hchk, hput⟩ := bind_split h
  cases pure_tileChk _ _ _ _ _ hchk
  cases hput
  exact (stores_tileWrite ..).mono fun q hq => ⟨p, reads_tileChk.mp hchk, hq⟩

/-! A vector of a region stream. -/

/-- R209: tile-store byte q is a place of vector p of region stream y. -/
def Strm.holds (y : Strm) (s : State) (p q : Nat) : Prop :=
  ∃ j < 512, ∃ x b, 512 * p + j < y.seqLen ∧ y.offAt (512 * p + j) = some x ∧
    tileByte s.curRole (s.arrBase (s.curKey / 4)) x.toNat = some b ∧ q = tkey (s.curKey / 4) b

/-- The bytes that a vector of a region stream writes, with where each stands. -/
def Strm.cells (y : Strm) (s : State) (p : Nat) (v : List Byte) : List (Nat × Byte) :=
  ((y.places p).zip v).filterMap (fun ob => ob.1.map (fun x =>
    (tkey (s.curKey / 4) ((tileByte s.curRole (s.arrBase (s.curKey / 4)) x.toNat).getD 0), ob.2)))

theorem mem_places {y : Strm} {p : Nat} {x : Int} (h : some x ∈ y.places p) :
    ∃ j < 512, 512 * p + j < y.seqLen ∧ y.offAt (512 * p + j) = some x := by
  obtain ⟨j, hj, hx⟩ := List.mem_map.mp h
  split at hx
  · next hlen => exact ⟨j, List.mem_range.mp hj, hlen, hx⟩
  · cases hx

theorem holds_of_mem_cells {y : Strm} {s : State} {p : Nat} {v : List Byte} (hf : y.fits s p) {c : Nat × Byte}
    (hc : c ∈ y.cells s p v) : y.holds s p c.1 := by
  obtain ⟨⟨o, b⟩, hzip, hcell⟩ := List.mem_filterMap.mp hc
  obtain ⟨x, rfl, rfl⟩ := Option.map_eq_some_iff.mp hcell
  have hplace : some x ∈ y.places p := (List.of_mem_zip hzip).1
  obtain ⟨j, hj, hlen, hoff⟩ := mem_places hplace
  have hin := hf x hplace
  unfold Strm.outside at hin
  rw [Bool.or_eq_false_iff] at hin
  rcases hb : tileByte s.curRole (s.arrBase (s.curKey / 4)) x.toNat with _ | b'
  · rw [hb] at hin
    exact absurd hin.2 (by simp)
  · exact ⟨j, hj, x, b', hlen, hoff, hb, rfl⟩

theorem readByte_foldl_writeByte {q : Nat} (cells : List (Nat × Byte)) (m : List Host.Cell) (h : ∀ c ∈ cells, c.1 ≠ q) :
    readByte (cells.foldl (fun m c => writeByte m c.1 c.2) m) q = readByte m q := by
  induction cells generalizing m with
  | nil => rfl
  | cons c l ih =>
    rw [List.foldl_cons, ih _ fun x hx => h x (List.mem_cons_of_mem _ hx), readByte_writeByte,
      if_neg (h c (List.mem_cons_self ..)).symm]

theorem stores_regionPut {y : Strm} {p : Nat} {v : List Byte} {s t : State} (h : Does (regionPut y p v) s t) :
    Stores (y.holds s p) s t := by
  have hfits : y.fits s p := by
    rcases regionPut_run y p v s with ⟨hf, -⟩ | ⟨-, x, hx⟩
    · exact hf
    · unfold Does at h
      rw [hx] at h
      cases h
  obtain ⟨m, l, hm, hl, rfl⟩ : ∃ m l, m = (y.cells s p v).foldl (fun m c => writeByte m c.1 c.2) s.tile ∧
      l = s.tpoison.filter (fun g => !((List.range 64).all (fun i => (y.cells s p v).any (fun c => c.1 = 64 * g + i)))) ∧
      t = { s with tile := m, tpoison := l } := by
    unfold Does regionPut at h
    rw [bind_ok (getSt_run s), bind_ok (getRole_run s)] at h
    dsimp only at h
    generalize hfind : List.find? _ _ = o at h
    rcases o with _ | _ | x
    · cases h
      exact ⟨_, _, rfl, rfl, rfl⟩
    · cases h
      exact ⟨_, _, rfl, rfl, rfl⟩
    · cases h
  have hpoison : ∀ g, g ∈ l ↔ g ∈ s.tpoison ∧ ¬ ∀ i < 64, ∃ c ∈ y.cells s p v, c.1 = 64 * g + i := by
    simp [hl]
  refine ⟨around_tile .., rfl, fun q hq => ?_, fun g ⟨j, hj, hq⟩ => ?_, fun g hg => ((hpoison g).mp hg).1⟩
  · show readByte m q = _
    rw [hm]
    exact readByte_foldl_writeByte _ _ fun c hc hcq => hq (hcq ▸ holds_of_mem_cells hfits hc)
  · refine (hpoison g).trans (and_iff_left fun hall => hq ?_)
    obtain ⟨c, hc, hcq⟩ := hall j hj
    exact hcq ▸ holds_of_mem_cells hfits hc

/-! The next vector of a sink. -/

/-- R209, R210: tile-store byte q is one that the next vector of sink y goes to. -/
def Strm.takes (y : Strm) (s : State) (q : Nat) : Prop :=
  y.sink = true ∧
    ((∃ g, y.bind = 1 ∧ s.curRole.ring? y.ring = some g ∧
        Spans s (g.slotOff (g.idxOf ((y.rebase g).slotNo g)) + 512 * (y.sp % slotVecs g)) 512 q) ∨
      (y.bind = 0 ∧ y.holds s (if y.sp < y.vectors then y.sp else y.sp % y.vectors) q))

theorem SameSinks.spans {s t : State} (h : SameSinks s t) {o n q : Nat} (hq : Spans t o n q) : Spans s o n q := by
  obtain ⟨p, hp, hq⟩ := hq
  unfold tileRange State.arrBase State.core at hp
  rw [h.curRole.tileByte, h.curRole.tileByte, h.cores, h.curKey] at hp
  rw [h.curKey] at hq
  exact ⟨p, hp, hq⟩
theorem SameSinks.holds {s t : State} (h : SameSinks s t) {y : Strm} {p q : Nat} (hq : y.holds t p q) : y.holds s p q := by
  obtain ⟨j, hj, x, b, hlen, hoff, hb, hq⟩ := hq
  unfold State.arrBase State.core at hb
  rw [h.curRole.tileByte, h.cores, h.curKey] at hb
  rw [h.curKey] at hq
  exact ⟨j, hj, x, b, hlen, hoff, hb, hq⟩

theorem regionPos_eq {y : Strm} {n p r : Nat} {s s' : State} (h : regionPos y n p s = .ok (r, s')) :
    r = if p < y.vectors then p else p % y.vectors := by
  unfold regionPos at h
  split
  · next hp =>
    rw [if_pos hp] at h
    cases h
    rfl
  · next hp =>
    rw [if_neg hp] at h
    split at h
    · cases h
      rfl
    · cases h

theorem acquireFor_does {n : Nat} {s t : State} (h : Does (acquireFor n) s t) : SameSinks s t ∧ Local s t := by
  unfold Does acquireFor at h
  rw [bind_ok (getRole_run s)] at h
  rcases hg : s.curRole.ring? n with _ | g
  · rw [hg] at h
    cases h
  · rw [hg] at h
    obtain ⟨_, s1, hwait, hset⟩ := bind_split h
    cases pure_waitIf _ _ _ _ hwait
    cases hset
    exact ⟨sameSinks_setRole (sameSink_setRing hg _), local_setRole ..⟩

theorem stores_pushStrm {n : Nat} {v : Row} {s t : State} (h : Does (pushStrm n v) s t) :
    ∃ y, s.curRole.strm? n = some y ∧ Stores (y.takes s) s t := by
  unfold Does pushStrm at h
  obtain ⟨_, s0, hfree, h⟩ := bind_split h
  cases pure_strmFree _ _ _ _ hfree
  rw [bind_ok (getSt_run s), bind_ok (getRole_run s)] at h
  rcases hy : s.curRole.strm? n with _ | y
  · rw [hy] at h
    cases h
  · refine ⟨y, rfl, ?_⟩
    rw [hy] at h
    obtain ⟨_, s0, htrap, h⟩ := bind_split h
    obtain ⟨hno, hs0⟩ := trapIf_passed htrap
    cases hs0
    have hsink : y.sink = true := by simpa using hno
    rcases hb : y.bind with _ | _ | k
    · rw [hb] at h
      obtain ⟨p, s0, hpos, h⟩ := bind_split h
      cases pure_regionPos _ _ _ _ _ _ hpos
      obtain ⟨_, s1, hput, hend⟩ := bind_split h
      refine ((stores_regionPut hput).mono fun q hq => ⟨hsink, .inr ⟨hb, ?_⟩⟩).trans (.of_local (local_modRole _ _ _ _ hend))
      exact regionPos_eq hpos ▸ hq
    · rw [hb] at h
      dsimp only at h
      rcases hg : s.curRole.ring? y.ring with _ | g
      · rw [hg] at h
        cases h
      · rw [hg] at h
        dsimp only at h
        have hput : ∀ s1, SameSinks s s1 → Local s s1 →
            (do tilePut (g.slotOff (g.idxOf ((y.rebase g).slotNo g)) + 512 * (y.sp % slotVecs g)) (rowLe v)
                modRole (fun r => r.setStrm n (y.rebase g))
                if y.sp % slotVecs g + 1 = slotVecs g then
                  modRole (fun r => match r.ring? y.ring with
                    | some g' => r.setRing y.ring (g'.publishAt ((y.rebase g).slotNo g) .published)
                    | none => r)
                else pure ()
                modRole (fun r => match r.strm? n with
                  | some u => r.setStrm n { u with c := y.sp + 1, sp := y.sp + 1 }
                  | none => r) : Iss Unit) s1 = .ok ((), t) → Stores (y.takes s) s t := by
          intro s1 hsame hloc hrun
          obtain ⟨_, s2, hput, hrun⟩ := bind_split hrun
          refine (Stores.of_local hloc).trans (((stores_tilePut hput).mono fun q hq => ⟨hsink, .inl ⟨g, hb, hg, ?_⟩⟩).trans
            (.of_local ((Local.bind (local_modRole _) fun _ => Local.optional (local_modRole _) fun _ => local_modRole _) _ _ _ hrun)))
          rw [rowLe_length] at hq
          exact hsame.spans hq
        by_cases hk : y.sp % slotVecs g = 0
        · rw [if_pos hk] at h
          obtain ⟨_, s1, hacq, h⟩ := bind_split h
          exact hput s1 (acquireFor_does hacq).1 (acquireFor_does hacq).2 h
        · rw [if_neg hk] at h
          exact hput s (SameSinks.refl s) (Local.refl s) h
    · rw [hb] at h
      refine .of_local ((Local.after (pure_trapIf _ _ _ _) fun _ => Local.after (pure_waitIf _) fun _ =>
        Local.bind (local_modSt fun _ => local_setChan ..) fun _ => local_modRole _) _ _ _ h)

end Sys2Proof.Machine
end

section
/-! ### Row results: sources are read and popped, then the destination takes the row (R145 to R149, R209, R210) -/
namespace Sys2Proof.Machine

/-- Where a ring lies and where its next slots are acquired. -/
def Ring.layout (g : Ring) : Word × Word × BitVec 32 × Nat := (g.w0, g.w1, g.tail, g.ti)

/-- Every ring of the issuing role lies where it lay, and acquires where it did. -/
structure SameRings (s t : State) : Prop where
  cur : t.cur = s.cur
  rings : ∀ n, (t.curRole.ring? n).map Ring.layout = (s.curRole.ring? n).map Ring.layout

theorem SameRings.refl (s : State) : SameRings s s := ⟨rfl, fun _ => rfl⟩
theorem SameRings.trans (a b c : State) (h : SameRings a b) (k : SameRings b c) : SameRings a c :=
  ⟨k.cur.trans h.cur, fun n => (k.rings n).trans (h.rings n)⟩

theorem sameRings_setRole {s : State} {r : Role}
    (h : ∀ n, (r.ring? n).map Ring.layout = (s.curRole.ring? n).map Ring.layout) : SameRings s (s.setRole s.curKey r) where
  cur := rfl
  rings n := by
    have hcur : (s.setRole s.curKey r).curRole = r := curRole_setRole s r
    rw [hcur, h]
theorem sameRings_modRole {f : Role → Role} (h : ∀ r n, ((f r).ring? n).map Ring.layout = (r.ring? n).map Ring.layout) :
    Keeps SameRings (modRole f) := by
  intro s a s' e
  cases e
  exact sameRings_setRole (h _)
theorem sameRings_pure {α : Type} (a : α) : Keeps SameRings (pure a : Iss α) := by
  intro s b s' e
  cases e
  exact SameRings.refl s

theorem layout_popN (n : Nat) (g : Ring) : (Ring.popN n g).layout = g.layout := by
  induction n generalizing g with
  | zero => rfl
  | succ n ih => exact (ih _).trans rfl
theorem layout_releaseTo (g : Ring) (c : BitVec 32) : (g.releaseTo c).layout = g.layout := by
  unfold Ring.releaseTo
  dsimp only
  split
  · rfl
  · exact layout_popN _ _
theorem layout_releasePassed (r : Role) (y : Strm) (n : Nat) :
    ((releasePassed r y).ring? n).map Ring.layout = (r.ring? n).map Ring.layout := by
  unfold releasePassed
  split
  · split
    · next g hg =>
      rw [ring?_setRing]
      split
      · next hn =>
        rw [hn, hg, Option.map_some, Option.map_some, layout_releaseTo]
      · rfl
    · rfl
  · rfl

theorem sameRings_raiseI (row lane : Nat) (fl : Fl) : Keeps SameRings (raiseI row lane fl) := by
  unfold raiseI
  split
  · exact sameRings_pure _
  · intro s a s' e
    cases e
    refine sameRings_setRole fun n => ?_
    split
    · rfl
    · rfl
theorem sameRings_raiseLanes (row : Nat) (l : List (Nat × Fl)) : Keeps SameRings (raiseLanes row l) := by
  induction l with
  | nil => exact sameRings_pure _
  | cons x t ih => exact Keeps.bind SameRings.trans (sameRings_raiseI _ _ _) fun _ => ih
theorem sameRings_popAll (l : List Nat) : Keeps SameRings (popAll l) := by
  induction l with
  | nil => exact sameRings_pure _
  | cons q t ih => exact Keeps.bind SameRings.trans (sameRings_modRole fun _ _ => rfl) fun _ => ih
theorem sameRings_popStrm (n : Nat) (mark : Bool) : Keeps SameRings (popStrm n mark) := by
  intro s a t h
  unfold popStrm at h
  rw [bind_ok (getSt_run s), bind_ok (getRole_run s)] at h
  rcases hy : s.curRole.strm? n with _ | y
  · rw [hy] at h
    exact sameRings_pure _ _ _ _ h
  · rw [hy] at h
    obtain ⟨_, s1, hset, h⟩ := bind_split h
    cases hset
    refine SameRings.trans _ _ _ ?_ (Keeps.optional SameRings.trans ?_ (fun _ =>
      Keeps.ite (sameRings_modRole fun r n => layout_releasePassed r _ n) (sameRings_pure _)) _ _ _ h)
    · exact sameRings_setRole fun _ => rfl
    · intro s a s' e
      cases e
      exact ⟨rfl, fun _ => rfl⟩
theorem sameRings_popStrms (l : List (Nat × Bool)) : Keeps SameRings (popStrms l) := by
  induction l with
  | nil => exact sameRings_pure _
  | cons x t ih => exact Keeps.bind SameRings.trans (sameRings_popStrm _ _) fun _ => ih
theorem sameRings_popRows (l : List (RSrc × Bool)) : Keeps SameRings (popRows l) :=
  Keeps.bind SameRings.trans (sameRings_popAll _) fun _ => sameRings_popStrms _

/-- What the flags and pops of a row result leave for its destination. -/
structure Readied (s u : State) : Prop where
  loc : Local s u
  sinks : SameSinks s u
  rings : SameRings s u

/-- Where the next vector of a ring stream goes, by the ring's layout. -/
theorem vectorOff_eq {g g' : Ring} (h : g'.layout = g.layout) (y : Strm) :
    g'.slotOff (g'.idxOf ((y.rebase g').slotNo g')) + 512 * (y.sp % slotVecs g') =
      g.slotOff (g.idxOf ((y.rebase g).slotNo g)) + 512 * (y.sp % slotVecs g) := by
  obtain ⟨hw0, hw1, htail, hti⟩ := (Prod.mk.injEq ..).mp h |>.imp_right fun h => (Prod.mk.injEq ..).mp h |>.imp_right (Prod.mk.injEq ..).mp
  unfold Ring.slotOff Ring.idxOf Strm.rebase Strm.slotNo slotVecs Ring.base Ring.slotBytes Ring.count
  rw [hw0, hw1, htail, hti]

theorem Readied.takes {s u : State} (h : Readied s u) {y : Strm} {q : Nat} (hq : y.takes u q) : y.takes s q := by
  obtain ⟨hsink, ⟨g', hb, hg', hq⟩ | ⟨hb, hq⟩⟩ := hq
  · have hlay := h.rings.rings y.ring
    rw [hg', Option.map_some, eq_comm, Option.map_eq_some_iff] at hlay
    obtain ⟨g, hg, hlay⟩ := hlay
    rw [vectorOff_eq hlay.symm] at hq
    exact ⟨hsink, .inl ⟨g, hb, hg, h.sinks.spans hq⟩⟩
  · exact ⟨hsink, .inr ⟨hb, h.sinks.holds hq⟩⟩

/-- A body that makes one row for destination d: what comes before the write leaves the destination's place alone. -/
def RowBody (d : RDst) (body : Iss Flow) : Prop :=
  ∀ s f t, body s = .ok (f, t) → ∃ u v, Readied s u ∧ Does (wrR d v) u t

theorem local_wrR {d : RDst} (hd : ∀ n, d ≠ .s n) (v : Row) : Keeps Local (wrR d v) := by
  cases d with
  | v n => exact local_wrV _ _
  | qw n => exact local_qPush _ _
  | s n => exact absurd rfl (hd n)

/-- A row whose destination is no stream stays in the role. -/
theorem RowBody.toLocal {d : RDst} {body : Iss Flow} (h : RowBody d body) (hd : ∀ n, d ≠ .s n) : Keeps Local body := by
  intro s f t hrun
  obtain ⟨u, v, hready, hwr⟩ := h s f t hrun
  exact Local.trans _ _ _ hready.loc (local_wrR hd v _ _ _ hwr)
/-- A row for a stream goes where the stream's next vector goes. -/
theorem RowBody.stores {n : BitVec 4} {body : Iss Flow} (h : RowBody (.s n) body) {s t : State} {f : Flow}
    (hrun : body s = .ok (f, t)) : Stores (fun q => ∃ y, s.curRole.strm? n.toNat = some y ∧ y.takes s q) s t := by
  obtain ⟨u, v, hready, hwr⟩ := h s f t hrun
  obtain ⟨y, hy, hst⟩ := stores_pushStrm hwr
  refine (Stores.of_local hready.loc).trans (hst.mono fun q hq => ⟨y, ?_, hready.takes hq⟩)
  have hsink := hready.sinks.curRole.sink n.toNat
  rw [sink?_of_strm? hy hq.1] at hsink
  exact (strm?_of_sink? hsink.symm).1

/-! The sources of a row. -/

/-- A computation succeeds only where the streams among these sources are no sinks. -/
def Sources {α : Type} (m : Iss α) (l : List (RSrc × Bool)) : Prop :=
  ∀ s a t, m s = .ok (a, t) → ∀ x ∈ l, ∀ n, rStrm x.1 = some n → s.curRole.sink? n = none

theorem sources_nil {α : Type} (m : Iss α) : Sources m [] := fun _ _ _ _ _ hx => absurd hx List.not_mem_nil
theorem Sources.read {α : Type} {x : RSrc} {b : Bool} {k : RowVal → Iss α} {l : List (RSrc × Bool)} (h : ∀ v, Sources (k v) l) :
    Sources (rdR x >>= k) ((x, b) :: l) := by
  intro s a t hrun y hy n hn
  obtain ⟨v, s1, hrd, hrun⟩ := bind_split hrun
  cases pure_rdR _ _ _ _ hrd
  rcases List.mem_cons.mp hy with rfl | hy
  · exact sink?_of_rdR hrd hn
  · exact h v s a t hrun y hy n hn
theorem Sources.scalar {α : Type} {m : Iss α} {x : SSrc} {b : Bool} {l : List (RSrc × Bool)} (h : Sources m l) :
    Sources m ((.sc x, b) :: l) := by
  intro s a t hrun y hy n hn
  rcases List.mem_cons.mp hy with rfl | hy
  · cases hn
  · exact h s a t hrun y hy n hn

theorem Sources.first {α β : Type} {m : Iss β} {k : β → Iss α} {l : List (RSrc × Bool)} (h : Sources m l) : Sources (m >>= k) l := by
  intro s a t hrun
  obtain ⟨v, s1, hm, -⟩ := bind_split hrun
  exact h s v s1 hm

/-- The end of a body that makes one row, once its sources are known to be no sinks. -/
def RowTail (srcs : List (RSrc × Bool)) (d : RDst) (body : Iss Flow) : Prop :=
  ∀ s f t, (∀ x ∈ srcs, ∀ n, rStrm x.1 = some n → s.curRole.sink? n = none) → body s = .ok (f, t) →
    ∃ u v, Readied s u ∧ Does (wrR d v) u t

theorem RowBody.after {α : Type} {d : RDst} {m : Iss α} {k : α → Iss Flow} (hm : Pure m) (h : ∀ a, RowBody d (k a)) :
    RowBody d (m >>= k) := by
  intro s f t hrun
  obtain ⟨a, s1, hrd, hrun⟩ := bind_split hrun
  cases hm _ _ _ hrd
  exact h a s f t hrun
theorem RowTail.after {α : Type} {srcs : List (RSrc × Bool)} {d : RDst} {m : Iss α} {k : α → Iss Flow} (hm : Pure m)
    (h : ∀ a, RowTail srcs d (k a)) : RowTail srcs d (m >>= k) := by
  intro s f t hs hrun
  obtain ⟨a, s1, hrd, hrun⟩ := bind_split hrun
  cases hm _ _ _ hrd
  exact h a s f t hs hrun
theorem RowBody.of_tail {srcs : List (RSrc × Bool)} {d : RDst} {body : Iss Flow} (hs : Sources body srcs) (h : RowTail srcs d body) :
    RowBody d body := fun s f t hrun => h s f t (hs s f t hrun) hrun

/-- Flags, pops, and the write. -/
theorem rowTail (srcs : List (RSrc × Bool)) (d : RDst) (v : Row) (row : Nat) (fl : List (Nat × Fl)) :
    RowTail srcs d (do raiseLanes row fl; popRows srcs; wrR d v; pure .fall) := by
  intro s f t hs h
  obtain ⟨⟨⟩, s1, hraise, h⟩ := bind_split h
  obtain ⟨⟨⟩, s2, hpop, h⟩ := bind_split h
  obtain ⟨⟨⟩, s3, hwr, h⟩ := bind_split h
  cases h
  have hsinks := sameSinks_raiseLanes _ _ _ _ _ hraise
  refine ⟨s2, v, ⟨Local.trans _ _ _ (local_raiseLanes _ _ _ _ _ hraise) (local_popRows _ _ _ _ hpop),
    SameSinks.trans _ _ _ hsinks (sameSinks_popRows (fun a ha n hn => ?_) hpop),
    SameRings.trans _ _ _ (sameRings_raiseLanes _ _ _ _ _ hraise) (sameRings_popRows _ _ _ _ hpop)⟩, hwr⟩
  rw [hsinks.curRole.sink, hs a ha n hn]

theorem rowBody_rowOp {h : Hdr} {ty : ETy} {srcs : List (RSrc × Bool)} {d : RDst} {lanes : Iss (List (Nat × Fl))} (hp : Pure lanes)
    (hs : Sources lanes srcs) : RowBody d (rowOp h ty srcs d lanes) :=
  .after (pure_guardP h) fun _ => .after (pure_fieldOrder _ _) fun _ =>
    .of_tail hs.first (.after hp fun _ => .after (pure_oldRow d) fun _ => rowTail _ _ _ _ _)

/-! The shapes. -/

theorem rowBody_vec1 (h : Hdr) (o : V1) (f : RowVal → Nat → Nat × Fl) : RowBody o.d (vec1 h o f) :=
  rowBody_rowOp ((pure_rdR _).bind fun _ => pure_pure _) (.read fun _ => sources_nil _)
theorem rowBody_vec2 (h : Hdr) (o : V2) (f : RowVal → RowVal → Nat → Nat × Fl) : RowBody o.d (vec2 h o f) :=
  rowBody_rowOp ((pure_rdR _).bind fun _ => (pure_rdR _).bind fun _ => pure_pure _) (.read fun _ => .read fun _ => sources_nil _)
theorem rowBody_vec3 (h : Hdr) (o : V3) (f : RowVal → RowVal → RowVal → Nat → Nat × Fl) : RowBody o.d (vec3 h o f) :=
  rowBody_rowOp ((pure_rdR _).bind fun _ => (pure_rdR _).bind fun _ => (pure_rdR _).bind fun _ => pure_pure _)
    (.read fun _ => .read fun _ => .read fun _ => sources_nil _)
theorem rowBody_zipOp (h : Hdr) (o : VZipF) (f : RowVal → RowVal → Nat → Nat) : RowBody o.d (zipOp h o f) :=
  rowBody_rowOp ((pure_rdR _).bind fun _ => (pure_rdR _).bind fun _ => pure_pure _) (.read fun _ => .read fun _ => sources_nil _)
theorem rowBody_resVsel (h : Hdr) (o : VSelF) : RowBody o.d (resVsel h o) :=
  rowBody_rowOp ((pure_rdR _).bind fun _ => (pure_rdR _).bind fun _ => (pure_rdP _).bind fun _ => pure_pure _)
    (.read fun _ => .read fun _ => sources_nil _)
theorem rowBody_resVbcast (h : Hdr) (o : VRS) : RowBody o.d (resVbcast h o) :=
  rowBody_rowOp ((pure_rdR _).bind fun _ => (pure_rdS _).bind fun _ => pure_pure _) (.read fun _ => .scalar (sources_nil _))
theorem rowBody_resVrot (h : Hdr) (o : VRS) : RowBody o.d (resVrot h o) :=
  rowBody_rowOp ((pure_rdR _).bind fun _ => (pure_rdS _).bind fun _ => pure_pure _) (.read fun _ => .scalar (sources_nil _))
theorem rowBody_resVrng (h : Hdr) (o : VRngF) : RowBody o.d (resVrng h o) :=
  rowBody_rowOp ((pure_rdS _).bind fun _ => (pure_rdS _).bind fun _ => pure_pure _) (.scalar (.scalar (sources_nil _)))
theorem rowBody_resVdeq (h : Hdr) (o : VSxF) : RowBody o.d (resVdeq h o) :=
  rowBody_rowOp ((pure_rdR _).bind fun _ => pure_pure _) (.read fun _ => sources_nil _)
theorem rowBody_resVscansum (h : Hdr) (o : V1) : RowBody o.d (resVscansum h o) :=
  .after (pure_guardP h) fun _ => rowBody_rowOp ((pure_rdR _).bind fun _ => pure_pure _) (.read fun _ => sources_nil _)
theorem rowBody_resVcvt (h : Hdr) (o : VCvtF) : RowBody o.d (resVcvt h o) :=
  .after (pure_guardP h) fun _ => .after (pure_fieldOrder _ _) fun _ =>
    .of_tail (.read fun _ => sources_nil _) (.after (pure_rdR _) fun _ => .after (pure_oldRow _) fun _ => rowTail _ _ _ _ _)
theorem rowBody_resVquant (h : Hdr) (o : VSxF) : RowBody o.d (resVquant h o) :=
  .after (pure_guardP h) fun _ => .after (pure_fieldOrder _ _) fun _ =>
    .of_tail (.read fun _ => sources_nil _) (.after (pure_rdR _) fun _ => .after (pure_oldRow _) fun _ => rowTail _ _ _ _ _)
theorem rowBody_resVscale (h : Hdr) (o : VScaleF) : RowBody o.d (resVscale h o) :=
  .after (pure_guardP h) fun _ => .after (pure_fieldOrder _ _) fun _ => .of_tail (.read fun _ => .scalar (sources_nil _))
    (.after (pure_rdR _) fun _ => .after (pure_rdS _) fun _ => .after (pure_oldRow _) fun _ => rowTail _ _ _ _ _)

end Sys2Proof.Machine
end

section
/-! ### The bodies that stay in their role and their core (06, 07, 09, 10, 14 to 17, 21) -/
namespace Sys2Proof.Machine

/-! Control and scalar. -/

theorem pure_branchIf (h : Hdr) (ms : List Mk) {test : Iss Bool} (ht : Pure test) (off : BitVec 28) : Pure (branchIf h ms test off) :=
  (pure_guardS h).bind fun g => by
    cases g
    · exact (pure_needHeads _).bind fun _ => pure_pure _
    · exact ht.bind fun _ => pure_pcI.bind fun _ => pure_pure _
theorem pure_jumpTo (h : Hdr) (a : SSrc) (off : BitVec 28) : Pure (jumpTo h a off) :=
  (pure_guardS h).bind fun g => by
    cases g
    · exact (pure_needHeads _).bind fun _ => pure_pure _
    · exact (pure_rdS a).bind fun _ => pure_pure _
theorem local_resCall (h : Hdr) (x : BitVec 5) (off : BitVec 28) : Keeps Local (resCall h x off) :=
  Local.after (pure_guardS h) fun g => by
    cases g
    · exact local_pure _
    · exact Local.after pure_pcI fun _ => Local.ending (local_wrX _ _) _
theorem local_loopWith (c : Word) (off : BitVec 28) : Keeps Local (loopWith c off) :=
  Local.after pure_getSt fun _ => Local.after pure_getClu fun _ => Local.after (pure_trapIf _ _ _ _) fun _ =>
    Keeps.ite (local_pure _) (Local.after pure_sylWord fun _ => Local.after (pure_trapIf _ _ _ _) fun _ =>
      Local.ending (local_modClu _) _)
theorem local_resLoop (h : Hdr) (a : SSrc) (off : BitVec 28) : Keeps Local (resLoop h a off) :=
  Local.after (pure_guardS h) fun g => by
    cases g
    · exact Local.after (pure_needHeads _) fun _ => local_pure _
    · exact Local.after (pure_rdS a) fun _ => local_loopWith _ _
theorem local_resLoopi (h : Hdr) (n : BitVec 16) (off : BitVec 28) : Keeps Local (resLoopi h n off) :=
  Local.after (pure_guardS h) fun _ => Keeps.ite (local_loopWith _ _) (local_pure _)
theorem pure_resHalt (h : Hdr) : Pure (resHalt h) :=
  pure_getSt.bind fun _ => (pure_waitIf _).bind fun _ => pure_stopPoint.bind fun _ => pure_pure _
theorem pure_resTfence (h : Hdr) : Pure (resTfence h) :=
  (pure_guardS h).bind fun _ => Keeps.ite (pure_getSt.bind fun _ => (pure_waitIf _).bind fun _ => pure_stopPoint.bind fun _ =>
    pure_getRole.bind fun _ => (pure_trapIf _ _ _ _).bind fun _ => pure_pure _) (pure_pure _)
theorem local_alu1 (h : Hdr) (o : S1) (f : Word → Word) : Keeps Local (alu1 h o f) :=
  local_scalarOp _ _ _ (local_of_pure ((pure_rdS _).bind fun _ => pure_pure _))
theorem local_alu2 (h : Hdr) (o : S2) (f : Word → Word → Word) : Keeps Local (alu2 h o f) :=
  local_scalarOp _ _ _ (local_of_pure ((pure_rdS _).bind fun _ => (pure_rdS _).bind fun _ => pure_pure _))
theorem local_alu2f (h : Hdr) (o : S2) (f : Word → Word → Nat × Fl) : Keeps Local (alu2f h o f) :=
  local_scalarOp _ _ _ (Local.after (pure_rdS _) fun _ => Local.after (pure_rdS _) fun _ => Local.ending (local_raiseI _ _ _) _)
theorem local_alu3 (h : Hdr) (o : S3) (f : Word → Word → Word → Word) : Keeps Local (alu3 h o f) :=
  local_scalarOp _ _ _ (local_of_pure ((pure_rdS _).bind fun _ => (pure_rdS _).bind fun _ => (pure_rdS _).bind fun _ => pure_pure _))
theorem local_alui (h : Hdr) (o : I1) (f : Word → Word → Word) : Keeps Local (alui h o f) :=
  local_scalarOp _ _ _ (local_of_pure ((pure_rdS _).bind fun _ => pure_pure _))
theorem local_aluif (h : Hdr) (o : I1) (f : Word → Word → Nat × Fl) : Keeps Local (aluif h o f) :=
  local_scalarOp _ _ _ (Local.after (pure_rdS _) fun _ => Local.ending (local_raiseI _ _ _) _)
theorem local_resMovkh (h : Hdr) (x : BitVec 5) (imm : BitVec 24) : Keeps Local (resMovkh h x imm) :=
  local_guarded _ _ (Local.after (pure_rdX _) fun _ => local_wrX _ _)
theorem local_resCmp (h : Hdr) (cc : Cond) (o : P2) : Keeps Local (resCmp h cc o) :=
  local_guarded _ _ (Local.after (pure_rdS _) fun _ => Local.after (pure_rdS _) fun _ => local_wrP _ _)
theorem local_pred2 (h : Hdr) (d a b : BitVec 7) (f : Pred → Pred → Pred) : Keeps Local (pred2 h d a b f) :=
  local_guarded _ _ (Local.after (pure_rdP _) fun _ => Local.after (pure_rdP _) fun _ => local_wrP _ _)
theorem local_pred1 (h : Hdr) (d a : BitVec 7) (f : Pred → Pred) : Keeps Local (pred1 h d a f) :=
  local_guarded _ _ (Local.after (pure_rdP _) fun _ => local_wrP _ _)
theorem local_resPsetx (h : Hdr) (o : P2) : Keeps Local (resPsetx h o) :=
  local_guarded _ _ (Local.after (pure_rdS _) fun _ => Local.after (pure_rdS _) fun _ => Local.after (pure_rdP _) fun _ =>
    local_wrP _ _)
theorem local_resPgetx (h : Hdr) (d : SDst) (a : BitVec 7) (b : MS) : Keeps Local (resPgetx h d a b) :=
  local_scalarOp _ _ _ (local_of_pure ((pure_rdP _).bind fun _ => (pure_rdS _).bind fun _ => pure_pure _))
theorem local_lanesOp (h : Hdr) (d : SDst) (a : BitVec 7) (ty : ETy) (f : List Nat → Word) : Keeps Local (lanesOp h d a ty f) :=
  local_scalarOp _ _ _ (local_of_pure ((pure_rdP _).bind fun _ => pure_pure _))
/-- A scalar result that is read off the state or off the role. -/
theorem local_scalarOp_state (h : Hdr) (d : SDst) (f : State → Word) :
    Keeps Local (scalarOp h [] d (do let s ← getSt; pure (f s))) :=
  local_scalarOp _ _ _ (local_of_pure (pure_getSt.bind fun _ => pure_pure _))
theorem local_scalarOp_role (h : Hdr) (d : SDst) (f : Role → Word) :
    Keeps Local (scalarOp h [] d (do let r ← getRole; pure (f r))) :=
  local_scalarOp _ _ _ (local_of_pure (pure_getRole.bind fun _ => pure_pure _))

/-! The sequencer, streams and rings. -/

theorem local_resSeqdef (h : Hdr) (a : MS) : Keeps Local (resSeqdef h a) :=
  local_guarded _ _ (Local.after (pure_rdS _) fun _ => Local.after (pure_trapIf _ _ _ _) fun _ =>
    Local.after (pure_plainOffset _) fun _ => Local.after (pure_tileOrdered _ _) fun _ => Local.after (pure_tileGet _ _) fun _ =>
    Local.after (pure_illegalIf _) fun _ => by
      intro s u t e
      cases e
      exact local_setCore ..)
theorem local_resSeqnext (h : Hdr) (d : SDst) (x : BitVec 5) : Keeps Local (resSeqnext h d x) := by
  refine Local.after (pure_guardS h) fun g => ?_
  cases g
  · exact Local.ending (local_wrS0 d) _
  · intro s u t hrun
    obtain ⟨s0, s1, hst, hrun⟩ := bind_split hrun
    cases hst
    rcases hq : (s.core (s.curKey / 4)).cursor? s.curRole.part.toNat s.curRole.lid.toNat with _ | q
    · simp only [hq] at hrun
      exact (Local.bind (local_wrS d 0) fun _ => Local.ending (local_wrX x.toNat 0) _) _ _ _ hrun
    · simp only [hq] at hrun
      obtain ⟨_, s2, hset, hrun⟩ := bind_split hrun
      cases hset
      exact Local.trans _ _ _ (local_setCore ..) ((Local.bind (local_wrS d _) fun _ => Local.ending (local_wrX x.toNat _) _) _ _ _ hrun)
theorem local_strmInstall (n : Nat) (ws : List Word) : Keeps Local (strmInstall n ws) :=
  Local.after (pure_strmBindChk n ws) fun _ => local_modRole _
theorem local_resSdef (h : Hdr) (o : Str1) : Keeps Local (resSdef h o) :=
  local_guarded _ _ (Local.after (pure_strmFree _) fun _ => Local.after (pure_rdS _) fun _ => Local.after (pure_trapIf _ _ _ _) fun _ =>
    Local.after (pure_plainOffset _) fun _ => Local.after (pure_tileOrdered _ _) fun _ => Local.after (pure_tileGet _ _) fun _ =>
    local_strmInstall _ _)
theorem local_resSnest (h : Hdr) (o : Str2) : Keeps Local (resSnest h o) :=
  local_guarded _ _ (Local.after (pure_strmFree _) fun _ => Local.after (pure_rdS _) fun _ => Local.after (pure_rdS _) fun _ =>
    Local.after (pure_strmRegion _) fun _ => local_strmInstall _ _)
theorem local_resSbind (h : Hdr) (o : Str1) : Keeps Local (resSbind h o) :=
  local_guarded _ _ (Local.after (pure_strmFree _) fun _ => Local.after (pure_rdS _) fun _ => Local.after (pure_strmGet _) fun _ =>
    local_strmInstall _ _)
theorem local_resSpos (h : Hdr) (o : Str1) : Keeps Local (resSpos h o) :=
  local_guarded _ _ (Local.after (pure_strmFree _) fun _ => Local.after (pure_rdS _) fun _ => Local.after (pure_strmRegion _) fun _ =>
    Keeps.ite (local_modRole _) (local_of_pure (pure_stop _)))
theorem local_resRdef (h : Hdr) (n : BitVec 5) (b : MS) : Keeps Local (resRdef h n b) :=
  local_guarded _ _ (Local.after (pure_ringFree _) fun _ => Local.after (pure_rdS _) fun _ => Local.after pure_getRole fun _ =>
    Local.after (pure_boundFirst ((pure_plainOffset _).bind fun _ => (pure_tileOrdered _ _).bind fun _ =>
      (pure_tileGet _ _).bind fun _ => (pure_illegalIf _).bind fun _ => pure_pure _)) fun _ =>
    Local.after (pure_trapIf _ _ _ _) fun _ => local_modRole _)
theorem local_resRacq (h : Hdr) (d : SDst) (n : BitVec 5) : Keeps Local (resRacq h d n) :=
  local_scalarOp _ _ _ (Local.after (pure_ringGet _) fun _ => Local.after pure_getRole fun _ => Local.after (pure_waitIf _) fun _ =>
    Local.ending (local_modRole _) _)
theorem local_resRpub (h : Hdr) (n : BitVec 5) : Keeps Local (resRpub h n) :=
  local_guarded _ _ (Local.after (pure_ringGet _) fun _ => Local.optional (local_of_pure (pure_stop _)) fun _ =>
    Local.after pure_getSt fun _ => Local.after (pure_waitIf _) fun _ => Local.after pure_releaseOrdered fun _ => local_modRole _)
theorem local_resRrel (h : Hdr) (n : BitVec 5) : Keeps Local (resRrel h n) :=
  local_guarded _ _ (Local.after (pure_ringFree _) fun _ => Local.after (pure_ringGet _) fun _ => Local.after (pure_waitIf _) fun _ =>
    local_modRole _)
theorem local_resRpoison (h : Hdr) (n : BitVec 5) : Keeps Local (resRpoison h n) :=
  local_guarded _ _ (Local.after (pure_ringFree _) fun _ => Local.after (pure_ringGet _) fun _ =>
    Local.optional (local_of_pure (pure_stop _)) fun _ => local_modRole _)

/-! Vectors whose result is no row, and one element of a row. -/

theorem local_resVcmp (h : Hdr) (cc : Cond) (o : VC) : Keeps Local (resVcmp h cc o) :=
  Local.after (pure_guardP h) fun _ => Local.after (pure_fieldOrder _ _) fun _ => Local.after (pure_rdR _) fun _ =>
    Local.after (pure_rdR _) fun _ => Local.after (pure_rdP _) fun _ => Local.bind (local_popRows _) fun _ =>
    Local.ending (local_wrP _ _) _
theorem local_resVlane (h : Hdr) (o : VLaneF) : Keeps Local (resVlane h o) :=
  Local.after (pure_guardP h) fun _ => Local.after (pure_rdR _) fun _ => Local.after (pure_rdS _) fun _ =>
    Local.bind (local_popRows _) fun _ => Keeps.ite (Local.ending (local_wrS _ _) _) (Local.ending (local_wrS0 _) _)
theorem local_resVins (h : Hdr) (o : VInsF) : Keeps Local (resVins h o) :=
  Local.after (pure_guardP h) fun _ => Local.after (pure_rdS _) fun _ => Local.after (pure_rdS _) fun _ =>
    Local.after (pure_rdV _) fun _ => Local.bind (local_popMarks _) fun _ => Local.optional (local_wrV _ _) fun _ => local_pure _
theorem local_reduce (h : Hdr) (o : VRedF) (f : Dyad → Dyad → Node) (e : Dyad) : Keeps Local (reduce h o f e) :=
  Local.after (pure_guardP h) fun _ => Local.after (pure_rdR _) fun _ => Local.bind (local_raiseI _ _ _) fun _ =>
    Local.bind (local_popRows _) fun _ => Local.ending (local_wrS _ _) _
theorem local_resVrngp (h : Hdr) (o : VRngPF) : Keeps Local (resVrngp h o) :=
  Local.after (pure_guardP h) fun _ => Local.after (pure_rdS _) fun _ => Local.after (pure_rdS _) fun _ =>
    Local.after (pure_rdS _) fun _ => Local.after (pure_rdP _) fun _ => Local.bind (local_popMarks _) fun _ =>
    Local.ending (local_wrP _ _) _

/-! Nest records. -/

theorem local_nestIssue (i : Instr) : Keeps Local (nestIssue i) := by
  unfold nestIssue
  refine Local.after pure_getRole fun r => Local.after (pure_waitIf _) fun _ => Local.after pure_getClu fun c => ?_
  exact Keeps.ite (Local.after (pure_mmaNestChk _) fun _ => Local.after (pure_mmaTileChk _) fun _ => Local.ending (local_modRole _) _)
    (Local.after (pure_rowChk _) fun _ => Local.ending (local_modRole _) _)
theorem pure_resMwait (h : Hdr) : Pure (resMwait h) :=
  (pure_guardS h).bind fun _ => pure_getRole.bind fun _ => (pure_waitIf _).bind fun _ => pure_pure _

/-! Memory. -/

/-- A request to the address of an M format. -/
theorem local_sendAt {m : MF} {n : Nat} {f : Word → Access} :
    Keeps Local (do let ea ← eaOf m; chkVirtual ea n; sendAcc (f ea) : Iss Unit) :=
  Local.after (pure_eaOf m) fun _ => Local.after (pure_chkVirtual _ _) fun _ => local_sendAcc _
theorem local_resLd (h : Hdr) (d : SDst) (m : MF) : Keeps Local (resLd h d m) := local_memOp _ _ (local_wrS0 _) (local_sendAt)
theorem local_resSt (h : Hdr) (a : SSrc) (m : MF) : Keeps Local (resSt h a m) :=
  local_memOp _ _ (local_pure _) (Local.after (pure_rdS _) fun _ => local_sendAt)
theorem local_resLdt (h : Hdr) (d : TDst) (m : MF) : Keeps Local (resLdt h d m) := by
  refine local_memOp _ _ ?_ ?_
  · cases d with
    | s d => exact local_wrS0 _
    | qw n => exact local_qPush _ _
  · refine Local.after (pure_tileEa m) fun _ => Local.after (pure_tileChk _ _) fun _ => Local.after (pure_tileOrdered _ _) fun _ =>
      Local.after (pure_tileGet _ _) fun _ => ?_
    cases d with
    | s d => exact local_wrS _ _
    | qw n => exact local_qPush _ _
theorem local_resLdv (h : Hdr) (q : BitVec 3) (m : MF) : Keeps Local (resLdv h q m) :=
  local_memOp _ _ (local_qPush _ _) (local_sendAt)
theorem local_resStv (h : Hdr) (q : BitVec 3) (m : MF) : Keeps Local (resStv h q m) :=
  local_memOp _ _ (local_pure _) (Local.after (pure_qHead _) fun _ => local_sendAt)
theorem local_resGather (h : Hdr) (q : BitVec 3) (m : MF) : Keeps Local (resGather h q m) :=
  local_memOp _ _ (local_qPush _ _) (Local.after (pure_tileOrdered _ _) fun _ => Local.after (pure_gatherAddr m) fun _ =>
    Local.after (pure_rdS _) fun _ => local_sendAcc _)
theorem local_resScatter (h : Hdr) (q : BitVec 3) (m : MF) : Keeps Local (resScatter h q m) :=
  local_memOp _ _ (local_pure _) (Local.after (pure_qHead _) fun _ => Local.after (pure_tileOrdered _ _) fun _ =>
    Local.after (pure_gatherAddr m) fun _ => Local.after (pure_rdS _) fun _ => local_sendAcc _)
theorem local_atomWith (op : Nat) (h : Hdr) (x : BitVec 5) (m : MF) : Keeps Local (atomWith op h x m) :=
  local_memOp _ _ (local_pure _) (Local.after (pure_rdX _) fun _ => local_sendAt)
theorem local_resAtomCas (h : Hdr) (x : BitVec 5) (m : MF) : Keeps Local (resAtomCas h x m) :=
  local_memOp _ _ (local_pure _) (Local.after (pure_rdX _) fun _ => Local.after (pure_rdS _) fun _ => Local.after (pure_rdS _) fun _ =>
    Local.after (pure_chkVirtual _ _) fun _ => local_sendAcc _)
theorem local_resAtomf (h : Hdr) (x : BitVec 5) (m : MF) : Keeps Local (resAtomf h x m) :=
  local_memOp _ _ (local_pure _) (Local.after pure_getRole fun _ => Local.after (pure_illegalIf _) fun _ =>
    Local.after (pure_rdX _) fun _ => local_sendAt)
theorem local_resAtomfD (h : Hdr) (x : BitVec 5) (m : AtomDF) : Keeps Local (resAtomfD h x m) :=
  local_memOp _ _ (local_pure _) (Local.after (pure_levelChk _) fun _ => Local.after (pure_rdX _) fun _ => Local.after (pure_rdS _) fun _ =>
    Local.after (pure_chkVirtual _ _) fun _ => Local.after pure_getRole fun _ => Local.bind (local_sendAcc _) fun _ => local_modRole _)
theorem local_resFence (h : Hdr) (scope : Scope) (ord : Ord) : Keeps Local (resFence h scope ord) := by
  refine Local.after (pure_guardS h) fun g => Keeps.ite ?_ (local_pure _)
  refine Local.after pure_getSt fun s => Local.after (pure_waitIf _) fun _ => Local.after pure_stopPoint fun _ =>
    Local.after (pure_waitIf _) fun _ => ?_
  cases ord with
  | acqRel => exact Local.bind (local_sendAcc _) fun _ => Local.ending (local_sendAcc _) _
  | relaxed => exact Local.ending (local_sendAcc _) _
  | acq => exact Local.ending (local_sendAcc _) _
  | rel => exact Local.ending (local_sendAcc _) _
theorem local_resPref (h : Hdr) (x : BitVec 5) (m : MF) : Keeps Local (resPref h x m) :=
  local_memOp _ _ (local_pure _) (Local.after (pure_eaOf m) fun _ => local_sendAcc _)

/-! Copies, barriers, messages and spawns. -/

theorem local_sendCopy (c : CopyJob) : Keeps Local (sendCopy c) :=
  Local.after pure_getSt fun _ => Local.after pure_getRole fun _ => Local.after pure_getClu fun _ => Local.after (pure_waitIf _) fun _ =>
    local_modRole _
theorem local_resCopy (h : Hdr) (o : CopyF) : Keeps Local (resCopy h o) :=
  local_guarded _ _ (Local.after (pure_rdX _) fun _ => Local.after (pure_rdS _) fun _ => Local.after (pure_rdS _) fun _ =>
    Local.after (pure_copyAddr _) fun _ => Local.after (pure_copyAddr _) fun _ => Local.after (pure_trapIf _ _ _ _) fun _ =>
    Local.after (pure_copyTile _ _) fun _ => Local.after (pure_copyTile _ _) fun _ => local_sendCopy _)
theorem pure_resCopyw (h : Hdr) : Pure (resCopyw h) :=
  (pure_guardS h).bind fun _ => Keeps.ite (pure_stopPoint.bind fun _ => pure_getSt.bind fun _ => (pure_waitIf _).bind fun _ => pure_pure _)
    (pure_pure _)
theorem local_resCopys (h : Hdr) (o : CopyF) (c : CS) : Keeps Local (resCopys h o c) :=
  local_guarded _ _ (Local.after (pure_rdX _) fun _ => Local.after (pure_rdS _) fun _ => Local.after (pure_rdS _) fun _ =>
    Local.after (pure_rdS _) fun _ => Local.after (pure_trapIf _ _ _ _) fun _ => Local.after (pure_copyAddr _) fun _ =>
    Local.after (pure_trapIf _ _ _ _) fun _ => Local.after (pure_copyAddr _) fun _ => Local.after (pure_copyTile _ _) fun _ =>
    Local.after (pure_copyTile _ _) fun _ => Local.after (pure_copyTile _ _) fun _ => local_sendCopy _)
theorem local_barSettle (n : Nat) : Keeps Local (barSettle n) :=
  Local.after pure_getSt fun _ => Keeps.ite (Local.after (pure_waitIf _) fun _ => local_modRole _) (local_pure _)
theorem local_resBarArrive (h : Hdr) (l : BitVec 5) (u : Bool) : Keeps Local (resBarArrive h l u) :=
  Local.after (pure_guardS h) fun _ => Keeps.ite (Local.after (pure_levelChk _) fun _ => Local.after pure_releaseOrdered fun _ =>
    Local.bind (local_barSettle _) fun _ => Local.ending (local_modRole _) _) (local_pure _)
theorem local_resBarWait (h : Hdr) (l : BitVec 5) (u : Bool) : Keeps Local (resBarWait h l u) :=
  Local.after (pure_guardS h) fun _ => Keeps.ite (Local.after (pure_levelChk _) fun _ => Local.ending (local_barSettle _) _) (local_pure _)
theorem local_resMsg (h : Hdr) (o : SendF) (c : CS) : Keeps Local (resMsg h o c) := by
  refine local_guarded _ _ (Local.after (pure_rdS _) fun _ => Local.after (pure_rdS _) fun _ => Local.after (pure_rdS _) fun _ =>
    Local.after (pure_rdS _) fun _ => Local.after (pure_targetOf _) fun _ => Local.after (pure_trapIf _ _ _ _) fun _ =>
    Local.after (pure_plainOffset _) fun _ => Local.after (pure_tileChk _ _) fun _ => Local.after (pure_trapIf _ _ _ _) fun _ =>
    Local.after (pure_tileChk _ _) fun _ => Local.after (pure_tileOrdered _ _) fun _ => Local.after (pure_tileGet _ _) fun _ => ?_)
  intro s u t hrun
  obtain ⟨s0, s1, hst, hrun⟩ := bind_split hrun
  cases hst
  obtain ⟨_, s1, hwait, hrun⟩ := bind_split hrun
  cases pure_waitIf _ _ _ _ hwait
  obtain ⟨after, s1, hafter, hrun⟩ := bind_split hrun
  cases pure_sendAfter _ _ _ _ hafter
  cases hrun
  exact local_setCore ..
theorem local_resSpawn (h : Hdr) (o : SendF) : Keeps Local (resSpawn h o) :=
  local_guarded _ _ (Local.after (pure_rdS _) fun _ => Local.after (pure_rdS _) fun _ => Local.after (pure_rdS _) fun _ =>
    Local.after (pure_targetOf _) fun _ => Local.after (pure_trapIf _ _ _ _) fun _ => Local.after pure_getSt fun _ =>
    Local.after (pure_waitIf _) fun _ => Local.after (pure_sendAfter _) fun _ => local_modSt fun _ => local_spawns ..)

/-! Requests of pools, cues, launches and Curtain windows; CSRs. -/

theorem local_poolReq {op : Nat} {pool v : Word} {ds : List Dest} {ord : Ord} : Keeps Local (poolReq op pool v ds ord) :=
  Local.after (pure_chkVirtual _ _) fun _ => local_sendAcc _
theorem local_cueReq {op : Nat} {cell v : Word} {data : List Byte} {ds : List Dest} {ord : Ord} :
    Keeps Local (cueReq op cell v data ds ord) := Local.after (pure_chkVirtual _ _) fun _ => local_sendAcc _
theorem local_winReq {op : Nat} {addr v : Word} {data : List Byte} {off : Word} {ds : List Dest} {ord : Ord} :
    Keeps Local (winReq op addr v data off ds ord) := Local.after pure_getRole fun _ => local_sendAcc _
/-- A request made of one operand, and of two. -/
theorem local_memOp_one (h : Hdr) (ms : List Mk) {skip : Iss Unit} (hs : Keeps Local skip) (a : SSrc) {f : Word → Iss Unit}
    (hf : ∀ x, Keeps Local (f x)) : Keeps Local (memOp h ms skip (rdS a >>= f)) :=
  local_memOp _ _ hs (Local.after (pure_rdS _) hf)
theorem local_memOp_two (h : Hdr) (ms : List Mk) {skip : Iss Unit} (hs : Keeps Local skip) (a b : SSrc) {f : Word → Word → Iss Unit}
    (hf : ∀ x y, Keeps Local (f x y)) : Keeps Local (memOp h ms skip (do let x ← rdS a; let y ← rdS b; f x y)) :=
  local_memOp _ _ hs (Local.after (pure_rdS _) fun _ => Local.after (pure_rdS _) (hf _))
theorem local_poolAB (op : Nat) (ord : Ord) (h : Hdr) (o : A2) : Keeps Local (poolAB op ord h o) :=
  local_memOp_two _ _ (local_pure _) _ _ fun _ _ => local_poolReq
theorem local_resCuemk (h : Hdr) (o : A2) : Keeps Local (resCuemk h o) :=
  local_memOp_two _ _ (local_pure _) _ _ fun _ _ => Local.after (pure_chkVirtual _ _) fun _ => Local.after (pure_trapIf _ _ _ _) fun _ =>
    Local.after (pure_plainOffset _) fun _ => Local.after (pure_tileOrdered _ _) fun _ => Local.after (pure_tileGet _ _) fun _ =>
    local_cueReq
theorem local_resCueresV (h : Hdr) (a : MS) (q : BitVec 3) (b u : Bool) : Keeps Local (resCueresV h a q b u) :=
  local_memOp_one _ _ (local_pure _) _ fun _ => Local.after (pure_qHead _) fun _ => Local.after (pure_chkVirtual _ _) fun _ =>
    local_sendAcc _
theorem local_resLaunch (h : Hdr) (o : S2) : Keeps Local (resLaunch h o) :=
  local_memOp_two _ _ (local_wrS0 _) _ _ fun _ _ => Local.after (pure_chkVirtual _ _) fun _ => local_sendAcc _
theorem local_resLwait (h : Hdr) (o : S1) : Keeps Local (resLwait h o) := by
  refine local_scalarOp _ _ _ (Local.after (pure_rdS _) fun _ => Local.after pure_getSt fun _ => ?_)
  split
  · exact local_pure _
  · exact local_of_pure (pure_stop _)
theorem local_resRecapp (h : Hdr) (o : S2) : Keeps Local (resRecapp h o) :=
  local_memOp_two _ _ (local_wrS0 _) _ _ fun _ _ => Local.after (pure_recordOff _) fun _ => Local.after (pure_tileOrdered _ _) fun _ =>
    Local.after (pure_tileGet _ _) fun _ => local_winReq
theorem local_winFetch (op : Nat) (h : Hdr) (o : P2) : Keeps Local (winFetch op h o) :=
  local_memOp_two _ _ (local_pure _) _ _ fun _ _ => Local.after (pure_recordOff _) fun _ => local_winReq
theorem local_resWlate (h : Hdr) (o : P2) : Keeps Local (resWlate h o) :=
  local_memOp_two _ _ (local_pure _) _ _ fun _ _ => Local.after (pure_recordOff _) fun _ => local_winReq
theorem local_resWrcsr (h : Hdr) (a : SSrc) (la : Bool) (n : BitVec 12) : Keeps Local (resWrcsr h a la n) :=
  local_guarded _ _ (Local.after (pure_rdS _) fun _ => Local.after pure_getSt fun _ => local_modRole _)
theorem local_resRdtime (h : Hdr) (d : SDst) : Keeps Local (resRdtime h d) :=
  local_scalarOp _ _ _ (local_of_pure (pure_getSt.bind fun _ => (pure_waitIf _).bind fun _ => pure_pure _))

end Sys2Proof.Machine
end

section
/-! ### Every syllable: it stays in its role and core, or makes a row (R45, R48, R49) -/
namespace Sys2Proof.Machine

/-- A vector syllable makes a row for its destination, or stays in its role. -/
theorem vector_body {i : Instr} {n : Nat} {b : Bool} {body : Iss Flow} {w : RowWrites} (h : issueOf i = some (n, b, body))
    (hw : vectorWrites i = some w) :
    (∃ d, w.d = some d ∧ RowBody d body) ∨ ((∀ m, w.d ≠ some (.s m)) ∧ Keeps Local body) := by
  cases i <;> cases hw <;> cases h
  case vadd | vsub | vmul | vdiv | vmin | vmax | vadds | vsubs | vmulhi | vand | vor | vxor | vandn | vshl | vshr | vsar | vperm =>
    exact .inl ⟨_, rfl, rowBody_vec2 _ _ _⟩
  case vfma | vfnma => exact .inl ⟨_, rfl, rowBody_vec3 _ _ _⟩
  case vabs | vneg | vnot | vmov | vrecip | vrsqrt | vsqrt | vexp2 | vlog2 | vtanh | vsigm => exact .inl ⟨_, rfl, rowBody_vec1 _ _ _⟩
  case vscansum => exact .inl ⟨_, rfl, rowBody_resVscansum _ _⟩
  case vsel => exact .inl ⟨_, rfl, rowBody_resVsel _ _⟩
  case vbcast => exact .inl ⟨_, rfl, rowBody_resVbcast _ _⟩
  case vrot => exact .inl ⟨_, rfl, rowBody_resVrot _ _⟩
  case vzip | vunzip => exact .inl ⟨_, rfl, rowBody_zipOp _ _ _⟩
  case vrng => exact .inl ⟨_, rfl, rowBody_resVrng _ _⟩
  case vcvt => exact .inl ⟨_, rfl, rowBody_resVcvt _ _⟩
  case vquant => exact .inl ⟨_, rfl, rowBody_resVquant _ _⟩
  case vdeq => exact .inl ⟨_, rfl, rowBody_resVdeq _ _⟩
  case vscale => exact .inl ⟨_, rfl, rowBody_resVscale _ _⟩
  case vins => exact .inr ⟨fun _ => nofun, local_resVins _ _⟩
  case vlane => exact .inr ⟨fun _ => nofun, local_resVlane _ _⟩
  case vredsum | vredmax | vredmin => exact .inr ⟨fun _ => nofun, local_reduce _ _ _ _⟩
  case vcmp => exact .inr ⟨fun _ => nofun, local_resVcmp _ _ _⟩
  case vrngp => exact .inr ⟨fun _ => nofun, local_resVrngp _ _⟩

/-- The syllables, beside LREC and the vectors, whose body may store in a tile store. -/
def storesTile : Instr → Bool
  | .stt .. | .scommit .. | .sreset .. => true
  | _ => false
def isLrec : Instr → Bool
  | .lrec .. => true
  | _ => false

theorem local_body {i : Instr} {n : Nat} {b : Bool} {body : Iss Flow} (h : issueOf i = some (n, b, body)) (hw : vectorWrites i = none)
    (ht : storesTile i = false) (hl : isLrec i = false) : Keeps Local body := by
  cases i <;> cases h <;> cases hw <;> cases ht <;> cases hl
  case nop | hint | hint7F => exact local_pure _
  case br => exact local_of_pure (pure_branchIf _ _ (pure_pure _) _)
  case brpAny | brpAll | brpNone => exact local_of_pure (pure_branchIf _ _ ((pure_rdP _).bind fun _ => pure_pure _) _)
  case brx => exact local_of_pure (pure_branchIf _ _ ((pure_rdS _).bind fun _ => (pure_rdS _).bind fun _ => pure_pure _) _)
  case call => exact local_resCall _ _ _
  case ret | jmpx => exact local_of_pure (pure_jumpTo _ _ _)
  case loop => exact local_resLoop _ _ _
  case loopi => exact local_resLoopi _ _ _
  case halt => exact local_of_pure (pure_resHalt _)
  case yield | trap => exact local_of_pure ((pure_guardS _).bind fun _ => pure_pure _)
  case tfence => exact local_of_pure (pure_resTfence _)
  case seqdef => exact local_resSeqdef _ _
  case seqnext => exact local_resSeqnext _ _ _
  case add | sub | mul | mulh | mulhu | and | or | xor | andn | shl | shr | sar | rol | ror | min | max | minu | maxu | sext | zext =>
    exact local_alu2 _ _ _
  case madd | sel | msub => exact local_alu3 _ _ _
  case div | divu | rem | remu | adds | subs => exact local_alu2f _ _ _
  case clz | ctz | popc => exact local_alu1 _ _ _
  case aluiAdd | aluiMul | aluiAnd | aluiOr | aluiXor | aluiShl | aluiShr | aluiSar | aluiRol | aluiRor | aluiMin | aluiMax |
      aluiMinu | aluiMaxu | lea => exact local_alui _ _ _
  case aluiAdds => exact local_aluif _ _ _
  case movk => exact local_guarded _ _ (local_wrX _ _)
  case movkh => exact local_resMovkh _ _ _
  case cmp => exact local_resCmp _ _ _
  case pand | por | pxor | pandn => exact local_pred2 _ _ _ _ _
  case pnot | pmov => exact local_pred1 _ _ _ _
  case psetx => exact local_resPsetx _ _
  case pgetx => exact local_resPgetx _ _ _ _
  case pcnt | pfirst | plast => exact local_lanesOp _ _ _ _ _
  case qlen | mstat => exact local_scalarOp_state _ _ _
  case rstat | rdcsr => exact local_scalarOp_role _ _ _
  case mma | mmas | mhad | mdrain | mzero | mloada | mtrans => exact local_nestIssue _
  case mwait => exact local_of_pure (pure_resMwait _)
  case ld => exact local_resLd _ _ _
  case st => exact local_resSt _ _ _
  case ldt => exact local_resLdt _ _ _
  case ldv => exact local_resLdv _ _ _
  case stv => exact local_resStv _ _ _
  case gather => exact local_resGather _ _ _
  case scatter => exact local_resScatter _ _ _
  case atomAdd | atomAnd | atomOr | atomXor | atomMin | atomMax | atomMinu | atomMaxu | atomSwap => exact local_atomWith _ _ _ _
  case atomCas => exact local_resAtomCas _ _ _
  case atomf => exact local_resAtomf _ _ _
  case atomfD => exact local_resAtomfD _ _ _
  case fence => exact local_resFence _ _ _
  case pref => exact local_resPref _ _ _
  case copy => exact local_resCopy _ _
  case copyw => exact local_of_pure (pure_resCopyw _)
  case copys => exact local_resCopys _ _ _
  case sdef => exact local_resSdef _ _
  case snest => exact local_resSnest _ _
  case sbind => exact local_resSbind _ _
  case spos => exact local_resSpos _ _
  case rdef => exact local_resRdef _ _ _
  case racq => exact local_resRacq _ _ _
  case rpub => exact local_resRpub _ _
  case rrel => exact local_resRrel _ _
  case rpoison => exact local_resRpoison _ _
  case barArrive => exact local_resBarArrive _ _ _
  case barWait => exact local_resBarWait _ _ _
  case msg => exact local_resMsg _ _ _
  case spawn => exact local_resSpawn _ _
  case pclaim => exact local_memOp_one _ _ (local_wrS0 _) _ fun _ => local_poolReq
  case ppub | pabort | prel => exact local_poolAB _ _ _ _
  case pgrab => exact local_memOp_one _ _ (local_pure _) _ fun _ => local_poolReq
  case pstat => exact local_memOp_two _ _ (local_wrS0 _) _ _ fun _ _ => local_poolReq
  case cuemk => exact local_resCuemk _ _
  case cueres | cuefail => exact local_memOp_two _ _ (local_pure _) _ _ fun _ _ => local_cueReq
  case cueresV => exact local_resCueresV _ _ _ _ _
  case cuepeek => exact local_memOp_one _ _ (local_wrS0 _) _ fun _ => local_cueReq
  case cuestat => exact local_memOp_two _ _ (local_wrS0 _) _ _ fun _ _ => local_cueReq
  case launch => exact local_resLaunch _ _
  case lwait => exact local_resLwait _ _
  case wrcsr => exact local_resWrcsr _ _ _ _
  case rdtime => exact local_resRdtime _ _
  case recapp => exact local_resRecapp _ _
  case wmark | wpub => exact local_memOp_two _ _ (local_pure _) _ _ fun _ _ => local_winReq
  case sidle => exact local_memOp_one _ _ (local_pure _) _ fun _ => local_winReq
  case wnext => exact local_winFetch _ _ _
  case wlate => exact local_resWlate _ _

end Sys2Proof.Machine
end

section
/-! ### STT, SCOMMIT and SRESET store in the window; LREC walks (R201, R233, R253, R258) -/
namespace Sys2Proof.Machine

theorem length_tSrcBytes {z : Size} {a : TSrc} {s s1 : State} {bs : List Byte} (h : tSrcBytes z.bytes a s = .ok (bs, s1)) :
    bs.length = z.bytes := by
  cases a with
  | s a =>
    obtain ⟨v, s0, -, h⟩ := bind_split h
    cases h
    exact natLe_length ..
  | qw q =>
    obtain ⟨r, s0, -, h⟩ := bind_split h
    cases h
    rw [List.length_take, rowLe_length]
    cases z <;> decide
theorem plainOffset_eq {a : Word} {o : Nat} {s s1 : State} (h : plainOffset a s = .ok (o, s1)) : o = a.toNat := by
  unfold plainOffset at h
  split at h
  · cases h
    rfl
  · cases h
theorem tileEa_reads {m : MF} {o : Nat} {s s1 : State} (h : tileEa m s = .ok (o, s1)) : ∃ ea, Reads (eaOf m) s ea ∧ o = ea.toNat := by
  obtain ⟨ea, s0, hea, h⟩ := bind_split h
  cases pure_eaOf m _ _ _ hea
  obtain ⟨_, s0, -, h⟩ := bind_split h
  exact ⟨ea, hea, plainOffset_eq h⟩

/-- R233: STT stores at its effective address, in the role's window. -/
theorem resStt_stores {h : Hdr} {a : TSrc} {m : MF} {s u : State} {f : Flow} (hrun : resStt h a m s = .ok (f, u)) :
    Local s u ∨ ∃ ea, Reads (eaOf m) s ea ∧ Stores (Spans s ea.toNat m.sz.bytes) s u := by
  unfold resStt memOp at hrun
  obtain ⟨g, s0, hg, hrun⟩ := bind_split hrun
  cases pure_guardS h _ _ _ hg
  cases g
  · exact .inl ((Local.after (pure_needHeads _) fun _ => Local.bind (local_popMarks _) fun _ => Local.ending (local_pure ()) _) _ _ _ hrun)
  · obtain ⟨_, s1, hbody, hpop⟩ := bind_split hrun
    obtain ⟨bs, s0, hbs, hbody⟩ := bind_split hbody
    cases pure_tSrcBytes _ _ _ _ _ hbs
    obtain ⟨o, s0, ho, hbody⟩ := bind_split hbody
    cases pure_tileEa _ _ _ _ ho
    obtain ⟨ea, hea, rfl⟩ := tileEa_reads ho
    obtain ⟨p, s0, hchk, hbody⟩ := bind_split hbody
    cases pure_tileChk _ _ _ _ _ hchk
    obtain ⟨_, s0, hord, hput⟩ := bind_split hbody
    cases pure_tileOrdered _ _ _ _ _ hord
    have hst := stores_tilePut hput
    rw [length_tSrcBytes hbs] at hst
    exact .inr ⟨ea, hea, hst.trans (.of_local (Local.ending (local_popMarks _) _ _ _ _ hpop))⟩

/-- R253: tile-store byte q lies in the rest of the slot that sink stream y stands in the middle of. -/
def Strm.settles (y : Strm) (s : State) (q : Nat) : Prop :=
  ∃ g, y.bind = 1 ∧ y.sink = true ∧ s.curRole.ring? y.ring = some g ∧ y.c % slotVecs g ≠ 0 ∧
    Spans s (g.slotOff (g.idxOf (y.slotNo g)) + 512 * (y.c % slotVecs g)) (512 * (slotVecs g - y.c % slotVecs g)) q

/-- R253: to settle a stream fills the rest of its slot. -/
theorem settleStrm_stores {n : Nat} {y : Strm} {how : RSlot} {s u : State} (h : Does (settleStrm n y how) s u) :
    Stores (y.settles s) s u := by
  unfold Does settleStrm at h
  rw [bind_ok (getRole_run s)] at h
  by_cases hb : y.bind = 1
  · rw [if_pos hb] at h
    rcases hg : s.curRole.ring? y.ring with _ | g
    · rw [hg] at h
      exact .of_local (local_pure () _ _ _ h)
    · rw [hg] at h
      dsimp only at h
      by_cases hs : y.sink = true
      · rw [if_pos hs] at h
        by_cases hc : y.c % slotVecs g = 0
        · rw [if_pos hc] at h
          exact .of_local (local_pure () _ _ _ h)
        · rw [if_neg hc] at h
          have hfill : ∀ u, (do
              if g.holds (y.slotNo g) then
                tilePut (g.slotOff (g.idxOf (y.slotNo g)) + 512 * (y.c % slotVecs g))
                  (List.replicate (512 * (slotVecs g - y.c % slotVecs g)) 0)
              else pure ()
              modRole (fun r => (r.setRing y.ring (g.publishAt (y.slotNo g) how)).setStrm n
                { y with c := roundUp y.c (slotVecs g), sp := roundUp y.c (slotVecs g) }) : Iss Unit) s = .ok ((), u) →
              Stores (y.settles s) s u := by
            intro u hrun
            by_cases hh : g.holds (y.slotNo g) = true
            · rw [if_pos hh] at hrun
              obtain ⟨_, s1, hput, hend⟩ := bind_split hrun
              have hst := stores_tilePut hput
              rw [List.length_replicate] at hst
              exact (hst.mono fun q hq => ⟨g, hb, hs, hg, hc, hq⟩).trans (.of_local (local_modRole _ _ _ _ hend))
            · rw [if_neg hh] at hrun
              exact .of_local (local_modRole _ _ _ _ hrun)
          by_cases hp : how = .published
          · rw [if_pos hp] at h
            obtain ⟨_, s1, hrel, h⟩ := bind_split h
            cases pure_releaseOrdered _ _ _ hrel
            exact hfill u h
          · rw [if_neg hp] at h
            exact hfill u h
      · rw [if_neg hs] at h
        exact .of_local (local_modRole _ _ _ _ h)
  · rw [if_neg hb] at h
    exact .of_local (local_pure () _ _ _ h)

/-- What a guarded syllable without marks does under its guard. -/
theorem guarded_split {h : Hdr} {m : Iss Unit} {s u : State} {f : Flow} (hrun : guarded h [] m s = .ok (f, u)) :
    Local s u ∨ Does m s u := by
  obtain ⟨g, s0, hg, hrun⟩ := bind_split hrun
  cases pure_guardS h _ _ _ hg
  cases g
  · exact .inl ((Local.after (pure_needHeads _) fun _ => Local.ending (local_popMarks _) _) _ _ _ hrun)
  · obtain ⟨_, s1, hm, hrun⟩ := bind_split hrun
    cases hrun
    exact .inr hm

theorem resScommit_stores {h : Hdr} {d : BitVec 4} {s u : State} {f : Flow} (hrun : resScommit h d s = .ok (f, u)) :
    Stores (fun q => ∃ y, s.curRole.strm? d.toNat = some y ∧ y.settles s q) s u := by
  rcases guarded_split hrun with hloc | hdo
  · exact .of_local hloc
  · obtain ⟨_, s0, hfree, hdo⟩ := bind_split hdo
    cases pure_strmFree _ _ _ _ hfree
    unfold strmGet at hdo
    obtain ⟨y, s0, hget, hdo⟩ := bind_split hdo
    rw [bind_ok (getRole_run s)] at hget
    rcases hy : s.curRole.strm? d.toNat with _ | z
    · rw [hy] at hget
      cases hget
    · rw [hy] at hget
      cases hget
      exact (settleStrm_stores hdo).mono fun q hq => ⟨y, rfl, hq⟩
theorem resSreset_stores {h : Hdr} {d : BitVec 4} {s u : State} {f : Flow} (hrun : resSreset h d s = .ok (f, u)) :
    Stores (fun q => ∃ y, s.curRole.strm? d.toNat = some y ∧ y.settles s q) s u := by
  rcases guarded_split hrun with hloc | hdo
  · exact .of_local hloc
  · obtain ⟨_, s0, hfree, hdo⟩ := bind_split hdo
    cases pure_strmFree _ _ _ _ hfree
    rw [bind_ok (getRole_run s)] at hdo
    rcases hy : s.curRole.strm? d.toNat with _ | z
    · rw [hy] at hdo
      exact .of_local (local_pure () _ _ _ hdo)
    · rw [hy] at hdo
      obtain ⟨_, s1, hset, hdel⟩ := bind_split hdo
      exact ((settleStrm_stores hset).mono fun q hq => ⟨z, rfl, hq⟩).trans (.of_local (local_modRole _ _ _ _ hdel))

/-! LREC. -/

theorem core_of_curKey (s : State) : s.cur.core.toNat = s.curKey / 4 := by
  have hslot := s.cur.slot.isLt
  unfold State.curKey
  omega
theorem OnlyWalk.around {s t : State} (h : OnlyWalk s t) : Around s t := by
  unfold OnlyWalk at h
  rw [h]
  exact ⟨rfl, fun _ _ => rfl, fun _ _ => rfl, fun _ => rfl⟩
theorem OnlyWalk.tpoison {s t : State} (h : OnlyWalk s t) : t.tpoison = s.tpoison := by rw [h]

/-- The address that LREC's record is read at (R258). -/
def LrecAt (a : SSrc) (s : State) (va : Word) : Prop := if a = .sp .zero then va = s.clu.pc else Reads (rdS a) s va

/-- R258: LREC changes nothing itself but what the translation of its record does. -/
theorem resLrec_walks {h : Hdr} {a b : SSrc} {off : BitVec 28} {s u : State} {f : Flow} (hrun : resLrec h a b off s = .ok (f, u)) :
    u = s ∨ ∃ va x, LrecAt a s va ∧ translate s (s.curKey / 4) s.curRole.asid.toNat (va + off.signExtend 64 * 8) .rd = .ok x ∧
      u = x.st := by
  unfold resLrec at hrun
  obtain ⟨g, s0, hg, hrun⟩ := bind_split hrun
  cases pure_guardS h _ _ _ hg
  cases g
  · exact .inl (((pure_needHeads _).bind fun _ => pure_pure _) _ _ _ hrun)
  · obtain ⟨_, s0, hstop, hrun⟩ := bind_split hrun
    cases pure_stopPoint _ _ _ hstop
    obtain ⟨pc, s0, hpc, hrun⟩ := bind_split hrun
    cases hpc
    obtain ⟨va, s0, hva, hrun⟩ := bind_split hrun
    cases pure_rdS _ _ _ _ hva
    obtain ⟨vb, s0, hvb, hrun⟩ := bind_split hrun
    cases pure_rdS _ _ _ _ hvb
    obtain ⟨_, s0, hill, hrun⟩ := bind_split hrun
    cases pure_illegalIf _ _ _ _ hill
    obtain ⟨_, s0, hcan, hrun⟩ := bind_split hrun
    cases pure_trapIf _ _ _ _ _ _ _ hcan
    obtain ⟨_, s0, hal, hrun⟩ := bind_split hrun
    cases pure_trapIf _ _ _ _ _ _ _ hal
    rw [bind_ok (getSt_run s)] at hrun
    unfold readRec64 at hrun
    generalize hread : readAt s s.cur.core.toNat s.curRole _ .rd 64 = e at hrun
    rcases e with e | ⟨pa, s'⟩
    · cases hrun
    · obtain ⟨x, hx, -, rfl⟩ := readAt_ok hread
      rw [core_of_curKey] at hx
      obtain ⟨_, s1, hmod, hrun⟩ := bind_split hrun
      cases hmod
      refine .inr ⟨if a = .sp .zero then s.clu.pc else va, x, ?_, hx, ?_⟩
      · unfold LrecAt
        split
        · rfl
        · exact hva
      · exact ((pure_illegalIf _).bind fun _ => pure_getClu.bind fun _ => pure_sylWord.bind fun _ =>
          (pure_trapIf _ _ _ _).bind fun _ => pure_pure _) _ _ _ hrun

end Sys2Proof.Machine
end

section
/-! ### The frame of an issuing syllable (R45, R48, R49, R60, R209, R210, R253, R266) -/
namespace Sys2Proof.Machine

/-- Tile-store byte q is one that the syllable may store in, read off the state before it. -/
def Stored (i : Instr) (s : State) (q : Nat) : Prop :=
  (∃ h x m ea, i = .stt h x m ∧ Reads (eaOf m) s ea ∧ Spans s ea.toNat m.sz.bytes q) ∨
  (∃ h d y g, (i = .scommit h d ∨ i = .sreset h d) ∧ s.curRole.strm? d.toNat = some y ∧
    (y.bind = 1 ∧ y.sink = true ∧ s.curRole.ring? y.ring = some g ∧ y.c % slotVecs g ≠ 0 ∧
      Spans s (g.slotOff (g.idxOf (y.slotNo g)) + 512 * (y.c % slotVecs g)) (512 * (slotVecs g - y.c % slotVecs g)) q)) ∨
  (∃ w n y, vectorWrites i = some w ∧ w.d = some (.s n) ∧ s.curRole.strm? n.toNat = some y ∧ y.takes s q)

/-- The syllable stores in no tile store: no STT, no settled stream, no row for a stream. -/
def Quiet (i : Instr) : Prop :=
  (∀ h x m, i ≠ .stt h x m) ∧ (∀ h d, i ≠ .scommit h d ∧ i ≠ .sreset h d) ∧
    ∀ w, vectorWrites i = some w → ∀ n, w.d ≠ some (.s n)

/-- Tile bytes and poison as the statement of the frame has them. -/
structure TileFrame (i : Instr) (s t : State) : Prop where
  tile : ∀ q, ¬ Stored i s q → readByte t.tile q = readByte s.tile q
  kept : ∀ g, (∃ j < 64, ¬ Stored i s (64 * g + j)) → (g ∈ t.tpoison ↔ g ∈ s.tpoison)
  fewer : ∀ g ∈ t.tpoison, g ∈ s.tpoison
  quiet : Quiet i → t.tile = s.tile ∧ t.tpoison = s.tpoison

theorem TileFrame.of_eq {i : Instr} {s t : State} (ht : t.tile = s.tile) (hp : t.tpoison = s.tpoison) : TileFrame i s t :=
  ⟨fun _ _ => by rw [ht], fun _ _ => by rw [hp], fun _ hg => hp ▸ hg, fun _ => ⟨ht, hp⟩⟩

/-- STT, SCOMMIT and SRESET store where they may. -/
theorem tile_body {i : Instr} {n : Nat} {b : Bool} {body : Iss Flow} (h : issueOf i = some (n, b, body)) (ht : storesTile i = true)
    {s u : State} {f : Flow} (hrun : body s = .ok (f, u)) : Local s u ∨ (¬ Quiet i ∧ Stores (Stored i s) s u) := by
  cases i <;> cases ht <;> cases h
  case stt hd x m =>
    rcases resStt_stores hrun with hloc | ⟨ea, hea, hst⟩
    · exact .inl hloc
    · exact .inr ⟨fun hq => hq.1 _ _ _ rfl, hst.mono fun q hq => .inl ⟨hd, x, m, ea, rfl, hea, hq⟩⟩
  case scommit hd d =>
    exact .inr ⟨fun hq => (hq.2.1 _ _).1 rfl, (resScommit_stores hrun).mono fun q ⟨y, hy, g, hq⟩ =>
      .inr (.inl ⟨hd, d, y, g, .inl rfl, hy, hq⟩)⟩
  case sreset hd d =>
    exact .inr ⟨fun hq => (hq.2.1 _ _).2 rfl, (resSreset_stores hrun).mono fun q ⟨y, hy, g, hq⟩ =>
      .inr (.inl ⟨hd, d, y, g, .inr rfl, hy, hq⟩)⟩

/-- A body's run stores only where the syllable may, and nowhere in a syllable that stores in no tile store. -/
theorem body_stores {i : Instr} {n : Nat} {b : Bool} {body : Iss Flow} (h : issueOf i = some (n, b, body)) (hl : isLrec i = false)
    {s u : State} {f : Flow} (hrun : body s = .ok (f, u)) : Local s u ∨ (¬ Quiet i ∧ Stores (Stored i s) s u) := by
  rcases hw : vectorWrites i with _ | w
  · rcases ht : storesTile i with _ | _
    · exact .inl (local_body h hw ht hl _ _ _ hrun)
    · exact tile_body h ht hrun
  · rcases vector_body h hw with ⟨d, hd, hrow⟩ | ⟨-, hloc⟩
    · by_cases hs : ∃ m, d = .s m
      · obtain ⟨m, rfl⟩ := hs
        exact .inr ⟨fun hq => hq.2.2 w hw m hd, (hrow.stores hrun).mono fun q ⟨y, hy, hq⟩ => .inr (.inr ⟨w, m, y, hw, hd, hy, hq⟩)⟩
      · exact .inl (hrow.toLocal (fun m hm => hs ⟨m, hm⟩) _ _ _ hrun)
    · exact .inl (hloc _ _ _ hrun)

theorem exec_frame {i : Instr} {n : Nat} {b : Bool} {body : Iss Flow} (h : issueOf i = some (n, b, body)) (hl : isLrec i = false)
    {s t : State} (hx : exec i s = .next t) : Around s t ∧ t.mem = s.mem ∧ TileFrame i s t := by
  have hlocal : ∀ {t}, Local s t → Around s t ∧ t.mem = s.mem ∧ TileFrame i s t := fun ht =>
    ⟨ht.toAround, ht.mem, .of_eq ht.tile ht.tpoison⟩
  rw [exec_issueOf h] at hx
  rcases issueN_split hx with hloc | ⟨f, u, hrun, hend⟩
  · exact hlocal hloc
  · rcases body_stores h hl hrun with hloc | ⟨hq, hst⟩
    · exact hlocal (Local.trans _ _ _ hloc hend)
    · have hst := hst.trans (.of_local hend)
      exact ⟨hst.toAround, hst.mem, hst.tile, hst.kept, hst.fewer, fun hquiet => absurd hquiet hq⟩

theorem lrec_frame {h : Hdr} {a b : SSrc} {off : BitVec 28} {s t : State} (hx : exec (.lrec h a b off) s = .next t) :
    Around s t ∧ TileFrame (.lrec h a b off) s t ∧ (t.mem = s.mem ∨ ∃ va x, LrecAt a s va ∧
      translate s (s.curKey / 4) s.curRole.asid.toNat (va + off.signExtend 64 * 8) .rd = .ok x ∧ t.mem = x.st.mem) := by
  have hlocal : ∀ {t}, Local s t → Around s t ∧ TileFrame (.lrec h a b off) s t ∧ t.mem = s.mem := fun ht =>
    ⟨ht.toAround, .of_eq ht.tile ht.tpoison, ht.mem⟩
  rcases issueN_split hx with hloc | ⟨f, u, hrun, hend⟩
  · exact (hlocal hloc).imp_right fun hr => hr.imp_right .inl
  · rcases resLrec_walks hrun with rfl | ⟨va, x, hva, hx, rfl⟩
    · exact (hlocal hend).imp_right fun hr => hr.imp_right .inl
    · have hwalk := onlyWalk_translate hx
      exact ⟨hwalk.around.trans hend.toAround, .of_eq (hend.tile.trans hwalk.tile) (hend.tpoison.trans hwalk.tpoison),
        .inr ⟨va, x, hva, hx, hend.mem⟩⟩

/-- What has words is a syllable. -/
theorem issueOf_of_encode {i : Instr} (h : encode i ≠ []) : ∃ n b body, issueOf i = some (n, b, body) := by
  rcases hi : issueOf i with _ | ⟨n, b, body⟩
  · refine absurd ?_ h
    cases i <;> cases hi <;> rfl
  · exact ⟨n, b, body, rfl⟩

/-- Settles O60: a syllable waits, stops its role or runs its body, and a body touches what its shape says: its role and core alone, or, for
STT, SCOMMIT, SRESET and a row for a stream, also their places in the tile store; LREC is a walk. The pops before a row's write leave the
place of its stream where it was. -/
theorem issueFrame : Obligations.IssueFrame := by
  unfold Obligations.IssueFrame
  intro i s t henc hx
  obtain ⟨n, b, body, hi⟩ := issueOf_of_encode henc
  by_cases hl : ∃ h a b off, i = .lrec h a b off
  · obtain ⟨h, a, b, off, rfl⟩ := hl
    obtain ⟨har, htile, hmem⟩ := lrec_frame hx
    refine ⟨har.rest, har.roles, har.cores, har.parts, fun hno => absurd rfl (hno h a b off), fun h' a' b' off' heq => ?_,
      htile.tile, htile.kept, htile.fewer, fun h1 h2 h3 => htile.quiet ⟨h1, h2, h3⟩⟩
    cases heq
    exact hmem
  · have hno : isLrec i = false := by
      cases i
      case lrec h a b off => exact absurd ⟨h, a, b, off, rfl⟩ hl
      all_goals rfl
    obtain ⟨har, hmem, htile⟩ := exec_frame hi hno hx
    exact ⟨har.rest, har.roles, har.cores, har.parts, fun _ _ => by rw [hmem], fun h a b off heq => absurd ⟨h, a, b, off, heq⟩ hl,
      htile.tile, htile.kept, htile.fewer, fun h1 h2 h3 => htile.quiet ⟨h1, h2, h3⟩⟩

end Sys2Proof.Machine
end

section
/-! ### The words of an instruction and back (R82 to R101) -/
namespace Sys2Proof

section
open Laws.RoundTrip

/-- R82 to R101: the words of every well-formed instruction decode to it. The family's lemmas, in the order of the constructors. -/
theorem decode_encode (i : Instr) : Statement i :=
  Instr.casesOn (motive := Statement) i
    nop hint hint7F br brpAny brpAll brpNone brx call ret jmpx loop loopi lrec halt yield trap tfence seqdef seqnext add sub mul mulh
    mulhu madd div divu rem remu and or xor andn shl shr sar rol ror min max minu maxu clz ctz popc sel sext zext adds subs msub
    aluiAdd aluiMul aluiAnd aluiOr aluiXor aluiShl aluiShr aluiSar aluiRol aluiRor aluiMin aluiMax aluiMinu aluiMaxu aluiAdds movk
    movkh lea cmp pand por pxor pandn pnot pmov psetx pgetx pcnt pfirst plast qlen vadd vsub vmul vfma vfnma vdiv vmin vmax vabs vneg
    vadds vsubs vmulhi vand vor vxor vandn vnot vshl vshr vsar vcmp vsel vmov vbcast vlane vins vcvt vrecip vrsqrt vsqrt vexp2 vlog2
    vtanh vsigm vredsum vredmax vredmin vscansum vperm vrot vzip vunzip vrng vrngp vquant vdeq vscale mma mmas mhad mdrain mzero
    mloada mtrans nestStepCommit nestRetire mwait mstat ld st ldt stt ldv stv gather scatter atomAdd atomAnd atomOr atomXor atomMin
    atomMax atomMinu atomMaxu atomSwap atomCas atomf atomfD barrierGenerationComplete fence pref copy copyComplete copyw copys sdef
    snest sbind spos scommit sreset linkVectorArrive rdef racq rpub rrel rpoison rstat barArrive barWait msg msgDelivery spawn
    spawnBind pclaim ppub pabort pgrab prel pstat poolRetire replyCommit cuemk cueres cueresV cuefail cuepeek cuestat accessServed
    cueLoadResend pendingTouchTake prompterQueueDispatch deepwait launch lwait rdcsr wrcsr rdtime recapp wmark sidle wnext wpub wlate
    idleTimerTest curtainArrivalDispatch streamOpen streamClose bundleIssue watchdog bindRunning bindDormant freeSlot arrivalAccept
    arrivalStart bindRequest retirement stopRecord stopReportPost stopQueueRead restart switchout restore kill winfree winready
    launchBind quantumExpiry cleanStop hardStop yieldReport preemptedRebind launchComplete launchKill overflowRegisterWrite bump
    bumpComplete tagWindowSelect tagWindowWrite registerWrite placeTableChange uncorrectableError spareReplace scrub partitionChange
    kernelImageSwitch hostWrite hostRead hostDoorbell linkDown hostHotReset flitResend nvmeDma mgmtClaim mgmtHandover mgmtOwnerTimeout
    heaterRetune throttleBegin throttleEnd emergencyStop powerReset resetRelease quote linkTrained serviceCoreRestart portReenable
    conditionCleared
end

/-- R83, R92: a step of the part has no words, a syllable has one, and a nest record has its header and seven more. -/
theorem encode_shape (i : Instr) : (encode i).length ≤ 1 ∨
    ∃ s op prof ar br acc fl ws, encode i = nestHdr s op prof ar br acc fl :: ws ∧ ws.length = 7 := by
  cases i
  case mma | mmas | mhad | mdrain | mzero | mloada | mtrans => exact .inr ⟨_, _, _, _, _, _, _, _, rfl, rfl⟩
  all_goals exact .inl (Nat.le_of_ble_eq_true rfl)

/-- The header of a nest record alone is no instruction. -/
theorem decode_header_alone {w : Word} (h : (majOf w).toNat = 0x30) : decode [w] = .error .syllable := if_pos h

/-- R83, R92: the first word tells how many words there are. -/
theorem lengthOf_encode {i : Instr} (hne : encode i ≠ []) (hdec : decode (encode i) = .ok i) :
    lengthOf ((encode i).headD 0) = (encode i).length := by
  rcases encode_shape i with hle | ⟨s, op, prof, ar, br, acc, fl, ws, henc, hlen⟩
  · obtain ⟨w, hw⟩ : ∃ w, encode i = [w] :=
      List.length_eq_one_iff.mp (Nat.le_antisymm hle (List.length_pos_iff.mpr hne))
    rw [hw] at hdec ⊢
    have hmaj : (majOf w).toNat ≠ 0x30 := fun h => by
      rw [decode_header_alone h] at hdec
      cases hdec
    exact if_neg hmaj
  · rw [henc]
    simp [lengthOf, nestHdr_maj, hlen]

/-- Settles O56: each format's fields, and each shape's operands, read back from the word they were written into, so that the
words decode to their instruction; what decodes has one encoding, and its length is that of its first word's major. -/
theorem decodeReadsEncode : Obligations.DecodeReadsEncode := by
  unfold Obligations.DecodeReadsEncode
  intro i hwf hne
  have hdec := decode_encode i hwf hne
  refine ⟨hdec, lengthOf_encode hne hdec, fun j hj hji => ?_⟩
  have hdecj := decode_encode j hj (hji ▸ hne)
  rw [hji, hdec] at hdecj
  exact (Except.ok.inj hdecj).symm

end Sys2Proof
end

section
/-! ### Transfers and where they may go (R99, R105, R124 to R129) -/
namespace Sys2Proof.Machine

/-! What a syllable whose body has run comes to, by how its cluster goes on. -/

/-- A ready syllable whose cluster settles commits. -/
theorem issueN_settles {n : Nat} {b : Bool} {body : Iss Flow} {f : Flow} {s s' t : State} (hr : Ready n b s)
    (hb : body s = .ok (f, s')) (hs : settle n f s'.leave = .ok (none, t)) : issueN n b body s = .next t.stamp := by
  have hcommit : (commit n body : Iss Post) s = .ok (none, t.stamp) := by
    unfold commit
    rw [bind_ok (gate_ok hr), bind_ok hb, bind_ok (modClu_run _ s')]
    exact bind_ok hs
  rw [issueN_ready hr, hcommit]
  rfl

/-- A ready syllable whose cluster cannot settle traps, and does nothing else. -/
theorem issueN_unsettled {n : Nat} {b : Bool} {body : Iss Flow} {f : Flow} {s s' : State} {c : Nat} {i j : Word}
    (hr : Ready n b s) (hb : body s = .ok (f, s')) (hs : settle n f s'.leave = .error (.trap c i j)) :
    issueN n b body s = .next (takeTrap s c i j) := by
  have hcommit : (commit n body : Iss Post) s = .error (.trap c i j) := by
    unfold commit
    rw [bind_ok (gate_ok hr), bind_ok hb, bind_ok (modClu_run _ s')]
    exact bind_error hs
  rw [issueN_ready hr, hcommit]

/-! Where a transfer may go. -/

theorem chkTarget_ok {s : State} {t : Word} (h : TargetOk s t) : chkTarget t s = .ok ((), s) := by
  obtain ⟨h8, hpay⟩ := h
  have h1 : trapIf (t.toNat % 8 ≠ 0) tTGT t 0 s = .ok ((), s) := by
    rw [decide_eq_false (not_not.mpr h8)]
    rfl
  have h2 : (s.cur.cl == .m && inNestPayload s s.cur.core.toNat s.curRole.asid.toNat t) = false := by
    rw [Bool.and_eq_false_imp]
    exact fun hm => hpay (eq_of_beq hm)
  unfold chkTarget
  rw [bind_ok (getSt_run s), bind_ok h1, h2]
  rfl

theorem chkTarget_bad {s : State} {t : Word} (h : ¬ TargetOk s t) : chkTarget t s = .error (.trap 0x03 t 0) := by
  unfold chkTarget
  rw [bind_ok (getSt_run s)]
  by_cases h8 : t.toNat % 8 = 0
  · have h1 : trapIf (t.toNat % 8 ≠ 0) tTGT t 0 s = .ok ((), s) := by
      rw [decide_eq_false (not_not.mpr h8)]
      rfl
    have h2 : (s.cur.cl == .m && inNestPayload s s.cur.core.toNat s.curRole.asid.toNat t) = true := by
      by_contra hn
      rw [Bool.not_eq_true, Bool.and_eq_false_imp] at hn
      exact h ⟨h8, fun hm => hn (beq_of_eq hm)⟩
    rw [bind_ok h1, h2]
    rfl
  · rw [decide_eq_true h8]
    rfl

/-- R99: whether an address is a nest record's payload is a matter of memory and translations. -/
theorem inNestPayload_rehoused (s : State) (R : SMap Role) (C : SMap CoreSt) (core asid : Nat) (t : Word) :
    inNestPayload (s.rehoused R C) core asid t = inNestPayload s core asid t := by
  unfold inNestPayload
  rw [translate_rehoused]
  rcases translate s core asid (BitVec.ofNat 64 (t.toNat / 64 * 64)) .fetch with c | x <;> rfl

theorem targetOk_setRole {s : State} {r : Role} (h : r.asid = s.curRole.asid) (t : Word) :
    TargetOk (s.setRole s.curKey r) t ↔ TargetOk s t := by
  unfold TargetOk
  rw [curRole_setRole, h, show (s.setRole s.curKey r).cur = s.cur from rfl,
    show s.setRole s.curKey r = s.rehoused (s.setRole s.curKey r).roles s.cores from rfl, inNestPayload_rehoused]

theorem asid_setClu (r : Role) (c : Cluster) (x : Clu) : (r.setClu c x).asid = r.asid := by cases c <;> rfl
theorem targetOk_leave (s : State) (t : Word) : TargetOk s.leave t ↔ TargetOk s t :=
  targetOk_setRole (asid_setClu ..) t

theorem targetOk_wrX {n : Nat} {v : Word} {s s1 : State} (h : Does (wrX n v) s s1) (t : Word) :
    TargetOk s1 t ↔ TargetOk s t := by
  obtain ⟨_, s0, hchk, hput⟩ := bind_split h
  cases pure_chkDest _ _ _ _ hchk
  cases hput
  refine targetOk_setRole (show ((s.curRole.overtake (.x n)).setX n v).asid = _ from ?_) t
  rw [overtake_eq]
  rfl

/-! A syllable that transfers. -/

theorem settle_jump_ok {n : Nat} {s : State} {t : Word} (ht : TargetOk s t) :
    settle n (.jump t) s = .ok (none, s.setRole s.curKey (jumpFrom s.curRole s.cur.cl s.clu.pc t false)) :=
  (bind_ok (getSt_run s)).trans (bind_ok (chkTarget_ok ht))
theorem settle_call_ok {n : Nat} {s : State} {t : Word} (ht : TargetOk s t) :
    settle n (.call t) s = .ok (none, s.setRole s.curKey (jumpFrom s.curRole s.cur.cl s.clu.pc t true)) :=
  (bind_ok (getSt_run s)).trans (bind_ok (chkTarget_ok ht))
theorem settle_jump_bad {n : Nat} {s : State} {t : Word} (ht : ¬ TargetOk s t) :
    settle n (.jump t) s = .error (.trap 0x03 t 0) :=
  (bind_ok (getSt_run s)).trans (bind_error (chkTarget_bad ht))
theorem settle_call_bad {n : Nat} {s : State} {t : Word} (ht : ¬ TargetOk s t) :
    settle n (.call t) s = .error (.trap 0x03 t 0) :=
  (bind_ok (getSt_run s)).trans (bind_error (chkTarget_bad ht))

theorem issueN_jumps {n : Nat} {b : Bool} {body : Iss Flow} {s : State} {t : Word} (hr : Ready n b s)
    (hb : body s = .ok (.jump t, s)) (ht : TargetOk s t) : issueN n b body s = .next (s.jumped t false) :=
  issueN_settles hr hb (settle_jump_ok ((targetOk_leave s t).mpr ht))

theorem issueN_calls {n : Nat} {b : Bool} {body : Iss Flow} {s s1 : State} {t : Word} (hr : Ready n b s)
    (hb : body s = .ok (.call t, s1)) (ht : TargetOk s1 t) : issueN n b body s = .next (s1.jumped t true) :=
  issueN_settles hr hb (settle_call_ok ((targetOk_leave s1 t).mpr ht))

theorem issueN_jumps_bad {n : Nat} {b : Bool} {body : Iss Flow} {s s1 : State} {t : Word} (hr : Ready n b s)
    (hb : body s = .ok (.jump t, s1)) (ht : ¬ TargetOk s1 t) : issueN n b body s = .next (takeTrap s 0x03 t 0) :=
  issueN_unsettled hr hb (settle_jump_bad (mt (targetOk_leave s1 t).mp ht))

theorem issueN_calls_bad {n : Nat} {b : Bool} {body : Iss Flow} {s s1 : State} {t : Word} (hr : Ready n b s)
    (hb : body s = .ok (.call t, s1)) (ht : ¬ TargetOk s1 t) : issueN n b body s = .next (takeTrap s 0x03 t 0) :=
  issueN_unsettled hr hb (settle_call_bad (mt (targetOk_leave s1 t).mp ht))

end Sys2Proof.Machine
end

section
/-! ### Predicate syllables (R101, R141 to R144) -/
namespace Sys2Proof.Machine

theorem compare_is_lt {α : Type} [LinearOrder α] (x y : α) : (compare x y == .lt) = decide (x < y) := by
  rw [Bool.eq_iff_iff, beq_iff_eq, decide_eq_true_iff]
  exact compare_lt_iff_lt
theorem compare_is_gt {α : Type} [LinearOrder α] (x y : α) : (compare x y == .gt) = decide (y < x) := by
  rw [Bool.eq_iff_iff, beq_iff_eq, decide_eq_true_iff]
  exact compare_gt_iff_gt
theorem compare_is_eq {α : Type} [LinearOrder α] (x y : α) : (compare x y == .eq) = decide (x = y) := by
  rw [Bool.eq_iff_iff, beq_iff_eq, decide_eq_true_iff]
  exact compare_eq_iff_eq
theorem compare_not_lt {α : Type} [LinearOrder α] (x y : α) : (compare x y != .lt) = decide (y ≤ x) := by
  rw [bne, compare_is_lt, ← decide_not, decide_eq_decide, not_lt]
theorem compare_not_gt {α : Type} [LinearOrder α] (x y : α) : (compare x y != .gt) = decide (x ≤ y) := by
  rw [bne, compare_is_gt, ← decide_not, decide_eq_decide, not_lt]

/-- R101: each condition on the order of two words is the comparison that its name says. -/
theorem condWord_eq (cc : Cond) (a b : Word) : condWord cc a b = condHolds cc a b := by
  have heq : (compare a.toInt b.toInt == .eq) = (a == b) := by
    rw [compare_is_eq, Bool.eq_iff_iff, decide_eq_true_iff, beq_iff_eq]
    exact BitVec.toInt_inj
  cases cc with
  | eq => exact heq
  | ne => exact congrArg Bool.not heq
  | lt => exact compare_is_lt ..
  | ltu => exact compare_is_lt ..
  | gt => exact compare_is_gt ..
  | gtu => exact compare_is_gt ..
  | le => exact compare_not_gt ..
  | leu => exact compare_not_gt ..
  | ge => exact compare_not_lt ..
  | geu => exact compare_not_lt ..

theorem boolPred_condWord (cc : Cond) (a b : Word) :
    boolPred (condWord cc a b) = if condHolds cc a b then BitVec.allOnes 512 else 0 := by
  rw [condWord_eq]
  rfl

/-- R143: PSETX replaces the bits of one 64-bit word. -/
theorem getLsbD_predSetWord (p : Pred) (w : Nat) (v : Word) {i : Nat} (hi : i < 512) :
    (predSetWord p w v).getLsbD i = if i / 64 = w then v.getLsbD (i % 64) else p.getLsbD i := by
  unfold predSetWord
  simp only [BitVec.getLsbD_or, BitVec.getLsbD_and, BitVec.getLsbD_not, BitVec.getLsbD_shiftLeft, BitVec.getLsbD_setWidth,
    BitVec.getLsbD_allOnes, hi]
  by_cases hlow : i < 64 * w
  · have hne : i / 64 ≠ w := by omega
    simp [hlow, hne]
  · by_cases hword : i - 64 * w < 64
    · have heq : i / 64 = w := by omega
      have hoff : i - 64 * w = i % 64 := by omega
      have hin : i % 64 < 512 := by omega
      simp [hlow, heq, hoff, hin, Nat.mod_lt]
    · have hne : i / 64 ≠ w := by omega
      have hout : v.getLsbD (i - 64 * w) = false := BitVec.getLsbD_of_ge v _ (by omega)
      simp [hlow, hword, hne, hout]

theorem predSetWord_unique {p q : Pred} {w : Nat} {v : Word}
    (h : ∀ i < 512, q.getLsbD i = if i / 64 = w then v.getLsbD (i % 64) else p.getLsbD i) : predSetWord p w v = q :=
  BitVec.eq_of_getLsbD_eq fun i hi => (getLsbD_predSetWord p w v hi).trans (h i hi).symm

/-- R142: PCNT, PFIRST and PLAST compute what the table gives from the lanes that are set. -/
theorem exec_predLanes_eq {c : Hdr → SDst → BitVec 7 → ETy → Instr} {f : List Nat → Word} (hc : (c, f) ∈ predLanes)
    (h : Hdr) (d : SDst) (a : BitVec 7) (ty : ETy) (s : State) : exec (c h d a ty) s = issue h (lanesOp h d a ty f) s := by
  simp only [predLanes, List.mem_cons, Prod.mk.injEq, List.not_mem_nil, or_false] at hc
  rcases hc with ⟨rfl, rfl⟩ | ⟨rfl, rfl⟩ | ⟨rfl, rfl⟩
  · rfl
  · exact congrArg (fun f => issue h (lanesOp h d a ty f) s) (funext fun l => by cases l.head? <;> rfl)
  · exact congrArg (fun f => issue h (lanesOp h d a ty f) s) (funext fun l => by cases l.getLast? <;> rfl)

/-- A predicate written from what a syllable reads, with its guard true. -/
theorem issue_wrP_true {h : Hdr} {ms : List Mk} {f : Iss Unit} {n : Nat} {v : Pred} {s s1 s2 : State} (hr : Ready 8 h.s s)
    (hg : Reads (guardS h) s true) (hf : f s = wrP n v s) (hw : Does (wrP n v) s s1) (hp : Does (popMarks ms) s1 s2) :
    issue h (guarded h ms f) s = .next (s2.fell 8) :=
  issue_guarded_true hr hg (hf.trans hw) (sameClu_wrP _ _ _ _ _ hw) hp

/-- Settles O4: each form is `guarded` on a write of a predicate or `scalarOp` on a value, with the operands that it reads; the
conditions and the word that PSETX replaces are those of the statement. -/
theorem predicateInstructions : Obligations.PredicateInstructions := by
  unfold Obligations.PredicateInstructions
  refine ⟨⟨?_, ?_, ?_, ?_⟩, ?_, ?_, ?_⟩
  · intro h cc o s s1 s2 a b hr hg ha hb hw hp
    rw [← boolPred_condWord] at hw
    exact issue_wrP_true hr hg ((bind_ok ha).trans (bind_ok hb)) hw hp
  · intro c f hc h d a b s s1 x y hr hg hx hy hw
    rw [exec_predTwo hc]
    exact issue_wrP_true hr hg ((bind_ok hx).trans (bind_ok hy)) hw (popMarks_nil s1)
  · intro c f hc h d a s s1 x hr hg hx hw
    rw [exec_predOne hc]
    exact issue_wrP_true hr hg (bind_ok hx) hw (popMarks_nil s1)
  · intro h o s s1 s2 a b old new hr hg ha hb hold hnew hw hp
    rw [← predSetWord_unique hnew] at hw
    exact issue_wrP_true hr hg ((bind_ok ha).trans ((bind_ok hb).trans (bind_ok hold))) hw hp
  · intro h d a b s s1 s2 p w hr hg hp hb hpop hw
    exact issue_scalarOp_true hr hg ((bind_ok hp).trans (bind_ok hb)) hpop hw
  · intro c f hc h d a ty s s1 p hr hg hp hw
    rw [exec_predLanes_eq hc]
    exact issue_scalarOp_true hr hg (bind_ok hp) (popMarks_nil s) hw
  · intro h d q u s s1 hr hg hw
    exact issue_scalarOp_true hr hg (bind_ok (getSt_run s)) (popMarks_nil s) hw

end Sys2Proof.Machine
end

section
/-! ### NOP and the hints (R103, R122, R123) -/
namespace Sys2Proof.Machine

/-- Settles O9: their bodies read no guard and transfer nothing. -/
theorem nopHintNoEffect : Obligations.NopHintNoEffect := by
  unfold Obligations.NopHintNoEffect
  intro h s hr
  have hfall {body : Iss Flow} (hb : body s = .ok (.fall, s)) : issue h body s = .next (s.fell 8) :=
    issueN_falls hr hb (SameClu.refl s)
  exact ⟨hfall rfl, fun _ => hfall rfl, fun _ => hfall rfl⟩

end Sys2Proof.Machine
end

section
/-! ### Branches and calls (R99, R124, R125) -/
namespace Sys2Proof.Machine

/-! The tests of BRP, on the low lanes of a predicate. -/

theorem lowLanes_testBit (v : Pred) (ty : ETy) (i : Nat) :
    (lowLanes v ty).testBit i = (decide (i < ty.lanes) && v.getLsbD i) := Nat.testBit_mod_two_pow ..

theorem lowLanes_none {v : Pred} {ty : ETy} : (lowLanes v ty == 0) = true ↔ ∀ i < ty.lanes, v.getLsbD i = false := by
  rw [beq_iff_eq]
  constructor
  · intro h i hi
    have hbit := lowLanes_testBit v ty i
    rw [h] at hbit
    simpa [hi] using hbit.symm
  · intro h
    refine Nat.eq_of_testBit_eq fun i => ?_
    rw [lowLanes_testBit]
    by_cases hi : i < ty.lanes
    · simp [h i hi]
    · simp [hi]

theorem lowLanes_any {v : Pred} {ty : ETy} : (lowLanes v ty != 0) = true ↔ ∃ i < ty.lanes, v.getLsbD i = true := by
  rw [bne, Bool.not_eq_true', ← Bool.not_eq_true, lowLanes_none]
  simp

theorem lowLanes_all {v : Pred} {ty : ETy} :
    (lowLanes v ty == 2 ^ ty.lanes - 1) = true ↔ ∀ i < ty.lanes, v.getLsbD i = true := by
  rw [beq_iff_eq]
  constructor
  · intro h i hi
    have hbit := lowLanes_testBit v ty i
    rw [h, Nat.testBit_two_pow_sub_one] at hbit
    simpa [hi] using hbit.symm
  · intro h
    refine Nat.eq_of_testBit_eq fun i => ?_
    rw [lowLanes_testBit, Nat.testBit_two_pow_sub_one]
    by_cases hi : i < ty.lanes
    · simp [h i hi]
    · simp [hi]

/-! The bodies. -/

theorem branchIf_run {h : Hdr} {ms : List Mk} {test : Iss Bool} {off : BitVec 28} {s : State} {b : Bool}
    (hg : Reads (guardS h) s true) (ht : Reads test s b) :
    branchIf h ms test off s = .ok (if b then .jump (s.branchTo off) else .fall, s) := by
  unfold branchIf
  rw [bind_ok hg, if_pos rfl, bind_ok ht]
  rfl

section
variable {h : Hdr} {ms : List Mk} {test : Iss Bool} {off : BitVec 28} {s : State} (hr : Ready 8 h.s s)
  (hg : Reads (guardS h) s true)
include hr hg

theorem issue_branch_taken (ht : Reads test s true) (hok : TargetOk s (s.branchTo off)) :
    issue h (branchIf h ms test off) s = .next (s.jumped (s.branchTo off) false) :=
  issueN_jumps hr (branchIf_run hg ht) hok
theorem issue_branch_passed (ht : Reads test s false) : issue h (branchIf h ms test off) s = .next (s.fell 8) :=
  issueN_falls hr (branchIf_run hg ht) (SameClu.refl s)
theorem issue_branch_bad (ht : Reads test s true) (hbad : ¬ TargetOk s (s.branchTo off)) :
    issue h (branchIf h ms test off) s = .next (takeTrap s 0x03 (s.branchTo off) 0) :=
  issueN_jumps_bad hr (branchIf_run hg ht) hbad
end

theorem resCall_run {h : Hdr} {x : BitVec 5} {off : BitVec 28} {s s1 : State} (hg : Reads (guardS h) s true)
    (hw : Does (wrX x.toNat (s.clu.pc + 8)) s s1) :
    resCall h x off s = .ok (.call (s.branchTo off), s1) := by
  unfold resCall
  rw [bind_ok hg, if_pos rfl, bind_ok (show pcI s = .ok (s.clu.pc, s) from rfl), bind_ok hw]
  rfl

theorem jumpTo_run {h : Hdr} {a : SSrc} {off : BitVec 28} {s : State} {v : Word} (hg : Reads (guardS h) s true)
    (ha : Reads (rdS a) s v) : jumpTo h a off s = .ok (.jump (v + off.signExtend 64 * 8), s) := by
  unfold jumpTo
  rw [bind_ok hg, if_pos rfl, bind_ok ha]
  rfl
/-- RET has no displacement. -/
theorem resRet_run {h : Hdr} {a : SSrc} {s : State} {v : Word} (hg : Reads (guardS h) s true)
    (ha : Reads (rdS a) s v) : resRet h a s = .ok (.jump v, s) := by
  have hrun := jumpTo_run (off := 0) hg ha
  rwa [show v + (0 : BitVec 28).signExtend 64 * 8 = v by simp] at hrun

/-- A test of a predicate or of two words, read from its operands. -/
theorem reads_test {α : Type} {m : Iss α} {f : α → Bool} {s : State} {a : α} {b : Bool} (ha : Reads m s a) (hb : f a = b) :
    Reads (do let v ← m; pure (f v)) s b := hb ▸ bind_ok ha
theorem reads_condWord {cc : Cond} {a b : SSrc} {s : State} {x y : Word} {t : Bool} (ha : Reads (rdS a) s x)
    (hb : Reads (rdS b) s y) (ht : condHolds cc x y = t) :
    Reads (do let x ← rdS a; let y ← rdS b; pure (condWord cc x y)) s t := by
  rw [← ht, ← condWord_eq]
  exact (bind_ok ha).trans (bind_ok hb)

/-- Settles O10: a branch reads its test and transfers or falls; CALL writes its link first; RET and JMPX read their target.
What a transfer comes to is a matter of its target alone. -/
theorem branchesAndCalls : Obligations.BranchesAndCalls := by
  unfold Obligations.BranchesAndCalls
  intro h s hr hg
  refine ⟨fun off hok => issue_branch_taken hr hg rfl hok, fun p ty off v hv => ?_, fun cc a b off x y hx hy => ?_,
    fun x off s1 hok hw => issueN_calls hr (resCall_run hg hw) ((targetOk_wrX hw _).mpr hok), fun a off v hv => ?_,
    fun t hbad => ⟨fun off ht => ?_, fun a off v hv => ?_⟩⟩
  · refine ⟨fun hok ht => issue_branch_taken hr hg (reads_test hv (lowLanes_any.mpr ht)) hok,
      fun ht => issue_branch_passed hr hg (reads_test hv ?_),
      fun hok ht => issue_branch_taken hr hg (reads_test hv (lowLanes_all.mpr ht)) hok,
      fun ht => issue_branch_passed hr hg (reads_test hv ?_),
      fun hok ht => issue_branch_taken hr hg (reads_test hv (lowLanes_none.mpr ht)) hok,
      fun ht => issue_branch_passed hr hg (reads_test hv ?_)⟩
    · exact Bool.eq_false_iff.mpr (mt lowLanes_any.mp ht)
    · exact Bool.eq_false_iff.mpr (mt lowLanes_all.mp ht)
    · exact Bool.eq_false_iff.mpr (mt lowLanes_none.mp ht)
  · exact ⟨fun ht hok => issue_branch_taken hr hg (reads_condWord hx hy ht) hok,
      fun ht => issue_branch_passed hr hg (reads_condWord hx hy ht)⟩
  · exact ⟨fun hok => issueN_jumps hr (resRet_run hg hv) hok,
      fun h8 => issueN_jumps_bad hr (resRet_run hg hv) (fun hok => h8 hok.1),
      fun hok => issueN_jumps hr (jumpTo_run hg hv) hok⟩
  · subst ht
    refine ⟨issue_branch_bad hr hg rfl hbad, fun p ty v hv => ⟨?_, ?_, ?_⟩, ?_, ?_⟩
    · exact fun ht => issue_branch_bad hr hg (reads_test hv (lowLanes_any.mpr ht)) hbad
    · exact fun ht => issue_branch_bad hr hg (reads_test hv (lowLanes_all.mpr ht)) hbad
    · exact fun ht => issue_branch_bad hr hg (reads_test hv (lowLanes_none.mpr ht)) hbad
    · exact fun cc a b x y hx hy ht => issue_branch_bad hr hg (reads_condWord hx hy ht) hbad
    · exact fun x s1 hw => issueN_calls_bad hr (resCall_run hg hw) (mt (targetOk_wrX hw _).mp hbad)
  · refine ⟨fun ht => ?_, fun ht => ?_⟩ <;> subst ht
    · exact issueN_jumps_bad hr (jumpTo_run hg hv) hbad
    · exact issueN_jumps_bad hr (resRet_run hg hv) hbad

end Sys2Proof.Machine
end

section
/-! ### Loops (R99, R126 to R128) -/
namespace Sys2Proof.Machine

/-! How a cluster goes on outside a loop record. -/

theorem targetOk_aligned {s : State} (hm : s.cur.cl ≠ .m) (t : Word) : TargetOk s t ↔ t.toNat % 8 = 0 :=
  and_iff_left fun h => absurd h hm

theorem chkBack_run (s : State) (a : Word) :
    chkBack a s = if (s.clu.advance a 8).2 then chkTarget (s.clu.advance a 8).1.pc s else .ok ((), s) := by
  unfold chkBack
  rw [bind_ok (getClu_run s)]
  rcases s.clu.advance a 8 with ⟨c, _ | _⟩ <;> rfl

section
variable {s : State} {a : Word} (n : Nat)

theorem goOn_plain (hl : s.clu.lrec = none) (hback : (s.clu.advance a 8).2 = true → TargetOk s (s.clu.advance a 8).1.pc) :
    goOn a n s = .ok ((), s.setRole s.curKey (fallFrom s.curRole s.cur.cl a n)) := by
  have hchk : chkBack a s = .ok ((), s) := by
    rw [chkBack_run]
    split
    · next h => exact chkTarget_ok (hback h)
    · rfl
  unfold goOn
  rw [bind_ok (getSt_run s), bind_ok hchk, show (s.curRole.clu s.cur.cl).lrec = none from hl]
  rfl

theorem goOn_badBack (hback : (s.clu.advance a 8).2 = true) (hbad : ¬ TargetOk s (s.clu.advance a 8).1.pc) :
    goOn a n s = .error (.trap 0x03 (s.clu.advance a 8).1.pc 0) := by
  have hchk : chkBack a s = .error (.trap 0x03 (s.clu.advance a 8).1.pc 0) := by
    rw [chkBack_run, if_pos hback]
    exact chkTarget_bad hbad
  unfold goOn
  rw [bind_ok (getSt_run s)]
  exact bind_error hchk
end

/-- Outside a loop record there is no boundary to leave. -/
theorem clu_leave {s : State} (hl : s.clu.lrec = none) : s.leave.clu = s.clu := by
  unfold State.leave State.clu
  rw [curRole_setRole]
  refine (clu_setClu_same ..).trans ?_
  rw [show s.curRole.clu s.cur.cl = s.clu from rfl, hl, Option.map_none, ← hl]

theorem settle_skip {n : Nat} {e : Word} {s : State} (hm : s.cur.cl ≠ .m) :
    settle n (.skip e) s = (do goOn e 8; pure none : Iss Post) s := by
  have hcl : (s.cur.cl == .m) = false := beq_eq_false_iff_ne.mpr hm
  unfold settle
  rw [bind_ok (getSt_run s)]
  dsimp only
  rw [hcl]
  rfl
theorem settle_fall (n : Nat) (s : State) : settle n .fall s = (do goOn s.clu.pc n; pure none : Iss Post) s :=
  bind_ok (getSt_run s)

section
variable {n : Nat} {b : Bool} {body : Iss Flow} {e : Word} {s : State} (hr : Ready n b s)
include hr

/-- A syllable whose body skips to e goes on as after a syllable there. -/
theorem issueN_skips (hm : s.cur.cl ≠ .m) (hl : s.clu.lrec = none) (hb : body s = .ok (.skip e, s))
    (hback : (s.clu.advance e 8).2 = true → (s.clu.advance e 8).1.pc.toNat % 8 = 0) :
    issueN n b body s = .next (s.fellAt e 8) := by
  have hclu := clu_leave hl
  rw [← hclu] at hl hback
  have hgo := goOn_plain 8 hl fun h => (targetOk_aligned (s := s.leave) hm _).mpr (hback h)
  exact issueN_settles hr hb ((settle_skip (s := s.leave) hm).trans (bind_ok hgo))

theorem issueN_skips_bad (hm : s.cur.cl ≠ .m) (hl : s.clu.lrec = none) (hb : body s = .ok (.skip e, s))
    (hback : (s.clu.advance e 8).2 = true) (hbad : (s.clu.advance e 8).1.pc.toNat % 8 ≠ 0) :
    issueN n b body s = .next (takeTrap s 0x03 (s.clu.advance e 8).1.pc 0) := by
  rw [← clu_leave hl] at hback hbad ⊢
  have hgo := goOn_badBack 8 hback (mt (targetOk_aligned (s := s.leave) hm _).mp hbad)
  exact issueN_unsettled hr hb ((settle_skip (s := s.leave) hm).trans (bind_error hgo))

/-- A syllable that transfers nothing, outside a loop record, where no loop ends at its head. -/
theorem issueN_falls_plain {t : State} (hb : body s = .ok (.fall, t)) (hl : t.clu.lrec = none)
    (hback : (t.clu.advance t.clu.pc 8).2 = false) : issueN n b body s = .next (t.fell n) := by
  have hclu := clu_leave hl
  rw [← hclu] at hl hback
  have hgo := goOn_plain n hl fun h => absurd (hback.symm.trans h) Bool.false_ne_true
  exact issueN_settles hr hb ((settle_fall ..).trans (bind_ok hgo))
end

/-! The body of a loop. -/

/-- R126: a body that ends at e ends past the innermost body around the cluster's PC. -/
def PastBody (c : Clu) (e : Word) : Prop :=
  ∃ top, c.loops.getLast? = some top ∧ top.start.toNat ≤ c.pc.toNat ∧ c.pc.toNat ≤ top.stop.toNat ∧ top.stop.toNat < e.toNat

/-- The model's test of it. -/
def pastBodyB (c : Clu) (e : Word) : Bool :=
  match c.loops.getLast? with
  | some top => top.has c.pc && top.stop.toNat < e.toNat
  | none => false
theorem pastBodyB_iff (c : Clu) (e : Word) : pastBodyB c e = true ↔ PastBody c e := by
  unfold pastBodyB PastBody LoopEnt.has
  rcases c.loops.getLast? with _ | top
  · simp
  · simp [and_assoc]

theorem sylWord_run (s : State) : ∃ w, sylWord s = .ok (w, s) := ⟨_, rfl⟩

/-- The cluster of s with one more loop, whose body ends off syllables on. -/
def State.pushed (s : State) (c : Word) (off : BitVec 28) : State :=
  s.setRole s.curKey (s.curRole.setClu s.cur.cl
    { s.clu with loops := s.clu.loops ++ [{ start := s.clu.pc + 8, stop := s.branchTo off, left := c }] })

section
variable {s : State} {c : Word} {off : BitVec 28} (hm : s.cur.cl ≠ .m) (hl : s.clu.lrec = none)

include hm hl

/-- Outside M and a loop record, a LOOP looks at the body around it, then at its count and at the room on the stack. -/
theorem loopWith_run : loopWith c off s =
    (do trapIf (pastBodyB s.clu (s.branchTo off)) 0x03 (s.branchTo off) 0
        if c = 0 then pure (.skip (s.branchTo off))
        else do
          let w ← sylWord
          trapIf (s.clu.loops.length = 4) 0x08 w 0
          modClu (fun c' => { c' with loops := c'.loops ++ [{ start := s.clu.pc + 8, stop := s.branchTo off, left := c }] })
          pure .fall : Iss Flow) s := by
  have hcl : (s.cur.cl == .m) = false := beq_eq_false_iff_ne.mpr hm
  unfold loopWith
  rw [bind_ok (getSt_run s), bind_ok (getClu_run s), hl, hcl, Bool.false_and, Bool.or_false, Bool.or_false]
  rfl

theorem loopWith_past (h : PastBody s.clu (s.branchTo off)) :
    loopWith c off s = .error (.trap 0x03 (s.branchTo off) 0) := by
  rw [loopWith_run hm hl, (pastBodyB_iff ..).mpr h]
  exact bind_error (trapIf_true ..)

variable (hin : ¬ PastBody s.clu (s.branchTo off))
include hin

theorem loopWith_zero : loopWith 0 off s = .ok (.skip (s.branchTo off), s) := by
  rw [loopWith_run hm hl, Bool.eq_false_iff.mpr (mt (pastBodyB_iff ..).mp hin)]
  exact bind_ok (trapIf_false ..)

theorem loopWith_full (hc : c ≠ 0) (h4 : s.clu.loops.length = 4) : ∃ w, loopWith c off s = .error (.trap 0x08 w 0) := by
  obtain ⟨w, hw⟩ := sylWord_run s
  rw [loopWith_run hm hl, Bool.eq_false_iff.mpr (mt (pastBodyB_iff ..).mp hin), bind_ok (trapIf_false ..), if_neg hc,
    bind_ok hw, decide_eq_true h4]
  exact ⟨w, bind_error (trapIf_true ..)⟩

theorem loopWith_room (hc : c ≠ 0) (h4 : s.clu.loops.length ≠ 4) : loopWith c off s = .ok (.fall, s.pushed c off) := by
  obtain ⟨w, hw⟩ := sylWord_run s
  rw [loopWith_run hm hl, Bool.eq_false_iff.mpr (mt (pastBodyB_iff ..).mp hin), bind_ok (trapIf_false ..), if_neg hc,
    bind_ok hw, decide_eq_false h4]
  exact (bind_ok (trapIf_false ..)).trans (bind_ok (modClu_run _ s))
end

theorem clu_pushed (s : State) (c : Word) (off : BitVec 28) : (s.pushed c off).clu =
    { s.clu with loops := s.clu.loops ++ [{ start := s.clu.pc + 8, stop := s.branchTo off, left := c }] } := by
  unfold State.pushed State.clu
  rw [curRole_setRole]
  exact clu_setClu_same ..

/-- A body of one syllable or more does not end at its LOOP. -/
theorem branchTo_ne_pc {s : State} {off : BitVec 28} (h : 1 ≤ off.toInt) : s.branchTo off ≠ s.clu.pc := by
  intro heq
  have hzero : off.signExtend 64 * 8 = 0#64 := by simpa [State.branchTo] using heq
  have hint := congrArg BitVec.toInt hzero
  have hlt : off.toInt < 2 ^ 27 := BitVec.toInt_lt
  rw [BitVec.toInt_mul, BitVec.toInt_signExtend_of_le (by decide), show (8 : Word).toInt = 8 from rfl, Int.bmod_eq_of_le] at hint
  · rw [BitVec.toInt_zero] at hint
    omega
  · norm_num
    omega
  · norm_num
    omega

/-- The loop that has been pushed keeps its cluster from going back. -/
theorem advance_pushed (s : State) (c : Word) {off : BitVec 28} (h : 1 ≤ off.toInt) :
    ((s.pushed c off).clu.advance (s.pushed c off).clu.pc 8).2 = false := by
  rw [advance_back, clu_pushed]
  simp only [List.reverse_append, List.reverse_singleton, List.singleton_append, loopBack, if_neg (branchTo_ne_pc h)]
  rfl

/-- LOOP and LOOPI run `loopWith` on their count. -/
theorem exec_loop {h : Hdr} {s : State} {off : BitVec 28} {c : Word} {i : Instr} (hg : Reads (guardS h) s true)
    (hi : (∃ a, i = .loop h a off ∧ Reads (rdS a) s c) ∨ ∃ n : BitVec 16, i = .loopi h n off ∧ c = n.setWidth 64) :
    ∃ body : Iss Flow, exec i s = issueN 8 h.s body s ∧ body s = loopWith c off s := by
  rcases hi with ⟨a, rfl, ha⟩ | ⟨n, rfl, rfl⟩
  · exact ⟨resLoop h a off, rfl, (bind_ok hg).trans (bind_ok ha)⟩
  · exact ⟨resLoopi h n off, rfl, bind_ok hg⟩

/-- Settles O11: a LOOP's body is checked against the one around it, then its count decides; a body that is skipped goes on from
its end, and one that is pushed ends elsewhere than at the LOOP, so that no loop goes back there. -/
theorem loopInstructions : Obligations.LoopInstructions := by
  unfold Obligations.LoopInstructions
  intro h s off c i hr hg hoff hm hl hi
  obtain ⟨body, hexec, hbody⟩ := exec_loop hg hi
  rw [hexec]
  refine ⟨fun hpast => issueN_trap hr (hbody.trans (loopWith_past hm hl hpast)), ⟨fun hin hc hback => ?_, fun hin hc hback hbad => ?_⟩,
    fun hin hc h4 => ?_, fun hin hc h4 => ?_⟩
  · subst hc
    exact issueN_skips hr hm hl (hbody.trans (loopWith_zero hm hl hin)) hback
  · subst hc
    exact issueN_skips_bad hr hm hl (hbody.trans (loopWith_zero hm hl hin)) hback hbad
  · obtain ⟨w, hw⟩ := loopWith_full hm hl hin hc h4
    exact ⟨w, issueN_trap hr (hbody.trans hw)⟩
  · have hrec : (s.pushed c off).clu.lrec = none := by
      rw [clu_pushed]
      exact hl
    exact issueN_falls_plain hr (hbody.trans (loopWith_room hm hl hin hc h4)) hrec (advance_pushed s c hoff)

end Sys2Proof.Machine
end

section
/-! ### Issue of nest records (R98, R172) -/
namespace Sys2Proof.Machine

theorem exec_nest {i : Instr} {sb : Bool} (hi : nestSync i = some sb) (s : State) :
    exec i s = issueN 64 sb (nestIssue i) s := by
  cases i <;> cases hi <;> rfl

theorem nestSeen_alone {r : Role} (h : r.snap = none) : r.nestSeen = r.nest := by rw [Role.nestSeen, h]

theorem nestIssue_busy {i : Instr} {s : State} (hs : s.curRole.snap = none) (hn : s.curRole.nest ≠ none) :
    nestIssue i s = .error .wait := by
  unfold nestIssue
  rw [bind_ok (getRole_run s), nestSeen_alone hs, Option.isSome_iff_ne_none.mpr hn]
  exact bind_error (waitIf_true s)

/-- The checks of a record's operation at issue. -/
def nestChk (f : Flight) : Iss Unit := if f.isMma then (do mmaNestChk f; mmaTileChk f) else rowChk f

theorem nestChk_mma {f : Flight} {s : State} (h : f.isMma = true) (h1 : Does (mmaNestChk f) s s)
    (h2 : Does (mmaTileChk f) s s) : Does (nestChk f) s s := by
  unfold nestChk
  rw [if_pos h]
  exact (bind_ok h1).trans h2
theorem nestChk_row {f : Flight} {s : State} (h : f.isMma = false) (h1 : Does (rowChk f) s s) : Does (nestChk f) s s := by
  unfold nestChk
  rwa [if_neg (by simp [h])]

section
variable {i : Instr} {s : State} (hs : s.curRole.snap = none) (hn : s.curRole.nest = none)
include hs hn

/-- With no record in flight, a record is checked and enters flight. -/
theorem nestIssue_free : nestIssue i s =
    (do nestChk (s.flightOf i); modRole (fun r => { r with nest := some (s.flightOf i) }); pure .fall : Iss Flow) s := by
  unfold nestIssue
  rw [bind_ok (getRole_run s), nestSeen_alone hs, hn]
  refine (bind_ok (waitIf_false s)).trans ((bind_ok (getClu_run s)).trans ?_)
  change (if (s.flightOf i).isMma then _ else _ : Iss Flow) s = _
  unfold nestChk
  split
  · rw [bind_assoc]
    rfl
  · rfl

theorem nestIssue_flies (h : Does (nestChk (s.flightOf i)) s s) : nestIssue i s =
    .ok (.fall, s.setRole s.curKey { s.curRole with nest := some (s.flightOf i) }) := by
  rw [nestIssue_free hs hn, bind_ok h, bind_ok (modRole_run _ s)]
  rfl
theorem nestIssue_traps {c : Nat} {i0 i1 : Word} (h : nestChk (s.flightOf i) s = .error (.trap c i0 i1)) :
    nestIssue i s = .error (.trap c i0 i1) := by
  rw [nestIssue_free hs hn]
  exact bind_error h
end

/-! The checks that refuse. -/

theorem nestIf_false (f : Flight) (k : Nat) (s : State) : nestIf f false k s = .ok ((), s) := rfl
theorem nestIf_true (f : Flight) (k : Nat) (s : State) : nestIf f true k s = .error (.trap 0x04 (f.w 0) (BitVec.ofNat 64 k)) := rfl

theorem nestChk_long {f : Flight} {s : State} (h : f.isMma = true) (hlong : 2 ^ 20 < f.steps) :
    nestChk f s = .error (.trap 0x04 (f.w 0) 1) := by
  have hchk : mmaNestChk f s = .error (.trap 0x04 (f.w 0) 1) := by
    unfold mmaNestChk
    rw [bind_ok (getRole_run s), decide_eq_true hlong]
    exact bind_error (nestIf_true f 1 s)
  unfold nestChk
  rw [if_pos h]
  exact bind_error hchk

theorem nestChk_rows {f : Flight} {s : State} (h : f.isMma = false) (hplace : f.placeBad = false)
    (hrows : 128 < f.acc + f.rowsN) : nestChk f s = .error (.trap 0x04 (f.w 0) 3) := by
  unfold nestChk rowChk
  rw [if_neg (by simp [h]), bind_ok (getRole_run s), hplace, Bool.and_false, bind_ok (nestIf_false f 2 s),
    decide_eq_true hrows]
  exact bind_error (nestIf_true f 3 s)

/-- The rows of an operation without a place lie in the accumulator. -/
theorem nestChk_fits {f : Flight} {s : State} (hop : f.op = 3 ∨ f.op = 5 ∨ f.op = 7) (hrows : f.acc + f.rowsN ≤ 128) :
    Does (nestChk f) s s := by
  have h : f.isMma = false := by
    unfold Flight.isMma
    rcases hop with h | h | h <;> rw [h] <;> rfl
  have h4 : (decide (f.op = 4)) = false := decide_eq_false (by omega)
  have h6 : (decide (f.op = 6)) = false := decide_eq_false (by omega)
  refine nestChk_row h ?_
  unfold Does rowChk
  rw [bind_ok (getRole_run s), h4, h6, decide_eq_false (by omega)]
  rfl

/-! The fields of a row operation's words. -/

theorem bits_eq_extractLsb' (w : Word) (hi lo : Nat) : bits w hi lo = (w.extractLsb' lo (hi + 1 - lo)).toNat := by
  rw [bits, BitVec.extractLsb'_toNat, Nat.shiftRight_eq_div_pow]

section
variable {s : State} {i : Instr} {sb : Bool} {op acc rows : BitVec 8} {hsel : BitVec 4} {hk : BitVec 3}
  (hi : encode i = encRowOp sb op acc rows hsel hk)
include hi

theorem op_rowOp : (s.flightOf i).op = op.toNat := by
  rw [Flight.op, bits_eq_extractLsb', State.flightOf, hi]
  exact congrArg BitVec.toNat (nestHdr_op ..)
theorem acc_rowOp : (s.flightOf i).acc = acc.toNat := by
  rw [Flight.acc, bits_eq_extractLsb', State.flightOf, Flight.w, hi]
  exact congrArg BitVec.toNat (nestHdr_acc ..)
theorem rowsN_rowOp : (s.flightOf i).rowsN = rowCount rows := by
  have hbits : bits ((s.flightOf i).w 7) 7 0 = rows.toNat := by
    rw [bits_eq_extractLsb', State.flightOf, Flight.w, hi]
    exact congrArg BitVec.toNat (w7_rows ..)
  unfold Flight.rowsN rowCount
  rw [hbits]
  by_cases h : rows = 0
  · subst h; rfl
  · rw [if_neg h]
    exact if_neg (bitVec_toNat_ne_zero h)

theorem nestChk_rowOp (hop : op.toNat = 3 ∨ op.toNat = 5 ∨ op.toNat = 7) (hrows : acc.toNat + rowCount rows ≤ 128) :
    Does (nestChk (s.flightOf i)) s s :=
  nestChk_fits (by rwa [op_rowOp hi]) (by rwa [acc_rowOp hi, rowsN_rowOp hi])
end

/-- Settles O36: a record waits for the one in flight; otherwise its checks are run, and it enters flight or traps as the first
that fails says. -/
theorem nestIssued : Obligations.NestIssued := by
  unfold Obligations.NestIssued
  intro i sb s hi hr hs
  rw [exec_nest hi]
  refine ⟨fun hn => issueN_wait hr (nestIssue_busy hs hn), fun hn => ?_⟩
  have hflies (h : Does (nestChk (s.flightOf i)) s s) : issueN 64 sb (nestIssue i) s =
      .next ((s.setRole s.curKey { s.curRole with nest := some (s.flightOf i) }).fell 64) :=
    issueN_falls hr (nestIssue_flies hs hn h) (sameClu_modRole (fun r => { r with nest := some (s.flightOf i) })
      (fun r c => by cases c <;> rfl) _ _ _ (modRole_run ..))
  refine ⟨fun hmma h1 h2 => hflies (nestChk_mma hmma h1 h2), fun hrow h => hflies (nestChk_row hrow h),
    fun hmma hlong => issueN_trap hr (nestIssue_traps hs hn (nestChk_long hmma hlong)),
    fun hrow hplace hrows => issueN_trap hr (nestIssue_traps hs hn (nestChk_rows hrow hplace hrows)),
    fun acc rows hfit hform => hflies ?_⟩
  rcases hform with rfl | rfl | ⟨x, y, rfl⟩
  · exact nestChk_rowOp rfl (.inr (.inl rfl)) hfit
  · exact nestChk_rowOp rfl (.inr (.inr rfl)) hfit
  · exact nestChk_rowOp rfl (.inl rfl) hfit

end Sys2Proof.Machine
end

section
/-! ### Worked encodings (05_encoding R84 to R99) -/
namespace Sys2Proof

/-- Settles O59: the decoder is run on each word. -/
theorem wordsReadRight : Obligations.WordsReadRight := by
  unfold Obligations.WordsReadRight
  refine ⟨?_, ?_, ?_, ?_, ?_, ?_, ?_, ?_, ?_, ?_, ?_, ?_, ?_, ?_, ?_, ?_, ?_, ?_⟩ <;> rfl

end Sys2Proof
end

section
/-! ### Results with flags, and on an immediate (R28, R121, R136 to R140) -/
namespace Sys2Proof.Machine

/-! The integer operations on words of 64 bits. -/

theorem ofNat_uintOf (w : Nat) (i : Int) : BitVec.ofNat w (uintOf w i) = BitVec.ofInt w i := by
  refine BitVec.eq_of_toNat_eq ?_
  rw [BitVec.toNat_ofNat, BitVec.toNat_ofInt, uintOf]
  refine Nat.mod_eq_of_lt ?_
  have hpos : 0 < ((2 ^ w : Nat) : Int) := Int.natCast_pos.mpr (Nat.two_pow_pos w)
  have hlt := Int.emod_lt_of_pos i hpos
  omega

/-- A result of the integer operations as an instruction delivers it: a word and flags. -/
def asWord (x : Nat × Fl) : Word × Fl := (BitVec.ofNat 64 x.1, x.2)

theorem asWord_uintOf (i : Int) (fl : Fl) : asWord (uintOf 64 i, fl) = (BitVec.ofInt 64 i, fl) :=
  congrArg (·, fl) (ofNat_uintOf 64 i)
theorem asWord_zero (fl : Fl) : asWord (0, fl) = (0, fl) := rfl

theorem toInt_eq_zero {a : Word} : a.toInt = 0 ↔ a = 0 := by
  rw [← BitVec.toInt_inj]
  exact Iff.rfl
theorem toNat_eq_zero {a : Word} : a.toNat = 0 ↔ a = 0 := by
  rw [← BitVec.toNat_inj]
  exact Iff.rfl

/-- R137: the one signed quotient that 64 bits do not hold. -/
theorem quotient_overflows (a b : Word) : (a.toInt = -(2 ^ (64 - 1) : Nat) && b.toInt = -1) = true ↔
    a.toInt = -2 ^ 63 ∧ b.toInt = -1 := by
  rw [Bool.and_eq_true, decide_eq_true_iff, decide_eq_true_iff]
  exact Iff.rfl

theorem asWord_divS (a b : Word) : asWord (divS 64 a.toInt b.toInt) =
    if b = 0 then (0, if a = 0 then fIV else fDZ)
    else if a.toInt = -2 ^ 63 ∧ b.toInt = -1 then (BitVec.ofInt 64 (-2 ^ 63), fOF)
    else (BitVec.ofInt 64 (Int.tdiv a.toInt b.toInt), 0) := by
  simp only [divS, toInt_eq_zero, quotient_overflows, apply_ite asWord, asWord_zero, asWord_uintOf]
  split
  · rfl
  · split
    · next h => rw [h.1]
    · rfl

theorem asWord_remS (a b : Word) : asWord (remS 64 a.toInt b.toInt) =
    if b = 0 then (a, if a = 0 then fIV else fDZ)
    else if a.toInt = -2 ^ 63 ∧ b.toInt = -1 then (0, fOF)
    else (BitVec.ofInt 64 (a.toInt - b.toInt * Int.tdiv a.toInt b.toInt), 0) := by
  simp only [remS, toInt_eq_zero, quotient_overflows, apply_ite asWord, asWord_zero, asWord_uintOf, BitVec.ofInt_toInt]
  rfl

theorem asWord_divU (a b : Word) : asWord (divU a.toNat b.toNat) =
    if b = 0 then (0, if a = 0 then fIV else fDZ) else (BitVec.ofNat 64 (a.toNat / b.toNat), 0) := by
  simp only [divU, toNat_eq_zero, apply_ite asWord, asWord_zero]
  rfl

theorem asWord_remU (a b : Word) : asWord (remU a.toNat b.toNat) =
    if b = 0 then (a, if a = 0 then fIV else fDZ) else (BitVec.ofNat 64 (a.toNat % b.toNat), 0) := by
  have ha (fl : Fl) : asWord (a.toNat, fl) = (a, fl) := congrArg (·, fl) ((BitVec.ofNat_toNat 64 a).trans (BitVec.setWidth_eq a))
  simp only [remU, toNat_eq_zero, apply_ite asWord, ha]
  rfl

/-- R28: a sum that 64 bits do not hold is clamped, and SAT is raised. -/
theorem asWord_clampS (i : Int) : asWord (clampS 64 i) =
    if i < -2 ^ 63 then (BitVec.ofInt 64 (-2 ^ 63), fSAT)
    else if 2 ^ 63 - 1 < i then (BitVec.ofInt 64 (2 ^ 63 - 1), fSAT)
    else (BitVec.ofInt 64 i, 0) := by
  simp only [clampS, apply_ite asWord, asWord_uintOf]
  rfl

/-- Each row of the table is the instruction that computes the row's function. -/
theorem exec_aluFlags_eq {c : Hdr → S2 → Instr} {f : Word → Word → Word × Fl} (hc : (c, f) ∈ aluFlags) :
    ∃ g, (∀ a b, asWord (g a b) = f a b) ∧ ∀ (h : Hdr) (o : S2) (s : State), exec (c h o) s = issue h (alu2f h o g) s := by
  simp only [aluFlags, List.mem_cons, Prod.mk.injEq, List.not_mem_nil, or_false] at hc
  rcases hc with ⟨rfl, rfl⟩ | ⟨rfl, rfl⟩ | ⟨rfl, rfl⟩ | ⟨rfl, rfl⟩ | ⟨rfl, rfl⟩ | ⟨rfl, rfl⟩
  · exact ⟨_, asWord_divS, fun _ _ _ => rfl⟩
  · exact ⟨_, asWord_divU, fun _ _ _ => rfl⟩
  · exact ⟨_, asWord_remS, fun _ _ _ => rfl⟩
  · exact ⟨_, asWord_remU, fun _ _ _ => rfl⟩
  · exact ⟨_, fun _ _ => asWord_clampS _, fun _ _ _ => rfl⟩
  · exact ⟨_, fun _ _ => asWord_clampS _, fun _ _ _ => rfl⟩

/-- The row of the table that ADDS has. -/
theorem aluFlags_adds {f : Word → Word → Word × Fl} (hf : (Instr.adds, f) ∈ aluFlags) (a b : Word) :
    asWord (addsF a b) = f a b := by
  have hne {c : Hdr → S2 → Instr} (hc : ∀ h o, Instr.adds h o ≠ c h o) : Instr.adds ≠ c := fun e =>
    hc plainHdr ⟨.x 0, ⟨.k 0, false, false⟩, ⟨.k 0, false, false⟩⟩ (by rw [e])
  simp only [aluFlags, List.mem_cons, Prod.mk.injEq, List.not_mem_nil, or_false] at hf
  rcases hf with ⟨hc, -⟩ | ⟨hc, -⟩ | ⟨hc, -⟩ | ⟨hc, -⟩ | ⟨-, rfl⟩ | ⟨hc, -⟩
  case inr.inr.inr.inr.inl => exact asWord_clampS _
  all_goals exact absurd hc (hne fun _ _ => nofun)

/-- A guarded scalar result that raises flags as it is computed. -/
theorem issue_scalarOp_flagged {h : Hdr} {ms : List Mk} {d : SDst} {f : Iss Word} {x : Nat × Fl} {v : Word × Fl} {s s1 s2 s3 : State}
    (hr : Ready 8 h.s s) (hg : Reads (guardS h) s true) (hx : asWord x = v)
    (hf : f s = (do raiseI 255 0 x.2; pure (BitVec.ofNat 64 x.1) : Iss Word) s)
    (hfl : Does (raiseI 255 0 v.2) s s1) (hp : Does (popMarks ms) s1 s2) (hw : Does (wrS d v.1) s2 s3) :
    issue h (scalarOp h ms d f) s = .next (s3.fell 8) := by
  subst hx
  have hsame := SameClu.trans _ _ _ (sameClu_raiseI _ _ _ _ _ _ hfl)
    (SameClu.trans _ _ _ (sameClu_popMarks _ _ _ _ hp) (sameClu_wrS _ _ _ _ _ hw))
  exact issueN_falls hr (scalarOp_true hg (hf.trans (bind_ok hfl)) hp hw) hsame

/-- Settles O2: each row of the table is `alu2f` on the model's integer operation, whose cases are the row's; the flag is raised
between the reads and the pops. -/
theorem aluFlagged : Obligations.AluFlagged := by
  unfold Obligations.AluFlagged
  intro c f hc h o s s1 s2 s3 a b hr hg ha hb hfl hp hw
  obtain ⟨g, hfg, hexec⟩ := exec_aluFlags_eq hc
  rw [hexec]
  exact issue_scalarOp_flagged hr hg (hfg a b) ((bind_ok ha).trans (bind_ok hb)) hfl hp hw

/-- Settles O3: the table's rows are `alui` on the sign-extended immediate, and ALUI ADDS computes the row of ADDS; MOVK and MOVKH write
their X register. -/
theorem immediateResults : Obligations.ImmediateResults := by
  unfold Obligations.ImmediateResults
  refine ⟨?_, ?_, ?_, ?_⟩
  · intro c f hc h o s s1 s2 a hr hg ha hp hw
    rw [exec_aluImm hc]
    exact issue_scalarOp_true hr hg (reads_one ha) hp hw
  · intro h o s s1 s2 s3 a f hf hr hg ha hfl hp hw
    exact issue_scalarOp_flagged hr hg (aluFlags_adds hf _ _) (bind_ok ha) hfl hp hw
  · intro h x imm s s1 hr hg hw
    exact issue_guarded_true hr hg hw (sameClu_wrX _ _ _ _ _ hw) (popMarks_nil s1)
  · intro h x imm s s1 v hr hg hv hw
    exact issue_guarded_true hr hg ((bind_ok hv).trans hw) (sameClu_wrX _ _ _ _ _ hw) (popMarks_nil s1)

end Sys2Proof.Machine
end

section
/-! ### Commits outside a loop record (R52, R99, R105, R128, R218) -/
namespace Sys2Proof.Machine

theorem clu_setRole (s : State) (r : Role) : (s.setRole s.curKey r).clu = r.clu s.cur.cl := by
  unfold State.clu
  rw [curRole_setRole]
  rfl

/-- Outside a loop record there is no boundary, so that leaving it writes the role back as it stands. -/
theorem leave_plain {s : State} (hl : s.clu.lrec = none) : s.leave = s.setRole s.curKey s.curRole := by
  have hclu : { s.clu with lrec := s.clu.lrec.map (fun l => { l with boundary := false }) } = s.curRole.clu s.cur.cl := by
    rw [hl, Option.map_none, ← hl]
    rfl
  unfold State.leave
  rw [hclu, setClu_clu]

theorem boundaryGate_plain {s : State} (hl : s.clu.lrec = none) : boundaryGate s = .ok ((), s) := by
  have hnext : nextIteration s.clu = false := by rw [nextIteration, hl]
  have hat : atBoundary s.clu = false := by rw [atBoundary, hl]
  unfold boundaryGate
  rw [bind_ok (getRole_run s), bind_ok (getClu_run s), hnext, hat]
  rfl

theorem fallFrom_plain {r : Role} {cl : Cluster} (hl : (r.clu cl).lrec = none) (a : Word) (n : Nat) :
    fallFrom r cl a n = r.setClu cl ((r.clu cl).advance a n).1 := by
  have hkeeps : ((r.clu cl).advance a n).1.lrec = none := (advance_keeps ..).trans hl
  unfold fallFrom
  dsimp only
  rw [hkeeps]

theorem jumpFrom_plain {r : Role} {cl : Cluster} (hl : (r.clu cl).lrec = none) (a t : Word) (isCall : Bool) :
    jumpFrom r cl a t isCall = r.setClu cl { r.clu cl with
      loops := if isCall then (r.clu cl).loops else (loopExit a t (r.clu cl).loops.reverse).reverse, pc := t } := by
  unfold jumpFrom
  dsimp only
  rw [hl]

section
variable {n : Nat} {body : Iss Flow} {f : Flow} {s s' : State} (hgate : boundaryGate s = .ok ((), s)) (hb : body s = .ok (f, s'))
include hgate hb

theorem commit_ok {p : Post} {t : State} (hs : settle n f s'.leave = .ok (p, t)) : commit n body s = .ok (p, t.stamp) := by
  unfold commit
  rw [bind_ok hgate, bind_ok hb, bind_ok (modClu_run _ s')]
  exact bind_ok hs
theorem commit_error {e : Stop} (hs : settle n f s'.leave = .error e) : commit n body s = .error e := by
  unfold commit
  rw [bind_ok hgate, bind_ok hb, bind_ok (modClu_run _ s')]
  exact bind_error hs
end

/-- A live cluster issues a syllable with S = 0 by committing it. -/
theorem issueN_live {s : State} (hlive : s.curLive = true) (n : Nat) (body : Iss Flow) :
    issueN n false body s = match (commit n body : Iss Post) s with
      | .ok (p, t) => .next (applyPost t t.curKey t.cur.cl p)
      | .error .wait => .next s
      | .error (.trap c i0 i1) => .next (takeTrap s c i0 i1)
      | .error (.deferred id) => .next (takeDeferred s id) := by
  unfold issueN
  rw [if_neg (by simp [hlive])]
  rfl

end Sys2Proof.Machine
end

section
/-! ### The ends of loops, and what a transfer leaves of the stack (R99, R105, R128, R129) -/
namespace Sys2Proof.Machine

/-! R128: the stack is walked from its innermost entry, the last of the list. -/

theorem advance_empty {c : Clu} (h : c.loops = []) (a : Word) (n : Nat) :
    c.advance a n = ({ c with pc := a + BitVec.ofNat 64 n }, false) := by
  obtain ⟨pc, halted, loops, lrec⟩ := c
  subst h
  rfl

section
variable {c : Clu} {l : List LoopEnt} {e : LoopEnt} (h : c.loops = l ++ [e]) {a : Word} (n : Nat)
include h

theorem reverse_loops : c.loops.reverse = e :: l.reverse := by rw [h, List.reverse_append]; rfl

theorem advance_elsewhere (ha : e.stop ≠ a) : c.advance a n = ({ c with pc := a + BitVec.ofNat 64 n }, false) := by
  unfold Clu.advance
  rw [reverse_loops h, loopBack, if_neg ha]
  simp only [List.reverse_cons, List.reverse_reverse, ← h]
theorem advance_again (ha : e.stop = a) (hleft : 1 < e.left.toNat) :
    c.advance a n = ({ c with loops := l ++ [{ e with left := e.left - 1 }], pc := e.start }, true) := by
  unfold Clu.advance
  rw [reverse_loops h, loopBack, if_pos ha, if_pos hleft]
  simp only [List.reverse_cons, List.reverse_reverse]
theorem advance_expired (ha : e.stop = a) (hleft : e.left.toNat ≤ 1) : c.advance a n = { c with loops := l }.advance a n := by
  unfold Clu.advance
  rw [reverse_loops h, loopBack, if_pos ha, if_neg (by omega)]
end

section
variable {s : State} (hlive : s.curLive = true) (hl : s.clu.lrec = none) (hm : s.cur.cl ≠ .m) {h : Hdr} (hs : h.s = false)
include hlive hl hm hs

/-- A NOP goes on as the loops that end at it say. -/
theorem exec_nop_goes (hback : (s.clu.advance s.clu.pc 8).2 = true → (s.clu.advance s.clu.pc 8).1.pc.toNat % 8 = 0) :
    exec (.nop h) s = .next (s.setRole s.curKey (s.curRole.setClu s.cur.cl (s.clu.advance s.clu.pc 8).1)).stamp := by
  have hclu := clu_leave hl
  have hleave : s.leave.clu.lrec = none := hclu ▸ hl
  have hgo : goOn s.leave.clu.pc 8 s.leave = .ok ((), s.setRole s.curKey (s.curRole.setClu s.cur.cl (s.clu.advance s.clu.pc 8).1)) := by
    have hok : (s.leave.clu.advance s.leave.clu.pc 8).2 = true → TargetOk s.leave (s.leave.clu.advance s.leave.clu.pc 8).1.pc := by
      rw [hclu]
      exact fun hb => (targetOk_aligned (s := s.leave) hm _).mpr (hback hb)
    rw [goOn_plain 8 hleave hok, fallFrom_plain hleave]
    change Except.ok ((), s.leave.setRole s.curKey (s.leave.curRole.setClu s.cur.cl (s.leave.clu.advance s.leave.clu.pc 8).1)) = _
    rw [hclu, leave_plain hl, curRole_setRole, setRole_setRole]
  have hcommit := commit_ok (boundaryGate_plain hl) (body := resNop h) rfl ((settle_fall 8 s.leave).trans (bind_ok hgo))
  have hstep : exec (.nop h) s = issueN 8 false (resNop h) s := hs ▸ rfl
  rw [hstep, issueN_live hlive, hcommit]
  rfl

/-- A loop that goes back to no syllable traps at its end. -/
theorem exec_nop_traps (hback : (s.clu.advance s.clu.pc 8).2 = true) (hbad : (s.clu.advance s.clu.pc 8).1.pc.toNat % 8 ≠ 0) :
    exec (.nop h) s = .next (takeTrap s tTGT (s.clu.advance s.clu.pc 8).1.pc 0) := by
  have hclu := clu_leave hl
  rw [← hclu] at hback hbad
  have hgo := goOn_badBack 8 hback (mt (targetOk_aligned (s := s.leave) hm _).mp hbad)
  have hcommit := commit_error (boundaryGate_plain hl) (body := resNop h) rfl ((settle_fall 8 s.leave).trans (bind_error hgo))
  have hstep : exec (.nop h) s = issueN 8 false (resNop h) s := hs ▸ rfl
  rw [hstep, issueN_live hlive, hcommit, hclu]
  rfl
end

/-- Settles O12: the stack is walked from its innermost entry; a NOP's body does nothing, so that its cluster's next PC is all that is
left of it. -/
theorem loopEnds : Obligations.LoopEnds := by
  unfold Obligations.LoopEnds
  refine ⟨fun c a n => ⟨fun h => advance_empty h a n, fun l e h => ?_⟩, fun h s hlive hs hl hm => ?_⟩
  · exact ⟨advance_elsewhere h n, advance_again h n, advance_expired h n⟩
  · exact ⟨exec_nop_goes hlive hl hm hs, exec_nop_traps hlive hl hm hs⟩

/-! R129: the cluster after a taken transfer. -/

theorem clu_stamp (s : State) : s.stamp.clu = s.clu := by
  unfold State.stamp
  rw [clu_setRole]
  unfold State.clu
  cases s.cur.cl <;> rfl

theorem jumpFrom_clu (r : Role) (cl : Cluster) (a t : Word) (isCall : Bool) :
    ((jumpFrom r cl a t isCall).clu cl).pc = t ∧ ((jumpFrom r cl a t isCall).clu cl).loops =
      if isCall then (r.clu cl).loops else (loopExit a t (r.clu cl).loops.reverse).reverse := by
  unfold jumpFrom
  dsimp only
  split
  · split
    · rw [clu_setClu_same]
      exact ⟨rfl, rfl⟩
    · rw [clu_setClu_same]
      exact ⟨rfl, rfl⟩
  · rw [clu_setClu_same]
    exact ⟨rfl, rfl⟩

theorem clu_leave_unbound (s : State) : s.leave.clu = s.clu.unbound := by
  unfold State.leave
  rw [clu_setRole, clu_setClu_same]
  rfl
theorem pc_leave (s : State) : s.leave.clu.pc = s.clu.pc := by
  rw [clu_leave_unbound]
  rfl

theorem jumped_clu (s : State) (t : Word) (isCall : Bool) : (s.jumped t isCall).clu.pc = t ∧
    (s.jumped t isCall).clu.loops =
      if isCall then s.clu.loops else (loopExit s.clu.pc t s.clu.loops.reverse).reverse := by
  have hjump := jumpFrom_clu s.leave.curRole s.leave.cur.cl s.leave.clu.pc t isCall
  rw [show s.leave.curRole.clu s.leave.cur.cl = s.clu.unbound from clu_leave_unbound s] at hjump
  unfold State.jumped
  dsimp only
  rw [clu_stamp, clu_setRole, pc_leave] at *
  exact hjump

/-- Outside a loop record a transfer changes the loop stack and the PC alone. -/
theorem jumped_plain {s : State} (hl : s.clu.lrec = none) (t : Word) (isCall : Bool) :
    s.jumped t isCall = (s.setRole s.curKey (s.curRole.setClu s.cur.cl { s.clu with
      loops := if isCall then s.clu.loops else (loopExit s.clu.pc t s.clu.loops.reverse).reverse, pc := t })).stamp := by
  unfold State.jumped
  dsimp only
  rw [clu_leave hl, leave_plain hl, curRole_setRole, curKey_setRole, setRole_setRole]
  exact congrArg (fun r => (s.setRole s.curKey r).stamp) (jumpFrom_plain hl ..)

/-- Settles O13: the stack that is left is `loopExit` of the one before, innermost first; CALL keeps it. -/
theorem transferSettlesLoops : Obligations.TransferSettlesLoops := by
  unfold Obligations.TransferSettlesLoops
  intro s t
  obtain ⟨hpc, hloops⟩ := jumped_clu s t false
  obtain ⟨hpcCall, hloopsCall⟩ := jumped_clu s t true
  exact ⟨hloops, hpc, hloopsCall, hpcCall, fun hl => ⟨jumped_plain hl t false, jumped_plain hl t true⟩⟩

end Sys2Proof.Machine
end

section
/-! ### HALT, YIELD, TRAP and TFENCE (R131 to R134) -/
namespace Sys2Proof.Machine

/-- A ready syllable that transfers nothing leaves its boundary, and its cluster goes on. -/
theorem goOn_ready {n : Nat} {b : Bool} {s : State} (h : Ready n b s) : goOn s.clu.pc n s.leave =
    .ok ((), s.leave.setRole s.leave.curKey (fallFrom s.leave.curRole s.leave.cur.cl s.clu.pc n)) := by
  have hclu := clu_leave_unbound s
  have hbound := fallClu_unbound s.clu s.clu.pc n
  refine goOn_ok ?_ fun l hl hend => ?_
  · rw [hclu, advance_back]
    have honward := h.onward
    rwa [advance_back] at honward
  · rw [hclu] at hl hend ⊢
    obtain ⟨k, hk, rfl⟩ := Option.map_eq_some_iff.mp hl
    have hends := h.ends k hk
    rw [fallFrom_clu] at hends
    refine hbound.2.trans (hends ?_)
    rw [← Option.isNone_iff_eq_none] at hend ⊢
    exact hbound.1.symm.trans hend

/-- A ready syllable that goes on and then stops its role. -/
theorem issueN_stops {n : Nat} {b : Bool} {body : Iss Flow} {f : Flow} {s : State} {kind code : Nat} {i0 i1 : Word}
    (hr : Ready n b s) (hb : body s = .ok (f, s))
    (hs : settle n f s.leave = (do goOn s.clu.pc n; pure (some (kind, code, i0, i1)) : Iss Post) s.leave) :
    issueN n b body s = .next (takeStop (s.fell n) s.curKey kind code s.cur.cl i0 i1 none) := by
  have hcommit := commit_ok (gate_ok hr) hb (hs.trans (bind_ok (goOn_ready hr)))
  rw [issueN_ready hr, hcommit, State.fell, pc_leave]
  rfl

theorem resHalt_quiet {h : Hdr} {s : State} (ho : ownOpen s false = false) (hf : s.curRole.hasFault s.cur.cl = none) :
    resHalt h s = .ok (.halt, s) := by
  unfold resHalt
  rw [bind_ok (getSt_run s), ho, bind_ok (waitIf_false s), bind_ok (stopPoint_ok hf)]
  rfl
theorem resHalt_open {h : Hdr} {s : State} (ho : ownOpen s false = true) : resHalt h s = .error .wait := by
  unfold resHalt
  rw [bind_ok (getSt_run s), ho]
  exact bind_error (waitIf_true s)

theorem setWidth_ne_zero {f : Fl} : (f.setWidth 64 != 0) = decide (f ≠ 0) := by
  revert f
  decide

/-- TFENCE, with nothing outstanding, tests the flags against their enables. -/
theorem resTfence_quiet {h : Hdr} {s : State} (hg : Reads (guardS h) s true) (ho : ownOpen s true = false)
    (hf : s.curRole.hasFault s.cur.cl = none) (hsnap : s.curRole.snap = none) : resTfence h s =
      (do trapIf (decide (s.curRole.flags &&& s.curRole.flagen ≠ 0)) 0x20 ((s.curRole.flags &&& s.curRole.flagen).setWidth 64)
            s.curRole.ffrec
          pure .fall : Iss Flow) s := by
  have hcsr (n : Nat) : seenCsr s.curRole n = csrVal s.curRole n := by rw [seenCsr, hsnap]
  have hand : csrVal s.curRole 1 &&& csrVal s.curRole 2 = (s.curRole.flags &&& s.curRole.flagen).setWidth 64 :=
    BitVec.setWidth_and.symm
  unfold resTfence
  rw [bind_ok hg, if_pos rfl, bind_ok (getSt_run s), ho, bind_ok (waitIf_false s), bind_ok (stopPoint_ok hf),
    bind_ok (getRole_run s), hcsr, hcsr, hcsr, hand, setWidth_ne_zero]
  rfl

/-- Settles O14: HALT waits for its cluster's accesses; YIELD and TRAP go on before the stop is taken; TFENCE's test is on the role's own
flags, since no bundle runs. -/
theorem haltYieldTrapTfence : Obligations.HaltYieldTrapTfence := by
  unfold Obligations.HaltYieldTrapTfence
  refine ⟨fun h s hr ho hf => ?_, fun h s hr ho => issueN_wait hr (resHalt_open ho), fun h s hr hg => ⟨?_, fun n => ?_⟩,
    fun h s hr hg ho hf hsnap => ⟨fun hz => ?_, fun hz => ?_⟩⟩
  · exact issueN_settles hr (resHalt_quiet ho hf) rfl
  · exact issueN_stops hr (bind_ok hg) (by rw [← pc_leave]; exact bind_ok (getSt_run _))
  · exact issueN_stops hr (bind_ok hg) (by rw [← pc_leave]; exact bind_ok (getSt_run _))
  · refine issueN_falls hr ((resTfence_quiet hg ho hf hsnap).trans ?_) (SameClu.refl s)
    rw [hz]
    rfl
  · refine issueN_trap hr ((resTfence_quiet hg ho hf hsnap).trans (bind_error ?_))
    rw [decide_eq_true hz]
    rfl

end Sys2Proof.Machine
end

section
/-! ### The frame of the scalar, predicate and control syllables (R50, R57 to R61, R68, R136 to R144, R351) -/
namespace Sys2Proof.Machine

/-! What such a syllable leaves of its role, given what it names. -/

/-- X register, queue, predicate n is none that the syllable names. -/
def Writes.sparesX (w : Writes) (n : Nat) : Prop := (∀ m, w.dst = some (.x m) → m.toNat ≠ n) ∧ ∀ m, w.x = some m → m.toNat ≠ n
def Writes.sparesQ (w : Writes) (q : Nat) : Prop := (∀ m, w.dst = some (.q m) → m.toNat ≠ q) ∧ (some q, true) ∉ w.marks
def Writes.sparesP (w : Writes) (n : Nat) : Prop := ∀ m, w.p = some m → m.toNat ≠ n

/-- Of role r, whose cluster c issues, only what the syllable names differs, and what `Role.sameBut` lets differ. That no bundle begins,
and no loop record, makes the relation transitive. -/
structure Role.OnlyNamed (w : Writes) (c : Cluster) (r r' : Role) : Prop where
  same : r.sameBut r'
  alone : r.snap = none → r'.snap = none
  recless : (r.clu c).lrec = none → (r'.clu c).lrec = none
  xs : ∀ n, w.sparesX n → r'.x n = r.x n
  qs : ∀ q, w.sparesQ q → qList r'.qs q = qList r.qs q
  ps : (r.clu c).lrec = none → ∀ n, w.sparesP n → r'.p n = r.p n
  clus : ∀ d, d ≠ c → r'.clu d = r.clu d

theorem Role.sameBut.trans {r r' r'' : Role} (h : r.sameBut r') (ha : r.snap = none → r'.snap = none) (h' : r'.sameBut r'') :
    r.sameBut r'' := by
  obtain ⟨hacc, heq⟩ := h
  obtain ⟨hacc', heq'⟩ := h'
  refine ⟨fun hs => (hacc' (ha hs)).trans (hacc hs), ?_⟩
  rw [heq] at heq'
  exact heq'

namespace Role.OnlyNamed
variable {w : Writes} {c : Cluster} {r r' r'' : Role}

theorem refl (w : Writes) (c : Cluster) (r : Role) : r.OnlyNamed w c r :=
  ⟨⟨fun _ => rfl, rfl⟩, id, id, fun _ _ => rfl, fun _ _ => rfl, fun _ _ _ => rfl, fun _ _ => rfl⟩
theorem trans (h : r.OnlyNamed w c r') (h' : r'.OnlyNamed w c r'') : r.OnlyNamed w c r'' where
  same := h.same.trans h.alone h'.same
  alone hs := h'.alone (h.alone hs)
  recless hl := h'.recless (h.recless hl)
  xs n hn := (h'.xs n hn).trans (h.xs n hn)
  qs q hq := (h'.qs q hq).trans (h.qs q hq)
  ps hl n hn := (h'.ps (h.recless hl) n hn).trans (h.ps hl n hn)
  clus d hd := (h'.clus d hd).trans (h.clus d hd)

/-- An update that leaves X registers, queues, predicates and clusters alone. -/
theorem of_rest (hs : r.sameBut r') (ha : r.snap = none → r'.snap = none) (hx : r'.xs = r.xs) (hq : r'.qs = r.qs) (hp : r'.ps = r.ps)
    (hc : ∀ d, r'.clu d = r.clu d) : r.OnlyNamed w c r' where
  same := hs
  alone := ha
  recless hl := (hc c).symm ▸ hl
  xs n _ := by rw [Role.x, hx]; rfl
  qs q _ := by rw [hq]
  ps _ n _ := by rw [Role.p, hp]; rfl
  clus d _ := hc d

theorem overtake (w : Writes) (c : Cluster) (r : Role) (d : Dest) : r.OnlyNamed w c (r.overtake d) := by
  have heq := overtake_eq r d
  refine of_rest ⟨fun hs => ?_, by rw [heq]⟩ ?_ ?_ ?_ ?_ (clu_overtake r d)
  · rw [Role.overtake, hs]
  all_goals rw [heq]
  exact id

theorem setX {n : Nat} (hn : ∀ m, w.sparesX m → m ≠ n) (c : Cluster) (r : Role) (v : Word) : r.OnlyNamed w c (r.setX n v) where
  same := ⟨fun _ => rfl, rfl⟩
  alone := id
  recless hl := (clu_setX r n v c).symm ▸ hl
  xs m hm := (x_setX r n m v).trans (if_neg (hn m hm))
  qs _ _ := rfl
  ps _ _ _ := rfl
  clus d _ := clu_setX r n v d

theorem setP {n : Nat} (hn : ∀ m, w.sparesP m → m ≠ n) (c : Cluster) (r : Role) (v : Pred) : r.OnlyNamed w c (r.setP n v) := by
  by_cases h0 : n = 0
  · rw [Role.setP, if_pos h0]
    exact refl w c r
  · refine ⟨?_, ?_, fun hl => (clu_setP r n v c).symm ▸ hl, fun _ _ => ?_, fun _ _ => ?_,
      fun _ m hm => (p_setP h0 r m v).trans (if_neg (hn m hm)), fun d _ => clu_setP r n v d⟩
    all_goals rw [Role.setP, if_neg h0]
    · exact ⟨fun _ => rfl, rfl⟩
    · exact id
    · rfl

theorem setQ {q : Nat} (hq : ∀ j, w.sparesQ j → j ≠ q) (c : Cluster) (r : Role) (l : List QEnt) : r.OnlyNamed w c (r.setQ q l) where
  same := ⟨fun _ => rfl, rfl⟩
  alone := id
  recless hl := (clu_setQ r q l c).symm ▸ hl
  xs _ _ := rfl
  qs j hj := (qList_setQ r q j l).trans (if_neg (hq j hj))
  ps _ _ _ := rfl
  clus d _ := clu_setQ r q l d

/-- The role's own cluster moves: within a loop record its stage predicates may change with it (R216). -/
theorem moved {ps : SMap Pred} {x : Clu} (h : (r.clu c).lrec = none → ps = r.ps ∧ x.lrec = none) :
    r.OnlyNamed w c (({ r with ps := ps } : Role).setClu c x) where
  same := by cases c <;> exact ⟨fun _ => rfl, rfl⟩
  alone hs := (Role.setClu_snap ..).trans hs
  recless hl := by
    rw [clu_setClu_same]
    exact (h hl).2
  xs n _ := by rw [Role.x, Role.setClu_xs]; rfl
  qs q _ := by rw [Role.setClu_qs]
  ps hl n _ := by rw [Role.p, Role.setClu_ps, (h hl).1]; rfl
  clus d hd := (clu_setClu_other _ _ _ _ hd).trans (by cases d <;> rfl)
theorem setClu {x : Clu} (h : (r.clu c).lrec = none → x.lrec = none) : r.OnlyNamed w c (r.setClu c x) :=
  moved fun hl => ⟨rfl, h hl⟩

end Role.OnlyNamed

/-! How a cluster goes on: within a loop record with its stage predicates, otherwise by itself (R128, R129, R131, R216). -/

theorem foldP_eq (l : List Nat) (f : Nat → Nat) (g : Nat → Pred) (r : Role) :
    ∃ ps, l.foldl (fun r x => r.setP (f x) (g x)) r = { r with ps := ps } := by
  induction l generalizing r with
  | nil => exact ⟨r.ps, rfl⟩
  | cons x t ih =>
    obtain ⟨ps, hps⟩ := ih (r.setP (f x) (g x))
    refine ⟨ps, hps.trans ?_⟩
    unfold Role.setP
    split <;> rfl
theorem setStages_eq (r : Role) (l : LRec) (i : Nat) : ∃ ps, setStages r l i = { r with ps := ps } := foldP_eq ..
theorem clearStages_eq (r : Role) (l : LRec) : ∃ ps, clearStages r l = { r with ps := ps } := foldP_eq ..

section
variable (w : Writes) {c : Cluster} {r : Role}

theorem onlyNamed_clearStages (hl : (r.clu c).lrec ≠ none) (l : LRec) (x : Clu) : r.OnlyNamed w c ((clearStages r l).setClu c x) := by
  obtain ⟨ps, hps⟩ := clearStages_eq r l
  rw [hps]
  exact .moved fun h => absurd h hl
theorem onlyNamed_setStages (hl : (r.clu c).lrec ≠ none) (l : LRec) (i : Nat) (x : Clu) : r.OnlyNamed w c ((setStages r l i).setClu c x) := by
  obtain ⟨ps, hps⟩ := setStages_eq r l i
  rw [hps]
  exact .moved fun h => absurd h hl

theorem onlyNamed_partEnd (hl : (r.clu c).lrec ≠ none) (l : LRec) : r.OnlyNamed w c (partEnd r c l) := by
  have hepi (b : Bool) : r.OnlyNamed w c (enterEpilogue r c l b) := by
    unfold enterEpilogue
    split
    · exact onlyNamed_clearStages w hl l _
    · exact .setClu fun h => absurd h hl
  unfold partEnd
  cases l.part
  · dsimp only
    split
    · exact onlyNamed_setStages w hl l _ _
    · exact hepi _
  · dsimp only
    split
    · exact onlyNamed_setStages w hl l _ _
    · exact hepi _
  · exact onlyNamed_clearStages w hl l _

theorem onlyNamed_fallFrom (c : Cluster) (r : Role) (a : Word) (n : Nat) : r.OnlyNamed w c (fallFrom r c a n) := by
  have hkeeps := advance_keeps (r.clu c) a n
  have hset : r.OnlyNamed w c (r.setClu c ((r.clu c).advance a n).1) := .setClu fun h => hkeeps.trans h
  unfold fallFrom
  dsimp only
  rcases hl : ((r.clu c).advance a n).1.lrec with _ | l
  · exact hset
  · dsimp only
    split
    · refine hset.trans (onlyNamed_partEnd w ?_ l)
      rw [clu_setClu_same, hl]
      nofun
    · exact hset

theorem onlyNamed_jumpFrom (c : Cluster) (r : Role) (a t : Word) (isCall : Bool) : r.OnlyNamed w c (jumpFrom r c a t isCall) := by
  unfold jumpFrom
  dsimp only
  rcases hl : (r.clu c).lrec with _ | l
  · exact .setClu fun _ => rfl
  · have hrec : (r.clu c).lrec ≠ none := by rw [hl]; nofun
    dsimp only
    split
    · exact .setClu fun h => absurd h hrec
    · exact onlyNamed_clearStages w hrec l _

theorem onlyNamed_haltClu (c : Cluster) (r : Role) : r.OnlyNamed w c (haltClu r c) := by
  unfold haltClu
  dsimp only
  rcases hl : (r.clu c).lrec with _ | l
  · exact .setClu fun _ => rfl
  · have hrec : (r.clu c).lrec ≠ none := by rw [hl]; nofun
    exact onlyNamed_clearStages w hrec l _
end

/-! The state around the role. -/

/-- A syllable that names w leaves all of s as it was but its role, of which it leaves what `Role.OnlyNamed` says. -/
def OnlyNamed (w : Writes) (s t : State) : Prop := s.onlyRole t ∧ s.curRole.OnlyNamed w s.cur.cl t.curRole

theorem State.onlyRole.cur {s t : State} (h : s.onlyRole t) : t.cur = s.cur := by rw [h.1]
theorem State.onlyRole.curKey {s t : State} (h : s.onlyRole t) : t.curKey = s.curKey := by
  unfold State.curKey
  rw [h.cur]
theorem State.onlyRole.trans {s t u : State} (h : s.onlyRole t) (h' : t.onlyRole u) : s.onlyRole u := by
  refine ⟨?_, fun k hk => (h'.2 k (h.curKey ▸ hk)).trans (h.2 k hk)⟩
  have hu := h'.1
  rw [h.1] at hu
  exact hu

theorem OnlyNamed.refl (w : Writes) (s : State) : OnlyNamed w s s := ⟨⟨rfl, fun _ _ => rfl⟩, .refl ..⟩
theorem OnlyNamed.trans {w : Writes} (s t u : State) (h : OnlyNamed w s t) (h' : OnlyNamed w t u) : OnlyNamed w s u := by
  refine ⟨h.1.trans h'.1, h.2.trans ?_⟩
  rw [← h.1.cur]
  exact h'.2
theorem onlyNamed_setRole {w : Writes} {s : State} {r : Role} (h : s.curRole.OnlyNamed w s.cur.cl r) :
    OnlyNamed w s (s.setRole s.curKey r) :=
  ⟨⟨rfl, fun _ hk => role_setRole_other _ _ _ _ hk⟩, by rwa [curRole_setRole]⟩

/-! Steps of an issuing syllable. -/

section
variable {w : Writes}

theorem onlyNamed_of_pure {α : Type} {m : Iss α} (h : Pure m) : Keeps (OnlyNamed w) m := by
  intro s a t e
  rw [h _ _ _ e]
  exact .refl w s
theorem OnlyNamed.bind {α β : Type} {m : Iss α} {f : α → Iss β} (h1 : Keeps (OnlyNamed w) m) (h2 : ∀ a, Keeps (OnlyNamed w) (f a)) :
    Keeps (OnlyNamed w) (m >>= f) := Keeps.bind OnlyNamed.trans h1 h2
/-- After a step that only looks. -/
theorem OnlyNamed.after {α β : Type} {m : Iss α} {f : α → Iss β} (h1 : Pure m) (h2 : ∀ a, Keeps (OnlyNamed w) (f a)) :
    Keeps (OnlyNamed w) (m >>= f) := OnlyNamed.bind (onlyNamed_of_pure h1) h2
theorem onlyNamed_modRole {f : Role → Role} (h : ∀ (c : Cluster) (r : Role), r.OnlyNamed w c (f r)) : Keeps (OnlyNamed w) (modRole f) := by
  intro s a t e
  cases e
  exact onlyNamed_setRole (h ..)
theorem onlyNamed_modClu {f : Clu → Clu} (h : ∀ c, c.lrec = none → (f c).lrec = none) : Keeps (OnlyNamed w) (modClu f) := by
  intro s a t e
  cases e
  exact onlyNamed_setRole (.setClu (h _))

theorem onlyNamed_wrX {n : Nat} (hn : ∀ m, w.sparesX m → m ≠ n) (v : Word) : Keeps (OnlyNamed w) (wrX n v) :=
  OnlyNamed.after (pure_chkDest _) fun _ => onlyNamed_modRole fun c r => (Role.OnlyNamed.overtake w c r _).trans (.setX hn c _ v)
theorem onlyNamed_wrP {n : Nat} (hn : ∀ m, w.sparesP m → m ≠ n) (v : Pred) : Keeps (OnlyNamed w) (wrP n v) :=
  OnlyNamed.after (pure_chkDest _) fun _ => onlyNamed_modRole fun c r => (Role.OnlyNamed.overtake w c r _).trans (.setP hn c _ v)
theorem onlyNamed_qPush {q : Nat} (hq : ∀ j, w.sparesQ j → j ≠ q) (v : Row) : Keeps (OnlyNamed w) (qPush q v) :=
  OnlyNamed.after (pure_qRoom _) fun _ => OnlyNamed.after pure_pushOrdered fun _ => OnlyNamed.after pure_getSt fun _ =>
    onlyNamed_modRole fun c r => .setQ hq c r _
theorem onlyNamed_wrS {d : SDst} (hd : w.dst = some d) (v : Word) : Keeps (OnlyNamed w) (wrS d v) := by
  cases d with
  | x n => exact onlyNamed_wrX (fun m hm => (hm.1 n hd).symm) v
  | q n => exact onlyNamed_qPush (fun j hj => (hj.1 n hd).symm) _
theorem onlyNamed_wrS0 {d : SDst} (hd : w.dst = some d) : Keeps (OnlyNamed w) (wrS0 d) := by
  cases d with
  | x n => exact onlyNamed_of_pure (pure_pure _)
  | q n => exact onlyNamed_qPush (fun j hj => (hj.1 n hd).symm) _
theorem onlyNamed_popAll {l : List Nat} (hl : ∀ q ∈ l, ∀ j, w.sparesQ j → j ≠ q) : Keeps (OnlyNamed w) (popAll l) := by
  induction l with
  | nil => exact onlyNamed_of_pure (pure_pure _)
  | cons q t ih =>
    exact OnlyNamed.bind (onlyNamed_modRole fun c r => .setQ (hl q List.mem_cons_self) c r _) fun _ =>
      ih fun j hj => hl j (List.mem_cons_of_mem q hj)
theorem onlyNamed_popMarks : Keeps (OnlyNamed w) (popMarks w.marks) :=
  onlyNamed_popAll fun _ hq _ hj hjq => hj.2 (hjq ▸ (mem_marked ..).mp hq)
theorem onlyNamed_raiseI (row lane : Nat) (fl : Fl) : Keeps (OnlyNamed w) (raiseI row lane fl) := by
  unfold raiseI
  split
  · exact onlyNamed_of_pure (pure_pure _)
  · intro s a t e
    cases e
    refine onlyNamed_setRole ?_
    split
    · exact .of_rest ⟨fun _ => rfl, rfl⟩ id rfl rfl rfl (clu_raiseAt _ _ _ _ _ _)
    · next hs =>
      exact .of_rest ⟨fun _ => rfl, rfl⟩ (fun h => nomatch hs.symm.trans h) rfl rfl rfl fun d => by cases d <;> rfl

/-! The gates, the choice of the next PC, and stops. -/

theorem onlyNamed_goOn (a : Word) (n : Nat) : Keeps (OnlyNamed w) (goOn a n) := by
  intro s b t h
  obtain ⟨s0, s1, hst, h⟩ := bind_split h
  cases hst
  obtain ⟨_, s1, hchk, h⟩ := bind_split h
  cases pure_chkBack _ _ _ _ hchk
  have hend : t = s.setRole s.curKey (fallFrom s.curRole s.cur.cl a n) := by
    split at h
    · obtain ⟨_, s1, hrec, h⟩ := bind_split h
      cases pure_chkRecEnd _ _ _ _ _ hrec
      cases h
      rfl
    · cases h
      rfl
  rw [hend]
  exact onlyNamed_setRole (onlyNamed_fallFrom ..)

/-- But for LREC, a cluster that settles leaves its role's registers alone, save for the stage predicates of its loop record. -/
theorem onlyNamed_settle (n : Nat) {f : Flow} (hf : ∀ l, f ≠ .lrec l) : Keeps (OnlyNamed w) (settle n f) := by
  have hjump (s : State) (t : Word) (isCall : Bool) {p : Post} {u : State}
      (h : (do chkTarget t; modRole (fun r => jumpFrom r s.cur.cl s.clu.pc t isCall); pure none : Iss Post) s = .ok (p, u)) :
      OnlyNamed w s u := by
    obtain ⟨_, s1, hchk, h⟩ := bind_split h
    cases pure_chkTarget _ _ _ _ hchk
    cases h
    exact onlyNamed_setRole (onlyNamed_jumpFrom ..)
  have hgo (a : Word) (k : Nat) (p : Post) : Keeps (OnlyNamed w) (do goOn a k; pure p : Iss Post) :=
    OnlyNamed.bind (onlyNamed_goOn a k) fun _ => onlyNamed_of_pure (pure_pure p)
  intro s p t h
  obtain ⟨s0, s1, hst, h⟩ := bind_split h
  cases hst
  cases f with
  | fall => exact hgo _ _ _ _ _ _ h
  | skip e => exact hgo _ _ _ _ _ _ h
  | jump t => exact hjump s t false h
  | call t => exact hjump s t true h
  | halt =>
    cases h
    refine onlyNamed_setRole ((onlyNamed_haltClu w s.cur.cl s.curRole).trans ?_)
    dsimp only
    split
    · exact .of_rest ⟨fun _ => rfl, rfl⟩ id rfl rfl rfl fun d => by cases d <;> rfl
    · exact .refl ..
  | yield => exact hgo _ _ _ _ _ _ h
  | soft k => exact hgo _ _ _ _ _ _ h
  | lrec l => exact absurd rfl (hf l)

theorem onlyNamed_takeStop (s : State) (kind code : Nat) (cl : Cluster) (i0 i1 : Word) (acc : Option Nat) :
    OnlyNamed w s (takeStop s s.curKey kind code cl i0 i1 acc) := by
  unfold takeStop
  dsimp only
  have hstop {r : Role} (info : StopInfo) (b : Bool) : r.OnlyNamed w s.cur.cl { r with
      st := .stopped, stop := some info, lastcode := BitVec.ofNat 8 code, stopReq := none, snap := none, frozen := b } :=
    .of_rest ⟨fun _ => rfl, rfl⟩ (fun _ => rfl) rfl rfl rfl fun d => by cases d <;> rfl
  split
  · exact OnlyNamed.trans _ _ _ (onlyNamed_setRole (hstop ..)) ⟨⟨rfl, fun _ _ => rfl⟩, .refl ..⟩
  · exact onlyNamed_setRole (hstop ..)
theorem onlyNamed_deferredAt (s : State) (cl : Cluster) (id : Nat) : OnlyNamed w s (deferredAt s s.curKey cl id) := by
  unfold deferredAt
  dsimp only
  split
  · exact onlyNamed_takeStop ..
  · exact .refl w s
theorem onlyNamed_applyPost (s : State) (cl : Cluster) (p : Post) : OnlyNamed w s (applyPost s s.curKey cl p) := by
  unfold applyPost
  split
  · exact .refl w s
  · exact onlyNamed_takeStop ..
end

/-- A body that keeps to what its syllable names, and begins no loop record. -/
def NamedBody (w : Writes) (body : Iss Flow) : Prop :=
  ∀ s f t, body s = .ok (f, t) → OnlyNamed w s t ∧ ∀ l, f ≠ .lrec l

theorem NamedBody.commit {w : Writes} {body : Iss Flow} (h : NamedBody w body) (n : Nat) : Keeps (OnlyNamed w) (commit n body) := by
  intro s p t hrun
  unfold Machine.commit at hrun
  obtain ⟨_, s0, hgate, hrun⟩ := bind_split hrun
  cases pure_boundaryGate _ _ _ hgate
  obtain ⟨f, u, hbody, hrun⟩ := bind_split hrun
  obtain ⟨hu, hf⟩ := h _ _ _ hbody
  have hrest : Keeps (OnlyNamed w) (do
      modClu (fun c => { c with lrec := c.lrec.map (fun l => { l with boundary := false }) })
      let p ← settle n f
      modSt (fun s => s.setRole s.curKey { s.curRole with lastAct := s.cycle })
      pure p : Iss Post) :=
    OnlyNamed.bind (onlyNamed_modClu fun c hl => by rw [hl]; rfl) fun _ => OnlyNamed.bind (onlyNamed_settle n hf) fun _ =>
      OnlyNamed.bind (fun s _ t e => by
        cases e
        exact onlyNamed_setRole (.of_rest ⟨fun _ => rfl, rfl⟩ id rfl rfl rfl fun d => by cases d <;> rfl))
        fun _ => onlyNamed_of_pure (pure_pure _)
  exact hu.trans _ _ _ (hrest _ _ _ hrun)

theorem NamedBody.issue {w : Writes} {body : Iss Flow} (h : NamedBody w body) {n : Nat} {b : Bool} {s t : State}
    (hrun : issueN n b body s = .next t) : OnlyNamed w s t := by
  unfold issueN at hrun
  split at hrun
  · cases hrun
  · split at hrun
    · next p u hcommit =>
      cases hrun
      refine OnlyNamed.trans _ _ _ ?_ (onlyNamed_applyPost ..)
      cases b
      · exact h.commit n _ _ _ hcommit
      · obtain ⟨_, s0, hgate, hcommit⟩ := bind_split hcommit
        cases pure_syncGate _ _ _ _ hgate
        exact h.commit n _ _ _ hcommit
    · cases hrun
      exact .refl w s
    · cases hrun
      exact onlyNamed_takeStop ..
    · cases hrun
      exact onlyNamed_deferredAt ..

/-! The shapes of bodies. -/

section
variable {w : Writes}

theorem NamedBody.pure {f : Flow} (hf : ∀ l, f ≠ .lrec l) : NamedBody w (Pure.pure f) := by
  intro s g t h
  cases h
  exact ⟨.refl w s, hf⟩
theorem NamedBody.bind {α : Type} {m : Iss α} {f : α → Iss Flow} (h1 : Keeps (OnlyNamed w) m) (h2 : ∀ a, NamedBody w (f a)) :
    NamedBody w (m >>= f) := by
  intro s g t h
  obtain ⟨a, u, hm, hf⟩ := bind_split h
  obtain ⟨hu, hg⟩ := h2 a _ _ _ hf
  exact ⟨.trans _ _ _ (h1 _ _ _ hm) hu, hg⟩
/-- After a step that only looks. -/
theorem NamedBody.after {α : Type} {m : Iss α} {f : α → Iss Flow} (h1 : Machine.Pure m) (h2 : ∀ a, NamedBody w (f a)) :
    NamedBody w (m >>= f) := .bind (onlyNamed_of_pure h1) h2
theorem NamedBody.fall : NamedBody w (Pure.pure .fall) := .pure fun _ => nofun
/-- A last step, after which nothing is transferred. -/
theorem NamedBody.falls {m : Iss Unit} (h : Keeps (OnlyNamed w) m) : NamedBody w (do m; Pure.pure .fall) := .bind h fun _ => .fall
theorem NamedBody.ite {p : Prop} [Decidable p] {m m' : Iss Flow} (h : NamedBody w m) (h' : NamedBody w m') :
    NamedBody w (if p then m else m') := by
  split
  · exact h
  · exact h'

section
variable {ms : List Mk} (hms : ms = w.marks)
include hms

theorem namedBody_scalarOp (h : Hdr) {d : SDst} (hd : w.dst = some d) {f : Iss Word} (hf : Keeps (OnlyNamed w) f) :
    NamedBody w (scalarOp h ms d f) := by
  subst hms
  exact .after (pure_guardS h) fun g => by
    cases g
    · exact .after (pure_needHeads _) fun _ => .bind onlyNamed_popMarks fun _ => .falls (onlyNamed_wrS0 hd)
    · exact .bind hf fun _ => .bind onlyNamed_popMarks fun _ => .falls (onlyNamed_wrS hd _)
theorem namedBody_guarded (h : Hdr) {f : Iss Unit} (hf : Keeps (OnlyNamed w) f) : NamedBody w (guarded h ms f) := by
  subst hms
  exact .after (pure_guardS h) fun g => by
    cases g
    · exact .after (pure_needHeads _) fun _ => .falls onlyNamed_popMarks
    · exact .bind hf fun _ => .falls onlyNamed_popMarks
end

theorem sparesX_ne {x : BitVec 5} (hx : w.x = some x) : ∀ m, w.sparesX m → m ≠ x.toNat := fun _ hm => (hm.2 x hx).symm
theorem sparesP_ne {p : BitVec 7} (hp : w.p = some p) : ∀ m, w.sparesP m → m ≠ p.toNat := fun _ hm => (hm p hp).symm
end

/-! Control. -/

section
variable (w : Writes)

theorem namedBody_branchIf (h : Hdr) (ms : List Mk) {test : Iss Bool} (ht : Pure test) (off : BitVec 28) :
    NamedBody w (branchIf h ms test off) :=
  .after (pure_guardS h) fun g => by
    cases g
    · exact .after (pure_needHeads _) fun _ => .fall
    · exact .after ht fun t => .after pure_pcI fun _ => .pure fun _ => by cases t <;> nofun
theorem namedBody_jumpTo (h : Hdr) (a : SSrc) (off : BitVec 28) : NamedBody w (jumpTo h a off) :=
  .after (pure_guardS h) fun g => by
    cases g
    · exact .after (pure_needHeads _) fun _ => .fall
    · exact .after (pure_rdS a) fun _ => .pure fun _ => nofun
theorem namedBody_loopWith (c : Word) (off : BitVec 28) : NamedBody w (loopWith c off) :=
  .after pure_getSt fun _ => .after pure_getClu fun _ => .after (pure_trapIf _ _ _ _) fun _ =>
    .ite (.pure fun _ => nofun) (.after pure_sylWord fun _ => .after (pure_trapIf _ _ _ _) fun _ =>
      .falls (onlyNamed_modClu fun _ hl => hl))
theorem namedBody_resLoop (h : Hdr) (a : SSrc) (off : BitVec 28) : NamedBody w (resLoop h a off) :=
  .after (pure_guardS h) fun g => by
    cases g
    · exact .after (pure_needHeads _) fun _ => .fall
    · exact .after (pure_rdS a) fun _ => namedBody_loopWith w _ _
theorem namedBody_resLoopi (h : Hdr) (n : BitVec 16) (off : BitVec 28) : NamedBody w (resLoopi h n off) :=
  .after (pure_guardS h) fun _ => .ite (namedBody_loopWith w _ _) .fall
theorem namedBody_resCall {x : BitVec 5} (hx : w.x = some x) (h : Hdr) (off : BitVec 28) : NamedBody w (resCall h x off) :=
  .after (pure_guardS h) fun g => by
    cases g
    · exact .fall
    · exact .after pure_pcI fun _ => .bind (onlyNamed_wrX (sparesX_ne hx) _) fun _ => .pure fun _ => nofun
theorem namedBody_resHalt (h : Hdr) : NamedBody w (resHalt h) :=
  .after pure_getSt fun _ => .after (pure_waitIf _) fun _ => .after pure_stopPoint fun _ => .pure fun _ => nofun
/-- YIELD and TRAP ask for a stop under their guard. -/
theorem namedBody_asks (h : Hdr) {f : Flow} (hf : ∀ l, f ≠ .lrec l) :
    NamedBody w (do let g ← guardS h; pure (if g then f else .fall)) :=
  .after (pure_guardS h) fun g => .pure fun l => by
    cases g
    · nofun
    · exact hf l
theorem namedBody_resTfence (h : Hdr) : NamedBody w (resTfence h) :=
  .after (pure_guardS h) fun _ => .ite (.after pure_getSt fun _ => .after (pure_waitIf _) fun _ => .after pure_stopPoint fun _ =>
    .after pure_getRole fun _ => .after (pure_trapIf _ _ _ _) fun _ => .fall) .fall
end

/-! Results: what is computed only reads, save that a result with flags raises them. -/

theorem pure_readOne (a : SSrc) (f : Word → Word) : Pure (do let x ← rdS a; pure (f x)) :=
  (pure_rdS a).bind fun _ => pure_pure _
theorem pure_readTwo (a b : SSrc) (f : Word → Word → Word) : Pure (do let x ← rdS a; let y ← rdS b; pure (f x y)) :=
  (pure_rdS a).bind fun _ => pure_readOne b _
theorem pure_readThree (a b c : SSrc) (f : Word → Word → Word → Word) :
    Pure (do let x ← rdS a; let y ← rdS b; let z ← rdS c; pure (f x y z)) :=
  (pure_rdS a).bind fun _ => pure_readTwo b c _
theorem onlyNamed_flagged (w : Writes) (fl : Fl) (v : Word) : Keeps (OnlyNamed w) (do raiseI 255 0 fl; pure v) :=
  OnlyNamed.bind (onlyNamed_raiseI _ _ _) fun _ => onlyNamed_of_pure (pure_pure _)

/-- R136 to R144: each body writes what its syllable names. -/
theorem scalar_body {i : Instr} {w : Writes} (hw : scalarWrites i = some w) :
    ∃ n b body, issueOf i = some (n, b, body) ∧ NamedBody w body := by
  cases i <;> cases hw <;> refine ⟨_, _, _, rfl, ?_⟩
  case nop | hint | hint7F => exact .fall
  case br => exact namedBody_branchIf _ _ _ (pure_pure _) _
  case brpAny | brpAll | brpNone => exact namedBody_branchIf _ _ _ ((pure_rdP _).bind fun _ => pure_pure _) _
  case brx => exact namedBody_branchIf _ _ _ ((pure_rdS _).bind fun _ => (pure_rdS _).bind fun _ => pure_pure _) _
  case call => exact namedBody_resCall _ rfl _ _
  case ret | jmpx => exact namedBody_jumpTo _ _ _ _
  case loop => exact namedBody_resLoop _ _ _ _
  case loopi => exact namedBody_resLoopi _ _ _ _
  case halt => exact namedBody_resHalt _ _
  case yield | trap => exact namedBody_asks _ _ fun _ => nofun
  case tfence => exact namedBody_resTfence _ _
  case add | sub | mul | mulh | mulhu | and | or | xor | andn | shl | shr | sar | rol | ror | min | max | minu | maxu | sext | zext =>
    exact namedBody_scalarOp rfl _ rfl (onlyNamed_of_pure (pure_readTwo _ _ _))
  case madd | sel | msub => exact namedBody_scalarOp rfl _ rfl (onlyNamed_of_pure (pure_readThree _ _ _ _))
  case clz | ctz | popc => exact namedBody_scalarOp rfl _ rfl (onlyNamed_of_pure (pure_readOne _ _))
  case div | divu | rem | remu | adds | subs =>
    exact namedBody_scalarOp rfl _ rfl (OnlyNamed.after (pure_rdS _) fun _ => OnlyNamed.after (pure_rdS _) fun _ =>
      onlyNamed_flagged _ _ _)
  case aluiAdd | aluiMul | aluiAnd | aluiOr | aluiXor | aluiShl | aluiShr | aluiSar | aluiRol | aluiRor | aluiMin | aluiMax |
      aluiMinu | aluiMaxu | lea => exact namedBody_scalarOp rfl _ rfl (onlyNamed_of_pure (pure_readOne _ _))
  case aluiAdds =>
    exact namedBody_scalarOp rfl _ rfl (OnlyNamed.after (pure_rdS _) fun _ => onlyNamed_flagged _ _ _)
  case movk => exact namedBody_guarded rfl _ (onlyNamed_wrX (sparesX_ne rfl) _)
  case movkh => exact namedBody_guarded rfl _ (OnlyNamed.after (pure_rdX _) fun _ => onlyNamed_wrX (sparesX_ne rfl) _)
  case cmp =>
    exact namedBody_guarded rfl _ (OnlyNamed.after (pure_rdS _) fun _ => OnlyNamed.after (pure_rdS _) fun _ =>
      onlyNamed_wrP (sparesP_ne rfl) _)
  case pand | por | pxor | pandn =>
    exact namedBody_guarded rfl _ (OnlyNamed.after (pure_rdP _) fun _ => OnlyNamed.after (pure_rdP _) fun _ =>
      onlyNamed_wrP (sparesP_ne rfl) _)
  case pnot | pmov => exact namedBody_guarded rfl _ (OnlyNamed.after (pure_rdP _) fun _ => onlyNamed_wrP (sparesP_ne rfl) _)
  case psetx =>
    exact namedBody_guarded rfl _ (OnlyNamed.after (pure_rdS _) fun _ => OnlyNamed.after (pure_rdS _) fun _ =>
      OnlyNamed.after (pure_rdP _) fun _ => onlyNamed_wrP (sparesP_ne rfl) _)
  case pgetx => exact namedBody_scalarOp rfl _ rfl (onlyNamed_of_pure ((pure_rdP _).bind fun _ => pure_readOne _ _))
  case pcnt | pfirst | plast => exact namedBody_scalarOp rfl _ rfl (onlyNamed_of_pure ((pure_rdP _).bind fun _ => pure_pure _))
  case qlen => exact namedBody_scalarOp rfl _ rfl (onlyNamed_of_pure (pure_getSt.bind fun _ => pure_pure _))
  case rdtime => exact namedBody_scalarOp rfl _ rfl (onlyNamed_of_pure (pure_getSt.bind fun _ => (pure_waitIf _).bind fun _ => pure_pure _))

/-- Settles O8: a syllable waits, stops its role, or commits a body that keeps to what it names and begins no loop record; what the
cluster does besides is its own, with the stage predicates of a record that it runs. -/
theorem scalarFrame : Obligations.ScalarFrame := by
  unfold Obligations.ScalarFrame
  intro i w s t hw hx
  obtain ⟨n, b, body, hi, hbody⟩ := scalar_body hw
  rw [exec_issueOf hi] at hx
  obtain ⟨honly, hrole⟩ := hbody.issue hx
  exact ⟨honly, hrole.same, fun m hd hm => hrole.xs m ⟨hd, hm⟩, fun q hd hm => hrole.qs q ⟨hd, hm⟩, hrole.ps, hrole.clus⟩

end Sys2Proof.Machine
end

section
/-! ### Vector results, lane by lane (R145 to R149) -/
namespace Sys2Proof.Machine

/-- R145 to R149: a ready syllable of the shape of a row result makes its row and goes on. -/
theorem issue_rowOp {h : Hdr} {ty : ETy} {srcs : List (RSrc × Bool)} {d : RDst} {lanes : Iss (List (Nat × Fl))}
    {rs : List (Nat × Fl)} {s t : State} (hready : Ready 8 h.s s) (hr : ∀ a ∈ srcs, ∃ v, Reads (rdR a.1) s v)
    (hl : Reads lanes s rs) (hdone : RowDone h ty srcs d rs s t) : issue h (rowOp h ty srcs d lanes) s = .next (t.fell 8) := by
  obtain ⟨hbody, hclu⟩ := rowOp_done hr hl hdone
  exact issueN_falls hready hbody hclu

/-- A scalar source that can be read can be read as a row source. -/
theorem reads_rdR_scalar {x : SSrc} {s : State} {w : Word} (h : Reads (rdS x) s w) : ∃ v, Reads (rdR (.sc x)) s v := by
  cases x with
  | k c => exact ⟨_, rfl⟩
  | sp p => exact ⟨_, rfl⟩
  | x n => exact ⟨_, bind_ok h⟩
  | q n => exact ⟨_, bind_ok h⟩

/-! The sources of a row, each of which has been read. -/

theorem sources_one {a : RSrc × Bool} {s : State} (ha : ∃ v, Reads (rdR a.1) s v) : ∀ x ∈ [a], ∃ v, Reads (rdR x.1) s v :=
  List.forall_mem_singleton.mpr ha
theorem sources_two {a b : RSrc × Bool} {s : State} (ha : ∃ v, Reads (rdR a.1) s v) (hb : ∃ v, Reads (rdR b.1) s v) :
    ∀ x ∈ [a, b], ∃ v, Reads (rdR x.1) s v := List.forall_mem_cons.mpr ⟨ha, sources_one hb⟩
theorem sources_three {a b c : RSrc × Bool} {s : State} (ha : ∃ v, Reads (rdR a.1) s v) (hb : ∃ v, Reads (rdR b.1) s v)
    (hc : ∃ v, Reads (rdR c.1) s v) : ∀ x ∈ [a, b, c], ∃ v, Reads (rdR x.1) s v := List.forall_mem_cons.mpr ⟨ha, sources_two hb hc⟩

theorem issue_vec1 {h : Hdr} {o : V1} {f : RowVal → Nat → Nat × Fl} {s t : State} {a : RowVal} (hready : Ready 8 h.s s)
    (ha : Reads (rdR o.a.src) s a) (hdone : RowDone h o.ty [mr o.a] o.d ((List.range o.ty.lanes).map (f a)) s t) :
    issue h (vec1 h o f) s = .next (t.fell 8) :=
  issue_rowOp hready (sources_one ⟨a, ha⟩) (bind_ok ha) hdone
theorem issue_vec2 {h : Hdr} {o : V2} {f : RowVal → RowVal → Nat → Nat × Fl} {s t : State} {a b : RowVal} (hready : Ready 8 h.s s)
    (ha : Reads (rdR o.a.src) s a) (hb : Reads (rdR o.b.src) s b)
    (hdone : RowDone h o.ty [mr o.a, mr o.b] o.d ((List.range o.ty.lanes).map (f a b)) s t) :
    issue h (vec2 h o f) s = .next (t.fell 8) :=
  issue_rowOp hready (sources_two ⟨a, ha⟩ ⟨b, hb⟩) ((bind_ok ha).trans (bind_ok hb)) hdone
theorem issue_vec3 {h : Hdr} {o : V3} {f : RowVal → RowVal → RowVal → Nat → Nat × Fl} {s t : State} {a b c : RowVal}
    (hready : Ready 8 h.s s) (ha : Reads (rdR o.a.src) s a) (hb : Reads (rdR o.b.src) s b) (hc : Reads (rdR o.c.src) s c)
    (hdone : RowDone h o.ty [mr o.a, mr o.b, cr o.c] o.d ((List.range o.ty.lanes).map (f a b c)) s t) :
    issue h (vec3 h o f) s = .next (t.fell 8) :=
  issue_rowOp hready (sources_three ⟨a, ha⟩ ⟨b, hb⟩ ⟨c, hc⟩) ((bind_ok ha).trans ((bind_ok hb).trans (bind_ok hc))) hdone

end Sys2Proof.Machine
end

section
/-! ### VARITH on integer lanes (R137, R146, R150, R152, R153) -/
namespace Sys2Proof.Machine

/-- A table's function on lane i: the exact value modulo the lane width, and its flags. -/
def intLane (f : Nat → Int → Int → Int × Fl) (ty : ETy) (a b : RowVal) (i : Nat) : Nat × Fl :=
  let r := f ty.bits (laneInt ty a i) (laneInt ty b i)
  (uintOf ty.bits r.1, r.2)

/-- A signed result of w bits as a lane takes it. -/
def asLane (w : Nat) (r : Int × Fl) : Nat × Fl := (uintOf w r.1, r.2)

theorem uintOf_zero (w : Nat) : uintOf w 0 = 0 := by simp [uintOf]

/-- R137: the quotient, with its edge cases. -/
theorem divS_eq (w : Nat) (x y : Int) : divS w x y = asLane w (if y = 0 then (0, if x = 0 then fIV else fDZ)
    else if x = -2 ^ (w - 1) ∧ y = -1 then (x, fOF) else (Int.tdiv x y, 0)) := by
  unfold divS
  by_cases hy : y = 0
  · simp only [if_pos hy, asLane, uintOf_zero]
  · by_cases ho : x = -2 ^ (w - 1) ∧ y = -1
    · rw [if_neg hy, if_neg hy, if_pos ho, if_pos (by simp [ho])]
      rfl
    · rw [if_neg hy, if_neg hy, if_neg ho, if_neg (by simpa using ho)]
      rfl

/-- R28: a value that w bits do not hold is clamped. -/
theorem clampS_eq (w : Nat) (x : Int) : clampS w x = asLane w (if x < -2 ^ (w - 1) then (-2 ^ (w - 1), fSAT)
    else if 2 ^ (w - 1) - 1 < x then (2 ^ (w - 1) - 1, fSAT) else (x, 0)) := by
  simp only [clampS, apply_ite (asLane w)]
  push_cast
  rfl

theorem arith2_int {ty : ETy} (hi : ty.isFloat = false) (rm : RM) (f : Dyad → Dyad → Dyad × Fl) (k : Int → Int → Nat × Fl) :
    arith2 ty rm f k = fun a b i => k (laneInt ty a i) (laneInt ty b i) := by
  funext a b i
  simp only [arith2, hi]
  rfl
theorem laneMinMax_int {ty : ETy} (hi : ty.isFloat = false) (wantMax : Bool) :
    laneMinMax ty wantMax = intLane (fun _ x y => (if wantMax then max x y else min x y, 0)) ty := by
  funext a b i
  simp only [laneMinMax, hi]
  rfl
theorem laneDiv_int {ty : ETy} (hi : ty.isFloat = false) (rm : RM) :
    laneDiv ty rm = intLane (fun n x y => if y = 0 then (0, if x = 0 then fIV else fDZ)
      else if x = -2 ^ (n - 1) ∧ y = -1 then (x, fOF) else (Int.tdiv x y, 0)) ty := by
  unfold laneDiv
  rw [arith2_int hi]
  funext a b i
  exact divS_eq ..
theorem laneClamp_int (ty : ETy) (f : Int → Int → Int) :
    laneClamp ty f = intLane (fun n x y => if f x y < -2 ^ (n - 1) then (-2 ^ (n - 1), fSAT)
      else if 2 ^ (n - 1) - 1 < f x y then (2 ^ (n - 1) - 1, fSAT) else (f x y, 0)) ty := by
  funext a b i
  exact clampS_eq ..
theorem laneMulhi_int (ty : ETy) : laneMulhi ty = intLane (fun n x y => (x * y / 2 ^ n, 0)) ty := by
  funext a b i
  unfold laneMulhi
  push_cast
  rfl

/-- R150, R152, R153: each row of the table computes the row's function in every integer lane. -/
theorem exec_vecInt {c : Hdr → V2 → Instr} {f : Nat → Int → Int → Int × Fl} (hc : (c, f) ∈ vecInt) (h : Hdr) {o : V2}
    (hi : o.ty.isFloat = false) (s : State) : exec (c h o) s = issue h (vec2 h o (intLane f o.ty)) s := by
  have hof {g : RowVal → RowVal → Nat → Nat × Fl} (hg : g = intLane f o.ty) :
      issue h (vec2 h o g) s = issue h (vec2 h o (intLane f o.ty)) s := by rw [hg]
  simp only [vecInt, List.mem_cons, Prod.mk.injEq, List.not_mem_nil, or_false] at hc
  rcases hc with ⟨rfl, rfl⟩ | ⟨rfl, rfl⟩ | ⟨rfl, rfl⟩ | ⟨rfl, rfl⟩ | ⟨rfl, rfl⟩ | ⟨rfl, rfl⟩ | ⟨rfl, rfl⟩ | ⟨rfl, rfl⟩ | ⟨rfl, rfl⟩
  · exact hof (arith2_int hi ..)
  · exact hof (arith2_int hi ..)
  · exact hof (arith2_int hi ..)
  · exact hof (laneDiv_int hi _)
  · exact hof (laneMinMax_int hi false)
  · exact hof (laneMinMax_int hi true)
  · exact hof (laneClamp_int _ _)
  · exact hof (laneClamp_int _ _)
  · exact hof (laneMulhi_int _)

theorem laneAbs_int {ty : ETy} (hi : ty.isFloat = false) (a : RowVal) :
    laneAbs ty a = fun i => (uintOf ty.bits |laneInt ty a i|, 0) := by
  funext i
  simp only [laneAbs, hi, Int.abs_eq_natAbs]
  rfl
theorem laneNeg_int {ty : ETy} (hi : ty.isFloat = false) (a : RowVal) :
    laneNeg ty a = fun i => (uintOf ty.bits (-laneInt ty a i), 0) := by
  funext i
  simp only [laneNeg, hi]
  rfl

/-- Settles O28: each row of the table is `vec2` on the row's function of the signed lanes; VABS and VNEG are `vec1`. -/
theorem vectorIntegerResults : Obligations.VectorIntegerResults := by
  unfold Obligations.VectorIntegerResults
  refine ⟨fun c f hc h o s t a b hready hi ha hb hdone => ?_, fun h o s t a hready hi ha => ⟨fun hdone => ?_, fun hdone => ?_⟩⟩
  · rw [exec_vecInt hc h hi]
    exact issue_vec2 hready ha hb hdone
  · exact issue_vec1 hready ha (by rw [laneAbs_int hi]; exact hdone)
  · exact issue_vec1 hready ha (by rw [laneNeg_int hi]; exact hdone)

end Sys2Proof.Machine
end

section
/-! ### The order of the row fields, and the end of a syllable that makes a row (R63, R148, R149, R443) -/
namespace Sys2Proof.Machine

theorem Reads.unique {α : Type} {m : Iss α} {s : State} {a b : α} (ha : Reads m s a) (hb : Reads m s b) : a = b :=
  (Prod.mk.inj (Except.ok.inj (ha.symm.trans hb))).1

/-- Sources that can be read give no trap. -/
theorem fieldOrder_sources {srcs : List (RSrc × Bool)} {s : State} (hr : ∀ a ∈ srcs, ∃ v, Reads (rdR a.1) s v) :
    Does (fieldOrder none srcs) s s := by
  have hnone : firstTrap ([] ++ srcs.map (fun a => srcAlone a s)) = none := by
    refine firstTrap_none fun e he => ?_
    obtain ⟨a, ha, rfl⟩ := List.mem_map.mp he
    exact srcAlone_noTrap (hr a ha).choose_spec
  unfold Does fieldOrder
  simp only [hnone]

/-- Nor does a destination that in the end takes the row: flags and pops leave what it needs as it was. -/
theorem fieldOrder_row {srcs : List (RSrc × Bool)} {d : RDst} {row : Nat} {fl : List (Nat × Fl)} {v : Row} {s s1 s2 t : State}
    (hr : ∀ a ∈ srcs, ∃ v, Reads (rdR a.1) s v) (hraise : Does (raiseLanes row fl) s s1) (hpop : Does (popRows srcs) s1 s2)
    (hwr : Does (wrR d v) s2 t) : Does (fieldOrder (some d) srcs) s s := by
  have hsinks1 := sameSinks_raiseLanes _ _ _ _ _ hraise
  have hsinks2 : SameSinks s1 s2 := sameSinks_popRows (fun a ha n hn => by
    obtain ⟨v, hv⟩ := hr a ha
    rw [hsinks1.curRole.sink, sink?_of_rdR hv hn]) hpop
  refine fieldOrder_ok (dstAlone_noTrap fun n hn => ?_) fun a ha => srcAlone_noTrap (hr a ha).choose_spec
  subst hn
  exact (SameSinks.trans _ _ _ hsinks1 hsinks2).sinkTakes (sinkTakes_of_pushStrm hwr)

/-- A body that comes to flags, pops and the write of a row goes on. -/
theorem issue_row {h : Hdr} {body : Iss Flow} {srcs : List (RSrc × Bool)} {d : RDst} {row : Nat} {fl : List (Nat × Fl)} {v : Row}
    {s s1 s2 t : State} (hready : Ready 8 h.s s)
    (hbody : body s = (do raiseLanes row fl; popRows srcs; wrR d v; pure .fall : Iss Flow) s)
    (hraise : Does (raiseLanes row fl) s s1) (hpop : Does (popRows srcs) s1 s2) (hwr : Does (wrR d v) s2 t) :
    issue h body s = .next (t.fell 8) := by
  refine issueN_falls hready ?_ (SameClu.trans _ _ _ (sameClu_raiseLanes _ _ _ _ _ hraise)
    (SameClu.trans _ _ _ (sameClu_popRows _ _ _ _ hpop) (sameClu_wrR _ _ _ _ _ hwr)))
  rw [hbody, bind_ok hraise, bind_ok hpop, bind_ok hwr]
  rfl

end Sys2Proof.Machine
end

section
/-! ### Vector logic, selections, permutes, compares and draws (R101, R154 to R156, R164 to R166) -/
namespace Sys2Proof.Machine

theorem uintOf_lt (w : Nat) (i : Int) : uintOf w i < 2 ^ w := by
  have hpos : 0 < ((2 ^ w : Nat) : Int) := Int.natCast_pos.mpr (Nat.two_pow_pos w)
  have hlt := Int.emod_lt_of_pos i hpos
  have hle := Int.emod_nonneg i (Int.ne_of_gt hpos)
  unfold uintOf
  omega
theorem bitsAt_lt (ty : ETy) (v : RowVal) (i : Nat) : v.bitsAt ty i < 2 ^ ty.bits := by
  cases v with
  | row r => exact laneOf_lt ty r i
  | lane => exact Nat.mod_lt _ (Nat.two_pow_pos _)
  | int n => exact uintOf_lt _ _
  | elem w => exact Nat.mod_lt _ (Nat.two_pow_pos _)

/-! VLOGIC. -/

/-- A table's function on the bits of lane i. -/
def bitLane (f : Nat → Nat → Nat → Nat) (ty : ETy) (a b : RowVal) (i : Nat) : Nat × Fl :=
  (f ty.bits (a.bitsAt ty i) (b.bitsAt ty i), 0)

/-- A function of two lanes whose value the lane width cuts off to that of the table. -/
theorem laneBits_eq {ty : ETy} {f : Nat → Nat → Nat} {g : Nat → Nat → Nat → Nat}
    (h : ∀ x < 2 ^ ty.bits, ∀ y < 2 ^ ty.bits, f x y % 2 ^ ty.bits = g ty.bits x y) : laneBits ty f = bitLane g ty := by
  funext a b i
  unfold laneBits bitLane
  rw [h _ (bitsAt_lt ty a i) _ (bitsAt_lt ty b i)]

theorem notBits_eq (ty : ETy) {x : Nat} (hx : x < 2 ^ ty.bits) : notBits ty x = 2 ^ ty.bits - 1 - x := by
  rw [notBits, Nat.mod_eq_of_lt hx]

/-- R154: each row of the table computes the row's function of the lanes' bits. -/
theorem exec_vecBits {c : Hdr → V2 → Instr} {f : Nat → Nat → Nat → Nat} (hc : (c, f) ∈ vecBits) (h : Hdr) (o : V2) (s : State) :
    exec (c h o) s = issue h (vec2 h o (bitLane f o.ty)) s := by
  have hof {g : Nat → Nat → Nat} (hg : ∀ x < 2 ^ o.ty.bits, ∀ y < 2 ^ o.ty.bits, g x y % 2 ^ o.ty.bits = f o.ty.bits x y) :
      issue h (vec2 h o (laneBits o.ty g)) s = issue h (vec2 h o (bitLane f o.ty)) s := by rw [laneBits_eq hg]
  simp only [vecBits, List.mem_cons, Prod.mk.injEq, List.not_mem_nil, or_false] at hc
  rcases hc with ⟨rfl, rfl⟩ | ⟨rfl, rfl⟩ | ⟨rfl, rfl⟩ | ⟨rfl, rfl⟩ | ⟨rfl, rfl⟩ | ⟨rfl, rfl⟩ | ⟨rfl, rfl⟩
  · exact hof fun x hx y _ => Nat.mod_eq_of_lt (Nat.lt_of_le_of_lt Nat.and_le_left hx)
  · exact hof fun x hx y hy => Nat.mod_eq_of_lt (Nat.or_lt_two_pow hx hy)
  · exact hof fun x hx y hy => Nat.mod_eq_of_lt (Nat.xor_lt_two_pow hx hy)
  · exact hof fun x hx y hy => by
      rw [notBits_eq _ hy, Nat.mod_eq_of_lt (Nat.lt_of_le_of_lt Nat.and_le_left hx)]
  · exact hof fun x _ y _ => by rw [Nat.shiftLeft_eq]
  · exact hof fun x hx y _ => by
      rw [Nat.shiftRight_eq_div_pow, Nat.mod_eq_of_lt (Nat.lt_of_le_of_lt (Nat.div_le_self ..) hx)]
  · exact hof fun x _ y _ => by
      rw [Nat.mod_eq_of_lt (uintOf_lt ..)]
      push_cast
      rfl

theorem laneNot_eq (ty : ETy) (a : RowVal) :
    (fun i => (notBits ty (a.bitsAt ty i), (0 : Fl))) = fun i => (2 ^ ty.bits - 1 - a.bitsAt ty i, 0) := by
  funext i
  rw [notBits_eq _ (bitsAt_lt ty a i)]

/-! Selections and permutes. -/

theorem copyAt_ite (c : Prop) [Decidable c] (ty : ETy) (a b : RowVal) (i : Nat) :
    (if c then a else b).copyAt ty i = if c then a.copyAt ty i else b.copyAt ty i := apply_ite (RowVal.copyAt ty · i) c a b

theorem permIdx_eq (ty : ETy) (b : RowVal) (i : Nat) :
    permIdx ty b i = if ty.lanes = 512 then i / 256 * 256 + b.bitsAt ty i else b.bitsAt ty i % ty.lanes := by
  have hwide : ty.bytes = 1 ↔ ty.lanes = 512 := by cases ty <;> decide
  simp only [permIdx, hwide]

theorem issue_zipOp {h : Hdr} {o : VZipF} {f : RowVal → RowVal → Nat → Nat} {s t : State} {a b : RowVal} (hready : Ready 8 h.s s)
    (ha : Reads (rdR o.a.src) s a) (hb : Reads (rdR o.b.src) s b)
    (hdone : RowDone h o.ty [mr o.a, mr o.b] o.d ((List.range o.ty.lanes).map (fun i => (f a b i, 0))) s t) :
    issue h (zipOp h o f) s = .next (t.fell 8) :=
  issue_rowOp hready (sources_two ⟨a, ha⟩ ⟨b, hb⟩) ((bind_ok ha).trans (bind_ok hb)) hdone

/-- The lanes that a row and a scalar source give. -/
theorem issue_rowScalar {h : Hdr} {o : VRS} {f : RowVal → Word → List (Nat × Fl)} {s t : State} {a : RowVal} {b : Word}
    (hready : Ready 8 h.s s) (ha : Reads (rdR o.a.src) s a) (hb : Reads (rdS o.b.src) s b)
    (hdone : RowDone h o.ty [mr o.a, ms o.b] o.d (f a b) s t) :
    issue h (rowOp h o.ty [mr o.a, ms o.b] o.d (do let a ← rdR o.a.src; let b ← rdS o.b.src; pure (f a b))) s =
      .next (t.fell 8) :=
  issue_rowOp hready (sources_two ⟨a, ha⟩ (reads_rdR_scalar hb)) ((bind_ok ha).trans (bind_ok hb)) hdone

/-! Predicates of lanes. -/

theorem testBit_packed (l : List Bool) (i : Nat) : (l.foldr (fun (b : Bool) acc => b.toNat + 2 * acc) 0).testBit i = l.getD i false := by
  induction l generalizing i with
  | nil => simp
  | cons b t ih =>
    rw [List.foldr_cons, Nat.add_comm, ← Nat.bit_val]
    cases i with
    | zero => rw [Nat.testBit_bit_zero, List.getD_cons_zero]
    | succ j => rw [Nat.testBit_bit_succ, ih, List.getD_cons_succ]

theorem getLsbD_mkPred (l : List Bool) {i : Nat} (hi : i < 512) : (mkPred l).getLsbD i = l.getD i false := by
  rw [mkPred, BitVec.getLsbD_ofNat, testBit_packed, decide_eq_true hi, Bool.true_and]

/-- R155, R166: what the lanes of a merged predicate are, and that bits 511:n are 0, says which predicate it is. -/
theorem mergePred_unique {g old new : Pred} {n : Nat} {f : Nat → Bool}
    (hin : ∀ i < n, new.getLsbD i = if g.getLsbD i then f i else old.getLsbD i) (hout : ∀ i, n ≤ i → new.getLsbD i = false) :
    mergePred g old ((List.range n).map f) = new := by
  refine BitVec.eq_of_getLsbD_eq fun i hi => ?_
  rw [mergePred, getLsbD_mkPred _ hi]
  by_cases hlane : i < n
  · rw [hin i hlane]
    simp [hlane]
  · rw [hout i (Nat.le_of_not_lt hlane)]
    simp [hlane]

/-- R101, R155: each condition on the order of two integer lanes is the comparison that its name says. -/
theorem condOrd_int (cc : Cond) (x y : Int) (a b : Nat) :
    (if cc.unsigned then condOrd cc (some (compare a b)) else condOrd cc (some (compare x y))) = condInt cc x y a b := by
  cases cc with
  | eq => exact compare_is_eq ..
  | ne => exact congrArg Bool.not (compare_is_eq ..)
  | lt => exact compare_is_lt ..
  | ltu => exact compare_is_lt ..
  | gt => exact compare_is_gt ..
  | gtu => exact compare_is_gt ..
  | le => exact compare_not_gt ..
  | leu => exact compare_not_gt ..
  | ge => exact compare_not_lt ..
  | geu => exact compare_not_lt ..

theorem laneCmp_eq (ty : ETy) (cc : Cond) (a b : RowVal) (i : Nat) :
    laneCmp ty cc a b i = if ty.isFloat then condOrd cc (cmpNum (a.numAt ty i) (b.numAt ty i))
      else condInt cc (laneInt ty a i) (laneInt ty b i) (a.bitsAt ty i) (b.bitsAt ty i) := by
  rw [← condOrd_int]
  rfl

theorem issue_resVcmp {h : Hdr} {cc : Cond} {o : VC} {s s1 s2 : State} {g old : Pred} {a b : RowVal} (hready : Ready 8 h.s s)
    (hg : Reads (guardP h) s g) (ha : Reads (rdR o.a.src) s a) (hb : Reads (rdR o.b.src) s b) (hold : Reads (rdP o.p.toNat) s old)
    (hpop : Does (popRows [mr o.a, mr o.b]) s s1)
    (hwr : Does (wrP o.p.toNat (mergePred g old ((List.range o.ty.lanes).map (laneCmp o.ty cc a b)))) s1 s2) :
    issue h (resVcmp h cc o) s = .next (s2.fell 8) := by
  refine issueN_falls hready ?_ (SameClu.trans _ _ _ (sameClu_popRows _ _ _ _ hpop) (sameClu_wrP _ _ _ _ _ hwr))
  unfold resVcmp
  rw [bind_ok hg, bind_ok (fieldOrder_sources (srcs := [mr o.a, mr o.b]) (sources_two ⟨a, ha⟩ ⟨b, hb⟩)), bind_ok ha, bind_ok hb, bind_ok hold,
    bind_ok hpop, bind_ok hwr]
  rfl

theorem issue_resVrngp {h : Hdr} {o : VRngPF} {s s1 s2 : State} {g old : Pred} {k b c : Word} (hready : Ready 8 h.s s)
    (hg : Reads (guardP h) s g) (hk : Reads (rdS o.a.src) s k) (hb : Reads (rdS o.b.src) s b) (hc : Reads (rdS o.c.src) s c)
    (hold : Reads (rdP o.p.toNat) s old) (hpop : Does (popMarks [msMk o.a, msMk o.b, csMk o.c]) s s1)
    (hwr : Does (wrP o.p.toNat (mergePred g old ((List.range o.ty.lanes).map
      (fun i => decide (rng k (b + BitVec.ofNat 64 i) < c.toNat % 2 ^ 32))))) s1 s2) :
    issue h (resVrngp h o) s = .next (s2.fell 8) := by
  refine issueN_falls hready ?_ (SameClu.trans _ _ _ (sameClu_popMarks _ _ _ _ hpop) (sameClu_wrP _ _ _ _ _ hwr))
  unfold resVrngp
  rw [bind_ok hg, bind_ok hk, bind_ok hb, bind_ok hc, bind_ok hold, bind_ok hpop, bind_ok hwr]
  rfl

/-! The generator. -/

theorem rng_lt (k c : Word) : rng k c < 2 ^ 32 := Nat.div_lt_of_lt_mul (BitVec.isLt _)
theorem rng_self (k : Word) : rng k k = 0 := by
  rw [rng, BitVec.xor_self]
  rfl
theorem rngRound_spec (x : Word) : ∃ y : Word, y = (x ^^^ (x >>> 29)) * 0x9E6C63D0676A9A99 ∧ rngRound x = y ^^^ (y >>> 32) := by
  refine ⟨_, Eq.refl _, ?_⟩
  unfold rngRound
  rfl

/-- R165 on words: an output is 32 bits wide, a counter equal to its key delivers 0, and an output is the high half of three rounds. -/
theorem rng_rounds (k c : Word) : rng k c < 2 ^ 32 ∧ rng k k = 0 ∧
    ∃ f : Word → Word, rng k c = (f (f (f (k ^^^ c)))).toNat / 2 ^ 32 ∧
      ∀ x : Word, ∃ y : Word, y = (x ^^^ (x >>> 29)) * 0x9E6C63D0676A9A99 ∧ f x = y ^^^ (y >>> 32) :=
  ⟨rng_lt k c, rng_self k, rngRound, rfl, rngRound_spec⟩

/-- The clause on the generator as the statement of O31 has it: the x and y of a round are natural numbers there, so that a round's
product is not cut off to 64 bits. -/
def NatRounds : Prop := ∀ k c : Word, rng k c < 2 ^ 32 ∧ rng k k = 0 ∧
  ∃ f : Word → Word, rng k c = (f (f (f (k ^^^ c)))).toNat / 2 ^ 32 ∧
    ∀ x : Nat, ∃ y : Nat, y = (x ^^^ (x >>> 29)) * 0x9E6C63D0676A9A99 ∧ f x = (y : Word) ^^^ ((y >>> 32 : Nat) : Word)

/-- Every other clause of O31 holds: the lanes of each form are the statement's, by the width of a lane; a merged predicate is the one
with the bits that the statement gives. -/
theorem vectorLogicPredicatesDraws_iff : Obligations.VectorLogicPredicatesDraws ↔ NatRounds := by
  unfold Obligations.VectorLogicPredicatesDraws
  refine ⟨fun ⟨_, _, _, _, hrng⟩ => hrng, fun hrng => ⟨⟨?_, ?_, ?_, ?_, ?_, ?_⟩, ?_, ?_, ?_, hrng⟩⟩
  · intro c f hc h o s t a b hready ha hb hdone
    rw [exec_vecBits hc]
    exact issue_vec2 hready ha hb hdone
  · intro h o s t a hready ha
    refine ⟨fun hdone => ?_, fun hdone => issue_vec1 hready ha hdone⟩
    exact issue_vec1 hready ha (by rw [laneNot_eq]; exact hdone)
  · intro h o s t a b p hready ha hb hp hdone
    refine issue_rowOp hready (sources_two ⟨a, ha⟩ ⟨b, hb⟩) ((bind_ok ha).trans ((bind_ok hb).trans (bind_ok hp))) ?_
    simp only [copyAt_ite]
    exact hdone
  · intro h o s t a b hready ha hb
    exact ⟨fun hdone => issue_rowScalar hready ha hb hdone, fun hdone => issue_rowScalar hready ha hb hdone⟩
  · intro h o s t a b hready ha hb hdone
    refine issue_vec2 hready ha hb ?_
    simp only [permIdx_eq]
    exact hdone
  · intro h o s t a b hready ha hb
    refine ⟨fun hdone => issue_zipOp hready ha hb ?_, fun hdone => issue_zipOp hready ha hb hdone⟩
    simp only [copyAt_ite]
    exact hdone
  · intro h cc o s s1 s2 g old new a b hready hg ha hb hold hin hout hpop hwr
    refine issue_resVcmp hready hg ha hb hold hpop ?_
    rwa [mergePred_unique (fun i hi => (hin i hi).trans (by rw [laneCmp_eq])) hout]
  · intro h o s t k b hready hk hb hdone
    exact issue_rowOp hready (sources_two (reads_rdR_scalar hk) (reads_rdR_scalar hb)) ((bind_ok hk).trans (bind_ok hb)) hdone
  · intro h o s s1 s2 g old new k b c hready hg hk hb hc hold hin hout hpop hwr
    refine issue_resVrngp hready hg hk hb hc hold hpop ?_
    rwa [mergePred_unique hin hout]

/-- The words 0 and 2^64 are the same, but a round whose product is not cut off to 64 bits gives 0 for the one number and not for the
other. -/
theorem not_natRounds : ¬ NatRounds := by
  intro h
  obtain ⟨-, -, f, -, hf⟩ := h 0 0
  obtain ⟨_, rfl, hzero⟩ := hf 0
  obtain ⟨_, rfl, hwrapped⟩ := hf (2 ^ 64)
  have hsame : ((2 ^ 64 : Nat) : Word) = ((0 : Nat) : Word) := by decide
  rw [hsame, hzero] at hwrapped
  exact absurd hwrapped (by decide)

/-- Refutes O31: in its clause on VRNG a round's x and y are natural numbers (R165 computes modulo 2^64), and no function of words gives
0 for 0 and the unbounded round's value for 2^64. -/
theorem not_vectorLogicPredicatesDraws : ¬ Obligations.VectorLogicPredicatesDraws :=
  mt vectorLogicPredicatesDraws_iff.mp not_natRounds

end Sys2Proof.Machine
end

section
/-! ### VLANE, VINS and VCVT (R26, R28, R156 to R158) -/
namespace Sys2Proof.Machine

theorem issue_resVlane {h : Hdr} {o : VLaneF} {s s1 s2 : State} {g : Pred} {a : RowVal} {b : Word} (hready : Ready 8 h.s s)
    (hg : Reads (guardP h) s g) (ha : Reads (rdR o.a.src) s a) (hb : Reads (rdS o.b.src) s b)
    (hpop : Does (popRows [mr o.a, ms o.b]) s s1)
    (hwr : Does (if g.getLsbD (b.toNat % o.ty.lanes) then wrS o.d (widenElem o.ty (a.copyAt o.ty (b.toNat % o.ty.lanes)))
      else wrS0 o.d) s1 s2) : issue h (resVlane h o) s = .next (s2.fell 8) := by
  have hclu : SameClu s1 s2 := Keeps.ite (sameClu_wrS _ _) (sameClu_wrS0 _) _ _ _ hwr
  refine issueN_falls hready ?_ (SameClu.trans _ _ _ (sameClu_popRows _ _ _ _ hpop) hclu)
  unfold resVlane
  rw [bind_ok hg, bind_ok ha, bind_ok hb, bind_ok hpop]
  by_cases hon : g.getLsbD (b.toNat % o.ty.lanes) = true
  · rw [if_pos hon] at hwr ⊢
    exact bind_ok hwr
  · rw [if_neg hon] at hwr ⊢
    exact bind_ok hwr

/-! A row with one lane replaced. -/

/-- Row r with element x in lane j. -/
def replaceLane (ty : ETy) (r : Row) (j x : Nat) : Row :=
  mkRow ty ((List.range ty.lanes).map (fun i => if i = j then x else laneOf ty r i))

theorem replaceLane_unique {ty : ETy} {old new : Row} {j x : Nat}
    (h : ∀ i < ty.lanes, laneOf ty new i = if i = j then x % 2 ^ ty.bits else laneOf ty old i) : replaceLane ty old j x = new := by
  refine row_ext_lanes ty fun i hi => ?_
  rw [h i hi, replaceLane, laneOf_mkRow ty _ hi]
  simp only [List.getD_eq_getElem?_getD, List.getElem?_map, List.getElem?_range hi, Option.map_some, Option.getD_some]
  split
  · rfl
  · exact Nat.mod_eq_of_lt (laneOf_lt ..)

theorem resVins_read {h : Hdr} {o : VInsF} {s s1 : State} {g : Pred} {a b : Word} {old : Row} (hg : Reads (guardP h) s g)
    (ha : Reads (rdS o.a.src) s a) (hb : Reads (rdS o.b.src) s b) (hold : Reads (rdV o.d.toNat) s old)
    (hpop : Does (popMarks [msMk o.a, msMk o.b]) s s1) :
    resVins h o s = (do
      if g.getLsbD (b.toNat % o.ty.lanes) then wrV o.d.toNat (replaceLane o.ty old (b.toNat % o.ty.lanes) a.toNat) else pure ()
      pure .fall : Iss Flow) s1 := by
  unfold resVins
  rw [bind_ok hg, bind_ok ha, bind_ok hb, bind_ok hold, bind_ok hpop]
  rfl

/-! VCVT. -/

/-- One element converted: what is no float on either side narrows, everything else rounds once. -/
theorem laneCvt_eq (dst src : ETy) (rm : RM) (a : RowVal) (j : Nat) :
    laneCvt dst src rm a j = if src.isFloat || dst.isFloat then roundNum dst rm (a.numAt src j)
      else narrowInt dst.bits (laneInt src a j) := by
  unfold laneCvt
  cases src.isFloat <;> cases dst.isFloat <;> rfl

/-- Lane i of the result of VCVT over the old row. -/
def cvtLane (o : VCvtF) (a : RowVal) (old : Row) (i : Nat) : Nat × Fl :=
  (cvtFrom o.dst o.src o.part.k.toNat i).elim (laneOf o.dst old i, 0) (laneCvt o.dst o.src o.rm a)

/-- R157: the lanes by the widths of the two types. -/
theorem cvtLane_eq (o : VCvtF) (a : RowVal) (old : Row) (i : Nat) : cvtLane o a old i =
    if o.dst.lanes < o.src.lanes then laneCvt o.dst o.src o.rm a (o.part.k.toNat * o.dst.lanes + i)
    else if o.src.lanes < o.dst.lanes then
      (if o.part.k.toNat * o.src.lanes ≤ i ∧ i < o.part.k.toNat * o.src.lanes + o.src.lanes then
        laneCvt o.dst o.src o.rm a (i - o.part.k.toNat * o.src.lanes)
      else (laneOf o.dst old i, 0))
    else laneCvt o.dst o.src o.rm a i := by
  unfold cvtLane cvtFrom
  split
  · rfl
  · split
    · by_cases hin : o.part.k.toNat * o.src.lanes ≤ i ∧ i < o.part.k.toNat * o.src.lanes + o.src.lanes
      · rw [if_pos (by simpa using hin), if_pos hin]
        rfl
      · rw [if_neg (by simpa using hin), if_neg hin]
        rfl
    · rfl

theorem resVcvt_read {h : Hdr} {o : VCvtF} {s : State} {g : Pred} {a : RowVal} {old : Row} (hg : Reads (guardP h) s g)
    (horder : Does (fieldOrder (some o.d) [mr o.a]) s s) (ha : Reads (rdR o.a.src) s a) (hold : Reads (oldRow o.d) s old) :
    let rs := (List.range o.dst.lanes).map (cvtLane o a old)
    resVcvt h o s = (do
      raiseLanes (rowIdOf o.d) (laneFlags g rs); popRows [mr o.a]; wrR o.d (mergeLanes o.dst g old (rs.map Prod.fst)); pure .fall :
        Iss Flow) s := by
  have hlanes : (fun i => match cvtFrom o.dst o.src o.part.k.toNat i with
      | some j => laneCvt o.dst o.src o.rm a j
      | none => (laneOf o.dst old i, 0)) = cvtLane o a old := by
    funext i
    unfold cvtLane
    cases cvtFrom o.dst o.src o.part.k.toNat i <;> rfl
  unfold resVcvt
  rw [bind_ok hg, bind_ok horder, bind_ok ha, bind_ok hold, ← hlanes] <;> rfl

/-- Settles O32: VLANE and VINS test their lane's guard bit alone, and a row is its lanes; VCVT is a row result whose lanes are
those of `cvtFrom`. -/
theorem vectorLaneMovesConversions : Obligations.VectorLaneMovesConversions := by
  unfold Obligations.VectorLaneMovesConversions
  refine ⟨?_, ?_, ?_⟩
  · intro h o s s1 s2 g a b hready hg ha hb x v hpop hwr
    exact issue_resVlane hready hg ha hb hpop hwr
  · intro h o s s1 s2 g a b old new hready hg ha hb hold hpop hnew
    have hread := resVins_read hg ha hb hold hpop
    rw [replaceLane_unique hnew] at hread
    refine ⟨fun hon hwr => ?_, fun hoff => ?_⟩
    · rw [if_pos hon] at hread
      exact issueN_falls hready (hread.trans (bind_ok hwr))
        (SameClu.trans _ _ _ (sameClu_popMarks _ _ _ _ hpop) (sameClu_wrV _ _ _ _ _ hwr))
    · rw [if_neg (by simp [hoff])] at hread
      exact issueN_falls hready hread (sameClu_popMarks _ _ _ _ hpop)
  · rintro h o s t a old hready ha hold nd ns p cvt ⟨g, old', s1, s2, hg, hold', hraise, hpop, hwr⟩
    obtain rfl := hold.unique hold'
    have hlanes : (fun i => if nd < ns then cvt (p * nd + i)
        else if ns < nd then (if p * ns ≤ i ∧ i < p * ns + ns then cvt (i - p * ns) else (laneOf o.dst old i, 0))
        else cvt i) = cvtLane o a old := by
      funext i
      simp only [cvtLane_eq, laneCvt_eq]
      rfl
    rw [hlanes] at hraise hwr
    have horder := fieldOrder_row (sources_one (a := mr o.a) ⟨a, ha⟩) hraise hpop hwr
    exact issue_row hready (resVcvt_read hg horder ha hold) hraise hpop hwr

end Sys2Proof.Machine
end

section
/-! ### SX rows (R29 to R32, R37, R148, R149, R167 to R170) -/
namespace Sys2Proof.Machine

theorem zipIdx_map_range {α : Type} (f : Nat → α) (n : Nat) :
    ((List.range n).map f).zipIdx = (List.range n).map (fun b => (f b, b)) := by
  refine List.ext_getElem (by simp) fun i _ _ => by simp

theorem resVquant_read {h : Hdr} {o : VSxF} {s : State} {g : Pred} {a : RowVal} {old : Row} (hg : Reads (guardP h) s g)
    (horder : Does (fieldOrder (some o.d) [mr o.a]) s s) (ha : Reads (rdR o.a.src) s a) (hold : Reads (oldRow o.d) s old) :
    let n := o.ty.lanes
    let m := o.m.toNat
    let q (b : Nat) := sxQuant m o.rm ((List.range 32).map (fun j => a.numAt o.ty (32 * b + j)))
    let on (b : Nat) := g.getLsbD (32 * b)
    resVquant h o s = (do
      raiseLanes (rowIdOf o.d) ((List.range (n / 32)).filterMap (fun b =>
        if on b && (q b).2.2 != 0 then some (32 * b, (q b).2.2) else none))
      popRows [mr o.a]
      wrR o.d (sxRow n m ((List.range (n / 32)).map (fun b =>
        if on b then ((q b).2.1, (q b).1) else (sxRowBits m b old, sxRowScale n m b old)))
        (if (List.range (n / 32)).any on then 0 else sxPad n m old))
      pure .fall : Iss Flow) s := by
  unfold resVquant
  rw [bind_ok hg, bind_ok horder, bind_ok ha, bind_ok hold]
  simp only [zipIdx_map_range, List.filterMap_map, List.map_map]
  rfl

theorem resVscale_read {h : Hdr} {o : VScaleF} {s : State} {g : Pred} {a : RowVal} {v : Word} {old : Row} (hg : Reads (guardP h) s g)
    (horder : Does (fieldOrder (some o.d) [mr o.a, ms o.b]) s s) (ha : Reads (rdR o.a.src) s a) (hv : Reads (rdS o.b.src) s v)
    (hold : Reads (oldRow o.d) s old) :
    let r := a.asRow o.ty
    let n := o.ty.lanes
    let m := o.m.toNat
    let q (b : Nat) := sxScaleWord m v.toInt (sxRowScale n m b r) (sxRowBits m b r)
    let on (b : Nat) := g.getLsbD (32 * b)
    resVscale h o s = (do
      raiseLanes (rowIdOf o.d) ((List.range (n / 32)).filterMap (fun b =>
        if on b && (q b).2 != 0 then some (32 * b, (q b).2) else none))
      popRows [mr o.a, ms o.b]
      wrR o.d (sxRow n m ((List.range (n / 32)).map (fun b =>
        if on b then (sxRowBits m b r, (q b).1) else (sxRowBits m b old, sxRowScale n m b old))) (sxPad n m r))
      pure .fall : Iss Flow) s := by
  unfold resVscale
  rw [bind_ok hg, bind_ok horder, bind_ok ha, bind_ok hv, bind_ok hold]
  simp only [zipIdx_map_range, List.filterMap_map, List.map_map]
  rfl

/-! R170: a scale word keeps its shifts, and its exponent is moved and clamped. -/

theorem sxScaleWord_nan (m : Nat) (s : Int) {scale : Nat} (bits : Nat) (hscale : scale < 2 ^ 16) (hnan : scale % 256 = 255) :
    sxScaleWord m s scale bits = (scale, 0) := by
  unfold sxScaleWord sxE
  rw [if_pos hnan, show scale % 65536 = scale from Nat.mod_eq_of_lt hscale]

theorem sxScaleWord_finite (m : Nat) (s : Int) {scale : Nat} (bits : Nat) (hnan : scale % 256 ≠ 255) :
    (sxScaleWord m s scale bits).1 = (max 0 (min 254 (((scale % 256 : Nat) : Int) + s))).toNat + 256 * (scale / 256 % 256) := by
  unfold sxScaleWord sxE
  rw [if_neg hnan]
  split
  · next hhigh => rw [min_eq_left (by omega), max_eq_right (by decide)]; rfl
  · next hhigh =>
    split
    · next hlow => rw [min_eq_right (by omega), max_eq_left (by omega), Int.toNat_zero, Nat.zero_add]
    · next hlow => rw [min_eq_right (by omega), max_eq_right (by omega)]

theorem sxScaleWord_shifts (m : Nat) (s : Int) {scale : Nat} (bits : Nat) (hscale : scale < 2 ^ 16) :
    (sxScaleWord m s scale bits).1 / 256 = scale / 256 := by
  by_cases hnan : scale % 256 = 255
  · rw [sxScaleWord_nan m s bits hscale hnan]
  · rw [sxScaleWord_finite m s bits hnan]
    omega

theorem sxScaleWord_exponent (m : Nat) (s : Int) {scale : Nat} (bits : Nat) (hnan : scale % 256 ≠ 255) :
    (((sxScaleWord m s scale bits).1 % 256 : Nat) : Int) = max 0 (min 254 (((scale % 256 : Nat) : Int) + s)) := by
  rw [sxScaleWord_finite m s bits hnan]
  omega

/-- Settles O34: VQUANT and VSCALE come to flags, pops and one row, block by block; VDEQ is a row result; a scale word is its shifts and
its clamped exponent. -/
theorem sxRowResults : Obligations.SxRowResults := by
  unfold Obligations.SxRowResults
  refine ⟨?_, ?_, ?_, ?_⟩
  · intro h o s s1 s2 s3 g a old hready hg ha hold n m q on hraise hpop hwr
    have horder := fieldOrder_row (sources_one (a := mr o.a) ⟨a, ha⟩) hraise hpop hwr
    exact issue_row hready (resVquant_read hg horder ha hold) hraise hpop hwr
  · intro h o s t a hready ha r hdone
    exact issue_rowOp hready (sources_one ⟨a, ha⟩) (bind_ok ha) hdone
  · intro h o s s1 s2 s3 g a old v hready hg ha hv hold r n m q on hraise hpop hwr
    have horder := fieldOrder_row (sources_two (a := mr o.a) (b := ms o.b) ⟨a, ha⟩ (reads_rdR_scalar hv)) hraise hpop hwr
    exact issue_row hready (resVscale_read hg horder ha hv hold) hraise hpop hwr
  · intro m s scale bits hscale
    exact ⟨sxScaleWord_shifts m s bits hscale, sxScaleWord_nan m s bits hscale, sxScaleWord_exponent m s bits⟩

end Sys2Proof.Machine
end

section
/-! ### What a vector syllable leaves of its role (R60, R63, R147, R148, R162) -/
namespace Sys2Proof.Machine

/-- V row n is none that the syllable names. -/
def RowWrites.sparesV (w : RowWrites) (n : Nat) : Prop := ∀ m, w.d = some (.v m) → m.toNat ≠ n
/-- The destinations of a vector syllable outside the rows, with the queues that its sources mark. -/
def RowWrites.scalar (w : RowWrites) (marks : List Mk) : Writes := { marks := marks, dst := w.sd, p := w.p }

/-- Of role r, whose cluster c issues, the registers that the syllable does not name are kept, and the other clusters. That no bundle
begins, and no loop record, makes the relation transitive. -/
structure Role.RowNamed (w : RowWrites) (c : Cluster) (r r' : Role) : Prop where
  alone : r.snap = none → r'.snap = none
  recless : (r.clu c).lrec = none → (r'.clu c).lrec = none
  acc : r.snap = none → r'.acc = r.acc
  vs : ∀ n, w.sparesV n → r'.v n = r.v n
  xs : ∀ n, (w.scalar []).sparesX n → r'.x n = r.x n
  ps : (r.clu c).lrec = none → ∀ n, (w.scalar []).sparesP n → r'.p n = r.p n
  clus : ∀ d, d ≠ c → r'.clu d = r.clu d

namespace Role.RowNamed
variable {w : RowWrites} {c : Cluster} {r r' r'' : Role}

theorem refl (w : RowWrites) (c : Cluster) (r : Role) : r.RowNamed w c r :=
  ⟨id, id, fun _ => rfl, fun _ _ => rfl, fun _ _ => rfl, fun _ _ _ => rfl, fun _ _ => rfl⟩
theorem trans (h : r.RowNamed w c r') (h' : r'.RowNamed w c r'') : r.RowNamed w c r'' where
  alone hs := h'.alone (h.alone hs)
  recless hl := h'.recless (h.recless hl)
  acc hs := (h'.acc (h.alone hs)).trans (h.acc hs)
  vs n hn := (h'.vs n hn).trans (h.vs n hn)
  xs n hn := (h'.xs n hn).trans (h.xs n hn)
  ps hl n hn := (h'.ps (h.recless hl) n hn).trans (h.ps hl n hn)
  clus d hd := (h'.clus d hd).trans (h.clus d hd)

/-- What a scalar syllable with the same destinations would leave. -/
theorem of_onlyNamed {marks : List Mk} (h : r.OnlyNamed (w.scalar marks) c r') : r.RowNamed w c r' where
  alone := h.alone
  recless := h.recless
  acc := h.same.1
  vs n _ := by rw [h.same.2]; rfl
  xs n hn := h.xs n hn
  ps hl n hn := h.ps hl n hn
  clus := h.clus

/-- An update that leaves requests, rows, X registers, predicates and clusters alone. -/
theorem of_rest (hs : r'.snap = r.snap) (ha : r'.acc = r.acc) (hv : r'.vs = r.vs) (hx : r'.xs = r.xs) (hp : r'.ps = r.ps)
    (hc : ∀ d, r'.clu d = r.clu d) : r.RowNamed w c r' where
  alone h := hs.trans h
  recless h := (hc c).symm ▸ h
  acc _ := ha
  vs n _ := by rw [Role.v, hv]; rfl
  xs n _ := by rw [Role.x, hx]; rfl
  ps _ n _ := by rw [Role.p, hp]; rfl
  clus d _ := hc d

theorem setQ (c : Cluster) (r : Role) (q : Nat) (l : List QEnt) : r.RowNamed w c (r.setQ q l) :=
  of_rest rfl rfl rfl rfl rfl (clu_setQ r q l)
theorem setStrm (c : Cluster) (r : Role) (n : Nat) (t : Strm) : r.RowNamed w c (r.setStrm n t) :=
  of_rest rfl rfl rfl rfl rfl (clu_setStrm r n t)
theorem setRing (c : Cluster) (r : Role) (n : Nat) (g : Ring) : r.RowNamed w c (r.setRing n g) :=
  of_rest rfl rfl rfl rfl rfl (clu_setRing r n g)
theorem releasePassed (c : Cluster) (r : Role) (t : Strm) : r.RowNamed w c (releasePassed r t) := by
  unfold Machine.releasePassed
  split
  · split
    · exact setRing ..
    · exact refl ..
  · exact refl ..
theorem setV {n : BitVec 7} (hn : w.d = some (.v n)) (c : Cluster) (r : Role) (v : Row) : r.RowNamed w c (r.setV n.toNat v) where
  alone := id
  recless h := (clu_setV r n.toNat v c).symm ▸ h
  acc _ := rfl
  vs _ hm := mget_mset_other _ _ _ _ _ (hm n hn).symm
  xs _ _ := rfl
  ps _ _ _ := rfl
  clus d _ := clu_setV r n.toNat v d

end Role.RowNamed

/-- A syllable that names w leaves of its role what `Role.RowNamed` says. -/
def RowNamed (w : RowWrites) (s t : State) : Prop := t.cur = s.cur ∧ s.curRole.RowNamed w s.cur.cl t.curRole

theorem RowNamed.refl (w : RowWrites) (s : State) : RowNamed w s s := ⟨rfl, .refl ..⟩
theorem RowNamed.trans {w : RowWrites} (s t u : State) (h : RowNamed w s t) (h' : RowNamed w t u) : RowNamed w s u := by
  refine ⟨h'.1.trans h.1, h.2.trans ?_⟩
  rw [← h.1]
  exact h'.2
theorem OnlyNamed.toRow {w : RowWrites} {marks : List Mk} {s t : State} (h : OnlyNamed (w.scalar marks) s t) : RowNamed w s t :=
  ⟨h.1.cur, .of_onlyNamed h.2⟩

/-! Steps of an issuing syllable. -/

section
variable {w : RowWrites}

theorem rowNamed_of_onlyNamed {α : Type} {m : Iss α} {marks : List Mk} (h : Keeps (OnlyNamed (w.scalar marks)) m) :
    Keeps (RowNamed w) m := fun s a t e => (h s a t e).toRow
theorem rowNamed_of_pure {α : Type} {m : Iss α} (h : Pure m) : Keeps (RowNamed w) m := by
  intro s a t e
  rw [h _ _ _ e]
  exact .refl w s
theorem RowNamed.bind {α β : Type} {m : Iss α} {f : α → Iss β} (h1 : Keeps (RowNamed w) m) (h2 : ∀ a, Keeps (RowNamed w) (f a)) :
    Keeps (RowNamed w) (m >>= f) := Keeps.bind RowNamed.trans h1 h2
/-- After a step that only looks. -/
theorem RowNamed.after {α β : Type} {m : Iss α} {f : α → Iss β} (h1 : Pure m) (h2 : ∀ a, Keeps (RowNamed w) (f a)) :
    Keeps (RowNamed w) (m >>= f) := RowNamed.bind (rowNamed_of_pure h1) h2
theorem RowNamed.optional {α : Type} {c : Prop} [Decidable c] {m : Iss Unit} {f : Unit → Iss α} (h1 : Keeps (RowNamed w) m)
    (h2 : ∀ a, Keeps (RowNamed w) (f a)) : Keeps (RowNamed w) (if c then m >>= f else f ()) :=
  Keeps.optional RowNamed.trans h1 h2

theorem rowNamed_modRole {f : Role → Role} (h : ∀ (c : Cluster) (r : Role), r.RowNamed w c (f r)) : Keeps (RowNamed w) (modRole f) := by
  intro s a t e
  cases e
  exact ⟨rfl, by rw [curRole_setRole]; exact h ..⟩
/-- A change outside the roles. -/
theorem rowNamed_modSt {f : State → State} (h : ∀ s, (f s).cur = s.cur ∧ (f s).roles = s.roles) : Keeps (RowNamed w) (modSt f) := by
  intro s a t e
  cases e
  obtain ⟨hcur, hroles⟩ := h s
  have hrole : (f s).curRole = s.curRole := by
    unfold State.curRole State.curKey State.role
    rw [hcur, hroles]
  exact ⟨hcur, by rw [hrole]; exact .refl ..⟩

theorem rowNamed_popMarks (l : List Mk) : Keeps (RowNamed w) (popMarks l) :=
  rowNamed_of_onlyNamed (marks := l) onlyNamed_popMarks
theorem rowNamed_raiseI (row lane : Nat) (fl : Fl) : Keeps (RowNamed w) (raiseI row lane fl) :=
  rowNamed_of_onlyNamed (marks := []) (onlyNamed_raiseI row lane fl)
theorem rowNamed_raiseLanes (row : Nat) (l : List (Nat × Fl)) : Keeps (RowNamed w) (raiseLanes row l) := by
  induction l with
  | nil => exact rowNamed_of_pure (pure_pure _)
  | cons x t ih => exact RowNamed.bind (rowNamed_raiseI _ _ _) fun _ => ih
theorem rowNamed_popStrm (n : Nat) (mark : Bool) : Keeps (RowNamed w) (popStrm n mark) := by
  unfold popStrm
  refine RowNamed.after pure_getSt fun s => RowNamed.after pure_getRole fun r => ?_
  split
  · exact rowNamed_of_pure (pure_pure _)
  · exact RowNamed.bind (rowNamed_modRole fun _ _ => .setStrm ..) fun _ =>
      RowNamed.optional (rowNamed_modSt fun _ => ⟨rfl, rfl⟩) fun _ =>
        Keeps.ite (rowNamed_modRole fun _ _ => .releasePassed ..) (rowNamed_of_pure (pure_pure _))
theorem rowNamed_popStrms (l : List (Nat × Bool)) : Keeps (RowNamed w) (popStrms l) := by
  induction l with
  | nil => exact rowNamed_of_pure (pure_pure _)
  | cons x t ih => exact RowNamed.bind (rowNamed_popStrm _ _) fun _ => ih
theorem rowNamed_popRows (l : List (RSrc × Bool)) : Keeps (RowNamed w) (popRows l) :=
  RowNamed.bind (rowNamed_popMarks _) fun _ => rowNamed_popStrms _

/-! The write of a row. -/

theorem rowNamed_wrV {n : BitVec 7} (hd : w.d = some (.v n)) (v : Row) : Keeps (RowNamed w) (wrV n.toNat v) :=
  RowNamed.after (pure_rowFree _) fun _ => rowNamed_modRole fun c r => .setV hd c r v
theorem rowNamed_qPush (q : Nat) (v : Row) : Keeps (RowNamed w) (qPush q v) :=
  RowNamed.after (pure_qRoom _) fun _ => RowNamed.after pure_pushOrdered fun _ => RowNamed.after pure_getSt fun _ =>
    rowNamed_modRole fun _ _ => .setQ ..
theorem rowNamed_regionPut (t : Strm) (p : Nat) (v : List Byte) : Keeps (RowNamed w) (regionPut t p v) := by
  unfold regionPut
  refine RowNamed.after pure_getSt fun s => RowNamed.after pure_getRole fun r => ?_
  dsimp only
  split
  · exact rowNamed_of_pure (pure_stop _)
  · exact rowNamed_modSt fun _ => ⟨rfl, rfl⟩
theorem rowNamed_tilePut (o : Nat) (bs : List Byte) : Keeps (RowNamed w) (tilePut o bs) :=
  RowNamed.after (pure_tileChk _ _) fun _ => rowNamed_modSt fun _ => ⟨rfl, rfl⟩
theorem rowNamed_acquireFor (n : Nat) : Keeps (RowNamed w) (acquireFor n) := by
  unfold acquireFor
  refine RowNamed.after pure_getRole fun r => ?_
  split
  · exact rowNamed_of_pure (pure_stop _)
  · exact RowNamed.after (pure_waitIf _) fun _ => rowNamed_modRole fun _ _ => .setRing ..

theorem rowNamed_pushStrm (n : Nat) (v : Row) : Keeps (RowNamed w) (pushStrm n v) := by
  unfold pushStrm
  refine RowNamed.after (pure_strmFree n) fun _ => RowNamed.after pure_getSt fun s => RowNamed.after pure_getRole fun r => ?_
  split
  · exact rowNamed_of_pure (pure_stop _)
  · refine RowNamed.after (pure_trapIf _ _ _ _) fun _ => ?_
    have hpos (t : Strm) : Keeps (RowNamed w) (modRole (fun r => match r.strm? n with
        | some u => r.setStrm n { u with c := t.sp + 1, sp := t.sp + 1 }
        | none => r)) := rowNamed_modRole fun c r => by
      split
      · exact .setStrm ..
      · exact .refl ..
    split
    · exact RowNamed.after (pure_regionPos _ _ _) fun _ => RowNamed.bind (rowNamed_regionPut _ _ _) fun _ => hpos _
    · split
      · exact RowNamed.after (pure_stop _) fun _ => hpos _
      · refine RowNamed.optional (rowNamed_acquireFor _) fun _ => RowNamed.bind (rowNamed_tilePut _ _) fun _ =>
          RowNamed.bind (rowNamed_modRole fun _ _ => .setStrm ..) fun _ =>
            RowNamed.optional (rowNamed_modRole fun c r => ?_) fun _ => hpos _
        split
        · exact .setRing ..
        · exact .refl ..
    · exact RowNamed.after (pure_trapIf _ _ _ _) fun _ => RowNamed.after (pure_waitIf _) fun _ =>
        RowNamed.bind (rowNamed_modSt fun _ => ⟨rfl, rfl⟩) fun _ => hpos _

theorem rowNamed_wrR {d : RDst} (hd : w.d = some d) (v : Row) : Keeps (RowNamed w) (wrR d v) := by
  cases d with
  | v n => exact rowNamed_wrV hd v
  | qw n => exact rowNamed_qPush _ v
  | s n => exact rowNamed_pushStrm _ v

/-! The write of a scalar destination or a predicate. -/

theorem rowNamed_wrS {d : SDst} (hd : w.sd = some d) (v : Word) : Keeps (RowNamed w) (wrS d v) :=
  rowNamed_of_onlyNamed (marks := []) (onlyNamed_wrS hd v)
theorem rowNamed_wrS0 {d : SDst} (hd : w.sd = some d) : Keeps (RowNamed w) (wrS0 d) :=
  rowNamed_of_onlyNamed (marks := []) (onlyNamed_wrS0 hd)
theorem rowNamed_wrP {p : BitVec 7} (hp : w.p = some p) (v : Pred) : Keeps (RowNamed w) (wrP p.toNat v) :=
  rowNamed_of_onlyNamed (marks := []) (onlyNamed_wrP (sparesP_ne hp) v)

/-! The bodies: each keeps to what its syllable names, and transfers nothing. -/

/-- A body that keeps to what its syllable names, and begins no loop record. -/
def RowNamedBody (w : RowWrites) (body : Iss Flow) : Prop := ∀ s f t, body s = .ok (f, t) → RowNamed w s t ∧ f = .fall

theorem RowNamedBody.fall : RowNamedBody w (pure .fall) := by
  intro s f t h
  cases h
  exact ⟨.refl w s, rfl⟩
/-- A last step. -/
theorem RowNamedBody.falls {m : Iss Unit} (h : Keeps (RowNamed w) m) : RowNamedBody w (do m; pure .fall) := by
  intro s f t hrun
  obtain ⟨_, u, hm, hend⟩ := bind_split hrun
  cases hend
  exact ⟨h _ _ _ hm, rfl⟩
theorem RowNamedBody.bind {α : Type} {m : Iss α} {f : α → Iss Flow} (h1 : Keeps (RowNamed w) m) (h2 : ∀ a, RowNamedBody w (f a)) :
    RowNamedBody w (m >>= f) := by
  intro s g t hrun
  obtain ⟨a, u, hm, hf⟩ := bind_split hrun
  obtain ⟨hu, hg⟩ := h2 a _ _ _ hf
  exact ⟨.trans _ _ _ (h1 _ _ _ hm) hu, hg⟩
theorem RowNamedBody.after {α : Type} {m : Iss α} {f : α → Iss Flow} (h1 : Pure m) (h2 : ∀ a, RowNamedBody w (f a)) :
    RowNamedBody w (m >>= f) := .bind (rowNamed_of_pure h1) h2
theorem RowNamedBody.ite {p : Prop} [Decidable p] {m m' : Iss Flow} (h : RowNamedBody w m) (h' : RowNamedBody w m') :
    RowNamedBody w (if p then m else m') := by
  split
  · exact h
  · exact h'

/-- Flags, pops, and the write of a row. -/
theorem rowNamedBody_tail {d : RDst} (hd : w.d = some d) (srcs : List (RSrc × Bool)) (v : Row) (row : Nat) (fl : List (Nat × Fl)) :
    RowNamedBody w (do raiseLanes row fl; popRows srcs; wrR d v; pure .fall) :=
  .bind (rowNamed_raiseLanes _ _) fun _ => .bind (rowNamed_popRows _) fun _ => .falls (rowNamed_wrR hd v)
theorem rowNamedBody_rowOp (h : Hdr) (ty : ETy) (srcs : List (RSrc × Bool)) {d : RDst} (hd : w.d = some d)
    {lanes : Iss (List (Nat × Fl))} (hp : Pure lanes) : RowNamedBody w (rowOp h ty srcs d lanes) :=
  .after (pure_guardP h) fun _ => .after (pure_fieldOrder _ _) fun _ => .after hp fun _ => .after (pure_oldRow d) fun _ =>
    rowNamedBody_tail hd _ _ _ _

theorem rowNamedBody_resVcmp (h : Hdr) (cc : Cond) {o : VC} (hp : w.p = some o.p) : RowNamedBody w (resVcmp h cc o) :=
  .after (pure_guardP h) fun _ => .after (pure_fieldOrder _ _) fun _ => .after (pure_rdR _) fun _ => .after (pure_rdR _) fun _ =>
    .after (pure_rdP _) fun _ => .bind (rowNamed_popRows _) fun _ => .falls (rowNamed_wrP hp _)
theorem rowNamedBody_resVrngp (h : Hdr) {o : VRngPF} (hp : w.p = some o.p) : RowNamedBody w (resVrngp h o) :=
  .after (pure_guardP h) fun _ => .after (pure_rdS _) fun _ => .after (pure_rdS _) fun _ => .after (pure_rdS _) fun _ =>
    .after (pure_rdP _) fun _ => .bind (rowNamed_popMarks _) fun _ => .falls (rowNamed_wrP hp _)
theorem rowNamedBody_resVlane (h : Hdr) {o : VLaneF} (hd : w.sd = some o.d) : RowNamedBody w (resVlane h o) :=
  .after (pure_guardP h) fun _ => .after (pure_rdR _) fun _ => .after (pure_rdS _) fun _ => .bind (rowNamed_popRows _) fun _ =>
    .ite (.falls (rowNamed_wrS hd _)) (.falls (rowNamed_wrS0 hd))
theorem rowNamedBody_reduce (h : Hdr) {o : VRedF} (hd : w.sd = some o.d) (f : Dyad → Dyad → Node) (e : Dyad) :
    RowNamedBody w (reduce h o f e) :=
  .after (pure_guardP h) fun _ => .after (pure_rdR _) fun _ => .bind (rowNamed_raiseI _ _ _) fun _ =>
    .bind (rowNamed_popRows _) fun _ => .falls (rowNamed_wrS hd _)
theorem rowNamedBody_resVins (h : Hdr) {o : VInsF} (hd : w.d = some (.v o.d)) : RowNamedBody w (resVins h o) :=
  .after (pure_guardP h) fun _ => .after (pure_rdS _) fun _ => .after (pure_rdS _) fun _ => .after (pure_rdV _) fun _ =>
    .bind (rowNamed_popMarks _) fun _ => .ite (.falls (rowNamed_wrV hd _)) .fall
theorem rowNamedBody_resVcvt (h : Hdr) {o : VCvtF} (hd : w.d = some o.d) : RowNamedBody w (resVcvt h o) :=
  .after (pure_guardP h) fun _ => .after (pure_fieldOrder _ _) fun _ => .after (pure_rdR _) fun _ => .after (pure_oldRow _) fun _ =>
    rowNamedBody_tail hd _ _ _ _
theorem rowNamedBody_resVquant (h : Hdr) {o : VSxF} (hd : w.d = some o.d) : RowNamedBody w (resVquant h o) :=
  .after (pure_guardP h) fun _ => .after (pure_fieldOrder _ _) fun _ => .after (pure_rdR _) fun _ => .after (pure_oldRow _) fun _ =>
    rowNamedBody_tail hd _ _ _ _
theorem rowNamedBody_resVscale (h : Hdr) {o : VScaleF} (hd : w.d = some o.d) : RowNamedBody w (resVscale h o) :=
  .after (pure_guardP h) fun _ => .after (pure_fieldOrder _ _) fun _ => .after (pure_rdR _) fun _ => .after (pure_rdS _) fun _ =>
    .after (pure_oldRow _) fun _ => rowNamedBody_tail hd _ _ _ _
end

/-- R150 to R170: each body writes what its syllable names. -/
theorem rowNamed_body {i : Instr} {w : RowWrites} (hw : vectorWrites i = some w) :
    ∃ n b body, issueOf i = some (n, b, body) ∧ RowNamedBody w body := by
  cases i <;> cases hw <;> refine ⟨_, _, _, rfl, ?_⟩
  case vadd | vsub | vmul | vdiv | vmin | vmax | vadds | vsubs | vmulhi | vand | vor | vxor | vandn | vshl | vshr | vsar | vperm |
      vzip | vunzip =>
    exact rowNamedBody_rowOp _ _ _ rfl ((pure_rdR _).bind fun _ => (pure_rdR _).bind fun _ => pure_pure _)
  case vfma | vfnma =>
    exact rowNamedBody_rowOp _ _ _ rfl ((pure_rdR _).bind fun _ => (pure_rdR _).bind fun _ => (pure_rdR _).bind fun _ => pure_pure _)
  case vabs | vneg | vnot | vmov | vrecip | vrsqrt | vsqrt | vexp2 | vlog2 | vtanh | vsigm | vdeq =>
    exact rowNamedBody_rowOp _ _ _ rfl ((pure_rdR _).bind fun _ => pure_pure _)
  case vscansum =>
    exact .after (pure_guardP _) fun _ => rowNamedBody_rowOp _ _ _ rfl ((pure_rdR _).bind fun _ => pure_pure _)
  case vsel =>
    exact rowNamedBody_rowOp _ _ _ rfl ((pure_rdR _).bind fun _ => (pure_rdR _).bind fun _ => (pure_rdP _).bind fun _ => pure_pure _)
  case vbcast | vrot => exact rowNamedBody_rowOp _ _ _ rfl ((pure_rdR _).bind fun _ => (pure_rdS _).bind fun _ => pure_pure _)
  case vrng => exact rowNamedBody_rowOp _ _ _ rfl ((pure_rdS _).bind fun _ => (pure_rdS _).bind fun _ => pure_pure _)
  case vcvt => exact rowNamedBody_resVcvt _ rfl
  case vquant => exact rowNamedBody_resVquant _ rfl
  case vscale => exact rowNamedBody_resVscale _ rfl
  case vins => exact rowNamedBody_resVins _ rfl
  case vlane => exact rowNamedBody_resVlane _ rfl
  case vredsum | vredmax | vredmin => exact rowNamedBody_reduce _ rfl _ _
  case vcmp => exact rowNamedBody_resVcmp _ _ rfl
  case vrngp => exact rowNamedBody_resVrngp _ rfl

/-! What surrounds a body names nothing. -/

section
variable {w : RowWrites} {body : Iss Flow} (h : RowNamedBody w body)
include h

theorem RowNamedBody.commit (n : Nat) : Keeps (RowNamed w) (commit n body) := by
  intro s p t hrun
  unfold Machine.commit at hrun
  obtain ⟨_, s0, hgate, hrun⟩ := bind_split hrun
  cases pure_boundaryGate _ _ _ hgate
  obtain ⟨f, u, hbody, hrun⟩ := bind_split hrun
  obtain ⟨hu, rfl⟩ := h _ _ _ hbody
  have hgoes : Keeps (OnlyNamed (w.scalar [])) (do
      modClu (fun c => { c with lrec := c.lrec.map (fun l => { l with boundary := false }) })
      let p ← settle n .fall
      modSt (fun s => s.setRole s.curKey { s.curRole with lastAct := s.cycle })
      pure p : Iss Post) :=
    OnlyNamed.bind (onlyNamed_modClu fun c hl => by rw [hl]; rfl) fun _ => OnlyNamed.bind (onlyNamed_settle n nofun) fun _ =>
      OnlyNamed.bind (fun s _ t e => by
        cases e
        exact onlyNamed_setRole (.of_rest ⟨fun _ => rfl, rfl⟩ id rfl rfl rfl fun d => by cases d <;> rfl))
        fun _ => onlyNamed_of_pure (pure_pure _)
  exact hu.trans _ _ _ (hgoes _ _ _ hrun).toRow

/-- A syllable with a next state has committed, waits, or has stopped its role. -/
theorem RowNamedBody.issue {n : Nat} {b : Bool} {s t : State} (hrun : issueN n b body s = .next t) : RowNamed w s t := by
  unfold issueN at hrun
  split at hrun
  · cases hrun
  · split at hrun
    · next p u hcommit =>
      cases hrun
      refine RowNamed.trans _ _ _ ?_ (onlyNamed_applyPost (w := w.scalar []) ..).toRow
      cases b
      · exact h.commit n _ _ _ hcommit
      · obtain ⟨_, s0, hgate, hcommit⟩ := bind_split hcommit
        cases pure_syncGate _ _ _ _ hgate
        exact h.commit n _ _ _ hcommit
    · cases hrun
      exact .refl w s
    · cases hrun
      exact (onlyNamed_takeStop (w := w.scalar []) ..).toRow
    · cases hrun
      exact (onlyNamed_deferredAt (w := w.scalar []) ..).toRow
end

/-- A vector syllable is no LREC. -/
theorem isLrec_of_vectorWrites {i : Instr} {w : RowWrites} (hw : vectorWrites i = some w) : isLrec i = false := by
  cases i
  case lrec => cases hw
  all_goals rfl
/-- Without a stream destination it stores in no tile store. -/
theorem quiet_of_vectorWrites {i : Instr} {w : RowWrites} (hw : vectorWrites i = some w) (hd : ∀ m, w.d ≠ some (.s m)) : Quiet i := by
  refine ⟨fun h x m hi => ?_, fun h d => ⟨fun hi => ?_, fun hi => ?_⟩, fun w' hw' n hn => ?_⟩
  · rw [hi] at hw
    cases hw
  · rw [hi] at hw
    cases hw
  · rw [hi] at hw
    cases hw
  · cases hw.symm.trans hw'
    exact hd n hn

/-- Settles O35: the frame of every syllable says what lies outside the role; of the role, a vector body keeps what its syllable does not
name, and so does all that surrounds it. -/
theorem vectorFrame : Obligations.VectorFrame := by
  unfold Obligations.VectorFrame
  intro i w s t hw hx
  obtain ⟨n, b, body, hi, hbody⟩ := rowNamed_body hw
  obtain ⟨haround, hmem, htile⟩ := exec_frame hi (isLrec_of_vectorWrites hw) hx
  rw [exec_issueOf hi] at hx
  have hrole := (hbody.issue hx).2
  have hpoison : t.poison = s.poison := by rw [haround.rest]
  exact ⟨hmem, hpoison, haround.roles, hrole.vs, fun n hn => hrole.xs n ⟨hn, nofun⟩, hrole.ps,
    fun hd => htile.quiet (quiet_of_vectorWrites hw hd), hrole.clus, hrole.acc⟩

end Sys2Proof.Machine
end

section
/-! ### The special functions: what they round, and how (R33 to R36, R159, R160; logs 9 and 14) -/
namespace Sys2Proof.Machine

/-- The mode in which the neighbour of v that lies away from 0 is the result of rounding. -/
def awayMode (v : Dyad) : RM := if v.isNeg then .rdn else .rup

/-- R159: but for FP32, and for VSQRT in every type, the value is rounded once in the syllable's mode. -/
theorem sfu_rounds {k : Nat} {ty : ETy} (h : ty ≠ .fp32 ∨ k = 2) (rm : RM) (n : Nat) (x : Dyad) :
    sfu k ty rm n x = ((roundF ty rm (sfuNum k x).1).1, (sfuNum k x).2 ||| (roundF ty rm (sfuNum k x).1).2) := by
  have hno : ¬ ((ty == .fp32 && decide (k ≠ 2)) = true) := by
    rcases h with h | h <;> simp [h]
  unfold sfu
  dsimp only
  rw [if_neg hno]

/-- R159: in FP32 the value is rounded away from 0 or towards it, whatever the syllable's mode; towards it nothing overflows. -/
theorem sfu_fp32 {k : Nat} (hk : k ≠ 2) (rm : RM) (n : Nat) (x : Dyad) : sfu k .fp32 rm n x =
    if Config.sfuAway k (BitVec.ofNat 32 n) then
      ((roundF .fp32 (awayMode (sfuNum k x).1) (sfuNum k x).1).1,
        (sfuNum k x).2 ||| (roundF .fp32 (awayMode (sfuNum k x).1) (sfuNum k x).1).2)
    else ((roundF .fp32 .rtz (sfuNum k x).1).1, (sfuNum k x).2 ||| ((roundF .fp32 .rtz (sfuNum k x).1).2 &&& ~~~fOF)) := by
  have hyes : (ETy.fp32 == ETy.fp32 && decide (k ≠ 2)) = true := by simp [hk]
  unfold sfu
  dsimp only
  rw [if_pos hyes]
  cases Config.sfuAway k (BitVec.ofNat 32 n) <;> rfl

/-- A value that every mode rounds to the same code without a flag. -/
theorem sfu_of_exact {k : Nat} {ty : ETy} {x : Dyad} {code : Nat} (h : ∀ m, roundF ty m (sfuNum k x).1 = (code, 0)) (rm : RM) (n : Nat) :
    sfu k ty rm n x = (code, (sfuNum k x).2) := by
  by_cases hk : ty ≠ .fp32 ∨ k = 2
  · rw [sfu_rounds hk, h]
    simp
  · obtain ⟨hty, hk2⟩ := not_or.mp hk
    obtain rfl : ty = .fp32 := not_not.mp hty
    rw [sfu_fp32 hk2, h, h]
    simp

/-! The special values in the three types. -/

theorem roundF_inf {ty : ETy} (hty : ty.hasInf = true) (neg : Bool) (m : RM) :
    roundF ty m (.inf neg) = (signed ty neg ty.infCode, 0) := if_pos hty
theorem roundF_zero (ty : ETy) (neg : Bool) (e : Int) (m : RM) : roundF ty m (.fin neg 0 e) = (signed ty neg 0, 0) := rfl

/-- The types of the special functions. -/
def IsSfuType (ty : ETy) : Prop := ty = .fp32 ∨ ty = .bf16 ∨ ty = .fp16

theorem IsSfuType.hasInf {ty : ETy} (h : IsSfuType ty) : ty.hasInf = true := by
  rcases h with rfl | rfl | rfl <;> rfl
theorem roundF_one {ty : ETy} (h : IsSfuType ty) (neg : Bool) (m : RM) :
    roundF ty m (.fin neg 1 0) = (signed ty neg (ty.bias * 2 ^ ty.mbits), 0) := by
  rcases h with rfl | rfl | rfl <;> cases m <;> cases neg <;> decide
theorem roundF_half {ty : ETy} (h : IsSfuType ty) (m : RM) :
    roundF ty m (.fin false 1 (-1)) = ((ty.bias - 1) * 2 ^ ty.mbits, 0) := by
  rcases h with rfl | rfl | rfl <;> cases m <;> decide

/-- The seven minors on one input. -/
theorem sfu_row (ty : ETy) (rm : RM) (c : Nat) (x : Dyad) : (List.range 7).map (fun k => sfu k ty rm c x) =
    [sfu 0 ty rm c x, sfu 1 ty rm c x, sfu 2 ty rm c x, sfu 3 ty rm c x, sfu 4 ty rm c x, sfu 5 ty rm c x, sfu 6 ty rm c x] := rfl

/-- The minors that have no value for a negative number. -/
theorem sfuNum_negative {k : Nat} (hk : k = 1 ∨ k = 2 ∨ k = 4) {m : Nat} (hm : 0 < m) (e : Int) :
    sfuNum k (.fin true m e) = (.nan, fIV) := by
  rcases hk with rfl | rfl | rfl <;> exact if_neg (Nat.ne_of_gt hm)

/-- Settles O30: every special value is one that each mode rounds to the same code without a flag. -/
theorem specialFunctionInputs : Obligations.SpecialFunctionInputs := by
  unfold Obligations.SpecialFunctionInputs
  intro ty rm c hty inf one half minus row
  have hty : IsSfuType ty := hty
  have hrow (x : Dyad) : row x = _ := sfu_row ty rm c x
  have hnan {k : Nat} {x : Dyad} (h : (sfuNum k x).1 = .nan) : sfu k ty rm c x = (ty.nanCode, (sfuNum k x).2) :=
    sfu_of_exact (fun m => by rw [h]; rfl) rm c
  have hinf {k : Nat} {x : Dyad} (neg : Bool) (h : (sfuNum k x).1 = .inf neg) :
      sfu k ty rm c x = (signed ty neg inf, (sfuNum k x).2) :=
    sfu_of_exact (fun m => by rw [h, roundF_inf hty.hasInf]) rm c
  have hzero {k : Nat} {x : Dyad} (neg : Bool) (h : (sfuNum k x).1 = .fin neg 0 0) :
      sfu k ty rm c x = (signed ty neg 0, (sfuNum k x).2) :=
    sfu_of_exact (fun m => by rw [h, roundF_zero]) rm c
  have hone {k : Nat} {x : Dyad} (neg : Bool) (h : (sfuNum k x).1 = .fin neg 1 0) :
      sfu k ty rm c x = (signed ty neg one, (sfuNum k x).2) :=
    sfu_of_exact (fun m => by rw [h, roundF_one hty]) rm c
  have hhalf {k : Nat} {x : Dyad} (h : (sfuNum k x).1 = .fin false 1 (-1)) : sfu k ty rm c x = (half, (sfuNum k x).2) :=
    sfu_of_exact (fun m => by rw [h, roundF_half hty]) rm c
  refine ⟨?_, fun e => ?_, fun e => ?_, ?_, ?_, fun m e hm => ?_⟩
  · rw [hrow, hnan rfl, hnan rfl, hnan rfl, hnan rfl, hnan rfl, hnan rfl, hnan rfl]
    rfl
  · rw [hrow, hinf false rfl, hinf false rfl, hzero false rfl, hone false rfl, hinf true rfl, hzero false rfl, hhalf rfl]
    rfl
  · rw [hrow, hinf true rfl, hinf true rfl, hzero true rfl, hone false rfl, hinf true rfl, hzero true rfl, hhalf rfl]
    rfl
  · rw [hrow, hzero false rfl, hzero false rfl, hinf false rfl, hinf false rfl, hinf false rfl, hone false rfl, hone false rfl]
    rfl
  · rw [hrow, hzero true rfl, hnan rfl, hnan rfl, hzero false rfl, hnan rfl, hone true rfl, hzero false rfl]
    rfl
  · have hneg {k : Nat} (hk : k = 1 ∨ k = 2 ∨ k = 4) : sfu k ty rm c (.fin true m e) = (ty.nanCode, fIV) := by
      rw [hnan (by rw [sfuNum_negative hk hm]), sfuNum_negative hk hm]
    exact ⟨hneg (.inl rfl), hneg (.inr (.inl rfl)), hneg (.inr (.inr rfl))⟩

end Sys2Proof.Machine
end

section
/-! ### Magnitudes as rational numbers: reciprocals and roots (R33, R159; log 14) -/
namespace Sys2Proof.Machine

/-- m * 2^e. -/
def dyadQ (m : Nat) (e : Int) : ℚ := m * 2 ^ e

theorem dyadQ_shift (m : Nat) (e : Int) (k : Nat) : dyadQ (m * 2 ^ k) e = dyadQ m (e + k) := by
  unfold dyadQ
  rw [zpow_add₀ two_ne_zero, zpow_natCast]
  push_cast
  ring
theorem dyadQ_mul (m n : Nat) (e f : Int) : dyadQ (m * n) (e + f) = dyadQ m e * dyadQ n f := by
  unfold dyadQ
  rw [zpow_add₀ two_ne_zero]
  push_cast
  ring
theorem dyadQ_nonneg (m : Nat) (e : Int) : 0 ≤ dyadQ m e := by
  unfold dyadQ
  positivity
theorem dyadQ_one : dyadQ 1 0 = 1 := by simp [dyadQ]

theorem cmp_dyadQ (a b : Nat) (e : Int) : cmp (dyadQ a e) (dyadQ b e) = compare a b := by
  unfold dyadQ
  rw [cmp_mul_pos_right (zpow_pos two_pos e), Nat.strictMono_cast.cmp_map_eq, cmp_eq_compare]

/-- The comparison of magnitudes is that of the numbers. -/
theorem cmpMag_eq (m1 : Nat) (e1 : Int) (m2 : Nat) (e2 : Int) : cmpMag m1 e1 m2 e2 = cmp (dyadQ m1 e1) (dyadQ m2 e2) := by
  unfold cmpMag
  split
  · next h =>
    obtain ⟨k, rfl⟩ := Int.le.dest h
    rw [add_sub_cancel_left, Int.toNat_natCast, Nat.shiftLeft_eq, ← dyadQ_shift, cmp_dyadQ]
  · next h =>
    obtain ⟨k, rfl⟩ := Int.le.dest (Int.le_of_lt (Int.not_le.mp h))
    rw [add_sub_cancel_left, Int.toNat_natCast, Nat.shiftLeft_eq, ← dyadQ_shift, cmp_dyadQ]

/-- Against a magnitude of an exponent that is no smaller. -/
theorem cmpMag_shift (a b : Nat) (e : Int) (k : Nat) : cmpMag a e b (e + k) = compare a (b * 2 ^ k) := by
  rw [cmpMag_eq, ← dyadQ_shift, cmp_dyadQ]

/-! A value that a dyadic number r * 2^x stands for: exactly, or, r being odd, between its even neighbours. -/

/-- `cmp r x` compares what r * 2^x gives with what it should give. -/
def Brackets (cmp : Nat → Int → Ordering) (r : Nat) (x : Int) : Prop :=
  cmp r x = .eq ∨ r % 2 = 1 ∧ 2 ^ 64 ≤ r ∧ cmp (r - 1) x = .lt ∧ cmp (r + 1) x = .gt

/-- A floor q with a sticky last bit. -/
theorem brackets_sticky {cmp : Nat → Int → Ordering} (hhalf : ∀ q x, cmp (2 * q) (x - 1) = cmp q x) {q : Nat} {x : Int}
    (hbig : 2 ^ 63 ≤ q) (hlo : cmp q x = .lt) (hhi : cmp (q + 1) x = .gt) : Brackets cmp (2 * q + 1) (x - 1) := by
  refine .inr ⟨by omega, by omega, ?_, ?_⟩
  · rw [Nat.add_sub_cancel, hhalf, hlo]
  · rw [show 2 * q + 1 + 1 = 2 * (q + 1) from rfl, hhalf, hhi]

/-! Reciprocals. -/

/-- How r * 2^x, times m * 2^e, compares with 1. -/
def cmpRecip (m : Nat) (e : Int) (r : Nat) (x : Int) : Ordering := cmpMag (r * m) (x + e) 1 0

theorem cmpRecip_half (m : Nat) (e : Int) (q : Nat) (x : Int) : cmpRecip m e (2 * q) (x - 1) = cmpRecip m e q x := by
  unfold cmpRecip
  rw [cmpMag_eq, cmpMag_eq, show 2 * q * m = q * m * 2 ^ 1 by ring, dyadQ_shift]
  congr 2
  push_cast
  ring

theorem divMag_one (m : Nat) (e : Int) : divMag 1 0 m e =
    if 2 ^ (80 + Nat.log2 m) % m = 0 then (2 ^ (80 + Nat.log2 m) / m, 0 - e - (80 + Nat.log2 m : Nat))
    else (2 * (2 ^ (80 + Nat.log2 m) / m) + 1, 0 - e - (80 + Nat.log2 m : Nat) - 1) := by
  rw [← Nat.one_shiftLeft]
  rfl

theorem divMag_brackets {m : Nat} (hm : 0 < m) (e : Int) :
    Brackets (cmpRecip m e) (divMag 1 0 m e).1 (divMag 1 0 m e).2 := by
  have hcmp (q : Nat) : cmpRecip m e q (0 - e - (80 + Nat.log2 m : Nat)) = compare (q * m) (2 ^ (80 + Nat.log2 m)) := by
    have h := cmpMag_shift (q * m) 1 (-(80 + Nat.log2 m : Nat)) (80 + Nat.log2 m)
    rw [neg_add_cancel, Nat.one_mul] at h
    rw [← h, cmpRecip]
    congr 1
    ring
  rw [divMag_one]
  split
  · next hmod =>
    refine .inl ((hcmp _).trans ?_)
    rw [Nat.div_mul_cancel (Nat.dvd_of_mod_eq_zero hmod)]
    exact Nat.compare_eq_eq.mpr rfl
  · next hmod =>
    have hdm := Nat.div_add_mod (2 ^ (80 + Nat.log2 m)) m
    have hlt := Nat.mod_lt (2 ^ (80 + Nat.log2 m)) hm
    refine brackets_sticky (cmpRecip_half m e) ?_ ((hcmp _).trans (Nat.compare_eq_lt.mpr ?_)) ((hcmp _).trans (Nat.compare_eq_gt.mpr ?_))
    · have hlog : m < 2 ^ (Nat.log2 m + 1) := Nat.lt_log2_self
      rw [Nat.le_div_iff_mul_le hm]
      calc 2 ^ 63 * m ≤ 2 ^ 79 * 2 ^ (Nat.log2 m + 1) := Nat.mul_le_mul (by decide) (Nat.le_of_lt hlog)
        _ = 2 ^ (80 + Nat.log2 m) := by rw [← Nat.pow_add]; congr 1; omega
    · rw [Nat.mul_comm]
      omega
    · rw [Nat.succ_mul, Nat.mul_comm]
      omega

/-! Square roots. -/

theorem isqrtGo_spec (k n r : Nat) (hlo : r * r ≤ n) (hhi : n < (r + 2 ^ k) * (r + 2 ^ k)) : isqrtGo k n r = Nat.sqrt n := by
  induction k generalizing r with
  | zero => exact Nat.eq_sqrt.mpr ⟨hlo, hhi⟩
  | succ k ih =>
    show isqrtGo k n (if (r + 2 ^ k) * (r + 2 ^ k) ≤ n then r + 2 ^ k else r) = _
    split
    · next hle =>
      refine ih _ hle ?_
      rwa [Nat.add_assoc, ← Nat.two_mul, ← Nat.pow_succ']
    · next hgt => exact ih _ hlo (Nat.not_le.mp hgt)

theorem isqrt_eq (n : Nat) : isqrt n = Nat.sqrt n := by
  refine isqrtGo_spec _ _ _ (Nat.zero_le _) ?_
  have hlog : n < 2 ^ (Nat.log2 n + 1) := Nat.lt_log2_self
  rw [Nat.zero_add, ← Nat.pow_add]
  exact Nat.lt_of_lt_of_le hlog (Nat.pow_le_pow_right (by decide) (by omega))

/-- The shift that makes the exponent even. -/
def rootShift (e : Int) : Nat := 200 + (if e % 2 = 0 then 0 else 1)

theorem rootShift_ge (e : Int) : 200 ≤ rootShift e := Nat.le_add_right ..
theorem two_mul_half (e : Int) : 2 * ((e - rootShift e) / 2) = e - rootShift e := by
  unfold rootShift
  split <;> push_cast <;> omega

/-- How the square of r * 2^x compares with m * 2^e. -/
def cmpRoot (m : Nat) (e : Int) (r : Nat) (x : Int) : Ordering := cmpMag (r * r) (2 * x) m e

theorem cmpRoot_half (m : Nat) (e : Int) (q : Nat) (x : Int) : cmpRoot m e (2 * q) (x - 1) = cmpRoot m e q x := by
  unfold cmpRoot
  rw [cmpMag_eq, cmpMag_eq, show 2 * q * (2 * q) = q * q * 2 ^ 2 by ring, dyadQ_shift]
  congr 2
  push_cast
  ring
theorem cmpRoot_base (m : Nat) (e : Int) (r : Nat) :
    cmpRoot m e r ((e - rootShift e) / 2) = compare (r * r) (m * 2 ^ rootShift e) := by
  have h := cmpMag_shift (r * r) m (e - rootShift e) (rootShift e)
  rwa [sub_add_cancel, ← two_mul_half] at h

theorem sqrtMag_eq (m : Nat) (e : Int) : sqrtMag m e =
    if Nat.sqrt (m * 2 ^ rootShift e) * Nat.sqrt (m * 2 ^ rootShift e) = m * 2 ^ rootShift e then
      (Nat.sqrt (m * 2 ^ rootShift e), (e - rootShift e) / 2)
    else (2 * Nat.sqrt (m * 2 ^ rootShift e) + 1, (e - rootShift e) / 2 - 1) := by
  rw [← isqrt_eq, ← Nat.shiftLeft_eq]
  rfl

theorem sqrtMag_brackets {m : Nat} (hm : 0 < m) (e : Int) : Brackets (cmpRoot m e) (sqrtMag m e).1 (sqrtMag m e).2 := by
  have hle := Nat.sqrt_le (m * 2 ^ rootShift e)
  rw [sqrtMag_eq]
  split
  · next hexact => exact .inl ((cmpRoot_base ..).trans (Nat.compare_eq_eq.mpr hexact))
  · next hexact =>
    refine brackets_sticky (cmpRoot_half m e) (Nat.le_sqrt.mpr ?_) ((cmpRoot_base ..).trans (Nat.compare_eq_lt.mpr ?_))
      ((cmpRoot_base ..).trans (Nat.compare_eq_gt.mpr (Nat.lt_succ_sqrt _)))
    · calc 2 ^ 63 * 2 ^ 63 ≤ 1 * 2 ^ 200 := by decide
        _ ≤ m * 2 ^ rootShift e := Nat.mul_le_mul hm (Nat.pow_le_pow_right (by decide) (rootShift_ge e))
    · exact Nat.lt_of_le_of_ne hle hexact

/-- A square root that is dyadic is found. -/
theorem sqrtMag_of_square {m w : Nat} {e : Int} (h : w * w = m * 2 ^ rootShift e) :
    cmpRoot m e (sqrtMag m e).1 (sqrtMag m e).2 = .eq := by
  have hw : Nat.sqrt (m * 2 ^ rootShift e) = w := by rw [← h, Nat.sqrt_eq]
  rw [sqrtMag_eq, hw, if_pos h]
  exact (cmpRoot_base ..).trans (Nat.compare_eq_eq.mpr h)

/-! Reciprocals of square roots. -/

/-- How the square of r * 2^x, times m * 2^e, compares with 1. -/
def cmpRsqrt (m : Nat) (e : Int) (r : Nat) (x : Int) : Ordering := cmpMag (r * r * m) (2 * x + e) 1 0

theorem cmpRsqrt_half (m : Nat) (e : Int) (q : Nat) (x : Int) : cmpRsqrt m e (2 * q) (x - 1) = cmpRsqrt m e q x := by
  unfold cmpRsqrt
  rw [cmpMag_eq, cmpMag_eq, show 2 * q * (2 * q) * m = q * q * m * 2 ^ 2 by ring, dyadQ_shift]
  congr 2
  push_cast
  ring

/-- 1/√x is the reciprocal of √x. -/
theorem cmpRsqrt_eq_cmpRecip {m r : Nat} {e er : Int} (h : cmpRoot m e r er = .eq) (q : Nat) (x : Int) :
    cmpRsqrt m e q x = cmpRecip r er q x := by
  have hroot : dyadQ (r * r) (2 * er) = dyadQ m e := by rwa [cmpRoot, cmpMag_eq, cmp_eq_eq_iff] at h
  have hsq : dyadQ (q * q * m) (2 * x + e) = dyadQ (q * r) (x + er) * dyadQ (q * r) (x + er) := by
    rw [dyadQ_mul (q * q) m, ← hroot, ← dyadQ_mul, ← dyadQ_mul]
    congr 1 <;> ring
  have hmono : StrictMonoOn (fun y : ℚ => y * y) (Set.Ici 0) := fun a ha b _ hab => mul_self_lt_mul_self ha hab
  unfold cmpRsqrt cmpRecip
  rw [cmpMag_eq, cmpMag_eq, hsq, dyadQ_one]
  have hcmp := hmono.cmp_map_eq (dyadQ_nonneg (q * r) (x + er)) (Set.mem_Ici.mpr zero_le_one)
  rwa [mul_one] at hcmp

/-- The number of an even exponent that m * 2^e is. -/
def evenMant (m : Nat) (e : Int) : Nat := if e % 2 = 0 then m else 2 * m
def evenExp (e : Int) : Int := if e % 2 = 0 then e else e - 1

theorem evenMant_pos {m : Nat} (hm : 0 < m) (e : Int) : 0 < evenMant m e := by
  unfold evenMant
  split <;> omega
theorem two_mul_evenExp (e : Int) : 2 * (evenExp e / 2) = evenExp e := by
  unfold evenExp
  split <;> omega
theorem dyadQ_even (m : Nat) (e : Int) : dyadQ (evenMant m e) (evenExp e) = dyadQ m e := by
  unfold evenMant evenExp
  split
  · rfl
  · rw [show 2 * m = m * 2 ^ 1 by ring, dyadQ_shift]
    congr 1
    push_cast
    ring
theorem evenMant_shift (m : Nat) (e : Int) : evenMant m e * 2 ^ 200 = m * 2 ^ rootShift e := by
  unfold evenMant rootShift
  split
  · rfl
  · ring

theorem cmpRsqrt_base (m : Nat) (e : Int) (s r : Nat) :
    cmpRsqrt m e r (-(s : Int) - evenExp e / 2) = compare (r * r * evenMant m e) (2 ^ (2 * s)) := by
  have h := cmpMag_shift (r * r * evenMant m e) 1 (-(2 * s : Nat)) (2 * s)
  rw [neg_add_cancel, Nat.one_mul] at h
  rw [← h, cmpRsqrt, cmpMag_eq, cmpMag_eq, dyadQ_mul, ← dyadQ_even m e, ← dyadQ_mul]
  congr 2
  have heven := two_mul_evenExp e
  push_cast
  omega

/-- The scale of the reciprocal of a square root that is not dyadic. -/
def rsqrtScale (m : Nat) (e : Int) : Nat := 200 + Nat.log2 (evenMant m e)

theorem sfuNum_rsqrt {m : Nat} (hm : 0 < m) (e : Int) : sfuNum 1 (.fin false m e) =
    if cmpRoot m e (sqrtMag m e).1 (sqrtMag m e).2 = .eq then
      (.fin false (divMag 1 0 (sqrtMag m e).1 (sqrtMag m e).2).1 (divMag 1 0 (sqrtMag m e).1 (sqrtMag m e).2).2, 0)
    else (.fin false (2 * Nat.sqrt (2 ^ (2 * rsqrtScale m e) / evenMant m e) + 1) (-(rsqrtScale m e : Int) - evenExp e / 2 - 1), 0) := by
  rw [← isqrt_eq]
  show (if m = 0 then _ else _) = _
  rw [if_neg (Nat.ne_of_gt hm)]
  simp only [beq_iff_eq]
  rfl

theorem rsqrt_inexact {m : Nat} (hm : 0 < m) {e : Int} (h : cmpRoot m e (sqrtMag m e).1 (sqrtMag m e).2 ≠ .eq) :
    Brackets (cmpRsqrt m e) (2 * Nat.sqrt (2 ^ (2 * rsqrtScale m e) / evenMant m e) + 1)
      (-(rsqrtScale m e : Int) - evenExp e / 2 - 1) := by
  have hpos := evenMant_pos hm e
  have hlo : Nat.sqrt (2 ^ (2 * rsqrtScale m e) / evenMant m e) * Nat.sqrt (2 ^ (2 * rsqrtScale m e) / evenMant m e) *
      evenMant m e ≤ 2 ^ (2 * rsqrtScale m e) := (Nat.le_div_iff_mul_le hpos).mp (Nat.sqrt_le _)
  have hhi : 2 ^ (2 * rsqrtScale m e) < (Nat.sqrt (2 ^ (2 * rsqrtScale m e) / evenMant m e) + 1) *
      (Nat.sqrt (2 ^ (2 * rsqrtScale m e) / evenMant m e) + 1) * evenMant m e :=
    (Nat.div_lt_iff_lt_mul hpos).mp (Nat.lt_succ_sqrt _)
  have hbig : 2 ^ 63 ≤ Nat.sqrt (2 ^ (2 * rsqrtScale m e) / evenMant m e) := by
    have hlog : evenMant m e < 2 ^ (Nat.log2 (evenMant m e) + 1) := Nat.lt_log2_self
    rw [Nat.le_sqrt, Nat.le_div_iff_mul_le hpos]
    calc 2 ^ 63 * 2 ^ 63 * evenMant m e ≤ 2 ^ 126 * 2 ^ (Nat.log2 (evenMant m e) + 1) :=
          Nat.mul_le_mul (by decide) (Nat.le_of_lt hlog)
      _ ≤ 2 ^ (2 * rsqrtScale m e) := by
        rw [← Nat.pow_add]
        exact Nat.pow_le_pow_right (by decide) (by unfold rsqrtScale; omega)
  generalize Nat.sqrt (2 ^ (2 * rsqrtScale m e) / evenMant m e) = v at *
  refine brackets_sticky (cmpRsqrt_half m e) hbig ((cmpRsqrt_base ..).trans (Nat.compare_eq_lt.mpr (Nat.lt_of_le_of_ne hlo ?_)))
    ((cmpRsqrt_base ..).trans (Nat.compare_eq_gt.mpr hhi))
  -- otherwise m * 2^e is a square, whose root would have been found
  intro heq
  obtain ⟨w, hw⟩ : v ∣ 2 ^ rsqrtScale m e := by
    rw [← Nat.pow_dvd_pow_iff (n := 2) (by decide), ← Nat.pow_mul, Nat.mul_comm (rsqrtScale m e), ← heq, Nat.pow_two]
    exact Nat.dvd_mul_right ..
  have hv : 0 < v := by omega
  have hsquare : w * w = evenMant m e := by
    have hscale : v * v * evenMant m e = v * v * (w * w) := by
      rw [heq, Nat.mul_comm 2, Nat.pow_mul, hw]
      ring
    exact (Nat.eq_of_mul_eq_mul_left (Nat.mul_pos hv hv) hscale).symm
  refine h (sqrtMag_of_square (w := w * 2 ^ 100) ?_)
  rw [← evenMant_shift, ← hsquare]
  ring

theorem rsqrt_brackets {m : Nat} (hm : 0 < m) (e : Int) : ∃ r x, sfuNum 1 (.fin false m e) = (.fin false r x, 0) ∧
    Brackets (cmpRsqrt m e) r x := by
  rw [sfuNum_rsqrt hm]
  by_cases h : cmpRoot m e (sqrtMag m e).1 (sqrtMag m e).2 = .eq
  · rw [if_pos h]
    refine ⟨_, _, rfl, ?_⟩
    have hroot : 0 < (sqrtMag m e).1 := by
      refine Nat.pos_of_ne_zero fun h0 => ?_
      have hzero : dyadQ 0 (2 * (sqrtMag m e).2) = dyadQ m e := by
        rwa [h0, cmpRoot, cmpMag_eq, cmp_eq_eq_iff, Nat.zero_mul] at h
      have hm' : (0 : ℚ) < m := Nat.cast_pos.mpr hm
      have hne : dyadQ m e ≠ 0 := mul_ne_zero hm'.ne' (zpow_ne_zero e two_ne_zero)
      exact hne (hzero.symm.trans (by simp [dyadQ]))
    have hrecip := divMag_brackets hroot (sqrtMag m e).2
    unfold Brackets at hrecip ⊢
    simpa only [cmpRsqrt_eq_cmpRecip h] using hrecip
  · rw [if_neg h]
    exact ⟨_, _, rfl, rsqrt_inexact hm h⟩

end Sys2Proof.Machine
end

section
/-! ### Rounding in the directed modes (R33 to R36, R40) -/
namespace Sys2Proof.Machine

/-- What the rounded multiple n of 2^q, and whether rounding changed the value, come to. -/
def deliver (t : ETy) (rm : RM) (neg : Bool) (q : Int) (r : Nat × Bool) : Nat × Fl :=
  if cmpMag r.1 q (maxMant t) (maxExp t) == .gt then (overflowCode t rm neg, fOF ||| fNX)
  else
    let mag := if r.1 = 0 then 0 else (q - t.qmin).toNat * 2 ^ t.mbits + r.1
    (signed t neg mag, (if r.2 then fNX else 0) ||| (if r.2 && mag < 2 ^ t.mbits then fUF else 0))

/-- The exponent of the last place that rounding keeps. -/
def lastPlace (t : ETy) (m : Nat) (e : Int) : Int := max ((Nat.log2 m : Int) + e - t.mbits) t.qmin

theorem roundF_directed {rm : RM} (hrm : rm ≠ .rne) (t : ETy) (neg : Bool) {m : Nat} (hm : m ≠ 0) (e : Int) :
    roundF t rm (.fin neg m e) = deliver t rm neg (lastPlace t m e) (roundAt rm neg m e (lastPlace t m e)) := by
  have hhalf : (rm == .rne) = false := beq_eq_false_iff_ne.mpr hrm
  simp only [roundF, if_neg hm, hhalf, Bool.false_and, Bool.or_false]
  rfl

/-- Two modes round to the same multiple, or both change the value. -/
theorem roundAt_modes (rm rm' : RM) (neg : Bool) (m : Nat) (e q : Int) :
    roundAt rm neg m e q = roundAt rm' neg m e q ∨ (roundAt rm neg m e q).2 = true ∧ (roundAt rm' neg m e q).2 = true := by
  unfold roundAt
  split
  · exact .inl rfl
  · unfold roundShift
    dsimp only
    split
    · exact .inl rfl
    · exact .inr ⟨rfl, rfl⟩

/-! The flags that rounding raises short of an overflow. -/

theorem nx_of_changed (c : Prop) [Decidable c] : (fNX ||| if c then fUF else 0) &&& fNX = fNX := by
  split <;> decide
theorem of_without_overflow (b c : Prop) [Decidable b] [Decidable c] :
    ((if b then fNX else 0) ||| if c then fUF else 0) &&& fOF = 0 := by
  split <;> split <;> decide

theorem nx_of_overflow : (fOF ||| fNX) &&& fNX = fNX := by decide

theorem deliver_over {t : ETy} {rm : RM} {neg : Bool} {q : Int} {r : Nat × Bool}
    (h : (cmpMag r.1 q (maxMant t) (maxExp t) == .gt) = true) :
    deliver t rm neg q r = (overflowCode t rm neg, fOF ||| fNX) := if_pos h

theorem deliver_changed (t : ETy) (rm : RM) (neg : Bool) (q : Int) {r : Nat × Bool} (hr : r.2 = true) :
    (deliver t rm neg q r).2 &&& fNX = fNX := by
  unfold deliver
  split
  · exact nx_of_overflow
  · simp only [hr, Bool.true_and]
    exact nx_of_changed _

/-- Two directed modes deliver the same, or both raise NX. -/
theorem roundF_modes {rm rm' : RM} (h : rm ≠ .rne) (h' : rm' ≠ .rne) (t : ETy) (v : Dyad) :
    roundF t rm v = roundF t rm' v ∨ (roundF t rm v).2 &&& fNX = fNX ∧ (roundF t rm' v).2 &&& fNX = fNX := by
  rcases v with _ | neg | ⟨neg, m, e⟩
  · exact .inl rfl
  · exact .inl rfl
  · by_cases hm : m = 0
    · subst hm
      exact .inl rfl
    · rw [roundF_directed h t neg hm, roundF_directed h' t neg hm]
      rcases roundAt_modes rm rm' neg m e (lastPlace t m e) with heq | ⟨hr, hr'⟩
      · rw [heq]
        by_cases hover : (cmpMag (roundAt rm' neg m e (lastPlace t m e)).1 (lastPlace t m e) (maxMant t) (maxExp t) == .gt) = true
        · exact .inr ⟨by rw [deliver_over hover]; exact nx_of_overflow, by rw [deliver_over hover]; exact nx_of_overflow⟩
        · exact .inl (by rw [deliver, deliver, if_neg hover, if_neg hover])
      · exact .inr ⟨deliver_changed _ _ _ _ hr, deliver_changed _ _ _ _ hr'⟩

theorem deliver_overflow {t : ETy} {rm : RM} {neg : Bool} {q : Int} {r : Nat × Bool} (h : (deliver t rm neg q r).2 &&& fOF ≠ 0) :
    deliver t rm neg q r = (overflowCode t rm neg, fOF ||| fNX) := by
  by_cases hover : (cmpMag r.1 q (maxMant t) (maxExp t) == .gt) = true
  · exact deliver_over hover
  · rw [deliver, if_neg hover] at h
    exact absurd (of_without_overflow _ _) h

theorem awayMode_ne (v : Dyad) : awayMode v ≠ .rne := by
  unfold awayMode
  split <;> nofun

/-- R34: away from 0 an overflow in FP32 delivers an infinity. -/
theorem roundF_away_overflow {v : Dyad} (h : (roundF .fp32 (awayMode v) v).2 &&& fOF ≠ 0) :
    ((roundF .fp32 (awayMode v) v).1 = 0x7F800000 ∨ (roundF .fp32 (awayMode v) v).1 = 0xFF800000) ∧
      (roundF .fp32 (awayMode v) v).2 = fOF ||| fNX := by
  rcases v with _ | neg | ⟨neg, m, e⟩
  · simp [roundF] at h
  · simp [roundF_inf (ty := .fp32) rfl] at h
  · by_cases hm : m = 0
    · simp [hm, roundF_zero] at h
    · rw [roundF_directed (awayMode_ne _) _ neg hm] at h ⊢
      rw [deliver_overflow h]
      refine ⟨?_, rfl⟩
      cases neg
      · exact .inl (show overflowCode .fp32 .rup false = _ by decide)
      · exact .inr (show overflowCode .fp32 .rdn true = _ by decide)

end Sys2Proof.Machine
end

section
/-! ### What the special functions deliver (R159, R160; logs 9 and 14) -/
namespace Sys2Proof.Machine

/-- Beyond rounding a special function raises IV or DZ alone. -/
theorem sfuNum_flags (k : Nat) (x : Dyad) : (sfuNum k x).2 = 0 ∨ (sfuNum k x).2 = fIV ∨ (sfuNum k x).2 = fDZ := by
  have hite {c : Prop} [Decidable c] {a b : Dyad × Fl} (ha : a.2 = 0 ∨ a.2 = fIV ∨ a.2 = fDZ) (hb : b.2 = 0 ∨ b.2 = fIV ∨ b.2 = fDZ) :
      (if c then a else b).2 = 0 ∨ (if c then a else b).2 = fIV ∨ (if c then a else b).2 = fDZ := by
    split
    · exact ha
    · exact hb
  have h0 {v : Dyad} : (v, (0 : Fl)).2 = 0 ∨ (v, (0 : Fl)).2 = fIV ∨ (v, (0 : Fl)).2 = fDZ := .inl rfl
  have hIV {v : Dyad} : (v, fIV).2 = 0 ∨ (v, fIV).2 = fIV ∨ (v, fIV).2 = fDZ := .inr (.inl rfl)
  have hDZ {v : Dyad} : (v, fDZ).2 = 0 ∨ (v, fDZ).2 = fIV ∨ (v, fDZ).2 = fDZ := .inr (.inr rfl)
  rcases x with _ | neg | ⟨neg, m, e⟩
  · exact h0
  · rcases k with _ | _ | _ | _ | _ | _ | k
    · exact h0
    · exact hite hIV h0
    · exact hite hIV h0
    · exact hite h0 h0
    · exact hite hIV h0
    · exact h0
    · exact hite h0 h0
  · rcases k with _ | _ | _ | _ | _ | _ | k
    · exact hite hDZ h0
    · exact hite hDZ (hite hIV (hite h0 h0))
    · exact hite h0 (hite hIV h0)
    · exact hite h0 h0
    · exact hite hDZ (hite hIV h0)
    · exact hite h0 h0
    · exact hite h0 h0

/-- R34, R159: a faithful result overflows to an infinity, with NX. -/
theorem sfu_fp32_overflow {k : Nat} (hk : k ≠ 2) {rm : RM} {n : Nat} {x : Dyad} (h : (sfu k .fp32 rm n x).2 &&& fOF ≠ 0) :
    ((sfu k .fp32 rm n x).1 = 0x7F800000 ∨ (sfu k .fp32 rm n x).1 = 0xFF800000) ∧ (sfu k .fp32 rm n x).2 &&& fNX ≠ 0 := by
  have hown : (sfuNum k x).2 &&& fOF = 0 := by
    rcases sfuNum_flags k x with hf | hf | hf <;> rw [hf] <;> decide
  have hor : ∀ f g : Fl, (f ||| g) &&& fOF = (f &&& fOF) ||| (g &&& fOF) := fun f g => BitVec.and_or_distrib_right ..
  rw [sfu_fp32 hk] at h ⊢
  split at h
  · next haway =>
    obtain ⟨hcode, hflags⟩ := roundF_away_overflow (by simpa [hor, hown] using h)
    have hnx : ((sfuNum k x).2 ||| (fOF ||| fNX)) &&& fNX ≠ 0 := by
      rcases sfuNum_flags k x with hf | hf | hf <;> rw [hf] <;> decide
    rw [if_pos haway]
    refine ⟨hcode, ?_⟩
    rw [hflags]
    exact hnx
  · refine absurd ?_ h
    have hnot : ~~~fOF &&& fOF = 0 := by decide
    simp [hor, hown, BitVec.and_assoc, hnot]

/-- R159: FP32 delivers one of the two neighbours, or the exact result, and NX tells which. -/
theorem sfu_fp32_faithful {k : Nat} (hk : k ≠ 2) (rm : RM) (n : Nat) (x : Dyad) :
    let v := (sfuNum k x).1
    let down := roundF .fp32 .rtz v
    ((sfu k .fp32 rm n x).1 = down.1 ∨ (sfu k .fp32 rm n x).1 = (roundF .fp32 (awayMode v) v).1) ∧
    (down.2 = 0 → sfu k .fp32 rm n x = (down.1, (sfuNum k x).2)) ∧
    (sfu k .fp32 rm n x).2 &&& fNX = ((sfuNum k x).2 ||| down.2) &&& fNX := by
  intro v down
  have hmodes : roundF .fp32 (awayMode v) v = down ∨ (roundF .fp32 (awayMode v) v).2 &&& fNX = fNX ∧ down.2 &&& fNX = fNX :=
    roundF_modes (awayMode_ne v) (by nofun) .fp32 v
  have hor : ∀ f g : Fl, (f ||| g) &&& fNX = (f &&& fNX) ||| (g &&& fNX) := fun f g => BitVec.and_or_distrib_right ..
  rw [sfu_fp32 hk]
  split
  · refine ⟨.inr rfl, fun hexact => ?_, ?_⟩
    · rcases hmodes with heq | ⟨-, hnx⟩
      · change ((roundF .fp32 (awayMode v) v).1, _ ||| (roundF .fp32 (awayMode v) v).2) = _
        simp [heq, hexact]
      · rw [hexact] at hnx
        exact absurd hnx (by decide)
    · change ((sfuNum k x).2 ||| (roundF .fp32 (awayMode v) v).2) &&& fNX = _
      rw [hor, hor]
      rcases hmodes with heq | ⟨haway, hdown⟩
      · rw [heq]
      · rw [haway, hdown]
  · refine ⟨.inl rfl, fun hexact => ?_, ?_⟩
    · change (down.1, (sfuNum k x).2 ||| (down.2 &&& ~~~fOF)) = _
      simp [hexact]
    · change ((sfuNum k x).2 ||| (down.2 &&& ~~~fOF)) &&& fNX = _
      rw [hor, hor, BitVec.and_assoc, show ~~~fOF &&& fNX = fNX by decide]

/-! Reciprocals, square roots, and the exact entries of VLOG2 and VEXP2. -/

theorem sfuNum_recip (neg : Bool) {m : Nat} (hm : 0 < m) (e : Int) :
    sfuNum 0 (.fin neg m e) = (.fin neg (divMag 1 0 m e).1 (divMag 1 0 m e).2, 0) := if_neg hm.ne'
theorem sfuNum_sqrt {m : Nat} (hm : 0 < m) (e : Int) :
    sfuNum 2 (.fin false m e) = (.fin false (sqrtMag m e).1 (sqrtMag m e).2, 0) := if_neg hm.ne'

theorem sfuNum_log2_power (l : Nat) (e : Int) : sfuNum 4 (.fin false (2 ^ l) e) = (Dyad.ofInt ((l : Int) + e), 0) := by
  have hlog : Nat.log2 (2 ^ l) = l := Nat.log2_two_pow
  show (if 2 ^ l = 0 then _ else ((if 2 ^ l = 2 ^ Nat.log2 (2 ^ l) then Dyad.ofInt ((Nat.log2 (2 ^ l) : Int) + e) else _), 0)) = _
  rw [if_neg (Nat.two_pow_pos l).ne', hlog, if_pos rfl]

theorem toFx_int (m : Nat) : toFx m 0 = m * fxOne := by
  unfold toFx fxOne
  rw [← Nat.shiftLeft_eq]
  rfl

theorem exp2Num_int (neg : Bool) {m : Nat} (hm : 0 < m) (hsmall : m < 1024) :
    exp2Num neg m 0 = .fin false 1 (if neg then -(m : Int) else m) := by
  have hlog : Nat.log2 m < 10 := (Nat.log2_lt hm.ne').mpr hsmall
  have hfx : 0 < fxOne := Nat.two_pow_pos fxN
  unfold exp2Num
  dsimp only
  rw [if_neg (by omega), if_neg (by omega), toFx_int, Nat.mul_mod_left, Nat.mul_div_cancel _ hfx, if_pos (by decide)]

theorem sfuNum_exp2_int (neg : Bool) {m : Nat} (hm : 0 < m) (hsmall : m < 1024) :
    sfuNum 3 (.fin neg m 0) = (.fin false 1 (if neg then -(m : Int) else m), 0) := by
  rw [← exp2Num_int neg hm hsmall]
  exact if_neg hm.ne'

end Sys2Proof.Machine
end

section
/-! ### VARITH and VSFU on floating lanes (R150, R151, R153, R159) -/
namespace Sys2Proof.Machine

/-- A table's operation on lane i: the exact result rounded once. -/
def floatLane (f : RM → Dyad → Dyad → Dyad × Fl) (ty : ETy) (rm : RM) (a b : RowVal) (i : Nat) : Nat × Fl :=
  finish ty rm (f rm (a.numAt ty i) (b.numAt ty i))

theorem arith2_float {ty : ETy} (hf : ty.isFloat = true) (rm : RM) (f : RM → Dyad → Dyad → Dyad × Fl) (k : Int → Int → Nat × Fl) :
    arith2 ty rm (f rm) k = floatLane f ty rm := by
  funext a b i
  exact if_pos hf

theorem exec_vecFloat {c : Hdr → V2 → Instr} {f : RM → Dyad → Dyad → Dyad × Fl} (hc : (c, f) ∈ vecFloat) (h : Hdr) {o : V2}
    (hf : o.ty.isFloat = true) (s : State) : exec (c h o) s = issue h (vec2 h o (floatLane f o.ty o.rm)) s := by
  have hof (k : Int → Int → Nat × Fl) :
      issue h (vec2 h o (arith2 o.ty o.rm (f o.rm) k)) s = issue h (vec2 h o (floatLane f o.ty o.rm)) s := by rw [arith2_float hf]
  simp only [vecFloat, List.mem_cons, Prod.mk.injEq, List.not_mem_nil, or_false] at hc
  rcases hc with ⟨rfl, rfl⟩ | ⟨rfl, rfl⟩ | ⟨rfl, rfl⟩ | ⟨rfl, rfl⟩ <;> exact hof _

theorem exec_vecFused {c : Hdr → V3 → Instr} {neg : Bool} (hc : (c, neg) ∈ vecFused) (h : Hdr) (o : V3) (s : State) :
    exec (c h o) s = issue h (vec3 h o (laneFma o.ty o.rm neg)) s := by
  simp only [vecFused, List.mem_cons, Prod.mk.injEq, List.not_mem_nil, or_false] at hc
  rcases hc with ⟨rfl, rfl⟩ | ⟨rfl, rfl⟩
  · rfl
  · rfl

theorem exec_vecSfu {c : Hdr → V1 → Instr} {k : Nat} (hc : (c, k) ∈ vecSfu) (h : Hdr) (o : V1) (s : State) :
    exec (c h o) s = issue h (vec1 h o (laneSfu k o.ty o.rm)) s := by
  simp only [vecSfu, List.mem_cons, Prod.mk.injEq, List.not_mem_nil, or_false] at hc
  rcases hc with ⟨rfl, rfl⟩ | ⟨rfl, rfl⟩ | ⟨rfl, rfl⟩ | ⟨rfl, rfl⟩ | ⟨rfl, rfl⟩ | ⟨rfl, rfl⟩ | ⟨rfl, rfl⟩ <;> rfl

/-! VMIN and VMAX. -/

theorem cmpNum_none {x y : Dyad} : cmpNum x y = none ↔ (x == .nan || y == .nan) = true := by
  rcases x with _ | a | ⟨a, m, e⟩ <;> rcases y with _ | b | ⟨b, n, f⟩ <;> simp [cmpNum]

/-- R153: the lesser, -0 below +0. -/
theorem minmaxNum_min (x y : Dyad) : minmaxNum false x y =
    if (x == .nan || y == .nan) = true then .nan
    else if (cmpNum x y == some .lt || (cmpNum x y == some .eq && x.isNeg)) = true then x else y := by
  unfold minmaxNum
  rcases hc : cmpNum x y with _ | c
  · rw [if_pos (cmpNum_none.mp hc)]
  · rw [if_neg (fun h => nomatch hc.symm.trans (cmpNum_none.mpr h))]
    cases c
    · rfl
    · cases x.isNeg <;> rfl
    · rfl
/-- R153: the greater. -/
theorem minmaxNum_max (x y : Dyad) : minmaxNum true x y =
    if (x == .nan || y == .nan) = true then .nan
    else if (cmpNum x y == some .gt || (cmpNum x y == some .eq && !x.isNeg)) = true then x else y := by
  unfold minmaxNum
  rcases hc : cmpNum x y with _ | c
  · rw [if_pos (cmpNum_none.mp hc)]
  · rw [if_neg (fun h => nomatch hc.symm.trans (cmpNum_none.mpr h))]
    cases c
    · rfl
    · cases x.isNeg <;> rfl
    · rfl

theorem laneMinMax_float {ty : ETy} (hf : ty.isFloat = true) (wantMax : Bool) (a b : RowVal) :
    laneMinMax ty wantMax a b = fun i => ((roundF ty .rne (minmaxNum wantMax (a.numAt ty i) (b.numAt ty i))).1, 0) := by
  funext i
  exact if_pos hf
theorem laneAbs_float {ty : ETy} (hf : ty.isFloat = true) (a : RowVal) :
    laneAbs ty a = fun i => (a.copyAt ty i % 2 ^ (ty.bits - 1), 0) := by
  funext i
  exact if_pos hf
theorem laneNeg_float {ty : ETy} (hf : ty.isFloat = true) (a : RowVal) :
    laneNeg ty a = fun i => ((a.copyAt ty i + 2 ^ (ty.bits - 1)) % 2 ^ ty.bits, 0) := by
  funext i
  exact if_pos hf

/-- Settles O29: the syllables are row results on the lanes of the tables; FP32 is faithful since two directed modes differ only where
both raise NX; reciprocals and roots are floors with a sticky bit, compared as rational numbers. -/
theorem vectorFloatResults : Obligations.VectorFloatResults := by
  unfold Obligations.VectorFloatResults
  refine ⟨?_, ?_, ?_, ?_, ?_, fun k rm n x hk h => sfu_fp32_overflow hk h, fun k ty rm n x h => sfu_rounds h rm n x,
    fun k rm n x hk => sfu_fp32_faithful hk rm n x, ?_⟩
  · intro c f hc h o s t a b hready hf ha hb hdone
    rw [exec_vecFloat hc h hf]
    exact issue_vec2 hready ha hb hdone
  · intro c neg hc h o s t a b x hready ha hb hx hdone
    rw [exec_vecFused hc]
    exact issue_vec3 hready ha hb hx hdone
  · intro h o s t a b hready hf ha hb done nan below above
    refine ⟨fun hdone => issue_vec2 hready ha hb ?_, fun hdone => issue_vec2 hready ha hb ?_⟩
    · simp only [laneMinMax_float hf, minmaxNum_min]
      exact hdone
    · simp only [laneMinMax_float hf, minmaxNum_max]
      exact hdone
  · intro h o s t a hready hf ha done
    refine ⟨fun hdone => issue_vec1 hready ha ?_, fun hdone => issue_vec1 hready ha ?_⟩
    · rw [laneAbs_float hf]
      exact hdone
    · rw [laneNeg_float hf]
      exact hdone
  · intro c k hc h o s t a hready ha hdone
    rw [exec_vecSfu hc]
    exact issue_vec1 hready ha hdone
  · intro m e hm near
    have hnear {neg : Bool} {y : Dyad × Fl} {cmp : Nat → Int → Ordering} {r : Nat} {x : Int} (hy : y = (.fin neg r x, 0))
        (hb : Brackets cmp r x) : near neg y cmp := by
      subst hy
      exact ⟨rfl, r, x, rfl, hb⟩
    obtain ⟨r, x, hrsqrt, hbrackets⟩ := rsqrt_brackets hm e
    refine ⟨hnear (sfuNum_sqrt hm e) (sqrtMag_brackets hm e), hnear hrsqrt hbrackets,
      fun neg => hnear (sfuNum_recip neg hm e) (divMag_brackets hm e), fun l hl => ?_,
      fun hsmall => ⟨sfuNum_exp2_int false hm hsmall, sfuNum_exp2_int true hm hsmall⟩⟩
    rw [hl, sfuNum_log2_power]

end Sys2Proof.Machine
end
